-- ==== Sys2Proof/Word.lean ====
section
/-! DEFINITION. The plain word types of the PSK-TZ3-144 and the small closed sets of names that its rules use
(spec/00_scope.md R2 to R7, spec/01_machine.md R13). Nothing here computes an effect. -/

namespace Sys2Proof

/-- A byte of memory (R205). -/
abbrev Byte := BitVec 8

/-- A 32-bit register element (R13). -/
abbrev Word := BitVec 32

/-- A 64-bit operand, address or lane mask: lane i at bit i (R6, R23, R122). -/
abbrev DWord := BitVec 64

/-- A lane mask, lane i at bit i (R2, R294). -/
abbrev LaneMask := BitVec 64

/-- Sparse data by key: strictly rising keys, no entry equal to the default of its kind. -/
abbrev SMap (α : Type) := List (Nat × α)

/-- The decode mode a code object selects (R57, R63). -/
inductive Gen where
  | n1 | n2 | n3
deriving DecidableEq, Repr

/-- The LN formats of R66. -/
inductive LnFmt where
  | ln8 | ln16 | ln32
deriving DecidableEq, Repr

/-- The compare conditions of R32. -/
inductive Cond where
  | eq | ne | lt | le
deriving DecidableEq, Repr

/-- The rounding modes of R75. -/
inductive RMode where
  | rn | rz | ru | rd | rs
deriving DecidableEq, Repr

/-- The home tier of a page (R25, R358). -/
inductive Tier where
  | gddr | granary | host
deriving DecidableEq, Repr

/-- A register of a class whose registers can be pending (R39, R385) or poisoned (R394). -/
inductive RegRef where
  | v (n : Nat)
  | s (n : Nat)
  | t (n : Nat)
  | a (n : Nat)
  | p (n : Nat)
  | tw (n : Nat)
  /-- The flag words of the group (R83). -/
  | fl
deriving DecidableEq, Repr

/-- The engines that take commands by QPUSH (R18): the copy-convert engine of a cluster (q0), the gather/scatter
engine of a cluster (q1) and the collective engine (q2). -/
inductive Engine where
  | copy (cluster : Nat)
  | gather (cluster : Nat)
  | collective
deriving DecidableEq, Repr

/-- Where an uncorrectable error strikes (R393, R394): a 32-byte sector of a memory tier, a bank word of a Loft
tile (team, index, word) or of a Barn tile (launch, cluster, index, word), a register of a group, an entry of a
partition's tables that the group in a slot reads (R108), or a unit that belongs to no group. -/
inductive ErrSite where
  | mem (tier : Tier) (sector : Nat)
  | loft (team index word : Nat)
  | barn (launch cluster index word : Nat)
  | reg (core slot : Nat) (r : RegRef)
  | table (core slot : Nat)
  | unit (link : Bool)
deriving DecidableEq, Repr

end Sys2Proof
end

