-- ==== Sys2Proof/Config.lean ====
section
/-! DEFINITION. What the module fixes (spec/00_scope.md R1, spec/01_machine.md R9 to R21) and the free values: constants
with no body, for everything the spec leaves open (log entries 2, 8 and 10). A claim about a free value holds
whatever the value is. -/

namespace Sys2Proof.Config

/-- Cores of the die (R1, R9). -/
def cores : Nat := 144
/-- Clusters of the die; the cluster of core c is c div 12 (R1). -/
def clusters : Nat := 12
/-- Group slots of a core (R10); slot 63 is the thresher slot (R11). -/
def slots : Nat := 64
/-- The thresher slot (R11). -/
def thresherSlot : Nat := 63
/-- Loft granules of a core (R20, R317). -/
def loftGranules : Nat := 4096
/-- Barn granules of a cluster (R20, R317). -/
def barnGranules : Nat := 65536
/-- Bytes of the GDDR-7 physical space (R1, R20). -/
def gddrBytes : Nat := 128 * 10 ^ 9
/-- Bytes of the Granary physical space (R1, R20). -/
def granaryBytes : Nat := 3072 * 10 ^ 9
/-- First byte of the save pool, the top 64 GB of the Granary space (R383). -/
def savePoolBase : Nat := granaryBytes - 64 * 10 ^ 9

/-- Reference ticks that pass in the n-th step: free (log entry 2, DESIGN CHOICE; R340, R343). -/
opaque ticksOf : Nat → Nat

/-- The n-th reading of monitor m (R397; log entry 10, DESIGN CHOICE). -/
opaque monitorReading : Nat → Nat → BitVec 64

/-- The device serial number of R368 (log entry 8, DESIGN CHOICE). -/
opaque serial : BitVec 128

/-- ML-DSA-65 signature by the device's identity key over the bytes (R368, R396; log entry 8, DESIGN CHOICE). -/
opaque identitySign : List Byte → List Byte

/-- The public identity key of R368 (log entry 8, DESIGN CHOICE). -/
opaque identityPublic : List Byte

/-- The X.509 chain held in flash (R368; log entry 8, DESIGN CHOICE). -/
opaque certificateChain : List Byte

/-- Whether the ML-DSA-65 signature of a firmware header verifies under the Psirek firmware key (R367; log entry 8, DESIGN CHOICE):
header bytes 0x000 to 0x02F, then the signature. -/
opaque firmwareVerifies : List Byte → List Byte → Bool

/-- The image in flash at power-on, header included (R367; log entry 8, DESIGN CHOICE). -/
opaque flashImage : List Byte

/-- The fused minimum security version of the module at power-on (R367; log entry 8, DESIGN CHOICE). -/
opaque fusedMinimum : BitVec 32

/-- Whether every core passes the power-on test that step n of the machine makes (R1, R367; log entry 8, DESIGN CHOICE). -/
opaque powerOnTestPasses : Nat → Bool

/-- The tokens above its 64 that the n-th settlement offers a cluster, given what every cluster bids: the launch queues of the teams
resident in it (R342; log entry 10, DESIGN CHOICE). -/
opaque tokenGrant : Nat → List (List Nat) → Nat → Nat

/-- The page at which the host's ATS serves an untranslated host page, with the PASID of the request if it bears one (R358; log
entry 61, DESIGN CHOICE). -/
opaque hostPage : Option Nat → Nat → Nat

end Sys2Proof.Config
end

