-- ==== Sys2Proof/Syntax.lean ====
section
/-! DEFINITION. The instructions and events of the PSK-TZ3-144: one constructor per row of spec/opcode_table.json.
A row with an encoding carries the fields of the row, as wide as the encoding makes them, with the names that
spec/opcode_table.json gives them. The switch marker M (bit 31, R30) may stand on every word and belongs to the group, not to
the instruction (R42): it stands beside the instruction, in the fetched word that State holds. So do the payloads of HNOP,
which the device ignores, and of PLACEMENT, which changes timing only (R45; log entry 14, DESIGN CHOICE). A row without an encoding is an
event of the hardware or of the host (spec/95_what_each_step_holds.md); what it strikes, and what the outside world supplies
with it, stands in the event record of State (Machine/State.lean EventArgs). -/

namespace Sys2Proof

/-- Every row of spec/opcode_table.json: rows with operands, then words without, then events. -/
inductive Instr where
  /-- IADD (R114): Adds two vector registers per active lane modulo 2^32, or with signed saturation under SAT. -/
  | iadd (d : BitVec 8) (a : BitVec 8) (b : BitVec 8)
  /-- ISUB (R114): Subtracts vb from va per active lane modulo 2^32, or with signed saturation under SAT. -/
  | isub (d : BitVec 8) (a : BitVec 8) (b : BitVec 8)
  /-- IMUL (R114): Writes the low 32 bits of the product per active lane. -/
  | imul (d : BitVec 8) (a : BitVec 8) (b : BitVec 8)
  /-- IMULH_S32 (R114): Writes the high 32 bits of the signed 64-bit product. -/
  | imulhS32 (d : BitVec 8) (a : BitVec 8) (b : BitVec 8)
  /-- IMULH_N32 (R114): Writes the high 32 bits of the unsigned 64-bit product. -/
  | imulhN32 (d : BitVec 8) (a : BitVec 8) (b : BitVec 8)
  /-- IMAD (R114): Adds va times vb to the old vd per active lane. -/
  | imad (d : BitVec 8) (a : BitVec 8) (b : BitVec 8)
  /-- IMIN_S32 (R114): Writes the signed minimum. -/
  | iminS32 (d : BitVec 8) (a : BitVec 8) (b : BitVec 8)
  /-- IMAX_S32 (R114): Writes the signed maximum. -/
  | imaxS32 (d : BitVec 8) (a : BitVec 8) (b : BitVec 8)
  /-- IMIN_N32 (R114): Writes the unsigned minimum. -/
  | iminN32 (d : BitVec 8) (a : BitVec 8) (b : BitVec 8)
  /-- IMAX_N32 (R114): Writes the unsigned maximum. -/
  | imaxN32 (d : BitVec 8) (a : BitVec 8) (b : BitVec 8)
  /-- AND (R114): Bitwise AND per active lane. -/
  | and (d : BitVec 8) (a : BitVec 8) (b : BitVec 8)
  /-- OR (R114): Bitwise OR per active lane. -/
  | or (d : BitVec 8) (a : BitVec 8) (b : BitVec 8)
  /-- XOR (R114): Bitwise XOR per active lane. -/
  | xor (d : BitVec 8) (a : BitVec 8) (b : BitVec 8)
  /-- SHL (R114): Shifts left by vb, giving 0 for counts of 32 or more. -/
  | shl (d : BitVec 8) (a : BitVec 8) (b : BitVec 8)
  /-- SHR (R114): Logical shift right by vb. -/
  | shr (d : BitVec 8) (a : BitVec 8) (b : BitVec 8)
  /-- SAR (R114): Arithmetic shift right by vb. -/
  | sar (d : BitVec 8) (a : BitVec 8) (b : BitVec 8)
  /-- IADD64 (R115): Adds even/odd register pairs modulo 2^64. -/
  | iadd64 (d : BitVec 8) (a : BitVec 8) (b : BitVec 8)
  /-- ISUB64 (R115): Subtracts even/odd register pairs modulo 2^64. -/
  | isub64 (d : BitVec 8) (a : BitVec 8) (b : BitVec 8)
  /-- BFE_S32 (R116): Extracts a sign-extended bit field under the control word in vb. -/
  | bfeS32 (d : BitVec 8) (a : BitVec 8) (b : BitVec 8)
  /-- BFE_N32 (R116): Extracts a zero-extended bit field under the control word in vb. -/
  | bfeN32 (d : BitVec 8) (a : BitVec 8) (b : BitVec 8)
  /-- BFI (R116): Inserts the low bits of va into vd at the position and width in vb. -/
  | bfi (d : BitVec 8) (a : BitVec 8) (b : BitVec 8)
  /-- IADDI (R117): Adds a sign-extended immediate, optionally extended by LIMM and saturated by SAT. -/
  | iaddi (d : BitVec 8) (a : BitVec 8) (i : BitVec 8)
  /-- ANDI (R117): ANDs a sign-extended immediate. -/
  | andi (d : BitVec 8) (a : BitVec 8) (i : BitVec 8)
  /-- ORI (R117): ORs a sign-extended immediate. -/
  | ori (d : BitVec 8) (a : BitVec 8) (i : BitVec 8)
  /-- SHLI (R117): Shifts left by a zero-extended immediate. -/
  | shli (d : BitVec 8) (a : BitVec 8) (i : BitVec 8)
  /-- SHRI (R117): Logical shift right by a zero-extended immediate. -/
  | shri (d : BitVec 8) (a : BitVec 8) (i : BitVec 8)
  /-- SARI (R117): Arithmetic shift right by a zero-extended immediate. -/
  | sari (d : BitVec 8) (a : BitVec 8) (i : BitVec 8)
  /-- MOV (R118): Copies va to vd per active lane. -/
  | mov (d : BitVec 8) (a : BitVec 8)
  /-- NOT (R118): Writes the bitwise complement of va. -/
  | not (d : BitVec 8) (a : BitVec 8)
  /-- INEG (R118): Negates va modulo 2^32, or saturating under SAT. -/
  | ineg (d : BitVec 8) (a : BitVec 8)
  /-- IABS (R118): Writes the absolute value of signed va. -/
  | iabs (d : BitVec 8) (a : BitVec 8)
  /-- POPC (R118): Counts the one bits of va. -/
  | popc (d : BitVec 8) (a : BitVec 8)
  /-- CLZ (R118): Counts the leading zero bits of va. -/
  | clz (d : BitVec 8) (a : BitVec 8)
  /-- BREV (R118): Reverses the bit order of va. -/
  | brev (d : BitVec 8) (a : BitVec 8)
  /-- SEXT_S8 (R118): Sign-extends the low byte of va. -/
  | sextS8 (d : BitVec 8) (a : BitVec 8)
  /-- SEXT_S16 (R118): Sign-extends the low half-word of va. -/
  | sextS16 (d : BitVec 8) (a : BitVec 8)
  /-- ZEXT_N8 (R118): Zero-extends the low byte of va. -/
  | zextN8 (d : BitVec 8) (a : BitVec 8)
  /-- ZEXT_N16 (R118): Zero-extends the low half-word of va. -/
  | zextN16 (d : BitVec 8) (a : BitVec 8)
  /-- MOV64 (R118): Copies an even/odd register pair. -/
  | mov64 (d : BitVec 8) (a : BitVec 8)
  /-- MOVI (R119): Writes a sign-extended 16-bit immediate, or a LIMM-extended 32-bit value, to vd. -/
  | movi (d : BitVec 8) (i : BitVec 16)
  /-- MOVHI (R119): Replaces bits [31:16] of vd with imm16. -/
  | movhi (d : BitVec 8) (i : BitVec 16)
  /-- ICMP_S32 (R120): Writes a predicate from a signed 32-bit comparison. -/
  | icmpS32 (c : BitVec 2) (p : BitVec 6) (a : BitVec 8) (b : BitVec 8)
  /-- ICMP_N32 (R120): Writes a predicate from an unsigned 32-bit comparison. -/
  | icmpN32 (c : BitVec 2) (p : BitVec 6) (a : BitVec 8) (b : BitVec 8)
  /-- PLOG (R121): Combines two predicates through a 4-bit truth table. -/
  | plog (d : BitVec 6) (a : BitVec 6) (b : BitVec 6) (t : BitVec 4)
  /-- PMV_VP (R122): Moves a predicate into a vector register. -/
  | pmvVp (d : BitVec 8) (a : BitVec 6)
  /-- PMV_PV (R122): Sets a predicate where the vector value is non-zero. -/
  | pmvPv (d : BitVec 6) (a : BitVec 8)
  /-- PMV_SP (R122): Moves all 64 predicate bits into a uniform pair. -/
  | pmvSp (d : BitVec 6) (a : BitVec 6)
  /-- PMV_PS (R122): Sets predicate lanes from a uniform pair. -/
  | pmvPs (d : BitVec 6) (a : BitVec 6)
  /-- VOTE_BALLOT (R124): Writes the mask of active lanes whose predicate is set to a uniform pair. -/
  | voteBallot (d : BitVec 6) (a : BitVec 6)
  /-- VOTE_ANY (R124): Sets a predicate if any active lane's predicate is set. -/
  | voteAny (d : BitVec 6) (a : BitVec 6)
  /-- VOTE_ALL (R124): Sets a predicate if every active lane's predicate is set. -/
  | voteAll (d : BitVec 6) (a : BitVec 6)
  /-- VOTE_UNI (R124): Sets a predicate if the predicate is uniform over active lanes. -/
  | voteUni (d : BitVec 6) (a : BitVec 6)
  /-- VOTE_ACTIVE (R124): Writes the active-lane mask to a uniform pair. -/
  | voteActive (d : BitVec 6)
  /-- VOTE_COUNT (R124): Writes the count of set ballot bits to a uniform register. -/
  | voteCount (d : BitVec 6) (a : BitVec 6)
  /-- SHFL_IDX (R125): Copies va from lane n into every active lane. -/
  | shflIdx (d : BitVec 8) (a : BitVec 8) (n : BitVec 6)
  /-- SHFL_UP (R125): Copies va from lane i - n. -/
  | shflUp (d : BitVec 8) (a : BitVec 8) (n : BitVec 6)
  /-- SHFL_DOWN (R125): Copies va from lane i + n. -/
  | shflDown (d : BitVec 8) (a : BitVec 8) (n : BitVec 6)
  /-- SHFL_XOR (R125): Copies va from lane i XOR n. -/
  | shflXor (d : BitVec 8) (a : BitVec 8) (n : BitVec 6)
  /-- SHFLV (R125): Copies va from the lane given in each lane's vb. -/
  | shflv (d : BitVec 8) (a : BitVec 8) (b : BitVec 8)
  /-- MATCH_B32 (R126): Writes the 64-bit mask of active lanes holding an equal 32-bit value. -/
  | matchB32 (d : BitVec 8) (a : BitVec 8)
  /-- MATCH_B64 (R126): Writes the mask of active lanes holding an equal 64-bit value. -/
  | matchB64 (d : BitVec 8) (a : BitVec 8)
  /-- XRED (R127): Reduces or scans va across lanes or octants on the fixed lane tree. -/
  | xred (d : BitVec 8) (a : BitVec 8) (s : Bool) (k : BitVec 2) (o : BitVec 4)
  /-- UADD (R130): Adds two uniform registers. -/
  | uadd (d : BitVec 6) (a : BitVec 6) (b : BitVec 6)
  /-- USUB (R130): Subtracts two uniform registers. -/
  | usub (d : BitVec 6) (a : BitVec 6) (b : BitVec 6)
  /-- UMUL (R130): Multiplies two uniform registers, low 32 bits. -/
  | umul (d : BitVec 6) (a : BitVec 6) (b : BitVec 6)
  /-- UMULH_S32 (R130): High 32 bits of the signed uniform product. -/
  | umulhS32 (d : BitVec 6) (a : BitVec 6) (b : BitVec 6)
  /-- UMULH_N32 (R130): High 32 bits of the unsigned uniform product. -/
  | umulhN32 (d : BitVec 6) (a : BitVec 6) (b : BitVec 6)
  /-- UAND (R130): Uniform bitwise AND. -/
  | uand (d : BitVec 6) (a : BitVec 6) (b : BitVec 6)
  /-- UOR (R130): Uniform bitwise OR. -/
  | uor (d : BitVec 6) (a : BitVec 6) (b : BitVec 6)
  /-- UXOR (R130): Uniform bitwise XOR. -/
  | uxor (d : BitVec 6) (a : BitVec 6) (b : BitVec 6)
  /-- USHL (R130): Uniform shift left. -/
  | ushl (d : BitVec 6) (a : BitVec 6) (b : BitVec 6)
  /-- USHR (R130): Uniform logical shift right. -/
  | ushr (d : BitVec 6) (a : BitVec 6) (b : BitVec 6)
  /-- USAR (R130): Uniform arithmetic shift right. -/
  | usar (d : BitVec 6) (a : BitVec 6) (b : BitVec 6)
  /-- UMIN_S32 (R130): Uniform signed minimum. -/
  | uminS32 (d : BitVec 6) (a : BitVec 6) (b : BitVec 6)
  /-- UMAX_S32 (R130): Uniform signed maximum. -/
  | umaxS32 (d : BitVec 6) (a : BitVec 6) (b : BitVec 6)
  /-- UMIN_N32 (R130): Uniform unsigned minimum. -/
  | uminN32 (d : BitVec 6) (a : BitVec 6) (b : BitVec 6)
  /-- UMAX_N32 (R130): Uniform unsigned maximum. -/
  | umaxN32 (d : BitVec 6) (a : BitVec 6) (b : BitVec 6)
  /-- UMOV (R130): Copies a uniform register. -/
  | umov (d : BitVec 6) (a : BitVec 6)
  /-- UNOT (R130): Writes the complement of a uniform register. -/
  | unot (d : BitVec 6) (a : BitVec 6)
  /-- USET_EQ (R130): Writes 1 if the uniform operands are equal. -/
  | usetEq (d : BitVec 6) (a : BitVec 6) (b : BitVec 6)
  /-- USET_NE (R130): Writes 1 if the uniform operands differ. -/
  | usetNe (d : BitVec 6) (a : BitVec 6) (b : BitVec 6)
  /-- USET_LT_S32 (R130): Writes 1 if sa is signed less than sb. -/
  | usetLtS32 (d : BitVec 6) (a : BitVec 6) (b : BitVec 6)
  /-- USET_LE_S32 (R130): Writes 1 if sa is signed at most sb. -/
  | usetLeS32 (d : BitVec 6) (a : BitVec 6) (b : BitVec 6)
  /-- USET_LT_N32 (R130): Writes 1 if sa is unsigned less than sb. -/
  | usetLtN32 (d : BitVec 6) (a : BitVec 6) (b : BitVec 6)
  /-- USET_LE_N32 (R130): Writes 1 if sa is unsigned at most sb. -/
  | usetLeN32 (d : BitVec 6) (a : BitVec 6) (b : BitVec 6)
  /-- UADD64 (R130): Adds uniform pairs modulo 2^64. -/
  | uadd64 (d : BitVec 6) (a : BitVec 6) (b : BitVec 6)
  /-- USUB64 (R130): Subtracts uniform pairs modulo 2^64. -/
  | usub64 (d : BitVec 6) (a : BitVec 6) (b : BitVec 6)
  /-- UPOPC (R130): Counts the one bits of a uniform register. -/
  | upopc (d : BitVec 6) (a : BitVec 6)
  /-- UCLZ (R130): Counts the leading zeros of a uniform register. -/
  | uclz (d : BitVec 6) (a : BitVec 6)
  /-- UMOVI (R131): Writes an immediate to a uniform register. -/
  | umovi (d : BitVec 6) (i : BitVec 16)
  /-- UADDI (R131): Adds an immediate to a uniform register. -/
  | uaddi (d : BitVec 6) (i : BitVec 16)
  /-- UMOVHI (R131): Replaces the high half of a uniform register. -/
  | umovhi (d : BitVec 6) (i : BitVec 16)
  /-- UVMOV_VS (R132): Broadcasts a uniform register into a vector register. -/
  | uvmovVs (d : BitVec 8) (a : BitVec 6)
  /-- UVMOV_SV (R132): Copies lane n of a vector register into a uniform register. -/
  | uvmovSv (d : BitVec 6) (a : BitVec 8) (n : BitVec 6)
  /-- UVMOV_FIRST (R132): Copies the lowest active lane's value into a uniform register. -/
  | uvmovFirst (d : BitVec 6) (a : BitVec 8)
  /-- LADD_LN8 (R136): Adds LN8 values through the Gaussian-logarithm unit. -/
  | laddLn8 (d : BitVec 8) (a : BitVec 8) (b : BitVec 8)
  /-- LADD_LN16 (R136): Adds LN16 values through the Gaussian-logarithm unit. -/
  | laddLn16 (d : BitVec 8) (a : BitVec 8) (b : BitVec 8)
  /-- LADD_LN32 (R136): Adds LN32 values through the Gaussian-logarithm unit. -/
  | laddLn32 (d : BitVec 8) (a : BitVec 8) (b : BitVec 8)
  /-- LSUB_LN8 (R136): Subtracts LN8 values. -/
  | lsubLn8 (d : BitVec 8) (a : BitVec 8) (b : BitVec 8)
  /-- LSUB_LN16 (R136): Subtracts LN16 values. -/
  | lsubLn16 (d : BitVec 8) (a : BitVec 8) (b : BitVec 8)
  /-- LSUB_LN32 (R136): Subtracts LN32 values. -/
  | lsubLn32 (d : BitVec 8) (a : BitVec 8) (b : BitVec 8)
  /-- LMUL_LN8 (R73): Multiplies LN8 values exactly. -/
  | lmulLn8 (d : BitVec 8) (a : BitVec 8) (b : BitVec 8)
  /-- LMUL_LN16 (R73): Multiplies LN16 values exactly. -/
  | lmulLn16 (d : BitVec 8) (a : BitVec 8) (b : BitVec 8)
  /-- LMUL_LN32 (R73): Multiplies LN32 values exactly. -/
  | lmulLn32 (d : BitVec 8) (a : BitVec 8) (b : BitVec 8)
  /-- LMAD_LN8 (R137): Fused LN8 multiply-add into the old vd, rounded once. -/
  | lmadLn8 (d : BitVec 8) (a : BitVec 8) (b : BitVec 8)
  /-- LMAD_LN16 (R137): Fused LN16 multiply-add into the old vd. -/
  | lmadLn16 (d : BitVec 8) (a : BitVec 8) (b : BitVec 8)
  /-- LMAD_LN32 (R137): Fused LN32 multiply-add into the old vd. -/
  | lmadLn32 (d : BitVec 8) (a : BitVec 8) (b : BitVec 8)
  /-- LDIV_LN16 (R73): Divides LN16 values exactly. -/
  | ldivLn16 (d : BitVec 8) (a : BitVec 8) (b : BitVec 8)
  /-- LDIV_LN32 (R73): Divides LN32 values exactly. -/
  | ldivLn32 (d : BitVec 8) (a : BitVec 8) (b : BitVec 8)
  /-- LMIN_LN16 (R138): Writes the lesser LN16 operand. -/
  | lminLn16 (d : BitVec 8) (a : BitVec 8) (b : BitVec 8)
  /-- LMIN_LN32 (R138): Writes the lesser LN32 operand. -/
  | lminLn32 (d : BitVec 8) (a : BitVec 8) (b : BitVec 8)
  /-- LMAX_LN16 (R138): Writes the greater LN16 operand. -/
  | lmaxLn16 (d : BitVec 8) (a : BitVec 8) (b : BitVec 8)
  /-- LMAX_LN32 (R138): Writes the greater LN32 operand. -/
  | lmaxLn32 (d : BitVec 8) (a : BitVec 8) (b : BitVec 8)
  /-- LPOW_LN32 (R148): Raises an LN32 base to an LN32 power. -/
  | lpowLn32 (d : BitVec 8) (a : BitVec 8) (b : BitVec 8)
  /-- LSCALE_LN16 (R136): Scales an LN16 value by 2 to an integer power. -/
  | lscaleLn16 (d : BitVec 8) (a : BitVec 8) (b : BitVec 8)
  /-- LSCALE_LN32 (R136): Scales an LN32 value by 2 to an integer power. -/
  | lscaleLn32 (d : BitVec 8) (a : BitVec 8) (b : BitVec 8)
  /-- LCMP_LN16 (R139): Writes a predicate from an LN16 comparison. -/
  | lcmpLn16 (c : BitVec 2) (p : BitVec 6) (a : BitVec 8) (b : BitVec 8)
  /-- LCMP_LN32 (R139): Writes a predicate from an LN32 comparison. -/
  | lcmpLn32 (c : BitVec 2) (p : BitVec 6) (a : BitVec 8) (b : BitVec 8)
  /-- LNEG (R73): Inverts the sign of an LN value. -/
  | lneg (d : BitVec 8) (a : BitVec 8) (f : BitVec 2)
  /-- LABS (R73): Clears the sign of an LN value. -/
  | labs (d : BitVec 8) (a : BitVec 8) (f : BitVec 2)
  /-- LRCP (R73): Writes the exact reciprocal of an LN value. -/
  | lrcp (d : BitVec 8) (a : BitVec 8) (f : BitVec 2)
  /-- LSQR (R73): Writes the exact square of an LN value. -/
  | lsqr (d : BitVec 8) (a : BitVec 8) (f : BitVec 2)
  /-- LSQRT (R141): Writes the square root, rounding one log bit. -/
  | lsqrt (d : BitVec 8) (a : BitVec 8) (f : BitVec 2)
  /-- LRSQRT (R141): Writes the reciprocal square root, rounding one log bit. -/
  | lrsqrt (d : BitVec 8) (a : BitVec 8) (f : BitVec 2)
  /-- LEXP2 (R147): Computes 2^x through the shared tables. -/
  | lexp2 (d : BitVec 8) (a : BitVec 8) (f : BitVec 2)
  /-- LLOG2 (R147): Computes log2 x through the shared tables. -/
  | llog2 (d : BitVec 8) (a : BitVec 8) (f : BitVec 2)
  /-- LEXP (R147): Computes e^x through the shared tables. -/
  | lexp (d : BitVec 8) (a : BitVec 8) (f : BitVec 2)
  /-- LSINT (R149): Computes sin 2πx through SINTAB. -/
  | lsint (d : BitVec 8) (a : BitVec 8) (f : BitVec 2)
  /-- LCOST (R149): Computes cos 2πx through SINTAB. -/
  | lcost (d : BitVec 8) (a : BitVec 8) (f : BitVec 2)
  /-- LCLASS (R142): Writes the class mask of an LN value. -/
  | lclass (d : BitVec 8) (a : BitVec 8) (f : BitVec 2)
  /-- LCVT_LN8 (R143): Converts an LN value of the source format to LN8. -/
  | lcvtLn8 (d : BitVec 8) (a : BitVec 8) (s : BitVec 2)
  /-- LCVT_LN16 (R143): Converts an LN value of the source format to LN16. -/
  | lcvtLn16 (d : BitVec 8) (a : BitVec 8) (s : BitVec 2)
  /-- LCVT_LN32 (R143): Converts an LN value of the source format to LN32. -/
  | lcvtLn32 (d : BitVec 8) (a : BitVec 8) (s : BitVec 2)
  /-- LGETL (R141): Writes the sign-extended raw log field. -/
  | lgetl (d : BitVec 8) (a : BitVec 8) (f : BitVec 2)
  /-- LMKL (R144): Builds a positive LN value from an integer log. -/
  | lmkl (d : BitVec 8) (a : BitVec 8) (f : BitVec 2)
  /-- LUNPK_0 (R144): Widens LN8 byte 0 of va exactly into the target format. -/
  | lunpk0 (d : BitVec 8) (a : BitVec 8) (f : BitVec 2)
  /-- LUNPK_1 (R144): Widens LN8 byte 1 of va exactly into the target format. -/
  | lunpk1 (d : BitVec 8) (a : BitVec 8) (f : BitVec 2)
  /-- LUNPK_2 (R144): Widens LN8 byte 2 of va exactly into the target format. -/
  | lunpk2 (d : BitVec 8) (a : BitVec 8) (f : BitVec 2)
  /-- LUNPK_3 (R144): Widens LN8 byte 3 of va exactly into the target format. -/
  | lunpk3 (d : BitVec 8) (a : BitVec 8) (f : BitVec 2)
  /-- LFIX (R151): Converts an LN value to a 32-bit fixed-point integer. -/
  | lfix (d : BitVec 8) (a : BitVec 8) (f : BitVec 2) (s : Bool) (n : BitVec 5)
  /-- LFLT (R152): Converts a 32-bit fixed-point integer to an LN value. -/
  | lflt (d : BitVec 8) (a : BitVec 8) (f : BitVec 2) (s : Bool) (n : BitVec 5)
  /-- FCVT_TO_LN (R155): Converts an IEEE value to an LN value. -/
  | fcvtToLn (d : BitVec 8) (a : BitVec 8) (l : BitVec 2) (e : BitVec 3)
  /-- FCVT_TO_IEEE (R156): Converts an LN value to an IEEE value. -/
  | fcvtToIeee (d : BitVec 8) (a : BitVec 8) (l : BitVec 2) (e : BitVec 3)
  /-- LPACK (R145): Packs two LN8 bytes under the low half of vd. -/
  | lpack (d : BitVec 8) (a : BitVec 8) (b : BitVec 8)
  /-- FLAG_GET (R157): Reads fl into a vector register. -/
  | flagGet (d : BitVec 8)
  /-- FLAG_SET (R157): ORs mask bits into fl without raising a flag. -/
  | flagSet (a : BitVec 8)
  /-- FLAG_CLR (R157): Clears mask bits of fl. -/
  | flagClr (a : BitVec 8)
  /-- FLAG_PUT (R157): Writes fl from a mask. -/
  | flagPut (a : BitVec 8)
  /-- FLAG_GOR (R157): Writes the OR of active lanes' fl to a uniform register. -/
  | flagGor (d : BitVec 6)
  /-- FLAG_TST (R157): Sets a predicate where fl meets the mask. -/
  | flagTst (d : BitVec 6) (a : BitVec 8)
  /-- LMMA (R176): Queues an LN matrix product-sum into an accumulator over 1-32 steps. -/
  | lmma (c : BitVec 3) (a : BitVec 6) (b : BitVec 6) (f : BitVec 3) (s : BitVec 5) (p : Bool)
  /-- LMMS (R177): Queues a structured-sparse LN matrix product-sum defined by its dense equivalent. -/
  | lmms (c : BitVec 3) (a : BitVec 6) (b : BitVec 6) (f : BitVec 3) (w : BitVec 3) (n : BitVec 2) (p : Bool)
  /-- IMMA (R178): Queues one bit-serial integer product step into an integer accumulator. -/
  | imma (c : BitVec 3) (a : BitVec 6) (b : BitVec 6) (n : BitVec 3) (p : Bool)
  /-- ACLR_LN32 (R181): Waits, retires flags and clears an accumulator to chain format. -/
  | aclrLn32 (c : BitVec 3)
  /-- ACLR_LN16 (R181): Waits, retires flags and clears an accumulator to narrow format. -/
  | aclrLn16 (c : BitVec 3)
  /-- ACLR_S32 (R181): Waits, retires flags and clears an accumulator to integer format with binary point F. -/
  | aclrS32 (c : BitVec 3) (f : BitVec 5)
  /-- ARD (R182): Reads an accumulator snapshot and its step count into registers. -/
  | ard (c : BitVec 3) (q : BitVec 5) (d : BitVec 6)
  /-- AWR (R183): Waits and writes accumulator elements from eight vector registers. -/
  | awr (c : BitVec 3) (q : BitVec 5)
  /-- AMOV (R184): Waits and copies one accumulator with its state to another. -/
  | amov (c : BitVec 3) (s : BitVec 3)
  /-- TLD (R185): Loads rows of a scratch step into a tile register. -/
  | tld (t : BitVec 6) (d : BitVec 6) (s : BitVec 6)
  /-- TST (R185): Stores rows of a tile register into a scratch step. -/
  | tst (t : BitVec 6) (d : BitVec 6) (s : BitVec 6)
  /-- TMOV (R185): Copies rows between tile registers. -/
  | tmov (t : BitVec 6) (u : BitVec 6)
  /-- TWSET (R186): Sets a tile precision register from a uniform register. -/
  | twset (n : BitVec 3) (b : BitVec 6)
  /-- TWGET (R186): Reads a tile precision register into a uniform register. -/
  | twget (n : BitVec 3) (b : BitVec 6)
  /-- MWAIT (R187): Waits for an accumulator's operations and retires its flags. -/
  | mwait (c : BitVec 3)
  /-- GSET (R200): Privileged write of a generator window entry for the whole context. -/
  | gset (a : BitVec 6) (g : BitVec 3)
  /-- GCFG (R201): Reads a generator window entry into eight uniform registers. -/
  | gcfg (d : BitVec 6) (g : BitVec 3)
  /-- LDG_UNIFORM_VECTOR (R228): Loads per lane from a uniform-pair base plus vector offset. -/
  | ldgUniformVector (d : BitVec 8) (a : BitVec 7) (b : BitVec 6) (z : BitVec 2)
  /-- LDG_UNIFORM (R228): Loads per lane from a uniform-pair address plus offset. -/
  | ldgUniform (d : BitVec 8) (b : BitVec 6) (z : BitVec 2)
  /-- LDG_VECTOR (R228): Loads per lane from a 64-bit vector-pair address. -/
  | ldgVector (d : BitVec 8) (a : BitVec 7) (z : BitVec 2)
  /-- STG_UNIFORM_VECTOR (R228): Stores per lane to a uniform-pair base plus vector offset. -/
  | stgUniformVector (d : BitVec 8) (a : BitVec 7) (b : BitVec 6) (z : BitVec 2)
  /-- STG_UNIFORM (R228): Stores per lane to a uniform-pair address plus offset. -/
  | stgUniform (d : BitVec 8) (b : BitVec 6) (z : BitVec 2)
  /-- STG_VECTOR (R228): Stores per lane to a 64-bit vector-pair address. -/
  | stgVector (d : BitVec 8) (a : BitVec 7) (z : BitVec 2)
  /-- LDH_VECTOR (R228): Loads per lane through a tile handle with vector byte offset. -/
  | ldhVector (d : BitVec 8) (a : BitVec 7) (b : BitVec 6) (z : BitVec 2)
  /-- LDH_OFFSET (R228): Loads per lane through a tile handle at an immediate offset. -/
  | ldhOffset (d : BitVec 8) (b : BitVec 6) (z : BitVec 2)
  /-- STH_VECTOR (R228): Stores per lane through a tile handle with vector byte offset. -/
  | sthVector (d : BitVec 8) (a : BitVec 7) (b : BitVec 6) (z : BitVec 2)
  /-- STH_OFFSET (R228): Stores per lane through a tile handle at an immediate offset. -/
  | sthOffset (d : BitVec 8) (b : BitVec 6) (z : BitVec 2)
  /-- ATOM (R232): Performs one read-modify-write per active lane in lane order and returns the observed value. -/
  | atom (d : BitVec 8) (a : BitVec 8) (o : BitVec 4) (t : BitVec 2)
  /-- RED (R234): Enters one reduction entry per passing lane into the partition's atomic buffer. -/
  | red (d : BitVec 8) (a : BitVec 8) (o : BitVec 4) (t : BitVec 2)
  /-- FENCE_X (R215): Issues a speculative fence over a set of paths. -/
  | fenceX (s : BitVec 6)
  /-- TALLOC (R239): Allocates a zeroed Loft or Barn tile and returns its handle. -/
  | talloc (d : BitVec 6) (a : BitVec 6) (l : Bool)
  /-- TFREE (R241): Waits for users of a handle and releases its storage. -/
  | tfree (a : BitVec 6)
  /-- PREF (R243): Names up to three register ranges for the fast operand buffer. -/
  | pref (d : BitVec 8) (a : BitVec 8) (b : BitVec 8)
  /-- VSPL (R245): Writes all lanes of a register as one compressed spill record. -/
  | vspl (d : BitVec 8) (b : BitVec 6) (s : Bool)
  /-- VFIL (R246): Reads a spill record back into all lanes of a register. -/
  | vfil (d : BitVec 8) (b : BitVec 6) (s : Bool)
  /-- QPUSH (R250): Pushes a 64-bit word to an engine, the thresher input or a named queue. -/
  | qpush (n : BitVec 4) (a : BitVec 6)
  /-- QPOP (R251): Pops one entry from a named queue or q4, blocking while empty. -/
  | qpop (d : BitVec 6) (n : BitVec 4)
  /-- QTRY (R251): Pops one entry without blocking and writes a status. -/
  | qtry (d : BitVec 6) (n : BitVec 4) (b : BitVec 6)
  /-- THR_GET (R281): Takes the next n bits of the block payload. -/
  | thrGet (d : BitVec 4) (n : BitVec 6)
  /-- THR_PEEK (R281): Reads the next n payload bits without advancing. -/
  | thrPeek (d : BitVec 4) (n : BitVec 6)
  /-- THR_SKIP (R281): Advances the bit position. -/
  | thrSkip (a : BitVec 4) (n : BitVec 11)
  /-- THR_BFX (R281): Extracts a bit field of a thresher register. -/
  | thrBfx (d : BitVec 4) (a : BitVec 4) (s : Bool) (w : BitVec 5) (p : BitVec 5)
  /-- THR_LUT (R281): Reads the thresher table RAM. -/
  | thrLut (d : BitVec 4) (a : BitVec 4) (k : BitVec 8)
  /-- THR_TBW (R281): Writes the thresher table RAM. -/
  | thrTbw (d : BitVec 4) (a : BitVec 4) (k : BitVec 8)
  /-- THR_REFILL (R281): Fills table RAM words from the payload. -/
  | thrRefill (a : BitVec 4) (n : BitVec 8)
  /-- THR_MOVI (R281): Writes an immediate to a thresher register. -/
  | thrMovi (d : BitVec 4) (i : BitVec 11)
  /-- THR_ADD (R281): Thresher add. -/
  | thrAdd (d : BitVec 4) (a : BitVec 4) (i : BitVec 11)
  /-- THR_SUB (R281): Thresher subtract. -/
  | thrSub (d : BitVec 4) (a : BitVec 4) (i : BitVec 11)
  /-- THR_AND (R281): Thresher AND. -/
  | thrAnd (d : BitVec 4) (a : BitVec 4) (i : BitVec 11)
  /-- THR_OR (R281): Thresher OR. -/
  | thrOr (d : BitVec 4) (a : BitVec 4) (i : BitVec 11)
  /-- THR_XOR (R281): Thresher XOR. -/
  | thrXor (d : BitVec 4) (a : BitVec 4) (i : BitVec 11)
  /-- THR_SHL (R281): Thresher shift left. -/
  | thrShl (d : BitVec 4) (a : BitVec 4) (i : BitVec 11)
  /-- THR_SHR (R281): Thresher logical shift right. -/
  | thrShr (d : BitVec 4) (a : BitVec 4) (i : BitVec 11)
  /-- THR_SAR (R281): Thresher arithmetic shift right. -/
  | thrSar (d : BitVec 4) (a : BitVec 4) (i : BitVec 11)
  /-- THR_EMIT (R281): Emits the low n bytes of a register to the output tile. -/
  | thrEmit (a : BitVec 4) (n : BitVec 3)
  /-- THR_COPY (R281): Emits a back-reference copy from the history window. -/
  | thrCopy (d : BitVec 4) (a : BitVec 4)
  /-- THR_BR (R281): Branches the thresher micro-program on a condition. -/
  | thrBr (c : BitVec 4) (a : BitVec 4) (i : BitVec 11)
  /-- QBIND_INIT (R249): Initialises named-queue storage and binds the queue register. -/
  | qbindInit (n : BitVec 4) (a : BitVec 6)
  /-- QBIND_ATTACH (R249): Binds a queue register to existing storage. -/
  | qbindAttach (n : BitVec 4) (a : BitVec 6)
  /-- QBIND_UNBIND (R249): Removes a queue binding. -/
  | qbindUnbind (n : BitVec 4)
  /-- WAITM_UNIFORM_VECTOR (R254): Reads locations and sleeps if all equal their expected values (base plus vector form). -/
  | waitmUniformVector (d : BitVec 8) (a : BitVec 7) (b : BitVec 6) (z : BitVec 2)
  /-- WAITM_UNIFORM (R254): Waits on memory at a uniform address. -/
  | waitmUniform (d : BitVec 8) (b : BitVec 6) (z : BitVec 2)
  /-- WAITM_VECTOR (R254): Waits on memory at a vector-pair address. -/
  | waitmVector (d : BitVec 8) (a : BitVec 7) (z : BitVec 2)
  /-- BRA (R324): Sends active lanes to a PC-relative target. -/
  | bra (o : BitVec 24)
  /-- BRP (R324): Sends active lanes whose predicate XOR sense holds to a target. -/
  | brp (p : BitVec 6) (s : Bool) (o : BitVec 16)
  /-- CALL (R324): Pushes a return entry and branches active lanes. -/
  | call (o : BitVec 24)
  /-- JMP (R325): Sends each active lane to its own target offset. -/
  | jmp (a : BitVec 6)
  /-- CALLI (R325): Calls each active lane's own target offset. -/
  | calli (a : BitVec 6)
  /-- SPAWN (R328): Adds one thread per active lane to a spawn bin. -/
  | spawn (a : BitVec 6) (b : BitVec 6)
  /-- BAR (R330): Arrives at a barrier of a level and slot. -/
  | bar (l : BitVec 3) (s : BitVec 5)
  /-- BARL (R332): Arrives at a combining barrier with a uniform value. -/
  | barl (d : BitVec 6) (o : BitVec 2) (l : BitVec 3) (s : BitVec 5)
  /-- TSUB (R335): Submits a TCB from device code and waits for the answer. -/
  | tsub (d : BitVec 6) (a : BitVec 6)
  /-- WID_F0 (R336): Writes work-ID field 0. -/
  | widF0 (d : BitVec 8)
  /-- WID_F1 (R336): Writes work-ID field 1. -/
  | widF1 (d : BitVec 8)
  /-- WID_F2 (R336): Writes work-ID field 2. -/
  | widF2 (d : BitVec 8)
  /-- WID_F3 (R336): Writes work-ID field 3. -/
  | widF3 (d : BitVec 8)
  /-- WID_F4 (R336): Writes work-ID field 4. -/
  | widF4 (d : BitVec 8)
  /-- WID_F5 (R336): Writes work-ID field 5. -/
  | widF5 (d : BitVec 8)
  /-- WID_ID (R336): Writes the 64-bit work ID to a pair. -/
  | widId (d : BitVec 8)
  /-- WID_KEY (R336): Writes the team key to a pair. -/
  | widKey (d : BitVec 8)
  /-- WID_EXT0 (R336): Writes the extent of field 0. -/
  | widExt0 (d : BitVec 8)
  /-- WID_EXT1 (R336): Writes the extent of field 1. -/
  | widExt1 (d : BitVec 8)
  /-- WID_EXT2 (R336): Writes the extent of field 2. -/
  | widExt2 (d : BitVec 8)
  /-- WID_EXT3 (R336): Writes the extent of field 3. -/
  | widExt3 (d : BitVec 8)
  /-- WID_EXT4 (R336): Writes the extent of field 4. -/
  | widExt4 (d : BitVec 8)
  /-- WID_EXT5 (R336): Writes the extent of field 5. -/
  | widExt5 (d : BitVec 8)
  /-- SREAD (R337): Reads a system register into uniform registers, logging time reads in record mode. -/
  | sread (d : BitVec 6) (n : BitVec 12)
  /-- SWRITE (R355): Writes a system register from uniform registers. -/
  | swrite (h : BitVec 6) (a : BitVec 6) (l : BitVec 6)
  /-- TRAP (R356): Raises a resumable software trap with code n. -/
  | trap (n : BitVec 12)
  /-- BKPT (R356): Raises a breakpoint, or saves the team with hold when BKPTCTX selects it. -/
  | bkpt (n : BitVec 12)
  /-- LIMM (R46): Extends the target's immediate or offset with 20 payload bits. -/
  | limm (i : BitVec 20)
  /-- RND (R81): Replaces the rounding mode for the target alone. -/
  | rnd (r : BitVec 3)
  /-- GUARD (R45): Sets the frontier entry's persistent guard predicate. -/
  | guard (v : Bool) (p : BitVec 6)
  /-- BPRI (R295): Sets block priorities of the target branch's successors. -/
  | bpri (f : BitVec 10) (t : BitVec 10)
  /-- MWAIT_ALL (R187): Waits for every accumulator's operations and retires all flags. -/
  | mwaitAll
  /-- ABFL (R237): Drains the group's undrained RED entries as one batch and waits for them. -/
  | abfl
  /-- THR_HALT (R281): Ends the block with status 0 and posts the q4 entry. -/
  | thrHalt
  /-- NOP (R325): Does nothing. -/
  | nop
  /-- RET (R300): Pops each active lane's return entry. -/
  | ret
  /-- EXIT (R326): Removes active lanes; an empty frontier exits the group. -/
  | exit
  /-- YIELD (R327): Makes the group not ready for 32 clocks. -/
  | yield
  /-- LOCKX (R303): Requests the extended register set, blocking if held. -/
  | lockx
  /-- UNLOCKX (R303): Discards and releases the extended set to the partner. -/
  | unlockx
  /-- TRET (R376): Ends the trap handler and reinserts the suspended entry at the resumption PC. -/
  | tret
  /-- HNOP (R45): Hint with no effect; reserved hint kinds execute as it. -/
  | hnop
  /-- SAT (R45): Makes the target use its saturating form. -/
  | sat
  /-- PLACEMENT (R45): Sets the cache placement of the target's memory accesses. -/
  | placement
  /-- VARIABLE_LATENCY_RESULT (R39): A variable-latency result arrives and is written; a parked group with nothing outstanding resumes. -/
  | variableLatencyResult
  /-- FENCE_COMPLETION (R216): A fence completes and its held stores and atomics are performed in issue order. -/
  | fenceCompletion
  /-- FENCE_ROLLBACK (R217): A write to a watched unit inside a fence window rolls the group back to the fence. -/
  | fenceRollback
  /-- TILE_ENGINE_PASS (R167): The tile engine runs one pass of one k-step for up to eight octant operations. -/
  | tileEnginePass
  /-- QUEUE_UNBLOCK (R253): A blocked QPUSH or QPOP re-examines its storage after a header write and completes. -/
  | queueUnblock
  /-- MONITOR_WAKE (R255): A write to a line whose hash bits are set, or a host snoop, wakes a sleeping WAITM group. -/
  | monitorWake
  /-- WAITM_TIMEOUT (R255): A group asleep for 1,048,576 ticks wakes. -/
  | waitmTimeout
  /-- BARRIER_RELEASE (R332): A complete barrier instance drains REDs, combines BARL values and advances generations. -/
  | barrierRelease
  /-- CLUSTER_DEPARTURE (R333): After each slew window the next cluster's participants depart a multi-cluster release. -/
  | clusterDeparture
  /-- EXTENDED_SET_LENDING (R304): After 4,096 stalled clocks the holder's set is saved and lent to the blocked partner. -/
  | extendedSetLending
  /-- AGED_ISSUE (R298): When the aging count reaches 4,096 the second frontier entry issues. -/
  | agedIssue
  /-- YIELD_EXPIRY (R327): The 32 clocks of a YIELD end and the group may be ready again. -/
  | yieldExpiry
  /-- BIN_TIMER_EXPIRY (R291): A spawn bin's timer expires after SPAWNT ticks and the bin closes into a pending group. -/
  | binTimerExpiry
  /-- SPAWNED_GROUP_START (R292): A pending group from the spawn queue starts in a freed slot. -/
  | spawnedGroupStart
  /-- WATCHDOG_FAULT (R339): A team's watchdog count reaches WDLIM × 2^20 and every group takes a watchdog fault. -/
  | watchdogFault
  /-- QUEUE_DEADLOCK (R341): Every group of a team blocked on Loft named queues with no work in progress takes a queue-deadlock fault. -/
  | queueDeadlock
  /-- COPY_OR_CONVERT (R267): The copy-convert engine copies or converts elements between formats. -/
  | copyOrConvert
  /-- EXPAND (R272): The copy-convert engine expands Bale blocks into logical bytes. -/
  | expand
  /-- GATHER (R274): The gather/scatter engine gathers indexed elements. -/
  | gather
  /-- SCATTER (R274): The gather/scatter engine scatters elements to indexed locations. -/
  | scatter
  /-- SCATTER_ADD (R274): The gather/scatter engine adds elements atomically at indexed locations. -/
  | scatterAdd
  /-- ALL_REDUCE (R276): The collective engine reduces across ranks in fixed ring order and gives every rank the result. -/
  | allReduce
  /-- REDUCE_SCATTER (R276): The collective engine reduces and scatters chunks to ranks. -/
  | reduceScatter
  /-- ALL_GATHER (R275): The collective engine gathers every rank's data to every rank. -/
  | allGather
  /-- BROADCAST (R275): The collective engine copies the root rank's data to every rank. -/
  | broadcast
  /-- LINK_ERROR (R277): A peer-link failure during a collective gives status 6. -/
  | linkError
  /-- THRESHER_INPUT_TAKE (R278): The thresher takes the oldest eligible input, allocates its tile and starts the block. -/
  | thresherInputTake
  /-- THRESHER_STEP_LIMIT (R280): A block exceeding 1,048,576 words ends with status 8. -/
  | thresherStepLimit
  /-- SUBMIT (R311): A host write of a TCB address to SUBMIT accepts or refuses a task. -/
  | submit
  /-- PSUBMIT (R344): A host privileged submission of a TCB whose launch runs in the privileged view. -/
  | psubmit
  /-- ADMISSION (R316): The launch processor checks a queue head, grants leases and admits or refuses the task. -/
  | admission
  /-- DISPATCH_STEP (R317): The launch processor places the next team of each admitted launch, or a saved team, on a fitting core. -/
  | dispatchStep
  /-- TEAM_RETIREMENT (R214): A team whose groups have exited and whose work has completed retires and releases its Loft. -/
  | teamRetirement
  /-- LAUNCH_RETIREMENT (R312): A launch retires: signature, releases, TCB state 3 and successor decrements. -/
  | launchRetirement
  /-- PREEMPT_CHOSEN (R378): A pre-emption request with method 0 chooses drain, save or flush by latency and cost. -/
  | preemptChosen
  /-- PREEMPT_SAVE (R379): A pre-emption request saves every resident team of the launch. -/
  | preemptSave
  /-- PREEMPT_DRAIN (R381): A pre-emption request stops placement and lets resident teams retire. -/
  | preemptDrain
  /-- PREEMPT_FLUSH (R382): A pre-emption request ends resident teams to restart them, or ends a replay. -/
  | preemptFlush
  /-- PRERESUME (R413): A write of a TCB address releases that launch's hold. -/
  | preresume
  /-- ATS_INVALIDATION_REQUEST (R362): A host ATS Invalidation Request is answered, revoking any lease it covers. -/
  | atsInvalidationRequest
  /-- LEASE_REGRANT (R362): A revoked launch at its queue head is granted its lease again and its teams resume. -/
  | leaseRegrant
  /-- XLINV (R359): A write of XLINV drops cached translations and completes after revocations. -/
  | xlinv
  /-- PATCH (R365): A write of PATCHCTL starts a patch that rewrites program text in use. -/
  | patch
  /-- CTXSTATE_ACTIVATE (R348): A write of 1 to CTXSTATE activates a free context after its checks. -/
  | ctxstateActivate
  /-- CTXSTATE_FREE (R348): A write of 0 to CTXSTATE frees an idle context and scrubs it. -/
  | ctxstateFree
  /-- COMM_WRITE (R353): A write to a communicator register waits for q2 commands that name it. -/
  | commWrite
  /-- RANGE_REGISTER_WRITE (R351): A write to a range register word, checked for kind, overlap and pinning. -/
  | rangeRegisterWrite
  /-- SUBSTAT_CLEAR (R349): A write to SUBSTAT clears the last refused submission. -/
  | substatClear
  /-- MGERR_CLEAR (R347): A host write to MGERR clears it. -/
  | mgerrClear
  /-- ERRCNT_CLEAR (R347): A host write to ERRCNT clears a unit's corrected-error count. -/
  | errcntClear
  /-- REGISTER_WRITE (R346): A write to a register with no row of its own, discarded and recorded in MGERR when forbidden. -/
  | registerWrite
  /-- FIRMWARE_INSTALL (R347): FWCTL 1 fetches, verifies and installs a firmware image, then restarts. -/
  | firmwareInstall
  /-- FUSE_RAISE (R367): FWCTL 2 raises the fused minimum to the running image's security version. -/
  | fuseRaise
  /-- ATTESTATION_REPORT (R368): ATTCTL 1 writes a signed attestation report. -/
  | attestationReport
  /-- CERTIFICATE_CHAIN (R368): ATTCTL 2 writes the identity certificate chain. -/
  | certificateChain
  /-- CHECKPOINT (R395): CKPTCTL 1 saves every team and writes the module image over the listed links. -/
  | checkpoint
  /-- CHECKPOINT_RESTORE (R396): CKPTCTL 2 restores an image from the list after checking every digest. -/
  | checkpointRestore
  /-- BAR4_ACCESS (R346): A host access through BAR4 to intermediate addresses of the WINCTX context. -/
  | bar4Access
  /-- POWER_ON (R367): The boot ROM verifies and loads firmware, derives the identity key and tests every core. -/
  | powerOn
  /-- TIMING_ERROR_REPLAY (R386): A shadow latch sees a late transition and the work is executed again without new effects. -/
  | timingErrorReplay
  /-- CORRECTED_ERROR (R393): SECDED corrects an error and the unit's counter increments. -/
  | correctedError
  /-- UNCORRECTABLE_ERROR (R394): An uncorrectable error poisons its data or register. -/
  | uncorrectableError
  /-- SCRUB (R393): The background scrubber reads and rewrites corrected sectors of GDDR-7 and the Granary. -/
  | scrub
  /-- POWER_TOKEN_BID (R342): Every 10,000 ticks clusters bid for power tokens and monitors update. -/
  | powerTokenBid
  /-- DROOP (R342): The droop detector stretches the cluster clock. -/
  | droop
  /-- THERMAL_THROTTLE (R397): At 100 °C a cluster's grant falls to 64 tokens until it cools below 95 °C. -/
  | thermalThrottle
  /-- THERMAL_SHUTDOWN (R397): At 110 °C the module stops every clock and reports through PCIe AER. -/
  | thermalShutdown
  /-- UNASSIGNED_MAJOR (R48): A fetched word whose major opcode is unassigned in the current decode mode raises an illegal-instruction fault for the group. -/
  | unassignedMajor
  /-- DEVICE_RESET (R347): A device reset sets every BAR0 device register to 0 and restarts the reference timer from 0. -/
  | deviceReset
deriving DecidableEq, Repr

end Sys2Proof
end

