-- ==== Sys2Proof/Machine/State.lean ====
section
/-! DEFINITION. The state of the PSK-TZ3-144, all of it plain data: groups, teams, launches, contexts, cores, memories, engines,
the host's registers, and the few fields that are the model's own (agenda, event, issuer, fetched, stalled, turn, freeIx).
Collections that are mostly at their reset value are sparse maps (SMap, Word.lean): a key that is not listed holds the
default its reader names. -/

namespace Sys2Proof.Machine

/-- A frontier entry (R294). The guard is coded as R306 codes it: [5:0] predicate or 63 for none, [6] invert. -/
structure Entry where
  prio : BitVec 16
  pc : BitVec 32
  mask : LaneMask
  guard : BitVec 7
deriving DecidableEq, Repr

/-- A return-stack entry (R300, R306). -/
structure Return where
  pc : BitVec 32
  prio : BitVec 16
deriving DecidableEq, Repr

/-- The hints that the issuing entry has issued for its next target (R43, R45): how many hint words, and the last of each
kind. -/
structure Run where
  count : Nat := 0
  limm : Option (BitVec 20) := none
  rnd : Option (BitVec 3) := none
  sat : Bool := false
  bpri : Option (BitVec 20) := none
deriving DecidableEq, Repr

/-- What a fence rollback restores (R217): every register class but the accumulators, fl, SSEQ, the frontier, the return
stacks and the pending set. v(n) of lane i is held at key 64 n + i, the extended set included. -/
structure Arch where
  v : SMap Word := []
  s : SMap Word := []
  p : SMap LaneMask := []
  fl : SMap (BitVec 16) := []
  /-- Byte b of t(n) at key 2048 n + b (R159). -/
  t : SMap Byte := []
  tw : SMap Word := []
  sseq : Word := 0
  frontier : List Entry := []
  aging : Nat := 0
  /-- The next run is issued by the second entry (R298). -/
  aged : Bool := false
  run : Run := {}
  /-- Return stack of lane i, newest first (R300). -/
  returns : SMap (List Return) := []
  pending : List RegRef := []
  /-- Tile registers that hold poisoned data (R411). -/
  tPoison : List Nat := []
deriving DecidableEq, Repr

/-- Accumulator formats (R87, R160). -/
inductive AccFmt where
  | none | chain | narrow | integer
deriving DecidableEq, Repr

/-- An accumulator (R160): element (i, c) at key 8 i + c. -/
structure Acc where
  fmt : AccFmt := .none
  f : BitVec 5 := 0
  steps : Word := 0
  flags : SMap (BitVec 9) := []
  elems : SMap Word := []
  poison : Bool := false
deriving DecidableEq, Repr

/-- A matrix operand (R36, R162): a tile register, or a scratch operand with its descriptor as read at issue. -/
inductive MatrixSource where
  | tile (n : Nat)
  | scratch (desc : BitVec 64)
deriving DecidableEq, Repr

/-- What a matrix operation computes (R176 to R178): LMMA in a format, with the byte selects of LB8 scales; LMMS in a format
with N of 16, 32 or 64; IMMA. -/
inductive MatrixKind where
  | lmma (fmt : Nat) (sa sb : Nat)
  | lmms (fmt : Nat) (n : Nat)
  | imma
deriving DecidableEq, Repr

/-- An operation in the matrix queue (R165): the accumulator, the operands, the active mask, tw, the values of the lanes of
the scale or metadata registers at issue (log entry 106, DESIGN CHOICE), the rounding state, and the steps done and asked for. -/
structure MatrixOp where
  id : Nat
  acc : Nat
  kind : MatrixKind
  a : MatrixSource
  b : MatrixSource
  pb : Bool
  mask : LaneMask
  tw : Word := 0
  side : List Word := []
  mode : BitVec 3 := 0
  amr : Word := 0
  sseq : Word := 0
  wordIx : Nat := 0
  /-- The word and its LIMM payload (R385). -/
  word : Word := 0
  limm : Word := 0
  /-- A scale or metadata register is an extended one (R303). -/
  ext : Bool := false
  done : Nat := 0
  total : Nat
deriving DecidableEq, Repr

/-- Where an access goes: a byte of a memory tier, of a tile, or of a generator window (R205). -/
inductive Place where
  | mem (tier : Tier) (addr : Nat) (ia : Nat)
  | loft (team index off : Nat)
  | barn (launch cluster index off : Nat)
  | window (ctx g off : Nat)
deriving DecidableEq, Repr

/-- A read-modify-write operation with its width in bytes and operands (R230): op 1 compares with cmp. -/
structure Rmw where
  op : Nat
  width : Nat
  operand : BitVec 64
  cmp : BitVec 64
  lane : Nat
deriving DecidableEq, Repr

/-- A variable-latency result that has not been written yet (R39): the vector cells, uniform registers and tile bytes it
writes, the ATOM flags it brings (R233), and for an ARD the accumulator row still to be read (R182). -/
structure VarResult where
  v : List (Nat × Word) := []
  s : List (Nat × Word) := []
  t : List (Nat × Byte) := []
  flags : List (Nat × BitVec 9) := []
  /-- An ARD that the engine has not served: accumulator, q, uniform register, active mask (R182). -/
  ard : Option (Nat × Nat × Nat × LaneMask) := none
  /-- The tile register written, whether its data was poisoned and whether all 64 rows were written (R411). -/
  tile : Option (Nat × Bool × Bool) := none
  /-- Issued past an incomplete fence, so that a rollback discards it (R217). -/
  spec : Bool := false
  /-- Held past a fence: an ATOM whose access has not been performed (R216). -/
  held : Bool := false
  /-- An ATOM's, which takes an entry of the replay cache (R387). -/
  atom : Bool := false
  /-- Registers that it leaves in error: those of an ARD whose accumulator has become poisoned (R411). -/
  bad : List RegRef := []
deriving DecidableEq, Repr

/-- An engine command's failure (R260): its status and its failing address. -/
structure Failure where
  status : Nat
  addr : BitVec 64
deriving DecidableEq, Repr

/-- A tracked token register (R19, R258): its number, the command, the lanes active at the push (R259), the run of the QPUSH
(R412) and, once the engine has written it, the token word and the failure if any. -/
structure Token where
  reg : Nat
  cmd : Nat
  lanes : LaneMask
  pc : BitVec 32
  word : Word
  result : Option (Word × Option Failure) := none
  /-- Agent tag of the push (R388). -/
  tag : BitVec 64 := 0
  /-- The core on which the group pushed (R412). -/
  core : Nat := 0
deriving DecidableEq, Repr

/-- An undrained RED entry (R234). -/
structure RedEntry where
  core : Nat
  team : Nat
  place : Place
  addr : BitVec 64
  op : Nat
  type : Nat
  operand : BitVec 64
  lane : Nat
  issue : Nat
  tag : BitVec 64
  /-- Its batch has made the choice for its location (R236). -/
  chosen : Bool := false
deriving DecidableEq, Repr

/-- A store or atomic held past a fence (R216). -/
inductive HeldAccess where
  | store (p : Place) (lane : Nat) (bytes : List Byte) (tag : BitVec 64)
  | atom (p : Place) (r : Rmw) (dest : Nat) (tag : BitVec 64)
deriving DecidableEq, Repr

/-- A watched unit (R217): a 128-byte line of a tier, or a 256-byte granule of a tile. -/
inductive Unit128 where
  | line (tier : Tier) (n : Nat)
  | loft (team index granule : Nat)
  | barn (launch cluster index granule : Nat)
deriving DecidableEq, Repr

/-- A unit that a lane read speculatively (R217), with the positions of the held stores whose bytes the read returned, and how many
accesses were held when it read. Lane 64 stands for an access of the whole group. -/
structure Watch where
  unit : Unit128
  lane : Nat
  forwarded : List Nat := []
  behind : Nat := 0
deriving DecidableEq, Repr

/-- A fault to be taken (R372): class, code, lane mask, address, the faulting lanes with their class and address, the run,
whether the target took effect in some lane, whether asynchronous work raised it, the resumption point (none: where the
lanes stand), and the mask of the entry that faults. -/
structure Trap where
  cls : Nat
  code : Nat := 0
  mask : LaneMask := 0
  addr : BitVec 64 := 0
  addrs : List (Nat × Nat × BitVec 64) := []
  pc : BitVec 32
  word : Word
  took : Bool := false
  async : Bool := false
  resume : Option (BitVec 32) := none
  entry : LaneMask
  /-- Raised while the handler runs: it is taken there and not kept until TRET (R260, R370). -/
  inner : Bool := false
deriving DecidableEq, Repr

/-- An incomplete fence whose set names T (R215 to R218): the commands, operations and inputs it waits for by number, the state
of the group when it issued, its word, what is held past it and watched, the words issued past it and the rollbacks so far. -/
structure FenceWin where
  set : BitVec 6
  waits : List Nat
  snapshot : Arch
  word : Word
  tokens : List Token := []
  /-- The ATOM flags held when the fence issued (R217, R233). -/
  heldFlags : List (Nat × BitVec 9) := []
  /-- The faults waiting to be taken and the registers in error when the fence issued (R217). -/
  after : List Trap := []
  bad : List RegRef := []
  held : List HeldAccess := []
  watched : List Watch := []
  issued : Nat := 0
  rollbacks : Nat := 0
  rollbackDue : Bool := false
  /-- Replay: the fence is complete and some held accesses have been performed, so that nothing rolls back any more; and what the ATOM at
  the head of the others has brought so far (R391; log entry 134, DESIGN CHOICE). -/
  completing : Bool := false
  part : Option VarResult := none
deriving DecidableEq, Repr

/-- Replay: an ATOM of which the locations whose turn has come are performed (R391; log entry 134, DESIGN CHOICE): the lanes that are left,
what the others have brought, and the lanes that failed their checks. -/
structure BegunAtom where
  left : List (Place × Rmw)
  v : List (Nat × Word) := []
  flags : List (Nat × BitVec 9) := []
  fails : List (Nat × Nat × BitVec 64) := []
  /-- Some lane passed its checks. -/
  took : Bool := false
deriving DecidableEq, Repr

/-- An element of a scatter-add (R274): its source bytes, whether they are poisoned, and where it goes. -/
structure ScatterElement where
  bytes : List Byte
  bad : Bool
  place : Place
deriving DecidableEq, Repr

/-- Replay: a scatter-add of which the locations whose turn has come are performed (R391; log entry 134, DESIGN CHOICE): the elements that
are left, the flags raised and whether poison was written so far. -/
structure ScatterWork where
  left : List ScatterElement
  flags : BitVec 9 := 0
  bad : Bool := false
deriving DecidableEq, Repr

/-- An incomplete fence whose set does not name T (R215, R216): its set, the numbers of what it waits for, and the number that the device
gave out next when it issued, so that work of a number from there on has issued past it. -/
structure SoftFence where
  set : BitVec 6
  waits : List Nat
  next : Nat := 0
deriving DecidableEq, Repr

/-- Why a group issues nothing (R308). -/
inductive Wait where
  | none
  /-- Parked until its results have been written (R39): the run address, the word and the mask of the marked word's entry,
  for a trap (R233). -/
  | parked (pc : BitVec 32) (word : Word) (mask : LaneMask)
  /-- Blocked at a QPUSH or QPOP (R250, R251, R253). -/
  | queue (push : Bool) (n : Nat) (reg : Nat)
  | barrier (slot : Nat)
  /-- Released, but its cluster departs in a later slew window (R333). -/
  | departing (slot : Nat)
  /-- Asleep in WAITM: the armed lines, when it slept, and the tags of the writes that may wake it, the first one first (R254, R255). -/
  | waitm (lines : List Unit128) (since : BitVec 64) (due : List (BitVec 64))
  | lockx
  | yield
  /-- Its last lanes stand at an EXIT that waits or drains (R326). -/
  | exiting
  /-- At a BKPT that saves its team (R377). -/
  | halting
  /-- Its record of a fault that ends its task is written; other groups of its team have still to write theirs (R370, R373). -/
  | faulted
deriving DecidableEq, Repr

/-- The extended set as its group sees it (R303). -/
inductive XSet where
  | none | held | lent
deriving DecidableEq, Repr

/-- The trap state of a group in its handler (R374). -/
structure Handler where
  suspended : Entry
  frozen : List Entry
  shadow : List Word
  /-- The registers among s56 to s63 whose values in the shadow are in error (R394). -/
  bad : List RegRef := []
deriving DecidableEq, Repr

/-- A group in its slot. -/
structure Group where
  core : Nat
  slot : Nat
  team : Nat
  index : Nat
  /-- Lanes that were live at start (R287, R288). -/
  live : LaneMask
  /-- Work IDs of a spawned group's lanes (R328); a launched group's are computed (R284). -/
  ids : List (BitVec 64) := []
  homeCore : Nat
  startNumber : Nat
  arch : Arch
  accs : SMap Acc := []
  matrix : List MatrixOp := []
  tokens : List Token := []
  reds : List RedEntry := []
  /-- Entries of batches already formed and not yet performed (R221, R236). -/
  batch : List RedEntry := []
  outstanding : List VarResult := []
  /-- ATOM flags held until the park that empties the pending set (R233). -/
  heldFlags : List (Nat × BitVec 9) := []
  wait : Wait := .none
  /-- The word at which the group waits, its marker included (R253, R330, R412). -/
  waitWord : Word := 0
  /-- Faults to take before the group issues anything further (R233, R260). -/
  after : List Trap := []
  fence : Option FenceWin := none
  /-- Incomplete fences whose sets do not name T (R215, R216). -/
  soft : List SoftFence := []
  handler : Option Handler := none
  xset : XSet := .none
  /-- A lender's own values, by the keys of Arch.v (R304). -/
  lentSave : SMap Word := []
  /-- Registers of the last PREF: first registers and lengths (R243, R385). -/
  pref : List (BitVec 8 × BitVec 6) := []
  /-- Request sequence (R387). -/
  request : Word := 0
  /-- RED instructions and their entries issued so far, for the order of R220. -/
  redCount : Nat := 0
  /-- RED instructions with an entry since the group's own last full drain (R235). -/
  redQuota : Nat := 0
  /-- Registers with an uncorrectable error (R394). -/
  bad : List RegRef := []
  /-- Replay: the ATOM at which the group stands, if it has begun (R391). -/
  begun : Option BegunAtom := none
deriving DecidableEq, Repr

/-- A tile in the tile table (R21, R239), its bytes and its poisoned 16-byte words (R394). -/
structure Tile where
  index : Nat
  granules : Nat
  shape : Word
  ctx : Nat
  bytes : SMap Byte := []
  poison : List Nat := []
deriving DecidableEq, Repr

/-- A named-queue binding (R249). -/
structure Binding where
  q : Nat
  handle : BitVec 16
  capacity : Nat
deriving DecidableEq, Repr

/-- A team's state for one barrier slot (R330, R331): its generation, and who has arrived at the current one with what. -/
structure Barrier where
  slot : Nat
  generation : Word := 0
  /-- Group index, BARL or not, level, op, s(d) register. -/
  arrived : List (Nat × Bool × Nat × Nat × Nat) := []
deriving DecidableEq, Repr

/-- An entry of the thresher's input queue (R278). -/
structure ThrInput where
  team : Nat
  group : Nat
  word : BitVec 64
  id : Nat
  /-- Agent tag of the QPUSH (R388). -/
  tag : BitVec 64
deriving DecidableEq, Repr

/-- An unpopped q4 entry (R278, R279). -/
structure ThrResult where
  team : Nat
  group : Nat
  entry : BitVec 64
deriving DecidableEq, Repr

/-- A block in progress (R280, R282, R384). -/
structure ThrBlock where
  input : ThrInput
  pc : Nat
  bit : Nat
  steps : Nat
  tile : Nat
  h : SMap Word := []
  table : SMap Word := []
  /-- The last 256 emitted bytes, newest first. -/
  history : List Byte := []
  emitted : Nat := 0
  /-- Payload address and stored sectors of the header (R271). -/
  payload : BitVec 64
  sectors : Nat
  /-- Number and bytes of the current source sector. -/
  sector : Option (Nat × List Byte) := none
  limm : Option (BitVec 20) := none
  /-- Hint words since the last word that is none: the run that a pause issues again (R384). -/
  hints : Nat := 0
deriving DecidableEq, Repr

/-- Where a team is. -/
inductive TeamPlace where
  | resident
  /-- Saved: its groups, its thresher state, its place in the save pool (R379, R383). -/
  | saved (groups : List Group) (block : Option ThrBlock) (inputs : List ThrInput) (results : List ThrResult) (area : Nat)
deriving DecidableEq, Repr

/-- A team (R285, R292). -/
structure Team where
  id : Nat
  launch : Nat
  key : BitVec 64
  core : Nat
  spawned : Bool
  /-- A spawned team's entry and threads, with which it starts, and starts afresh after a flush (R288, R382). -/
  entry : BitVec 32 := 0
  threads : List (BitVec 64) := []
  /-- Slot of each group, in group order. -/
  slots : List Nat
  /-- Group indices that have exited (R326). -/
  exited : List Nat := []
  loft : List Tile := []
  queues : List Binding := []
  barriers : List Barrier := []
  watchdog : BitVec 64 := 0
  place : TeamPlace := .resident
  /-- Saved with hold: it stays saved until released (R413). -/
  hold : Bool := false
  /-- Failures of commands whose token was never read, taken at retirement (R260). -/
  unread : List (Token × Nat × Nat × Nat) := []
  /-- Its groups stop at a run boundary: a save of the team is due (R377, R379). -/
  stopping : Bool := false
  /-- Agent tags of groups that have exited while work of theirs was still to be done (R391). -/
  lateTags : List (BitVec 64) := []
deriving DecidableEq, Repr

/-- A kernel header (R57). -/
structure KernelHeader where
  raw : List Byte
  gen : Gen
  detCapable : Bool
  restartable : Bool
  entry : BitVec 32
  trap : BitVec 32
  codeSize : Nat
  regs : Nat
  tiles : Nat
  accs : Nat
  groups : Nat
  loft : Nat
  barriers : Nat
  barn : Nat
  tlm : Nat
  errata : List Nat
deriving DecidableEq, Repr

/-- A launch header (R58). -/
structure LaunchHeader where
  raw : List Byte
  mode : Nat
  coresident : Bool
  queue : Nat
  kernel : BitVec 64
  widths : List Nat
  extents : List Nat
  amr : Word
  bound : Nat
  leases : List (BitVec 64 × Nat)
  logBase : BitVec 64
  logPages : Nat
  tracePages : Nat
  traceBase : BitVec 64
  genBase : BitVec 64
  genCount : Nat
deriving DecidableEq, Repr

/-- An order-log entry (R388). -/
structure LogEntry where
  kind : Nat
  unit : Nat
  check : Word
  chosen : BitVec 64
  used : Bool := false
deriving DecidableEq, Repr

/-- A task in a launch queue (R311, R314). -/
structure Task where
  ctx : Nat
  tcb : BitVec 64
  privileged : Bool
deriving DecidableEq, Repr

/-- An admitted launch. -/
structure Launch where
  id : Nat
  ctx : Nat
  tcb : BitVec 64
  /-- Virtual address of the launch header. -/
  header : BitVec 64
  privileged : Bool
  kh : KernelHeader
  lh : LaunchHeader
  /-- The generator windows at admission, 64 words (R88). -/
  windows : List Word
  k0 : Word
  k1 : Word
  /-- Team keys still to be placed, ascending (R317). -/
  unplaced : List Nat
  /-- Replay: trace entries still to be placed: key, core, slots (R321). -/
  trace : List (Nat × Nat × List Nat) := []
  traced : Nat := 0
  /-- The dispatch trace as written or read (R88). -/
  traceBytes : List Byte := []
  /-- Record: entries written. Replay: entries read at admission, each marked when consumed (R388, R391). -/
  log : List LogEntry := []
  overflowed : Bool := false
  flushed : Bool := false
  /-- A group has executed SPAWN, so that spawned groups may compete (R240, R292). -/
  spawns : Bool := false
  /-- Barn granules are taken on these clusters (R317); tiles with their cluster (R21). -/
  clusters : List Nat := []
  barn : List (Nat × Tile) := []
  /-- Drain in progress; placement held until PRERESUME (R381, R413). -/
  draining : Bool := false
  held : Bool := false
  /-- Leases that are revoked, by their places in leaseRegions: the launch waits for a new grant (R362). -/
  revoked : List Nat := []
  /-- Leases that are being revoked: the launch's teams have stopped issuing (R362). -/
  revoking : List Nat := []
  /-- TEAMTIME of retired teams, sum and count (R378). -/
  retiredTime : Nat := 0
  retiredTeams : Nat := 0
  /-- Groups started per core and slot (R388). -/
  starts : List (Nat × Nat × Nat) := []
  /-- The fault area, its counters, and the records raised (R373). -/
  faultBase : BitVec 64 := 0
  faultBytes : Nat := 0
  records : Nat := 0
  slotsUsed : Nat := 0
  recordsLost : Nat := 0
  addressesLost : Nat := 0
  /-- The launch has started dispatch, for R318 and R413. -/
  dispatched : Bool := false
deriving DecidableEq, Repr

/-- A spawn bin that is open (R289). Its number is loose in replay when no order-log entry has named it yet (R293, R389 kind 2). -/
structure Bin where
  number : Nat
  launch : Nat
  entry : BitVec 32
  threads : List (BitVec 64)
  opened : BitVec 64
  order : Nat
  loose : Bool := false
deriving DecidableEq, Repr

/-- A pending group of the spawn queue (R291). -/
structure PendingGroup where
  launch : Nat
  entry : BitVec 32
  threads : List (BitVec 64)
deriving DecidableEq, Repr

/-- A core. -/
structure Core where
  bins : List Bin := []
  spawnQueue : List PendingGroup := []
  /-- Round-robin pointer of each partition (R308). -/
  pointers : SMap Nat := []
  inputs : List ThrInput := []
  resuming : List ThrBlock := []
  block : Option ThrBlock := none
  results : List ThrResult := []
  binOrder : Nat := 0
deriving DecidableEq, Repr

/-- A patch in progress (R365): the virtual address of its target, the code object whose code it changes (the address of its kernel
header and its code bytes), the source bytes as read with their poison, and whether a management-page write of PATCHCTL was discarded
meanwhile. -/
structure PatchJob where
  target : Nat
  kernel : Nat
  code : Nat
  bytes : List (Byte × Bool)
  refused : Bool := false
deriving DecidableEq, Repr

/-- A context (R26): its system registers by number (R337, R349), its generator windows, word k of window g at key 8 g + k (R189),
and the patch that is busy (R365). -/
structure Context where
  sys : SMap (BitVec 64) := []
  windows : SMap Word := []
  patch : Option PatchJob := none
deriving DecidableEq, Repr

/-- An engine command (R256). -/
structure Command where
  id : Nat
  engine : Engine
  team : Nat
  launch : Nat
  ctx : Nat
  core : Nat
  slot : Nat
  index : Nat
  token : Nat
  lanes : LaneMask
  word : BitVec 64
  desc : List Word
  /-- The run of the QPUSH (R412), and the rounding state of R263. -/
  pc : BitVec 32
  instrWord : Word
  wordIx : Nat
  sseq : Word
  workId : Word
  /-- Agent tag of the group's request (R388). -/
  tag : BitVec 64
  /-- Discard the token on completion (R262). -/
  discard : Bool := false
  /-- Replay: a scatter-add that has begun (R391). -/
  work : Option ScatterWork := none
deriving DecidableEq, Repr

/-- The condition of the device (R367, R397). -/
inductive Power where
  | running | recovery | shutdown
deriving DecidableEq, Repr

/-- A barrier release that still departs cluster by cluster (R333). -/
structure Departure where
  launch : Nat
  slot : Nat
  generation : Word
  /-- Clusters still to depart, in order, and when the next one may. -/
  clusters : List Nat
  next : BitVec 64
  teams : List Nat
deriving DecidableEq, Repr

/-- What an event strikes and what the outside world supplies with it (spec/95_what_each_step_holds.md); each event's
meaning says which fields it reads. -/
structure EventArgs where
  core : Nat := 0
  slot : Nat := 0
  ctx : Nat := 0
  num : Nat := 0
  addr : BitVec 64 := 0
  value : BitVec 64 := 0
  flag : Bool := false
  nums : List Nat := []
  ranks : List (List Word) := []
  bytes : List Byte := []
  site : Option ErrSite := none
  /-- Where the host puts pages from an Invalidation Completion on (R358, R363). -/
  pages : List Nat := []
  /-- The destination elements of a collective that poisoned elements of other ranks reach (R260, R276). -/
  poisoned : List Nat := []
  /-- Bytes of host memory that the host's processors write before the event. -/
  host : List Host.Cell := []
deriving DecidableEq, Repr

/-- The three memory tiers (R20, R25). A byte that is not listed reads as zero (log entry 4, DESIGN CHOICE). Poison is by 32-byte sector
(R394). -/
structure Memory where
  gddr : List Host.Cell := []
  granary : List Host.Cell := []
  host : List Host.Cell := []
  gddrPoison : List Nat := []
  granaryPoison : List Nat := []
  hostPoison : List Nat := []
deriving DecidableEq, Repr

/-- An invalidation that waits for the revocations it caused (R359, R362): an ATS request by its address, or a management-page
XLINV. With an ATS request come the translations that the host gives from its completion on (R358). -/
structure Invalidation where
  addr : BitVec 64
  management : Bool
  /-- The context of an XLINV. -/
  ctx : Nat := 0
  /-- The PASID and the number of pages of an ATS request. -/
  pasid : Option Nat := none
  num : Nat := 0
  /-- The launches it has struck, each with the leases. -/
  struck : List (Nat × List Nat) := []
  pages : List (Option Nat × Nat × Nat) := []
deriving DecidableEq, Repr

/-- A pre-emption request (R377): the TCB, the context, the method, the hold bit, the bound in ticks and the start. -/
structure Request where
  tcb : BitVec 64
  ctx : Nat
  method : Nat
  hold : Bool
  bound : Nat
  start : BitVec 64
deriving DecidableEq, Repr

/-- What a mailbox is busy with (R347): the firmware mailbox with an install, the attestation mailbox with a report or a chain. -/
inductive MailboxJob where
  | install
  | report
  | chain
deriving DecidableEq, Repr

/-- What the host sees of the device outside memory and BAR0. -/
structure HostLink where
  /-- Completion interrupts raised, newest first (R312). -/
  interrupts : List Nat := []
  /-- Errors reported through AER (R397). -/
  aer : Nat := 0
  /-- Invalidations that are not complete, oldest first, and the completions sent, in order (R362, R363). -/
  pending : List Invalidation := []
  invalidations : List (BitVec 64) := []
  /-- Translations that the host has changed: PASID of the request, untranslated page, translated page (R358, R363). -/
  translations : List (Option Nat × Nat × Nat) := []
  /-- The jobs of the mailboxes that are busy (R347). -/
  jobs : List MailboxJob := []
  /-- The last BAR read: the value, and whether it completed with abort or poison (R346, R394). -/
  readData : BitVec 64 := 0
  readAbort : Bool := false
  readPoison : Bool := false
deriving DecidableEq, Repr

/-- What the model keeps of a checkpoint image that this module has written (R395, R396): when it started, and the contexts, launches
and teams that stand behind its bytes (log entry 105, DEDUCED). -/
structure Image where
  started : BitVec 64 := 0
  contexts : SMap Context := []
  launches : List Launch := []
  teams : List Team := []
deriving DecidableEq, Repr

/-- The machine. -/
structure State where
  groups : List Group := []
  teams : List Team := []
  launches : List Launch := []
  /-- Accepted tasks with their launch queue, oldest first (R314). -/
  queues : List (Nat × Task) := []
  contexts : SMap Context := []
  cores : SMap Core := []
  memory : Memory := {}
  commands : List Command := []
  /-- Flushed teams whose started commands still run: they keep their Loft (R262). -/
  ghosts : List Team := []
  /-- Pre-emption requests, oldest first (R377). -/
  requests : List Request := []
  departures : List Departure := []
  /-- Token grant of a cluster, when it is not 64 (R342); clusters throttled (R397). -/
  grants : SMap Nat := []
  throttled : List Nat := []
  /-- BAR0 device registers by offset (R347). -/
  bar0 : SMap (BitVec 64) := []
  nextCore : Nat := 0
  tick : BitVec 64 := 0
  power : Power := .running
  fusedMinimum : Word := 0
  /-- The image in flash and whether it is the running one's header (R367). -/
  flash : List Byte := []
  link : HostLink := {}
  /-- Bytes behind the peer links, port p's address a at key p * 2^64 + a, and the images written (R395). -/
  peers : List Host.Cell := []
  images : List Image := []
  /-- TIME when the checkpoint in progress started (R395, R396). -/
  checkpointStart : BitVec 64 := 0
  /-- TIME of the next token bid (R342). -/
  nextBid : BitVec 64 := 10000
  nextId : Nat := 0
  /-- MODEL: events that come next, in order, with what they strike (log entry 1, DESIGN CHOICE). -/
  agenda : List (Instr × EventArgs) := []
  event : EventArgs := {}
  /-- MODEL: core and slot of the group whose word is being executed, and the word (log entries 1 and 14). -/
  issuer : Option (Nat × Nat) := none
  fetched : Word := 0
  /-- MODEL: the word did not issue (R308). -/
  stalled : Bool := false
  /-- MODEL: whose turn it is in the default schedule, and the last partition that issued (log entry 1, DESIGN CHOICE). -/
  turn : Bool := false
  lastPartition : Nat := 0
  /-- MODEL: how many free values have been drawn (log entry 2, DESIGN CHOICE). -/
  freeIx : Nat := 0
deriving DecidableEq, Repr

/-- Ways the model stops. No state that a run reaches raises one. -/
inductive Fault where
  /-- exec of a word with no group in the issuing slot; step never does it. Safe: the machine has no such step. -/
  | noIssuingGroup
  /-- exec of a THR word with no block in the issuing thresher slot; step never does it. Safe. -/
  | noThresherBlock
deriving DecidableEq, Repr

/-- Ways the model declines an instruction. -/
inductive Refusal where
  /-- The row has no meaning in the model yet. Safe. -/
  | notModelled (mnemonic : String)
  /-- An event whose enabling condition does not hold in this state; step drops such an agenda entry. Safe: the event
  does not happen on the hardware in that state. -/
  | notEnabled
deriving DecidableEq, Repr

/-- The machine right after reset: nothing resident, every register at its reset value (INVENTORY.md State, log entries 1 to
8). -/
def State.reset : State := { flash := Config.flashImage, fusedMinimum := Config.fusedMinimum }

end Sys2Proof.Machine
end

