-- ==== Sys2Proof/Machine/Bits.lean ====
section
/-! DEFINITION. Sparse maps, bit fields, byte order and lane masks: the helpers that every meaning uses. -/

namespace Sys2Proof.Machine

/-- The value at a key: the first entry of the key, or the default. -/
def smGet {α : Type} (d : α) (k : Nat) : SMap α → α
  | [] => d
  | (j, x) :: m => if j = k then x else smGet d k m

/-- Puts a value at a key and keeps the keys rising. -/
def smPut {α : Type} (k : Nat) (x : α) : SMap α → SMap α
  | [] => [(k, x)]
  | (j, y) :: m => if k < j then (k, x) :: (j, y) :: m else if k = j then (k, x) :: m else (j, y) :: smPut k x m

/-- Removes a key. -/
def smErase {α : Type} (k : Nat) (m : SMap α) : SMap α := m.filter (fun e => e.1 != k)

/-- Sets the value at a key; a key that holds the default is not listed. -/
def smSet {α : Type} [DecidableEq α] (d : α) (k : Nat) (x : α) (m : SMap α) : SMap α :=
  if x = d then smErase k m else smPut k x m

/-- The canonical form of a sparse map: keys rise strictly and no entry is the default. -/
def smCanonical {α : Type} [DecidableEq α] (d : α) : SMap α → Bool
  | [] => true
  | [(_, x)] => decide (x ≠ d)
  | (j, x) :: (k, y) :: m => decide (x ≠ d) && decide (j < k) && smCanonical d ((k, y) :: m)

/-- Removes every key of a range. -/
def smEraseRange {α : Type} (a n : Nat) (m : SMap α) : SMap α := m.filter (fun e => e.1 < a || a + n ≤ e.1)

/-- Bits [lo + n - 1 : lo] of a number. -/
def field (x lo n : Nat) : Nat := x / 2 ^ lo % 2 ^ n

/-- A list of bytes, lowest first, as one number (R29). -/
def leNat : List Byte → Nat
  | [] => 0
  | b :: bs => b.toNat + 256 * leNat bs

/-- The low n bytes of a number, lowest first (R29). -/
def leBytes : Nat → Nat → List Byte
  | 0, _ => []
  | n + 1, x => BitVec.ofNat 8 x :: leBytes n (x / 256)

/-- n bytes of a list from an offset; bytes past the end are zero. -/
def sliceBytes (bs : List Byte) (off n : Nat) : List Byte :=
  let r := (bs.drop off).take n
  r ++ List.replicate (n - r.length) 0

/-- The little-endian field of n bytes at an offset of a record. -/
def byteField (bs : List Byte) (off n : Nat) : Nat := leNat (sliceBytes bs off n)

/-- Puts bytes into a record at an offset. -/
def putBytes (bs : List Byte) (off : Nat) (xs : List Byte) : List Byte :=
  sliceBytes bs 0 off ++ xs ++ bs.drop (off + xs.length)

/-- A record of n bytes with fields put at their offsets: offset, size, value. -/
def record (n : Nat) (fields : List (Nat × Nat × Nat)) : List Byte :=
  fields.foldl (fun bs f => putBytes bs f.1 (leBytes f.2.1 f.2.2)) (List.replicate n 0)

/-- The signed value of the low n bits. -/
def signed (n x : Nat) : Int := if x % 2 ^ n < 2 ^ (n - 1) then (x % 2 ^ n : Nat) else (x % 2 ^ n : Nat) - (2 ^ n : Nat)

/-- An integer modulo 2 to the n. -/
def wrapInt (n : Nat) (x : Int) : Nat := (x % (2 ^ n : Nat)).toNat

/-- Lanes 0 to 63 (R2). -/
def lanes : List Nat := List.range 64

/-- The lanes of a mask, ascending (R7). -/
def laneList (m : LaneMask) : List Nat := lanes.filter (fun i => m.getLsbD i)

/-- The mask of a list of lanes. -/
def maskOf (ls : List Nat) : LaneMask := ls.foldl (fun m i => m ||| (1#64 <<< i)) 0

/-- The lowest lane of a mask, if any. -/
def lowestLane (m : LaneMask) : Option Nat := (laneList m).head?

/-- The number of lanes of a mask. -/
def laneCount (m : LaneMask) : Nat := (laneList m).length

/-- The number of one bits among the low n. -/
def popCount : Nat → Nat → Nat
  | 0, _ => 0
  | n + 1, x => x % 2 + popCount n (x / 2)

/-- The position of the highest one bit among the low n, counted from 1; 0 for none. -/
def bitLength : Nat → Nat → Nat
  | 0, _ => 0
  | n + 1, x => if x = 0 then 0 else 1 + bitLength n (x / 2)

/-- The low n bits in reverse order. -/
def bitReverse : Nat → Nat → Nat
  | 0, _ => 0
  | n + 1, x => x % 2 * 2 ^ n + bitReverse n (x / 2)

/-- Ascending insertion by a key. -/
def insertBy {α : Type} (key : α → Nat) (x : α) : List α → List α
  | [] => [x]
  | y :: ys => if key x < key y then x :: y :: ys else y :: insertBy key x ys

/-- A stable sort by a key. -/
def sortBy {α : Type} (key : α → Nat) (xs : List α) : List α := xs.foldl (fun ys x => insertBy key x ys) []

end Sys2Proof.Machine
end

