-- ==== Sys2Proof/Machine/Access.lean ====
section
/-! DEFINITION. Translation and access: range registers, the walk, leases, tiles, the checks of R227, and reads and writes of
bytes with their poison (R20 to R25, R205 to R209, R217, R219, R227, R255, R357 to R361, R394). -/

namespace Sys2Proof.Machine

/-- The reset value of a system register (R349): SPAWNT 4,096, every other 0. -/
def sysReset (n : Nat) : BitVec 64 := if n = 0x008 then 4096 else 0

def State.context (s : State) (c : Nat) : Context := smGet {} c s.contexts

def State.setContext (s : State) (c : Nat) (x : Context) : State := { s with contexts := smSet {} c x s.contexts }

/-- A context's system register (R337, R349). -/
def State.sys (s : State) (c n : Nat) : BitVec 64 := smGet (sysReset n) n (s.context c).sys

def State.setSys (s : State) (c n : Nat) (x : BitVec 64) : State :=
  s.setContext c { s.context c with sys := smSet (sysReset n) n x (s.context c).sys }

def State.coreAt (s : State) (k : Nat) : Core := smGet {} k s.cores

def State.setCore (s : State) (k : Nat) (x : Core) : State := { s with cores := smSet {} k x s.cores }

def State.group? (s : State) (core slot : Nat) : Option Group :=
  s.groups.find? (fun g => g.core == core && g.slot == slot)

/-- Replaces the group that stands in g's slot. -/
def State.setGroup (s : State) (g : Group) : State :=
  { s with groups := s.groups.map (fun h => if h.core == g.core && h.slot == g.slot then g else h) }

def State.dropGroup (s : State) (core slot : Nat) : State :=
  { s with groups := s.groups.filter (fun h => !(h.core == core && h.slot == slot)) }

def State.team? (s : State) (id : Nat) : Option Team := s.teams.find? (fun t => t.id == id)

def State.setTeam (s : State) (t : Team) : State :=
  { s with teams := s.teams.map (fun u => if u.id == t.id then t else u) }

def State.launch? (s : State) (id : Nat) : Option Launch := s.launches.find? (fun l => l.id == id)

def State.setLaunch (s : State) (l : Launch) : State :=
  { s with launches := s.launches.map (fun m => if m.id == l.id then l else m) }

/-- Changes a launch. -/
def State.mapLaunch (s : State) (id : Nat) (f : Launch → Launch) : State :=
  { s with launches := s.launches.map (fun l => if l.id == id then f l else l) }

/-- Changes a team. -/
def State.mapTeam (s : State) (id : Nat) (f : Team → Team) : State :=
  { s with teams := s.teams.map (fun t => if t.id == id then f t else t) }

/-- BAR0 device register at an offset (R347). -/
def State.bar (s : State) (o : Nat) : BitVec 64 := smGet 0 o s.bar0

def State.setBar (s : State) (o : Nat) (x : BitVec 64) : State := { s with bar0 := smSet 0 o x s.bar0 }

/-- The cluster of a core (R9). -/
def clusterOf (core : Nat) : Nat := core / 12

/-- The partition of a slot (R10). -/
def partitionOf (slot : Nat) : Nat := slot / 16

/-! ### Memory tiers -/

def Memory.cells (m : Memory) : Tier → List Host.Cell
  | .gddr => m.gddr
  | .granary => m.granary
  | .host => m.host

def Memory.poison (m : Memory) : Tier → List Nat
  | .gddr => m.gddrPoison
  | .granary => m.granaryPoison
  | .host => m.hostPoison

def Memory.setCells (m : Memory) (t : Tier) (c : List Host.Cell) : Memory :=
  match t with
  | .gddr => { m with gddr := c }
  | .granary => { m with granary := c }
  | .host => { m with host := c }

def Memory.setPoison (m : Memory) (t : Tier) (p : List Nat) : Memory :=
  match t with
  | .gddr => { m with gddrPoison := p }
  | .granary => { m with granaryPoison := p }
  | .host => { m with hostPoison := p }

/-- The canonical form of the memories (log entry 4, DESIGN CHOICE): rising addresses, no listed zero. -/
def Memory.wf (m : Memory) : Bool :=
  smCanonical (0 : Byte) m.gddr && smCanonical (0 : Byte) m.granary && smCanonical (0 : Byte) m.host

def Memory.readByte (m : Memory) (t : Tier) (a : Nat) : Byte := smGet (0 : Byte) a (m.cells t)

def Memory.read (m : Memory) (t : Tier) (a n : Nat) : List Byte := (List.range n).map (fun i => m.readByte t (a + i))

/-- Puts bytes at rising keys of a sparse byte map. -/
def putCells (c : SMap Byte) (a : Nat) : List Byte → SMap Byte
  | [] => c
  | b :: bs => putCells (smSet (0 : Byte) a b c) (a + 1) bs

/-- A unit of size u stays poisoned after a write of n bytes at a unless the write covers it (R394). -/
def keepPoison (u a n : Nat) (ps : List Nat) : List Nat := ps.filter (fun k => !(a ≤ u * k && u * k + u ≤ a + n))

/-- A write of bytes to a tier: a covered sector's poison clears, a partly written one keeps it (R394). -/
def Memory.write (m : Memory) (t : Tier) (a : Nat) (bs : List Byte) : Memory :=
  (m.setCells t (putCells (m.cells t) a bs)).setPoison t (keepPoison 32 a bs.length (m.poison t))

/-- Whether a byte of the range lies in a poisoned sector (R394). -/
def Memory.poisoned (m : Memory) (t : Tier) (a n : Nat) : Bool :=
  (m.poison t).any (fun k => a < 32 * k + 32 && 32 * k < a + n)

/-! ### Range registers and the walk -/

/-- The kind of range register n (R350). -/
def rangeKind (s : State) (c n : Nat) : Nat := field (s.sys c (0x100 + n)).toNat 0 2

def rangeBase (s : State) (c n : Nat) : Nat := field (s.sys c (0x100 + n)).toNat 12 52 * 4096

def rangeBytes (s : State) (c n : Nat) : Nat := field (s.sys c (0x110 + n)).toNat 0 40 * 4096

def rangeIa (s : State) (c n : Nat) : Nat := field (s.sys c (0x120 + n)).toNat 12 40 * 4096

def rangeHolds (s : State) (c n va : Nat) : Bool :=
  (rangeKind s c n == 1 || rangeKind s c n == 2) && rangeBase s c n ≤ va && va < rangeBase s c n + rangeBytes s c n

/-- The range register that holds a virtual address (R23). -/
def findRange (s : State) (c va : Nat) : Option Nat := (List.range 16).find? (fun n => rangeHolds s c n va)

/-- The intermediate address of a virtual address that lies in a memory range register (R23). -/
def toIa (s : State) (c va : Nat) : Option Nat :=
  match findRange s c va with
  | some n => if rangeKind s c n = 1 then some (rangeIa s c n + (va - rangeBase s c n)) else none
  | none => none

/-- A leaf (R358) and where it puts the byte that was walked. -/
structure Leaf where
  rd : Bool
  wr : Bool
  ex : Bool
  tier : Tier
  placement : Nat
  /-- The address that the entry gives; for a host page, the untranslated one. -/
  bus : Nat
  phys : Nat
  /-- Bytes that the leaf maps; at most a host page, which ATS translates by itself. -/
  size : Nat
deriving DecidableEq, Repr

def tierOf : Nat → Option Tier
  | 0 => some .gddr
  | 1 => some .granary
  | 2 => some .host
  | _ => none

/-- Whether a leaf of n bytes at a stays inside its tier, and outside the save pool (R383; log entry 15, DEDUCED). -/
def insideTier (t : Tier) (a n : Nat) : Bool :=
  match t with
  | .gddr => a + n ≤ Config.gddrBytes
  | .granary => a + n ≤ Config.savePoolBase
  | .host => a + n ≤ 2 ^ 64

/-- Reads a leaf entry of size 2 to the k that maps the IA (R358). -/
def leafOf (e ia k : Nat) (s64 : Bool) : Option Leaf :=
  let a := field e 12 40 * 4096
  if field e 0 2 = 3 ∧ field e 9 1 = (if s64 then 1 else 0) ∧ field e 10 2 = 0 ∧ field e 52 12 = 0 ∧ a % 2 ^ k = 0 then
    match tierOf (field e 5 2) with
    | some t =>
      if insideTier t a (2 ^ k) then
        some { rd := field e 2 1 = 1, wr := field e 3 1 = 1, ex := field e 4 1 = 1, tier := t, placement := field e 7 2,
               bus := a + ia % 2 ^ k, phys := a + ia % 2 ^ k, size := 2 ^ k }
      else none
    | none => none
  else none

/-- The next table a non-leaf entry names (R358). -/
def tableOf (e : Nat) : Option Nat :=
  if field e 0 12 = 1 ∧ field e 52 12 = 0 ∧ insideTier .gddr (field e 12 40 * 4096) 4096 then some (field e 12 40 * 4096)
  else none

/-- Entry k of the table at a. -/
def tableEntry (m : Memory) (a k : Nat) : Nat := leNat (m.read .gddr (a + 8 * k) 8)

/-- The level-0 part of the walk (R358): the 64 KiB entry first, then the 4 KiB entry. -/
def walkLevel0 (m : Memory) (t ia : Nat) : Option Leaf :=
  let e := tableEntry m t (field ia 16 5 * 16)
  if field e 9 1 = 1 then leafOf e ia 16 true else leafOf (tableEntry m t (field ia 12 9)) ia 12 false

/-- One level that may hold a leaf of 2 to the k bytes or a table for the next part of the walk. -/
def walkLevel (m : Memory) (t ia k : Nat) (next : Nat → Option Leaf) : Option Leaf :=
  let e := tableEntry m t (field ia k 9)
  if field e 0 2 = 3 then leafOf e ia k false else (tableOf e).bind next

/-- The PASID that the requests of a context bear (R349, R358). -/
def contextPasid (s : State) (c : Nat) : Option Nat :=
  if (s.sys c 0x182).getLsbD 31 then some (field (s.sys c 0x182).toNat 0 20) else none

/-- Where ATS puts an untranslated host page (R358, R363; log entry 61, DESIGN CHOICE). -/
def hostPageOf (s : State) (pasid : Option Nat) (page : Nat) : Nat :=
  ((s.link.translations.find? (fun x => x.1 == pasid && x.2.1 == page)).map (·.2.2)).getD (Config.hostPage pasid page) % 2 ^ 52

/-- A leaf after ATS: a host page goes where the host puts it for the context (R358). -/
def atsLeaf (s : State) (c : Nat) (f : Leaf) : Leaf :=
  if f.tier = .host then
    { f with phys := 4096 * hostPageOf s (contextPasid s c) (f.bus / 4096) + f.bus % 4096, size := min f.size 4096 }
  else f

/-- The four-level walk of the tables of a context (R357, R358). -/
def walkTables (s : State) (c ia : Nat) : Option Leaf :=
  let m := s.memory
  let root := field (s.sys c 0x181).toNat 0 64
  (tableOf (tableEntry m root (field ia 39 13))).bind fun t2 =>
    walkLevel m t2 ia 30 fun t1 => walkLevel m t1 ia 21 fun t0 => walkLevel0 m t0 ia

/-- The walk of a context: its tables, then ATS for a host page (R357, R358). -/
def walk (s : State) (c ia : Nat) : Option Leaf := (walkTables s c ia).map (atsLeaf s c)

/-- Translation without a lease, for the launch processor and the host's window (R311, R346, R360): tier and address. -/
def translate (s : State) (c va : Nat) : Option Leaf := (toIa s c va).bind (walk s c)

/-! ### Tiles -/

/-- A team, or a flushed one whose started commands still run (R262). -/
def State.loftOwner? (s : State) (id : Nat) : Option Team := (s.team? id).or (s.ghosts.find? (fun t => t.id == id))

def State.loftTile? (s : State) (team index : Nat) : Option Tile :=
  (s.loftOwner? team).bind fun t => t.loft.find? (fun x => x.index == index)

def State.barnTile? (s : State) (launch cluster index : Nat) : Option Tile :=
  (s.launch? launch).bind fun l => (l.barn.find? (fun x => x.1 == cluster && x.2.index == index)).map (·.2)

/-- Replaces the tile of x's index. -/
def Team.putTile (t : Team) (x : Tile) : Team := { t with loft := t.loft.map (fun y => if y.index == x.index then x else y) }

def State.setLoftTile (s : State) (team : Nat) (x : Tile) : State :=
  match s.team? team with
  | some t => s.setTeam (t.putTile x)
  | none => { s with ghosts := s.ghosts.map (fun t => if t.id == team then t.putTile x else t) }

def State.setBarnTile (s : State) (launch cluster : Nat) (x : Tile) : State :=
  match s.launch? launch with
  | some l => s.setLaunch { l with
      barn := l.barn.map (fun y => if y.1 == cluster && y.2.index == x.index then (cluster, x) else y) }
  | none => s

/-- A write of bytes into a tile; a covered 16-byte word's poison clears (R394). -/
def Tile.write (t : Tile) (off : Nat) (bs : List Byte) : Tile :=
  { t with bytes := putCells t.bytes off bs, poison := keepPoison 16 off bs.length t.poison }

def Tile.read (t : Tile) (off n : Nat) : List Byte := (List.range n).map (fun i => smGet (0 : Byte) (off + i) t.bytes)

def Tile.poisoned (t : Tile) (off n : Nat) : Bool := t.poison.any (fun k => off < 16 * k + 16 && 16 * k < off + n)

/-! ### Places -/

/-- Moves a place by n bytes. -/
def Place.add (p : Place) (n : Nat) : Place :=
  match p with
  | .mem t a ia => .mem t (a + n) (ia + n)
  | .loft t i o => .loft t i (o + n)
  | .barn l k i o => .barn l k i (o + n)
  | .window c g o => .window c g (o + n)

/-- The tile behind a place. -/
def State.tileAt (s : State) : Place → Option Tile
  | .loft t i _ => s.loftTile? t i
  | .barn l k i _ => s.barnTile? l k i
  | _ => none

/-- The n bytes at a place of memory or of a tile; a window has no bytes of its own (Machine/Generator.lean reads it). Two
intermediate addresses of one physical byte share it (R205; log entry 91, DESIGN CHOICE). -/
def State.readPlace (s : State) (p : Place) (n : Nat) : List Byte :=
  match p with
  | .mem t a _ => s.memory.read t a n
  | .loft _ _ o => ((s.tileAt p).map (fun x => x.read o n)).getD (List.replicate n 0)
  | .barn _ _ _ o => ((s.tileAt p).map (fun x => x.read o n)).getD (List.replicate n 0)
  | .window _ _ _ => List.replicate n 0

/-- Whether one of the n bytes at a place is poisoned (R394). -/
def State.poisonedPlace (s : State) (p : Place) (n : Nat) : Bool :=
  match p with
  | .mem t a _ => s.memory.poisoned t a n
  | .loft _ _ o => ((s.tileAt p).map (fun x => x.poisoned o n)).getD false
  | .barn _ _ _ o => ((s.tileAt p).map (fun x => x.poisoned o n)).getD false
  | .window _ _ _ => false

/-- The watched units that n bytes at a place touch: 128-byte lines and 256-byte granules (R217, R254). -/
def unitsOf (p : Place) (n : Nat) : List Unit128 :=
  match p with
  | .mem t a _ => (List.range ((a + n - 1) / 128 - a / 128 + 1)).map (fun k => .line t (a / 128 + k))
  | .loft t i o => (List.range ((o + n - 1) / 256 - o / 256 + 1)).map (fun k => .loft t i (o / 256 + k))
  | .barn l c i o => (List.range ((o + n - 1) / 256 - o / 256 + 1)).map (fun k => .barn l c i (o / 256 + k))
  | .window _ _ _ => []

/-- A held store or atomic that its own group performs (R217): the group's core and slot, the lane, the position among
the held accesses, and whether it is an atomic. -/
structure OwnAccess where
  core : Nat
  slot : Nat
  lane : Nat
  position : Nat
  atom : Bool
deriving DecidableEq, Repr

/-- Whether a write to the units rolls back a read (R217): any agent's write does, but of the group's own held accesses only
those of other lanes and the atomics of the reading lane that stand before the read, and not the one whose byte the read returned
(log entry 20, DEDUCED). -/
def Watch.hit (k : Watch) (core slot : Nat) (us : List Unit128) (own : Option OwnAccess) : Bool :=
  us.contains k.unit && (match own with
    | some o => !(o.core == core && o.slot == slot)
        || ((o.lane != k.lane || (o.atom && decide (o.position < k.behind))) && !k.forwarded.contains o.position)
    | none => true)

/-- The lines that a group asleep in WAITM has armed (R254). -/
def Group.armed (g : Group) : List Unit128 :=
  match g.wait with
  | .waitm ls _ _ => ls
  | _ => []

/-- The group sleeps in WAITM. -/
def Group.asleep (g : Group) : Bool :=
  match g.wait with
  | .waitm _ _ _ => true
  | _ => false

/-- A sleeping group of the core has armed one of the units: their bits stand in the core's filter (R254, R255). -/
def State.armedOn (s : State) (core : Nat) (us : List Unit128) : Bool :=
  s.groups.any (fun g => g.core == core && g.armed.any (fun u => us.contains u))

/-- A write to watched units makes the group's fence window roll back (R217). -/
def Group.noteWrite (g : Group) (us : List Unit128) (own : Option OwnAccess) : Group :=
  match g.fence with
  | some w => if w.watched.any (fun k => k.hit g.core g.slot us own)
      then { g with fence := some { w with rollbackDue := true } } else g
  | none => g

/-- A write that may wake a sleeping group, of whose core the filter holds a written line; the tag names the writer's request, 0 for
none (R255). -/
def Group.noteWake (g : Group) (filtered : Nat → Bool) (tag : BitVec 64) : Group :=
  match g.wait with
  | .waitm ls since due => if filtered g.core && !due.contains tag then { g with wait := .waitm ls since (due ++ [tag]) } else g
  | _ => g

/-- A write takes its place in O: the groups that watch its units learn of it (R217, R255). -/
def State.notify (s : State) (us : List Unit128) (tag : BitVec 64) (own : Option OwnAccess) : State :=
  { s with groups := s.groups.map (fun g => (g.noteWrite us own).noteWake (fun c => s.armedOn c us) tag) }

/-- Writes bytes at a place without telling any watcher. -/
def State.putPlace (s : State) (p : Place) (bs : List Byte) : State :=
  match p with
  | .mem t a _ => { s with memory := s.memory.write t a bs }
  | .loft t i o => match s.loftTile? t i with
    | some x => s.setLoftTile t (x.write o bs)
    | none => s
  | .barn l k i o => match s.barnTile? l k i with
    | some x => s.setBarnTile l k (x.write o bs)
    | none => s
  | .window _ _ _ => s

/-- A write of bytes at a place, seen by the watchers (R217, R255). -/
def State.writePlace (s : State) (p : Place) (bs : List Byte) (tag : BitVec 64 := 0) (own : Option OwnAccess := none) : State :=
  if bs.isEmpty then s else (s.putPlace p bs).notify (unitsOf p bs.length) tag own

/-- Marks the poison units that n bytes at a place touch (R394). -/
def State.poisonPlace (s : State) (p : Place) (n : Nat) : State :=
  let units (u a : Nat) := (List.range ((a + n - 1) / u - a / u + 1)).map (fun k => a / u + k)
  match p with
  | .mem t a _ => { s with memory := s.memory.setPoison t ((units 32 a ++ s.memory.poison t).eraseDups) }
  | .loft t i o => match s.loftTile? t i with
    | some x => s.setLoftTile t { x with poison := (units 16 o ++ x.poison).eraseDups }
    | none => s
  | .barn l k i o => match s.barnTile? l k i with
    | some x => s.setBarnTile l k { x with poison := (units 16 o ++ x.poison).eraseDups }
    | none => s
  | .window _ _ _ => s

/-! ### The hardware's own reads and writes through a context -/

/-- Bytes at a virtual address, for the launch processor: none where a byte has no readable page (R311, R315). -/
def hwRead (s : State) (c va : Nat) : Nat → Option (List Byte)
  | 0 => some []
  | n + 1 =>
    match translate s c va with
    | some f => if f.rd then (hwRead s c (va + 1) n).map (fun bs => s.memory.readByte f.tier f.phys :: bs) else none
    | none => none

/-- A write of contiguous bytes as the writes of its 32-byte sectors, so that a covered sector loses its poison (R394): each with
its address. -/
def sectorPieces : Nat → Nat → List Byte → List (Nat × List Byte)
  | 0, _, _ => []
  | _, _, [] => []
  | n + 1, a, bs => (a, bs.take (32 - a % 32)) :: sectorPieces n (a + (32 - a % 32)) (bs.drop (32 - a % 32))

/-- Contiguous bytes from a on, sector by sector. -/
def sectorsOf (a : Nat) (bs : List Byte) : List (Nat × List Byte) := sectorPieces bs.length a bs

/-- Writes bytes of one page at a virtual address; where no writable page is, nothing is written. -/
def hwWriteAt (s : State) (c : Nat) (p : Nat × List Byte) : State :=
  match toIa s c p.1 with
  | some ia => match walk s c ia with
    | some f => if f.wr then s.writePlace (.mem f.tier f.phys ia) p.2 else s
    | none => s
  | none => s

/-- Writes bytes at a virtual address, for the launch processor; a sector with no writable page is not written. -/
def hwWrite (s : State) (c va : Nat) (bs : List Byte) : State := (sectorsOf va bs).foldl (fun s p => hwWriteAt s c p) s

/-- Whether every byte of a range can be written. -/
def hwWritable (s : State) (c va n : Nat) : Bool :=
  (List.range n).all (fun i => ((translate s c (va + i)).map (·.wr)).getD false)

/-! ### The checks of R227 -/

/-- What an access does (R227): a load, a store or a read-modify-write. -/
inductive AccessKind where
  | load | store | atomic
deriving DecidableEq, Repr

/-- Whose access it is (R22, R23, R361). -/
structure Accessor where
  ctx : Nat
  launch : Nat
  team : Nat
  core : Nat
deriving DecidableEq, Repr

/-- Whether the IA lies in a declared lease of the launch that is granted (R361). -/
def inLease (s : State) (launch ctx ia : Nat) : Bool :=
  match s.launch? launch with
  | some l => l.lh.leases.zipIdx.any (fun e => !l.revoked.contains e.2 && (match toIa s ctx e.1.1.toNat with
      | some b => b ≤ ia && ia < b + 4096 * e.1.2
      | none => false))
  | none => false

/-- A virtual region: address and bytes. -/
abbrev Region := Nat × Nat

/-- The pieces of a region in the intermediate space, one for each range register of kind 1 that it passes; none when a byte
lies in no such register. -/
def regionPieces (s : State) (ctx : Nat) : Nat → Region → Option (List Region)
  | 0, r => if r.2 = 0 then some [] else none
  | k + 1, (va, n) =>
    if n = 0 then some []
    else match findRange s ctx va with
      | none => none
      | some i =>
        if rangeKind s ctx i ≠ 1 then none
        else
          let m := min n (rangeBase s ctx i + rangeBytes s ctx i - va)
          (regionPieces s ctx k (va + m, n - m)).map (fun ps => (rangeIa s ctx i + (va - rangeBase s ctx i), m) :: ps)

/-- The pieces of a region; a region passes at most the 16 range registers. -/
def piecesOf (s : State) (ctx : Nat) (r : Region) : Option (List Region) := regionPieces s ctx 17 r

/-- The stride of a context's thread-local regions (R364). -/
def threadStride (s : State) (ctx : Nat) : Nat := (s.sys ctx 0x184).toNat / 9072 * 4096

/-- The thread-local region of a slot of a core (R364). -/
def threadRegion (s : State) (ctx core slot : Nat) : Nat := (s.sys ctx 0x183).toNat + (63 * core + slot) * threadStride s ctx

/-- Where the control area of a group lies (R306, R364). -/
def controlArea (s : State) (l : Launch) (g : Group) : Nat := threadRegion s l.ctx g.core g.slot + 64 * l.kh.tlm

/-- The bytes of a group control area (R306). -/
def controlBytes : Nat := 61952

/-- The control areas that are reserved in a context: those of its resident groups, whose regions have room for them (R306, R364). -/
def controlRegions (s : State) (ctx : Nat) : List Region :=
  s.groups.filterMap fun g => (s.team? g.team).bind fun t => (s.launch? t.launch).bind fun l =>
    if l.ctx = ctx ∧ 64 * l.kh.tlm + controlBytes ≤ threadStride s ctx then some (controlArea s l g, controlBytes) else none

/-- The IA lies in a group control area of the context, which no program access reaches, under whatever virtual address (R207, R306). -/
def inControlArea (s : State) (ctx ia : Nat) : Bool :=
  (controlRegions s ctx).any (fun r => ((piecesOf s ctx r).getD []).any (fun p => p.1 ≤ ia && ia < p.1 + p.2))

/-- Which operations a placement admits (R219, R230): the op code, or 16 for none needed, and the width in bytes. -/
def placementAdmits (tier : Tier) (placement op : Nat) : Bool :=
  match tier, placement with
  | .host, 0 => true
  | .host, 1 => op ≤ 2
  | .host, 2 => op ≤ 2
  | .host, _ => false
  | _, 0 => true
  | _, 1 => true
  | _, _ => false

/-- Whether a leaf permits an access (R358, R365): a page with EX refuses every program write. -/
def leafPermits (f : Leaf) (k : AccessKind) (op : Nat) : Bool :=
  match k with
  | .load => f.rd
  | .store => f.wr && !f.ex
  | .atomic => f.rd && f.wr && !f.ex && placementAdmits f.tier f.placement op

/-- Checks 1 to 4 of R227 for n bytes at a virtual address; the fault class, or where the bytes are. A window is refused a
read-modify-write, and a store when its Store bit is set (R198); waits says that the access is a WAITM (R198, R254). A byte of a control
area fails check 4 (R306; log entry 133, DEDUCED). -/
def locateVirtual (s : State) (u : Accessor) (k : AccessKind) (op : Nat) (waits : Bool) (align : Nat) (va : Nat) :
    Except Nat Place :=
  match findRange s u.ctx va with
  | none => .error 4
  | some r =>
    if va % align ≠ 0 then .error 5
    else if rangeKind s u.ctx r = 2 then
      let g := field (s.sys u.ctx (0x120 + r)).toNat 0 3
      let store := (smGet (0 : Word) (8 * g + 3) (s.context u.ctx).windows).getLsbD 11
      if k = .atomic ∨ waits ∨ (k = .store ∧ store) then .error 6
      else .ok (.window u.ctx g (va - rangeBase s u.ctx r))
    else
      let ia := rangeIa s u.ctx r + (va - rangeBase s u.ctx r)
      if !inLease s u.launch u.ctx ia || inControlArea s u.ctx ia then .error 4
      else match walk s u.ctx ia with
        | none => .error 4
        | some f =>
          if !leafPermits f k op then .error 4
          else if waits && f.tier == .host && f.placement != 0 then .error 4
          else .ok (.mem f.tier f.phys ia)

/-- Check 5 of R227: no byte read is poisoned. -/
def checkPoison (s : State) (k : AccessKind) (n : Nat) : Except Nat Place → Except Nat Place
  | .ok p => if k ≠ .store ∧ s.poisonedPlace p n then .error 17 else .ok p
  | r => r

/-- Checks 1 to 5 of R227 for n bytes at a virtual address. -/
def checkVirtual (s : State) (u : Accessor) (k : AccessKind) (op : Nat) (waits : Bool) (align : Nat) (va n : Nat) :
    Except Nat Place :=
  checkPoison s k n (locateVirtual s u k op waits align va)

/-- Check 1 of R227 for n bytes of a tile (R21, R22): the handle, the extent and the context. -/
def handlePlace (s : State) (u : Accessor) (handle : Nat) (off : Int) (n : Nat) : Option Place :=
  let i := field handle 0 14
  let p : Option Place := match field handle 14 2 with
    | 0 => some (.loft u.team i off.toNat)
    | 1 => some (.barn u.launch (clusterOf u.core) i off.toNat)
    | _ => none
  p.bind fun p => (s.tileAt p).bind fun t =>
    if 0 ≤ off ∧ off + n ≤ 256 * t.granules ∧ t.ctx = u.ctx then some p else none

/-- Checks 1 and 2 of R227 for n bytes of a tile. -/
def locateHandle (s : State) (u : Accessor) (align handle : Nat) (off : Int) (n : Nat) : Except Nat Place :=
  match handlePlace s u handle off n with
  | none => .error 4
  | some p => if off % align ≠ 0 then .error 5 else .ok p

/-- Checks 1, 2 and 5 of R227 for n bytes of a tile. -/
def checkHandle (s : State) (u : Accessor) (k : AccessKind) (align handle : Nat) (off : Int) (n : Nat) : Except Nat Place :=
  checkPoison s k n (locateHandle s u align handle off n)

end Sys2Proof.Machine
end

