-- ==== Sys2Proof/Machine/OrderLog.lean ====
section
/-! DEFINITION. The order log: agent tags, entries, and how each order-sensitive choice is recorded or forced (R293, R338,
R388 to R391, R414). -/

namespace Sys2Proof.Machine

/-- The agent tag of a group's request with sequence q (R388). -/
def agentTag (g : Group) (q : Word) : BitVec 64 :=
  BitVec.ofNat 64 (field g.homeCore 0 8 + field g.slot 0 6 * 2 ^ 8 + q.toNat * 2 ^ 16 + field g.startNumber 0 16 * 2 ^ 48)

/-- Whether two tags name the same group (R388). -/
def sameAgent (a b : BitVec 64) : Bool := (a &&& 0xFFFF000000003FFF) == (b &&& 0xFFFF000000003FFF)

/-- The groups of a team, resident or saved. -/
def State.groupsLive (s : State) (t : Team) : List Group :=
  match t.place with
  | .saved gs _ _ _ _ => gs
  | .resident => s.groups.filter (fun g => g.team == t.id)

/-- Two live groups match the tag, and the requester's is not the one that started earlier, which the tag names (R388): teams are
numbered as they start. -/
def State.namesake (s : State) (launch team : Nat) (tag : BitVec 64) : Bool :=
  s.teams.any (fun t => t.launch == launch && t.id < team && (s.groupsLive t).any (fun g => sameAgent (agentTag g 0) tag))

/-- The units of R388. -/
def unitCopy (k : Nat) : Nat := 0x200 + k
def unitGather (k : Nat) : Nat := 0x210 + k
def unitCollective : Nat := 0x220
def unitLaunch : Nat := 0x230
def unitBarn (k : Nat) : Nat := 0x300 + k
/-- The memory partition that serves an IA (R24). -/
def unitPartition (ia : Nat) : Nat := 0x100 + (field ia 8 5 ^^^ field ia 13 5)

/-- The unit and check of a kind-1 choice at a place (R389). -/
def placeUnit (core : Nat) : Place → Nat × Word
  | .mem _ _ ia => (unitPartition ia, BitVec.ofNat 32 ia)
  | .loft _ i o => (core, BitVec.ofNat 32 (field i 0 8 * 2 ^ 24 + field o 0 24))
  | .barn _ k i o => (unitBarn k, BitVec.ofNat 32 (field i 0 8 * 2 ^ 24 + field o 0 24))
  | .window _ _ _ => (core, 0)

/-- What the log says to a choice: it is made, it must wait for its turn, or the task ends with a replay fault of a code. -/
inductive LogAnswer where
  | go (s : State)
  | wait
  | mismatch (code : Nat)

/-- The 16 bytes of an entry (R388). -/
def LogEntry.bytes (e : LogEntry) : List Byte := record 16 [(0, 1, e.kind), (2, 2, e.unit), (4, 4, e.check.toNat), (8, 8, e.chosen.toNat)]

/-- The entries a region has room for (R388). -/
def logRoom (l : Launch) : Nat := (l.lh.logPages * 4096 - 64) / 16

/-- Appends an entry in record mode, or marks the overflow (R390). -/
def appendLog (s : State) (l : Launch) (e : LogEntry) : State :=
  let base := l.lh.logBase.toNat
  if l.overflowed then s
  else if logRoom l ≤ l.log.length then
    hwWrite (s.setLaunch { l with overflowed := true }) l.ctx (base + 8) [if l.flushed then 3 else 1]
  else
    let s1 := s.setLaunch { l with log := l.log ++ [e] }
    hwWrite (hwWrite s1 l.ctx (base + 64 + 16 * l.log.length) e.bytes) l.ctx (base + 4) (leBytes 4 (l.log.length + 1))

/-- The unit's next unconsumed entry in replay (R391). -/
def nextEntry (l : Launch) (unit : Nat) : Option LogEntry := l.log.find? (fun e => !e.used && e.unit == unit)

/-- Marks the unit's next entry consumed. -/
def consume (unit : Nat) : List LogEntry → List LogEntry
  | [] => []
  | e :: es => if !e.used && e.unit == unit then { e with used := true } :: es else e :: consume unit es

/-- The entry names the group of a tag: a time read through its unit and check, a timer and a wake no group, any other kind by
its chosen value (R388, R389, R414). -/
def LogEntry.namesTag (e : LogEntry) (tag : BitVec 64) : Bool :=
  if e.kind = 9 then
    e.unit == field tag.toNat 0 8 && field e.check.toNat 12 6 == field tag.toNat 8 6 && field e.check.toNat 18 14 == field tag.toNat 48 14
  else e.kind != 3 && e.kind != 6 && sameAgent e.chosen tag

/-- The entry and the request it meets cannot both be (R391, R414): it names this very request with another kind or check, or it
is a time read of the group that presents this request. A request pushed before it was presented, late, waits for a time read
(log entry 32, DEDUCED). -/
def LogEntry.clashes (e : LogEntry) (tag : BitVec 64) (late : Bool) : Bool :=
  if e.kind = 9 then !late && e.namesTag tag else e.kind != 3 && e.kind != 6 && e.chosen == tag

/-- A choice of the kinds that a tag answers, by a group of the team (R388, R389): in mode off it is made, in record mode it is
logged, in replay it is forced (R391). -/
def choose (s : State) (launch kind unit : Nat) (check : Word) (tag : BitVec 64) (team : Nat) (late : Bool := false) : LogAnswer :=
  match s.launch? launch with
  | none => .go s
  | some l =>
    if l.lh.mode = 0 then .go s
    else if l.lh.mode = 1 then .go (appendLog s l { kind := kind, unit := unit, check := check, chosen := tag })
    else match nextEntry l unit with
      | none => .mismatch 1
      | some e =>
        if s.namesake launch team tag then .wait
        else if e.kind = kind ∧ e.check = check ∧ e.chosen = tag then .go (s.setLaunch { l with log := consume unit l.log })
        else if e.clashes tag late then .mismatch 2
        else .wait

/-- Several choices made together, in order. -/
def chooseAll (s : State) (launch kind : Nat) (tag : BitVec 64) (team : Nat) (late : Bool := false) : List (Nat × Word) → LogAnswer
  | [] => .go s
  | (u, c) :: us =>
    match choose s launch kind u c tag team late with
    | .go s1 => chooseAll s1 launch kind tag team late us
    | r => r

/-- What the locations of one instruction or command met in replay: those whose turn has come, those that wait, and a mismatch. -/
structure Turns where
  s : State
  taken : List Place := []
  left : List Place := []
  mismatch : Option Nat := none

/-- The choices of kind 1 at distinct locations in replay, each when its turn has come (R389, R391). An ATOM takes its locations in the
order of their lowest lanes (R209), so that a waiting one holds the later ones back; the locations of a scatter-add stand by themselves
(R274). -/
def chooseEach (launch : Nat) (tag : BitVec 64) (team : Nat) (late inOrder : Bool) (core : Nat) : State → List Place → Turns
  | s, [] => { s := s }
  | s, p :: ps =>
    let answer (q : Place) : LogAnswer := choose s launch 1 (placeUnit core q).1 (placeUnit core q).2 tag team late
    let others (r : Turns) : Turns := { r with left := p :: r.left }
    let waits : Turns := if inOrder then { s := s, left := p :: ps } else others (chooseEach launch tag team late inOrder core s ps)
    match answer p with
    | .go s1 =>
      let r := chooseEach launch tag team late inOrder core s1 ps
      { r with taken := p :: r.taken }
    | .wait => waits
    | .mismatch n =>
      if !inOrder && ps.any (fun q => match answer q with
        | .go _ => true
        | _ => false) then waits
      else { s := s, left := p :: ps, mismatch := some n }

/-- The check field of a time read (R389). -/
def timeCheck (g : Group) (reg : Nat) : Word :=
  BitVec.ofNat 32 (field reg 0 12 + field g.slot 0 6 * 2 ^ 12 + field g.startNumber 0 14 * 2 ^ 18)

/-- A time read (R338, R414): the value to return with the state, or wait, or mismatch. -/
def timeRead (s : State) (launch : Nat) (g : Group) (reg : Nat) (value : BitVec 64) : LogAnswer × BitVec 64 :=
  match s.launch? launch with
  | none => (.go s, value)
  | some l =>
    if l.lh.mode = 0 then (.go s, value)
    else if l.lh.mode = 1 then
      (.go (appendLog s l { kind := 9, unit := g.homeCore, check := timeCheck g reg, chosen := value }), value)
    else match nextEntry l g.homeCore with
      | none => (.mismatch 1, value)
      | some e =>
        if s.namesake launch g.team (agentTag g 0) then (.wait, value)
        else if e.kind = 9 ∧ e.check = timeCheck g reg then
          (.go (s.setLaunch { l with log := consume g.homeCore l.log }), e.chosen)
        else if e.kind = 9 ∧ e.namesTag (agentTag g 0) then (.mismatch 2, value)
        else (.wait, value)

end Sys2Proof.Machine
end

