-- ==== Sys2Proof/Machine/Ops.lean ====
section
/-! DEFINITION. The operations over groups that every meaning shares: registers, work IDs, the frontier, parking, the extended
set, the fault area, the end of a task by fault, and taking a fault into the trap handler and returning from it
(R39 to R44, R283 to R305, R313, R369 to R376). -/

namespace Sys2Proof.Machine

/-! ### Registers -/

def Arch.getV (a : Arch) (n i : Nat) : Word := smGet (0 : Word) (64 * n + i) a.v
def Arch.setV (a : Arch) (n i : Nat) (x : Word) : Arch := { a with v := smSet (0 : Word) (64 * n + i) x a.v }
def Arch.getS (a : Arch) (n : Nat) : Word := smGet (0 : Word) n a.s
def Arch.setS (a : Arch) (n : Nat) (x : Word) : Arch := { a with s := smSet (0 : Word) n x a.s }
def Arch.getP (a : Arch) (n : Nat) : LaneMask := smGet (0 : LaneMask) n a.p
def Arch.setP (a : Arch) (n : Nat) (x : LaneMask) : Arch := { a with p := smSet (0 : LaneMask) n x a.p }
def Arch.getFl (a : Arch) (i : Nat) : BitVec 16 := smGet (0 : BitVec 16) i a.fl
/-- Bits 15 to 9 of fl read as zero and writes to them are discarded (R83). -/
def Arch.setFl (a : Arch) (i : Nat) (x : BitVec 16) : Arch := { a with fl := smSet (0 : BitVec 16) i (x &&& 0x1FF) a.fl }
def Arch.getTw (a : Arch) (n : Nat) : Word := smGet (0x377 : Word) n a.tw
def Arch.setTw (a : Arch) (n : Nat) (x : Word) : Arch := { a with tw := smSet (0x377 : Word) n x a.tw }
def Arch.getReturns (a : Arch) (i : Nat) : List Return := smGet ([] : List Return) i a.returns
def Arch.setReturns (a : Arch) (i : Nat) (x : List Return) : Arch := { a with returns := smSet ([] : List Return) i x a.returns }

/-- A 64-bit operand in an even/odd pair (R6): the even register holds the low half. -/
def Arch.getV64 (a : Arch) (n i : Nat) : BitVec 64 := a.getV (n + 1) i ++ a.getV n i
def Arch.setV64 (a : Arch) (n i : Nat) (x : BitVec 64) : Arch :=
  (a.setV n i (x.extractLsb' 0 32)).setV (n + 1) i (x.extractLsb' 32 32)
def Arch.getS64 (a : Arch) (n : Nat) : BitVec 64 := a.getS (n + 1) ++ a.getS n
def Arch.setS64 (a : Arch) (n : Nat) (x : BitVec 64) : Arch :=
  (a.setS n (x.extractLsb' 0 32)).setS (n + 1) (x.extractLsb' 32 32)

/-- Row r of t(n): 32 bytes (R159). -/
def Arch.tRow (a : Arch) (n r : Nat) : List Byte := (List.range 32).map (fun b => smGet (0 : Byte) (2048 * n + 32 * r + b) a.t)
def Arch.setTRow (a : Arch) (n r : Nat) (bs : List Byte) : Arch := { a with t := putCells a.t (2048 * n + 32 * r) (bs.take 32) }

/-- ORs flags into fl of their lanes (R84). -/
def Arch.orFlags (a : Arch) (fs : List (Nat × BitVec 9)) : Arch :=
  fs.foldl (fun a f => if f.2 = 0 then a else a.setFl f.1 (a.getFl f.1 ||| f.2.setWidth 16)) a

/-- Registers that have been written whole are in error no more (R394). -/
def Group.mend (g : Group) (written : RegRef → Bool) : Group := { g with bad := g.bad.filter (fun r => !written r) }

/-- A register of the extended set (R303). -/
def RegRef.extended : RegRef → Bool
  | .v n => 128 ≤ n
  | _ => false

/-- One of s56 to s63, which hold the trap state (R374). -/
def RegRef.trapState : RegRef → Bool
  | .s n => 56 ≤ n
  | _ => false

def Group.acc (g : Group) (n : Nat) : Acc := smGet {} n g.accs
def Group.setAcc (g : Group) (n : Nat) (x : Acc) : Group := { g with accs := smSet {} n x g.accs }

/-! ### The environment of a group -/

/-- A group with its team and launch. -/
structure Env where
  g : Group
  t : Team
  l : Launch

def State.env? (s : State) (core slot : Nat) : Option Env :=
  (s.group? core slot).bind fun g => (s.team? g.team).bind fun t => (s.launch? t.launch).map fun l => ⟨g, t, l⟩

def Env.accessor (e : Env) : Accessor := { ctx := e.l.ctx, launch := e.l.id, team := e.t.id, core := e.g.core }

/-- The work ID of lane i (R283, R284, R328). -/
def Env.workId (e : Env) (i : Nat) : BitVec 64 :=
  if e.t.spawned then e.g.ids.getD i 0
  else BitVec.ofNat 64 (e.t.key.toNat * 2 ^ e.l.lh.widths.headD 6 + 64 * e.g.index + i)

/-- The team key in records and orders (R285, R372): for a spawned group, the work ID of its lane 0. -/
def Env.key (e : Env) : BitVec 64 := if e.t.spawned then e.workId 0 else e.t.key

/-- The AMR of the group's context (R80). -/
def State.amr (s : State) (c : Nat) : Word := (s.sys c 0).setWidth 32

/-- The trap enables of an AMR as fl bits (R78, R86). -/
def trapEnables (amr : Word) : BitVec 9 := (amr.extractLsb' 8 8).setWidth 9

/-- The lanes that raised an enabled flag, and the enabled flags raised (R86). -/
def enabledFlags (amr : Word) (fs : List (Nat × BitVec 9)) : LaneMask × BitVec 9 :=
  fs.foldl (fun r f =>
    let x := f.2 &&& trapEnables amr
    if x = 0 then r else (r.1 ||| (1#64 <<< f.1), r.2 ||| x)) (0, 0)

/-! ### The frontier -/

/-- Code address of a launch's first word (R57). -/
def Launch.codeBase (l : Launch) : Nat := l.lh.kernel.toNat + 0x180

/-- A successor of lanes (R295): its guard is the issuing entry's unless it is a taken, call or return target (R44). -/
structure Succ where
  prio : BitVec 16
  pc : BitVec 32
  mask : LaneMask
  fresh : Bool := false

def Entry.key (e : Entry) : Nat := e.prio.toNat * 2 ^ 32 + e.pc.toNat

/-- The guard code for none (R306). -/
def guardNone : BitVec 7 := 63

/-- Inserts an entry in key order; equal keys merge, and differing guards give none (R44, R296). -/
def insertEntry (x : Entry) : List Entry → List Entry
  | [] => [x]
  | y :: ys =>
    if x.key < y.key then x :: y :: ys
    else if x.key = y.key then
      { y with mask := y.mask ||| x.mask, guard := if x.guard = y.guard then y.guard else guardNone } :: ys
    else y :: insertEntry x ys

/-- Inserts the successors of an issue in ascending key order (R296). -/
def insertSuccs (guard : BitVec 7) (fr : List Entry) (succs : List Succ) : List Entry :=
  (sortBy (fun x : Succ => x.prio.toNat * 2 ^ 32 + x.pc.toNat) succs).foldl
    (fun fr x => if x.mask = 0 then fr else
      insertEntry { prio := x.prio, pc := x.pc, mask := x.mask, guard := if x.fresh then guardNone else guard } fr) fr

/-- The entry that issues next (R295, R298). -/
def Arch.issuing (a : Arch) : Option Entry := if a.aged then a.frontier.tail.head? else a.frontier.head?

/-- The frontier without the issuing entry. -/
def Arch.others (a : Arch) : List Entry :=
  if a.aged then a.frontier.take 1 ++ a.frontier.drop 2 else a.frontier.drop 1

/-- The aging count after an issue by the head (R298); it stops at 4,096 (log entry 16, DEDUCED). -/
def agingAfter (a : Arch) (fr : List Entry) : Nat :=
  if a.aged then 0
  else if fr ≠ [] ∧ (fr.tail.map (fun e => (e.key, e.mask))) = (a.frontier.tail.map (fun e => (e.key, e.mask))) then min (a.aging + 1) 4096
  else 0

/-- Whether the next run is the second entry's (R298). -/
def agedReady (g : Group) : Bool :=
  !g.arch.aged && g.arch.run.count == 0 && g.arch.aging == 4096 && 2 ≤ g.arch.frontier.length

/-- The frontier after a run of the issuing entry (R295, R296). -/
def Arch.frontierAfter (a : Arch) (e : Entry) (succs : List Succ) : List Entry := insertSuccs e.guard a.others succs

/-- Replaces the issuing entry by its successors and closes the run (R43, R296, R298). -/
def Arch.advance (a : Arch) (e : Entry) (succs : List Succ) : Arch :=
  let fr := a.frontierAfter e succs
  { a with frontier := fr, aging := agingAfter a fr, aged := false, run := {} }

/-- The PC of the word being issued: the hints of its run stand before it (R43). -/
def Arch.wordPc (a : Arch) (e : Entry) : BitVec 32 := e.pc + BitVec.ofNat 32 (4 * a.run.count)

/-- The successor of a word that is no control word (R295). -/
def Arch.fallThrough (a : Arch) (e : Entry) : List Succ := [{ prio := e.prio, pc := a.wordPc e + 4, mask := e.mask }]

/-- The active lanes of an entry (R2, R45). -/
def Arch.active (a : Arch) (e : Entry) : LaneMask :=
  let n := (e.guard.extractLsb' 0 6).toNat
  if n = 63 then e.mask else e.mask &&& (if e.guard.getLsbD 6 then ~~~(a.getP n) else a.getP n)

/-- The word of code at a byte offset, without any check. -/
def codeWord (s : State) (l : Launch) (off : Nat) : Option Word :=
  match translate s l.ctx (l.codeBase + off) with
  | some f => some (BitVec.ofNat 32 (leNat (s.memory.read f.tier f.phys 4)))
  | none => none

/-- The target word of the run that starts at an offset (R412): the first word that is no hint. -/
def targetWord (s : State) (l : Launch) : Nat → Nat → Word
  | 0, _ => 0
  | n + 1, off =>
    if l.kh.codeSize ≤ off then 0
    else match codeWord s l off with
      | none => 0
      | some w => if w.extractLsb' 24 7 = 0x7F then targetWord s l n (off + 4) else w

/-- Bytes of the run that starts at an offset: its hints and its target word. -/
def runBytes (s : State) (l : Launch) : Nat → Nat → Nat
  | 0, _ => 4
  | n + 1, off =>
    match codeWord s l off with
    | some w => if w.extractLsb' 24 7 = 0x7F then 4 + runBytes s l n (off + 4) else 4
    | none => 4

/-- A busy patch of the launch's context holds the run that starts at a code offset, since one of its words lies in the target
(R365). -/
def patchHolds (s : State) (l : Launch) (off : Nat) : Bool :=
  match (s.context l.ctx).patch with
  | none => false
  | some j => l.codeBase + off < j.target + j.bytes.length && j.target < l.codeBase + off + runBytes s l 256 off

/-! ### Results and parking -/

/-- Writes an arrived result into the registers (R39). -/
def Arch.deliver (a : Arch) (r : VarResult) : Arch :=
  let a1 := r.v.foldl (fun a x => { a with v := smSet (0 : Word) x.1 x.2 a.v }) a
  let a2 := r.s.foldl (fun a x => a.setS x.1 x.2) a1
  let a3 := r.t.foldl (fun a x => { a with t := smSet (0 : Byte) x.1 x.2 a.t }) a2
  match r.tile with
  | some (n, true, _) => { a3 with tPoison := if a3.tPoison.contains n then a3.tPoison else n :: a3.tPoison }
  | some (n, false, true) => { a3 with tPoison := a3.tPoison.filter (· != n) }
  | _ => a3

/-- The result writes the register whole (R394). -/
def VarResult.covers (r : VarResult) : RegRef → Bool
  | .v n => lanes.all (fun i => r.v.any (fun c => c.1 == 64 * n + i))
  | .s n => r.s.any (fun c => c.1 == n)
  | .t n => match r.tile with
    | some (m, _, whole) => m == n && whole
    | none => false
  | _ => false

/-- The registers in error after the result (R394, R411). -/
def VarResult.badAfter (r : VarResult) (bad : List RegRef) : List RegRef := (bad.filter (fun b => !r.covers b) ++ r.bad).eraseDups

/-- Empties the pending set and ORs the held ATOM flags into fl (R39, R233). -/
def Group.emptyPending (g : Group) : Group :=
  { g with arch := { g.arch.orFlags g.heldFlags with pending := [] }, heldFlags := [] }

/-- Adds faults that are to be taken before the group issues again: behind those that wait, but one raised in the handler stands
before those that wait for its end (R260, R370). -/
def Group.addAfter (g : Group) (fs : List Trap) : Group :=
  if g.handler.isSome then { g with after := fs.map (fun f => { f with inner := true }) ++ g.after } else { g with after := g.after ++ fs }

/-- The flags that a park makes visible join the arithmetic trap that the same word has already raised (R86, R233). -/
def joinTrap (f : Trap) (lanes : LaneMask) (code : Nat) : Trap := { f with mask := f.mask ||| lanes, code := f.code ||| code }

/-- The word's own arithmetic trap. -/
def Trap.arithmeticOf (pc : BitVec 32) (inner : Bool) (f : Trap) : Bool := f.cls == 12 && f.pc == pc && f.inner == inner

/-- Parks a group that has nothing outstanding: after a switch-marked word, the flags that became visible trap if enabled (R86,
R233). The park of a handler entry behind an unmarked word traps none of them (R374; log entry 33, DEDUCED). -/
def Group.park (g : Group) (amr : Word) (pc : BitVec 32) (word : Word) (mask : LaneMask) : Group :=
  let (lanes, code) := enabledFlags amr g.heldFlags
  let g1 := { g.emptyPending with wait := .none }
  let own := Trap.arithmeticOf pc g.handler.isSome
  if lanes = 0 ∨ word.getLsbD 31 = false then g1
  else if g.after.any own then { g1 with after := g.after.map (fun f => if own f then joinTrap f lanes code.toNat else f) }
  else g1.addAfter [{ cls := 12, code := code.toNat, mask := lanes, pc := pc, word := word, took := true, entry := mask }]

/-- A parked group with nothing outstanding ends its park (R39). -/
def Group.unpark (g : Group) (amr : Word) : Group :=
  match g.wait with
  | .parked pc word mask => if g.outstanding.isEmpty then g.park amr pc word mask else g
  | _ => g

/-- What the switch marker of an issued word does (R39, R42). -/
def Group.marker (g : Group) (amr : Word) (pc : BitVec 32) (word : Word) (mask : LaneMask) : Group :=
  if !word.getLsbD 31 then g
  else if g.outstanding.isEmpty then
    match g.wait with
    | .none => g.park amr pc word mask
    | w => { g.park amr pc word mask with wait := w }
  else { g with wait := .parked pc word mask }

/-- Completes the word at which a group waits: its entry moves on and its marker takes effect (R254, R303, R332). -/
def Group.completeWord (g : Group) (amr : Word) : Group :=
  match g.arch.issuing with
  | none => { g with wait := .none }
  | some e => ({ g with arch := g.arch.advance e (g.arch.fallThrough e), wait := .none }).marker amr e.pc g.waitWord e.mask

/-! ### The extended set (R303 to R305) -/

def Arch.extended (a : Arch) : SMap Word := a.v.filter (fun x => 64 * 128 ≤ x.1)

/-- Replaces v128 to v255. -/
def Arch.setExtended (a : Arch) (m : SMap Word) : Arch := { a with v := a.v.filter (fun x => x.1 < 64 * 128) ++ m }

/-- Grants the set, zeroed, to a group blocked on LOCKX, whose LOCKX then completes (R17, R303). -/
def Group.grantX (g : Group) (amr : Word) : Group :=
  { g.mend RegRef.extended with arch := g.arch.setExtended [], xset := .held }.completeWord amr

/-- Gives the set back to a lender, with its own values (R303, R304). -/
def Group.regainX (g : Group) : Group :=
  { g with arch := g.arch.setExtended g.lentSave, lentSave := [], xset := .held }

/-- What happens to the partner when the set of slot's pair is released (R303, R305). -/
def State.passX (s : State) (core slot : Nat) : State :=
  match s.env? core (slot ^^^ 1) with
  | none => s
  | some e =>
    match e.g.xset, e.g.wait with
    | .lent, _ => s.setGroup e.g.regainX
    | .none, .lockx => s.setGroup (e.g.grantX (s.amr e.l.ctx))
    | _, _ => s

/-! ### Teams that stop (R362, R379, R395) -/

/-- A checkpoint is in progress (R395). -/
def State.checkpointing (s : State) : Bool := field (s.bar 0x1110).toNat 0 2 == 1

/-- The request saves the launch (R377, R379). -/
def Request.saves (r : Request) (l : Launch) : Bool := r.method == 1 && r.ctx == l.ctx && r.tcb == l.tcb

/-- Every team of the launch is being saved or stopped. -/
def State.stopsLaunch (s : State) (l : Launch) : Bool := l.revoking != [] || s.checkpointing || s.requests.any (fun r => r.saves l)

/-- A team issues nothing further past a run boundary: a save of it is due, or a lease of its launch is being revoked. -/
def State.stops (s : State) (t : Team) (l : Launch) : Bool :=
  t.stopping || s.stopsLaunch l

/-- As stops, by the team's number. -/
def State.stopsTeam (s : State) (id : Nat) : Bool := match s.team? id with
  | some t => ((s.launch? t.launch).map (fun l => s.stops t l)).getD false
  | none => false

/-! ### The fault area (R372, R373) -/

/-- The resumable classes (R369). -/
def resumable (cls : Nat) : Bool := [1, 2, 3, 5, 6, 7, 8, 12, 13, 14].contains cls

/-- The part of a record that does not depend on its place: flags, and who raised it. -/
structure Record where
  cls : Nat
  flags : Nat
  code : Nat
  ctx : Nat
  slot : Nat
  core : Nat
  key : BitVec 64
  pc : BitVec 32
  word : Word
  mask : LaneMask
  addr : BitVec 64
  index : Nat
  addrs : List (Nat × Nat × BitVec 64)

/-- The 64 bytes of a record (R372): c addresses follow it, at tick k, sequence q. -/
def Record.bytes (r : Record) (c k q : Nat) : List Byte :=
  record 64 [(0, 1, r.cls), (1, 1, r.flags), (2, 2, r.code), (4, 1, r.ctx), (5, 1, r.slot), (6, 2, r.core),
    (8, 8, r.key.toNat), (0x10, 4, r.pc.toNat), (0x14, 4, r.word.toNat), (0x18, 8, r.mask.toNat), (0x20, 8, r.addr.toNat),
    (0x28, 4, c), (0x2C, 1, r.index), (0x30, 8, k), (0x38, 4, q)]

/-- The bytes of the address entries, padded to whole slots (R373). -/
def addressBytes (as : List (Nat × Nat × BitVec 64)) : List Byte :=
  let bs := as.flatMap (fun a => record 16 [(0, 8, a.2.2.toNat), (8, 1, a.1), (9, 1, a.2.1)])
  sliceBytes bs 0 (64 * ((as.length + 3) / 4))

/-- Writes the area's header (R373). -/
def writeAreaHeader (s : State) (l : Launch) (final : Nat) : State :=
  if l.faultBytes < 64 then s
  else hwWrite s l.ctx l.faultBase.toNat (record 64 [(0, 4, l.records), (4, 4, l.slotsUsed), (8, 4, l.recordsLost),
    (0xC, 4, l.addressesLost), (0x10, 4, final)])

/-- Writes a record with its addresses, as far as the area has room (R373); final says that it ends the task. -/
def writeRecord (s : State) (l : Launch) (r : Record) (final : Bool) : State :=
  let q := l.records + l.recordsLost
  let room := l.faultBytes / 64 - 1
  let n := (r.addrs.length + 3) / 4
  let tick := if l.lh.mode = 0 then s.tick.toNat else 0
  let at_ := l.faultBase.toNat + 64 + 64 * l.slotsUsed
  let last := if final then q else 0xFFFFFFFF
  if l.slotsUsed + 1 + n ≤ room then
    let l1 := { l with records := l.records + 1, slotsUsed := l.slotsUsed + 1 + n }
    writeAreaHeader (hwWrite (s.setLaunch l1) l.ctx at_ (r.bytes r.addrs.length tick q ++ addressBytes r.addrs)) l1 last
  else if l.slotsUsed + 1 ≤ room then
    let l1 := { l with records := l.records + 1, slotsUsed := l.slotsUsed + 1, addressesLost := l.addressesLost + r.addrs.length }
    writeAreaHeader (hwWrite (s.setLaunch l1) l.ctx at_ (r.bytes 0 tick q)) l1 last
  else
    let l1 := { l with recordsLost := l.recordsLost + 1 }
    writeAreaHeader (s.setLaunch l1) l1 last

/-- The flags byte of a record (R372). -/
def recordFlags (cls : Nat) (handled inHandler async took : Bool) : Nat :=
  (if resumable cls then 1 else 0) + (if handled then 2 else 0) + (if inHandler then 4 else 0) + (if async then 8 else 0)
    + (if took then 16 else 0)

/-- The record of a fault that a group takes (R372). -/
def Env.record (e : Env) (f : Trap) (handled : Bool) : Record :=
  { cls := f.cls, flags := recordFlags f.cls handled e.g.handler.isSome f.async f.took, code := f.code, ctx := e.l.ctx,
    slot := e.g.slot, core := e.g.core, key := e.key, pc := f.pc, word := f.word, mask := f.mask, addr := f.addr,
    index := e.g.index, addrs := f.addrs }

/-! ### The end of a task by fault (R313) -/

/-- Raises the context's completion interrupt when the TCB's flag asks for it (R310, R312). -/
def completionInterrupt (s : State) (ctx : Nat) (tcb : BitVec 64) : State :=
  match hwRead s ctx (tcb.toNat + 5) 1 with
  | some [b] => if b.getLsbD 0 then { s with link := { s.link with interrupts := ctx :: s.link.interrupts } } else s
  | _ => s

/-- Writes a TCB's state and status (R310). -/
def writeTcb (s : State) (ctx : Nat) (tcb : BitVec 64) (state status : Nat) : State :=
  hwWrite (hwWrite s ctx (tcb.toNat + 0xC) (leBytes 4 status)) ctx (tcb.toNat + 4) [BitVec.ofNat 8 state]

/-- Removes a group from its slot: its extended set passes on (R303, R305). -/
def State.removeGroup (s : State) (core slot : Nat) : State :=
  match s.group? core slot with
  | none => s
  | some g =>
    let s1 := s.dropGroup core slot
    if g.xset = .held then s1.passX core slot else s1

/-- Removes what a core holds for a set of teams and a launch (R262, R282, R292). -/
def Core.forget (k : Core) (teams : List Nat) (launch : Option Nat) : Core :=
  { k with
    bins := k.bins.filter (fun b => some b.launch != launch)
    spawnQueue := k.spawnQueue.filter (fun b => some b.launch != launch)
    inputs := k.inputs.filter (fun x => !teams.contains x.team)
    resuming := k.resuming.filter (fun x => !teams.contains x.input.team)
    results := k.results.filter (fun x => !teams.contains x.team)
    block := match k.block with
      | some b => if teams.contains b.input.team then none else some b
      | none => none }

/-- Removes every trace of a launch's teams, tiles, commands, bins and leases (R312 step 2, R313). -/
def State.dropLaunch (s : State) (id : Nat) : State :=
  let ts := (s.teams.filter (fun t => t.launch == id)).map (·.id)
  let gs := s.groups.filter (fun g => ts.contains g.team)
  let s1 := gs.foldl (fun s g => s.removeGroup g.core g.slot) s
  { s1 with
    teams := s1.teams.filter (fun t => t.launch != id)
    commands := s1.commands.filter (fun c => c.launch != id)
    ghosts := s1.ghosts.filter (fun t => t.launch != id)
    cores := (s1.cores.map (fun k => (k.1, k.2.forget ts (some id)))).filter (fun k => k.2 != {})
    departures := s1.departures.filter (fun d => d.launch != id)
    launches := s1.launches.filter (fun l => l.id != id) }

/-- A task ends by fault (R313): its teams end, its tiles and leases are released, and its TCB receives state 5 with the
class. -/
def endTask (s : State) (id cls : Nat) : State :=
  match s.launch? id with
  | none => s
  | some l =>
    completionInterrupt (writeTcb (s.dropLaunch id) l.ctx l.tcb 5 cls) l.ctx l.tcb

/-! ### Taking a fault (R370, R374) -/

/-- The trap state of R375 in s56 to s63. -/
def Arch.setTrapState (a : Arch) (f : Trap) (flags : Nat) (resume : BitVec 32) : Arch :=
  let ws : List Word := [BitVec.ofNat 32 (f.cls + flags * 2 ^ 8 + f.code * 2 ^ 16), f.word, f.pc, resume,
    f.mask.extractLsb' 0 32, f.mask.extractLsb' 32 32, f.addr.extractLsb' 0 32, f.addr.extractLsb' 32 32]
  (ws.zip (List.range 8)).foldl (fun a x => a.setS (56 + x.2) x.1) a

/-- s56 to s63, for the trap shadow (R374). -/
def Arch.trapRegs (a : Arch) : List Word := (List.range 8).map (fun k => a.getS (56 + k))

/-- Steps 3 to 5 of R374: the shadow and the trap state, the suspended entry, and the handler entry. The entry that faults
is the one that holds the lowest lane of the fault's entry mask; lanes of other entries that merged with it stay behind. -/
def Group.enterHandler (g : Group) (f : Trap) (flags : Nat) (handler : BitVec 32) : Group :=
  match g.arch.frontier.find? (fun e => e.mask &&& f.entry != 0) with
  | none => g
  | some e =>
    let sus := { e with mask := e.mask &&& f.entry }
    let rest := (g.arch.frontier.map (fun x => if x.key = e.key then { x with mask := x.mask &&& ~~~f.entry } else x)).filter (fun x => x.mask != 0)
    let a := g.arch.setTrapState f flags (f.resume.getD e.pc)
    { g.mend RegRef.trapState with
      arch := { a with frontier := [{ prio := 0, pc := handler, mask := sus.mask, guard := guardNone }], aging := 0, aged := false,
                       run := {}, pending := [] }
      handler := some { suspended := sus, frozen := rest, shadow := g.arch.trapRegs, bad := g.bad.filter RegRef.trapState }
      wait := .none }

/-- Whether a fault goes to the trap handler (R370). -/
def Env.handles (e : Env) (f : Trap) : Bool := resumable f.cls && e.l.kh.trap != 0xFFFFFFFF && e.g.handler.isNone

/-- The word at which a park for a fault stands: a word that took no effect issues again, so it does not count as marked. -/
def Trap.parkWord (f : Trap) : Word := if f.took then f.word else f.word &&& 0x7FFFFFFF

/-- A fault as its record shows it, when the park of its word makes flags visible (R86, R233). -/
def Trap.joinHeld (f : Trap) (e : Env) (amr : Word) : Trap :=
  let (lanes, code) := enabledFlags amr e.g.heldFlags
  if f.cls = 12 ∧ f.parkWord.getLsbD 31 = true then joinTrap f lanes code.toNat else f

/-- The group after the park of a fault (R374): the held flags of a marked word join its own arithmetic trap or make one. -/
def Group.parkFor (g : Group) (f : Trap) (amr : Word) : Group :=
  if f.cls = 12 then g.emptyPending else { g.park amr f.pc f.parkWord f.entry with wait := g.wait }

/-- The group in a slot takes a fault (R370, R374): with results outstanding it parks first, and the fault waits in its
list; none says that the record's turn in the order log has not come (R373, R389 kind 10). -/
def takeFault (s : State) (core slot : Nat) (f : Trap) : Option State :=
  match s.env? core slot with
  | none => some s
  | some e =>
    let amr := s.amr e.l.ctx
    if (e.handles f || f.parkWord.getLsbD 31) && !e.g.outstanding.isEmpty then
      some (s.setGroup { e.g with after := { f with inner := e.g.handler.isSome } :: e.g.after, wait := .parked f.pc f.parkWord f.entry })
    else
      match choose s e.l.id 10 unitLaunch (BitVec.ofNat 32 f.cls) (agentTag e.g e.g.request) e.t.id with
      | .wait => none
      | .mismatch n =>
        let f : Trap := { cls := 16, code := n, pc := f.pc, word := f.word, took := f.took, entry := f.entry }
        some (endTask (writeRecord s e.l (e.record f false) true) e.l.id 16)
      | .go s1 =>
        let l := (s1.launch? e.l.id).getD e.l
        let f := f.joinHeld e amr
        if e.handles f then
          let flags := recordFlags f.cls true false f.async f.took
          let g := { e.g.parkFor f amr with fence := none }.enterHandler f flags e.l.kh.trap
          some ((writeRecord s1 l (e.record f true) false).setGroup g)
        else some (endTask (writeRecord s1 l (e.record f false) true) e.l.id f.cls)

/-- A replay fault of a group (R391). -/
def replayFault (s : State) (core slot code : Nat) (pc : BitVec 32) (word : Word) : State :=
  match s.env? core slot with
  | none => s
  | some e =>
    endTask (writeRecord s e.l (e.record { cls := 16, code := code, pc := pc, word := word, entry := 0#64 } false) true) e.l.id 16

/-- The fields of a fault that no issued word raised: the run of the head entry (R412). -/
def Env.headTrap (e : Env) (s : State) (cls code : Nat) : Trap :=
  match e.g.arch.issuing with
  | some x => { cls := cls, code := code, pc := x.pc, word := targetWord s e.l 256 x.pc.toNat, entry := x.mask }
  | none => { cls := cls, code := code, pc := 0, word := 0, entry := 0 }

/-- A replay fault of a group that stands at no faulting word (R391, R412): the record is that of its head entry's run. -/
def replayWaiting (s : State) (e : Env) (code : Nat) : State :=
  endTask (writeRecord s e.l (e.record (e.headTrap s 16 code) false) true) e.l.id 16

/-- A group of a team whose every group takes a fault writes its record when its turn has come (R370, R373, R389 kind 10); the answer
is the state, and whether the task has ended by a replay fault. -/
def memberRecord (cls : Nat) (acc : State × Bool) (g : Group) : State × Bool :=
  if acc.2 then acc
  else match acc.1.env? g.core g.slot with
    | none => acc
    | some e =>
      if e.g.wait = .faulted then acc
      else match choose acc.1 e.l.id 10 unitLaunch (BitVec.ofNat 32 cls) (agentTag e.g e.g.request) e.t.id with
        | .wait => acc
        | .mismatch n => (replayWaiting acc.1 e n, true)
        | .go s1 =>
          let s2 := writeRecord s1 ((s1.launch? e.l.id).getD e.l) (e.record (e.headTrap s1 cls 0) false) true
          (s2.setGroup { e.g with wait := .faulted }, false)

/-- Every group of a team writes its own record of a fault that ends the task; the task ends once, when all have (R339, R341, R370).
In replay a record waits for its turn (R391): none when no turn has come. -/
def teamFault (s : State) (team cls : Nat) : Option State :=
  match s.team? team with
  | none => none
  | some t =>
    let r := (s.groups.filter (fun g => g.team == team)).foldl (memberRecord cls) (s, false)
    let waiting (s : State) : Nat := (s.groups.filter (fun g => g.team == team && g.wait != .faulted)).length
    if r.2 then some r.1
    else if waiting r.1 = 0 then some (endTask r.1 t.launch cls)
    else if waiting r.1 < waiting s then some r.1
    else none

/-- A fault that belongs to no group ends a task with the record of R412. -/
def launchFault (s : State) (id cls code : Nat) : State :=
  match s.launch? id with
  | none => s
  | some l =>
    let r : Record :=
      { cls := cls, flags := recordFlags cls false false false false, code := code, ctx := l.ctx, slot := 0,
        core := 0xFFFF, key := 0, pc := 0, word := 0, mask := 0, addr := 0, index := 0, addrs := [] }
    endTask (writeRecord s l r true) id cls

/-- The live groups of a launch that match a tag, with their teams; the one that started first stands first (R388). -/
def State.tagged (s : State) (l : Launch) (tag : BitVec 64) : List Env :=
  (sortBy (fun t : Team => t.id) (s.teams.filter (fun t => t.launch == l.id))).flatMap (fun t =>
    ((s.groupsLive t).filter (fun g => sameAgent (agentTag g 0) tag)).map (fun g => ⟨g, t, l⟩))

/-- A replay fault of the agent of a tag: the record is that of its group while the group lives, and belongs to no group
afterwards (R391, R412). -/
def agentFault (s : State) (id code : Nat) (tag : BitVec 64) : State :=
  match (s.launch? id).bind (fun l => (s.tagged l tag).head?) with
  | some e => replayWaiting s e code
  | none => launchFault s id 16 code

/-! ### Returning from the handler (R376) -/

/-- The handler ends: s56 to s63 come back, with the errors of their values (R394), the suspended lanes stand at their priority and the given PC with guard none,
and the frozen entries are live again. -/
def Group.leaveHandler (g : Group) (h : Handler) (resume : BitVec 32) : Group :=
  let a := (h.shadow.zip (List.range 8)).foldl (fun a x => a.setS (56 + x.2) x.1) g.arch
  let fr := if h.suspended.mask = 0 then h.frozen
    else insertEntry { prio := h.suspended.prio, pc := resume, mask := h.suspended.mask, guard := guardNone } h.frozen
  { g with arch := { a with frontier := fr, aging := 0, aged := false, run := {} }, handler := none
           bad := (g.mend RegRef.trapState).bad ++ h.bad }

end Sys2Proof.Machine
end

