-- ==== Sys2Proof/Machine/ControlArea.lean ====
section
/-! DEFINITION. The group control area: where it lies in the context's thread-local memory, and the spills that the hardware keeps
there (spec/12_execution.md R297, R300, R304 and R306, spec/14_isolation.md R364). The group's own fields stay the truth: the area
holds a copy of what they say is spilled (log entry 59, DEDUCED). -/

namespace Sys2Proof.Machine

/-- A frontier record (R306). -/
def frontierRecord (e : Entry) (last : Nat) : List Byte :=
  record 16 [(0, 8, e.mask.toNat), (8, 4, e.pc.toNat), (12, 2, e.prio.toNat), (14, 1, e.guard.toNat), (15, 1, last)]

/-- A return record (R306). -/
def returnRecord (r : Return) : List Byte := record 8 [(0, 4, r.pc.toNat), (4, 2, r.prio.toNat)]

/-- The entries of a group in key order, frozen ones marked (R297, R374). -/
def areaFrontier (g : Group) : List (Entry × Nat) :=
  let live := g.arch.frontier.map (fun e => (e, 0))
  let frozen := match g.handler with
    | some h => h.frozen.map (fun e => (e, 1))
    | none => []
  sortBy (fun x : Entry × Nat => x.1.key) (live ++ frozen)

/-- The frontier spill: the entries behind the 16 with the lowest keys. -/
def frontierSpill (g : Group) : List (Nat × List Byte) :=
  let es := (areaFrontier g).drop 16
  (es.zip (List.range es.length)).map (fun e => (16 * e.2, frontierRecord e.1.1 0))

/-- The return-stack spill of a lane: its entries but for the 8 newest, by level from the oldest. -/
def returnSpill (lane : Nat) (rs : List Return) : List (Nat × List Byte) :=
  let old := (rs.drop 8).reverse
  (old.zip (List.range old.length)).map (fun r => (0x200 + (64 * r.2 + lane) * 8, returnRecord r.1))

/-- The lending save: a lender's v128 to v255. -/
def lendingSave (g : Group) : List (Nat × List Byte) :=
  if g.xset = .lent then
    (List.range 128).map (fun k =>
      (0x7200 + 256 * k, lanes.flatMap (fun i => leBytes 4 (smGet (0 : Word) (64 * (128 + k) + i) g.lentSave).toNat)))
  else []

/-- What a group's control area holds, by offset (R306). -/
def spills (g : Group) : List (Nat × List Byte) :=
  frontierSpill g ++ g.arch.returns.flatMap (fun x => returnSpill x.1 x.2) ++ lendingSave g

/-- Writes bytes at a virtual address for the hardware, sector by sector, as no access (R207); where nothing is mapped, nothing is
written. -/
def hwSpill (s : State) (ctx : Nat) (p : Nat × List Byte) : State :=
  (sectorsOf p.1 p.2).foldl (fun s q => match translate s ctx q.1 with
    | some f => s.putPlace (.mem f.tier f.phys 0) q.2
    | none => s) s

/-- The spills of a group that stand in no control area yet: all of them when the group has come to its slot since. -/
def newSpills (before : State) (g : Group) : List (Nat × List Byte) :=
  match before.group? g.core g.slot with
  | some o =>
    if o.team = g.team ∧ o.index = g.index then
      (if o.arch.frontier = g.arch.frontier ∧ o.arch.returns = g.arch.returns ∧ o.handler = g.handler ∧ o.xset = g.xset then []
       else (spills g).filter (fun p => !(spills o).contains p))
    else spills g
  | none => spills g

/-- The spills that a step brings about reach the control areas (R297, R300, R304). -/
def keepControl (before s : State) : State :=
  s.groups.foldl (fun s g =>
    match newSpills before g with
    | [] => s
    | ps => match s.env? g.core g.slot with
      | some e => ps.foldl (fun s p => hwSpill s e.l.ctx (controlArea s e.l g + p.1, p.2)) s
      | none => s) s

end Sys2Proof.Machine
end

