-- ==== Sys2Proof/WellFormed.lean ====
section
/-! DEFINITION. Which terms of Instr are well formed: every code of every field is one the spec lists (R32, R36, R38 step 2),
and an event has no operand of its own. Register numbers are not judged here: a register outside its class raises an
illegal-register fault when the word issues (R38 step 4). -/

namespace Sys2Proof

/-- A 6-bit X-format operand: a tile register with [4:3] zero, or a descriptor (R36). -/
def WellFormed.xOperand (x : BitVec 6) : Bool := x.getLsbD 5 || x.extractLsb' 3 2 == 0

/-- A 6-bit X-format operand that must name a tile register (R185). -/
def WellFormed.xTile (x : BitVec 6) : Bool := x.extractLsb' 3 3 == 0

/-- The system register numbers of R337 and R349. -/
def WellFormed.systemRegister (n : Nat) : Bool :=
  n ≤ 0x009 || (0x100 ≤ n && n ≤ 0x13C) || (0x180 ≤ n && n ≤ 0x187)

/-- Every code of every field is listed by the spec. -/
def Instr.wellFormed : Instr → Bool
  | .iadd _ _ _ => true
  | .isub _ _ _ => true
  | .imul _ _ _ => true
  | .imulhS32 _ _ _ => true
  | .imulhN32 _ _ _ => true
  | .imad _ _ _ => true
  | .iminS32 _ _ _ => true
  | .imaxS32 _ _ _ => true
  | .iminN32 _ _ _ => true
  | .imaxN32 _ _ _ => true
  | .and _ _ _ => true
  | .or _ _ _ => true
  | .xor _ _ _ => true
  | .shl _ _ _ => true
  | .shr _ _ _ => true
  | .sar _ _ _ => true
  | .iadd64 _ _ _ => true
  | .isub64 _ _ _ => true
  | .bfeS32 _ _ _ => true
  | .bfeN32 _ _ _ => true
  | .bfi _ _ _ => true
  | .iaddi _ _ _ => true
  | .andi _ _ _ => true
  | .ori _ _ _ => true
  | .shli _ _ _ => true
  | .shri _ _ _ => true
  | .sari _ _ _ => true
  | .mov _ _ => true
  | .not _ _ => true
  | .ineg _ _ => true
  | .iabs _ _ => true
  | .popc _ _ => true
  | .clz _ _ => true
  | .brev _ _ => true
  | .sextS8 _ _ => true
  | .sextS16 _ _ => true
  | .zextN8 _ _ => true
  | .zextN16 _ _ => true
  | .mov64 _ _ => true
  | .movi _ _ => true
  | .movhi _ _ => true
  | .icmpS32 _ _ _ _ => true
  | .icmpN32 _ _ _ _ => true
  | .plog _ _ _ _ => true
  | .pmvVp _ _ => true
  | .pmvPv _ _ => true
  | .pmvSp _ _ => true
  | .pmvPs _ _ => true
  | .voteBallot _ _ => true
  | .voteAny _ _ => true
  | .voteAll _ _ => true
  | .voteUni _ _ => true
  | .voteActive _ => true
  | .voteCount _ _ => true
  | .shflIdx _ _ _ => true
  | .shflUp _ _ _ => true
  | .shflDown _ _ _ => true
  | .shflXor _ _ _ => true
  | .shflv _ _ _ => true
  | .matchB32 _ _ => true
  | .matchB64 _ _ => true
  | .xred _ _ _ k o => k != 3 && o.toNat < 10
  | .uadd _ _ _ => true
  | .usub _ _ _ => true
  | .umul _ _ _ => true
  | .umulhS32 _ _ _ => true
  | .umulhN32 _ _ _ => true
  | .uand _ _ _ => true
  | .uor _ _ _ => true
  | .uxor _ _ _ => true
  | .ushl _ _ _ => true
  | .ushr _ _ _ => true
  | .usar _ _ _ => true
  | .uminS32 _ _ _ => true
  | .umaxS32 _ _ _ => true
  | .uminN32 _ _ _ => true
  | .umaxN32 _ _ _ => true
  | .umov _ _ => true
  | .unot _ _ => true
  | .usetEq _ _ _ => true
  | .usetNe _ _ _ => true
  | .usetLtS32 _ _ _ => true
  | .usetLeS32 _ _ _ => true
  | .usetLtN32 _ _ _ => true
  | .usetLeN32 _ _ _ => true
  | .uadd64 _ _ _ => true
  | .usub64 _ _ _ => true
  | .upopc _ _ => true
  | .uclz _ _ => true
  | .umovi _ _ => true
  | .uaddi _ _ => true
  | .umovhi _ _ => true
  | .uvmovVs _ _ => true
  | .uvmovSv _ _ _ => true
  | .uvmovFirst _ _ => true
  | .laddLn8 _ _ _ => true
  | .laddLn16 _ _ _ => true
  | .laddLn32 _ _ _ => true
  | .lsubLn8 _ _ _ => true
  | .lsubLn16 _ _ _ => true
  | .lsubLn32 _ _ _ => true
  | .lmulLn8 _ _ _ => true
  | .lmulLn16 _ _ _ => true
  | .lmulLn32 _ _ _ => true
  | .lmadLn8 _ _ _ => true
  | .lmadLn16 _ _ _ => true
  | .lmadLn32 _ _ _ => true
  | .ldivLn16 _ _ _ => true
  | .ldivLn32 _ _ _ => true
  | .lminLn16 _ _ _ => true
  | .lminLn32 _ _ _ => true
  | .lmaxLn16 _ _ _ => true
  | .lmaxLn32 _ _ _ => true
  | .lpowLn32 _ _ _ => true
  | .lscaleLn16 _ _ _ => true
  | .lscaleLn32 _ _ _ => true
  | .lcmpLn16 _ _ _ _ => true
  | .lcmpLn32 _ _ _ _ => true
  | .lneg _ _ f => f != 3
  | .labs _ _ f => f != 3
  | .lrcp _ _ f => f != 3
  | .lsqr _ _ f => f != 3
  | .lsqrt _ _ f => f != 3
  | .lrsqrt _ _ f => f != 3
  | .lexp2 _ _ f => f == 1 || f == 2
  | .llog2 _ _ f => f == 1 || f == 2
  | .lexp _ _ f => f == 1 || f == 2
  | .lsint _ _ f => f == 1 || f == 2
  | .lcost _ _ f => f == 1 || f == 2
  | .lclass _ _ f => f != 3
  | .lcvtLn8 _ _ s => s != 3
  | .lcvtLn16 _ _ s => s != 3
  | .lcvtLn32 _ _ s => s != 3
  | .lgetl _ _ f => f != 3
  | .lmkl _ _ f => f != 3
  | .lunpk0 _ _ f => f == 1 || f == 2
  | .lunpk1 _ _ f => f == 1 || f == 2
  | .lunpk2 _ _ f => f == 1 || f == 2
  | .lunpk3 _ _ f => f == 1 || f == 2
  | .lfix _ _ f _ _ => f != 3
  | .lflt _ _ f _ _ => f != 3
  | .fcvtToLn _ _ l e => l != 3 && e.toNat < 4
  | .fcvtToIeee _ _ l e => l != 3 && e.toNat < 4
  | .lpack _ _ _ => true
  | .flagGet _ => true
  | .flagSet _ => true
  | .flagClr _ => true
  | .flagPut _ => true
  | .flagGor _ => true
  | .flagTst _ _ => true
  | .lmma _ a b f s _ => WellFormed.xOperand a && WellFormed.xOperand b && f.toNat < 4 && (s == 0 || (a.getLsbD 5 && b.getLsbD 5))
  | .lmms _ a b f _ n _ => a.getLsbD 5 && b.getLsbD 5 && (f == 0 || f == 2 || f == 3) && n != 3
  | .imma _ a b _ _ => WellFormed.xOperand a && WellFormed.xOperand b
  | .aclrLn32 _ => true
  | .aclrLn16 _ => true
  | .aclrS32 _ _ => true
  | .ard _ _ _ => true
  | .awr _ _ => true
  | .amov _ _ => true
  | .tld t d _ => WellFormed.xTile t && d.getLsbD 5
  | .tst t d _ => WellFormed.xTile t && d.getLsbD 5
  | .tmov t u => WellFormed.xTile t && WellFormed.xTile u
  | .twset _ _ => true
  | .twget _ _ => true
  | .mwait _ => true
  | .gset _ _ => true
  | .gcfg _ _ => true
  | .ldgUniformVector _ _ b _ => b != 63
  | .ldgUniform _ b _ => b != 63
  | .ldgVector _ _ _ => true
  | .stgUniformVector _ _ b _ => b != 63
  | .stgUniform _ b _ => b != 63
  | .stgVector _ _ _ => true
  | .ldhVector _ _ _ _ => true
  | .ldhOffset _ _ _ => true
  | .sthVector _ _ _ _ => true
  | .sthOffset _ _ _ => true
  | .atom _ _ o t => o.toNat < 10 || (o == 10 && !t.getLsbD 0)
  | .red _ _ o t => (2 ≤ o.toNat && o.toNat < 10) || (o == 10 && !t.getLsbD 0)
  | .fenceX _ => true
  | .talloc _ _ _ => true
  | .tfree _ => true
  | .pref _ _ _ => true
  | .vspl _ _ _ => true
  | .vfil _ _ _ => true
  | .qpush _ _ => true
  | .qpop _ _ => true
  | .qtry _ _ _ => true
  | .thrGet _ n => 1 ≤ n.toNat && n.toNat ≤ 32
  | .thrPeek _ n => 1 ≤ n.toNat && n.toNat ≤ 32
  | .thrSkip _ _ => true
  | .thrBfx _ _ _ _ _ => true
  | .thrLut _ _ _ => true
  | .thrTbw _ _ _ => true
  | .thrRefill _ _ => true
  | .thrMovi _ _ => true
  | .thrAdd _ _ i => !i.getLsbD 10 || i.extractLsb' 4 6 == 0
  | .thrSub _ _ i => !i.getLsbD 10 || i.extractLsb' 4 6 == 0
  | .thrAnd _ _ i => !i.getLsbD 10 || i.extractLsb' 4 6 == 0
  | .thrOr _ _ i => !i.getLsbD 10 || i.extractLsb' 4 6 == 0
  | .thrXor _ _ i => !i.getLsbD 10 || i.extractLsb' 4 6 == 0
  | .thrShl _ _ i => !i.getLsbD 10 || i.extractLsb' 4 6 == 0
  | .thrShr _ _ i => !i.getLsbD 10 || i.extractLsb' 4 6 == 0
  | .thrSar _ _ i => !i.getLsbD 10 || i.extractLsb' 4 6 == 0
  | .thrEmit _ n => 1 ≤ n.toNat && n.toNat ≤ 4
  | .thrCopy _ _ => true
  | .thrBr c a _ => c.toNat < 7 && ((c != 0 && c != 5 && c != 6) || a == 0)
  | .qbindInit _ _ => true
  | .qbindAttach _ _ => true
  | .qbindUnbind _ => true
  | .waitmUniformVector _ _ b _ => b != 63
  | .waitmUniform _ b _ => b != 63
  | .waitmVector _ _ _ => true
  | .bra _ => true
  | .brp _ _ _ => true
  | .call _ => true
  | .jmp _ => true
  | .calli _ => true
  | .spawn _ _ => true
  | .bar l _ => l.toNat < 6
  | .barl _ _ l _ => l.toNat < 6
  | .tsub _ _ => true
  | .widF0 _ => true
  | .widF1 _ => true
  | .widF2 _ => true
  | .widF3 _ => true
  | .widF4 _ => true
  | .widF5 _ => true
  | .widId _ => true
  | .widKey _ => true
  | .widExt0 _ => true
  | .widExt1 _ => true
  | .widExt2 _ => true
  | .widExt3 _ => true
  | .widExt4 _ => true
  | .widExt5 _ => true
  | .sread _ n => WellFormed.systemRegister n.toNat
  | .swrite h _ l => WellFormed.systemRegister (h.toNat * 64 + l.toNat)
  | .trap _ => true
  | .bkpt _ => true
  | .limm _ => true
  | .rnd r => r.toNat < 5
  | .guard v p => !v || p != 63
  | .bpri _ _ => true
  | .mwaitAll => true
  | .abfl => true
  | .thrHalt => true
  | .nop => true
  | .ret => true
  | .exit => true
  | .yield => true
  | .lockx => true
  | .unlockx => true
  | .tret => true
  | .hnop => true
  | .sat => true
  | .placement => true
  | .variableLatencyResult => true
  | .fenceCompletion => true
  | .fenceRollback => true
  | .tileEnginePass => true
  | .queueUnblock => true
  | .monitorWake => true
  | .waitmTimeout => true
  | .barrierRelease => true
  | .clusterDeparture => true
  | .extendedSetLending => true
  | .agedIssue => true
  | .yieldExpiry => true
  | .binTimerExpiry => true
  | .spawnedGroupStart => true
  | .watchdogFault => true
  | .queueDeadlock => true
  | .copyOrConvert => true
  | .expand => true
  | .gather => true
  | .scatter => true
  | .scatterAdd => true
  | .allReduce => true
  | .reduceScatter => true
  | .allGather => true
  | .broadcast => true
  | .linkError => true
  | .thresherInputTake => true
  | .thresherStepLimit => true
  | .submit => true
  | .psubmit => true
  | .admission => true
  | .dispatchStep => true
  | .teamRetirement => true
  | .launchRetirement => true
  | .preemptChosen => true
  | .preemptSave => true
  | .preemptDrain => true
  | .preemptFlush => true
  | .preresume => true
  | .atsInvalidationRequest => true
  | .leaseRegrant => true
  | .xlinv => true
  | .patch => true
  | .ctxstateActivate => true
  | .ctxstateFree => true
  | .commWrite => true
  | .rangeRegisterWrite => true
  | .substatClear => true
  | .mgerrClear => true
  | .errcntClear => true
  | .registerWrite => true
  | .firmwareInstall => true
  | .fuseRaise => true
  | .attestationReport => true
  | .certificateChain => true
  | .checkpoint => true
  | .checkpointRestore => true
  | .bar4Access => true
  | .powerOn => true
  | .timingErrorReplay => true
  | .correctedError => true
  | .uncorrectableError => true
  | .scrub => true
  | .powerTokenBid => true
  | .droop => true
  | .thermalThrottle => true
  | .thermalShutdown => true
  | .unassignedMajor => true
  | .deviceReset => true

end Sys2Proof
end

