-- ==== Sys2Proof/Decode.lean ====
section
/-! DEFINITION. Words to instructions and back (spec/02_encoding.md R29 to R38, R45 to R48, R63 to R65). decodeWord reads
an N3 word: a word whose fixed bits are those of a row is that row's instruction, whatever its field codes; a word of an
assigned major that fits no row has a reserved bit set or a code that is not listed (R31, R32); a word of an unassigned
major is the row UNASSIGNED_MAJOR (R48). Codes that a row's field may hold but the spec does not list raise their fault when
the word issues (Machine/Operands.lean). -/

namespace Sys2Proof

/-- Why a word of an assigned major is no instruction (R38 step 2). -/
inductive DecodeError where
  /-- a reserved bit is not zero, or the function, op or micro-op code is not listed (R31, R32) -/
  | reservedOrUnlisted
  /-- fewer than four bytes -/
  | truncated
deriving DecidableEq, Repr

/-- The N3 words of majors 0x00 to 0x0F (row 0x0_ of the table in R47). -/
def decodeRow0 (k : Nat) (w : BitVec 32) : Except DecodeError Instr :=
  if k = 0x01 then
    .ok (.iadd (w.extractLsb' 16 8) (w.extractLsb' 8 8) (w.extractLsb' 0 8))
  else if k = 0x02 then
    .ok (.isub (w.extractLsb' 16 8) (w.extractLsb' 8 8) (w.extractLsb' 0 8))
  else if k = 0x03 then
    .ok (.imul (w.extractLsb' 16 8) (w.extractLsb' 8 8) (w.extractLsb' 0 8))
  else if k = 0x04 then
    .ok (.imulhS32 (w.extractLsb' 16 8) (w.extractLsb' 8 8) (w.extractLsb' 0 8))
  else if k = 0x05 then
    .ok (.imulhN32 (w.extractLsb' 16 8) (w.extractLsb' 8 8) (w.extractLsb' 0 8))
  else if k = 0x06 then
    .ok (.imad (w.extractLsb' 16 8) (w.extractLsb' 8 8) (w.extractLsb' 0 8))
  else if k = 0x07 then
    .ok (.iminS32 (w.extractLsb' 16 8) (w.extractLsb' 8 8) (w.extractLsb' 0 8))
  else if k = 0x08 then
    .ok (.imaxS32 (w.extractLsb' 16 8) (w.extractLsb' 8 8) (w.extractLsb' 0 8))
  else if k = 0x09 then
    .ok (.iminN32 (w.extractLsb' 16 8) (w.extractLsb' 8 8) (w.extractLsb' 0 8))
  else if k = 0x0A then
    .ok (.imaxN32 (w.extractLsb' 16 8) (w.extractLsb' 8 8) (w.extractLsb' 0 8))
  else if k = 0x0B then
    .ok (.and (w.extractLsb' 16 8) (w.extractLsb' 8 8) (w.extractLsb' 0 8))
  else if k = 0x0C then
    .ok (.or (w.extractLsb' 16 8) (w.extractLsb' 8 8) (w.extractLsb' 0 8))
  else if k = 0x0D then
    .ok (.xor (w.extractLsb' 16 8) (w.extractLsb' 8 8) (w.extractLsb' 0 8))
  else if k = 0x0E then
    .ok (.shl (w.extractLsb' 16 8) (w.extractLsb' 8 8) (w.extractLsb' 0 8))
  else if k = 0x0F then
    .ok (.shr (w.extractLsb' 16 8) (w.extractLsb' 8 8) (w.extractLsb' 0 8))
  else .ok .unassignedMajor

/-- The N3 words of majors 0x10 to 0x1F (row 0x1_ of the table in R47). -/
def decodeRow1 (k : Nat) (w : BitVec 32) : Except DecodeError Instr :=
  if k = 0x10 then
    .ok (.sar (w.extractLsb' 16 8) (w.extractLsb' 8 8) (w.extractLsb' 0 8))
  else if k = 0x11 then
    .ok (.iadd64 (w.extractLsb' 16 8) (w.extractLsb' 8 8) (w.extractLsb' 0 8))
  else if k = 0x12 then
    .ok (.isub64 (w.extractLsb' 16 8) (w.extractLsb' 8 8) (w.extractLsb' 0 8))
  else if k = 0x13 then
    .ok (.bfeS32 (w.extractLsb' 16 8) (w.extractLsb' 8 8) (w.extractLsb' 0 8))
  else if k = 0x14 then
    .ok (.bfeN32 (w.extractLsb' 16 8) (w.extractLsb' 8 8) (w.extractLsb' 0 8))
  else if k = 0x15 then
    .ok (.bfi (w.extractLsb' 16 8) (w.extractLsb' 8 8) (w.extractLsb' 0 8))
  else if k = 0x16 then
    .ok (.iaddi (w.extractLsb' 16 8) (w.extractLsb' 8 8) (w.extractLsb' 0 8))
  else if k = 0x17 then
    .ok (.andi (w.extractLsb' 16 8) (w.extractLsb' 8 8) (w.extractLsb' 0 8))
  else if k = 0x18 then
    .ok (.ori (w.extractLsb' 16 8) (w.extractLsb' 8 8) (w.extractLsb' 0 8))
  else if k = 0x19 then
    .ok (.shli (w.extractLsb' 16 8) (w.extractLsb' 8 8) (w.extractLsb' 0 8))
  else if k = 0x1A then
    .ok (.shri (w.extractLsb' 16 8) (w.extractLsb' 8 8) (w.extractLsb' 0 8))
  else if k = 0x1B then
    .ok (.sari (w.extractLsb' 16 8) (w.extractLsb' 8 8) (w.extractLsb' 0 8))
  else if k = 0x1C then
    if w.extractLsb' 0 8 = 0x0#8 then .ok (.mov (w.extractLsb' 16 8) (w.extractLsb' 8 8))
    else if w.extractLsb' 0 8 = 0x1#8 then .ok (.not (w.extractLsb' 16 8) (w.extractLsb' 8 8))
    else if w.extractLsb' 0 8 = 0x2#8 then .ok (.ineg (w.extractLsb' 16 8) (w.extractLsb' 8 8))
    else if w.extractLsb' 0 8 = 0x3#8 then .ok (.iabs (w.extractLsb' 16 8) (w.extractLsb' 8 8))
    else if w.extractLsb' 0 8 = 0x4#8 then .ok (.popc (w.extractLsb' 16 8) (w.extractLsb' 8 8))
    else if w.extractLsb' 0 8 = 0x5#8 then .ok (.clz (w.extractLsb' 16 8) (w.extractLsb' 8 8))
    else if w.extractLsb' 0 8 = 0x6#8 then .ok (.brev (w.extractLsb' 16 8) (w.extractLsb' 8 8))
    else if w.extractLsb' 0 8 = 0x7#8 then .ok (.sextS8 (w.extractLsb' 16 8) (w.extractLsb' 8 8))
    else if w.extractLsb' 0 8 = 0x8#8 then .ok (.sextS16 (w.extractLsb' 16 8) (w.extractLsb' 8 8))
    else if w.extractLsb' 0 8 = 0x9#8 then .ok (.zextN8 (w.extractLsb' 16 8) (w.extractLsb' 8 8))
    else if w.extractLsb' 0 8 = 0xA#8 then .ok (.zextN16 (w.extractLsb' 16 8) (w.extractLsb' 8 8))
    else if w.extractLsb' 0 8 = 0xB#8 then .ok (.mov64 (w.extractLsb' 16 8) (w.extractLsb' 8 8))
    else .error .reservedOrUnlisted
  else if k = 0x1D then
    .ok (.movi (w.extractLsb' 16 8) (w.extractLsb' 0 16))
  else if k = 0x1E then
    .ok (.movhi (w.extractLsb' 16 8) (w.extractLsb' 0 16))
  else if k = 0x1F then
    .ok (.icmpS32 (w.extractLsb' 22 2) (w.extractLsb' 16 6) (w.extractLsb' 8 8) (w.extractLsb' 0 8))
  else .ok .unassignedMajor

/-- The N3 words of majors 0x20 to 0x2F (row 0x2_ of the table in R47). -/
def decodeRow2 (k : Nat) (w : BitVec 32) : Except DecodeError Instr :=
  if k = 0x20 then
    .ok (.icmpN32 (w.extractLsb' 22 2) (w.extractLsb' 16 6) (w.extractLsb' 8 8) (w.extractLsb' 0 8))
  else if k = 0x21 then
    if w.extractLsb' 4 2 = 0x0#2 then .ok (.plog (w.extractLsb' 18 6) (w.extractLsb' 12 6) (w.extractLsb' 6 6) (w.extractLsb' 0 4))
    else .error .reservedOrUnlisted
  else if k = 0x22 then
    if w.extractLsb' 14 2 = 0x0#2 ∧ w.extractLsb' 0 8 = 0x0#8 then .ok (.pmvVp (w.extractLsb' 16 8) (w.extractLsb' 8 6))
    else if w.extractLsb' 22 2 = 0x0#2 ∧ w.extractLsb' 0 8 = 0x1#8 then .ok (.pmvPv (w.extractLsb' 16 6) (w.extractLsb' 8 8))
    else if w.extractLsb' 22 2 = 0x0#2 ∧ w.extractLsb' 14 2 = 0x0#2 ∧ w.extractLsb' 0 8 = 0x2#8 then .ok (.pmvSp (w.extractLsb' 16 6) (w.extractLsb' 8 6))
    else if w.extractLsb' 22 2 = 0x0#2 ∧ w.extractLsb' 14 2 = 0x0#2 ∧ w.extractLsb' 0 8 = 0x3#8 then .ok (.pmvPs (w.extractLsb' 16 6) (w.extractLsb' 8 6))
    else .error .reservedOrUnlisted
  else if k = 0x23 then
    if w.extractLsb' 0 12 = 0x0#12 then .ok (.voteBallot (w.extractLsb' 18 6) (w.extractLsb' 12 6))
    else if w.extractLsb' 0 12 = 0x1#12 then .ok (.voteAny (w.extractLsb' 18 6) (w.extractLsb' 12 6))
    else if w.extractLsb' 0 12 = 0x2#12 then .ok (.voteAll (w.extractLsb' 18 6) (w.extractLsb' 12 6))
    else if w.extractLsb' 0 12 = 0x3#12 then .ok (.voteUni (w.extractLsb' 18 6) (w.extractLsb' 12 6))
    else if w.extractLsb' 12 6 = 0x0#6 ∧ w.extractLsb' 0 12 = 0x4#12 then .ok (.voteActive (w.extractLsb' 18 6))
    else if w.extractLsb' 0 12 = 0x5#12 then .ok (.voteCount (w.extractLsb' 18 6) (w.extractLsb' 12 6))
    else .error .reservedOrUnlisted
  else if k = 0x24 then
    if w.extractLsb' 6 2 = 0x0#2 then .ok (.shflIdx (w.extractLsb' 16 8) (w.extractLsb' 8 8) (w.extractLsb' 0 6))
    else if w.extractLsb' 6 2 = 0x1#2 then .ok (.shflUp (w.extractLsb' 16 8) (w.extractLsb' 8 8) (w.extractLsb' 0 6))
    else if w.extractLsb' 6 2 = 0x2#2 then .ok (.shflDown (w.extractLsb' 16 8) (w.extractLsb' 8 8) (w.extractLsb' 0 6))
    else if w.extractLsb' 6 2 = 0x3#2 then .ok (.shflXor (w.extractLsb' 16 8) (w.extractLsb' 8 8) (w.extractLsb' 0 6))
    else .error .reservedOrUnlisted
  else if k = 0x25 then
    .ok (.shflv (w.extractLsb' 16 8) (w.extractLsb' 8 8) (w.extractLsb' 0 8))
  else if k = 0x26 then
    if w.extractLsb' 0 8 = 0x0#8 then .ok (.matchB32 (w.extractLsb' 16 8) (w.extractLsb' 8 8))
    else if w.extractLsb' 0 8 = 0x1#8 then .ok (.matchB64 (w.extractLsb' 16 8) (w.extractLsb' 8 8))
    else .error .reservedOrUnlisted
  else if k = 0x27 then
    if w.extractLsb' 7 1 = 0x0#1 then .ok (.xred (w.extractLsb' 16 8) (w.extractLsb' 8 8) (w.getLsbD 6) (w.extractLsb' 4 2) (w.extractLsb' 0 4))
    else .error .reservedOrUnlisted
  else if k = 0x28 then
    if w.extractLsb' 0 6 = 0x0#6 then .ok (.uadd (w.extractLsb' 18 6) (w.extractLsb' 12 6) (w.extractLsb' 6 6))
    else if w.extractLsb' 0 6 = 0x1#6 then .ok (.usub (w.extractLsb' 18 6) (w.extractLsb' 12 6) (w.extractLsb' 6 6))
    else if w.extractLsb' 0 6 = 0x2#6 then .ok (.umul (w.extractLsb' 18 6) (w.extractLsb' 12 6) (w.extractLsb' 6 6))
    else if w.extractLsb' 0 6 = 0x3#6 then .ok (.umulhS32 (w.extractLsb' 18 6) (w.extractLsb' 12 6) (w.extractLsb' 6 6))
    else if w.extractLsb' 0 6 = 0x4#6 then .ok (.umulhN32 (w.extractLsb' 18 6) (w.extractLsb' 12 6) (w.extractLsb' 6 6))
    else if w.extractLsb' 0 6 = 0x5#6 then .ok (.uand (w.extractLsb' 18 6) (w.extractLsb' 12 6) (w.extractLsb' 6 6))
    else if w.extractLsb' 0 6 = 0x6#6 then .ok (.uor (w.extractLsb' 18 6) (w.extractLsb' 12 6) (w.extractLsb' 6 6))
    else if w.extractLsb' 0 6 = 0x7#6 then .ok (.uxor (w.extractLsb' 18 6) (w.extractLsb' 12 6) (w.extractLsb' 6 6))
    else if w.extractLsb' 0 6 = 0x8#6 then .ok (.ushl (w.extractLsb' 18 6) (w.extractLsb' 12 6) (w.extractLsb' 6 6))
    else if w.extractLsb' 0 6 = 0x9#6 then .ok (.ushr (w.extractLsb' 18 6) (w.extractLsb' 12 6) (w.extractLsb' 6 6))
    else if w.extractLsb' 0 6 = 0xA#6 then .ok (.usar (w.extractLsb' 18 6) (w.extractLsb' 12 6) (w.extractLsb' 6 6))
    else if w.extractLsb' 0 6 = 0xB#6 then .ok (.uminS32 (w.extractLsb' 18 6) (w.extractLsb' 12 6) (w.extractLsb' 6 6))
    else if w.extractLsb' 0 6 = 0xC#6 then .ok (.umaxS32 (w.extractLsb' 18 6) (w.extractLsb' 12 6) (w.extractLsb' 6 6))
    else if w.extractLsb' 0 6 = 0xD#6 then .ok (.uminN32 (w.extractLsb' 18 6) (w.extractLsb' 12 6) (w.extractLsb' 6 6))
    else if w.extractLsb' 0 6 = 0xE#6 then .ok (.umaxN32 (w.extractLsb' 18 6) (w.extractLsb' 12 6) (w.extractLsb' 6 6))
    else if w.extractLsb' 6 6 = 0x0#6 ∧ w.extractLsb' 0 6 = 0xF#6 then .ok (.umov (w.extractLsb' 18 6) (w.extractLsb' 12 6))
    else if w.extractLsb' 6 6 = 0x0#6 ∧ w.extractLsb' 0 6 = 0x10#6 then .ok (.unot (w.extractLsb' 18 6) (w.extractLsb' 12 6))
    else if w.extractLsb' 0 6 = 0x11#6 then .ok (.usetEq (w.extractLsb' 18 6) (w.extractLsb' 12 6) (w.extractLsb' 6 6))
    else if w.extractLsb' 0 6 = 0x12#6 then .ok (.usetNe (w.extractLsb' 18 6) (w.extractLsb' 12 6) (w.extractLsb' 6 6))
    else if w.extractLsb' 0 6 = 0x13#6 then .ok (.usetLtS32 (w.extractLsb' 18 6) (w.extractLsb' 12 6) (w.extractLsb' 6 6))
    else if w.extractLsb' 0 6 = 0x14#6 then .ok (.usetLeS32 (w.extractLsb' 18 6) (w.extractLsb' 12 6) (w.extractLsb' 6 6))
    else if w.extractLsb' 0 6 = 0x15#6 then .ok (.usetLtN32 (w.extractLsb' 18 6) (w.extractLsb' 12 6) (w.extractLsb' 6 6))
    else if w.extractLsb' 0 6 = 0x16#6 then .ok (.usetLeN32 (w.extractLsb' 18 6) (w.extractLsb' 12 6) (w.extractLsb' 6 6))
    else if w.extractLsb' 0 6 = 0x17#6 then .ok (.uadd64 (w.extractLsb' 18 6) (w.extractLsb' 12 6) (w.extractLsb' 6 6))
    else if w.extractLsb' 0 6 = 0x18#6 then .ok (.usub64 (w.extractLsb' 18 6) (w.extractLsb' 12 6) (w.extractLsb' 6 6))
    else if w.extractLsb' 6 6 = 0x0#6 ∧ w.extractLsb' 0 6 = 0x19#6 then .ok (.upopc (w.extractLsb' 18 6) (w.extractLsb' 12 6))
    else if w.extractLsb' 6 6 = 0x0#6 ∧ w.extractLsb' 0 6 = 0x1A#6 then .ok (.uclz (w.extractLsb' 18 6) (w.extractLsb' 12 6))
    else .error .reservedOrUnlisted
  else if k = 0x29 then
    if w.extractLsb' 22 2 = 0x0#2 then .ok (.umovi (w.extractLsb' 16 6) (w.extractLsb' 0 16))
    else .error .reservedOrUnlisted
  else if k = 0x2A then
    if w.extractLsb' 22 2 = 0x0#2 then .ok (.uaddi (w.extractLsb' 16 6) (w.extractLsb' 0 16))
    else .error .reservedOrUnlisted
  else if k = 0x2B then
    if w.extractLsb' 22 2 = 0x0#2 then .ok (.umovhi (w.extractLsb' 16 6) (w.extractLsb' 0 16))
    else .error .reservedOrUnlisted
  else if k = 0x2C then
    if w.extractLsb' 14 2 = 0x0#2 ∧ w.extractLsb' 6 2 = 0x0#2 ∧ w.extractLsb' 0 6 = 0x0#6 then .ok (.uvmovVs (w.extractLsb' 16 8) (w.extractLsb' 8 6))
    else if w.extractLsb' 22 2 = 0x0#2 ∧ w.extractLsb' 6 2 = 0x1#2 then .ok (.uvmovSv (w.extractLsb' 16 6) (w.extractLsb' 8 8) (w.extractLsb' 0 6))
    else if w.extractLsb' 22 2 = 0x0#2 ∧ w.extractLsb' 6 2 = 0x2#2 ∧ w.extractLsb' 0 6 = 0x0#6 then .ok (.uvmovFirst (w.extractLsb' 16 6) (w.extractLsb' 8 8))
    else .error .reservedOrUnlisted
  else .ok .unassignedMajor

/-- The N3 words of majors 0x30 to 0x3F (row 0x3_ of the table in R47). -/
def decodeRow3 (k : Nat) (w : BitVec 32) : Except DecodeError Instr :=
  if k = 0x30 then
    .ok (.laddLn8 (w.extractLsb' 16 8) (w.extractLsb' 8 8) (w.extractLsb' 0 8))
  else if k = 0x31 then
    .ok (.laddLn16 (w.extractLsb' 16 8) (w.extractLsb' 8 8) (w.extractLsb' 0 8))
  else if k = 0x32 then
    .ok (.laddLn32 (w.extractLsb' 16 8) (w.extractLsb' 8 8) (w.extractLsb' 0 8))
  else if k = 0x33 then
    .ok (.lsubLn8 (w.extractLsb' 16 8) (w.extractLsb' 8 8) (w.extractLsb' 0 8))
  else if k = 0x34 then
    .ok (.lsubLn16 (w.extractLsb' 16 8) (w.extractLsb' 8 8) (w.extractLsb' 0 8))
  else if k = 0x35 then
    .ok (.lsubLn32 (w.extractLsb' 16 8) (w.extractLsb' 8 8) (w.extractLsb' 0 8))
  else if k = 0x36 then
    .ok (.lmulLn8 (w.extractLsb' 16 8) (w.extractLsb' 8 8) (w.extractLsb' 0 8))
  else if k = 0x37 then
    .ok (.lmulLn16 (w.extractLsb' 16 8) (w.extractLsb' 8 8) (w.extractLsb' 0 8))
  else if k = 0x38 then
    .ok (.lmulLn32 (w.extractLsb' 16 8) (w.extractLsb' 8 8) (w.extractLsb' 0 8))
  else if k = 0x39 then
    .ok (.lmadLn8 (w.extractLsb' 16 8) (w.extractLsb' 8 8) (w.extractLsb' 0 8))
  else if k = 0x3A then
    .ok (.lmadLn16 (w.extractLsb' 16 8) (w.extractLsb' 8 8) (w.extractLsb' 0 8))
  else if k = 0x3B then
    .ok (.lmadLn32 (w.extractLsb' 16 8) (w.extractLsb' 8 8) (w.extractLsb' 0 8))
  else if k = 0x3C then
    .ok (.ldivLn16 (w.extractLsb' 16 8) (w.extractLsb' 8 8) (w.extractLsb' 0 8))
  else if k = 0x3D then
    .ok (.ldivLn32 (w.extractLsb' 16 8) (w.extractLsb' 8 8) (w.extractLsb' 0 8))
  else if k = 0x3E then
    .ok (.lminLn16 (w.extractLsb' 16 8) (w.extractLsb' 8 8) (w.extractLsb' 0 8))
  else if k = 0x3F then
    .ok (.lminLn32 (w.extractLsb' 16 8) (w.extractLsb' 8 8) (w.extractLsb' 0 8))
  else .ok .unassignedMajor

/-- The N3 words of majors 0x40 to 0x4F (row 0x4_ of the table in R47). -/
def decodeRow4 (k : Nat) (w : BitVec 32) : Except DecodeError Instr :=
  if k = 0x40 then
    .ok (.lmaxLn16 (w.extractLsb' 16 8) (w.extractLsb' 8 8) (w.extractLsb' 0 8))
  else if k = 0x41 then
    .ok (.lmaxLn32 (w.extractLsb' 16 8) (w.extractLsb' 8 8) (w.extractLsb' 0 8))
  else if k = 0x42 then
    .ok (.lpowLn32 (w.extractLsb' 16 8) (w.extractLsb' 8 8) (w.extractLsb' 0 8))
  else if k = 0x43 then
    .ok (.lscaleLn16 (w.extractLsb' 16 8) (w.extractLsb' 8 8) (w.extractLsb' 0 8))
  else if k = 0x44 then
    .ok (.lscaleLn32 (w.extractLsb' 16 8) (w.extractLsb' 8 8) (w.extractLsb' 0 8))
  else if k = 0x45 then
    .ok (.lcmpLn16 (w.extractLsb' 22 2) (w.extractLsb' 16 6) (w.extractLsb' 8 8) (w.extractLsb' 0 8))
  else if k = 0x46 then
    .ok (.lcmpLn32 (w.extractLsb' 22 2) (w.extractLsb' 16 6) (w.extractLsb' 8 8) (w.extractLsb' 0 8))
  else if k = 0x47 then
    if w.extractLsb' 2 6 = 0x0#6 then .ok (.lneg (w.extractLsb' 16 8) (w.extractLsb' 8 8) (w.extractLsb' 0 2))
    else if w.extractLsb' 2 6 = 0x1#6 then .ok (.labs (w.extractLsb' 16 8) (w.extractLsb' 8 8) (w.extractLsb' 0 2))
    else if w.extractLsb' 2 6 = 0x2#6 then .ok (.lrcp (w.extractLsb' 16 8) (w.extractLsb' 8 8) (w.extractLsb' 0 2))
    else if w.extractLsb' 2 6 = 0x3#6 then .ok (.lsqr (w.extractLsb' 16 8) (w.extractLsb' 8 8) (w.extractLsb' 0 2))
    else if w.extractLsb' 2 6 = 0x4#6 then .ok (.lsqrt (w.extractLsb' 16 8) (w.extractLsb' 8 8) (w.extractLsb' 0 2))
    else if w.extractLsb' 2 6 = 0x5#6 then .ok (.lrsqrt (w.extractLsb' 16 8) (w.extractLsb' 8 8) (w.extractLsb' 0 2))
    else if w.extractLsb' 2 6 = 0x6#6 then .ok (.lexp2 (w.extractLsb' 16 8) (w.extractLsb' 8 8) (w.extractLsb' 0 2))
    else if w.extractLsb' 2 6 = 0x7#6 then .ok (.llog2 (w.extractLsb' 16 8) (w.extractLsb' 8 8) (w.extractLsb' 0 2))
    else if w.extractLsb' 2 6 = 0x8#6 then .ok (.lexp (w.extractLsb' 16 8) (w.extractLsb' 8 8) (w.extractLsb' 0 2))
    else if w.extractLsb' 2 6 = 0x9#6 then .ok (.lsint (w.extractLsb' 16 8) (w.extractLsb' 8 8) (w.extractLsb' 0 2))
    else if w.extractLsb' 2 6 = 0xA#6 then .ok (.lcost (w.extractLsb' 16 8) (w.extractLsb' 8 8) (w.extractLsb' 0 2))
    else if w.extractLsb' 2 6 = 0xB#6 then .ok (.lclass (w.extractLsb' 16 8) (w.extractLsb' 8 8) (w.extractLsb' 0 2))
    else if w.extractLsb' 2 6 = 0xC#6 then .ok (.lcvtLn8 (w.extractLsb' 16 8) (w.extractLsb' 8 8) (w.extractLsb' 0 2))
    else if w.extractLsb' 2 6 = 0xD#6 then .ok (.lcvtLn16 (w.extractLsb' 16 8) (w.extractLsb' 8 8) (w.extractLsb' 0 2))
    else if w.extractLsb' 2 6 = 0xE#6 then .ok (.lcvtLn32 (w.extractLsb' 16 8) (w.extractLsb' 8 8) (w.extractLsb' 0 2))
    else if w.extractLsb' 2 6 = 0xF#6 then .ok (.lgetl (w.extractLsb' 16 8) (w.extractLsb' 8 8) (w.extractLsb' 0 2))
    else if w.extractLsb' 2 6 = 0x10#6 then .ok (.lmkl (w.extractLsb' 16 8) (w.extractLsb' 8 8) (w.extractLsb' 0 2))
    else if w.extractLsb' 2 6 = 0x11#6 then .ok (.lunpk0 (w.extractLsb' 16 8) (w.extractLsb' 8 8) (w.extractLsb' 0 2))
    else if w.extractLsb' 2 6 = 0x12#6 then .ok (.lunpk1 (w.extractLsb' 16 8) (w.extractLsb' 8 8) (w.extractLsb' 0 2))
    else if w.extractLsb' 2 6 = 0x13#6 then .ok (.lunpk2 (w.extractLsb' 16 8) (w.extractLsb' 8 8) (w.extractLsb' 0 2))
    else if w.extractLsb' 2 6 = 0x14#6 then .ok (.lunpk3 (w.extractLsb' 16 8) (w.extractLsb' 8 8) (w.extractLsb' 0 2))
    else .error .reservedOrUnlisted
  else if k = 0x48 then
    .ok (.lfix (w.extractLsb' 16 8) (w.extractLsb' 8 8) (w.extractLsb' 6 2) (w.getLsbD 5) (w.extractLsb' 0 5))
  else if k = 0x49 then
    .ok (.lflt (w.extractLsb' 16 8) (w.extractLsb' 8 8) (w.extractLsb' 6 2) (w.getLsbD 5) (w.extractLsb' 0 5))
  else if k = 0x4A then
    if w.extractLsb' 7 1 = 0x0#1 ∧ w.extractLsb' 0 2 = 0x0#2 then .ok (.fcvtToLn (w.extractLsb' 16 8) (w.extractLsb' 8 8) (w.extractLsb' 5 2) (w.extractLsb' 2 3))
    else if w.extractLsb' 7 1 = 0x1#1 ∧ w.extractLsb' 0 2 = 0x0#2 then .ok (.fcvtToIeee (w.extractLsb' 16 8) (w.extractLsb' 8 8) (w.extractLsb' 5 2) (w.extractLsb' 2 3))
    else .error .reservedOrUnlisted
  else if k = 0x4B then
    .ok (.lpack (w.extractLsb' 16 8) (w.extractLsb' 8 8) (w.extractLsb' 0 8))
  else if k = 0x4C then
    if w.extractLsb' 8 8 = 0x0#8 ∧ w.extractLsb' 0 8 = 0x0#8 then .ok (.flagGet (w.extractLsb' 16 8))
    else if w.extractLsb' 22 2 = 0x0#2 ∧ w.extractLsb' 16 6 = 0x0#6 ∧ w.extractLsb' 0 8 = 0x1#8 then .ok (.flagSet (w.extractLsb' 8 8))
    else if w.extractLsb' 22 2 = 0x0#2 ∧ w.extractLsb' 16 6 = 0x0#6 ∧ w.extractLsb' 0 8 = 0x2#8 then .ok (.flagClr (w.extractLsb' 8 8))
    else if w.extractLsb' 22 2 = 0x0#2 ∧ w.extractLsb' 16 6 = 0x0#6 ∧ w.extractLsb' 0 8 = 0x3#8 then .ok (.flagPut (w.extractLsb' 8 8))
    else if w.extractLsb' 22 2 = 0x0#2 ∧ w.extractLsb' 8 8 = 0x0#8 ∧ w.extractLsb' 0 8 = 0x4#8 then .ok (.flagGor (w.extractLsb' 16 6))
    else if w.extractLsb' 22 2 = 0x0#2 ∧ w.extractLsb' 0 8 = 0x5#8 then .ok (.flagTst (w.extractLsb' 16 6) (w.extractLsb' 8 8))
    else .error .reservedOrUnlisted
  else .ok .unassignedMajor

/-- The N3 words of majors 0x50 to 0x5F (row 0x5_ of the table in R47). -/
def decodeRow5 (k : Nat) (w : BitVec 32) : Except DecodeError Instr :=
  if k = 0x50 then
    .ok (.lmma (w.extractLsb' 21 3) (w.extractLsb' 15 6) (w.extractLsb' 9 6) (w.extractLsb' 6 3) (w.extractLsb' 1 5) (w.getLsbD 0))
  else if k = 0x51 then
    .ok (.lmms (w.extractLsb' 21 3) (w.extractLsb' 15 6) (w.extractLsb' 9 6) (w.extractLsb' 6 3) (w.extractLsb' 3 3) (w.extractLsb' 1 2) (w.getLsbD 0))
  else if k = 0x52 then
    if w.extractLsb' 6 3 = 0x4#3 ∧ w.extractLsb' 1 2 = 0x0#2 then .ok (.imma (w.extractLsb' 21 3) (w.extractLsb' 15 6) (w.extractLsb' 9 6) (w.extractLsb' 3 3) (w.getLsbD 0))
    else .error .reservedOrUnlisted
  else if k = 0x53 then
    if w.extractLsb' 5 16 = 0x4#16 ∧ w.extractLsb' 0 5 = 0x0#5 then .ok (.aclrLn16 (w.extractLsb' 21 3))
    else if w.extractLsb' 5 16 = 0x6#16 ∧ w.extractLsb' 0 5 = 0x0#5 then .ok (.aclrLn32 (w.extractLsb' 21 3))
    else if w.extractLsb' 5 16 = 0x8#16 then .ok (.aclrS32 (w.extractLsb' 21 3) (w.extractLsb' 0 5))
    else .error .reservedOrUnlisted
  else if k = 0x54 then
    if w.extractLsb' 20 1 = 0x0#1 ∧ w.extractLsb' 0 9 = 0x0#9 then .ok (.ard (w.extractLsb' 21 3) (w.extractLsb' 15 5) (w.extractLsb' 9 6))
    else .error .reservedOrUnlisted
  else if k = 0x55 then
    if w.extractLsb' 20 1 = 0x0#1 ∧ w.extractLsb' 0 15 = 0x0#15 then .ok (.awr (w.extractLsb' 21 3) (w.extractLsb' 15 5))
    else .error .reservedOrUnlisted
  else if k = 0x56 then
    if w.extractLsb' 18 3 = 0x0#3 ∧ w.extractLsb' 0 15 = 0x0#15 then .ok (.amov (w.extractLsb' 21 3) (w.extractLsb' 15 3))
    else .error .reservedOrUnlisted
  else if k = 0x57 then
    if w.extractLsb' 21 3 = 0x0#3 ∧ w.extractLsb' 6 3 = 0x0#3 then .ok (.tld (w.extractLsb' 15 6) (w.extractLsb' 9 6) (w.extractLsb' 0 6))
    else .error .reservedOrUnlisted
  else if k = 0x58 then
    if w.extractLsb' 21 3 = 0x0#3 ∧ w.extractLsb' 6 3 = 0x0#3 then .ok (.tst (w.extractLsb' 15 6) (w.extractLsb' 9 6) (w.extractLsb' 0 6))
    else .error .reservedOrUnlisted
  else if k = 0x59 then
    if w.extractLsb' 21 3 = 0x0#3 ∧ w.extractLsb' 0 9 = 0x0#9 then .ok (.tmov (w.extractLsb' 15 6) (w.extractLsb' 9 6))
    else .error .reservedOrUnlisted
  else if k = 0x5A then
    if w.extractLsb' 18 6 = 0x0#6 ∧ w.extractLsb' 0 9 = 0x0#9 then .ok (.twset (w.extractLsb' 15 3) (w.extractLsb' 9 6))
    else .error .reservedOrUnlisted
  else if k = 0x5B then
    if w.extractLsb' 18 6 = 0x0#6 ∧ w.extractLsb' 0 9 = 0x0#9 then .ok (.twget (w.extractLsb' 15 3) (w.extractLsb' 9 6))
    else .error .reservedOrUnlisted
  else if k = 0x5C then
    if w.extractLsb' 0 21 = 0x0#21 then .ok (.mwait (w.extractLsb' 21 3))
    else if w.extractLsb' 21 3 = 0x0#3 ∧ w.extractLsb' 0 21 = 0x1#21 then .ok .mwaitAll
    else .error .reservedOrUnlisted
  else if k = 0x5D then
    if w.extractLsb' 18 6 = 0x0#6 ∧ w.extractLsb' 3 9 = 0x0#9 then .ok (.gset (w.extractLsb' 12 6) (w.extractLsb' 0 3))
    else .error .reservedOrUnlisted
  else if k = 0x5E then
    if w.extractLsb' 3 15 = 0x0#15 then .ok (.gcfg (w.extractLsb' 18 6) (w.extractLsb' 0 3))
    else .error .reservedOrUnlisted
  else .ok .unassignedMajor

/-- The N3 words of majors 0x60 to 0x6F (row 0x6_ of the table in R47). -/
def decodeRow6 (k : Nat) (w : BitVec 32) : Except DecodeError Instr :=
  if k = 0x60 then
    if w.extractLsb' 15 1 = 0x1#1 ∧ w.extractLsb' 8 7 = 0x0#7 then .ok (.ldgUniform (w.extractLsb' 16 8) (w.extractLsb' 2 6) (w.extractLsb' 0 2))
    else if w.extractLsb' 15 1 = 0x0#1 ∧ w.extractLsb' 2 6 = 0x3F#6 then .ok (.ldgVector (w.extractLsb' 16 8) (w.extractLsb' 8 7) (w.extractLsb' 0 2))
    else if w.extractLsb' 15 1 = 0x0#1 then .ok (.ldgUniformVector (w.extractLsb' 16 8) (w.extractLsb' 8 7) (w.extractLsb' 2 6) (w.extractLsb' 0 2))
    else .error .reservedOrUnlisted
  else if k = 0x61 then
    if w.extractLsb' 15 1 = 0x1#1 ∧ w.extractLsb' 8 7 = 0x0#7 then .ok (.stgUniform (w.extractLsb' 16 8) (w.extractLsb' 2 6) (w.extractLsb' 0 2))
    else if w.extractLsb' 15 1 = 0x0#1 ∧ w.extractLsb' 2 6 = 0x3F#6 then .ok (.stgVector (w.extractLsb' 16 8) (w.extractLsb' 8 7) (w.extractLsb' 0 2))
    else if w.extractLsb' 15 1 = 0x0#1 then .ok (.stgUniformVector (w.extractLsb' 16 8) (w.extractLsb' 8 7) (w.extractLsb' 2 6) (w.extractLsb' 0 2))
    else .error .reservedOrUnlisted
  else if k = 0x62 then
    if w.extractLsb' 15 1 = 0x0#1 then .ok (.ldhVector (w.extractLsb' 16 8) (w.extractLsb' 8 7) (w.extractLsb' 2 6) (w.extractLsb' 0 2))
    else if w.extractLsb' 15 1 = 0x1#1 ∧ w.extractLsb' 8 7 = 0x0#7 then .ok (.ldhOffset (w.extractLsb' 16 8) (w.extractLsb' 2 6) (w.extractLsb' 0 2))
    else .error .reservedOrUnlisted
  else if k = 0x63 then
    if w.extractLsb' 15 1 = 0x0#1 then .ok (.sthVector (w.extractLsb' 16 8) (w.extractLsb' 8 7) (w.extractLsb' 2 6) (w.extractLsb' 0 2))
    else if w.extractLsb' 15 1 = 0x1#1 ∧ w.extractLsb' 8 7 = 0x0#7 then .ok (.sthOffset (w.extractLsb' 16 8) (w.extractLsb' 2 6) (w.extractLsb' 0 2))
    else .error .reservedOrUnlisted
  else if k = 0x64 then
    if w.extractLsb' 0 2 = 0x0#2 then .ok (.atom (w.extractLsb' 16 8) (w.extractLsb' 8 8) (w.extractLsb' 4 4) (w.extractLsb' 2 2))
    else .error .reservedOrUnlisted
  else if k = 0x65 then
    if w.extractLsb' 0 2 = 0x0#2 then .ok (.red (w.extractLsb' 16 8) (w.extractLsb' 8 8) (w.extractLsb' 4 4) (w.extractLsb' 2 2))
    else .error .reservedOrUnlisted
  else if k = 0x66 then
    if w.extractLsb' 0 24 = 0x0#24 then .ok .abfl
    else .error .reservedOrUnlisted
  else if k = 0x67 then
    if w.extractLsb' 6 18 = 0x0#18 then .ok (.fenceX (w.extractLsb' 0 6))
    else .error .reservedOrUnlisted
  else if k = 0x68 then
    if w.extractLsb' 1 11 = 0x0#11 then .ok (.talloc (w.extractLsb' 18 6) (w.extractLsb' 12 6) (w.getLsbD 0))
    else .error .reservedOrUnlisted
  else if k = 0x69 then
    if w.extractLsb' 18 6 = 0x0#6 ∧ w.extractLsb' 0 12 = 0x0#12 then .ok (.tfree (w.extractLsb' 12 6))
    else .error .reservedOrUnlisted
  else if k = 0x6A then
    .ok (.pref (w.extractLsb' 16 8) (w.extractLsb' 8 8) (w.extractLsb' 0 8))
  else if k = 0x6B then
    if w.extractLsb' 8 8 = 0x80#8 ∧ w.extractLsb' 1 1 = 0x0#1 then .ok (.vspl (w.extractLsb' 16 8) (w.extractLsb' 2 6) (w.getLsbD 0))
    else .error .reservedOrUnlisted
  else if k = 0x6C then
    if w.extractLsb' 8 8 = 0x80#8 ∧ w.extractLsb' 1 1 = 0x0#1 then .ok (.vfil (w.extractLsb' 16 8) (w.extractLsb' 2 6) (w.getLsbD 0))
    else .error .reservedOrUnlisted
  else if k = 0x6D then
    if w.extractLsb' 22 2 = 0x0#2 ∧ w.extractLsb' 0 12 = 0x0#12 then .ok (.qpush (w.extractLsb' 18 4) (w.extractLsb' 12 6))
    else .error .reservedOrUnlisted
  else if k = 0x6E then
    if w.extractLsb' 16 2 = 0x0#2 ∧ w.extractLsb' 0 12 = 0x0#12 then .ok (.qpop (w.extractLsb' 18 6) (w.extractLsb' 12 4))
    else .error .reservedOrUnlisted
  else if k = 0x6F then
    if w.extractLsb' 16 2 = 0x0#2 ∧ w.extractLsb' 0 6 = 0x0#6 then .ok (.qtry (w.extractLsb' 18 6) (w.extractLsb' 12 4) (w.extractLsb' 6 6))
    else .error .reservedOrUnlisted
  else .ok .unassignedMajor

/-- The N3 words of majors 0x70 to 0x7F (row 0x7_ of the table in R47). -/
def decodeRow7 (k : Nat) (w : BitVec 32) : Except DecodeError Instr :=
  if k = 0x70 then
    if w.extractLsb' 19 5 = 0x0#5 ∧ w.extractLsb' 11 4 = 0x0#4 ∧ w.extractLsb' 10 1 = 0x0#1 ∧ w.extractLsb' 8 2 = 0x0#2 ∧ w.extractLsb' 6 2 = 0x0#2 then .ok (.thrGet (w.extractLsb' 15 4) (w.extractLsb' 0 6))
    else if w.extractLsb' 19 5 = 0x1#5 ∧ w.extractLsb' 11 4 = 0x0#4 ∧ w.extractLsb' 10 1 = 0x0#1 ∧ w.extractLsb' 8 2 = 0x0#2 ∧ w.extractLsb' 6 2 = 0x0#2 then .ok (.thrPeek (w.extractLsb' 15 4) (w.extractLsb' 0 6))
    else if w.extractLsb' 19 5 = 0x2#5 ∧ w.extractLsb' 15 4 = 0x0#4 then .ok (.thrSkip (w.extractLsb' 11 4) (w.extractLsb' 0 11))
    else if w.extractLsb' 19 5 = 0x3#5 then .ok (.thrBfx (w.extractLsb' 15 4) (w.extractLsb' 11 4) (w.getLsbD 10) (w.extractLsb' 5 5) (w.extractLsb' 0 5))
    else if w.extractLsb' 19 5 = 0x4#5 ∧ w.extractLsb' 10 1 = 0x0#1 ∧ w.extractLsb' 8 2 = 0x0#2 then .ok (.thrLut (w.extractLsb' 15 4) (w.extractLsb' 11 4) (w.extractLsb' 0 8))
    else if w.extractLsb' 19 5 = 0x5#5 ∧ w.extractLsb' 10 1 = 0x0#1 ∧ w.extractLsb' 8 2 = 0x0#2 then .ok (.thrTbw (w.extractLsb' 15 4) (w.extractLsb' 11 4) (w.extractLsb' 0 8))
    else if w.extractLsb' 19 5 = 0x6#5 ∧ w.extractLsb' 15 4 = 0x0#4 ∧ w.extractLsb' 10 1 = 0x0#1 ∧ w.extractLsb' 8 2 = 0x0#2 then .ok (.thrRefill (w.extractLsb' 11 4) (w.extractLsb' 0 8))
    else if w.extractLsb' 19 5 = 0x7#5 ∧ w.extractLsb' 11 4 = 0x0#4 then .ok (.thrMovi (w.extractLsb' 15 4) (w.extractLsb' 0 11))
    else if w.extractLsb' 19 5 = 0x8#5 then .ok (.thrAdd (w.extractLsb' 15 4) (w.extractLsb' 11 4) (w.extractLsb' 0 11))
    else if w.extractLsb' 19 5 = 0x9#5 then .ok (.thrSub (w.extractLsb' 15 4) (w.extractLsb' 11 4) (w.extractLsb' 0 11))
    else if w.extractLsb' 19 5 = 0xA#5 then .ok (.thrAnd (w.extractLsb' 15 4) (w.extractLsb' 11 4) (w.extractLsb' 0 11))
    else if w.extractLsb' 19 5 = 0xB#5 then .ok (.thrOr (w.extractLsb' 15 4) (w.extractLsb' 11 4) (w.extractLsb' 0 11))
    else if w.extractLsb' 19 5 = 0xC#5 then .ok (.thrXor (w.extractLsb' 15 4) (w.extractLsb' 11 4) (w.extractLsb' 0 11))
    else if w.extractLsb' 19 5 = 0xD#5 then .ok (.thrShl (w.extractLsb' 15 4) (w.extractLsb' 11 4) (w.extractLsb' 0 11))
    else if w.extractLsb' 19 5 = 0xE#5 then .ok (.thrShr (w.extractLsb' 15 4) (w.extractLsb' 11 4) (w.extractLsb' 0 11))
    else if w.extractLsb' 19 5 = 0xF#5 then .ok (.thrSar (w.extractLsb' 15 4) (w.extractLsb' 11 4) (w.extractLsb' 0 11))
    else if w.extractLsb' 19 5 = 0x10#5 ∧ w.extractLsb' 15 4 = 0x0#4 ∧ w.extractLsb' 10 1 = 0x0#1 ∧ w.extractLsb' 8 2 = 0x0#2 ∧ w.extractLsb' 6 2 = 0x0#2 ∧ w.extractLsb' 5 1 = 0x0#1 ∧ w.extractLsb' 3 2 = 0x0#2 then .ok (.thrEmit (w.extractLsb' 11 4) (w.extractLsb' 0 3))
    else if w.extractLsb' 19 5 = 0x11#5 ∧ w.extractLsb' 10 1 = 0x0#1 ∧ w.extractLsb' 8 2 = 0x0#2 ∧ w.extractLsb' 6 2 = 0x0#2 ∧ w.extractLsb' 5 1 = 0x0#1 ∧ w.extractLsb' 3 2 = 0x0#2 ∧ w.extractLsb' 0 3 = 0x0#3 then .ok (.thrCopy (w.extractLsb' 15 4) (w.extractLsb' 11 4))
    else if w.extractLsb' 19 5 = 0x12#5 then .ok (.thrBr (w.extractLsb' 15 4) (w.extractLsb' 11 4) (w.extractLsb' 0 11))
    else if w.extractLsb' 19 5 = 0x13#5 ∧ w.extractLsb' 15 4 = 0x0#4 ∧ w.extractLsb' 11 4 = 0x0#4 ∧ w.extractLsb' 10 1 = 0x0#1 ∧ w.extractLsb' 8 2 = 0x0#2 ∧ w.extractLsb' 6 2 = 0x0#2 ∧ w.extractLsb' 5 1 = 0x0#1 ∧ w.extractLsb' 3 2 = 0x0#2 ∧ w.extractLsb' 0 3 = 0x0#3 then .ok .thrHalt
    else .error .reservedOrUnlisted
  else if k = 0x71 then
    if w.extractLsb' 22 2 = 0x0#2 ∧ w.extractLsb' 0 12 = 0x0#12 then .ok (.qbindInit (w.extractLsb' 18 4) (w.extractLsb' 12 6))
    else if w.extractLsb' 22 2 = 0x0#2 ∧ w.extractLsb' 0 12 = 0x1#12 then .ok (.qbindAttach (w.extractLsb' 18 4) (w.extractLsb' 12 6))
    else if w.extractLsb' 22 2 = 0x0#2 ∧ w.extractLsb' 12 6 = 0x0#6 ∧ w.extractLsb' 0 12 = 0x2#12 then .ok (.qbindUnbind (w.extractLsb' 18 4))
    else .error .reservedOrUnlisted
  else if k = 0x72 then
    if w.extractLsb' 15 1 = 0x1#1 ∧ w.extractLsb' 8 7 = 0x0#7 then .ok (.waitmUniform (w.extractLsb' 16 8) (w.extractLsb' 2 6) (w.extractLsb' 0 2))
    else if w.extractLsb' 15 1 = 0x0#1 ∧ w.extractLsb' 2 6 = 0x3F#6 then .ok (.waitmVector (w.extractLsb' 16 8) (w.extractLsb' 8 7) (w.extractLsb' 0 2))
    else if w.extractLsb' 15 1 = 0x0#1 then .ok (.waitmUniformVector (w.extractLsb' 16 8) (w.extractLsb' 8 7) (w.extractLsb' 2 6) (w.extractLsb' 0 2))
    else .error .reservedOrUnlisted
  else if k = 0x73 then
    .ok (.bra (w.extractLsb' 0 24))
  else if k = 0x74 then
    if w.extractLsb' 16 1 = 0x0#1 then .ok (.brp (w.extractLsb' 18 6) (w.getLsbD 17) (w.extractLsb' 0 16))
    else .error .reservedOrUnlisted
  else if k = 0x75 then
    .ok (.call (w.extractLsb' 0 24))
  else if k = 0x76 then
    if w.extractLsb' 18 6 = 0x0#6 ∧ w.extractLsb' 12 6 = 0x0#6 ∧ w.extractLsb' 0 12 = 0x0#12 then .ok .nop
    else if w.extractLsb' 18 6 = 0x0#6 ∧ w.extractLsb' 0 12 = 0x1#12 then .ok (.jmp (w.extractLsb' 12 6))
    else if w.extractLsb' 18 6 = 0x0#6 ∧ w.extractLsb' 0 12 = 0x2#12 then .ok (.calli (w.extractLsb' 12 6))
    else if w.extractLsb' 18 6 = 0x0#6 ∧ w.extractLsb' 12 6 = 0x0#6 ∧ w.extractLsb' 0 12 = 0x3#12 then .ok .ret
    else if w.extractLsb' 18 6 = 0x0#6 ∧ w.extractLsb' 12 6 = 0x0#6 ∧ w.extractLsb' 0 12 = 0x4#12 then .ok .exit
    else if w.extractLsb' 18 6 = 0x0#6 ∧ w.extractLsb' 12 6 = 0x0#6 ∧ w.extractLsb' 0 12 = 0x5#12 then .ok .yield
    else if w.extractLsb' 18 6 = 0x0#6 ∧ w.extractLsb' 12 6 = 0x0#6 ∧ w.extractLsb' 0 12 = 0x6#12 then .ok .lockx
    else if w.extractLsb' 18 6 = 0x0#6 ∧ w.extractLsb' 12 6 = 0x0#6 ∧ w.extractLsb' 0 12 = 0x7#12 then .ok .unlockx
    else .error .reservedOrUnlisted
  else if k = 0x77 then
    if w.extractLsb' 18 6 = 0x0#6 ∧ w.extractLsb' 0 6 = 0x0#6 then .ok (.spawn (w.extractLsb' 12 6) (w.extractLsb' 6 6))
    else .error .reservedOrUnlisted
  else if k = 0x78 then
    if w.extractLsb' 8 16 = 0x0#16 then .ok (.bar (w.extractLsb' 5 3) (w.extractLsb' 0 5))
    else .error .reservedOrUnlisted
  else if k = 0x79 then
    if w.extractLsb' 22 2 = 0x0#2 ∧ w.extractLsb' 10 6 = 0x0#6 then .ok (.barl (w.extractLsb' 16 6) (w.extractLsb' 8 2) (w.extractLsb' 5 3) (w.extractLsb' 0 5))
    else .error .reservedOrUnlisted
  else if k = 0x7A then
    if w.extractLsb' 0 12 = 0x0#12 then .ok (.tsub (w.extractLsb' 18 6) (w.extractLsb' 12 6))
    else .error .reservedOrUnlisted
  else if k = 0x7B then
    if w.extractLsb' 0 16 = 0x0#16 then .ok (.widF0 (w.extractLsb' 16 8))
    else if w.extractLsb' 0 16 = 0x1#16 then .ok (.widF1 (w.extractLsb' 16 8))
    else if w.extractLsb' 0 16 = 0x2#16 then .ok (.widF2 (w.extractLsb' 16 8))
    else if w.extractLsb' 0 16 = 0x3#16 then .ok (.widF3 (w.extractLsb' 16 8))
    else if w.extractLsb' 0 16 = 0x4#16 then .ok (.widF4 (w.extractLsb' 16 8))
    else if w.extractLsb' 0 16 = 0x5#16 then .ok (.widF5 (w.extractLsb' 16 8))
    else if w.extractLsb' 0 16 = 0x6#16 then .ok (.widId (w.extractLsb' 16 8))
    else if w.extractLsb' 0 16 = 0x7#16 then .ok (.widKey (w.extractLsb' 16 8))
    else if w.extractLsb' 0 16 = 0x8#16 then .ok (.widExt0 (w.extractLsb' 16 8))
    else if w.extractLsb' 0 16 = 0x9#16 then .ok (.widExt1 (w.extractLsb' 16 8))
    else if w.extractLsb' 0 16 = 0xA#16 then .ok (.widExt2 (w.extractLsb' 16 8))
    else if w.extractLsb' 0 16 = 0xB#16 then .ok (.widExt3 (w.extractLsb' 16 8))
    else if w.extractLsb' 0 16 = 0xC#16 then .ok (.widExt4 (w.extractLsb' 16 8))
    else if w.extractLsb' 0 16 = 0xD#16 then .ok (.widExt5 (w.extractLsb' 16 8))
    else .error .reservedOrUnlisted
  else if k = 0x7C then
    if w.extractLsb' 12 6 = 0x0#6 then .ok (.sread (w.extractLsb' 18 6) (w.extractLsb' 0 12))
    else .error .reservedOrUnlisted
  else if k = 0x7D then
    if w.extractLsb' 0 6 = 0x0#6 then .ok (.swrite (w.extractLsb' 18 6) (w.extractLsb' 12 6) (w.extractLsb' 6 6))
    else if w.extractLsb' 18 6 = 0x0#6 ∧ w.extractLsb' 0 6 = 0x1#6 then .ok (.trap (w.extractLsb' 6 12))
    else if w.extractLsb' 18 6 = 0x0#6 ∧ w.extractLsb' 0 6 = 0x2#6 then .ok (.bkpt (w.extractLsb' 6 12))
    else if w.extractLsb' 18 6 = 0x0#6 ∧ w.extractLsb' 12 6 = 0x0#6 ∧ w.extractLsb' 6 6 = 0x0#6 ∧ w.extractLsb' 0 6 = 0x3#6 then .ok .tret
    else .error .reservedOrUnlisted
  else if k = 0x7F then
    if w.extractLsb' 20 4 = 0x0#4 ∨ 7 ≤ (w.extractLsb' 20 4).toNat then .ok .hnop
    else if w.extractLsb' 20 4 = 0x1#4 then .ok (.limm (w.extractLsb' 0 20))
    else if w.extractLsb' 20 4 = 0x2#4 ∧ w.extractLsb' 10 10 = 0x0#10 ∧ w.extractLsb' 7 3 = 0x0#3 ∧ w.extractLsb' 6 1 = 0x0#1 ∧ w.extractLsb' 3 3 = 0x0#3 then .ok (.rnd (w.extractLsb' 0 3))
    else if w.extractLsb' 20 4 = 0x3#4 ∧ w.extractLsb' 10 10 = 0x0#10 ∧ w.extractLsb' 7 3 = 0x0#3 ∧ w.extractLsb' 6 1 = 0x0#1 ∧ w.extractLsb' 3 3 = 0x0#3 ∧ w.extractLsb' 0 3 = 0x0#3 then .ok .sat
    else if w.extractLsb' 20 4 = 0x4#4 ∧ w.extractLsb' 10 10 = 0x0#10 ∧ w.extractLsb' 7 3 = 0x0#3 then .ok (.guard (w.getLsbD 6) (w.extractLsb' 0 6))
    else if w.extractLsb' 20 4 = 0x5#4 then .ok (.bpri (w.extractLsb' 10 10) (w.extractLsb' 0 10))
    else if w.extractLsb' 20 4 = 0x6#4 then .ok .placement
    else .error .reservedOrUnlisted
  else .ok .unassignedMajor

/-- An N3 word (R47). -/
def decodeWord (w : BitVec 32) : Except DecodeError Instr :=
  let k := (w.extractLsb' 24 7).toNat
  if k < 0x10 then decodeRow0 k w
  else if k < 0x20 then decodeRow1 k w
  else if k < 0x30 then decodeRow2 k w
  else if k < 0x40 then decodeRow3 k w
  else if k < 0x50 then decodeRow4 k w
  else if k < 0x60 then decodeRow5 k w
  else if k < 0x70 then decodeRow6 k w
  else decodeRow7 k w

/-- The N3 major of an N1 word of majors 0x30 to 0x3F (R64, first two rows). -/
def legacyMajor (k : Nat) : Nat :=
  if k < 0x30 || 0x40 ≤ k then k
  else ([0x31, 0x34, 0x37, 0x3A, 0x3C, 0x3E, 0x40, 0x45, 0x32, 0x35, 0x38, 0x3B, 0x3D, 0x3F, 0x41, 0x46][k - 0x30]?).getD k

/-- The M-format majors (R47). -/
def memoryFormat (k : Nat) : Bool :=
  (0x60 ≤ k && k ≤ 0x63) || k == 0x6B || k == 0x6C || k == 0x72

/-- Majors that no word of the mode reaches (R64): the whole word then raises an illegal-instruction fault. -/
def legacyIllegal (gen : Gen) (k : Nat) : Bool :=
  match gen with
  | .n3 => false
  | .n1 => (0x40 ≤ k && k ≤ 0x46) || k == 0x52 || k == 0x5D || k == 0x5E || k == 0x70
  | .n2 => k == 0x52 || k == 0x5D || k == 0x5E || k == 0x70

/-- The N3 element format code of an N2 code (R64): 0 LN16, 1 LN8, 2 LN32, 3 LB8; 4 to 7 have none. -/
def legacyFormat (f : BitVec 3) : Option (BitVec 3) :=
  match f.toNat with
  | 0 => some 2
  | 1 => some 0
  | 2 => some 3
  | 3 => some 1
  | _ => none

/-- The N3 word that a word of the mode stands for (R63, R64), or none where the mode makes it an illegal instruction.
The element format of the X format is a field of LMMA, LMMS and ACLR only (log entry 13, DEDUCED). Branch offsets keep their bits:
the different origin of N1 and N2 branches is applied when the branch is taken (Machine/Control.lean Issue.target). -/
def legacyWord (gen : Gen) (w : BitVec 32) : Option (BitVec 32) :=
  let k := (w.extractLsb' 24 7).toNat
  if legacyIllegal gen k then none
  else match gen with
  | .n3 => some w
  | .n1 =>
    let w1 := w.extractLsb' 31 1 ++ BitVec.ofNat 7 (legacyMajor k) ++ w.extractLsb' 0 24
    if memoryFormat k then some (w1.extractLsb' 8 24 ++ w.extractLsb' 0 6 ++ w.extractLsb' 6 2)
    else if k = 0x7F && w.extractLsb' 20 4 = 5#4 then some (w.extractLsb' 24 8 ++ 0#4 ++ w.extractLsb' 0 20)
    else some w1
  | .n2 =>
    if k = 0x50 || k = 0x51 || k = 0x53 then
      (legacyFormat (w.extractLsb' 6 3)).map fun f => w.extractLsb' 9 23 ++ f ++ w.extractLsb' 0 6
    else if k = 0x7F && w.extractLsb' 20 4 = 5#4 then some (w.extractLsb' 24 8 ++ 0#4 ++ w.extractLsb' 0 20)
    else some w

/-- A word of a code object of the given generation (R57, R63). -/
def decodeGen (gen : Gen) (w : BitVec 32) : Except DecodeError Instr :=
  match legacyWord gen w with
  | some w' => decodeWord w'
  | none => .ok .unassignedMajor

/-- Four bytes of program text as a word: bits [7:0] at the lowest address (R29). -/
def wordOfBytes (b0 b1 b2 b3 : Byte) : BitVec 32 := b3 ++ b2 ++ b1 ++ b0

/-- The bytes of a word as the hardware stores them (R29). -/
def bytesOfWord (w : BitVec 32) : List Byte :=
  [w.extractLsb' 0 8, w.extractLsb' 8 8, w.extractLsb' 16 8, w.extractLsb' 24 8]

/-- Decode the first word of a byte list: the instruction and the bytes after it. -/
def decodeBytes (gen : Gen) : List Byte → Except DecodeError (Instr × List Byte)
  | b0 :: b1 :: b2 :: b3 :: rest => (decodeGen gen (wordOfBytes b0 b1 b2 b3)).map fun i => (i, rest)
  | _ => .error .truncated

/-- The instruction this decoder reads from the 32-bit word w (bit 0 least significant), laid out as R29 stores it. -/
def decodeTableWord (nbits w : Nat) : Option Instr :=
  match decodeBytes .n3 (bytesOfWord (BitVec.ofNat 32 (w % 2 ^ nbits))) with
  | .ok (i, _) => some i
  | .error _ => none

/-- The N3 word of an instruction with the switch marker m (R30, R47 and the field tables of each entry); an event has
no word. -/
def encode (m : Bool) : Instr → Option (BitVec 32)
  | .iadd d a b => some (BitVec.ofBool m ++ 0x1#7 ++ d ++ a ++ b)
  | .isub d a b => some (BitVec.ofBool m ++ 0x2#7 ++ d ++ a ++ b)
  | .imul d a b => some (BitVec.ofBool m ++ 0x3#7 ++ d ++ a ++ b)
  | .imulhS32 d a b => some (BitVec.ofBool m ++ 0x4#7 ++ d ++ a ++ b)
  | .imulhN32 d a b => some (BitVec.ofBool m ++ 0x5#7 ++ d ++ a ++ b)
  | .imad d a b => some (BitVec.ofBool m ++ 0x6#7 ++ d ++ a ++ b)
  | .iminS32 d a b => some (BitVec.ofBool m ++ 0x7#7 ++ d ++ a ++ b)
  | .imaxS32 d a b => some (BitVec.ofBool m ++ 0x8#7 ++ d ++ a ++ b)
  | .iminN32 d a b => some (BitVec.ofBool m ++ 0x9#7 ++ d ++ a ++ b)
  | .imaxN32 d a b => some (BitVec.ofBool m ++ 0xA#7 ++ d ++ a ++ b)
  | .and d a b => some (BitVec.ofBool m ++ 0xB#7 ++ d ++ a ++ b)
  | .or d a b => some (BitVec.ofBool m ++ 0xC#7 ++ d ++ a ++ b)
  | .xor d a b => some (BitVec.ofBool m ++ 0xD#7 ++ d ++ a ++ b)
  | .shl d a b => some (BitVec.ofBool m ++ 0xE#7 ++ d ++ a ++ b)
  | .shr d a b => some (BitVec.ofBool m ++ 0xF#7 ++ d ++ a ++ b)
  | .sar d a b => some (BitVec.ofBool m ++ 0x10#7 ++ d ++ a ++ b)
  | .iadd64 d a b => some (BitVec.ofBool m ++ 0x11#7 ++ d ++ a ++ b)
  | .isub64 d a b => some (BitVec.ofBool m ++ 0x12#7 ++ d ++ a ++ b)
  | .bfeS32 d a b => some (BitVec.ofBool m ++ 0x13#7 ++ d ++ a ++ b)
  | .bfeN32 d a b => some (BitVec.ofBool m ++ 0x14#7 ++ d ++ a ++ b)
  | .bfi d a b => some (BitVec.ofBool m ++ 0x15#7 ++ d ++ a ++ b)
  | .iaddi d a i => some (BitVec.ofBool m ++ 0x16#7 ++ d ++ a ++ i)
  | .andi d a i => some (BitVec.ofBool m ++ 0x17#7 ++ d ++ a ++ i)
  | .ori d a i => some (BitVec.ofBool m ++ 0x18#7 ++ d ++ a ++ i)
  | .shli d a i => some (BitVec.ofBool m ++ 0x19#7 ++ d ++ a ++ i)
  | .shri d a i => some (BitVec.ofBool m ++ 0x1A#7 ++ d ++ a ++ i)
  | .sari d a i => some (BitVec.ofBool m ++ 0x1B#7 ++ d ++ a ++ i)
  | .mov d a => some (BitVec.ofBool m ++ 0x1C#7 ++ d ++ a ++ 0x0#8)
  | .not d a => some (BitVec.ofBool m ++ 0x1C#7 ++ d ++ a ++ 0x1#8)
  | .ineg d a => some (BitVec.ofBool m ++ 0x1C#7 ++ d ++ a ++ 0x2#8)
  | .iabs d a => some (BitVec.ofBool m ++ 0x1C#7 ++ d ++ a ++ 0x3#8)
  | .popc d a => some (BitVec.ofBool m ++ 0x1C#7 ++ d ++ a ++ 0x4#8)
  | .clz d a => some (BitVec.ofBool m ++ 0x1C#7 ++ d ++ a ++ 0x5#8)
  | .brev d a => some (BitVec.ofBool m ++ 0x1C#7 ++ d ++ a ++ 0x6#8)
  | .sextS8 d a => some (BitVec.ofBool m ++ 0x1C#7 ++ d ++ a ++ 0x7#8)
  | .sextS16 d a => some (BitVec.ofBool m ++ 0x1C#7 ++ d ++ a ++ 0x8#8)
  | .zextN8 d a => some (BitVec.ofBool m ++ 0x1C#7 ++ d ++ a ++ 0x9#8)
  | .zextN16 d a => some (BitVec.ofBool m ++ 0x1C#7 ++ d ++ a ++ 0xA#8)
  | .mov64 d a => some (BitVec.ofBool m ++ 0x1C#7 ++ d ++ a ++ 0xB#8)
  | .movi d i => some (BitVec.ofBool m ++ 0x1D#7 ++ d ++ i)
  | .movhi d i => some (BitVec.ofBool m ++ 0x1E#7 ++ d ++ i)
  | .icmpS32 c p a b => some (BitVec.ofBool m ++ 0x1F#7 ++ c ++ p ++ a ++ b)
  | .icmpN32 c p a b => some (BitVec.ofBool m ++ 0x20#7 ++ c ++ p ++ a ++ b)
  | .plog d a b t => some (BitVec.ofBool m ++ 0x21#7 ++ d ++ a ++ b ++ 0x0#2 ++ t)
  | .pmvVp d a => some (BitVec.ofBool m ++ 0x22#7 ++ d ++ 0x0#2 ++ a ++ 0x0#8)
  | .pmvPv d a => some (BitVec.ofBool m ++ 0x88#9 ++ d ++ a ++ 0x1#8)
  | .pmvSp d a => some (BitVec.ofBool m ++ 0x88#9 ++ d ++ 0x0#2 ++ a ++ 0x2#8)
  | .pmvPs d a => some (BitVec.ofBool m ++ 0x88#9 ++ d ++ 0x0#2 ++ a ++ 0x3#8)
  | .voteBallot d a => some (BitVec.ofBool m ++ 0x23#7 ++ d ++ a ++ 0x0#12)
  | .voteAny d a => some (BitVec.ofBool m ++ 0x23#7 ++ d ++ a ++ 0x1#12)
  | .voteAll d a => some (BitVec.ofBool m ++ 0x23#7 ++ d ++ a ++ 0x2#12)
  | .voteUni d a => some (BitVec.ofBool m ++ 0x23#7 ++ d ++ a ++ 0x3#12)
  | .voteActive d => some (BitVec.ofBool m ++ 0x23#7 ++ d ++ 0x4#18)
  | .voteCount d a => some (BitVec.ofBool m ++ 0x23#7 ++ d ++ a ++ 0x5#12)
  | .shflIdx d a n => some (BitVec.ofBool m ++ 0x24#7 ++ d ++ a ++ 0x0#2 ++ n)
  | .shflUp d a n => some (BitVec.ofBool m ++ 0x24#7 ++ d ++ a ++ 0x1#2 ++ n)
  | .shflDown d a n => some (BitVec.ofBool m ++ 0x24#7 ++ d ++ a ++ 0x2#2 ++ n)
  | .shflXor d a n => some (BitVec.ofBool m ++ 0x24#7 ++ d ++ a ++ 0x3#2 ++ n)
  | .shflv d a b => some (BitVec.ofBool m ++ 0x25#7 ++ d ++ a ++ b)
  | .matchB32 d a => some (BitVec.ofBool m ++ 0x26#7 ++ d ++ a ++ 0x0#8)
  | .matchB64 d a => some (BitVec.ofBool m ++ 0x26#7 ++ d ++ a ++ 0x1#8)
  | .xred d a s k o => some (BitVec.ofBool m ++ 0x27#7 ++ d ++ a ++ 0x0#1 ++ BitVec.ofBool s ++ k ++ o)
  | .uadd d a b => some (BitVec.ofBool m ++ 0x28#7 ++ d ++ a ++ b ++ 0x0#6)
  | .usub d a b => some (BitVec.ofBool m ++ 0x28#7 ++ d ++ a ++ b ++ 0x1#6)
  | .umul d a b => some (BitVec.ofBool m ++ 0x28#7 ++ d ++ a ++ b ++ 0x2#6)
  | .umulhS32 d a b => some (BitVec.ofBool m ++ 0x28#7 ++ d ++ a ++ b ++ 0x3#6)
  | .umulhN32 d a b => some (BitVec.ofBool m ++ 0x28#7 ++ d ++ a ++ b ++ 0x4#6)
  | .uand d a b => some (BitVec.ofBool m ++ 0x28#7 ++ d ++ a ++ b ++ 0x5#6)
  | .uor d a b => some (BitVec.ofBool m ++ 0x28#7 ++ d ++ a ++ b ++ 0x6#6)
  | .uxor d a b => some (BitVec.ofBool m ++ 0x28#7 ++ d ++ a ++ b ++ 0x7#6)
  | .ushl d a b => some (BitVec.ofBool m ++ 0x28#7 ++ d ++ a ++ b ++ 0x8#6)
  | .ushr d a b => some (BitVec.ofBool m ++ 0x28#7 ++ d ++ a ++ b ++ 0x9#6)
  | .usar d a b => some (BitVec.ofBool m ++ 0x28#7 ++ d ++ a ++ b ++ 0xA#6)
  | .uminS32 d a b => some (BitVec.ofBool m ++ 0x28#7 ++ d ++ a ++ b ++ 0xB#6)
  | .umaxS32 d a b => some (BitVec.ofBool m ++ 0x28#7 ++ d ++ a ++ b ++ 0xC#6)
  | .uminN32 d a b => some (BitVec.ofBool m ++ 0x28#7 ++ d ++ a ++ b ++ 0xD#6)
  | .umaxN32 d a b => some (BitVec.ofBool m ++ 0x28#7 ++ d ++ a ++ b ++ 0xE#6)
  | .umov d a => some (BitVec.ofBool m ++ 0x28#7 ++ d ++ a ++ 0xF#12)
  | .unot d a => some (BitVec.ofBool m ++ 0x28#7 ++ d ++ a ++ 0x10#12)
  | .usetEq d a b => some (BitVec.ofBool m ++ 0x28#7 ++ d ++ a ++ b ++ 0x11#6)
  | .usetNe d a b => some (BitVec.ofBool m ++ 0x28#7 ++ d ++ a ++ b ++ 0x12#6)
  | .usetLtS32 d a b => some (BitVec.ofBool m ++ 0x28#7 ++ d ++ a ++ b ++ 0x13#6)
  | .usetLeS32 d a b => some (BitVec.ofBool m ++ 0x28#7 ++ d ++ a ++ b ++ 0x14#6)
  | .usetLtN32 d a b => some (BitVec.ofBool m ++ 0x28#7 ++ d ++ a ++ b ++ 0x15#6)
  | .usetLeN32 d a b => some (BitVec.ofBool m ++ 0x28#7 ++ d ++ a ++ b ++ 0x16#6)
  | .uadd64 d a b => some (BitVec.ofBool m ++ 0x28#7 ++ d ++ a ++ b ++ 0x17#6)
  | .usub64 d a b => some (BitVec.ofBool m ++ 0x28#7 ++ d ++ a ++ b ++ 0x18#6)
  | .upopc d a => some (BitVec.ofBool m ++ 0x28#7 ++ d ++ a ++ 0x19#12)
  | .uclz d a => some (BitVec.ofBool m ++ 0x28#7 ++ d ++ a ++ 0x1A#12)
  | .umovi d i => some (BitVec.ofBool m ++ 0xA4#9 ++ d ++ i)
  | .uaddi d i => some (BitVec.ofBool m ++ 0xA8#9 ++ d ++ i)
  | .umovhi d i => some (BitVec.ofBool m ++ 0xAC#9 ++ d ++ i)
  | .uvmovVs d a => some (BitVec.ofBool m ++ 0x2C#7 ++ d ++ 0x0#2 ++ a ++ 0x0#8)
  | .uvmovSv d a n => some (BitVec.ofBool m ++ 0xB0#9 ++ d ++ a ++ 0x1#2 ++ n)
  | .uvmovFirst d a => some (BitVec.ofBool m ++ 0xB0#9 ++ d ++ a ++ 0x80#8)
  | .laddLn8 d a b => some (BitVec.ofBool m ++ 0x30#7 ++ d ++ a ++ b)
  | .laddLn16 d a b => some (BitVec.ofBool m ++ 0x31#7 ++ d ++ a ++ b)
  | .laddLn32 d a b => some (BitVec.ofBool m ++ 0x32#7 ++ d ++ a ++ b)
  | .lsubLn8 d a b => some (BitVec.ofBool m ++ 0x33#7 ++ d ++ a ++ b)
  | .lsubLn16 d a b => some (BitVec.ofBool m ++ 0x34#7 ++ d ++ a ++ b)
  | .lsubLn32 d a b => some (BitVec.ofBool m ++ 0x35#7 ++ d ++ a ++ b)
  | .lmulLn8 d a b => some (BitVec.ofBool m ++ 0x36#7 ++ d ++ a ++ b)
  | .lmulLn16 d a b => some (BitVec.ofBool m ++ 0x37#7 ++ d ++ a ++ b)
  | .lmulLn32 d a b => some (BitVec.ofBool m ++ 0x38#7 ++ d ++ a ++ b)
  | .lmadLn8 d a b => some (BitVec.ofBool m ++ 0x39#7 ++ d ++ a ++ b)
  | .lmadLn16 d a b => some (BitVec.ofBool m ++ 0x3A#7 ++ d ++ a ++ b)
  | .lmadLn32 d a b => some (BitVec.ofBool m ++ 0x3B#7 ++ d ++ a ++ b)
  | .ldivLn16 d a b => some (BitVec.ofBool m ++ 0x3C#7 ++ d ++ a ++ b)
  | .ldivLn32 d a b => some (BitVec.ofBool m ++ 0x3D#7 ++ d ++ a ++ b)
  | .lminLn16 d a b => some (BitVec.ofBool m ++ 0x3E#7 ++ d ++ a ++ b)
  | .lminLn32 d a b => some (BitVec.ofBool m ++ 0x3F#7 ++ d ++ a ++ b)
  | .lmaxLn16 d a b => some (BitVec.ofBool m ++ 0x40#7 ++ d ++ a ++ b)
  | .lmaxLn32 d a b => some (BitVec.ofBool m ++ 0x41#7 ++ d ++ a ++ b)
  | .lpowLn32 d a b => some (BitVec.ofBool m ++ 0x42#7 ++ d ++ a ++ b)
  | .lscaleLn16 d a b => some (BitVec.ofBool m ++ 0x43#7 ++ d ++ a ++ b)
  | .lscaleLn32 d a b => some (BitVec.ofBool m ++ 0x44#7 ++ d ++ a ++ b)
  | .lcmpLn16 c p a b => some (BitVec.ofBool m ++ 0x45#7 ++ c ++ p ++ a ++ b)
  | .lcmpLn32 c p a b => some (BitVec.ofBool m ++ 0x46#7 ++ c ++ p ++ a ++ b)
  | .lneg d a f => some (BitVec.ofBool m ++ 0x47#7 ++ d ++ a ++ 0x0#6 ++ f)
  | .labs d a f => some (BitVec.ofBool m ++ 0x47#7 ++ d ++ a ++ 0x1#6 ++ f)
  | .lrcp d a f => some (BitVec.ofBool m ++ 0x47#7 ++ d ++ a ++ 0x2#6 ++ f)
  | .lsqr d a f => some (BitVec.ofBool m ++ 0x47#7 ++ d ++ a ++ 0x3#6 ++ f)
  | .lsqrt d a f => some (BitVec.ofBool m ++ 0x47#7 ++ d ++ a ++ 0x4#6 ++ f)
  | .lrsqrt d a f => some (BitVec.ofBool m ++ 0x47#7 ++ d ++ a ++ 0x5#6 ++ f)
  | .lexp2 d a f => some (BitVec.ofBool m ++ 0x47#7 ++ d ++ a ++ 0x6#6 ++ f)
  | .llog2 d a f => some (BitVec.ofBool m ++ 0x47#7 ++ d ++ a ++ 0x7#6 ++ f)
  | .lexp d a f => some (BitVec.ofBool m ++ 0x47#7 ++ d ++ a ++ 0x8#6 ++ f)
  | .lsint d a f => some (BitVec.ofBool m ++ 0x47#7 ++ d ++ a ++ 0x9#6 ++ f)
  | .lcost d a f => some (BitVec.ofBool m ++ 0x47#7 ++ d ++ a ++ 0xA#6 ++ f)
  | .lclass d a f => some (BitVec.ofBool m ++ 0x47#7 ++ d ++ a ++ 0xB#6 ++ f)
  | .lcvtLn8 d a s => some (BitVec.ofBool m ++ 0x47#7 ++ d ++ a ++ 0xC#6 ++ s)
  | .lcvtLn16 d a s => some (BitVec.ofBool m ++ 0x47#7 ++ d ++ a ++ 0xD#6 ++ s)
  | .lcvtLn32 d a s => some (BitVec.ofBool m ++ 0x47#7 ++ d ++ a ++ 0xE#6 ++ s)
  | .lgetl d a f => some (BitVec.ofBool m ++ 0x47#7 ++ d ++ a ++ 0xF#6 ++ f)
  | .lmkl d a f => some (BitVec.ofBool m ++ 0x47#7 ++ d ++ a ++ 0x10#6 ++ f)
  | .lunpk0 d a f => some (BitVec.ofBool m ++ 0x47#7 ++ d ++ a ++ 0x11#6 ++ f)
  | .lunpk1 d a f => some (BitVec.ofBool m ++ 0x47#7 ++ d ++ a ++ 0x12#6 ++ f)
  | .lunpk2 d a f => some (BitVec.ofBool m ++ 0x47#7 ++ d ++ a ++ 0x13#6 ++ f)
  | .lunpk3 d a f => some (BitVec.ofBool m ++ 0x47#7 ++ d ++ a ++ 0x14#6 ++ f)
  | .lfix d a f s n => some (BitVec.ofBool m ++ 0x48#7 ++ d ++ a ++ f ++ BitVec.ofBool s ++ n)
  | .lflt d a f s n => some (BitVec.ofBool m ++ 0x49#7 ++ d ++ a ++ f ++ BitVec.ofBool s ++ n)
  | .fcvtToLn d a l e => some (BitVec.ofBool m ++ 0x4A#7 ++ d ++ a ++ 0x0#1 ++ l ++ e ++ 0x0#2)
  | .fcvtToIeee d a l e => some (BitVec.ofBool m ++ 0x4A#7 ++ d ++ a ++ 0x1#1 ++ l ++ e ++ 0x0#2)
  | .lpack d a b => some (BitVec.ofBool m ++ 0x4B#7 ++ d ++ a ++ b)
  | .flagGet d => some (BitVec.ofBool m ++ 0x4C#7 ++ d ++ 0x0#16)
  | .flagSet a => some (BitVec.ofBool m ++ 0x4C00#15 ++ a ++ 0x1#8)
  | .flagClr a => some (BitVec.ofBool m ++ 0x4C00#15 ++ a ++ 0x2#8)
  | .flagPut a => some (BitVec.ofBool m ++ 0x4C00#15 ++ a ++ 0x3#8)
  | .flagGor d => some (BitVec.ofBool m ++ 0x130#9 ++ d ++ 0x4#16)
  | .flagTst d a => some (BitVec.ofBool m ++ 0x130#9 ++ d ++ a ++ 0x5#8)
  | .lmma c a b f s p => some (BitVec.ofBool m ++ 0x50#7 ++ c ++ a ++ b ++ f ++ s ++ BitVec.ofBool p)
  | .lmms c a b f w n p => some (BitVec.ofBool m ++ 0x51#7 ++ c ++ a ++ b ++ f ++ w ++ n ++ BitVec.ofBool p)
  | .imma c a b n p => some (BitVec.ofBool m ++ 0x52#7 ++ c ++ a ++ b ++ 0x4#3 ++ n ++ 0x0#2 ++ BitVec.ofBool p)
  | .aclrLn32 c => some (BitVec.ofBool m ++ 0x53#7 ++ c ++ 0xC0#21)
  | .aclrLn16 c => some (BitVec.ofBool m ++ 0x53#7 ++ c ++ 0x80#21)
  | .aclrS32 c f => some (BitVec.ofBool m ++ 0x53#7 ++ c ++ 0x8#16 ++ f)
  | .ard c q d => some (BitVec.ofBool m ++ 0x54#7 ++ c ++ 0x0#1 ++ q ++ d ++ 0x0#9)
  | .awr c q => some (BitVec.ofBool m ++ 0x55#7 ++ c ++ 0x0#1 ++ q ++ 0x0#15)
  | .amov c s => some (BitVec.ofBool m ++ 0x56#7 ++ c ++ 0x0#3 ++ s ++ 0x0#15)
  | .tld t d s => some (BitVec.ofBool m ++ 0x2B8#10 ++ t ++ d ++ 0x0#3 ++ s)
  | .tst t d s => some (BitVec.ofBool m ++ 0x2C0#10 ++ t ++ d ++ 0x0#3 ++ s)
  | .tmov t u => some (BitVec.ofBool m ++ 0x2C8#10 ++ t ++ u ++ 0x0#9)
  | .twset n b => some (BitVec.ofBool m ++ 0x1680#13 ++ n ++ b ++ 0x0#9)
  | .twget n b => some (BitVec.ofBool m ++ 0x16C0#13 ++ n ++ b ++ 0x0#9)
  | .mwait c => some (BitVec.ofBool m ++ 0x5C#7 ++ c ++ 0x0#21)
  | .gset a g => some (BitVec.ofBool m ++ 0x1740#13 ++ a ++ 0x0#9 ++ g)
  | .gcfg d g => some (BitVec.ofBool m ++ 0x5E#7 ++ d ++ 0x0#15 ++ g)
  | .ldgUniformVector d a b z => some (BitVec.ofBool m ++ 0x60#7 ++ d ++ 0x0#1 ++ a ++ b ++ z)
  | .ldgUniform d b z => some (BitVec.ofBool m ++ 0x60#7 ++ d ++ 0x80#8 ++ b ++ z)
  | .ldgVector d a z => some (BitVec.ofBool m ++ 0x60#7 ++ d ++ 0x0#1 ++ a ++ 0x3F#6 ++ z)
  | .stgUniformVector d a b z => some (BitVec.ofBool m ++ 0x61#7 ++ d ++ 0x0#1 ++ a ++ b ++ z)
  | .stgUniform d b z => some (BitVec.ofBool m ++ 0x61#7 ++ d ++ 0x80#8 ++ b ++ z)
  | .stgVector d a z => some (BitVec.ofBool m ++ 0x61#7 ++ d ++ 0x0#1 ++ a ++ 0x3F#6 ++ z)
  | .ldhVector d a b z => some (BitVec.ofBool m ++ 0x62#7 ++ d ++ 0x0#1 ++ a ++ b ++ z)
  | .ldhOffset d b z => some (BitVec.ofBool m ++ 0x62#7 ++ d ++ 0x80#8 ++ b ++ z)
  | .sthVector d a b z => some (BitVec.ofBool m ++ 0x63#7 ++ d ++ 0x0#1 ++ a ++ b ++ z)
  | .sthOffset d b z => some (BitVec.ofBool m ++ 0x63#7 ++ d ++ 0x80#8 ++ b ++ z)
  | .atom d a o t => some (BitVec.ofBool m ++ 0x64#7 ++ d ++ a ++ o ++ t ++ 0x0#2)
  | .red d a o t => some (BitVec.ofBool m ++ 0x65#7 ++ d ++ a ++ o ++ t ++ 0x0#2)
  | .fenceX s => some (BitVec.ofBool m ++ 0x19C0000#25 ++ s)
  | .talloc d a l => some (BitVec.ofBool m ++ 0x68#7 ++ d ++ a ++ 0x0#11 ++ BitVec.ofBool l)
  | .tfree a => some (BitVec.ofBool m ++ 0x1A40#13 ++ a ++ 0x0#12)
  | .pref d a b => some (BitVec.ofBool m ++ 0x6A#7 ++ d ++ a ++ b)
  | .vspl d b s => some (BitVec.ofBool m ++ 0x6B#7 ++ d ++ 0x80#8 ++ b ++ 0x0#1 ++ BitVec.ofBool s)
  | .vfil d b s => some (BitVec.ofBool m ++ 0x6C#7 ++ d ++ 0x80#8 ++ b ++ 0x0#1 ++ BitVec.ofBool s)
  | .qpush n a => some (BitVec.ofBool m ++ 0x1B4#9 ++ n ++ a ++ 0x0#12)
  | .qpop d n => some (BitVec.ofBool m ++ 0x6E#7 ++ d ++ 0x0#2 ++ n ++ 0x0#12)
  | .qtry d n b => some (BitVec.ofBool m ++ 0x6F#7 ++ d ++ 0x0#2 ++ n ++ b ++ 0x0#6)
  | .thrGet d n => some (BitVec.ofBool m ++ 0xE00#12 ++ d ++ 0x0#9 ++ n)
  | .thrPeek d n => some (BitVec.ofBool m ++ 0xE01#12 ++ d ++ 0x0#9 ++ n)
  | .thrSkip a n => some (BitVec.ofBool m ++ 0xE020#16 ++ a ++ n)
  | .thrBfx d a s w p => some (BitVec.ofBool m ++ 0xE03#12 ++ d ++ a ++ BitVec.ofBool s ++ w ++ p)
  | .thrLut d a k => some (BitVec.ofBool m ++ 0xE04#12 ++ d ++ a ++ 0x0#3 ++ k)
  | .thrTbw d a k => some (BitVec.ofBool m ++ 0xE05#12 ++ d ++ a ++ 0x0#3 ++ k)
  | .thrRefill a n => some (BitVec.ofBool m ++ 0xE060#16 ++ a ++ 0x0#3 ++ n)
  | .thrMovi d i => some (BitVec.ofBool m ++ 0xE07#12 ++ d ++ 0x0#4 ++ i)
  | .thrAdd d a i => some (BitVec.ofBool m ++ 0xE08#12 ++ d ++ a ++ i)
  | .thrSub d a i => some (BitVec.ofBool m ++ 0xE09#12 ++ d ++ a ++ i)
  | .thrAnd d a i => some (BitVec.ofBool m ++ 0xE0A#12 ++ d ++ a ++ i)
  | .thrOr d a i => some (BitVec.ofBool m ++ 0xE0B#12 ++ d ++ a ++ i)
  | .thrXor d a i => some (BitVec.ofBool m ++ 0xE0C#12 ++ d ++ a ++ i)
  | .thrShl d a i => some (BitVec.ofBool m ++ 0xE0D#12 ++ d ++ a ++ i)
  | .thrShr d a i => some (BitVec.ofBool m ++ 0xE0E#12 ++ d ++ a ++ i)
  | .thrSar d a i => some (BitVec.ofBool m ++ 0xE0F#12 ++ d ++ a ++ i)
  | .thrEmit a n => some (BitVec.ofBool m ++ 0xE100#16 ++ a ++ 0x0#8 ++ n)
  | .thrCopy d a => some (BitVec.ofBool m ++ 0xE11#12 ++ d ++ a ++ 0x0#11)
  | .thrBr c a i => some (BitVec.ofBool m ++ 0xE12#12 ++ c ++ a ++ i)
  | .qbindInit n a => some (BitVec.ofBool m ++ 0x1C4#9 ++ n ++ a ++ 0x0#12)
  | .qbindAttach n a => some (BitVec.ofBool m ++ 0x1C4#9 ++ n ++ a ++ 0x1#12)
  | .qbindUnbind n => some (BitVec.ofBool m ++ 0x1C4#9 ++ n ++ 0x2#18)
  | .waitmUniformVector d a b z => some (BitVec.ofBool m ++ 0x72#7 ++ d ++ 0x0#1 ++ a ++ b ++ z)
  | .waitmUniform d b z => some (BitVec.ofBool m ++ 0x72#7 ++ d ++ 0x80#8 ++ b ++ z)
  | .waitmVector d a z => some (BitVec.ofBool m ++ 0x72#7 ++ d ++ 0x0#1 ++ a ++ 0x3F#6 ++ z)
  | .bra o => some (BitVec.ofBool m ++ 0x73#7 ++ o)
  | .brp p s o => some (BitVec.ofBool m ++ 0x74#7 ++ p ++ BitVec.ofBool s ++ 0x0#1 ++ o)
  | .call o => some (BitVec.ofBool m ++ 0x75#7 ++ o)
  | .jmp a => some (BitVec.ofBool m ++ 0x1D80#13 ++ a ++ 0x1#12)
  | .calli a => some (BitVec.ofBool m ++ 0x1D80#13 ++ a ++ 0x2#12)
  | .spawn a b => some (BitVec.ofBool m ++ 0x1DC0#13 ++ a ++ b ++ 0x0#6)
  | .bar l s => some (BitVec.ofBool m ++ 0x780000#23 ++ l ++ s)
  | .barl d o l s => some (BitVec.ofBool m ++ 0x1E4#9 ++ d ++ 0x0#6 ++ o ++ l ++ s)
  | .tsub d a => some (BitVec.ofBool m ++ 0x7A#7 ++ d ++ a ++ 0x0#12)
  | .widF0 d => some (BitVec.ofBool m ++ 0x7B#7 ++ d ++ 0x0#16)
  | .widF1 d => some (BitVec.ofBool m ++ 0x7B#7 ++ d ++ 0x1#16)
  | .widF2 d => some (BitVec.ofBool m ++ 0x7B#7 ++ d ++ 0x2#16)
  | .widF3 d => some (BitVec.ofBool m ++ 0x7B#7 ++ d ++ 0x3#16)
  | .widF4 d => some (BitVec.ofBool m ++ 0x7B#7 ++ d ++ 0x4#16)
  | .widF5 d => some (BitVec.ofBool m ++ 0x7B#7 ++ d ++ 0x5#16)
  | .widId d => some (BitVec.ofBool m ++ 0x7B#7 ++ d ++ 0x6#16)
  | .widKey d => some (BitVec.ofBool m ++ 0x7B#7 ++ d ++ 0x7#16)
  | .widExt0 d => some (BitVec.ofBool m ++ 0x7B#7 ++ d ++ 0x8#16)
  | .widExt1 d => some (BitVec.ofBool m ++ 0x7B#7 ++ d ++ 0x9#16)
  | .widExt2 d => some (BitVec.ofBool m ++ 0x7B#7 ++ d ++ 0xA#16)
  | .widExt3 d => some (BitVec.ofBool m ++ 0x7B#7 ++ d ++ 0xB#16)
  | .widExt4 d => some (BitVec.ofBool m ++ 0x7B#7 ++ d ++ 0xC#16)
  | .widExt5 d => some (BitVec.ofBool m ++ 0x7B#7 ++ d ++ 0xD#16)
  | .sread d n => some (BitVec.ofBool m ++ 0x7C#7 ++ d ++ 0x0#6 ++ n)
  | .swrite h a l => some (BitVec.ofBool m ++ 0x7D#7 ++ h ++ a ++ l ++ 0x0#6)
  | .trap n => some (BitVec.ofBool m ++ 0x1F40#13 ++ n ++ 0x1#6)
  | .bkpt n => some (BitVec.ofBool m ++ 0x1F40#13 ++ n ++ 0x2#6)
  | .limm i => some (BitVec.ofBool m ++ 0x7F1#11 ++ i)
  | .rnd r => some (BitVec.ofBool m ++ 0xFE40000#28 ++ r)
  | .guard v p => some (BitVec.ofBool m ++ 0xFE8000#24 ++ BitVec.ofBool v ++ p)
  | .bpri f t => some (BitVec.ofBool m ++ 0x7F5#11 ++ f ++ t)
  | .mwaitAll => some (BitVec.ofBool m ++ 0x5C000001#31)
  | .abfl => some (BitVec.ofBool m ++ 0x66000000#31)
  | .thrHalt => some (BitVec.ofBool m ++ 0x70980000#31)
  | .nop => some (BitVec.ofBool m ++ 0x76000000#31)
  | .ret => some (BitVec.ofBool m ++ 0x76000003#31)
  | .exit => some (BitVec.ofBool m ++ 0x76000004#31)
  | .yield => some (BitVec.ofBool m ++ 0x76000005#31)
  | .lockx => some (BitVec.ofBool m ++ 0x76000006#31)
  | .unlockx => some (BitVec.ofBool m ++ 0x76000007#31)
  | .tret => some (BitVec.ofBool m ++ 0x7D000003#31)
  | .hnop => some (BitVec.ofBool m ++ 0x7F000000#31)
  | .sat => some (BitVec.ofBool m ++ 0x7F300000#31)
  | .placement => some (BitVec.ofBool m ++ 0x7F600000#31)
  | .variableLatencyResult => none
  | .fenceCompletion => none
  | .fenceRollback => none
  | .tileEnginePass => none
  | .queueUnblock => none
  | .monitorWake => none
  | .waitmTimeout => none
  | .barrierRelease => none
  | .clusterDeparture => none
  | .extendedSetLending => none
  | .agedIssue => none
  | .yieldExpiry => none
  | .binTimerExpiry => none
  | .spawnedGroupStart => none
  | .watchdogFault => none
  | .queueDeadlock => none
  | .copyOrConvert => none
  | .expand => none
  | .gather => none
  | .scatter => none
  | .scatterAdd => none
  | .allReduce => none
  | .reduceScatter => none
  | .allGather => none
  | .broadcast => none
  | .linkError => none
  | .thresherInputTake => none
  | .thresherStepLimit => none
  | .submit => none
  | .psubmit => none
  | .admission => none
  | .dispatchStep => none
  | .teamRetirement => none
  | .launchRetirement => none
  | .preemptChosen => none
  | .preemptSave => none
  | .preemptDrain => none
  | .preemptFlush => none
  | .preresume => none
  | .atsInvalidationRequest => none
  | .leaseRegrant => none
  | .xlinv => none
  | .patch => none
  | .ctxstateActivate => none
  | .ctxstateFree => none
  | .commWrite => none
  | .rangeRegisterWrite => none
  | .substatClear => none
  | .mgerrClear => none
  | .errcntClear => none
  | .registerWrite => none
  | .firmwareInstall => none
  | .fuseRaise => none
  | .attestationReport => none
  | .certificateChain => none
  | .checkpoint => none
  | .checkpointRestore => none
  | .bar4Access => none
  | .powerOn => none
  | .timingErrorReplay => none
  | .correctedError => none
  | .uncorrectableError => none
  | .scrub => none
  | .powerTokenBid => none
  | .droop => none
  | .thermalThrottle => none
  | .thermalShutdown => none
  | .unassignedMajor => none
  | .deviceReset => none

end Sys2Proof
end

