-- ==== Sys2Proof/Machine/Operands.lean ====
section
/-! DEFINITION. How a word issues: the fetch, the decoder's checks in their order, tokens, fences, the body, and what follows
it (R19, R38 to R46, R77, R86, R212, R216 to R218, R258 to R260, R323), and the operand forms of the M and A formats. -/

namespace Sys2Proof.Machine

/-- What a meaning sees of the word it executes: the group with its team and launch, the issuing entry, the active lanes, the
AMR and the rounding mode (R2, R44, R81). -/
structure Issue where
  core : Nat
  slot : Nat
  e : Env
  entry : Entry
  active : LaneMask
  amr : Word
  mode : BitVec 3

def Issue.arch (x : Issue) : Arch := x.e.g.arch
def Issue.run (x : Issue) : Run := x.e.g.arch.run
/-- The word index of the target word (R76). -/
def Issue.wordIx (x : Issue) : Nat := (x.arch.wordPc x.entry).toNat / 4
/-- The offset of the M and A formats (R34, R35, R46). -/
def Issue.offset (x : Issue) : Int := match x.run.limm with
  | some n => n.toInt
  | none => 0

/-- What a word does past an incomplete fence whose set names T (R216). -/
inductive FenceRule where
  | free | read | hold | stall
deriving DecidableEq, Repr

/-- What the decoder must know of a word (R38): the hints its target takes, the LIMM bits it gives a meaning, whether a code
is unlisted, whether it is privileged, whether a register is outside its class, the registers it reads and writes, the paths
it issues work on and its row of R216, and whether it rounds. -/
structure Use where
  limm : Bool := false
  limmMask : BitVec 20 := 0xFFFFF
  rnd : Bool := false
  sat : Bool := false
  bpri : Bool := false
  illegal : Bool := false
  privileged : Bool := false
  /-- Refused in every view (R349). -/
  forbidden : Bool := false
  badReg : Bool := false
  /-- Illegal, or a bad register, by what the issue finds: the rounding mode, the extents of tw (R174, R178, R186). -/
  illegalIn : Issue → Bool := fun _ => false
  badIn : Issue → Bool := fun _ => false
  /-- Registers that a LIMM names (R176, R177). -/
  readsIn : Issue → List RegRef := fun _ => []
  /-- Registers that the end of the handler writes (R376). -/
  writesIn : Issue → List RegRef := fun _ => []
  /-- Registers that the command of a QPUSH names: read at its issue, and to be written (R256, R258). -/
  commandReads : Issue → List RegRef := fun _ => []
  commandWrites : Issue → List RegRef := fun _ => []
  reads : List RegRef := []
  writes : List RegRef := []
  /-- Tile precision registers and flag words that it reads, or writes in every active lane (R394): no decoder check concerns them. -/
  readsState : List RegRef := []
  writesState : List RegRef := []
  paths : BitVec 6 := 0
  fence : FenceRule := .free
  rounds : Bool := false

/-- A fault that a body raises: for the group, or for some of its lanes (R227). -/
structure LaneFault where
  cls : Nat
  code : Nat := 0
  mask : LaneMask := 0
  addr : BitVec 64 := 0
  addrs : List (Nat × Nat × BitVec 64) := []
  took : Bool := false
  /-- The group resumes after the target in any case (R371). -/
  after : Bool := false

/-- What a body did: the state, the flags raised, the successors if it is control flow, whether the group now waits at the
word, and the fault of some lanes. -/
structure Done where
  s : State
  flags : List (Nat × BitVec 9) := []
  succs : Option (List Succ) := none
  stay : Bool := false
  fault : Option LaneFault := none
  rounds : Bool := false

/-- What a body answers: it cannot issue now; it faults with no effect; it is done; a replay fault of a code; or it made
progress without issuing. -/
inductive Res where
  | stall
  | fault (f : LaneFault)
  | done (d : Done)
  | mismatch (code : Nat)
  | moved (s : State)

/-! ### The decoder's checks -/

/-- A hint that the target does not take, or LIMM bits it gives no meaning (R38 step 2, R45, R46). -/
def Use.hintIllegal (u : Use) (r : Run) : Bool :=
  (match r.limm with
    | some n => !u.limm || (n &&& ~~~u.limmMask) != 0
    | none => false)
  || (r.rnd.isSome && !u.rnd) || (r.sat && !u.sat) || (r.bpri.isSome && !u.bpri)

/-- A register outside its class, above the declared count, or an extended register without the lock (R13, R14, R38 step 4);
in an N1 code object v128 to v255 are never legal (R64). -/
def Env.regBad (e : Env) : RegRef → Bool
  | .v n => if n < 128 then e.l.kh.regs ≤ n else (e.g.xset != .held || 256 ≤ n || e.l.kh.gen == .n1)
  | .s n => 64 ≤ n
  | .t n => e.l.kh.tiles ≤ n
  | .a n => e.l.kh.accs ≤ n
  | .p n => 48 ≤ n
  | .tw n => e.l.kh.tiles ≤ n
  | .fl => false

/-- The registers that an issue reads or writes. -/
def Use.regs (u : Use) (x : Issue) : List RegRef :=
  u.reads ++ u.writes ++ u.readsIn x ++ u.writesIn x ++ u.commandReads x ++ u.commandWrites x

/-- The first decoder check that fails, as a fault class (R38, R40). -/
def decodeFault (u : Use) (x : Issue) : Option Nat :=
  if u.illegal || u.hintIllegal x.run || u.illegalIn x then some 1
  else if u.forbidden || (u.privileged && !x.e.l.privileged) then some 3
  else if u.badReg || u.badIn x || (u.regs x).any x.e.regBad then some 2
  else if (u.regs x).any (fun r => x.arch.pending.contains r) then some 2
  else none

/-! ### Faults of the issuing word -/

/-- The group stands past an incomplete fence (R218). -/
def Group.fenced (g : Group) : Bool := g.fence.isSome || !g.soft.isEmpty

def stallState (s : State) : State := { s with stalled := true }

/-- The group of the issue raises a fault (R43, R218, R371); past an incomplete fence it is held, and the word waits. -/
def raise (x : Issue) (s0 s : State) (f : LaneFault) : State :=
  if x.e.g.fenced then stallState s0
  else
    let next := x.arch.wordPc x.entry + 4
    let t : Trap :=
      { cls := f.cls, code := f.code, mask := f.mask, addr := f.addr, addrs := f.addrs, pc := x.entry.pc, word := s0.fetched,
        took := f.took, resume := some (if f.took || f.after then next else x.entry.pc), entry := x.entry.mask }
    (takeFault s x.core x.slot t).getD (stallState s0)

/-- As raise, for a fault that a hint or a fetch raises: the record holds the run's target word (R43, R372). -/
def raiseHint (x : Issue) (s : State) (cls : Nat) : State :=
  if x.e.g.fenced then stallState s
  else
    let t : Trap :=
      { cls := cls, pc := x.entry.pc, word := targetWord s x.e.l 256 x.entry.pc.toNat, resume := some x.entry.pc,
        entry := x.entry.mask }
    (takeFault s x.core x.slot t).getD (stallState s)

/-! ### Tokens (R19, R212, R258 to R260) -/

/-- The tracked tokens whose registers the word reads or writes. -/
def Use.tokens (u : Use) (x : Issue) : List Token :=
  x.e.g.tokens.filter (fun t => (u.reads ++ u.writes ++ u.writesIn x ++ u.commandReads x).contains (.s t.reg)
    || (t.result.isSome && (u.commandWrites x).contains (.s t.reg)))

/-- The flags a token read makes visible (R259). -/
def Token.flags (t : Token) : List (Nat × BitVec 9) :=
  match t.result with
  | some (w, _) => (laneList t.lanes).map (fun i => (i, w.extractLsb' 0 9))
  | none => []

/-- The class of an engine failure (R260). -/
def Failure.cls (f : Failure) : Nat :=
  match f.status with
  | 1 => 4
  | 2 => 6
  | 6 => 17
  | _ => 8

/-- The code field of an engine failure (R369): the status, and for a link failure machine check code 5. -/
def Failure.code (f : Failure) : Nat := if f.status = 6 then 5 else f.status

/-- The fault of a failed command at its token read (R260): it always resumes after the target (R371). -/
def Token.fault (t : Token) : Option LaneFault :=
  match t.result with
  | some (_, some f) =>
    some { cls := f.cls, code := f.code, mask := t.lanes, addr := f.addr,
           addrs := [((lowestLane t.lanes).getD 0, f.cls, f.addr)], took := true, after := true }
  | _ => none

/-! ### What follows a body -/

/-- A fault that is taken after the word, as an entry of the group's list. -/
def LaneFault.toTrap (f : LaneFault) (x : Issue) (word : Word) (async : Bool) (resume : Option (BitVec 32)) : Trap :=
  { cls := f.cls, code := f.code, mask := f.mask, addr := f.addr, addrs := f.addrs, pc := x.entry.pc, word := word,
    took := f.took, async := async, resume := resume, entry := x.entry.mask }

/-- Counts the words of a run against the fence (R216). -/
def Group.countWord (g : Group) : Group :=
  match g.fence with
  | some w => { g with fence := some { w with issued := w.issued + 1 } }
  | none => g

/-- The arithmetic trap of a word, if it raised an enabled flag (R86). -/
def arithmeticTrap (amr : Word) (fs : List (Nat × BitVec 9)) : Option LaneFault :=
  let (m, c) := enabledFlags amr fs
  if m = 0 then none else some { cls := 12, code := c.toNat, mask := m, took := true, after := true }

/-- The group after the word moved on: flags, SSEQ, successors, fence count (R77, R84, R295). -/
def Group.retireWord (g : Group) (x : Issue) (fs : List (Nat × BitVec 9)) (rounds : Bool) (succs : Option (List Succ)) : Group :=
  let a := g.arch.orFlags fs
  let a := if rounds && x.mode = 4 then { a with sseq := a.sseq + 1 } else a
  let g1 := { g with arch := a.advance x.entry (succs.getD (x.arch.fallThrough x.entry)) }
  if x.e.g.fence.isSome then g1.countWord else g1

/-- The word has written the register whole (R394): every lane of it, and no result that is still to come. An accumulator is mended by the
word that writes it (R411). -/
def Use.wroteWhole (u : Use) (x : Issue) (pending : List RegRef) (r : RegRef) : Bool :=
  (u.writes ++ u.writesIn x ++ u.writesState).contains r && !pending.contains r && (match r with
    | .s _ => true
    | .tw _ => true
    | .a _ => false
    | _ => x.active == BitVec.allOnes 64)

/-- Closes an issue: tokens read, flags, SSEQ, faults, successors and the marker (R39, R77, R84 to R86, R260, R295). The flags of a
token read are raised after the body, so that a FLAG.gor whose destination is the token register does not see them (log entry 89,
DESIGN CHOICE). -/
def finish (u : Use) (x : Issue) (s0 : State) (d : Done) : State :=
  match d.s.group? x.core x.slot with
  | none => d.s
  | some g0 =>
    let toks := u.tokens x
    let mended (g : Group) : Group := g.mend (u.wroteWhole x g.arch.pending)
    let g := { g0 with tokens := g0.tokens.filter (fun t => !(toks.any (fun k => k.reg == t.reg && k.cmd == t.cmd))) }
    let fs := d.flags ++ toks.flatMap Token.flags
    let word := s0.fetched
    let late := (toks.filterMap Token.fault).map (fun f => (f, true))
      ++ ((arithmeticTrap x.amr fs).map (fun f => (f, false))).toList
    let waiting := late.map (fun f => f.1.toTrap x word f.2 none)
    if d.stay then
      d.s.setGroup ({ g with arch := g.arch.orFlags fs, waitWord := word }.addAfter waiting)
    else
      match d.fault, late with
      | none, [] => d.s.setGroup (((mended g).retireWord x fs (u.rounds || d.rounds) d.succs).marker x.amr x.entry.pc word x.entry.mask)
      | some f, _ =>
        let a := g.arch.orFlags fs
        raise x s0 (d.s.setGroup ({ g with arch := a }.addAfter waiting)) f
      | none, f :: fs' =>
        if x.e.g.fenced then stallState s0
        else
          let next := x.arch.wordPc x.entry + 4
          let a := g.arch.orFlags fs
          let a := if (u.rounds || d.rounds) && x.mode = 4 then { a with sseq := a.sseq + 1 } else a
          let rest := fs'.map (fun f => f.1.toTrap x word f.2 none)
          match d.succs with
          | none =>
            let s1 := d.s.setGroup ({ mended g with arch := a }.addAfter rest)
            (takeFault s1 x.core x.slot (f.1.toTrap x word f.2 (some next))).getD (stallState s0)
          | some ss =>
            let s1 := d.s.setGroup ({ mended g with arch := a.advance x.entry ss }.addAfter rest)
            (takeFault s1 x.core x.slot (f.1.toTrap x word f.2 none)).getD (stallState s0)

/-- Whether the word must wait behind an incomplete fence (R216, R217); while held accesses wait for their turns in replay every word does
(log entry 134, DESIGN CHOICE). -/
def fenceStall (u : Use) (x : Issue) : Bool :=
  x.e.g.soft.any (fun f => (u.paths &&& f.set) != 0)
  || (match x.e.g.fence with
    | none => false
    | some w => (u.paths &&& w.set) != 0 || u.fence == .stall || 32 ≤ w.issued || 4 ≤ w.rollbacks || w.completing)

/-- The predicate that guards an entry: its word reads it to find the active lanes (R44). -/
def Entry.guardReads (e : Entry) : List RegRef :=
  let n := (e.guard.extractLsb' 0 6).toNat
  if n = 63 then [] else [.p n]

/-- Whether the word reads a register with an uncorrectable error (R394). The flags that a word raises are no read of fl (log entry 117,
DEDUCED). -/
def readsBad (u : Use) (x : Issue) : Bool :=
  (x.entry.guardReads ++ u.reads ++ u.readsIn x ++ u.commandReads x ++ u.readsState).any (fun r => x.e.g.bad.contains r)

/-- What follows a body (R43, R218, R391): x is the issue that s made. -/
def afterBody (u : Use) (x : Issue) (s : State) : Res → State
  | .stall => stallState s
  | .fault f => raise x s s f
  | .done d => finish u x s d
  | .mismatch n => replayFault s x.core x.slot n x.entry.pc s.fetched
  | .moved s' => s'

/-- One word of the issuing group (R38, R40, R19, R216, R394), from the checks to what follows the body. -/
def issueStep (u : Use) (x : Issue) (body : Issue → State → Res) (s : State) : State :=
  match decodeFault u x with
  | some c => raise x s s { cls := c }
  | none =>
    if (u.tokens x).any (fun t => t.result.isNone) || fenceStall u x then stallState s
    else if readsBad u x then raise x s s { cls := 17, code := 2 }
    else afterBody u x s (body x s)

/-- The rounding mode of a target (R81). -/
def roundMode (r : Run) (amr : Word) : BitVec 3 := r.rnd.getD (amr.extractLsb' 0 3)

/-- The issue that a group's next word makes, when its frontier has an entry to make it. -/
def issueOf (s : State) (core slot : Nat) : Option Issue :=
  (s.env? core slot).bind fun e =>
    e.g.arch.issuing.map fun n =>
      let amr := s.amr e.l.ctx
      { core := core, slot := slot, e := e, entry := n, active := e.g.arch.active n, amr := amr, mode := roundMode e.g.arch.run amr }

/-- Executes a word for the issuing group. -/
def issue (u : Use) (body : Issue → State → Res) (s : State) : Host.Outcome State Fault Refusal :=
  match s.issuer with
  | none => .fault .noIssuingGroup
  | some (core, slot) =>
    match issueOf s core slot with
    | none => .fault .noIssuingGroup
    | some x => .next (issueStep u x body s)

/-- A body that changes only registers, fl and predicates of its group. -/
def archBody (f : Issue → Arch → Arch × List (Nat × BitVec 9)) (x : Issue) (s : State) : Res :=
  let r := f x x.arch
  .done { s := s.setGroup { x.e.g with arch := r.1 }, flags := r.2 }

/-- Executes a word that changes only registers, fl and predicates of its group. -/
def issueArch (u : Use) (f : Issue → Arch → Arch × List (Nat × BitVec 9)) (s : State) : Host.Outcome State Fault Refusal :=
  issue u (archBody f) s

/-! ### Hints (R43 to R45) -/

/-- A hint word: it counts in its run, changes the run or the guard, and its marker takes effect (R42, R43). -/
def issueHint (cls : Nat) (f : Issue → Arch → Arch) (s : State) : Host.Outcome State Fault Refusal :=
  match s.issuer with
  | none => .fault .noIssuingGroup
  | some (core, slot) =>
    match issueOf s core slot with
    | none => .fault .noIssuingGroup
    | some x =>
      if fenceStall {} x then .next (stallState s)
      else if cls ≠ 0 then .next (raiseHint x s cls)
      else
        let a := f x x.arch
        let g := { x.e.g with arch := { a with run := { a.run with count := a.run.count + 1 } } }
        .next (s.setGroup (g.countWord.marker x.amr x.entry.pc s.fetched x.entry.mask))

/-! ### The fetch -/

/-- What a fetch gives: a word, or the class and code of a fault (R29, R323, R358, R394; log entry 17, DEDUCED). -/
inductive Fetched where
  | word (w : Word)
  | fault (cls code : Nat)

/-- Fetches the word at a code offset. -/
def fetchAt (s : State) (l : Launch) (off : Nat) : Fetched :=
  if l.kh.codeSize ≤ off then .fault 1 0
  else match translate s l.ctx (l.codeBase + off) with
    | none => .fault 4 0
    | some f =>
      if !f.ex then .fault 4 0
      else if s.memory.poisoned f.tier f.phys 4 then .fault 17 1
      else .word (BitVec.ofNat 32 (leNat (s.memory.read f.tier f.phys 4)))

/-! ### Operand forms of the M and A formats (R34, R35, R228, R229) -/

/-- A lane's address: virtual, or a handle with a byte offset. -/
inductive LaneAddr where
  | va (a : BitVec 64)
  | handle (h : Nat) (off : Int)
deriving DecidableEq, Repr

/-- n bytes further on; virtual addresses wrap (R34). -/
def LaneAddr.plus (a : LaneAddr) (n : Int) : LaneAddr :=
  match a with
  | .va x => .va (x + BitVec.ofInt 64 n)
  | .handle h o => .handle h (o + n)

/-- The address as records hold it (R372). -/
def LaneAddr.coded : LaneAddr → BitVec 64
  | .va a => a
  | .handle h o => BitVec.ofNat 64 h ||| (BitVec.ofInt 64 o <<< 16)

/-- {s(b+1), s(b)} + sext(v(a)[i], 32) + off (R34). -/
def addrUniformVector (x : Issue) (a b i : Nat) : LaneAddr :=
  .va (x.arch.getS64 b + (x.arch.getV a i).signExtend 64 + BitVec.ofInt 64 x.offset)

/-- {s(b+1), s(b)} + off (R34). -/
def addrUniform (x : Issue) (b : Nat) : LaneAddr := .va (x.arch.getS64 b + BitVec.ofInt 64 x.offset)

/-- {v(a+1)[i], v(a)[i]} + off (R34, R35). -/
def addrVector (x : Issue) (a i : Nat) : LaneAddr := .va (x.arch.getV64 a i + BitVec.ofInt 64 x.offset)

/-- Handle s(b)[15:0], byte offset zext(v(a)[i], 32) + off (R34). -/
def addrHandleVector (x : Issue) (a b i : Nat) : LaneAddr :=
  .handle ((x.arch.getS b).toNat % 65536) ((x.arch.getV a i).toNat + x.offset)

/-- Handle s(b)[15:0], byte offset off (R34). -/
def addrHandle (x : Issue) (b : Nat) : LaneAddr := .handle ((x.arch.getS b).toNat % 65536) x.offset

/-- Handle v(a+1)[i][15:0], byte offset zext(v(a)[i], 32) + off (R35). -/
def addrHandlePair (x : Issue) (a i : Nat) : LaneAddr :=
  .handle ((x.arch.getV (a + 1) i).toNat % 65536) ((x.arch.getV a i).toNat + x.offset)

/-- The checks of R227 on a lane's address. -/
def checkLane (s : State) (x : Issue) (k : AccessKind) (op : Nat) (waits : Bool) (n : Nat) : LaneAddr → Except Nat Place
  | .va a => checkVirtual s x.e.accessor k op waits n a.toNat n
  | .handle h o => checkHandle s x.e.accessor k n h o n

/-- Checks 1 to 4 of R227 on n bytes, for an engine, whose reads of poison do not stop it (R260). -/
def locate (s : State) (u : Accessor) (k : AccessKind) (op align n : Nat) : LaneAddr → Except Nat Place
  | .va a => locateVirtual s u k op false align a.toNat
  | .handle h o => locateHandle s u align h o n

/-- The fault of the lanes that failed (R227): machine check before lease violation before generator store before
alignment. -/
def lanesFault (fails : List (Nat × Nat × BitVec 64)) (took : Bool) : Option LaneFault :=
  match [17, 4, 6, 5].find? (fun c => fails.any (fun f => f.2.1 == c)) with
  | none => none
  | some c =>
    let own := fails.filter (fun f => f.2.1 == c)
    some { cls := c, code := if c = 17 then 1 else 0, mask := maskOf (own.map (·.1)),
           addr := (own.head?.map (·.2.2)).getD 0, addrs := fails, took := took }

/-! ### Field helpers -/

def vN (n : BitVec 8) : RegRef := .v n.toNat
def sN (n : BitVec 6) : RegRef := .s n.toNat
def pN (n : BitVec 6) : RegRef := .p n.toNat
/-- A 64-bit vector operand (R6, R13). -/
def vPair (n : BitVec 8) : List RegRef := [.v n.toNat, .v (n.toNat + 1)]
def sPair (n : BitVec 6) : List RegRef := [.s n.toNat, .s (n.toNat + 1)]
def oddV (n : BitVec 8) : Bool := n.getLsbD 0
def oddS (n : BitVec 6) : Bool := n.getLsbD 0

/-- Writes f i to v(d)[i] of every active lane, ascending (R7, R109). -/
def setActive (x : Issue) (d : Nat) (f : Nat → Word) (a : Arch) : Arch :=
  (laneList x.active).foldl (fun a i => a.setV d i (f i)) a

/-- Writes f i to the pair v(d), v(d+1) of every active lane. -/
def setActive64 (x : Issue) (d : Nat) (f : Nat → BitVec 64) (a : Arch) : Arch :=
  (laneList x.active).foldl (fun a i => a.setV64 d i (f i)) a

/-- The mask of the active lanes for which f holds. -/
def activeWhere (x : Issue) (f : Nat → Bool) : LaneMask := maskOf ((laneList x.active).filter f)

/-- Writes a predicate in the active lanes only (R110). -/
def setActiveP (x : Issue) (p : Nat) (f : Nat → Bool) (a : Arch) : Arch :=
  a.setP p ((a.getP p &&& ~~~x.active) ||| activeWhere x f)

end Sys2Proof.Machine
end

