-- ==== Sys2Proof/Machine/Flags.lean ====
section
/-! DEFINITION. The bits of the flag word fl (R83) and the lists of flags that per-lane operations raise (R84). -/

namespace Sys2Proof.Machine

def flIV : BitVec 9 := 0x001
def flDZ : BitVec 9 := 0x002
def flOV : BitVec 9 := 0x004
def flUN : BitVec 9 := 0x008
def flIX : BitVec 9 := 0x010
def flNC : BitVec 9 := 0x020
def flSA : BitVec 9 := 0x040
def flAO : BitVec 9 := 0x080
def flCV : BitVec 9 := 0x100

/-- A flag raised when a condition holds. -/
def flagIf (c : Bool) (f : BitVec 9) : BitVec 9 := if c then f else 0

/-- Writes a value with flags in every active lane: f gives lane i's value and flags (R84, R109). -/
def setActiveFlags (x : Issue) (d : Nat) (f : Nat → Word × BitVec 9) (a : Arch) : Arch × List (Nat × BitVec 9) :=
  let rs := (laneList x.active).map (fun i => (i, f i))
  (rs.foldl (fun a r => a.setV d r.1 r.2.1) a, rs.filterMap (fun r => if r.2.2 = 0 then none else some (r.1, r.2.2)))

/-- Writes a 64-bit value with flags in every active lane. -/
def setActiveFlags64 (x : Issue) (d : Nat) (f : Nat → BitVec 64 × BitVec 9) (a : Arch) : Arch × List (Nat × BitVec 9) :=
  let rs := (laneList x.active).map (fun i => (i, f i))
  (rs.foldl (fun a r => a.setV64 d r.1 r.2.1) a, rs.filterMap (fun r => if r.2.2 = 0 then none else some (r.1, r.2.2)))

end Sys2Proof.Machine
end

