-- ==== Sys2Proof/Machine/Hash.lean ====
section
/-! DEFINITION. The counter hash (R196) and SHAKE256 (R57, R76, R88, R104, R367, R368, R396; log entry 19, PRESUMED). -/

namespace Sys2Proof.Machine

/-! ### The counter hash (R196) -/

/-- One round with the key at its start. -/
def hashRound (c : Word × Word × Word × Word) (k0 k1 : Word) : Word × Word × Word × Word :=
  let p0 : BitVec 64 := c.1.setWidth 64 * 0xE817FB2D
  let p1 : BitVec 64 := c.2.2.1.setWidth 64 * 0xB5A36C47
  (p1.extractLsb' 32 32 ^^^ c.2.1 ^^^ k0, p1.extractLsb' 0 32, p0.extractLsb' 32 32 ^^^ c.2.2.2 ^^^ k1, p0.extractLsb' 0 32)

/-- n rounds; the key moves on after each. -/
def hashRounds : Nat → Word × Word × Word × Word → Word → Word → Word × Word × Word × Word
  | 0, c, _, _ => c
  | n + 1, c, k0, k1 => hashRounds n (hashRound c k0 k1) (k0 + 0x7F4A7C15) (k1 + 0x58C69B2B)

/-- The four output words of the counter hash. -/
def counterHash (c0 c1 c2 c3 k0 k1 : Word) : List Word :=
  let r := hashRounds 10 (c0, c1, c2, c3) k0 k1
  [r.1, r.2.1, r.2.2.1, r.2.2.2]

/-! ### SHAKE256 (FIPS 202, as R57 and R88 name it)

The permutation's tables are computed, not listed: the rotations from the walk that steps rho and pi share, the
constants of step iota from the shift register that generates their bits. -/

/-- The 25 lanes of the permutation's state, lane (x, y) at x + 5 y. -/
abbrev Sponge := List DWord

def Sponge.lane (a : Sponge) (x y : Nat) : DWord := a.getD (x % 5 + 5 * (y % 5)) 0

def Sponge.ofLanes (f : Nat → Nat → DWord) : Sponge := (List.range 25).map (fun k => f (k % 5) (k / 5))

/-- The parity of column x. -/
def Sponge.parity (a : Sponge) (x : Nat) : DWord :=
  a.lane x 0 ^^^ a.lane x 1 ^^^ a.lane x 2 ^^^ a.lane x 3 ^^^ a.lane x 4

def Sponge.theta (a : Sponge) : Sponge :=
  let ps := (List.range 5).map a.parity
  .ofLanes (fun x y => a.lane x y ^^^ ps.getD ((x + 4) % 5) 0 ^^^ (ps.getD ((x + 1) % 5) 0).rotateLeft 1)

/-- The walk of rho and pi from lane (x, y): visit t turns its lane left by (t + 1)(t + 2) / 2 and leaves it at
(y, 2 x + 3 y), the lane visited next. -/
def Sponge.walk (a : Sponge) : Nat → Nat → Nat → Nat → SMap DWord
  | 0, _, _, _ => []
  | n + 1, t, x, y =>
    let y' := (2 * x + 3 * y) % 5
    (y + 5 * y', (a.lane x y).rotateLeft ((t + 1) * (t + 2) / 2)) :: Sponge.walk a n (t + 1) y y'

def Sponge.rhoPi (a : Sponge) : Sponge :=
  let moved := a.walk 24 0 1 0
  .ofLanes (fun x y => (moved.lookup (x + 5 * y)).getD (a.lane x y))

def Sponge.chi (a : Sponge) : Sponge :=
  .ofLanes (fun x y => a.lane x y ^^^ (~~~ a.lane (x + 1) y &&& a.lane (x + 2) y))

/-- One shift of the register that generates the bits of step iota. -/
def lfsrStep (r : Byte) : Byte := if r.msb then r <<< 1 ^^^ 0x71 else r <<< 1

/-- The constant of one round from its register: the bit after j shifts at bit 2^j - 1, j = 0 to 6. -/
def iotaConstant (r : Byte) : DWord :=
  (List.range 7).foldl (fun c j => if (Nat.repeat lfsrStep j r).getLsbD 0 then c ||| 1 <<< (2 ^ j - 1) else c) 0

/-- n rounds from the register r. -/
def Sponge.permute : Nat → Byte → Sponge → Sponge
  | 0, _, a => a
  | n + 1, r, a =>
    let b := a.theta.rhoPi.chi
    Sponge.permute n (Nat.repeat lfsrStep 7 r) (b.set 0 (b.lane 0 0 ^^^ iotaConstant r))

/-- XORs a block of 136 bytes into the first 17 lanes and permutes. -/
def Sponge.absorbBlock (a : Sponge) (block : List Byte) : Sponge :=
  Sponge.permute 24 1 (Sponge.ofLanes (fun x y =>
    let k := x + 5 * y
    a.lane x y ^^^ (if k < 17 then BitVec.ofNat 64 (byteField block (8 * k) 8) else 0)))

/-- Absorbs whole blocks, then the padded rest. -/
def Sponge.absorb : Nat → Sponge → List Byte → Sponge
  | 0, a, _ => a
  | n + 1, a, bs =>
    if 136 ≤ bs.length then (a.absorbBlock (bs.take 136)).absorb n (bs.drop 136)
    else
      let rest := sliceBytes (bs ++ [0x1F]) 0 136
      a.absorbBlock (rest.set 135 (rest.getD 135 0 ||| 0x80))

/-- The first n bytes of SHAKE256, n at most 136. -/
def shake256 (n : Nat) (bs : List Byte) : List Byte :=
  ((Sponge.absorb (bs.length / 136 + 1) (List.replicate 25 0) bs).flatMap (fun w => leBytes 8 w.toNat)).take n

end Sys2Proof.Machine
end

