-- ==== Sys2Proof/Machine/LnTables.lean ====
section
/-! DEFINITION. The tables of the Gaussian-logarithm unit, each entry computed from the rule that defines it (spec/04_gaussian.md
R102, R103): the exact real value times 2 to the F, rounded to nearest. Logarithms are taken to 64 fraction bits from values of
200 fraction bits, sines to 120; the digests of R105 are a check that R102 itself overrules. -/

namespace Sys2Proof.Machine

/-- 2 to the 2 to the -(k+1), for k = 0 to 8, in units of 2 to the -200. -/
def rootsOfTwo : List Nat := [
  2272553576084360916141657902949647315979581976043234410928602,
  1910982155601348724019629434353839705020884751581668224201135,
  1752378363178414947805747710868629616330643547297213512761124,
  1678083269604846723197632025725082497354113021741377104552635,
  1642125405492084911575367956365619240312278986463611899803722,
  1624436452290286514836044747876081870492630402250827221212065,
  1615663558933717356227406872474883034904279726685432861426696,
  1611294895285610853156304894513728794019464642872553079171900,
  1609114995192933386214674431385439028702615942968129976802426]

/-- The natural logarithm of 2 in units of 2 to the -200. -/
def lnTwo : Nat := 1113844574712631719546256151097547306333272293549090750737802

/-- Sine and cosine of π 2 to the b / 1024, for b = 0 to 8, in units of 2 to the -120. -/
def sineSteps : List (Nat × Nat) := [
  (4078014019192042851417480083453511, 1329221740184851025198356259170864314),
  (8155989654563034982999647902476720, 1329202973443536572322978140960776172),
  (16311672240725359659488398689095291, 1329127907361475680826626763934244751),
  (32620888003610311989478491112336646, 1328827657164103520532853731409434135),
  (65222126404060817041060257472886725, 1327626882450682015557247551709075781),
  (130287126992830687481049581775058926, 1322827399670243577784911761655670506),
  (259319517730532025535172787767079734, 1303687252565732735913851516381637234),
  (508673531822740685630297997568868078, 1228046539346682719437376742195207522),
  (939906129562517623222788173740722879, 939906129562517623222788173740722879)]

/-- The product of the roots of two that the low bits of j select, highest first: 2 to the j/512 for j below 512. -/
def powerOfRoots : List Nat → Nat → Nat → Nat
  | [], _, acc => acc
  | c :: cs, j, acc => powerOfRoots cs (2 * j) (if 512 ≤ 2 * j % 1024 then acc * c / 2 ^ 200 else acc)

/-- 2 to the j/512, 0 ≤ j < 512, in units of 2 to the -200. -/
def exp2Fix (j : Nat) : Nat := powerOfRoots rootsOfTwo j (2 ^ 200)

/-- 2 to the -t/512 in units of 2 to the -200. -/
def exp2Neg (t : Nat) : Nat :=
  if t % 512 = 0 then 2 ^ 200 / 2 ^ (t / 512) else exp2Fix (512 - t % 512) / 2 ^ (t / 512 + 1)

/-- n fraction bits of log2 of x, 1 ≤ x < 2 in units of 2 to the -200, after the bits already found. -/
def log2Bits : Nat → Nat → Nat → Nat
  | 0, _, acc => acc
  | n + 1, x, acc =>
    let y := x * x / 2 ^ 200
    if 2 ^ 201 ≤ y then log2Bits n (y / 2) (2 * acc + 1) else log2Bits n y (2 * acc)

/-- log2 of y in units of 2 to the -64, for a positive y in units of 2 to the -200. -/
def log2Fix (y : Nat) : Int :=
  let b := bitLength 260 y
  let x := if b ≤ 201 then y * 2 ^ (201 - b) else y / 2 ^ (b - 201)
  ((b : Int) - 201) * 2 ^ 64 + (log2Bits 64 x 0 : Nat)

/-- Rounds a value of 64 fraction bits to F (R102). -/
def roundTo (f : Nat) (v : Int) : Int := (v + (2 ^ (63 - f) : Nat)) / (2 ^ (64 - f) : Nat)

/-- sb at d = t/512 with F fraction bits (R93, R102). -/
def sbEntry (f t : Nat) : Int := roundTo f (log2Fix (2 ^ 200 + exp2Neg t))

/-- db at d = t/512, t > 0, with F fraction bits. -/
def dbEntry (f t : Nat) : Int := roundTo f (log2Fix (2 ^ 200 - exp2Neg t))

/-- The correction c at d = t/512 with F fraction bits; c(0) is log2 of ln 2 (R101). -/
def crEntry (f t : Nat) : Int :=
  roundTo f (log2Fix (if t = 0 then lnTwo else (2 ^ 200 - exp2Neg t) * 512 / t))

/-- LOGTAB entry j: log2(1 + j/512) with 30 fraction bits. -/
def logEntry (j : Nat) : Int := roundTo 30 (log2Fix ((512 + j) * 2 ^ 200 / 512))

/-- ALOGTAB entry j: 2 to the j/512 with 30 fraction bits. -/
def alogEntry (j : Nat) : Int :=
  if j = 512 then 2 ^ 31 else ((exp2Fix j + 2 ^ 169) / 2 ^ 170 : Nat)

/-- Rotates a point by the steps that the bits of j select, lowest first. -/
def rotate : List (Nat × Nat) → Nat → Int × Int → Int × Int
  | [], _, p => p
  | (a, b) :: rs, j, (y, x) =>
    rotate rs (j / 2) (if j % 2 = 1 then ((y * b + x * a) / 2 ^ 120, (x * b - y * a) / 2 ^ 120) else (y, x))

/-- SINTAB entry j: sin(2π j/2048) with 30 fraction bits. -/
def sinEntry (j : Nat) : Int :=
  if j = 512 then 2 ^ 30 else ((rotate sineSteps j (0, 2 ^ 120)).1 + 2 ^ 89) / 2 ^ 90

end Sys2Proof.Machine
end

