-- ==== Sys2Proof/Machine/LnArith.lean ====
section
/-! DEFINITION. LN values and their arithmetic: codes, range check, rounding, the addition function and the multiply class
(R66 to R76, R93 to R101, R137, R138). -/

namespace Sys2Proof

/-! ### Formats and values (R66 to R68) -/

/-- Fraction bits f of the log. -/
def LnFmt.frac : LnFmt → Nat
  | .ln8 => 3
  | .ln16 => 9
  | .ln32 => 22

/-- Width n of the log. -/
def LnFmt.log : LnFmt → Nat
  | .ln8 => 6
  | .ln16 => 14
  | .ln32 => 30

/-- Bits of the format. -/
def LnFmt.bits (m : LnFmt) : Nat := m.log + 2

/-- D_max times 2 to the f (R93). -/
def LnFmt.cutoff : LnFmt → Nat
  | .ln8 => 5 * 2 ^ 3
  | .ln16 => 11 * 2 ^ 9
  | .ln32 => 24 * 2 ^ 22

/-- Guard bits w (R93). -/
def LnFmt.guardBits : LnFmt → Nat
  | .ln8 => 3
  | .ln16 => 12
  | .ln32 => 18

end Sys2Proof

namespace Sys2Proof.Machine

/-- The format a 2-bit field names (R140, R150, R153). -/
def lnFmtOf : Nat → Option LnFmt
  | 0 => some .ln8
  | 1 => some .ln16
  | 2 => some .ln32
  | _ => none

/-- The value of a code: the sign, and for a finite one the log in units of 2 to the -f. -/
inductive LnVal where
  | nan
  | inf (neg : Bool)
  | zero (neg : Bool)
  | fin (neg : Bool) (log : Int)
deriving DecidableEq, Repr

/-- The value of a code (R67); bits above the format are ignored (R133). -/
def lnVal (m : LnFmt) (code : Nat) : LnVal :=
  let s := field code (m.log + 1) 1 = 1
  let l := field code 0 m.log
  if field code m.log 1 = 0 then .fin s (signed m.log l)
  else if l = 0 then .zero s
  else if l = 2 ^ (m.log - 1) - 1 then .inf s
  else .nan

/-- The code of a value; a NaN is the canonical one (R68, R69). -/
def lnCode (m : LnFmt) : LnVal → Nat
  | .nan => 2 ^ m.log + 2 ^ (m.log - 1)
  | .inf s => s.toNat * 2 ^ (m.log + 1) + 2 ^ m.log + (2 ^ (m.log - 1) - 1)
  | .zero s => s.toNat * 2 ^ (m.log + 1) + 2 ^ m.log
  | .fin s l => s.toNat * 2 ^ (m.log + 1) + wrapInt m.log l

def LnVal.negate : LnVal → LnVal
  | .nan => .nan
  | .inf s => .inf !s
  | .zero s => .zero !s
  | .fin s l => .fin (!s) l

def LnVal.isNeg : LnVal → Bool
  | .nan => false
  | .inf s => s
  | .zero s => s
  | .fin s _ => s

/-! ### Rounding (R72, R75, R76, R96) -/

/-- What decides a rounding: the mode, AMR [3] and [4], and the random word that mode 4 draws (R76). -/
structure Rounding where
  mode : Nat
  inf : Bool
  flush : Bool
  r : Nat

/-- Mode 0 with overflow to infinity and underflow to zero (R192). -/
def roundNearest : Rounding := { mode := 0, inf := true, flush := true, r := 0 }

/-- Mode 0 with the AMR's fields [3] and [4] (R129, R236). -/
def roundAmr (amr : Word) : Rounding := { mode := 0, inf := !amr.getLsbD 3, flush := !amr.getLsbD 4, r := 0 }

/-- Whether a remainder rem of w bits above the integer lo rounds up (R75, R76). -/
def roundsUp (k : Rounding) (neg : Bool) (lo : Int) (rem w : Nat) : Bool :=
  if rem = 0 then false
  else match k.mode with
    | 0 => decide (2 ^ w < 2 * rem) || (decide (2 * rem = 2 ^ w) && lo % 2 == 1)
    | 1 => false
    | 2 => !neg
    | 3 => neg
    | _ => decide (k.r < rem * 2 ^ 32 / 2 ^ w)

/-- The range check of a finite result log (R72). -/
def rangeCheck (m : LnFmt) (k : Rounding) (neg : Bool) (l : Int) : LnVal × BitVec 9 :=
  let top : Int := (2 ^ (m.log - 1) - 1 : Nat)
  let bottom : Int := -(2 ^ (m.log - 1) : Nat)
  if top < l then (if k.inf then .inf neg else .fin neg top, flOV)
  else if l < bottom then (if k.flush then .zero neg else .fin neg bottom, flUN)
  else (.fin neg l, 0)

/-- round_pack (R96): a log with w guard bits becomes a value. -/
def roundPack (m : LnFmt) (k : Rounding) (neg : Bool) (t : Int) (w : Nat) : LnVal × BitVec 9 :=
  let lo := t / (2 ^ w : Nat)
  let phi := (t % (2 ^ w : Nat)).toNat
  rangeCheck m k neg (lo + (if roundsUp k neg lo phi w then 1 else 0))

/-! ### Interpolation (R98 to R101, R106) -/

/-- The quadratic interpolation of R99 over a table given by its entries. -/
def quad (y : Nat → Int) (j r rr : Nat) : Int :=
  let y0 := y (2 * j)
  let y1 := y (2 * j + 1)
  let y2 := y (2 * j + 2)
  let a1 := 4 * y1 - 3 * y0 - y2
  let a2 := 2 * y0 - 4 * y1 + 2 * y2
  (y0 * (2 ^ (2 * rr) : Nat) + a1 * (r * 2 ^ rr : Nat) + a2 * (r * r : Nat)) / (2 ^ (2 * rr - 10) : Nat)

/-- Access to LOGTAB with 30 fraction bits, 40 out (R106). -/
def log40 (m30 : Nat) : Int := quad logEntry (m30 / 2 ^ 22) (m30 % 2 ^ 22) 22

/-- Access to ALOGTAB (R106). -/
def alog40 (m30 : Nat) : Int := quad alogEntry (m30 / 2 ^ 22) (m30 % 2 ^ 22) 22

/-- Access to SINTAB (R106). -/
def sin30 (x30 : Nat) : Int := if x30 = 2 ^ 28 then 2 ^ 40 else quad sinEntry (x30 / 2 ^ 20) (x30 % 2 ^ 20) 20

/-- Linear interpolation between entries 32 codes apart (R98). -/
def linear16 (y : Nat → Int) (j r : Nat) : Int := y j * 32 + (y (j + 1) - y j) * r

/-- sb of a difference of logs, with the format's guard bits (R97, R98, R100). -/
def gaussSb (m : LnFmt) (dd : Nat) : Int :=
  match m with
  | .ln8 => sbEntry 6 (64 * dd)
  | .ln16 => linear16 (fun j => sbEntry 16 (32 * j)) (dd / 32) (dd % 32)
  | .ln32 => quad (fun j => sbEntry 30 (2 * j)) (dd / 2 ^ 15) (dd % 2 ^ 15) 15

/-- The near-cancellation path (R101). -/
def gaussNc (m : LnFmt) (dd : Nat) : Int :=
  let e := bitLength 40 dd - 1
  let lg := log40 ((dd - 2 ^ e) * 2 ^ (30 - e))
  match m with
  | .ln16 => ((e : Int) - 9) * 2 ^ 21 + lg / (2 ^ 19 : Nat) + linear16 (fun j => crEntry 16 (32 * j)) (dd / 32) (dd % 32)
  | _ => ((e : Int) - 22) * 2 ^ 40 + lg + quad (fun j => crEntry 30 (16 * j)) (dd / 2 ^ 18) (dd % 2 ^ 18) 18

/-- db of a difference of logs, with the format's guard bits (R95, R97, R98, R100, R101). -/
def gaussDb (m : LnFmt) (dd : Nat) : Int :=
  match m with
  | .ln8 => dbEntry 6 (64 * dd)
  | .ln16 => if dd < 2 ^ 9 then gaussNc .ln16 dd else linear16 (fun j => dbEntry 16 (512 + 32 * j)) (dd / 32 - 16) (dd % 32)
  | .ln32 => if dd < 2 ^ 22 then gaussNc .ln32 dd
             else quad (fun j => dbEntry 30 (512 + 2 * j)) (dd / 2 ^ 15 - 128) (dd % 2 ^ 15) 15

/-! ### Addition (R94, R95) -/

/-- The sum of two finite values. The logs may lie outside the format (R137); R72 is applied to the result. -/
def addFinite (m : LnFmt) (k : Rounding) (sa : Bool) (la : Int) (sb : Bool) (lb : Int) : LnVal × BitVec 9 :=
  let first := decide (lb ≤ la)
  let sx := if first then sa else sb
  let lx := if first then la else lb
  let dd := (la - lb).natAbs
  if m.cutoff ≤ dd then rangeCheck m k sx lx
  else if sa = sb then roundPack m k sx (lx * (2 ^ m.guardBits : Nat) + gaussSb m dd) m.guardBits
  else if dd = 0 then (.zero (k.mode == 3), 0)
  else
    let r := roundPack m k sx (lx * (2 ^ m.guardBits : Nat) + gaussDb m dd) m.guardBits
    (r.1, r.2 ||| flagIf (dd < 2 ^ (m.frac - 1)) flNC)

/-- ln_add on values (R94, R95). -/
def lnAdd (m : LnFmt) (k : Rounding) : LnVal → LnVal → LnVal × BitVec 9
  | .nan, _ => (.nan, 0)
  | _, .nan => (.nan, 0)
  | .inf a, .inf b => if a = b then (.inf a, 0) else (.nan, flIV)
  | .inf a, _ => (.inf a, 0)
  | _, .inf b => (.inf b, 0)
  | .zero a, .zero b => (.zero (if a = b then a else k.mode == 3), 0)
  | .zero _, .fin s l => rangeCheck m k s l
  | .fin s l, .zero _ => rangeCheck m k s l
  | .fin sa la, .fin sb lb => addFinite m k sa la sb lb

/-- ln_add on codes. -/
def lnAddCode (m : LnFmt) (k : Rounding) (a b : Nat) : Nat × BitVec 9 :=
  let r := lnAdd m k (lnVal m a) (lnVal m b)
  (lnCode m r.1, r.2)

/-! ### The multiply class (R70, R73, R137) -/

/-- The product, not range-checked (R73, R137). -/
def lnProduct : LnVal → LnVal → LnVal × BitVec 9
  | .nan, _ => (.nan, 0)
  | _, .nan => (.nan, 0)
  | .zero _, .inf _ => (.nan, flIV)
  | .inf _, .zero _ => (.nan, flIV)
  | .zero a, b => (.zero (a ^^ b.isNeg), 0)
  | a, .zero b => (.zero (a.isNeg ^^ b), 0)
  | .inf a, b => (.inf (a ^^ b.isNeg), 0)
  | a, .inf b => (.inf (a.isNeg ^^ b), 0)
  | .fin a la, .fin b lb => (.fin (a ^^ b) (la + lb), 0)

/-- Range-checks a finite value (R72). -/
def lnRange (m : LnFmt) (k : Rounding) (v : LnVal × BitVec 9) : LnVal × BitVec 9 :=
  match v.1 with
  | .fin s l => let r := rangeCheck m k s l
                (r.1, v.2 ||| r.2)
  | _ => v

def lnMul (m : LnFmt) (k : Rounding) (a b : LnVal) : LnVal × BitVec 9 := lnRange m k (lnProduct a b)

/-- LMAD (R137). -/
def lnMad (m : LnFmt) (k : Rounding) (a b c : LnVal) : LnVal × BitVec 9 :=
  let p := lnProduct a b
  let r := lnAdd m k p.1 c
  (r.1, p.2 ||| r.2)

/-- LDIV (R73). -/
def lnDiv (m : LnFmt) (k : Rounding) : LnVal → LnVal → LnVal × BitVec 9
  | .nan, _ => (.nan, 0)
  | _, .nan => (.nan, 0)
  | .zero _, .zero _ => (.nan, flIV)
  | .inf _, .inf _ => (.nan, flIV)
  | .inf a, b => (.inf (a ^^ b.isNeg), 0)
  | .fin a _, .zero b => (.inf (a ^^ b), flDZ)
  | .zero a, b => (.zero (a ^^ b.isNeg), 0)
  | a, .inf b => (.zero (a.isNeg ^^ b), 0)
  | .fin a la, .fin b lb => rangeCheck m k (a ^^ b) (la - lb)

/-- LRCP (R73). -/
def lnRcp (m : LnFmt) (k : Rounding) : LnVal → LnVal × BitVec 9
  | .nan => (.nan, 0)
  | .zero s => (.inf s, flDZ)
  | .inf s => (.zero s, 0)
  | .fin s l => rangeCheck m k s (-l)

/-- LSQR (R73). -/
def lnSqr (m : LnFmt) (k : Rounding) : LnVal → LnVal × BitVec 9
  | .nan => (.nan, 0)
  | .zero _ => (.zero false, 0)
  | .inf _ => (.inf false, 0)
  | .fin _ l => rangeCheck m k false (2 * l)

/-- LSQRT (R73, R141); erratum 513 gives +0 for −0 (R366). -/
def lnSqrt (errata513 : Bool) (m : LnFmt) (k : Rounding) : LnVal → LnVal × BitVec 9
  | .nan => (.nan, 0)
  | .zero s => (.zero (s && !errata513), 0)
  | .inf false => (.inf false, 0)
  | .inf true => (.nan, flIV)
  | .fin true _ => (.nan, flIV)
  | .fin false l => roundPack m k false l 1

/-- LRSQRT (R73, R141). -/
def lnRsqrt (m : LnFmt) (k : Rounding) : LnVal → LnVal × BitVec 9
  | .nan => (.nan, 0)
  | .zero s => (.inf s, flDZ)
  | .inf false => (.zero false, 0)
  | .inf true => (.nan, flIV)
  | .fin true _ => (.nan, flIV)
  | .fin false l => roundPack m k false (-l) 1

/-- LSCALE (R73, R136). -/
def lnScale (m : LnFmt) (k : Rounding) (n : Int) : LnVal → LnVal × BitVec 9
  | .fin s l => rangeCheck m k s (l + n * (2 ^ m.frac : Nat))
  | v => (v, 0)

/-- The order of R138 as an integer: −∞, negative finite values by falling log, −0, +0, positive finite values, +∞. -/
def lnRank (m : LnFmt) : LnVal → Int
  | .nan => 0
  | .inf true => -(2 ^ m.log + 2 : Nat)
  | .inf false => (2 ^ m.log + 2 : Nat)
  | .zero true => -1
  | .zero false => 1
  | .fin true l => -(l + (2 ^ (m.log - 1) + 2 : Nat))
  | .fin false l => l + (2 ^ (m.log - 1) + 2 : Nat)

/-- LMIN (R138). -/
def lnMin (m : LnFmt) (a b : LnVal) : LnVal :=
  if a = .nan ∨ b = .nan then .nan else if lnRank m a ≤ lnRank m b then a else b

/-- LMAX (R138). -/
def lnMax (m : LnFmt) (a b : LnVal) : LnVal :=
  if a = .nan ∨ b = .nan then .nan else if lnRank m a ≤ lnRank m b then b else a

/-- LCMP (R139): zeros are equal. -/
def lnHolds (m : LnFmt) (c : BitVec 2) (a b : LnVal) : Bool :=
  if a = .nan ∨ b = .nan then c == 1
  else
    let rank (v : LnVal) : Int := match v with
      | .zero _ => 0
      | v => lnRank m v
    match c.toNat with
    | 0 => rank a == rank b
    | 1 => rank a != rank b
    | 2 => decide (rank a < rank b)
    | _ => decide (rank a ≤ rank b)

/-! ### The random word of an instruction (R76) -/

/-- Output word 0 of the counter hash for a lane and an element, at a word index and SSEQ. -/
def randWord (id : BitVec 64) (wordIx lane elem : Nat) (sseq k0 k1 : Word) : Word :=
  (counterHash (id.setWidth 32) (id.extractLsb' 32 32) (BitVec.ofNat 32 (wordIx % 2 ^ 24 + lane * 2 ^ 24))
    (BitVec.ofNat 32 elem ||| (sseq <<< 3)) k0 k1).headD 0

/-- The rounding of lane i's result element (R76, R81). -/
def Issue.rounding (x : Issue) (i elem : Nat) : Rounding :=
  { mode := x.mode.toNat, inf := !x.amr.getLsbD 3, flush := !x.amr.getLsbD 4,
    r := if x.mode = 4 then (randWord (x.e.workId i) x.wordIx i elem x.arch.sseq x.e.l.k0 x.e.l.k1).toNat else 0 }

/-- Rounding without a mode: AMR [3] and [4] alone (R73). -/
def Issue.plain (x : Issue) : Rounding := roundAmr x.amr

end Sys2Proof.Machine
end

