-- ==== Sys2Proof/Machine/LnConvert.lean ====
section
/-! DEFINITION. Transcendentals and conversions of LN values, each a function of the operand, the rounding and the AMR
(spec/06_ln_instr.md R141 to R156, and the IEEE formats that R267 shares). -/

namespace Sys2Proof.Machine

/-! ### The helpers of R146 -/

/-- floor(y times 2 to the e). -/
def shiftInt (y : Nat) (e : Int) : Nat := if 0 ≤ e then y * 2 ^ e.toNat else y / 2 ^ (-e).toNat

/-- lnval (R146): y40, e and u of a log in units of 2 to the -f. -/
def lnParts (f : Nat) (lam : Int) : Nat × Int × Nat :=
  let e := lam / (2 ^ f : Nat)
  let u := (lam % (2 ^ f : Nat)).toNat
  ((alog40 (u * 2 ^ (30 - f))).toNat, e, u)

/-- fx2ln (R146): log2 of a positive integer times 2 to the -F, with 40 fraction bits. -/
def fx2ln (mag : Nat) (ff : Int) : Int :=
  let e := bitLength 128 mag - 1
  let m30 := (mag - 2 ^ e) * 2 ^ 30 / 2 ^ e
  ((e : Int) - ff) * 2 ^ 40 + log40 m30

/-- finish (R146). -/
def lnFinish (m : LnFmt) (k : Rounding) (neg : Bool) (t40 : Int) : LnVal × BitVec 9 :=
  let w := min (40 - m.frac) 32
  roundPack m k neg (t40 / (2 ^ (40 - m.frac - w) : Nat)) w

/-- A positive power of two (R152, R155). -/
def isPow2 (n : Nat) : Bool := n ≠ 0 && 2 ^ (bitLength 128 n - 1) == n

/-! ### Transcendentals (R147 to R149) -/

def lnOne : LnVal := .fin false 0

/-- log2(e) times 2 to the 32 (R147). -/
def k32 : Nat := 0x171547653

/-- LEXP2 and LEXP (R147): scale turns the magnitude into the exponent of 2. -/
def lnExp (m : LnFmt) (k : Rounding) (scale : Nat → Nat) : LnVal → LnVal × BitVec 9
  | .nan => (.nan, 0)
  | .zero _ => (lnOne, 0)
  | .inf false => (.inf false, 0)
  | .inf true => (.zero false, 0)
  | .fin s l =>
    let (y, e, _) := lnParts m.frac l
    let mag := scale (shiftInt y e)
    lnFinish m k false (if s then -(mag : Int) else mag)

def lnExp2 (m : LnFmt) (k : Rounding) (v : LnVal) : LnVal × BitVec 9 := lnExp m k id v
def lnExpE (m : LnFmt) (k : Rounding) (v : LnVal) : LnVal × BitVec 9 := lnExp m k (fun x => x * k32 / 2 ^ 32) v

/-- LLOG2 (R147). -/
def lnLog2 (m : LnFmt) (k : Rounding) : LnVal → LnVal × BitVec 9
  | .nan => (.nan, 0)
  | .zero _ => (.inf true, flDZ)
  | .inf false => (.inf false, 0)
  | .inf true => (.nan, flIV)
  | .fin true _ => (.nan, flIV)
  | .fin false l => if l = 0 then (.zero false, 0) else lnFinish m k (decide (l < 0)) (fx2ln l.natAbs m.frac)

/-- R149 from its LCOST step: q holds turns mod 1 with 30 fraction bits, s the sign of the operand. -/
def turnsResult (cos s : Bool) (m : LnFmt) (k : Rounding) (q0 : Nat) : LnVal × BitVec 9 :=
  let q := if cos then (q0 + 2 ^ 28) % 2 ^ 30 else q0
  let qd := q / 2 ^ 28
  let r := q % 2 ^ 28
  let v := (sin30 (if qd % 2 = 0 then r else 2 ^ 28 - r)).toNat
  if v = 0 then (.zero false, 0) else lnFinish m k (decide (2 ≤ qd) ^^ (s && !cos)) (fx2ln v 40)

/-- LSINT and LCOST (R149). -/
def lnTurn (cos : Bool) (m : LnFmt) (k : Rounding) : LnVal → LnVal × BitVec 9
  | .nan => (.nan, 0)
  | .inf _ => (.nan, flIV)
  | .zero s => (if cos then lnOne else .zero s, 0)
  | .fin s l =>
    let (y, e, _) := lnParts m.frac l
    turnsResult cos s m k (shiftInt y (e - 10) % 2 ^ 30)

/-- Whether a finite LN32 exponent of log l is odd (R148). -/
def powOdd (l : Int) : Bool := l == 0
/-- Whether it is an integer (R148). -/
def powInteger (l : Int) : Bool := l == 0 || (decide (0 < l) && l % 2 ^ 22 == 0)

/-- The magnitude of a against 1: less, equal, or greater. -/
def lnMagnitude : LnVal → Ordering
  | .zero _ => .lt
  | .inf _ => .gt
  | .nan => .eq
  | .fin _ l => if l < 0 then .lt else if l = 0 then .eq else .gt

/-- LPOW.ln32 (R148): the special cases in their order, then the general path. -/
def lnPow (k : Rounding) (a b : LnVal) : LnVal × BitVec 9 :=
  match b with
  | .zero _ => (lnOne, 0)
  | _ =>
    if a = lnOne then (lnOne, 0)
    else match a, b with
      | .nan, _ => (.nan, 0)
      | _, .nan => (.nan, 0)
      | _, .inf sb =>
        (match lnMagnitude a with
          | .eq => lnOne
          | .lt => if sb then .inf false else .zero false
          | .gt => if sb then .zero false else .inf false, 0)
      | .zero sa, .fin sb lb =>
        if sb then (.inf (sa && powOdd lb), flDZ) else (.zero (sa && powOdd lb), 0)
      | .inf sa, .fin sb lb => (if sb then .zero (sa && powOdd lb) else .inf (sa && powOdd lb), 0)
      | .fin sa la, .fin sb lb =>
        if sa && !powInteger lb then (.nan, flIV)
        else
          let (yb, eb, _) := lnParts 22 lb
          let mag := shiftInt (la.natAbs * yb) (eb - 22)
          lnFinish .ln32 k (sa && powOdd lb) (if (decide (la < 0) ^^ sb) then -(mag : Int) else mag)
      | _, .zero _ => (lnOne, 0)

/-! ### Between LN formats (R142 to R144) -/

/-- LCLASS (R142). -/
def lnClass (m : LnFmt) (code : Nat) : Nat :=
  match lnVal m code with
  | .inf true => 1
  | .fin true _ => 2
  | .zero true => 4
  | .zero false => 8
  | .fin false _ => 16
  | .inf false => 32
  | .nan => if code % 2 ^ m.bits = lnCode m .nan then 192 else 64

/-- LCVT (R143): a widening or same-format conversion is exact; a narrowing one rounds, with IX. -/
def lnConvert (src dst : LnFmt) (k : Rounding) : LnVal → LnVal × BitVec 9
  | .fin s l =>
    if src.frac ≤ dst.frac then (.fin s (l * (2 ^ (dst.frac - src.frac) : Nat)), 0)
    else
      let w := src.frac - dst.frac
      let r := roundPack dst k s l w
      (r.1, r.2 ||| flagIf (l % (2 ^ w : Nat) != 0 || r.2 != 0) flIX)
  | v => (v, 0)

/-- LMKL (R144). -/
def lnMake (m : LnFmt) (k : Rounding) (x : Int) : LnVal × BitVec 9 := rangeCheck m k false x

/-! ### Fixed point (R150 to R152) -/

/-- Rounds y times 2 to the -k to an integer: the integer and the remainder (R151). -/
def roundInt (r : Rounding) (neg : Bool) (y : Nat) (k : Int) : Nat × Nat :=
  if k ≤ 0 then (y * 2 ^ (-k).toNat, 0)
  else
    let n := k.toNat
    let q := y / 2 ^ n
    let rem := y % 2 ^ n
    (q + (if roundsUp r neg q rem n then 1 else 0), rem)

/-- The least and the greatest value of a fixed-point target (R151). -/
def fixLow (sg : Bool) : Int := if sg then -2 ^ 31 else 0
def fixHigh (sg : Bool) : Int := if sg then 2 ^ 31 - 1 else 2 ^ 32 - 1

/-- LFIX (R151). -/
def lnFix (m : LnFmt) (k : Rounding) (sg : Bool) (ff : Nat) : LnVal → Int × BitVec 9
  | .zero _ => (0, 0)
  | .nan => (0, flIV)
  | .inf s => (if s then fixLow sg else fixHigh sg, flIV)
  | .fin s l =>
    let (y, e, u) := lnParts m.frac l
    let (q, rem) := roundInt k s y (40 - e - ff)
    let v : Int := if s then -(q : Int) else q
    if v < fixLow sg then (fixLow sg, flIV)
    else if fixHigh sg < v then (fixHigh sg, flIV)
    else (v, flagIf (u != 0 || rem != 0) flIX)

/-- LFLT (R152): the LN value of v times 2 to the -F. -/
def lnFloat (m : LnFmt) (k : Rounding) (v : Int) (ff : Nat) : LnVal × BitVec 9 :=
  if v = 0 then (.zero false, 0)
  else
    let r := lnFinish m k (decide (v < 0)) (fx2ln v.natAbs ff)
    (r.1, r.2 ||| flagIf (!isPow2 v.natAbs || r.2 != 0) flIX)

/-! ### IEEE formats (R153 to R156) -/

/-- An IEEE format: its bits, its precision with the hidden bit, and emax (R154). -/
structure IeeeFmt where
  bits : Nat
  p : Nat
  emax : Nat

/-- The IEEE format of a code of R153. -/
def ieeeFmt (e : Nat) : IeeeFmt :=
  match e with
  | 0 => ⟨16, 11, 15⟩
  | 1 => ⟨16, 8, 127⟩
  | 2 => ⟨32, 24, 127⟩
  | _ => ⟨64, 53, 1023⟩

/-- emin (R154). -/
def IeeeFmt.emin (t : IeeeFmt) : Int := 1 - (t.emax : Int)

/-- The encoding of infinity (R156). -/
def IeeeFmt.infinity (t : IeeeFmt) : Nat := (2 * t.emax + 1) * 2 ^ (t.p - 1)

/-- The canonical quiet NaN (R154). -/
def IeeeFmt.quiet (t : IeeeFmt) : Nat := t.infinity + 2 ^ (t.p - 2)

/-- FCVT from IEEE to LN (R155). -/
def ieeeToLn (t : IeeeFmt) (m : LnFmt) (k : Rounding) (flushIn : Bool) (code : Nat) : LnVal × BitVec 9 :=
  let s := field code (t.bits - 1) 1 = 1
  let body := field code 0 (t.bits - 1)
  let ex := body / 2 ^ (t.p - 1)
  let fr := body % 2 ^ (t.p - 1)
  if t.infinity < body then (.nan, flCV ||| flagIf (!(fr.testBit (t.p - 2))) flIV)
  else if body = t.infinity then (.inf s, 0)
  else if body = 0 then (.zero s, 0)
  else if ex = 0 && flushIn then (.zero s, 0)
  else
    let mant := if ex = 0 then fr else fr + 2 ^ (t.p - 1)
    let ff : Int := (t.p : Int) - 1 - (if ex = 0 then t.emin else (ex : Int) - t.emax)
    let r := lnFinish m k s (fx2ln mant ff)
    (r.1, r.2 ||| flagIf (!isPow2 mant || r.2 != 0) flIX)

/-- The encoding without its sign of a finite value in a format of precision p and the given bias (R156, R270): the log l has
f fraction bits, off is added to it, limit is the first encoding that overflows, and ovf is what an overflow writes. -/
def floatCode (p : Nat) (bias : Int) (limit ovf : Nat) (k : Rounding) (flushOut neg : Bool) (f : Nat) (l off : Int) :
    Nat × BitVec 9 :=
  let (y0, e1, u) := lnParts f l
  let y := if y0 = 2 ^ 41 then 2 ^ 40 else y0
  let e := (if y0 = 2 ^ 41 then e1 + 1 else e1) + off
  let emin := 1 - bias
  let tiny := decide (e < emin)
  if tiny && flushOut then (0, flUN ||| flIX)
  else
    let (q, rem) := roundInt k neg y (40 - ((p : Int) - 1) + max e emin - e)
    let enc := ((max e emin + bias - 1) * (2 ^ (p - 1) : Nat) + q).toNat
    if limit ≤ enc then (ovf, flOV ||| flIX)
    else
      let inexact := u != 0 || rem != 0
      (enc, flagIf inexact flIX ||| flagIf (tiny && inexact) flUN)

/-- FCVT from LN to IEEE (R156). -/
def lnToIeee (t : IeeeFmt) (m : LnFmt) (k : Rounding) (flushOut : Bool) : LnVal → Nat × BitVec 9
  | .nan => (t.quiet, 0)
  | .inf s => (s.toNat * 2 ^ (t.bits - 1) + t.infinity, 0)
  | .zero s => (s.toNat * 2 ^ (t.bits - 1), 0)
  | .fin s l =>
    let r := floatCode t.p t.emax t.infinity (if k.inf then t.infinity else t.infinity - 1) k flushOut s m.frac l 0
    (s.toNat * 2 ^ (t.bits - 1) + r.1, r.2)

end Sys2Proof.Machine
end

