-- ==== Sys2Proof/Machine/EngineFormats.lean ====
section
/-! DEFINITION. The element formats of the copy-convert engine and their conversions: LN, LB8, IEEE and MX
(spec/11_data_on_move.md R265 to R270). -/

namespace Sys2Proof.Machine

/-! ### Formats (R265, R268) -/

/-- Bits of an element of a format code. -/
def copyBits (c : Nat) : Nat :=
  match c with
  | 2 => 16
  | 3 => 32
  | 5 => 16
  | 6 => 16
  | 7 => 32
  | 8 => 64
  | 11 => 6
  | 12 => 6
  | 13 => 4
  | _ => 8

/-- A block format: LB8 or MX. -/
def isBlock (c : Nat) : Bool := c == 4 || (9 ≤ c && c ≤ 14)

/-- Bytes of a block of 32 elements. -/
def blockBytes (c : Nat) : Nat := 4 * copyBits c

/-- The alignment of an address. -/
def copyAlign (c : Nat) : Nat := if isBlock c then 8 else copyBits c / 8

/-- The LN format of codes 1 to 3, and of the elements of LB8. -/
def copyLn (c : Nat) : LnFmt :=
  match c with
  | 2 => .ln16
  | 3 => .ln32
  | _ => .ln8

/-- The IEEE format of codes 5 to 8 (R154). -/
def copyIeee (c : Nat) : IeeeFmt := ieeeFmt (c - 5)

/-- A small float of a block (R268): precision, bias, emax, the largest finite encoding, and whether it has NaN and ∞ as E5M2. -/
structure MxFmt where
  p : Nat
  bias : Nat
  emax : Nat
  largest : Nat

/-- The format of codes 9 to 13. -/
def mxFmt (c : Nat) : MxFmt :=
  match c with
  | 9 => ⟨4, 7, 8, 0x7E⟩
  | 10 => ⟨3, 15, 15, 0x7B⟩
  | 11 => ⟨3, 3, 4, 0x1F⟩
  | 12 => ⟨4, 1, 2, 0x1F⟩
  | _ => ⟨2, 1, 2, 0x7⟩

/-- emax of a block format (R268, R270). -/
def blockEmax (c : Nat) : Int :=
  match c with
  | 4 => 3
  | 14 => 0
  | _ => (mxFmt c).emax

/-- The pairs of formats of R266. -/
def copyPair (a b : Nat) : Bool :=
  let ln (c : Nat) : Bool := 1 ≤ c && c ≤ 4
  let other (c : Nat) : Bool := 5 ≤ c && c ≤ 14
  (a == 0 && b == 0) || (ln a && ln b) || (ln a && other b) || (other a && ln b)

/-! ### Reading an element -/

/-- The value of a source element: a NaN with the flags of its conversion, an infinity, a zero, a finite LN value with f
fraction bits in its log, or m times 2 to the -ff. -/
inductive Elem where
  | nan (flags : BitVec 9)
  | inf (neg : Bool)
  | zero (neg : Bool)
  | ln (neg : Bool) (log : Int) (f : Nat)
  | num (neg : Bool) (m : Nat) (ff : Int)
deriving DecidableEq, Repr

/-- The value of a float's encoding: sign, exponent field, fraction (R155, R268). -/
def elemFloat (p : Nat) (bias : Int) (flushIn neg : Bool) (body : Nat) : Elem :=
  let ex := body / 2 ^ (p - 1)
  let fr := body % 2 ^ (p - 1)
  if body = 0 ∨ (ex = 0 ∧ flushIn) then .zero neg
  else if ex = 0 then .num neg fr ((p : Int) - 1 - (1 - bias))
  else .num neg (fr + 2 ^ (p - 1)) ((p : Int) - 1 - ((ex : Int) - bias))

/-- Reads an element code of a format (R265 to R269); a NaN of a block raises CV (R269). -/
def readElem (c : Nat) (flushIn : Bool) (code : Nat) : Elem :=
  let neg := field code (copyBits c - 1) 1 = 1
  let body := field code 0 (copyBits c - 1)
  if c ≤ 4 then
    match lnVal (copyLn c) code with
    | .nan => .nan (if c = 4 then flCV else 0)
    | .inf s => .inf s
    | .zero s => .zero s
    | .fin s l => .ln s l (copyLn c).frac
  else if c ≤ 8 then
    let t := copyIeee c
    if t.infinity < body then .nan (flCV ||| flagIf (!(body.testBit (t.p - 2))) flIV)
    else if body = t.infinity then .inf neg
    else elemFloat t.p t.emax flushIn neg body
  else if c = 14 then
    let v := signed 8 code
    if v = 0 then .zero false else .num (decide (v < 0)) v.natAbs 6
  else if c = 9 ∧ body = 0x7F then .nan flCV
  else if c = 10 ∧ 0x7C < body then .nan (flCV ||| flagIf (!(body.testBit 1)) flIV)
  else if c = 10 ∧ body = 0x7C then .inf neg
  else elemFloat (mxFmt c).p (mxFmt c).bias flushIn neg body

/-! ### Writing an element -/

/-- An element of LN (R267, R269, R270): off is added to the log. -/
def elemToLn (m : LnFmt) (k : Rounding) (off : Int) : Elem → Nat × BitVec 9
  | .nan f => (lnCode m .nan, f)
  | .inf s => (lnCode m (.inf s), 0)
  | .zero s => (lnCode m (.zero s), 0)
  | .ln s l f =>
    let r := lnFinish m k s (l * (2 ^ (40 - f) : Nat) + off * 2 ^ 40)
    let dropped := decide (m.frac < f) && l % (2 ^ (f - m.frac) : Nat) != 0
    (lnCode m r.1, r.2 ||| flagIf (dropped || r.2 != 0) flIX)
  | .num s mm ff =>
    let r := lnFinish m k s (fx2ln mm ff + off * 2 ^ 40)
    (lnCode m r.1, r.2 ||| flagIf (!isPow2 mm || r.2 != 0) flIX)

/-- An element of an IEEE format, from an LN or LB8 element (R267, R269). -/
def elemToIeee (t : IeeeFmt) (k : Rounding) (flushOut : Bool) (off : Int) : Elem → Nat × BitVec 9
  | .nan f => (t.quiet, f)
  | .inf s => (s.toNat * 2 ^ (t.bits - 1) + t.infinity, 0)
  | .zero s => (s.toNat * 2 ^ (t.bits - 1), 0)
  | .ln s l f =>
    let r := floatCode t.p t.emax t.infinity (if k.inf then t.infinity else t.infinity - 1) k flushOut s f l off
    (s.toNat * 2 ^ (t.bits - 1) + r.1, r.2)
  | .num s _ _ => (s.toNat * 2 ^ (t.bits - 1), 0)

/-- An element of an MX float (R270). -/
def elemToMx (c : Nat) (k : Rounding) (flushOut : Bool) (off : Int) (e : Elem) : Nat × BitVec 9 :=
  let t := mxFmt c
  let sign (s : Bool) : Nat := s.toNat * 2 ^ (copyBits c - 1)
  let ovf := if c = 10 ∧ k.inf then 0x7C else t.largest
  match e with
  | .inf s => if c = 10 then (sign s + 0x7C, 0) else (sign s + t.largest, flOV ||| flIX)
  | .zero s => (sign s, 0)
  | .ln s l f =>
    let r := floatCode t.p t.bias (t.largest + 1) ovf k flushOut s f l off
    (sign s + r.1, r.2)
  | _ => (0, 0)

/-- An element of MXINT8 (R270). -/
def elemToInt8 (k : Rounding) (off : Int) : Elem → Nat × BitVec 9
  | .inf s => (wrapInt 8 (if s then -127 else 127), flOV ||| flIX)
  | .ln s l f =>
    let (y, e, u) := lnParts f l
    let (q, rem) := roundInt k s y (40 - e - 6 - off)
    let v : Int := if s then -(q : Int) else q
    if v < -127 ∨ 127 < v then (wrapInt 8 (max (-127) (min 127 v)), flOV ||| flIX)
    else (wrapInt 8 v, flagIf (u != 0 || rem != 0) flIX)
  | _ => (0, 0)

/-- An element of a block format at the block's scale (R270); an LB8 element that overflows takes the largest finite code (log
entry 87, DEDUCED). -/
def elemToBlock (c : Nat) (k : Rounding) (flushOut : Bool) (off : Int) (e : Elem) : Nat × BitVec 9 :=
  if c = 4 then elemToLn .ln8 { k with inf := false } off e
  else if c = 14 then elemToInt8 k off e
  else elemToMx c k flushOut off e

/-- An element of a format without blocks. -/
def elemToPlain (c : Nat) (k : Rounding) (flushOut : Bool) (off : Int) (e : Elem) : Nat × BitVec 9 :=
  if c ≤ 3 then elemToLn (copyLn c) k off e else elemToIeee (copyIeee c) k flushOut off e

/-! ### Blocks (R269, R270) -/

/-- Whether an element is a NaN. -/
def Elem.isNan : Elem → Bool
  | .nan _ => true
  | _ => false

/-- floor(log2 of the magnitude) of a finite non-zero element whose log is raised by off. -/
def Elem.exponent (off : Int) : Elem → Option Int
  | .ln _ l f => some (l / (2 ^ f : Nat) + off)
  | .num _ m ff => some ((bitLength 128 m : Int) - 1 - ff + off)
  | _ => none

/-- The scale of a destination block: 0xFF if it holds a NaN (R270). -/
def blockScale (c : Nat) (off : Int) (es : List Elem) : Nat :=
  if es.any Elem.isNan then 0xFF
  else match (es.filterMap (Elem.exponent off)).max? with
    | none => 127
    | some g => (max 0 (min 254 (g - blockEmax c + 127))).toNat

/-- The codes of a destination block at its scale, with the flags raised. -/
def blockCodes (c : Nat) (k : Nat → Rounding) (flushOut : Bool) (off : Int) (es : List Elem) : List Nat × BitVec 9 :=
  let e := blockScale c off es
  if e = 0xFF then (es.map (fun _ => if c = 4 then 0x60 else 0), 0)
  else
    let rs := (es.zip (List.range es.length)).map (fun x => elemToBlock c (k x.2) flushOut (off - ((e : Int) - 127)) x.1)
    (rs.map (·.1), rs.foldl (fun f r => f ||| r.2) 0)

/-- The bytes of a block of element codes (R265). -/
def packBlock (c : Nat) (codes : List Nat) : List Byte :=
  leBytes (blockBytes c) ((codes.zip (List.range codes.length)).foldl (fun n x => n + x.1 * 2 ^ (copyBits c * x.2)) 0)

/-- Element j of a block's bytes. -/
def unpackElem (c : Nat) (bs : List Byte) (j : Nat) : Nat := field (leNat bs) (copyBits c * j) (copyBits c)

/-- A source block's elements with its scale: at scale 0xFF every element is a NaN, and the first raises CV (R269). -/
def readBlock (c : Nat) (flushIn : Bool) (bs : List Byte) (scale : Nat) : List Elem × Int :=
  if scale = 0xFF then ((List.range 32).map (fun j => .nan (if j = 0 then flCV else 0)), 0)
  else ((List.range 32).map (fun j => readElem c flushIn (unpackElem c bs j)), (scale : Int) - 127)

end Sys2Proof.Machine
end

