-- ==== Sys2Proof/Machine/Generator.lean ====
section
/-! DEFINITION. Generator windows: entries and their checks, what a window's bytes are, and GSET and GCFG
(spec/08_generators.md R188 to R203). -/

namespace Sys2Proof.Machine

/-! ### Entries (R189 to R191) -/

/-- Word k of window entry g of a context. -/
def windowWord (s : State) (ctx g k : Nat) : Word := smGet (0 : Word) (8 * g + k) (s.context ctx).windows

/-- The eight words of a window entry. -/
def windowEntry (s : State) (ctx g : Nat) : List Word := (List.range 8).map (windowWord s ctx g)

/-- Word k of an entry as a number. -/
def entryWord (e : List Word) (k : Nat) : Nat := (e.getD k 0).toNat

def entryBase (e : List Word) : Nat := entryWord e 0 + 2 ^ 32 * entryWord e 1
def entryPages (e : List Word) : Nat := entryWord e 2
def entryKind (e : List Word) : Nat := field (entryWord e 3) 0 8
def entryFormat (e : List Word) : Nat := field (entryWord e 3) 8 3
def entryRule (e : List Word) : Nat := field (entryWord e 3) 12 2

/-- The element size of a kind and format, 0 where the format is not listed (R190). -/
def elementSize (kind fmt : Nat) : Nat :=
  match kind, fmt with
  | 1, 0 => 4
  | 1, 1 => 8
  | 1, 2 => 2
  | 1, 3 => 4
  | 2, 0 => 1
  | 2, 1 => 2
  | 2, 2 => 4
  | 3, 1 => 2
  | 3, 2 => 4
  | 4, 0 => 4
  | _, _ => 0

/-- The parameters of R190 are ones the kind allows. -/
def entryParameters (e : List Word) : Bool :=
  let w (k : Nat) : Nat := entryWord e k
  match entryKind e with
  | 1 => w 7 < 32 && (2 ≤ entryFormat e || w 7 == 0)
  | 2 => 1 ≤ w 4 && w 4 ≤ 2 ^ 24 && (match entryRule e with
      | 0 => w 7 == 0
      | 1 => 1 ≤ w 7 && w 7 < 2 ^ 31
      | 2 => true
      | _ => false)
  | 3 => w 5 % 2 == 0 && 2 ≤ w 5 && w 5 ≤ 1024 && w 7 == 0
  | _ => true

/-- The entry keeps R189 and R190. -/
def entryFormed (e : List Word) : Bool :=
  if entryKind e = 0 then e.all (fun w => w == 0)
  else
    entryKind e ≤ 4 && entryBase e % 4096 == 0 && 1 ≤ entryPages e && entryBase e + 4096 * entryPages e ≤ 2 ^ 64
    && field (entryWord e 3) 14 18 == 0 && (entryKind e == 2 || entryRule e == 0)
    && elementSize (entryKind e) (entryFormat e) != 0 && entryParameters e

/-- The byte range meets no other range register than n in use (R191). -/
def rangeFree (s : State) (ctx n base bytes : Nat) : Bool :=
  (List.range 16).all (fun k => k == n || !(rangeKind s ctx k == 1 || rangeKind s ctx k == 2)
    || base + bytes ≤ rangeBase s ctx k || rangeBase s ctx k + rangeBytes s ctx k ≤ base)

/-- Entry g is valid in the context (R191). -/
def entryValid (s : State) (ctx g : Nat) (e : List Word) : Bool :=
  entryFormed e && rangeKind s ctx (15 - g) != 1
  && (entryKind e == 0 || rangeFree s ctx (15 - g) (entryBase e) (4096 * entryPages e))

/-- Installs entry g with its range register; a kind 0 entry frees the register, whose three words are then zero (R188, R200, R350; log
entry 110, DESIGN CHOICE). -/
def installWindow (s : State) (ctx g : Nat) (e : List Word) : State :=
  let c := s.context ctx
  let ws := (e.zip (List.range 8)).foldl (fun m x => smSet (0 : Word) (8 * g + x.2) x.1 m) c.windows
  let s1 := s.setContext ctx { c with windows := ws }
  let n := 15 - g
  if entryKind e = 0 then
    if rangeKind s ctx n = 2 then ((s1.setSys ctx (0x100 + n) 0).setSys ctx (0x110 + n) 0).setSys ctx (0x120 + n) 0 else s1
  else
    ((s1.setSys ctx (0x100 + n) (BitVec.ofNat 64 (entryBase e + 2))).setSys ctx (0x110 + n) (BitVec.ofNat 64 (entryPages e))).setSys
      ctx (0x120 + n) (BitVec.ofNat 64 g)

/-! ### Elements (R192 to R197) -/

/-- x/y to the nearest integer, ties to even (R195). -/
def roundRatio (x : Int) (y : Nat) : Int :=
  let q := x / (y : Int)
  let r := (x % (y : Int)).toNat
  if y < 2 * r ∨ (2 * r = y ∧ q % 2 = 1) then q + 1 else q

/-- A ramp element (R193). -/
def rampElement (e : List Word) (n : Nat) : Nat :=
  let v : Int := (BitVec.ofNat 64 (entryWord e 4 + 2 ^ 32 * entryWord e 5)).toInt + (e.getD 6 0).toInt * n
  let ln (m : LnFmt) : Nat :=
    lnCode m (if v = 0 then .zero false
      else (lnFinish m roundNearest (decide (v < 0)) (fx2ln v.natAbs (entryWord e 7 % 32))).1)
  match entryFormat e with
  | 0 => wrapInt 32 v
  | 1 => wrapInt 64 v
  | 2 => ln .ln16
  | _ => ln .ln32

/-- A mask element (R194). -/
def maskElement (e : List Word) (n : Nat) : Nat :=
  let pitch := entryWord e 4
  let row : Int := (e.getD 5 0).toInt + (n / pitch : Nat)
  let col : Int := (e.getD 6 0).toInt + (n % pitch : Nat)
  let w := entryWord e 7
  let holds : Bool := match entryRule e with
    | 0 => decide (col ≤ row)
    | 1 => decide (row - w < col) && decide (col ≤ row)
    | _ => decide (col ≤ row + (e.getD 7 0).toInt)
  lnCode ((lnFmtOf (entryFormat e)).getD .ln8) (if holds then lnOne else .zero false)

/-- log2(2 pi) in units of 2 to the -22 (R195). -/
def c2pi : Int := 11121181

/-- A rotary element (R195). -/
def rotaryElement (e : List Word) (n : Nat) : Nat :=
  let d := entryWord e 5
  let p := entryWord e 6 + n / d
  let c := n % d
  let lf := roundRatio (-2 * ((c / 2 : Nat) : Int) * (e.getD 4 0).toInt) d
  let (y, ex, _) := lnParts 22 (lf - c2pi)
  let m : LnFmt := if entryFormat e = 1 then .ln16 else .ln32
  lnCode m (turnsResult (c % 2 == 0) false m roundNearest (shiftInt (p * y) (ex - 10) % 2 ^ 30)).1

/-- A counter-hash element (R197). -/
def hashElement (e : List Word) (n : Nat) : Nat :=
  let m := n / 4
  ((counterHash (BitVec.ofNat 32 m) (BitVec.ofNat 32 (m / 2 ^ 32)) (e.getD 6 0) (e.getD 7 0) (e.getD 4 0) (e.getD 5 0)).getD
    (n % 4) 0).toNat

/-- Element n of a window. -/
def windowElement (e : List Word) (n : Nat) : Nat :=
  match entryKind e with
  | 1 => rampElement e n
  | 2 => maskElement e n
  | 3 => rotaryElement e n
  | 4 => hashElement e n
  | _ => 0

/-- n bytes of a window from offset off (R192). -/
def windowBytes (e : List Word) (off n : Nat) : List Byte :=
  let z := max 1 (elementSize (entryKind e) (entryFormat e))
  let first := off / z
  let count := (off + n - 1) / z - first + 1
  sliceBytes ((List.range count).flatMap (fun k => leBytes z (windowElement e (first + k)))) (off % z) n

/-- n bytes at any place (R192, R205). -/
def readAny (s : State) (p : Place) (n : Nat) : List Byte :=
  match p with
  | .window ctx g off => windowBytes (windowEntry s ctx g) off n
  | _ => s.readPlace p n

/-! ### GSET and GCFG (R200 to R202) -/

/-- A uniform register number of eight registers (R200, R201). -/
def octet (a : BitVec 6) : List RegRef := (List.range 8).map (fun k => .s (a.toNat + k))

/-- The context has a resident launch in deterministic mode 1 or 2 (R200). -/
def deterministicContext (s : State) (ctx : Nat) : Bool := s.launches.any (fun l => l.ctx == ctx && l.lh.mode != 0)

/-- A command of the context that a flush has left running (R262): it started before the flush and may have begun to read a window. -/
def readsBegun (s : State) (ctx : Nat) : Bool := s.commands.any (fun c => c.discard && c.ctx == ctx)

/-- GSET (R200, R202): it waits for the commands of the context that are known to have started; every other read of a window takes its
values at once, so there is none to wait for (log entry 109, DEDUCED). A read that begins while it waits takes the old entry (log entry
125, DESIGN CHOICE). A misaligned a raises its fault before the privilege fault of
deterministic mode (log entry 46, DESIGN CHOICE). -/
def execGset (a : BitVec 6) (g : BitVec 3) (s : State) : Host.Outcome State Fault Refusal :=
  issue { privileged := true, badReg := a.toNat % 8 != 0, reads := octet a, fence := .stall }
    (fun x s =>
      let e := (List.range 8).map (fun k => x.arch.getS (a.toNat + k))
      if deterministicContext s x.e.l.ctx then .fault { cls := 3 }
      else if !entryValid s x.e.l.ctx g.toNat e then .fault { cls := 4 }
      else if readsBegun s x.e.l.ctx then .stall
      else .done { s := installWindow s x.e.l.ctx g.toNat e }) s

/-- GCFG (R201). -/
def execGcfg (d : BitVec 6) (g : BitVec 3) (s : State) : Host.Outcome State Fault Refusal :=
  issue { badReg := d.toNat % 8 != 0, writes := octet d }
    (fun x s =>
      let r := (List.range 8).foldl (fun a k => a.setS (d.toNat + k) (windowWord s x.e.l.ctx g.toNat k)) x.arch
      .done { s := s.setGroup { x.e.g with arch := r } }) s

end Sys2Proof.Machine
end

