-- ==== Sys2Proof/Machine/PathT.lean ====
section
/-! DEFINITION. The accesses of threads: reading and writing lanes with their faults, speculation and holding past a fence,
read-modify-write operations, and spill records (R206 to R210, R216, R217, R219, R227 to R236, R244 to R246, R387). -/

namespace Sys2Proof.Machine

/-- Changes the group in a slot. -/
def State.mapGroup (s : State) (core slot : Nat) (f : Group → Group) : State :=
  match s.group? core slot with
  | some g => s.setGroup (f g)
  | none => s

/-- The request sequence rises at each issue that makes memory requests (R387). -/
def Group.bump (g : Group) : Group := { g with request := g.request + 1 }

/-- The agent tag of the request that an issue makes (R388; log entry 21, DEDUCED). -/
def Issue.tag (x : Issue) : BitVec 64 := agentTag x.e.g (x.e.g.request + 1)

/-- Adds a result that will arrive, and its registers to the pending set (R39). -/
def Group.addResult (g : Group) (r : VarResult) (regs : List RegRef) : Group :=
  { g with outstanding := g.outstanding ++ [r], arch := { g.arch with pending := (g.arch.pending ++ regs).eraseDups } }

/-! ### The lanes' checks (R227) -/

/-- The lanes that pass with their places, and those that fail with class and address. -/
structure LaneChecks where
  good : List (Nat × Place)
  fails : List (Nat × Nat × BitVec 64)

/-- Checks every active lane, ascending. -/
def checkLanes (s : State) (x : Issue) (k : AccessKind) (op : Nat) (waits : Bool) (n : Nat) (addr : Nat → LaneAddr) : LaneChecks :=
  (laneList x.active).foldl (fun c i =>
    match checkLane s x k op waits n (addr i) with
    | .ok p => { c with good := c.good ++ [(i, p)] }
    | .error f => { c with fails := c.fails ++ [(i, f, (addr i).coded)] }) ⟨[], []⟩

/-- The fault of the failed lanes. -/
def LaneChecks.fault (c : LaneChecks) : Option LaneFault := lanesFault c.fails (!c.good.isEmpty)

/-! ### Reading and writing past a fence (R216, R217) -/

/-- How far q lies behind p, when both name bytes of one memory or tile. -/
def Place.behind (p q : Place) : Option Nat :=
  match p, q with
  | .mem t a _, .mem u b _ => if t = u ∧ a ≤ b then some (b - a) else none
  | .loft t i a, .loft u j b => if t = u ∧ i = j ∧ a ≤ b then some (b - a) else none
  | .barn l c i a, .barn m d j b => if l = m ∧ c = d ∧ i = j ∧ a ≤ b then some (b - a) else none
  | _, _ => none

/-- The byte at p that a held store will write. -/
def HeldAccess.byteAt (h : HeldAccess) (p : Place) : Option Byte :=
  match h with
  | .store q _ bs _ => (q.behind p).bind fun k => bs[k]?
  | .atom _ _ _ _ => none

/-- The last held store that writes the byte at p, with its position. -/
def forwarded (held : List HeldAccess) (p : Place) : Option (Nat × Byte) :=
  ((held.zip (List.range held.length)).filterMap (fun h => (h.1.byteAt p).map (fun b => (h.2, b)))).getLast?

/-- The n bytes that lane i of a group reads at p, and the units that a speculative read watches. -/
def Group.readLane (s : State) (g : Group) (i : Nat) (p : Place) (n : Nat) : List Byte × List Watch :=
  match g.fence with
  | none => (readAny s p n, [])
  | some w =>
    let bs := readAny s p n
    let fs := (List.range n).map (fun k => forwarded w.held (p.add k))
    ((bs.zip fs).map (fun x => match x.2 with
      | some (_, b) => b
      | none => x.1),
     (unitsOf p n).map (fun u =>
       { unit := u, lane := i, forwarded := (fs.filterMap (fun f => f.map (·.1))).eraseDups, behind := w.held.length }))

/-- Adds watched units to the fence window. -/
def Group.watch (g : Group) (ws : List Watch) : Group :=
  match g.fence with
  | some w => { g with fence := some { w with watched := (w.watched ++ ws).eraseDups } }
  | none => g

/-- Holds an access past the fence. -/
def Group.hold (g : Group) (h : HeldAccess) : Group :=
  match g.fence with
  | some w => { g with fence := some { w with held := w.held ++ [h] } }
  | none => g

/-- A store of the group's lane i: performed, or held past a fence; a store to a window is discarded (R198). -/
def storeLane (s : State) (core slot i : Nat) (tag : BitVec 64) (p : Place) (bs : List Byte) : State :=
  match (s.group? core slot).bind Group.fence with
  | some _ => match p with
    | .window _ _ _ => s
    | _ => s.mapGroup core slot (fun g => g.hold (.store p i bs tag))
  | none => s.writePlace p bs tag

/-! ### Read-modify-write (R229 to R236) -/

/-- The new value, if one is written, and the flags (R230). -/
def Rmw.new (r : Rmw) (amr : Word) (old : BitVec 64) : Option (BitVec 64) × BitVec 9 :=
  let v := r.operand
  let wide := r.width = 8
  let sg (x : BitVec 64) : Int := if wide then x.toInt else (x.setWidth 32).toInt
  let cut (x : BitVec 64) : BitVec 64 := if wide then x else (x.setWidth 32).setWidth 64
  match r.op with
  | 0 => (some v, 0)
  | 1 => (if old = r.cmp then some v else none, 0)
  | 2 => (some (cut (old + v)), 0)
  | 3 => (some (if sg old ≤ sg v then old else v), 0)
  | 4 => (some (if sg old ≤ sg v then v else old), 0)
  | 5 => (some (if old.toNat ≤ v.toNat then old else v), 0)
  | 6 => (some (if old.toNat ≤ v.toNat then v else old), 0)
  | 7 => (some (old &&& v), 0)
  | 8 => (some (old ||| v), 0)
  | 9 => (some (old ^^^ v), 0)
  | _ =>
    let x := lnAddCode .ln32 (roundAmr amr) v.toNat old.toNat
    (some (BitVec.ofNat 64 x.1), x.2)

/-- Performs a read-modify-write at a place: the state, the old value and the flags (R206, R232). A window keeps nothing of it (R198). -/
def performRmw (s : State) (p : Place) (r : Rmw) (amr : Word) (tag : BitVec 64) (own : Option OwnAccess := none) :
    State × BitVec 64 × BitVec 9 :=
  let old := BitVec.ofNat 64 (leNat (readAny s p r.width))
  let x := r.new amr old
  (match x.1 with
    | some v => s.writePlace p (leBytes r.width v.toNat) tag own
    | none => s, old, x.2)

/-- The distinct locations of a list of places, as units and checks of kind 1 (R389): a location is a place, though two places may
share a unit and a check. -/
def locationItems (core : Nat) (ps : List Place) : List (Nat × Word) := ps.eraseDups.map (placeUnit core)

/-- The cells that receive an observed value (R231). -/
def observedCells (d i width : Nat) (old : BitVec 64) : List (Nat × Word) :=
  if width = 8 then [(64 * d + i, old.setWidth 32), (64 * (d + 1) + i, old.extractLsb' 32 32)] else [(64 * d + i, old.setWidth 32)]

/-! ### RED batches (R220, R221, R234 to R237) -/

/-- The order of R220 after the team key: core, partition, slot, lane, issue. -/
def RedEntry.rank (g : Group) (e : RedEntry) : Nat :=
  (((g.core * 4 + partitionOf g.slot) * 64 + g.slot) * 64 + e.lane) * 2 ^ 32 + e.issue

/-- Forms the batch of several groups' undrained entries (R236), in the order of R220, each with its agent tag. -/
def formBatch (s : State) (gs : List Group) : List RedEntry :=
  let key (g : Group) : Nat := match s.env? g.core g.slot with
    | some e => e.key.toNat
    | none => 0
  (sortBy (fun x : Nat × RedEntry => x.1)
    (gs.flatMap (fun g => (g.batch ++ g.reds).map (fun e => (key g * 2 ^ 64 + e.rank g, e))))).map (·.2)

/-- Bytes of an entry. -/
def RedEntry.width (e : RedEntry) : Nat := if e.type % 2 = 1 then 8 else 4

/-- Two entries have a byte in common. -/
def RedEntry.meets (e f : RedEntry) : Bool :=
  (e.place.behind f.place).any (· < e.width) || (f.place.behind e.place).any (· < f.width)

/-- Performs one entry of a batch where its walk has put it (R359; log entry 88, DEDUCED). -/
def performRed (s : State) (amr : Word) (e : RedEntry) : State :=
  (performRmw s e.place { op := e.op, width := e.width, operand := e.operand, cmp := 0, lane := e.lane } amr e.tag).1

/-- A drain in progress: the state, the entries that wait, the locations whose choice is made, and the code of a mismatch. -/
structure Drained where
  s : State
  left : List RedEntry := []
  chosen : List Place := []
  mismatch : Option Nat := none

/-- The next entry of a batch: the first at its location makes the choice for all of them (R236, R391), and an entry behind a waiting
one that it meets waits too, so that overlapping entries keep their order (R220). -/
def drainEntry (launch : Nat) (amr : Word) (r : Drained) (e : RedEntry) : Drained :=
  let known := e.chosen || r.chosen.contains e.place
  if r.mismatch.isSome ∨ r.left.any (fun f => f.meets e) then { r with left := r.left ++ [{ e with chosen := known }] }
  else if known then { r with s := performRed r.s amr e }
  else
    let loc := placeUnit e.core e.place
    match choose r.s launch 1 loc.1 loc.2 e.tag e.team true with
    | .wait => { r with left := r.left ++ [e] }
    | .mismatch c => { r with left := r.left ++ [e], mismatch := some c }
    | .go s1 => { r with s := performRed s1 amr e, chosen := e.place :: r.chosen }

/-- Performs those entries of a batch whose location's turn has come, in order (R220, R236). -/
def performBatch (s : State) (launch : Nat) (amr : Word) (es : List RedEntry) : Drained :=
  es.foldl (drainEntry launch amr) { s := s }

/-- The entry is the group's: its tag names the slot, which a group keeps for life (R380, R388). -/
def RedEntry.ownedBy (e : RedEntry) (g : Group) : Bool := e.team == g.team && field e.tag.toNat 8 6 == g.slot

/-- Takes the entries to drain out of a group. Only an own flush point, which drains them all, makes the quota whole again (R235; log
entry 107, DEDUCED). -/
def Group.giveEntries (only : Option (RedEntry → Bool)) (g : Group) : Group :=
  match only with
  | none => { g with reds := [], batch := [], redQuota := 0 }
  | some p => { g with reds := g.reds.filter (fun e => !p e), batch := g.batch.filter (fun e => !p e) }

/-- Gives a group, which was g before the drain, those of its entries that wait: at a flush point they are a batch of the group (R236,
R385), and otherwise each goes back to where it was. -/
def Group.takeEntries (only : Option (RedEntry → Bool)) (g : Group) (left : List RedEntry) (k : Group) : Group :=
  let own := left.filter (fun e => e.ownedBy g)
  let batched (e : RedEntry) : Bool := only.isNone || g.batch.any (fun f => f.lane == e.lane && f.issue == e.issue)
  { k with batch := k.batch ++ own.filter batched, reds := k.reds ++ own.filter (fun e => !batched e) }

/-- Drains undrained entries of groups of one launch as one batch in the order of R220: all of them at a flush point of the groups, or
only those of which a predicate holds (R214, R235 to R237, R332). What waits for its turn in the order log stays with its own group. The
answer: the state, whether all is performed, and the code of a mismatch. A RED is drained by nothing else, so a read of its own thread
before that does not see it (R220; log entry 93, DESIGN CHOICE). -/
def drainGroups (s : State) (launch : Nat) (gs : List Group) (only : Option (RedEntry → Bool) := none) : State × Bool × Option Nat :=
  let amr := ((s.launch? launch).map (fun l => s.amr l.ctx)).getD 0
  let batch := (formBatch s gs).filter (only.getD (fun _ => true))
  let s1 := gs.foldl (fun s g => s.mapGroup g.core g.slot (Group.giveEntries only)) s
  let r := performBatch s1 launch amr batch
  (gs.foldl (fun s g => s.mapGroup g.core g.slot (g.takeEntries only r.left)) r.s, r.left.isEmpty, r.mismatch)

/-! ### Spill records (R244 to R246) -/

/-- The delta of a lane's value from lane 0's (R245). -/
def spillDelta (vs : List Word) (i : Nat) : Int := (vs.getD i 0 - vs.getD 0 0).toInt

/-- Every delta lies in a signed range of n bits. -/
def deltasFit (n : Nat) (vs : List Word) : Bool :=
  lanes.all (fun i => decide (-(2 ^ (n - 1) : Nat) ≤ spillDelta vs i) && decide (spillDelta vs i < (2 ^ (n - 1) : Nat)))

/-- The format that VSPL chooses (R245). -/
def spillFormat (vs : List Word) : Nat :=
  if lanes.all (fun i => spillDelta vs i == 0) then 1 else if deltasFit 8 vs then 2 else if deltasFit 16 vs then 3 else 0

/-- The bytes of a spill record (R244). -/
def spillRecord (vs : List Word) : List Byte :=
  let head (f : Nat) : List Byte := leBytes 16 f
  let base := leBytes 4 (vs.getD 0 0).toNat
  match spillFormat vs with
  | 1 => head 1 ++ base
  | 2 => head 2 ++ base ++ lanes.map (fun i => BitVec.ofInt 8 (spillDelta vs i))
  | 3 => head 3 ++ base ++ lanes.flatMap (fun i => leBytes 2 (wrapInt 16 (spillDelta vs i)))
  | _ => head 0 ++ lanes.flatMap (fun i => leBytes 4 (vs.getD i 0).toNat)

/-- The bytes of a record of a format, none for an invalid one (R244, R246). -/
def spillLength (fmt : Nat) : Option Nat :=
  match fmt with
  | 0 => some 272
  | 1 => some 20
  | 2 => some 84
  | 3 => some 148
  | _ => none

/-- The 64 values of a record (R246). -/
def fillRecord (bs : List Byte) : List Word :=
  let base := BitVec.ofNat 32 (byteField bs 16 4)
  match byteField bs 0 1 with
  | 0 => lanes.map (fun i => BitVec.ofNat 32 (byteField bs (16 + 4 * i) 4))
  | 1 => lanes.map (fun _ => base)
  | 2 => lanes.map (fun i => base + ((sliceBytes bs (20 + i) 1).headD 0).signExtend 32)
  | _ => lanes.map (fun i => base + (BitVec.ofNat 16 (byteField bs (20 + 2 * i) 2)).signExtend 32)

end Sys2Proof.Machine
end

