-- ==== Sys2Proof/Machine/Tile.lean ====
section
/-! DEFINITION. The tile engine: descriptors, the matrix queue, passes, accumulators, and the instructions of
spec/07_tile_engine.md (R87, R159 to R187, R411). -/

namespace Sys2Proof.Machine

/-! ### Descriptors (R36, R162, R163) -/

def descHandle (d : BitVec 64) : Nat := field d.toNat 16 16
def descOffset (d : BitVec 64) (esz : Nat) : Nat := field d.toNat 0 16 * esz
def descRotation (d : BitVec 64) : Nat := field d.toNat 56 4

/-- The 16-byte chunks of row r of a step, with their sizes for a row of n bytes. -/
def rowChunks (d : BitVec 64) (esz step r n : Nat) : List (Nat × Nat) :=
  let start := descOffset d esz + step * 256 * field d.toNat 44 12 + 16 * r * field d.toNat 32 12
  let flip := if descRotation d = 0 then 0 else field r (descRotation d - 1) 1
  (List.range ((n + 15) / 16)).map (fun h => (start + 16 * (h ^^^ flip), min 16 (n - 16 * h)))

/-- The address of a descriptor fault, coded as R372 codes a handle's. -/
def descAddr (d : BitVec 64) (off : Nat) : BitVec 64 := BitVec.ofNat 64 (descHandle d + 2 ^ 16 * off)

/-- The checks of R162 at issue over every row of every step. -/
def checkDesc (s : State) (u : Accessor) (d : BitVec 64) (esz n : Nat) (steps rows : List Nat) : Option LaneFault :=
  let o := descOffset d esz
  if o % 16 ≠ 0 then some { cls := 5, addr := descAddr d o }
  else if 8 ≤ descRotation d ∨ field d.toNat 60 4 ≠ 0 then some { cls := 4, addr := descAddr d o }
  else
    ((steps.flatMap (fun t => rows.flatMap (fun r => rowChunks d esz t r n))).find? (fun c =>
      (handlePlace s u (descHandle d) c.1 c.2).isNone)).map (fun c => { cls := 4, addr := descAddr d c.1 })

/-- The bytes of a row of a step, and whether one of them is poisoned (R162, R411). -/
def readRow (s : State) (u : Accessor) (d : BitVec 64) (esz step r n : Nat) : List Byte × Bool :=
  (rowChunks d esz step r n).foldl (fun acc c =>
    match handlePlace s u (descHandle d) c.1 c.2 with
    | some p => (acc.1 ++ s.readPlace p c.2, acc.2 || s.poisonedPlace p c.2)
    | none => (acc.1 ++ List.replicate c.2 0, acc.2)) ([], false)

/-- Row r of a matrix operand at a step (R163), and whether it is poisoned: so is a tile register that an error has struck since the
operation issued (R394, R411; log entry 117, DEDUCED). -/
def operandRow (s : State) (e : Env) (m : MatrixSource) (esz step r n : Nat) : List Byte × Bool :=
  match m with
  | .tile k => ((e.g.arch.tRow k r).take n, e.g.arch.tPoison.contains k || e.g.bad.contains (.t k))
  | .scratch d => readRow s e.accessor d esz step r n

/-- The B rows that the participating octants read, none when no lane is active (R162, R164). -/
def bRows (mask : LaneMask) (pb : Bool) : List Nat :=
  if pb then lanes.filter (fun r => (laneList mask).any (fun i => i / 8 == r / 8)) else if mask = 0 then [] else List.range 8

/-- An X-format operand that is no listed source (R36). -/
def xBad (a : BitVec 6) : Bool := !a.getLsbD 5 && a.extractLsb' 3 2 != 0
/-- It names a tile register. -/
def xIsTile (a : BitVec 6) : Bool := !a.getLsbD 5
/-- The registers that an X-format operand reads. -/
def xReads (a : BitVec 6) : List RegRef :=
  if xIsTile a then [.t (a.toNat % 8)] else [.s (2 * (a.toNat % 32)), .s (2 * (a.toNat % 32) + 1)]
/-- The operand as read at issue. -/
def xSource (r : Arch) (a : BitVec 6) : MatrixSource :=
  if xIsTile a then .tile (a.toNat % 8) else .scratch (r.getS64 (2 * (a.toNat % 32)))

def MatrixSource.check (m : MatrixSource) (s : State) (u : Accessor) (esz n : Nat) (steps rows : List Nat) : Option LaneFault :=
  match m with
  | .tile _ => none
  | .scratch d => checkDesc s u d esz n steps rows

def MatrixSource.readsTile (m : MatrixSource) (n : Nat) : Bool := m == .tile n
/-- The operand reads through a handle (R165). -/
def MatrixSource.readsHandle (m : MatrixSource) (h : Nat) : Bool :=
  match m with
  | .tile _ => false
  | .scratch d => descHandle d == h

/-! ### The matrix queue (R165, R166) -/

/-- The group has an operation on the accumulator. -/
def Group.usesAcc (g : Group) (n : Nat) : Bool := g.matrix.any (fun o => o.acc == n)
/-- The group has an operation that reads the tile register. -/
def Group.usesTile (g : Group) (n : Nat) : Bool := g.matrix.any (fun o => o.a.readsTile n || o.b.readsTile n)

/-- The queue of the group's partition is full. -/
def queueFull (s : State) (g : Group) : Bool :=
  8 ≤ ((s.groups.filter (fun h => h.core == g.core && partitionOf h.slot == partitionOf g.slot)).map (fun h => h.matrix.length)).sum

/-- Puts an operation into the queue; it takes the next number of the device. -/
def enqueue (s : State) (g : Group) (o : MatrixOp) : State :=
  let r := g.arch.run.limm.getD 0
  { s.setGroup { g with matrix := g.matrix ++ [{ o with id := s.nextId, word := s.fetched, limm := r.setWidth 32 }] } with nextId := s.nextId + 1 }

/-- A cleared element of a format (R181). -/
def accZero : AccFmt → Word
  | .chain => 0x40000000
  | .narrow => 0x4000
  | _ => 0

def Acc.elem (a : Acc) (i c : Nat) : Word := smGet (accZero a.fmt) (8 * i + c) a.elems
def Acc.setElem (a : Acc) (i c : Nat) (x : Word) : Acc := { a with elems := smSet (accZero a.fmt) (8 * i + c) x a.elems }
def Acc.raise (a : Acc) (i : Nat) (f : BitVec 9) : Acc :=
  if f = 0 then a else { a with flags := smSet (0 : BitVec 9) i (smGet (0 : BitVec 9) i a.flags ||| f) a.flags }

/-- Serves the ARDs of an accumulator that are still to be read: all at one step boundary (R182; log entry 22, DEDUCED). Where the
accumulator has become poisoned since the issue, the vector registers of the ARD take its poison and its uniform register does not (R411;
log entry 124, DESIGN CHOICE). -/
def serveArd (n : Nat) (g : Group) : Group :=
  let poison := (g.acc n).poison || g.bad.contains (.a n)
  let serve (r : VarResult) : VarResult :=
    match r.ard with
    | some (k, q, d, mask) =>
      if k = n then
        let a := g.acc n
        { r with ard := none, s := [(d, a.steps)], bad := if poison then (List.range 8).map (fun c => .v (8 * q + c)) else []
                 v := (laneList mask).flatMap (fun i => (List.range 8).map (fun c => (64 * (8 * q + c) + i, a.elem i c))) }
      else r
    | none => r
  { g with outstanding := g.outstanding.map serve }

/-- An accumulator is written whole: no error of it is left (R394, R411). -/
def Group.mendAcc (g : Group) (n : Nat) : Group := g.mend (· == .a n)

/-- Retires the flags of accumulators (R166): the group without them, and the flags. -/
def retireFlags (ns : List Nat) (g : Group) : Group × List (Nat × BitVec 9) :=
  (ns.foldl (fun g n => if (g.acc n).flags.isEmpty then g else g.setAcc n { g.acc n with flags := [] }) g,
   ns.flatMap (fun n => (g.acc n).flags))

/-! ### The product-sum path (R170 to R174) -/

/-- The format of an LMMA code (R36). -/
def matrixFmt (f : Nat) : LnFmt := if f ≤ 1 then .ln8 else if f = 2 then .ln16 else .ln32
/-- The tree's format (R170). -/
def treeFmt (f : Nat) : LnFmt := if f ≤ 1 then .ln16 else .ln32
/-- The element size in bytes, and the depth of the tree. -/
def matrixSize (f : Nat) : Nat := (matrixFmt f).bits / 8
def treeDepth (f : Nat) : Nat := if f ≤ 1 then 5 else if f = 2 then 4 else 3

/-- A product at its grade (R170). -/
def gradeProduct (f : Nat) (a b : LnVal) : LnVal × BitVec 9 :=
  let p := lnProduct a b
  match p.1 with
  | .fin s l =>
    if f = 3 then
      let r := rangeCheck .ln32 roundNearest s l
      (r.1, p.2 ||| r.2)
    else (.fin s (l * (2 ^ ((treeFmt f).frac - (matrixFmt f).frac) : Nat)), p.2)
  | _ => p

/-- The pairwise tree over 2 to the n products (R171). -/
def productTree (m : LnFmt) (k : Rounding) : Nat → List (LnVal × BitVec 9) → LnVal × BitVec 9
  | 0, xs => xs.headD (.zero false, 0)
  | n + 1, xs =>
    let l := productTree m k n (xs.take (2 ^ n))
    let r := productTree m k n (xs.drop (2 ^ n))
    let x := lnAdd m k l.1 r.1
    (x.1, l.2 ||| r.2 ||| x.2)

/-- to32 and to16 (R173): the tree result at the accumulator's fraction width. -/
def toAccumulator (chain : Bool) (m : LnFmt) : LnVal → LnVal
  | .fin s l =>
    if chain then .fin s (l * (2 ^ (22 - m.frac) : Nat))
    else if m = .ln32 then
      let lo := l / 2 ^ 13
      .fin s (lo + (if roundsUp roundNearest s lo (l % 2 ^ 13).toNat 13 then 1 else 0))
    else .fin s l
  | v => v

/-- acc_add (R87, R173): overflow goes to infinity with AO for chain, and saturates with SA for narrow. -/
def accAdd (chain : Bool) (k : Rounding) (t : LnVal) (el : Word) : Word × BitVec 9 :=
  let m : LnFmt := if chain then .ln32 else .ln16
  let r := lnAdd m { k with inf := chain } t (lnVal m el.toNat)
  (BitVec.ofNat 32 (lnCode m r.1), (r.2 &&& ~~~flOV) ||| flagIf (r.2 &&& flOV != 0) (if chain then flAO else flSA))

/-- LB8 scales on a tree result (R172). With a scale of 0xFF no product is formed either, so that the products of the tree raise no flag
(log entry 123, DESIGN CHOICE). -/
def scaleTree (ea eb : Nat) (m : LnFmt) (t : LnVal × BitVec 9) : LnVal × BitVec 9 :=
  if ea = 255 ∨ eb = 255 then (.nan, 0)
  else match t.1 with
    | .fin s l => (.fin s (l + ((ea : Int) + eb - 254) * (2 ^ m.frac : Nat)), t.2)
    | _ => t

/-- The metadata of lane i for window w, as a 128-bit number (R177). -/
def metadata (o : MatrixOp) (w i : Nat) : Nat :=
  (List.range 4).foldl (fun n j => n + (o.side.getD (64 * (4 * w + j) + i) 0).toNat * 2 ^ (32 * j)) 0

/-- The k values of A's row i at dense step g of an operation (R176, R177). -/
def rowA (s : State) (e : Env) (o : MatrixOp) (g i : Nat) : List LnVal × Bool :=
  match o.kind with
  | .lmms f n =>
    let k := 2 ^ treeDepth f
    let z := matrixSize f
    let w := g / (128 / k)
    let row := operandRow s e o.a z w i (n * z)
    let md := metadata o w i
    ((List.range k).map (fun kk =>
      let p := (g % (128 / k)) * k + kk
      let rank := popCount p md
      if md.testBit p ∧ rank < n then lnVal (matrixFmt f) (byteField row.1 (rank * z) z) else .zero false), row.2)
  | .lmma f _ _ =>
    let z := matrixSize f
    let row := operandRow s e o.a z g i 32
    ((List.range (2 ^ treeDepth f)).map (fun kk => lnVal (matrixFmt f) (byteField row.1 (kk * z) z)), row.2)
  | .imma => ([], false)

/-- The k values of B's row r at a step. -/
def rowB (s : State) (e : Env) (o : MatrixOp) (f g r : Nat) : List LnVal × Bool :=
  let z := matrixSize f
  let row := operandRow s e o.b z g r 32
  ((List.range (2 ^ treeDepth f)).map (fun kk => lnVal (matrixFmt f) (byteField row.1 (kk * z) z)), row.2)

/-- The byte selects of LB8 scales, for a format that has them. -/
def lb8Scales (o : MatrixOp) (i c : Nat) : Option (Nat × Nat) :=
  match o.kind with
  | .lmma 1 sa sb => some (field (o.side.getD i 0).toNat (8 * sa) 8, field (o.side.getD (64 + 8 * (i / 8) + c) 0).toNat (8 * sb) 8)
  | _ => none

/-- Element (i, c) after a step (R170 to R173). -/
def lnElementStep (e : Env) (o : MatrixOp) (f : Nat) (a : Acc) (i c : Nat) (ra rb : List LnVal) : Word × BitVec 9 :=
  let m := treeFmt f
  let t0 := productTree m (roundAmr o.amr) (treeDepth f) ((ra.zip rb).map (fun x => gradeProduct f x.1 x.2))
  let t := match lb8Scales o i c with
    | some (ea, eb) => scaleTree ea eb m t0
    | none => t0
  let k : Rounding :=
    { mode := o.mode.toNat, inf := true, flush := !o.amr.getLsbD 4,
      r := if o.mode = 4 then (randWord (e.workId i) o.wordIx i c o.sseq e.l.k0 e.l.k1).toNat else 0 }
  let r := accAdd (a.fmt == .chain) k (toAccumulator (a.fmt == .chain) m t.1) (a.elem i c)
  (r.1, t.2 ||| r.2)

/-- One k-step of an LMMA or LMMS: all elements together (R173, R176, R177). -/
def lnStep (s : State) (e : Env) (o : MatrixOp) (f : Nat) : Acc :=
  let a := e.g.acc o.acc
  let bs := (bRows o.mask o.pb).map (fun r => (r, rowB s e o f o.done r))
  let b (r : Nat) : List LnVal × Bool := ((bs.find? (fun x => x.1 == r)).map (·.2)).getD ([], false)
  let stepped := (laneList o.mask).foldl (fun acc i =>
    let ra := rowA s e o o.done i
    (List.range 8).foldl (fun acc c =>
      let rb := b (if o.pb then 8 * (i / 8) + c else c)
      let r := lnElementStep e o f a i c ra.1 rb.1
      { ((acc.setElem i c r.1).raise i r.2) with poison := acc.poison || ra.2 || rb.2 }) acc) a
  { stepped with steps := a.steps + 1 }

/-! ### The bit-serial path (R178 to R180) -/

def twWa (tw : Word) : Nat := field tw.toNat 0 4 + 1
def twWb (tw : Word) : Nat := field tw.toNat 4 4 + 1
def twFrac (tw : Word) : Nat := field tw.toNat 12 4 + field tw.toNat 16 4

/-- K of R178. -/
def immaK (tw : Word) : Nat :=
  let p := twWa tw * twWb tw
  if p ≤ 16 then 32 * 2 ^ (bitLength 5 (16 / p) - 1) else 32

/-- The K integers of a row (R178). -/
def intRow (row : List Byte) (k w : Nat) (sg : Bool) : List Int :=
  let n := leNat row
  (List.range k).map (fun kk => if sg then signed w (field n (kk * w) w) else (field n (kk * w) w : Int))

/-- The sum of the products of two rows. -/
def dotProduct (xs ys : List Int) : Int := ((xs.zip ys).map (fun x => x.1 * x.2)).sum

/-- The step of an IMMA (R178). -/
def immaStep (s : State) (e : Env) (o : MatrixOp) : Acc :=
  let a := e.g.acc o.acc
  let k := immaK o.tw
  let sh := a.f.toNat - twFrac o.tw
  let stepped := (laneList o.mask).foldl (fun acc i =>
    let ra := operandRow s e o.a 1 0 i (k * twWa o.tw / 8)
    let xs := intRow ra.1 k (twWa o.tw) (o.tw.getLsbD 8)
    (List.range 8).foldl (fun acc c =>
      let rb := operandRow s e o.b 1 0 (if o.pb then 8 * (i / 8) + c else c) (k * twWb o.tw / 8)
      let v := (a.elem i c).toInt + dotProduct xs (intRow rb.1 k (twWb o.tw) (o.tw.getLsbD 9)) * (2 ^ sh : Nat)
      let w : Int := max (-2 ^ 31) (min (2 ^ 31 - 1) v)
      { ((acc.setElem i c (BitVec.ofInt 32 w)).raise i (flagIf (w != v) flSA)) with poison := acc.poison || ra.2 || rb.2 }) acc) a
  { stepped with steps := a.steps + 1 }

/-- The accumulator after the next k-step of an operation. -/
def matrixStep (s : State) (e : Env) (o : MatrixOp) : Acc :=
  match o.kind with
  | .lmma f _ _ => lnStep s e o f
  | .lmms f _ => lnStep s e o f
  | .imma => immaStep s e o

/-! ### LMMA, LMMS and IMMA -/

/-- The accumulator takes LN operations (R173). -/
def lnAccumulator (a : Acc) : Bool := a.fmt == .chain || a.fmt == .narrow

/-- A poisoned tile register among the operands (R411). -/
def tilePoisoned (r : Arch) (as : List (BitVec 6)) : Bool := as.any (fun a => xIsTile a && r.tPoison.contains (a.toNat % 8))

/-- What every matrix operation does at issue, after its own precision checks (R162, R165, R173, R411). Where several of its faults hold,
the queue is waited for first, and precision, poison, the descriptor of A and that of B are checked in this order (log entry 111, DESIGN
CHOICE). -/
def issueMatrix (x : Issue) (s : State) (precise : Bool) (a b : BitVec 6) (esz la lb : Nat) (stepsA stepsB : List Nat)
    (op : MatrixSource → MatrixSource → MatrixOp) : Res :=
  let sa := xSource x.arch a
  let sb := xSource x.arch b
  let o := op sa sb
  if queueFull s x.e.g then .stall
  else if !precise then .fault { cls := 7 }
  else if tilePoisoned x.arch [a, b] then .fault { cls := 17, code := 1 }
  else match sa.check s x.e.accessor esz la stepsA (laneList x.active) with
    | some f => .fault f
    | none => match sb.check s x.e.accessor esz lb stepsB (bRows x.active o.pb) with
      | some f => .fault f
      | none => .done { s := enqueue s x.e.g o }

/-- LMMA (R176). The scale registers of lb8 (R172) are read at issue (log entry 106, DESIGN CHOICE). -/
def execLmma (c : BitVec 3) (a b : BitVec 6) (f : BitVec 3) (st : BitVec 5) (p : Bool) (s : State) : Host.Outcome State Fault Refusal :=
  let lb8 := f == 1
  let scales (x : Issue) : BitVec 20 := x.run.limm.getD 0
  let ra (x : Issue) : Nat := field (scales x).toNat 0 8
  let rb (x : Issue) : Nat := field (scales x).toNat 8 8
  issue { limm := lb8, rnd := true, rounds := true
          illegal := 4 ≤ f.toNat || xBad a || xBad b || (st != 0 && (xIsTile a || xIsTile b))
          illegalIn := fun x => (lb8 && x.run.limm.isNone) || (x.mode == 4 && st != 0)
          readsIn := fun x => if lb8 then [.v (ra x), .v (rb x)] else []
          reads := xReads a ++ xReads b ++ [.a c.toNat], paths := 0x04, fence := .stall }
    (fun x s =>
      let z := matrixSize f.toNat
      let steps := List.range (st.toNat + 1)
      let side := if lb8 then lanes.map (x.arch.getV (ra x)) ++ lanes.map (x.arch.getV (rb x)) else []
      issueMatrix x s (lnAccumulator (x.e.g.acc c.toNat)) a b z 32 32 steps steps (fun sa sb =>
        { id := 0, acc := c.toNat, kind := .lmma f.toNat (field (scales x).toNat 16 2) (field (scales x).toNat 18 2), a := sa, b := sb,
          pb := p, mask := x.active, side := side, ext := lb8 && (128 ≤ ra x || 128 ≤ rb x), mode := x.mode, amr := x.amr, sseq := x.arch.sseq, wordIx := x.wordIx,
          total := st.toNat + 1 })) s

/-- LMMS (R177). Its metadata and scale registers are read at issue (log entry 106, DESIGN CHOICE). -/
def execLmms (c : BitVec 3) (a b : BitVec 6) (f w : BitVec 3) (n : BitVec 2) (p : Bool) (s : State) : Host.Outcome State Fault Refusal :=
  let m (x : Issue) : Nat := field (x.run.limm.getD 0).toNat 0 8
  let windows := w.toNat + 1
  issue { limm := true, limmMask := 0xFF, rnd := true, rounds := true
          illegal := !(f == 0 || f == 2 || f == 3) || n == 3 || xIsTile a || xIsTile b
          illegalIn := fun x => x.run.limm.isNone || x.mode == 4
          badIn := fun x => m x % 4 != 0 || 256 < m x + 4 * windows
          readsIn := fun x => (List.range (4 * windows)).map (fun k => .v (m x + k))
          reads := xReads a ++ xReads b ++ [.a c.toNat], paths := 0x04, fence := .stall }
    (fun x s =>
      let z := matrixSize f.toNat
      let count := 16 * 2 ^ n.toNat
      let dense := windows * (128 / 2 ^ treeDepth f.toNat)
      issueMatrix x s (lnAccumulator (x.e.g.acc c.toNat)) a b z (count * z) 32 (List.range windows) (List.range dense) (fun sa sb =>
        { id := 0, acc := c.toNat, kind := .lmms f.toNat count, a := sa, b := sb, pb := p, mask := x.active,
          side := (List.range (4 * windows)).flatMap (fun k => lanes.map (x.arch.getV (m x + k))), ext := 128 < m x + 4 * windows, mode := x.mode, amr := x.amr,
          sseq := x.arch.sseq, wordIx := x.wordIx, total := dense })) s

/-- IMMA (R178). -/
def execImma (c : BitVec 3) (a b : BitVec 6) (n : BitVec 3) (p : Bool) (s : State) : Host.Outcome State Fault Refusal :=
  issue { illegal := xBad a || xBad b, badIn := fun x => x.e.l.kh.tiles ≤ n.toNat, readsState := [.tw n.toNat]
          reads := xReads a ++ xReads b ++ [.a c.toNat], paths := 0x04, fence := .stall }
    (fun x s =>
      let tw := x.arch.getTw n.toNat
      let acc := x.e.g.acc c.toNat
      let la := immaK tw * twWa tw / 8
      let lb := immaK tw * twWb tw / 8
      let precise := acc.fmt == .integer && twFrac tw ≤ acc.f.toNat && !(xIsTile a && 32 < la) && !(xIsTile b && 32 < lb)
      issueMatrix x s precise a b 1 la lb [0] [0] (fun sa sb =>
        { id := 0, acc := c.toNat, kind := .imma, a := sa, b := sb, pb := p, mask := x.active, tw := tw, total := 1 })) s

/-! ### Accumulator instructions (R181 to R184, R187) -/

/-- Waits for the accumulators, retires their flags and then changes the group (R165, R166). -/
def retiring (ns : List Nat) (f : Issue → Group → Group) (x : Issue) (s : State) : Res :=
  if ns.any x.e.g.usesAcc then .stall
  else
    let r := retireFlags ns x.e.g
    .done { s := s.setGroup (f x r.1), flags := r.2 }

/-- ACLR (R181): once per issue, whatever the active mask. -/
def clearAcc (c : BitVec 3) (fmt : AccFmt) (f : BitVec 5) (s : State) : Host.Outcome State Fault Refusal :=
  issue { writes := [.a c.toNat], fence := .stall }
    (retiring [c.toNat] (fun _ g => ((serveArd c.toNat g).mendAcc c.toNat).setAcc c.toNat { fmt := fmt, f := f })) s

def execAclrLn32 (c : BitVec 3) (s : State) := clearAcc c .chain 0 s
def execAclrLn16 (c : BitVec 3) (s : State) := clearAcc c .narrow 0 s
def execAclrS32 (c : BitVec 3) (f : BitVec 5) (s : State) := clearAcc c .integer f s

/-- The eight registers of ARD and AWR. -/
def quarter (q : BitVec 5) : List RegRef := (List.range 8).map (fun k => .v (8 * q.toNat + k))

/-- ARD (R182, R411): served at issue in deterministic modes, after the wait of R165. -/
def execArd (c : BitVec 3) (q : BitVec 5) (d : BitVec 6) (s : State) : Host.Outcome State Fault Refusal :=
  issue { reads := [.a c.toNat], writes := quarter q ++ [sN d] }
    (fun x s =>
      let a := x.e.g.acc c.toNat
      if a.fmt = .none then .fault { cls := 7 }
      else if a.poison then .fault { cls := 17, code := 1 }
      else if x.e.l.lh.mode ≠ 0 && x.e.g.usesAcc c.toNat then .stall
      else
        let g := x.e.g.addResult { ard := some (c.toNat, q.toNat, d.toNat, x.active), spec := x.e.g.fence.isSome } (quarter q ++ [sN d])
        .done { s := s.setGroup (if x.e.l.lh.mode ≠ 0 then serveArd c.toNat g else g) }) s

/-- AWR (R183, R411): it reads no element of the accumulator; with 64 lanes it writes the whole of it (log entry 117, DEDUCED). -/
def execAwr (c : BitVec 3) (q : BitVec 5) (s : State) : Host.Outcome State Fault Refusal :=
  issue { reads := quarter q, writes := [.a c.toNat], fence := .stall }
    (fun x s =>
      if (x.e.g.acc c.toNat).fmt = .none then .fault { cls := 7 }
      else retiring [c.toNat] (fun x g0 =>
        let g := serveArd c.toNat g0
        let a := g.acc c.toNat
        let a1 := (laneList x.active).foldl (fun a i => (List.range 8).foldl (fun a k =>
          let w := x.arch.getV (8 * q.toNat + k) i
          a.setElem i k (if a.fmt = .narrow then w &&& 0xFFFF else w)) a) a
        let g1 := if x.active = BitVec.allOnes 64 then g.mendAcc c.toNat else g
        g1.setAcc c.toNat { a1 with poison := a.poison && x.active != BitVec.allOnes 64 }) x s) s

/-- AMOV (R184, R411). -/
def execAmov (c m : BitVec 3) (s : State) : Host.Outcome State Fault Refusal :=
  issue { reads := [.a m.toNat], writes := [.a c.toNat], fence := .stall }
    (fun x s =>
      if [m.toNat, c.toNat].any x.e.g.usesAcc then .stall
      else if (x.e.g.acc m.toNat).poison then .fault { cls := 17, code := 1 }
      else retiring [m.toNat, c.toNat] (fun _ g =>
        let g1 := (serveArd c.toNat g).mendAcc c.toNat
        g1.setAcc c.toNat (g1.acc m.toNat)) x s) s

/-- MWAIT (R187): it reads no element of the accumulator, which therefore stands among the registers that its operations write (log entry
117, DEDUCED). -/
def execMwait (c : BitVec 3) (s : State) : Host.Outcome State Fault Refusal :=
  issue { writes := [.a c.toNat], fence := .stall } (retiring [c.toNat] (fun _ g => g)) s

def execMwaitAll (s : State) : Host.Outcome State Fault Refusal :=
  issue { fence := .stall } (retiring (List.range 8) (fun _ g => g)) s

/-! ### TLD, TST, TMOV and tile precision (R185, R186) -/

/-- A field that does not name a tile register (R185). -/
def notTile (t : BitVec 6) : Bool := t.extractLsb' 3 3 != 0

/-- The cells of a row at which a TLD writes. -/
def rowCells (n r : Nat) (bs : List Byte) : List (Nat × Byte) := ((List.range bs.length).map (fun b => 2048 * n + 32 * r + b)).zip bs

/-- TLD (R185, R411). Past an incomplete fence the poison is that of the bytes in memory, also where a held store gives the bytes (R216;
log entry 112, DESIGN CHOICE). -/
def execTld (t d st : BitVec 6) (s : State) : Host.Outcome State Fault Refusal :=
  issue { illegal := notTile t || xIsTile d, reads := xReads d, writes := [.t t.toNat], fence := .read }
    (fun x s =>
      let n := t.toNat
      let desc := x.arch.getS64 (2 * (d.toNat % 32))
      if x.e.g.usesTile n then .stall
      else match checkDesc s x.e.accessor desc 1 32 [st.toNat] (laneList x.active) with
        | some f => .fault f
        | none =>
          let rows := (laneList x.active).map (fun r =>
            ((rowChunks desc 1 st.toNat r 32).foldl (fun acc c =>
              match handlePlace s x.e.accessor (descHandle desc) c.1 c.2 with
              | some p =>
                let b := x.e.g.readLane s r p c.2
                (acc.1 ++ b.1, acc.2.1 ++ b.2, acc.2.2 || s.poisonedPlace p c.2)
              | none => acc) (([] : List Byte), ([] : List Watch), false), r))
          let g := (x.e.g.bump.watch (rows.flatMap (fun r => r.1.2.1))).addResult
            { t := rows.flatMap (fun r => rowCells n r.2 r.1.1),
              tile := some (n, rows.any (fun r => r.1.2.2), x.active == BitVec.allOnes 64), spec := x.e.g.fence.isSome } [.t n]
          .done { s := s.setGroup g }) s

/-- TST (R185, R411). -/
def execTst (t d st : BitVec 6) (s : State) : Host.Outcome State Fault Refusal :=
  issue { illegal := notTile t || xIsTile d, reads := xReads d ++ [.t t.toNat], fence := .hold }
    (fun x s =>
      let desc := x.arch.getS64 (2 * (d.toNat % 32))
      if x.arch.tPoison.contains t.toNat then .fault { cls := 17, code := 1 }
      else match checkDesc s x.e.accessor desc 1 32 [st.toNat] (laneList x.active) with
        | some f => .fault f
        | none =>
          let s1 := s.setGroup x.e.g.bump
          .done { s := (laneList x.active).foldl (fun s r =>
            let row := x.arch.tRow t.toNat r
            ((rowChunks desc 1 st.toNat r 32).zip (List.range 2)).foldl (fun s c =>
              match handlePlace s x.e.accessor (descHandle desc) c.1.1 c.1.2 with
              | some p => storeLane s x.core x.slot r x.tag p (sliceBytes row (16 * c.2) 16)
              | none => s) s) s1 }) s

/-- TMOV (R185, R411). -/
def execTmov (t u : BitVec 6) (s : State) : Host.Outcome State Fault Refusal :=
  issue { illegal := notTile t || notTile u, reads := [.t u.toNat], writes := [.t t.toNat] }
    (fun x s =>
      if x.e.g.usesTile t.toNat then .stall
      else if x.arch.tPoison.contains u.toNat then .fault { cls := 17, code := 1 }
      else
        let a := (laneList x.active).foldl (fun a r => a.setTRow t.toNat r (x.arch.tRow u.toNat r)) x.arch
        let a1 := if x.active = BitVec.allOnes 64 then { a with tPoison := a.tPoison.filter (· != t.toNat) } else a
        .done { s := s.setGroup { x.e.g with arch := a1 } }) s

/-- TWSET (R161, R186). -/
def execTwset (n : BitVec 3) (b : BitVec 6) (s : State) : Host.Outcome State Fault Refusal :=
  issue { badIn := fun x => x.e.l.kh.tiles ≤ n.toNat, reads := [sN b], writesState := [.tw n.toNat] }
    (fun x s =>
      let w := x.arch.getS b.toNat
      if w &&& 0xFFF00C00 ≠ 0 then .fault { cls := 7 }
      else .done { s := s.setGroup { x.e.g with arch := x.arch.setTw n.toNat w } }) s

/-- TWGET (R186). -/
def execTwget (n : BitVec 3) (b : BitVec 6) (s : State) : Host.Outcome State Fault Refusal :=
  issue { badIn := fun x => x.e.l.kh.tiles ≤ n.toNat, writes := [sN b], readsState := [.tw n.toNat] }
    (fun x s => .done { s := s.setGroup { x.e.g with arch := x.arch.setS b.toNat (x.arch.getTw n.toNat) } }) s

/-! ### The engine (R165, R167) -/

/-- The first operation of the group on each accumulator, in queue order. -/
def Group.heads (g : Group) : List MatrixOp :=
  g.matrix.filter (fun o => (g.matrix.find? (fun q => q.acc == o.acc)).map (·.id) == some o.id)

/-- TILE_ENGINE_PASS: one pass of one k-step of the group's event.num-th head operation. It reads scratch as it then stands, so the
bytes of an STH issued before it are the new ones, with or without a fence (R168; log entry 95, DESIGN CHOICE). -/
def execTileEnginePass (s : State) : Host.Outcome State Fault Refusal :=
  match s.env? s.event.core s.event.slot with
  | none => .refused .notEnabled
  | some e =>
    match e.g.heads[s.event.num]? with
    | none => .refused .notEnabled
    | some o =>
      let g := e.g.setAcc o.acc (matrixStep s e o)
      let ops := if o.done + 1 < o.total then g.matrix.map (fun q => if q.id = o.id then { q with done := q.done + 1 } else q)
        else g.matrix.filter (fun q => q.id != o.id)
      .next (s.setGroup { g with matrix := ops })

end Sys2Proof.Machine
end

