-- ==== Sys2Proof/Machine/MemoryInstr.lean ====
section
/-! DEFINITION. Loads, stores, atomics, reductions, prefetch, spill and fill, and WAITM (spec/10_memory_instr.md R226 to R237
and R243 to R255). -/

namespace Sys2Proof.Machine

/-! ### Loads and stores (R228) -/

/-- Bytes of a size code (R34). -/
def sizeBytes (z : BitVec 2) : Nat := 2 ^ z.toNat

/-- The data register or pair of a size (R228). -/
def dataRegs (d : BitVec 8) (z : BitVec 2) : List RegRef := if z = 3 then vPair d else [vN d]

/-- A pair that begins with an odd register (R13). -/
def oddData (d : BitVec 8) (z : BitVec 2) : Bool := z == 3 && oddV d

/-- An address vector comes from the base set (R34). -/
def vB (a : BitVec 7) : RegRef := .v a.toNat

/-- A load: each lane's value goes to its cells when it arrives (R39, R228). The lanes follow one another as those of a store do
(log entry 92, DESIGN CHOICE). -/
def loadBody (d : BitVec 8) (z : BitVec 2) (addr : Issue → Nat → LaneAddr) (x : Issue) (s : State) : Res :=
  let n := sizeBytes z
  let c := checkLanes s x .load 16 false n (addr x)
  let rs := c.good.map (fun p => (p.1, x.e.g.readLane s p.1 p.2 n))
  let cells := rs.flatMap (fun r => observedCells d.toNat r.1 n (BitVec.ofNat 64 (leNat r.2.1)))
  let g := (x.e.g.bump.watch (rs.flatMap (fun r => r.2.2))).addResult { v := cells, spec := x.e.g.fence.isSome } (dataRegs d z)
  .done { s := s.setGroup g, fault := c.fault }

/-- A store (R228). The lanes follow one another with no access of another agent between them (R209; log entry 92, DESIGN CHOICE). -/
def storeBody (d : BitVec 8) (z : BitVec 2) (addr : Issue → Nat → LaneAddr) (x : Issue) (s : State) : Res :=
  let n := sizeBytes z
  let c := checkLanes s x .store 16 false n (addr x)
  let value (i : Nat) : Nat := if z = 3 then (x.arch.getV64 d.toNat i).toNat else (x.arch.getV d.toNat i).toNat
  .done { s := c.good.foldl (fun s p => storeLane s x.core x.slot p.1 x.tag p.2 (leBytes n (value p.1))) (s.setGroup x.e.g.bump)
          fault := c.fault }

/-- The decoder's view of a load. -/
def loadUse (d : BitVec 8) (z : BitVec 2) (illegal bad : Bool) (reads : List RegRef) : Use :=
  { limm := true, illegal := illegal, badReg := bad || oddData d z, reads := reads, writes := dataRegs d z, fence := .read }

/-- The decoder's view of a store. -/
def storeUse (d : BitVec 8) (z : BitVec 2) (illegal bad : Bool) (reads : List RegRef) : Use :=
  { limm := true, illegal := illegal, badReg := bad || oddData d z, reads := reads ++ dataRegs d z, fence := .hold }

def execLdgUniformVector (d : BitVec 8) (a : BitVec 7) (b : BitVec 6) (z : BitVec 2) (s : State) : Host.Outcome State Fault Refusal :=
  issue (loadUse d z false (oddS b) (vB a :: sPair b)) (loadBody d z (fun x => addrUniformVector x a.toNat b.toNat)) s

def execLdgUniform (d : BitVec 8) (b : BitVec 6) (z : BitVec 2) (s : State) : Host.Outcome State Fault Refusal :=
  issue (loadUse d z (b == 63) (oddS b) (sPair b)) (loadBody d z (fun x _ => addrUniform x b.toNat)) s

def execLdgVector (d : BitVec 8) (a : BitVec 7) (z : BitVec 2) (s : State) : Host.Outcome State Fault Refusal :=
  issue (loadUse d z false (a.getLsbD 0) [.v a.toNat, .v (a.toNat + 1)]) (loadBody d z (fun x => addrVector x a.toNat)) s

def execStgUniformVector (d : BitVec 8) (a : BitVec 7) (b : BitVec 6) (z : BitVec 2) (s : State) : Host.Outcome State Fault Refusal :=
  issue (storeUse d z false (oddS b) (vB a :: sPair b)) (storeBody d z (fun x => addrUniformVector x a.toNat b.toNat)) s

def execStgUniform (d : BitVec 8) (b : BitVec 6) (z : BitVec 2) (s : State) : Host.Outcome State Fault Refusal :=
  issue (storeUse d z (b == 63) (oddS b) (sPair b)) (storeBody d z (fun x _ => addrUniform x b.toNat)) s

def execStgVector (d : BitVec 8) (a : BitVec 7) (z : BitVec 2) (s : State) : Host.Outcome State Fault Refusal :=
  issue (storeUse d z false (a.getLsbD 0) [.v a.toNat, .v (a.toNat + 1)]) (storeBody d z (fun x => addrVector x a.toNat)) s

def execLdhVector (d : BitVec 8) (a : BitVec 7) (b : BitVec 6) (z : BitVec 2) (s : State) : Host.Outcome State Fault Refusal :=
  issue (loadUse d z false false [vB a, sN b]) (loadBody d z (fun x => addrHandleVector x a.toNat b.toNat)) s

def execLdhOffset (d : BitVec 8) (b : BitVec 6) (z : BitVec 2) (s : State) : Host.Outcome State Fault Refusal :=
  issue (loadUse d z false false [sN b]) (loadBody d z (fun x _ => addrHandle x b.toNat)) s

def execSthVector (d : BitVec 8) (a : BitVec 7) (b : BitVec 6) (z : BitVec 2) (s : State) : Host.Outcome State Fault Refusal :=
  issue (storeUse d z false false [vB a, sN b]) (storeBody d z (fun x => addrHandleVector x a.toNat b.toNat)) s

def execSthOffset (d : BitVec 8) (b : BitVec 6) (z : BitVec 2) (s : State) : Host.Outcome State Fault Refusal :=
  issue (storeUse d z false false [sN b]) (storeBody d z (fun x _ => addrHandle x b.toNat)) s

/-! ### Atomics (R229 to R233) -/

/-- Bytes of an atomic's width (R229). -/
def atomBytes (t : BitVec 2) : Nat := if t.getLsbD 0 then 8 else 4

/-- The address of lane i of an A format word (R35, R229). -/
def atomAddr (a : BitVec 8) (t : BitVec 2) (x : Issue) (i : Nat) : LaneAddr :=
  if t.getLsbD 1 then addrHandlePair x a.toNat i else addrVector x a.toNat i

/-- An address pair that R35 refuses. -/
def atomPairBad (a : BitVec 8) : Bool := oddV a || 126 < a.toNat

/-- An op of no meaning (R230). -/
def atomIllegal (o : BitVec 4) (t : BitVec 2) : Bool := 11 ≤ o.toNat || (o == 10 && t.getLsbD 0)

/-- The data registers an atomic reads (R231). -/
def atomData (d : BitVec 8) (o : BitVec 4) (t : BitVec 2) : List RegRef :=
  (List.range ((if o = 1 then 2 else 1) * (atomBytes t / 4))).map (fun k => .v (d.toNat + k))

/-- The registers that receive the observed value (R231). -/
def atomDest (d : BitVec 8) (t : BitVec 2) : List RegRef := (List.range (atomBytes t / 4)).map (fun k => .v (d.toNat + k))

/-- A data register that breaks R231. -/
def atomDataBad (d : BitVec 8) (o : BitVec 4) (t : BitVec 2) : Bool :=
  d.toNat % ((if o = 1 then 2 else 1) * (atomBytes t / 4)) != 0

/-- Lane i's operands (R231). -/
def atomOperands (r : Arch) (d : BitVec 8) (o : BitVec 4) (t : BitVec 2) (i : Nat) : Rmw :=
  let w := atomBytes t
  let value (n : Nat) : BitVec 64 := if w = 8 then r.getV64 n i else (r.getV n i).setWidth 64
  if o = 1 then { op := 1, width := w, operand := value (d.toNat + w / 4), cmp := value d.toNat, lane := i }
  else { op := o.toNat, width := w, operand := value d.toNat, cmp := 0, lane := i }

/-- Performs the lanes of an ATOM in ascending order, with no access of another agent between them (R232; log entry 92, DESIGN
CHOICE): the state, the cells that receive the observed values, the flags. -/
def performLanes (s : State) (amr : Word) (d : Nat) (tag : BitVec 64) (rs : List (Place × Rmw)) :
    State × List (Nat × Word) × List (Nat × BitVec 9) :=
  rs.foldl (fun acc r =>
    let x := performRmw acc.1 r.1 r.2 amr tag
    (x.1, acc.2.1 ++ observedCells d r.2.lane r.2.width x.2.1, acc.2.2 ++ (if x.2.2 = 0 then [] else [(r.2.lane, x.2.2)])))
    (s, [], [])

/-- An ATOM in replay: each location is performed when its turn has come, and the word issues when all are (R391; log entry 134, DESIGN
CHOICE). -/
def replayAtom (d : BitVec 8) (t : BitVec 2) (x : Issue) (s : State) (fresh : BegunAtom) : Res :=
  let b := x.e.g.begun.getD fresh
  let r := chooseEach x.e.l.id x.tag x.e.t.id false true x.core s (b.left.map (·.1)).eraseDups
  match r.mismatch with
  | some n => .mismatch n
  | none =>
    let q := performLanes r.s x.amr d.toNat x.tag (b.left.filter (fun a => r.taken.contains a.1))
    let v := b.v ++ q.2.1
    let flags := b.flags ++ q.2.2
    if r.left = [] then
      .done { s := q.1.mapGroup x.core x.slot (fun g =>
                { g with begun := none }.bump.addResult { v := v, flags := flags, atom := true } (atomDest d t))
              fault := lanesFault b.fails b.took }
    else if r.taken = [] then .stall
    else .moved (q.1.mapGroup x.core x.slot (fun g =>
      { g with begun := some { b with left := b.left.filter (fun a => !r.taken.contains a.1), v := v, flags := flags } }))

/-- ATOM: a ninth outstanding one stalls (R387); past a fence it is held (R216). -/
def execAtom (d a : BitVec 8) (o : BitVec 4) (t : BitVec 2) (s : State) : Host.Outcome State Fault Refusal :=
  issue { limm := true, illegal := atomIllegal o t, badReg := atomPairBad a || atomDataBad d o t
          reads := vPair a ++ atomData d o t, writes := atomDest d t, fence := .hold }
    (fun x s =>
      if 8 ≤ (x.e.g.outstanding.filter (·.atom)).length then .stall
      else
        let c := checkLanes s x .atomic o.toNat false (atomBytes t) (atomAddr a t x)
        let rs := c.good.map (fun p => (p.2, atomOperands x.arch d o t p.1))
        if x.e.g.fence.isSome then
          let g := rs.foldl (fun g r => g.hold (.atom r.1 r.2 d.toNat x.tag)) x.e.g.bump
          .done { s := s.setGroup (g.addResult { held := true, spec := true, atom := true } (atomDest d t)), fault := c.fault }
        else if x.e.l.lh.mode = 2 then replayAtom d t x s { left := rs, fails := c.fails, took := !c.good.isEmpty }
        else
          match chooseAll s x.e.l.id 1 x.tag x.e.t.id false (locationItems x.core (rs.map (·.1))) with
          | .wait => .stall
          | .mismatch n => .mismatch n
          | .go s1 =>
            let r := performLanes s1 x.amr d.toNat x.tag rs
            .done { s := r.1.mapGroup x.core x.slot (fun g => g.bump.addResult { v := r.2.1, flags := r.2.2, atom := true } (atomDest d t))
                    fault := c.fault }) s

/-! ### Reductions (R234 to R237) -/

/-- The type code of a RED entry, for its width (R234). -/
def redEntries (x : Issue) (d : BitVec 8) (o : BitVec 4) (t : BitVec 2) (addr : Nat → LaneAddr) (good : List (Nat × Place)) :
    List RedEntry :=
  good.map (fun p => { core := x.core, team := x.e.t.id, place := p.2, addr := (addr p.1).coded, op := o.toNat, type := t.toNat
                       operand := (atomOperands x.arch d o t p.1).operand, lane := p.1, issue := x.e.g.redCount, tag := x.tag })

/-- Undrained entries of groups, in batches or not. -/
def entriesHeld (s : State) (gs : List Group) : Nat :=
  (gs.map (fun g => ((s.group? g.core g.slot).map (fun h => h.reds.length * 2 ^ 32 + h.batch.length)).getD 0)).sum

/-- The answer to a word that needs entries of groups of its launch drained first (R214, R235, R237, R328): next when they are. -/
def drainBefore (x : Issue) (s : State) (gs : List Group) (only : Option (RedEntry → Bool)) (next : State → Res) : Res :=
  match drainGroups s x.e.l.id gs only with
  | (s1, true, _) => next s1
  | (_, false, some n) => .mismatch n
  | (s1, false, none) => if entriesHeld s1 gs = entriesHeld s gs then .stall else .moved s1

/-- As drainBefore, for all entries of the issuing group, at a flush point of its own. -/
def drainFirst (x : Issue) (s : State) (next : State → Res) : Res := drainBefore x s [x.e.g] none next

/-- RED: the ninth undrained one drains first (R235). The quota counts the group's own REDs and flush points only: another group's TFREE
that drains some of them leaves it as it is. -/
def execRed (d a : BitVec 8) (o : BitVec 4) (t : BitVec 2) (s : State) : Host.Outcome State Fault Refusal :=
  issue { limm := true, illegal := atomIllegal o t || o.toNat < 2, badReg := atomPairBad a || atomDataBad d o t
          reads := vPair a ++ atomData d o t, fence := .stall }
    (fun x s =>
      let c := checkLanes s x .atomic o.toNat false (atomBytes t) (atomAddr a t x)
      let es := redEntries x d o t (atomAddr a t x) c.good
      let enter (s : State) : Res :=
        .done { s := s.mapGroup x.core x.slot (fun g =>
                  { g.bump with reds := g.reds ++ es, redCount := g.redCount + 1, redQuota := if es.isEmpty then g.redQuota else g.redQuota + 1 })
                fault := c.fault }
      if (8 ≤ x.e.g.redQuota && !es.isEmpty) || !x.e.g.batch.isEmpty then drainFirst x s enter else enter s) s

/-- ABFL (R237). -/
def execAbfl (s : State) : Host.Outcome State Fault Refusal :=
  issue { fence := .stall } (fun x s => drainFirst x s (fun s => .done { s := s })) s

/-! ### Region prefetch (R243) -/

/-- The three ranges of a PREF: first registers with lengths. -/
def prefRanges (d a b : BitVec 8) (r : Run) : List (BitVec 8 × BitVec 6) :=
  match r.limm with
  | none => [(d, 1), (a, 1), (b, 1)]
  | some n => [(d, n.extractLsb' 0 6), (a, n.extractLsb' 6 6), (b, n.extractLsb' 12 6)]

/-- Lengths and starts that are no ranges (R243). -/
def prefIllegal (rs : List (BitVec 8 × BitVec 6)) : Bool :=
  rs.any (fun r => 32 < r.2.toNat || (r.2 == 0 && r.1 != 0)) || 32 < (rs.map (fun r => r.2.toNat)).sum

/-- PREF: it changes only which registers have fast-buffer slots (R16, R243). -/
def execPref (d a b : BitVec 8) (s : State) : Host.Outcome State Fault Refusal :=
  issue { limm := true, limmMask := 0x3FFFF, illegalIn := fun x => prefIllegal (prefRanges d a b x.run)
          badIn := fun x => (prefRanges d a b x.run).any (fun r => r.2 != 0 && min 128 x.e.l.kh.regs < r.1.toNat + r.2.toNat) }
    (fun x s => .done { s := s.setGroup { x.e.g with pref := prefRanges d a b x.run } }) s

/-! ### Spill and fill (R244 to R246) -/

/-- The pieces of n bytes at most 16 bytes long: offset and length (R206). -/
def recordPieces (n : Nat) : List (Nat × Nat) := (List.range ((n + 15) / 16)).map (fun k => (16 * k, min 16 (n - 16 * k)))

/-- The first class that the pieces of a record raise, in the order of R227, or where the pieces are. -/
def pieceVerdict (rs : List (Except Nat Place × Nat)) : Except Nat (List (Place × Nat)) :=
  let fails := rs.filterMap (fun r => match r.1 with
    | .error c => some c
    | .ok _ => none)
  match [5, 6, 4, 17].find? (fun c => fails.contains c) with
  | some c => .error c
  | none => .ok (rs.filterMap (fun r => match r.1 with
    | .ok p => some (p, r.2)
    | .error _ => none))

/-- The checks of R227 on the n bytes of a record as a whole (R23, R244). -/
def checkRecord (s : State) (u : Accessor) (k : AccessKind) (n : Nat) : LaneAddr → Except Nat (List (Place × Nat))
  | .va a =>
    let at_ (k : Nat) : Nat := (a.toNat + k) % 2 ^ 64
    if ((n - 1) :: (recordPieces n).map (fun p => p.1)).any (fun k => (findRange s u.ctx (at_ k)).isNone) then .error 4
    else pieceVerdict ((recordPieces n).map (fun p => (checkVirtual s u k 16 false 16 (at_ p.1) p.2, p.2)))
  | .handle h o =>
    if (handlePlace s u h o n).isNone then .error 4
    else pieceVerdict ((recordPieces n).map (fun p => (checkHandle s u k 16 h (o + (p.1 : Nat)) p.2, p.2)))

/-- The pieces of a record as the writes that carry them: the two halves of a 32-byte sector of memory go together, so that a sector that
the record covers loses its poison (R394). -/
def wholeSectors : List (Place × Nat) → List (Place × Nat)
  | (.mem t a ia, 16) :: (.mem u b ib, n) :: ps =>
    if t = u ∧ a % 32 = 0 ∧ b = a + 16 ∧ ib = ia + 16 then (.mem t a ia, 16 + n) :: wholeSectors ps
    else (.mem t a ia, 16) :: wholeSectors ((.mem u b ib, n) :: ps)
  | p :: ps => p :: wholeSectors ps
  | [] => []

/-- The address of a spill record: global or handle (R244). -/
def spillAddr (b : BitVec 6) (handle : Bool) (x : Issue) : LaneAddr := if handle then addrHandle x b.toNat else addrUniform x b.toNat

/-- The fault of a record: it belongs to the group (R244, R372). -/
def recordFault (cls : Nat) (a : LaneAddr) : Res := .fault { cls := cls, code := if cls = 17 then 1 else 0, addr := a.coded }

/-- The decoder's view of the address of a spill (R244). -/
def spillRegs (b : BitVec 6) (handle : Bool) : List RegRef := if handle then [sN b] else sPair b

/-- VSPL: once per issue, in all 64 lanes (R244, R245). -/
def execVspl (d : BitVec 8) (b : BitVec 6) (h : Bool) (s : State) : Host.Outcome State Fault Refusal :=
  issue { limm := true, illegal := !h && b == 63, badReg := !h && oddS b, reads := vN d :: spillRegs b h, fence := .hold }
    (fun x s =>
      let bs := spillRecord (lanes.map (x.arch.getV d.toNat))
      match checkRecord s x.e.accessor .store bs.length (spillAddr b h x) with
      | .error c => recordFault c (spillAddr b h x)
      | .ok ps =>
        .done { s := ((wholeSectors ps).foldl (fun acc p => (storeLane acc.1 x.core x.slot 64 x.tag p.1 (sliceBytes bs acc.2 p.2), acc.2 + p.2))
                  (s.setGroup x.e.g.bump, 0)).1 }) s

/-- The bytes and watched units of a record's pieces. -/
def readPieces (s : State) (g : Group) (ps : List (Place × Nat)) : List Byte × List Watch :=
  let rs := ps.map (fun p => g.readLane s 64 p.1 p.2)
  (rs.flatMap (·.1), rs.flatMap (·.2))

/-- VFIL: the format byte, then the payload (R246). The 16 header bytes pass every check, that for poison included, before a byte of the
payload is checked (log entry 127, DESIGN CHOICE). -/
def execVfil (d : BitVec 8) (b : BitVec 6) (h : Bool) (s : State) : Host.Outcome State Fault Refusal :=
  issue { limm := true, illegal := !h && b == 63, badReg := !h && oddS b, reads := spillRegs b h, writes := [vN d], fence := .read }
    (fun x s =>
      match checkRecord s x.e.accessor .load 16 (spillAddr b h x) with
      | .error c => recordFault c (spillAddr b h x)
      | .ok hs =>
        match spillLength (byteField (readPieces s x.e.g hs).1 0 1) with
        | none => .fault { cls := 1 }
        | some n =>
          match checkRecord s x.e.accessor .load n (spillAddr b h x) with
          | .error c => recordFault c (spillAddr b h x)
          | .ok ps =>
            let r := readPieces s x.e.g ps
            let cells := lanes.map (fun i => (64 * d.toNat + i, (fillRecord r.1).getD i 0))
            .done { s := s.setGroup ((x.e.g.bump.watch r.2).addResult { v := cells, spec := x.e.g.fence.isSome } [vN d]) }) s

/-! ### WAITM (R254, R255) -/

/-- WAITM: it completes at once when a lane's value differs, and otherwise arms its lines and sleeps. With a lane that fails its checks it
faults at once and never arms (log entry 118, DESIGN CHOICE). -/
def waitmBody (d : BitVec 8) (z : BitVec 2) (addr : Issue → Nat → LaneAddr) (x : Issue) (s : State) : Res :=
  let n := sizeBytes z
  let c := checkLanes s x .load 16 true n (addr x)
  let expected (i : Nat) : Nat := if z = 3 then (x.arch.getV64 d.toNat i).toNat else (x.arch.getV d.toNat i).toNat
  let same := c.good.all (fun p => leNat (readAny s p.2 n) == expected p.1)
  if c.fault.isSome || !same then .done { s := s.setGroup x.e.g.bump, fault := c.fault }
  else
    let us := (c.good.flatMap (fun p => unitsOf p.2 n)).eraseDups
    .done { s := s.setGroup { x.e.g.bump with wait := .waitm us s.tick [] }, stay := true }

/-- The decoder's view of a WAITM. -/
def waitmUse (d : BitVec 8) (z : BitVec 2) (illegal bad : Bool) (reads : List RegRef) : Use :=
  { limm := true, illegal := illegal, badReg := bad || oddData d z, reads := reads ++ dataRegs d z, fence := .stall }

def execWaitmUniformVector (d : BitVec 8) (a : BitVec 7) (b : BitVec 6) (z : BitVec 2) (s : State) : Host.Outcome State Fault Refusal :=
  issue (waitmUse d z false (oddS b) (vB a :: sPair b)) (waitmBody d z (fun x => addrUniformVector x a.toNat b.toNat)) s

def execWaitmUniform (d : BitVec 8) (b : BitVec 6) (z : BitVec 2) (s : State) : Host.Outcome State Fault Refusal :=
  issue (waitmUse d z (b == 63) (oddS b) (sPair b)) (waitmBody d z (fun x _ => addrUniform x b.toNat)) s

def execWaitmVector (d : BitVec 8) (a : BitVec 7) (z : BitVec 2) (s : State) : Host.Outcome State Fault Refusal :=
  issue (waitmUse d z false (a.getLsbD 0) [.v a.toNat, .v (a.toNat + 1)]) (waitmBody d z (fun x => addrVector x a.toNat)) s

end Sys2Proof.Machine
end

