-- ==== Sys2Proof/Machine/Commands.lean ====
section
/-! DEFINITION. Engine commands: their fields, the checks at the QPUSH, and how a command ends (spec/11_data_on_move.md R256 to
R266, R273, R275). -/

namespace Sys2Proof.Machine

/-! ### Fields (R256, R264, R273, R275) -/

/-- A field of a command word. -/
def cmdField (w : BitVec 64) (lo n : Nat) : Nat := field w.toNat lo n

def cmdToken (w : BitVec 64) : Nat := cmdField w 0 6
def cmdDesc (w : BitVec 64) : Nat := cmdField w 6 6
def cmdKind (w : BitVec 64) : Nat := cmdField w 12 4

/-- Descriptor word k. -/
def descWord (d : List Word) (k : Nat) : Word := d.getD k 0

/-- The pair of descriptor words k and k + 1 as an address: virtual, or a handle with a byte offset (R264). -/
def endAddr (d : List Word) (k : Nat) (handle : Bool) : LaneAddr :=
  if handle then .handle ((descWord d k).toNat % 65536) (descWord d (k + 1)).toNat
  else .va (descWord d (k + 1) ++ descWord d k)

/-- The offset that an alignment rule acts on. -/
def LaneAddr.low : LaneAddr → Int
  | .va a => a.toNat
  | .handle _ o => o

/-- What a command of an engine is: its ends with their spaces, and the count. -/
def cmdSource (e : Engine) (w : BitVec 64) (d : List Word) : LaneAddr :=
  endAddr d 0 (match e with
    | .copy _ => w.getLsbD 28
    | .gather _ => w.getLsbD 20
    | .collective => false)

def cmdDest (e : Engine) (w : BitVec 64) (d : List Word) : LaneAddr :=
  endAddr d 2 (match e with
    | .copy _ => w.getLsbD 29
    | .gather _ => w.getLsbD 21
    | .collective => false)

def cmdCount (d : List Word) : Nat := (descWord d 4).toNat

/-! ### Communicators (R275, R353) -/

/-- A communicator's word, in system register 0x130 + n. -/
def commWord (s : State) (ctx n : Nat) : Nat := (s.sys ctx (0x130 + n)).toNat
def commRank (w : Nat) : Nat := field w 0 12
def commSize (w : Nat) : Nat := field w 12 12 + 1
def commValid (w : Nat) : Bool := field w 30 1 == 1

/-- The communicator that a collective command names. -/
def cmdComm (w : BitVec 64) : Nat := cmdField w 21 3

/-! ### Overlap (R266) -/

/-- The intermediate addresses of n bytes from a virtual address, as intervals: one for each range register that holds some of
them (R23). -/
def iaIntervals (s : State) (ctx a n : Nat) : List (Nat × Nat) :=
  (List.range 16).filterMap (fun r =>
    let lo := max a (rangeBase s ctx r)
    let hi := min (a + n) (rangeBase s ctx r + rangeBytes s ctx r)
    if rangeKind s ctx r = 1 ∧ lo < hi then some (rangeIa s ctx r + (lo - rangeBase s ctx r), rangeIa s ctx r + (hi - rangeBase s ctx r))
    else none)

/-- Whether two ranges of bytes meet. -/
def rangesMeet (s : State) (ctx : Nat) (a : LaneAddr) (n : Nat) (b : LaneAddr) (m : Nat) : Bool :=
  match a, b with
  | .handle h o, .handle k p => h == k && decide (o < p + m) && decide (p < o + n)
  | .va x, .va y =>
    let xs := iaIntervals s ctx x.toNat n ++ iaIntervals s ctx 0 (x.toNat + n - 2 ^ 64)
    let ys := iaIntervals s ctx y.toNat m ++ iaIntervals s ctx 0 (y.toNat + m - 2 ^ 64)
    xs.any (fun i => ys.any (fun j => i.1 < j.2 && j.1 < i.2))
  | _, _ => false

/-- The byte ranges of one end of a q0 command: the data, and a block format's scales (R265, R272). -/
def copyRanges (a : LaneAddr) (c count : Nat) (scale : Word) (bale : Nat) : List (LaneAddr × Nat) :=
  if bale ≠ 0 then [(a, bale * count)]
  else if isBlock c then [(a, blockBytes c * (count / 32)), (a.plus scale.toInt, count / 32)]
  else [(a, copyBits c / 8 * count)]

/-! ### The checks at the QPUSH (R257) -/

/-- The class that a q0 command's fields raise (R264 to R266, R272). An address that is not aligned comes before ranges that overlap (R257;
log entry 129, DESIGN CHOICE). -/
def copyCheck (s : State) (ctx : Nat) (w : BitVec 64) (d : List Word) : Option Nat :=
  let kind := cmdKind w
  let sf := cmdField w 16 4
  let df := cmdField w 20 4
  let r := cmdField w 24 3
  let e : Engine := .copy 0
  let src := cmdSource e w d
  let dst := cmdDest e w d
  let n := cmdCount d
  let bale := kind == 1
  if 1 < kind || (bale && (sf != 0 || df != 0 || r != 0)) || (!bale && !copyPair sf df) || r == 5 || r == 6 || cmdField w 27 1 != 0
      || cmdField w 30 34 != 0 then some 8
  else if (w.getLsbD 28 && field (descWord d 0).toNat 16 16 != 0) || (w.getLsbD 29 && field (descWord d 2).toNat 16 16 != 0)
      || (!isBlock sf && descWord d 5 != 0) || (!isBlock df && descWord d 6 != 0) || descWord d 7 != 0 then some 8
  else if (isBlock sf || isBlock df) && n % 32 != 0 then some 8
  else if src.low % (if bale then 16 else copyAlign sf) != 0 || dst.low % copyAlign df != 0 then some 5
  else if (copyRanges src sf n (descWord d 5) (if bale then 16 else 0)).any (fun a =>
      (copyRanges dst df n (descWord d 6) (if bale then 4096 else 0)).any (fun b => rangesMeet s ctx a.1 a.2 b.1 b.2)) then some 8
  else none

/-- Bytes of an element of a q1 command (R273). -/
def gatherBytes (w : BitVec 64) : Nat := 2 ^ cmdField w 16 2

/-- The class that a q1 command's fields raise (R273). -/
def gatherCheck (w : BitVec 64) (d : List Word) : Option Nat :=
  let kind := cmdKind w
  let e : Engine := .gather 0
  let z := gatherBytes w
  if 2 < kind || (kind == 2 && (cmdField w 16 2 != 2 || 2 ≤ cmdField w 18 2)) || (kind != 2 && cmdField w 18 2 != 0)
      || cmdField w 22 42 != 0 then some 8
  else if (w.getLsbD 20 && field (descWord d 0).toNat 16 16 != 0) || (w.getLsbD 21 && field (descWord d 2).toNat 16 16 != 0) then some 8
  else if (cmdSource e w d).low % z != 0 || (cmdDest e w d).low % z != 0 || (descWord d 5).toNat % 4 != 0 then some 5
  else none

/-- Bytes of an element of a q2 command (R275). -/
def collectiveBytes (w : BitVec 64) : Nat :=
  match cmdField w 18 3 with
  | 0 => 1
  | 1 => 2
  | _ => 4

/-- The class that a q2 command's fields raise (R275); an address that is no multiple of the element's size raises alignment
(log entry 28, DEDUCED), and a broadcast root at or above P is queue misuse (log entry 96, DESIGN CHOICE). -/
def collectiveCheck (s : State) (ctx : Nat) (w : BitVec 64) (d : List Word) : Option Nat :=
  let kind := cmdKind w
  let f := cmdField w 18 3
  let comm := commWord s ctx (cmdComm w)
  if 3 < kind || cmdField w 16 2 == 3 || (2 ≤ kind && cmdField w 16 2 != 0) || 3 < f || (f == 0 && kind < 2) || cmdField w 24 40 != 0
      || !commValid comm then some 8
  else if (kind != 3 && descWord d 5 != 0) || descWord d 6 != 0 || descWord d 7 != 0
      || (kind == 3 && commSize comm ≤ (descWord d 5).toNat) || (kind == 1 && cmdCount d % commSize comm != 0) then some 8
  else if (cmdSource .collective w d).low % collectiveBytes w != 0 || (cmdDest .collective w d).low % collectiveBytes w != 0 then some 5
  else none

/-- The class that a command's fields raise at the QPUSH. -/
def commandCheck (s : State) (ctx : Nat) (e : Engine) (w : BitVec 64) (d : List Word) : Option Nat :=
  match e with
  | .copy _ => copyCheck s ctx w d
  | .gather _ => gatherCheck w d
  | .collective => collectiveCheck s ctx w d

/-! ### Rounding commands (R263) -/

/-- The rounding mode of a q0 command of kind 0 (R264). -/
def commandMode (amr : Word) (w : BitVec 64) : Nat :=
  if cmdField w 24 3 = 7 then (amr.extractLsb' 0 3).toNat else cmdField w 24 3

/-- Whether a command is a rounding command (R263). -/
def roundingCommand (e : Engine) (w : BitVec 64) : Bool :=
  match e with
  | .copy _ => cmdKind w == 0 && cmdField w 16 8 != 0
  | _ => false

/-! ### The end of a command (R258, R260, R262) -/

/-- The unit of an engine in the order log (R388). -/
def engineUnit : Engine → Nat
  | .copy k => unitCopy k
  | .gather k => unitGather k
  | .collective => unitCollective

/-- The oldest command of an engine (R261; log entry 23, DESIGN CHOICE). -/
def headCommand (s : State) (e : Engine) : Option Command := s.commands.find? (fun c => c.engine == e)

/-- The accessor of a command (R22, R23). -/
def Command.accessor (c : Command) : Accessor := { ctx := c.ctx, launch := c.launch, team := c.team, core := c.core }

/-- The record data of a token that no instruction read (R260, R412). -/
def Command.asToken (c : Command) (result : Word × Option Failure) : Token :=
  { reg := c.token, cmd := c.id, lanes := c.lanes, pc := c.pc, word := c.instrWord, result := some result, tag := c.tag, core := c.core }

/-- The engine writes the token register and the token (R258); inside a fence window the state behind the fence too (R217). -/
def Group.putToken (g : Group) (c : Command) (word : Word) (f : Option Failure) : Group :=
  let put (ts : List Token) : List Token := ts.map (fun t => if t.cmd == c.id then { t with result := some (word, f) } else t)
  { g.mend (· == .s c.token) with
    arch := g.arch.setS c.token word
    tokens := put g.tokens
    fence := g.fence.map (fun w =>
      { w with snapshot := w.snapshot.setS c.token word, tokens := put w.tokens, bad := w.bad.filter (· != .s c.token) }) }

/-- A command leaves its queue with a token word (R258): flags, status and failing address; a group that has exited leaves the
failure to its team's retirement (R260). -/
def endCommand (s : State) (c : Command) (flags : BitVec 9) (status : Nat) (addr : BitVec 64) : State :=
  let word : Word := BitVec.ofNat 32 (flags.toNat + status * 2 ^ 16)
  let failure : Option Failure := if status = 0 ∨ status = 3 then none else some { status := status, addr := addr }
  let left := s.commands.filter (fun k => k.id != c.id)
  let s1 := { s with commands := left, ghosts := s.ghosts.filter (fun t => left.any (fun k => k.team == t.id)) }
  if c.discard then s1
  else match s1.groups.find? (fun g => g.team == c.team && g.index == c.index) with
    | some g => s1.setGroup (g.putToken c word failure)
    | none =>
      match failure, s1.team? c.team with
      | some _, some t => s1.setTeam { t with unread := t.unread ++ [(c.asToken (word, failure), c.core, c.slot, c.index)] }
      | _, _ => s1

/-! ### Checked accesses of a command (R260) -/

/-- An access of a command: kind, the atomic op for a read-modify-write, address and bytes. -/
structure Span where
  kind : AccessKind
  op : Nat := 16
  addr : LaneAddr
  bytes : Nat

/-- The failure of the accesses of a command in element order, if any (R260). -/
def spanFailure (s : State) (u : Accessor) (xs : List Span) : Option Failure :=
  let fails := xs.filterMap (fun x => match locate s u x.kind x.op x.bytes x.bytes x.addr with
    | .error c => some (c, x.addr.coded)
    | .ok _ => none)
  match fails.find? (fun f => f.1 != 6), fails with
  | some f, _ => some { status := 1, addr := f.2 }
  | none, f :: _ => some { status := 2, addr := f.2 }
  | none, [] => none

/-- The bytes of a checked read, and whether one is poisoned. -/
def readSpan (s : State) (u : Accessor) (a : LaneAddr) (n : Nat) : List Byte × Bool :=
  match locate s u .load 16 1 n a with
  | .ok p => (readAny s p n, s.poisonedPlace p n)
  | .error _ => (List.replicate n 0, false)

/-- A checked write; poisoned data poisons what it writes (R260, R394). -/
def writeSpan (s : State) (u : Accessor) (a : LaneAddr) (bs : List Byte) (bad : Bool) (tag : BitVec 64) : State :=
  match locate s u .store 16 1 bs.length a with
  | .ok p =>
    let s1 := s.writePlace p bs tag
    if bad then s1.poisonPlace p bs.length else s1
  | .error _ => s

/-- Bytes read one by one, each with its poison, for ends that may cross pages (R23). -/
def readStream (s : State) (u : Accessor) (a : LaneAddr) (n : Nat) : List (Byte × Bool) :=
  (List.range n).flatMap (fun k => let r := readSpan s u (a.plus (k : Nat)) 1
                                   r.1.map (fun b => (b, r.2)))

/-- How many bytes a write reaches before the next poison unit begins (R394). -/
def unitRoom (a : LaneAddr) : Nat :=
  match a with
  | .va x => 32 - x.toNat % 32
  | .handle _ o => 16 - (o % 16).toNat

/-- Contiguous bytes written unit by unit, so that a covered unit loses its poison (R394). -/
def writeStream (u : Accessor) (tag : BitVec 64) : Nat → State → LaneAddr → List (Byte × Bool) → State
  | 0, s, _, _ => s
  | _, s, _, [] => s
  | n + 1, s, a, xs =>
    let c := xs.take (unitRoom a)
    writeStream u tag n (writeSpan s u a (c.map (·.1)) (c.any (·.2)) tag) (a.plus (c.length : Nat)) (xs.drop (unitRoom a))

/-- Writes all of a list of contiguous bytes. -/
def writeAll (s : State) (u : Accessor) (tag : BitVec 64) (a : LaneAddr) (xs : List (Byte × Bool)) : State :=
  writeStream u tag xs.length s a xs

/-- Single-byte spans. -/
def byteSpans (k : AccessKind) (a : LaneAddr) (n : Nat) : List Span :=
  (List.range n).map (fun j => { kind := k, addr := a.plus (j : Nat), bytes := 1 })

end Sys2Proof.Machine
end

