-- ==== Sys2Proof/Machine/Engines.lean ====
section
/-! DEFINITION. What the engines do: COPY_OR_CONVERT, EXPAND, GATHER, SCATTER, SCATTER_ADD, the collectives and LINK_ERROR
(spec/11_data_on_move.md R260 to R277). An engine carries out the oldest command of its queue in one step (log entry 23, DESIGN CHOICE). -/

namespace Sys2Proof.Machine

/-- Carries out the head command of an engine, when it is of the kind of the row. -/
def engineEvent (e : Engine) (kind : Nat) (f : Command → State → Option State) (s : State) : Host.Outcome State Fault Refusal :=
  match headCommand s e with
  | some c =>
    if cmdKind c.word = kind then
      match f c s with
      | some s1 => .next s1
      | none => .refused .notEnabled
    else .refused .notEnabled
  | none => .refused .notEnabled

/-- Ends a command that failed, or performs it (R260). -/
def endOr (s : State) (c : Command) (f : Option Failure) (perform : Unit → State) : State :=
  match f with
  | some x => endCommand s c 0 x.status x.addr
  | none => perform ()

/-- The status of a completed command: 3 if it wrote poison (R258), also where a window of Store 0 discards what it wrote (R198; log
entry 126, DESIGN CHOICE). -/
def doneStatus (bad : Bool) : Nat := if bad then 3 else 0

/-! ### Copy and convert (R263 to R270) -/

/-- The rounding of element k of a q0 command (R263, R267). -/
def commandRounding (s : State) (c : Command) (k : Nat) : Rounding :=
  let amr := s.amr c.ctx
  let mode := commandMode amr c.word
  let low := (lowestLane c.lanes).getD 0
  let keys := match s.launch? c.launch with
    | some l => (l.k0, l.k1)
    | none => (0, 0)
  { mode := mode, inf := !amr.getLsbD 3, flush := !amr.getLsbD 4
    r := if mode = 4 then
        ((counterHash (BitVec.ofNat 32 k) c.sseq (BitVec.ofNat 32 (c.wordIx % 2 ^ 24 + low * 2 ^ 24 + 3 * 2 ^ 30)) c.workId keys.1 keys.2).headD 0).toNat
      else 0 }

/-- The bytes that element k of one end touches: its data, and for a block format its block's scale (R265). -/
def elementSpans (k : AccessKind) (a : LaneAddr) (c : Nat) (scale : Word) (i : Nat) : List Span :=
  if isBlock c then
    let w := copyBits c
    let j := i % 32
    let first := w * j / 8
    byteSpans k (a.plus ((blockBytes c * (i / 32) + first : Nat))) ((w * j + w - 1) / 8 - first + 1)
      ++ [{ kind := k, addr := (a.plus scale.toInt).plus ((i / 32 : Nat)), bytes := 1 }]
  else [{ kind := k, addr := a.plus ((copyBits c / 8 * i : Nat)), bytes := copyBits c / 8 }]

/-- Elements 32 b to 32 b + 31 of a source, or the single element b of a source without blocks: the elements with their poison
and the amount that raises their logs. -/
def sourceElems (s : State) (c : Command) (sf first n : Nat) : List (Elem × Bool) × Int :=
  let u := c.accessor
  let src := cmdSource c.engine c.word c.desc
  let flushIn := (s.amr c.ctx).getLsbD 5
  if isBlock sf then
    let b := first / 32
    let data := readStream s u (src.plus ((blockBytes sf * b : Nat))) (blockBytes sf)
    let sc := readStream s u ((src.plus (descWord c.desc 5).toInt).plus (b : Nat)) 1
    let scale := ((sc.headD (0, false)).1).toNat
    let es := readBlock sf flushIn (data.map (·.1)) scale
    let bad (j : Nat) : Bool :=
      let w := copyBits sf
      sc.any (·.2) || ((data.drop (w * j / 8)).take ((w * j + w - 1) / 8 - w * j / 8 + 1)).any (·.2)
    (((es.1.zip (List.range 32)).drop (first % 32)).take n |>.map (fun e => (e.1, bad e.2)), es.2)
  else
    let z := copyBits sf / 8
    ((List.range n).map (fun k =>
      let r := readSpan s u (src.plus ((z * (first + k) : Nat))) z
      (readElem sf flushIn (leNat r.1), r.2)), 0)

/-- What a copy writes: data bytes, scale bytes, flags. -/
structure Copied where
  data : List (Byte × Bool) := []
  scales : List (Byte × Bool) := []
  flags : BitVec 9 := 0

/-- Appends more of a copy. -/
def Copied.append (a b : Copied) : Copied := { data := a.data ++ b.data, scales := a.scales ++ b.scales, flags := a.flags ||| b.flags }

/-- Bytes that are all poisoned or none. -/
def withPoison (bad : Bool) (bs : List Byte) : List (Byte × Bool) := bs.map (fun b => (b, bad))

/-- Unit number b of a conversion: one block of 32 elements when either format is a block format, else one element. -/
def convertUnit (s : State) (c : Command) (sf df b : Nat) : Copied :=
  let flushOut := (s.amr c.ctx).getLsbD 6
  let blocks := isBlock sf || isBlock df
  let first := if blocks then 32 * b else b
  let (es, off) := sourceElems s c sf first (if blocks then 32 else 1)
  let k (j : Nat) : Rounding := commandRounding s c (first + j)
  if isBlock df then
    let r := blockCodes df (fun j => k j) flushOut off (es.map (·.1))
    let bad := es.any (·.2)
    { data := withPoison bad (packBlock df r.1), scales := withPoison bad [BitVec.ofNat 8 (blockScale df off (es.map (·.1)))], flags := r.2 }
  else
    (es.zip (List.range es.length)).foldl (fun acc e =>
      let r := elemToPlain df (k e.2) flushOut off e.1.1
      acc.append { data := withPoison e.1.2 (leBytes (copyBits df / 8) r.1), flags := r.2 }) {}

/-- A copy of LB8 blocks: elements with canonical NaNs, and the scales as they are (R266). -/
def copyLb8Unit (s : State) (c : Command) (b : Nat) : Copied :=
  let u := c.accessor
  let src := cmdSource c.engine c.word c.desc
  let data := readStream s u (src.plus ((32 * b : Nat))) 32
  { data := data.map (fun x => (BitVec.ofNat 8 (lnCode .ln8 (lnVal .ln8 x.1.toNat)), x.2))
    scales := readStream s u ((src.plus (descWord c.desc 5).toInt).plus (b : Nat)) 1 }

/-- All that a copy or conversion writes (R266 to R270). -/
def copyAll (s : State) (c : Command) : Copied :=
  let sf := cmdField c.word 16 4
  let df := cmdField c.word 20 4
  let n := cmdCount c.desc
  if sf = 0 then { data := readStream s c.accessor (cmdSource c.engine c.word c.desc) n }
  else
    let units := if isBlock sf || isBlock df then n / 32 else n
    (List.range units).foldl (fun acc b =>
      acc.append (if sf = 4 ∧ df = 4 then copyLb8Unit s c b else convertUnit s c sf df b)) {}

/-- COPY_OR_CONVERT: the head command of the cluster's copy-convert engine. -/
def performCopy (c : Command) (s : State) : Option State :=
  let u := c.accessor
  let sf := cmdField c.word 16 4
  let df := cmdField c.word 20 4
  let src := cmdSource c.engine c.word c.desc
  let dst := cmdDest c.engine c.word c.desc
  let spans := (List.range (cmdCount c.desc)).flatMap (fun i =>
    elementSpans .load src sf (descWord c.desc 5) i ++ elementSpans .store dst df (descWord c.desc 6) i)
  some (endOr s c (spanFailure s u spans) (fun _ =>
    let r := copyAll s c
    let s1 := writeAll s u c.tag dst r.data
    let s2 := writeAll s1 u c.tag (dst.plus (descWord c.desc 6).toInt) r.scales
    endCommand s2 c r.flags (doneStatus ((r.data ++ r.scales).any (·.2))) 0))

def execCopyOrConvert (s : State) : Host.Outcome State Fault Refusal := engineEvent (.copy s.event.num) 0 performCopy s

/-! ### Bale blocks (R271, R272) -/

/-- A Bale header (R271). -/
structure BaleHeader where
  payload : BitVec 64
  mode : Nat
  point : Nat
  bit4 : Bool
  fmt : Nat
  sectors : Nat
  zero : Nat
  param : Nat
deriving DecidableEq, Repr

/-- The header in 16 bytes. -/
def baleHeader (bs : List Byte) : BaleHeader :=
  let p := byteField bs 0 8
  { payload := BitVec.ofNat 64 (p / 32 * 32), mode := field p 0 2, point := field p 2 2, bit4 := field p 4 1 = 1,
    fmt := byteField bs 8 1, sectors := byteField bs 9 1 + 1, zero := byteField bs 10 2, param := byteField bs 12 4 }

/-- Bytes of an element of a log-delta block. -/
def baleElement (h : BaleHeader) : Nat := if h.fmt = 2 then 2 else 4

/-- The header keeps R271 as far as it alone shows; the sectors of a zero-mask block depend on its mask. -/
def BaleHeader.formed (h : BaleHeader) : Bool :=
  !h.bit4 && h.zero == 0 && h.sectors ≤ 128 && (match h.mode with
    | 0 => h.fmt == 0 && h.param == 0 && h.sectors == 128
    | 1 => h.fmt == 0 && h.param == 0
    | 2 => (h.fmt == 2 || h.fmt == 3) && 1 ≤ h.param && h.param ≤ 8 * baleElement h
        && h.sectors == (8 * baleElement h + (4096 / baleElement h - 1) * h.param + 255) / 256
    | _ => h.fmt == 0 && h.param < 2 ^ 24 && h.point == 3)

/-- The sectors a zero-mask block needs for its mask (R271); a full mask needs more than a header can give, so its header is
invalid. -/
def maskSectors (mask : Nat) : Nat := 1 + popCount 128 mask

/-- The logical bytes of a log-delta payload (R271). -/
def logDelta (h : BaleHeader) (bits : Nat) : List Byte :=
  let z := baleElement h
  let w := h.param
  let step (acc : Nat × List Byte) (j : Nat) : Nat × List Byte :=
    let v := if j = 0 then field bits 0 (8 * z) else (acc.1 + wrapInt (8 * z) (signed w (field bits (8 * z + (j - 1) * w) w))) % 2 ^ (8 * z)
    (v, acc.2 ++ leBytes z v)
  ((List.range (4096 / z)).foldl step (0, [])).2

/-- The payload bytes from which element j of a log-delta block derives: those up to the last bit of its delta (R260, R271). -/
def deltaBytes (h : BaleHeader) (j : Nat) : Nat := (8 * baleElement h + j * h.param + 7) / 8

/-- The logical bytes of a block with their poison (R260, R271, R394): an element of a log-delta block is poisoned where a byte that it
derives from is, and so is every later one. -/
def expandBlock (h : BaleHeader) (payload : List (Byte × Bool)) : List (Byte × Bool) :=
  match h.mode with
  | 0 => payload
  | 1 =>
    let mask := leNat ((payload.take 16).map (·.1))
    let maskBad := (payload.take 16).any (·.2)
    (List.range 128).flatMap (fun k =>
      if field mask k 1 = 1 then
        ((payload.drop (32 * (1 + popCount k mask))).take 32).map (fun b => (b.1, b.2 || maskBad))
      else List.replicate 32 (0, maskBad))
  | _ =>
    let clean := (payload.takeWhile (fun b => !b.2)).length
    (logDelta h (leNat (payload.map (·.1)))).zipIdx.map (fun b => (b.1, decide (clean < deltaBytes h (b.2 / baleElement h))))

/-- The mask of a zero-mask block names as many sectors as the header stores. -/
def maskFits (h : BaleHeader) (payload : List (Byte × Bool)) : Bool :=
  h.mode != 1 || h.sectors == maskSectors (leNat ((payload.take 16).map (·.1)))

/-- The address of the header of block k, which a status 4 reports (R260). -/
def headerAddr (c : Command) (k : Nat) : LaneAddr := (cmdSource c.engine c.word c.desc).plus ((16 * k : Nat))

/-- The header of block k of an EXPAND, with its poison. -/
def expandHeader (s : State) (c : Command) (k : Nat) : List Byte × Bool :=
  readSpan s c.accessor (headerAddr c k) 16

/-- A header that names a payload which an EXPAND can carry out (R271, R272). -/
def BaleHeader.usable (h : BaleHeader) : Bool := h.formed && h.mode != 3

/-- The address of sector k of a payload. -/
def BaleHeader.sectorAt (h : BaleHeader) (k : Nat) : LaneAddr := .va (h.payload + BitVec.ofNat 64 (32 * k))

/-- The header of block k was read without failing a check (R260). -/
def headerRead (s : State) (c : Command) (k : Nat) : Bool :=
  match locate s c.accessor .load 16 16 16 (headerAddr c k) with
  | .ok _ => true
  | .error _ => false

/-- The accesses of block k in order: its header, the payload that the header names, the destination (R260, R272). -/
def expandSpans (s : State) (c : Command) (k : Nat) : List Span :=
  let h := baleHeader (expandHeader s c k).1
  { kind := .load, addr := headerAddr c k, bytes := 16 }
  :: (if headerRead s c k && h.usable then (List.range h.sectors).map (fun j => ({ kind := .load, addr := h.sectorAt j, bytes := 32 } : Span)) else [])
  ++ byteSpans .store ((cmdDest c.engine c.word c.desc).plus ((4096 * k : Nat))) 4096

/-- Block k of an EXPAND: its header, whether that was poisoned, and its payload. -/
def expandSource (s : State) (c : Command) (k : Nat) : BaleHeader × Bool × List (Byte × Bool) :=
  let r := expandHeader s c k
  let h := baleHeader r.1
  (h, r.2, readStream s c.accessor (h.sectorAt 0) (32 * h.sectors))

/-- EXPAND (R260, R272): an unusable header gives status 4 when every header was read; otherwise the first failing address in element
order counts, and last the masks (log entry 24, DEDUCED). A status 4 reports the first header that it is given for. -/
def performExpand (c : Command) (s : State) : Option State :=
  let ks := List.range (cmdCount c.desc)
  match (if ks.all (headerRead s c) then ks.find? (fun k => !(baleHeader (expandHeader s c k).1).usable) else none) with
  | some k => some (endCommand s c 0 4 (headerAddr c k).coded)
  | none =>
    some (endOr s c (spanFailure s c.accessor (ks.flatMap (expandSpans s c))) (fun _ =>
      let blocks := ks.map (expandSource s c)
      match ks.find? (fun k => !maskFits (expandSource s c k).1 (expandSource s c k).2.2) with
      | some k => endCommand s c 0 4 (headerAddr c k).coded
      | none =>
        let out := blocks.flatMap (fun b => (expandBlock b.1 b.2.2).map (fun x => (x.1, x.2 || b.2.1)))
        endCommand (writeAll s c.accessor c.tag (cmdDest c.engine c.word c.desc) out) c 0 (doneStatus (out.any (·.2))) 0))

def execExpand (s : State) : Host.Outcome State Fault Refusal := engineEvent (.copy s.event.num) 1 performExpand s

/-! ### Gather and scatter (R273, R274) -/

/-- The address of index k, and the index. -/
def indexAddr (c : Command) (k : Nat) : LaneAddr := (LaneAddr.va (descWord c.desc 6 ++ descWord c.desc 5)).plus ((4 * k : Nat))

def indexOf (s : State) (c : Command) (k : Nat) : Nat × Bool :=
  let r := readSpan s c.accessor (indexAddr c k) 4
  (leNat r.1, r.2)

/-- The source and the destination of element k with index x (R274). -/
def gatherEnds (c : Command) (k x : Nat) : LaneAddr × LaneAddr :=
  let z := gatherBytes c.word
  let src := cmdSource c.engine c.word c.desc
  let dst := cmdDest c.engine c.word c.desc
  if cmdKind c.word = 0 then (src.plus ((z * x : Nat)), dst.plus ((z * k : Nat)))
  else (src.plus ((z * k : Nat)), dst.plus ((z * x : Nat)))

/-- The bound of a q1 command. -/
def gatherBound (c : Command) : Nat := (descWord c.desc 7).toNat

/-- The op of a scatter-add as R230 codes it. -/
def scatterOp (c : Command) : Nat := if cmdField c.word 18 2 = 1 then 10 else 2

/-- What a SCATTER_ADD does at a destination: an atomic, but in a generator window a write, which the window's Store bit discards or
refuses like that of any other engine command (R198). -/
def scatterKind (s : State) (c : Command) : LaneAddr → AccessKind
  | .va a => if ((findRange s c.ctx a.toNat).map (rangeKind s c.ctx)) = some 2 then .store else .atomic
  | .handle _ _ => .atomic

/-- The accesses of element k, in order (R260). -/
def gatherSpans (s : State) (c : Command) (k : Nat) : List Span :=
  let idx : Span := { kind := .load, addr := indexAddr c k, bytes := 4 }
  let z := gatherBytes c.word
  match locate s c.accessor .load 16 4 4 (indexAddr c k) with
  | .error _ => [idx]
  | .ok _ =>
    let x := (indexOf s c k).1
    let ends := gatherEnds c k x
    let inside := decide (x < gatherBound c)
    let src : Span := { kind := .load, addr := ends.1, bytes := z }
    match cmdKind c.word with
    | 0 => idx :: (if inside then [src] else []) ++ [{ kind := .store, addr := ends.2, bytes := z }]
    | 1 => idx :: (if inside then [src, { kind := .store, addr := ends.2, bytes := z }] else [])
    | _ => idx :: (if inside then [src, { kind := scatterKind s c ends.2, op := scatterOp c, addr := ends.2, bytes := z }] else [])

def gatherFailure (s : State) (c : Command) : Option Failure :=
  spanFailure s c.accessor ((List.range (cmdCount c.desc)).flatMap (gatherSpans s c))

/-- GATHER (R274). -/
def performGather (c : Command) (s : State) : Option State :=
  let z := gatherBytes c.word
  some (endOr s c (gatherFailure s c) (fun _ =>
    let out := (List.range (cmdCount c.desc)).flatMap (fun k =>
      let x := indexOf s c k
      if x.1 < gatherBound c then
        let r := readSpan s c.accessor (gatherEnds c k x.1).1 z
        withPoison (r.2 || x.2) r.1
      else withPoison x.2 (List.replicate z 0))
    endCommand (writeAll s c.accessor c.tag (cmdDest c.engine c.word c.desc) out) c 0 (doneStatus (out.any (·.2))) 0))

/-- SCATTER (R274): ascending k, so the highest k stands. -/
def performScatter (c : Command) (s : State) : Option State :=
  let z := gatherBytes c.word
  some (endOr s c (gatherFailure s c) (fun _ =>
    let r := (List.range (cmdCount c.desc)).foldl (fun (acc : State × Bool) k =>
      let x := indexOf s c k
      if x.1 < gatherBound c then
        let d := readSpan s c.accessor (gatherEnds c k x.1).1 z
        (writeSpan acc.1 c.accessor (gatherEnds c k x.1).2 d.1 (d.2 || x.2) c.tag, acc.2 || d.2 || x.2)
      else acc) (s, false)
    endCommand r.1 c 0 (doneStatus r.2) 0))

/-- One element of a SCATTER_ADD: an atomic at its location (R219, R274). -/
def scatterAddOne (s : State) (c : Command) (src : List Byte × Bool) (p : Place) : State × BitVec 9 × Bool :=
  let bad := src.2 || s.poisonedPlace p 4
  let r := performRmw s p { op := scatterOp c, width := 4, operand := BitVec.ofNat 64 (leNat src.1), cmp := 0, lane := 0 } (s.amr c.ctx) c.tag
  (if bad then r.1.poisonPlace p 4 else r.1, r.2.2, bad)

/-- The place has storage: it lies in no window (R198). -/
def Place.stored : Place → Bool
  | .window _ _ _ => false
  | _ => true

/-- The elements of a SCATTER_ADD that are not skipped, ascending k. -/
def scatterElements (s : State) (c : Command) : List ScatterElement :=
  (List.range (cmdCount c.desc)).filterMap (fun k =>
    let x := indexOf s c k
    if x.1 < gatherBound c then
      let ends := gatherEnds c k x.1
      match locate s c.accessor (scatterKind s c ends.2) (scatterOp c) 4 4 ends.2 with
      | .ok p => let d := readSpan s c.accessor ends.1 4
                 some { bytes := d.1, bad := d.2 || x.2, place := p }
      | .error _ => none
    else none)

/-- Performs elements in order: the state, and the flags and the poison written with those of before. -/
def scatterAddAll (c : Command) (s : State) (flags : BitVec 9) (bad : Bool) (es : List ScatterElement) : State × BitVec 9 × Bool :=
  es.foldl (fun (acc : State × BitVec 9 × Bool) e =>
    let x := scatterAddOne acc.1 c (e.bytes, e.bad) e.place
    (x.1, acc.2.1 ||| x.2.1, acc.2.2 || x.2.2)) (s, flags, bad)

/-- A SCATTER_ADD in replay: each location is performed when its turn has come; what falls into a window is at none (R391; log entry 134,
DESIGN CHOICE). None while no turn has come. -/
def replayScatterAdd (c : Command) (s : State) : Option State :=
  let w := c.work.getD { left := scatterElements s c }
  let r := chooseEach c.launch c.tag c.team true false c.core s ((w.left.map (·.place)).filter Place.stored).eraseDups
  let ready (e : ScatterElement) : Bool := !e.place.stored || r.taken.contains e.place
  match r.mismatch with
  | some n => some (agentFault s c.launch n c.tag)
  | none =>
    let q := scatterAddAll c r.s w.flags w.bad (w.left.filter ready)
    if r.left = [] then some (endCommand q.1 c q.2.1 (doneStatus q.2.2) 0)
    else if r.taken = [] then none
    else
      let work : ScatterWork := { left := w.left.filter (fun e => !ready e), flags := q.2.1, bad := q.2.2 }
      some { q.1 with commands := q.1.commands.map (fun k => if k.id = c.id then { k with work := some work } else k) }

/-- SCATTER_ADD (R274, R389 kind 1): what falls into a window is at no location. -/
def performScatterAdd (c : Command) (s : State) : Option State :=
  match (if c.work.isSome then none else gatherFailure s c) with
  | some f => some (endCommand s c 0 f.status f.addr)
  | none =>
    if ((s.launch? c.launch).map (·.lh.mode)).getD 0 = 2 then replayScatterAdd c s
    else
      let elems := scatterElements s c
      match chooseAll s c.launch 1 c.tag c.team true (locationItems c.core ((elems.map (·.place)).filter Place.stored)) with
      | .wait => none
      | .mismatch n => some (agentFault s c.launch n c.tag)
      | .go s1 =>
        let r := scatterAddAll c s1 0 false elems
        some (endCommand r.1 c r.2.1 (doneStatus r.2.2) 0)

def execGather (s : State) : Host.Outcome State Fault Refusal := engineEvent (.gather s.event.num) 0 performGather s
def execScatter (s : State) : Host.Outcome State Fault Refusal := engineEvent (.gather s.event.num) 1 performScatter s
def execScatterAdd (s : State) : Host.Outcome State Fault Refusal := engineEvent (.gather s.event.num) 2 performScatterAdd s

/-! ### Collectives (R275 to R277) -/

/-- The collective's communicator word. -/
def collectiveComm (s : State) (c : Command) : Nat := commWord s c.ctx (cmdComm c.word)

/-- The elements that every rank brings (R276): this device's own, and the other ranks' as the event supplies them; none
while some rank has not sent its own. -/
def rankElements (s : State) (c : Command) : Option (List (List Word)) :=
  let comm := collectiveComm s c
  let p := commSize comm
  let z := collectiveBytes c.word
  let n := cmdCount c.desc
  let own := (List.range n).map (fun k =>
    BitVec.ofNat 32 (leNat (readSpan s c.accessor ((cmdSource c.engine c.word c.desc).plus ((z * k : Nat))) z).1))
  if p ≠ 1 ∧ s.event.ranks.length ≠ p then none
  else some ((List.range p).map (fun j => if j = commRank comm then own else s.event.ranks.getD j []))

/-- The op of a reduction with its flags (R276). -/
def reduceOp (amr : Word) (w : BitVec 64) (a b : Word) : Word × BitVec 9 :=
  let m : LnFmt := if cmdField w 18 3 = 1 then .ln16 else .ln32
  let pick (f : LnFmt → LnVal → LnVal → LnVal) : Word := BitVec.ofNat 32 (lnCode m (f m (lnVal m a.toNat) (lnVal m b.toNat)))
  if cmdField w 18 3 = 3 then
    match cmdField w 16 2 with
    | 0 => (a + b, 0)
    | 1 => (if a.toInt ≤ b.toInt then a else b, 0)
    | _ => (if a.toInt ≤ b.toInt then b else a, 0)
  else
    match cmdField w 16 2 with
    | 0 =>
      let r := lnAddCode m (roundAmr amr) a.toNat b.toNat
      (BitVec.ofNat 32 r.1, r.2)
    | 1 => (pick lnMin, 0)
    | _ => (pick lnMax, 0)

/-- Element m of n folded over the ranks in the order of its chunk (R276). -/
def reduceElement (amr : Word) (w : BitVec 64) (n : Nat) (xs : List (List Word)) (m : Nat) : Word × BitVec 9 :=
  let p := xs.length
  let chunk := m / ((n + p - 1) / p)
  let x (j : Nat) : Word := (xs.getD ((chunk + j) % p) []).getD m 0
  (List.range (p - 1)).foldl (fun acc j =>
    let r := reduceOp amr w acc.1 (x (j + 2))
    (r.1, acc.2 ||| r.2)) (x 1, 0)

/-- What a collective writes at this rank, and its flags (R275, R276; log entry 25, DEDUCED). -/
def collectiveOut (s : State) (c : Command) (xs : List (List Word)) : List Word × BitVec 9 :=
  let n := cmdCount c.desc
  let amr := s.amr c.ctx
  let sums := (List.range n).map (reduceElement amr c.word n xs)
  let flags := sums.foldl (fun f r => f ||| r.2) 0
  let r := commRank (collectiveComm s c)
  match cmdKind c.word with
  | 0 => (sums.map (·.1), flags)
  | 1 => let k := n / xs.length
         (((sums.map (·.1)).drop (k * r)).take k, flags)
  | 2 => (xs.flatMap (fun x => (List.range n).map (fun k => x.getD k 0)), 0)
  | _ => let root := xs.getD (descWord c.desc 5).toNat []
         ((List.range n).map (fun k => root.getD k 0), 0)

/-- The elements that a collective writes at this rank. -/
def collectiveCount (s : State) (c : Command) : Nat :=
  let n := cmdCount c.desc
  let p := commSize (collectiveComm s c)
  match cmdKind c.word with
  | 1 => n / p
  | 2 => n * p
  | _ => n

/-- The accesses of a collective in element order (R260). -/
def collectiveSpans (s : State) (c : Command) : List Span :=
  let z := collectiveBytes c.word
  let src := cmdSource c.engine c.word c.desc
  let dst := cmdDest c.engine c.word c.desc
  let n := cmdCount c.desc
  let m := collectiveCount s c
  (List.range (max n m)).flatMap (fun k =>
    (if k < n then [({ kind := .load, addr := src.plus ((z * k : Nat)), bytes := z } : Span)] else [])
    ++ (if k < m then [({ kind := .store, addr := dst.plus ((z * k : Nat)), bytes := z } : Span)] else []))

/-- Whether destination element m derives from a poisoned source element of this rank, or of another rank as the event
says (R260). -/
def collectivePoison (s : State) (c : Command) (m : Nat) : Bool :=
  let z := collectiveBytes c.word
  let n := cmdCount c.desc
  let w := collectiveComm s c
  let bad (k : Nat) : Bool := (readSpan s c.accessor ((cmdSource c.engine c.word c.desc).plus ((z * k : Nat))) z).2
  s.event.poisoned.contains m || (match cmdKind c.word with
    | 0 => bad m
    | 1 => bad (n / commSize w * commRank w + m)
    | 2 => m / n == commRank w && bad (m % n)
    | _ => (descWord c.desc 5).toNat == commRank w && bad m)

/-- The bytes of the elements that a collective writes at this rank, each with its poison, and the flags (R260, R276). -/
def collectiveWrites (s : State) (c : Command) (xs : List (List Word)) : List (List (Byte × Bool)) × BitVec 9 :=
  let r := collectiveOut s c xs
  ((r.1.zip (List.range r.1.length)).map (fun w => withPoison (collectivePoison s c w.2) (leBytes (collectiveBytes c.word) w.1.toNat)), r.2)

/-- A collective: flag says that the headers of the ranks differ, which is found before any address is checked (R277; log entry 116,
DESIGN CHOICE). -/
def performCollective (c : Command) (s : State) : Option State :=
  if s.event.flag then some (endCommand s c 0 5 0)
  else match spanFailure s c.accessor (collectiveSpans s c) with
    | some f => some (endCommand s c 0 f.status f.addr)
    | none => (rankElements s c).map fun xs =>
      let r := collectiveWrites s c xs
      let bytes := r.1.flatten
      endCommand (writeAll s c.accessor c.tag (cmdDest c.engine c.word c.desc) bytes) c r.2 (doneStatus (bytes.any (·.2))) 0

def execAllReduce (s : State) : Host.Outcome State Fault Refusal := engineEvent .collective 0 performCollective s
def execReduceScatter (s : State) : Host.Outcome State Fault Refusal := engineEvent .collective 1 performCollective s
def execAllGather (s : State) : Host.Outcome State Fault Refusal := engineEvent .collective 2 performCollective s
def execBroadcast (s : State) : Host.Outcome State Fault Refusal := engineEvent .collective 3 performCollective s

/-- LINK_ERROR: the head command of the collective engine ends with status 6; nums names the elements that were written, with their
poison, before the link failed (R260, R277). The address reported is the base of the destination, and the status is 6 also where an own
address fails (log entry 130, DESIGN CHOICE). -/
def execLinkError (s : State) : Host.Outcome State Fault Refusal :=
  match headCommand s .collective with
  | none => .refused .notEnabled
  | some c =>
    let dst := cmdDest c.engine c.word c.desc
    let out := match spanFailure s c.accessor (collectiveSpans s c), rankElements s c with
      | none, some xs => (collectiveWrites s c xs).1
      | _, _ => []
    let s1 := s.event.nums.foldl (fun t k =>
      match out[k]? with
      | some bs => writeAll t c.accessor c.tag (dst.plus ((collectiveBytes c.word * k : Nat))) bs
      | none => t) s
    .next (endCommand s1 c 0 6 dst.coded)

end Sys2Proof.Machine
end

