-- ==== Sys2Proof/Machine/Handles.lean ====
section
/-! DEFINITION. TALLOC and TFREE (spec/10_memory_instr.md R239 to R241), and the counts of groups and teams of a launch
(R284, R285, R287). -/

namespace Sys2Proof.Machine

/-- The teams of a launch (R285). -/
def Launch.teamCount (l : Launch) : Nat := (l.lh.extents.drop 1).foldl (fun n x => n * x) 1

/-- The groups of a team of a launch (R287). -/
def Launch.groupCount (l : Launch) : Nat := (l.lh.extents.headD 1 + 63) / 64

/-- The granules of a shape word, 0 for a shape with a zero field (R239). -/
def shapeGranules (shape : Word) : Nat := (field shape.toNat 0 12 * 16 * field shape.toNat 12 20 + 255) / 256

/-- The lowest index that is not held. -/
def lowestIndex (bound : Nat) (held : List Nat) : Option Nat := (List.range bound).find? (fun i => !held.contains i)

/-- The tiles that compete for an owner's index space: the team's Loft, or the launch's Barn on the cluster (R21). -/
def ownerTiles (e : Env) (barn : Bool) : List Tile :=
  if barn then (e.l.barn.filter (fun t => t.1 == clusterOf e.g.core)).map (·.2) else e.t.loft

/-- The index that a TALLOC receives, none if it cannot be satisfied (R239). -/
def allocIndex (e : Env) (barn : Bool) (shape : Word) : Option Nat :=
  let ts := ownerTiles e barn
  let n := shapeGranules shape
  let limit := if barn then Config.barnGranules else Config.loftGranules
  let declared := if barn then e.l.kh.barn else e.l.kh.loft
  if n = 0 ∨ limit < n ∨ declared < (ts.map (·.granules)).sum + n then none
  else lowestIndex (if barn then 1024 else 64) (ts.map (·.index))

/-- Adds a tile to its owner; every byte of it reads as zero (R239). -/
def addTile (s : State) (e : Env) (barn : Bool) (t : Tile) : State :=
  if barn then s.mapLaunch e.l.id (fun l => { l with barn := l.barn ++ [(clusterOf e.g.core, t)] })
  else s.mapTeam e.t.id (fun u => { u with loft := u.loft ++ [t] })

/-- Whether more than one group can compete for the tile table (R240): groups of a team for Loft, groups of the launch, spawned
ones included, for Barn. -/
def tableShared (e : Env) (barn : Bool) : Bool :=
  if barn then 1 < e.l.groupCount * e.l.teamCount || e.l.spawns else 1 < e.t.slots.length

/-- TALLOC (R239, R240, R389 kind 8). -/
def execTalloc (d a : BitVec 6) (barn : Bool) (s : State) : Host.Outcome State Fault Refusal :=
  issue { reads := [sN a], writes := [sN d], fence := .stall }
    (fun x s =>
      let unit := if barn then unitBarn (clusterOf x.core) else x.core
      match (if tableShared x.e barn then choose s x.e.l.id 8 unit (if barn then 1 else 0) x.tag x.e.t.id else .go s) with
      | .wait => .stall
      | .mismatch n => .mismatch n
      | .go s1 =>
        let e1 := (s1.env? x.core x.slot).getD x.e
        let shape := x.arch.getS a.toNat
        let answer (s : State) (h : Nat) : Res :=
          .done { s := s.mapGroup x.core x.slot (fun g => g.bump.addResult { s := [(d.toNat, BitVec.ofNat 32 h)] } [sN d]) }
        match allocIndex e1 barn shape with
        | none => answer s1 0xFFFF
        | some i =>
          answer (addTile s1 e1 barn { index := i, granules := shapeGranules shape, shape := shape, ctx := x.e.l.ctx })
            (i + (if barn then 0x4000 else 0))) s

/-! ### TFREE (R165, R214, R241) -/

/-- A command reaches a handle. -/
def Command.reaches (c : Command) (h : Nat) : Bool :=
  let names (a : LaneAddr) : Bool := match a with
    | .handle k _ => k == h
    | .va _ => false
  names (cmdSource c.engine c.word c.desc) || names (cmdDest c.engine c.word c.desc)

/-- A matrix operation reads through a handle. -/
def MatrixOp.reaches (o : MatrixOp) (h : Nat) : Bool :=
  let names (m : MatrixSource) : Bool := match m with
    | .tile _ => false
    | .scratch d => descHandle d == h
  names o.a || names o.b

/-- The teams that share a handle: the team itself, or for Barn every team of the launch on the cluster (R21). -/
def handleTeams (s : State) (e : Env) (h : Nat) : List Team :=
  if h < 0x4000 then [e.t] else s.teams.filter (fun t => t.launch == e.l.id && clusterOf t.core == clusterOf e.g.core)

/-- The groups on the cores of the teams that share a handle. -/
def handleGroups (s : State) (e : Env) (h : Nat) : List Group :=
  let ids := (handleTeams s e h).map (·.id)
  s.groups.filter (fun g => ids.contains g.team)

/-- A place lies in the tile of a handle. -/
def Place.within (p : Place) (e : Env) (h : Nat) : Bool :=
  match p with
  | .loft t i _ => h < 0x4000 && t == e.t.id && i == h
  | .barn l k i _ => 0x4000 ≤ h && l == e.l.id && k == clusterOf e.g.core && i == field h 0 14
  | _ => false

/-- A held access goes through the handle (R216). -/
def HeldAccess.reaches (a : HeldAccess) (e : Env) (h : Nat) : Bool :=
  match a with
  | .store p _ _ _ => p.within e h
  | .atom p _ _ _ => p.within e h

/-- The command is of a team that shares the handle, or of one that was flushed after the command had started (R262). -/
def Command.shares (c : Command) (e : Env) (h : Nat) : Bool :=
  if h < 0x4000 then c.team == e.t.id else c.launch == e.l.id && clusterOf c.core == clusterOf e.g.core

/-- The group has work that reaches the handle: matrix operations, accesses held past a fence, and while it is saved its undrained RED
entries too (R165, R168, R214). -/
def Group.reaches (g : Group) (e : Env) (h : Nat) (saved : Bool) : Bool :=
  g.matrix.any (fun o => o.reaches h) || (g.fence.map (fun w => w.held.any (fun a => a.reaches e h))).getD false
  || (saved && (g.reds ++ g.batch).any (fun r => r.place.within e h))

/-- A thresher block of the team writes the tile (R278). -/
def blockWrites (s : State) (e : Env) (h : Nat) : Bool :=
  let k := s.coreAt e.g.core
  (k.block.toList ++ k.resuming).any (fun b => b.input.team == e.t.id && b.tile == h)

/-- Work of the teams that share the handle, saved ones included, still reaches it: commands, matrix operations, held accesses, a thresher
block, and what a saved group has yet to drain (R165, R168, R214; log entry 94, DEDUCED). -/
def handleBusy (s : State) (e : Env) (h : Nat) : Bool :=
  s.commands.any (fun c => c.shares e h && c.reaches h)
  || (handleTeams s e h).any (fun t => (s.groupsLive t).any (fun g => g.reaches e h (t.place != .resident)))
  || blockWrites s e h

/-- The handle is named-queue storage of a team that shares its owner (R241). -/
def handleBound (s : State) (e : Env) (h : Nat) : Bool :=
  if h < 0x4000 then e.t.queues.any (fun b => b.handle.toNat == h)
  else s.teams.any (fun t => t.launch == e.l.id && clusterOf t.core == clusterOf e.g.core && t.queues.any (fun b => b.handle.toNat == h))

/-- Removes a tile from its owner. -/
def dropTile (s : State) (e : Env) (h : Nat) : State :=
  let i := field h 0 14
  if h < 0x4000 then s.mapTeam e.t.id (fun u => { u with loft := u.loft.filter (fun t => t.index != i) })
  else s.mapLaunch e.l.id (fun l => { l with barn := l.barn.filter (fun t => !(t.1 == clusterOf e.g.core && t.2.index == i)) })

/-- TFREE (R214, R241): once per issue. It follows every access through the handle, so the RED entries that reach it are drained first
(log entry 94, DEDUCED). -/
def execTfree (a : BitVec 6) (s : State) : Host.Outcome State Fault Refusal :=
  issue { reads := [sN a], fence := .stall }
    (fun x s =>
      let h := (x.arch.getS a.toNat).toNat % 65536
      let held := h < 0x8000 && (ownerTiles x.e (0x4000 ≤ h)).any (fun t => t.index == field h 0 14)
      let reaching (e : RedEntry) : Bool := e.place.within x.e h
      if handleBusy s x.e h then .stall
      else if !held then .fault { cls := 4, addr := BitVec.ofNat 64 h }
      else if handleBound s x.e h then .fault { cls := 8 }
      else drainBefore x s ((handleGroups s x.e h).filter (fun g => (g.reds ++ g.batch).any reaching)) (some reaching)
        (fun s => .done { s := dropTile s x.e h })) s

end Sys2Proof.Machine
end

