-- ==== Sys2Proof/Machine/Queue.lean ====
section
/-! DEFINITION. QPUSH, QPOP, QTRY and QBIND, and the unblocking of a queue instruction (spec/10_memory_instr.md R247 to R253,
spec/11_data_on_move.md R256 to R258 and R278). -/

namespace Sys2Proof.Machine

/-! ### Named queues (R248 to R252) -/

/-- The binding of a named queue of a team. -/
def Team.binding (t : Team) (n : Nat) : Option Binding := t.queues.find? (fun b => b.q == n)

/-- The first byte of a binding's storage, while it is long enough. -/
def storagePlace (s : State) (u : Accessor) (handle : BitVec 16) (capacity : Nat) : Option Place :=
  handlePlace s u handle.toNat 0 (16 + 8 * capacity)

/-- The unit of a queue in the order log (R389). -/
def queueUnit (core : Nat) (handle : BitVec 16) : Nat := if handle.toNat < 0x4000 then core else unitBarn (clusterOf core)

/-- A queue header (R248). -/
structure QueueHeader where
  head : Nat
  tail : Nat
  allowance : Nat
  capacity : Nat
deriving DecidableEq, Repr

def queueHeader (bs : List Byte) : QueueHeader :=
  { head := byteField bs 0 4, tail := byteField bs 4 4, allowance := byteField bs 8 4, capacity := byteField bs 12 2 + 1 }

/-- A header that R252 accepts for a binding. -/
def QueueHeader.ok (h : QueueHeader) (capacity : Nat) : Bool :=
  h.head < capacity && h.tail < capacity && h.allowance ≤ capacity && h.capacity == capacity

/-- What a queue access meets: a fault, a queue on which it must wait, an order-log answer, or the state after it with the entry
popped. -/
inductive QueueAnswer where
  | fault (f : LaneFault)
  | blocked
  | wait
  | mismatch (code : Nat)
  | done (s : State) (entry : BitVec 64)

/-- The check field of a kind-4 entry (R389). -/
def queueCheck (b : Binding) (push : Bool) : Word := BitVec.ofNat 32 (b.handle.toNat + (if push then 0 else 2 ^ 16))

/-- One indivisible access of a named queue (R250 to R252): a push of value, or a pop. logged is the order log's answer to a QTRY in
replay: an entry still names this request, or none does. -/
def accessQueue (s : State) (e : Env) (tag : BitVec 64) (b : Binding) (push : Bool) (value : BitVec 64) (logged : Option Bool := none) :
    QueueAnswer :=
  match storagePlace s e.accessor b.handle b.capacity with
  | none => .fault { cls := 4, addr := b.handle.setWidth 64 }
  | some p =>
    let h := queueHeader (s.readPlace p 16)
    let entry (k : Nat) : Place := p.add (16 + 8 * k)
    if s.poisonedPlace p 16 then .fault { cls := 17, code := 1, addr := b.handle.setWidth 64 }
    else if !h.ok b.capacity then .fault { cls := 8 }
    else if logged = some false then .blocked
    else if h.allowance = (if push then 0 else b.capacity) then
      if logged = some true then
        match choose s e.l.id 4 (queueUnit e.g.core b.handle) (queueCheck b push) tag e.t.id with
        | .mismatch n => .mismatch n
        | _ => .wait
      else .blocked
    else if !push ∧ s.poisonedPlace (entry h.head) 8 then .fault { cls := 17, code := 1, addr := b.handle.setWidth 64 }
    else
      match choose s e.l.id 4 (queueUnit e.g.core b.handle) (queueCheck b push) tag e.t.id with
      | .wait => .wait
      | .mismatch n => .mismatch n
      | .go s1 =>
        if push then
          let s2 := s1.writePlace (entry h.tail) (leBytes 8 value.toNat) tag
          .done (s2.writePlace (p.add 4) (leBytes 4 ((h.tail + 1) % b.capacity) ++ leBytes 4 (h.allowance - 1)) tag) 0
        else
          let v := BitVec.ofNat 64 (leNat (s1.readPlace (entry h.head) 8))
          let s2 := s1.writePlace p (leBytes 4 ((h.head + 1) % b.capacity)) tag
          .done (s2.writePlace (p.add 8) (leBytes 4 (h.allowance + 1)) tag) v

/-- The group blocks at its queue word (R253). -/
def blockQueue (x : Issue) (s : State) (push : Bool) (n reg : Nat) : Res :=
  .done { s := s.mapGroup x.core x.slot (fun g => { g with wait := .queue push n reg }), stay := true }

/-! ### Pushing (R250, R256 to R258, R278) -/

/-- The engine behind q0, q1 and q2 of a core (R18). -/
def engineOf (core n : Nat) : Engine :=
  match n with
  | 0 => .copy (clusterOf core)
  | 1 => .gather (clusterOf core)
  | _ => .collective

/-- The path of a QPUSH (R207). -/
def queuePath (n : Nat) : BitVec 6 :=
  match n with
  | 0 => 0x02
  | 1 => 0x08
  | 2 => 0x10
  | 3 => 0x20
  | _ => 0

/-- The command word of a QPUSH. -/
def pushWord (x : Issue) (a : BitVec 6) : BitVec 64 := x.arch.getS64 a.toNat

/-- A QPUSH to an engine whose command word is known: no tracked token stands in it. -/
def commandKnown (x : Issue) (n a : Nat) : Bool := n ≤ 2 && !(x.e.g.tokens.any (fun t => t.result.isNone && (t.reg == a || t.reg == a + 1)))

/-- Pushes a command (R257, R258): its checks, the tokens, the queue's room, and its turn in the order log. The record of an alignment
fault holds the source address (R265; log entry 97, DESIGN CHOICE). -/
def pushCommand (x : Issue) (s : State) (n : Nat) (a : BitVec 6) : Res :=
  let w := pushWord x a
  let e := engineOf x.core n
  let t := cmdToken w
  let desc := (List.range 8).map (fun k => x.arch.getS (cmdDesc w + k))
  if x.e.g.tokens.any (fun k => k.reg == t && k.result.isNone) then .fault { cls := 8 }
  else match commandCheck s x.e.l.ctx e w desc with
    | some c => .fault { cls := c, addr := if c = 5 then (cmdSource e w desc).coded else 0 }
    | none =>
      if 16 ≤ (x.e.g.tokens.filter (·.result.isNone)).length then .stall
      else if 64 ≤ (s.commands.filter (fun c => c.engine == e)).length then blockQueue x s true n a.toNat
      else match choose s x.e.l.id 5 (engineUnit e) 0 x.tag x.e.t.id with
        | .wait => .stall
        | .mismatch m => .mismatch m
        | .go s1 =>
          let low := (lowestLane x.active).getD 0
          let c : Command :=
            { id := s1.nextId, engine := e, team := x.e.t.id, launch := x.e.l.id, ctx := x.e.l.ctx, core := x.core, slot := x.slot,
              index := x.e.g.index, token := t, lanes := x.active, word := w, desc := desc, pc := x.entry.pc, instrWord := s.fetched,
              wordIx := x.wordIx, sseq := x.arch.sseq, workId := (x.e.workId low).setWidth 32, tag := x.tag }
          let k : Token := { reg := t, cmd := c.id, lanes := x.active, pc := x.entry.pc, word := s.fetched, tag := x.tag, core := x.core }
          let s2 := { s1 with commands := s1.commands ++ [c], nextId := s1.nextId + 1 }
          let rounds := roundingCommand e w && commandMode x.amr w == 4
          .done { s := s2.mapGroup x.core x.slot (fun g =>
                    { g.bump with tokens := g.tokens ++ [k], arch := if rounds then { g.arch with sseq := g.arch.sseq + 1 } else g.arch }) }

/-- Feeds the thresher of the core (R278). -/
def pushThresher (x : Issue) (s : State) (a : BitVec 6) : Res :=
  let w := pushWord x a
  let k := s.coreAt x.core
  if w.extractLsb' 0 4 ≠ 0 then .fault { cls := 8 }
  else if 32 ≤ k.inputs.length then blockQueue x s true 3 a.toNat
  else
    let i : ThrInput := { team := x.e.t.id, group := x.e.g.index, word := w, id := s.nextId, tag := x.tag }
    .done { s := { (s.setCore x.core { k with inputs := k.inputs ++ [i] }).mapGroup x.core x.slot Group.bump with nextId := s.nextId + 1 } }

/-- Pushes to a named queue (R250). -/
def pushNamed (x : Issue) (s : State) (n : Nat) (a : BitVec 6) : Res :=
  match x.e.t.binding n with
  | none => .fault { cls := 8 }
  | some b =>
    match accessQueue s x.e x.tag b true (pushWord x a) with
    | .fault f => .fault f
    | .blocked => blockQueue x s true n a.toNat
    | .wait => .stall
    | .mismatch m => .mismatch m
    | .done s1 _ => .done { s := s1.mapGroup x.core x.slot Group.bump }

/-- QPUSH (R247, R250, R256, R278). -/
def execQpush (n : BitVec 4) (a : BitVec 6) (s : State) : Host.Outcome State Fault Refusal :=
  issue { badReg := oddS a, reads := sPair a, paths := queuePath n.toNat, fence := .stall
          badIn := fun x => commandKnown x n.toNat a.toNat && cmdDesc (pushWord x a) % 8 != 0
          commandReads := fun x => if commandKnown x n.toNat a.toNat then
              (List.range 8).map (fun k => .s (cmdDesc (pushWord x a) + k)) else []
          commandWrites := fun x => if commandKnown x n.toNat a.toNat then [.s (cmdToken (pushWord x a))] else [] }
    (fun x s =>
      if n.toNat ≤ 2 then pushCommand x s n.toNat a
      else if n.toNat = 3 then pushThresher x s a
      else if n.toNat < 8 then .fault { cls := 8 }
      else pushNamed x s n.toNat a) s

/-! ### Popping (R251, R278) -/

/-- What a pop of q4 or of a named queue meets (R251, R278). -/
def popAnswer (x : Issue) (s : State) (n : Nat) (logged : Option Bool := none) : QueueAnswer :=
  if n = 4 then
    let k := s.coreAt x.core
    match k.results.find? (fun r => r.team == x.e.t.id && r.group == x.e.g.index) with
    | none => .blocked
    | some r => .done (s.setCore x.core { k with results := k.results.erase r }) r.entry
  else if n < 8 then .fault { cls := 8 }
  else match x.e.t.binding n with
    | none => .fault { cls := 8 }
    | some b => accessQueue s x.e x.tag b false 0 logged

/-- In replay, whether an unconsumed entry of the unit of q(n) names this request of the group (R388, R389 kind 4). -/
def popLogged (x : Issue) (s : State) (n : Nat) : Option Bool :=
  if x.e.l.lh.mode ≠ 2 then none
  else (x.e.t.binding n).map fun b =>
    !s.namesake x.e.l.id x.e.t.id x.tag
    && ((s.launch? x.e.l.id).getD x.e.l).log.any (fun k => !k.used && k.unit == queueUnit x.core b.handle && k.kind == 4 && k.chosen == x.tag)

/-- The cells of a popped entry. -/
def poppedCells (d : Nat) (v : BitVec 64) : List (Nat × Word) := [(d, v.setWidth 32), (d + 1, v.extractLsb' 32 32)]

/-- QPOP (R251). -/
def execQpop (d : BitVec 6) (n : BitVec 4) (s : State) : Host.Outcome State Fault Refusal :=
  issue { badReg := oddS d, writes := sPair d, fence := .stall }
    (fun x s =>
      match popAnswer x s n.toNat with
      | .fault f => .fault f
      | .blocked => blockQueue x s false n.toNat d.toNat
      | .wait => .stall
      | .mismatch m => .mismatch m
      | .done s1 v =>
        .done { s := s1.mapGroup x.core x.slot (fun g => g.bump.addResult { s := poppedCells d.toNat v } (sPair d)) }) s

/-- QTRY (R251): on an empty queue it writes only s(b). A pop is a choice that replay forces and an empty answer is none: in replay a QTRY
that an entry of the log still names waits for its entry of the queue, and one that none names answers as on an empty queue (R253, R391;
log entry 128, DEDUCED). The status comes last, so it stands where s(b) is a half of the entry (log entry
114, DESIGN CHOICE). -/
def execQtry (d : BitVec 6) (n : BitVec 4) (b : BitVec 6) (s : State) : Host.Outcome State Fault Refusal :=
  issue { badReg := oddS d, writes := sPair d ++ [sN b], fence := .stall }
    (fun x s =>
      let deliver (s : State) (cells : List (Nat × Word)) : Res :=
        .done { s := s.mapGroup x.core x.slot (fun g => g.bump.addResult { s := cells } (sPair d ++ [sN b])) }
      match popAnswer x s n.toNat (popLogged x s n.toNat) with
      | .fault f => .fault f
      | .blocked => deliver s [(b.toNat, 0)]
      | .wait => .stall
      | .mismatch m => .mismatch m
      | .done s1 v => deliver s1 (poppedCells d.toNat v ++ [(b.toNat, 1)])) s

/-- QUEUE_UNBLOCK: the word at which the group waits completes, when its queue now lets it (R253). -/
def execQueueUnblock (s : State) : Host.Outcome State Fault Refusal :=
  match s.group? s.event.core s.event.slot with
  | none => .refused .notEnabled
  | some g =>
    match g.wait with
    | .queue push n reg =>
      let s1 := { s.setGroup { g with wait := .none } with issuer := some (g.core, g.slot), fetched := g.waitWord }
      let q := BitVec.ofNat 4 n
      let r := BitVec.ofNat 6 reg
      match (if push then execQpush q r s1 else execQpop r q s1) with
      | .next s2 =>
        let waits := match s2.group? g.core g.slot with
          | some h => (match h.wait with
            | .queue _ _ _ => true
            | _ => false)
          | none => false
        if s2.stalled || waits then .refused .notEnabled else .next { s2 with issuer := none }
      | r => r
    | _ => .refused .notEnabled

/-! ### Binding (R249) -/

/-- The header that QBIND.init writes (R248, R249). -/
def freshHeader (capacity : Nat) : List Byte := record 16 [(8, 4, capacity), (12, 2, capacity - 1)]

/-- Binds q(n) to the storage that s(a) names, and writes a fresh header for init (R249). Queue misuse comes before a handle that fails or
is too small (log entry 119, DESIGN CHOICE). -/
def bindQueue (init : Bool) (n : BitVec 4) (a : BitVec 6) (s : State) : Host.Outcome State Fault Refusal :=
  issue { reads := [sN a], fence := .stall }
    (fun x s =>
      let w := (x.arch.getS a.toNat).toNat
      let b : Binding := { q := n.toNat, handle := BitVec.ofNat 16 w, capacity := field w 16 12 + 1 }
      if n.toNat < 8 || field w 28 4 != 0 || (x.e.t.binding n.toNat).isSome then .fault { cls := 8 }
      else match storagePlace s x.e.accessor b.handle b.capacity with
        | none => .fault { cls := 4, addr := b.handle.setWidth 64 }
        | some p =>
          let s1 := s.mapTeam x.e.t.id (fun t => { t with queues := t.queues ++ [b] })
          .done { s := if init then (s1.writePlace p (freshHeader b.capacity) x.tag).mapGroup x.core x.slot Group.bump else s1 }) s

def execQbindInit (n : BitVec 4) (a : BitVec 6) (s : State) : Host.Outcome State Fault Refusal := bindQueue true n a s

def execQbindAttach (n : BitVec 4) (a : BitVec 6) (s : State) : Host.Outcome State Fault Refusal := bindQueue false n a s

/-- The fault of a group that waits at a word (R249, R331). -/
def Env.waitTrap (e : Env) (s : State) (cls : Nat) : Trap := { e.headTrap s cls 0 with resume := e.g.arch.issuing.map (·.pc) }

/-- QBIND.unbind (R249): groups blocked on the queue take a queue-misuse fault at their word. -/
def execQbindUnbind (n : BitVec 4) (s : State) : Host.Outcome State Fault Refusal :=
  issue { fence := .stall }
    (fun x s =>
      if n.toNat < 8 || (x.e.t.binding n.toNat).isNone then .fault { cls := 8 }
      else
        let s1 := s.mapTeam x.e.t.id (fun t => { t with queues := t.queues.filter (fun b => b.q != n.toNat) })
        let blocked := (s1.groups.filter (fun g => g.team == x.e.t.id)).filter (fun g => match g.wait with
          | .queue _ m _ => m == n.toNat
          | _ => false)
        .done { s := blocked.foldl (fun s g => match s.env? g.core g.slot with
          | some e => s.setGroup ({ g with wait := .none }.addAfter [e.waitTrap s 8])
          | none => s) s1 }) s

end Sys2Proof.Machine
end

