-- ==== Sys2Proof/Machine/Results.lean ====
section
/-! DEFINITION. FENCE.X with its completion and rollback, and the arrival of variable-latency results
(spec/02_encoding.md R39, spec/09_ordering_model.md R215 to R218, spec/10_memory_instr.md R233 and R238). -/

namespace Sys2Proof.Machine

/-! ### FENCE.X (R215, R216, R238) -/

/-- What the group has issued on the paths of a set and what is not done yet (R215). -/
def fenceWaits (s : State) (e : Env) (set : BitVec 6) : List Nat :=
  let own (c : Command) : Bool := c.team == e.t.id && c.index == e.g.index && (match c.engine with
    | .copy _ => set.getLsbD 1
    | .gather _ => set.getLsbD 3
    | .collective => set.getLsbD 4)
  let k := s.coreAt e.g.core
  let inputs := k.inputs ++ k.resuming.map (·.input) ++ (k.block.map (·.input)).toList
  (s.commands.filter own).map (·.id)
  ++ (if set.getLsbD 2 then e.g.matrix.map (·.id) else [])
  ++ (if set.getLsbD 5 then (inputs.filter (fun i => i.team == e.t.id && i.group == e.g.index)).map (·.id) else [])

/-- FENCE.X (R215, R238): with nothing to wait for it completes at issue. -/
def execFenceX (set : BitVec 6) (s : State) : Host.Outcome State Fault Refusal :=
  issue { fence := .stall }
    (fun x s =>
      let ws := fenceWaits s x.e set
      if ws.isEmpty then .done { s := s }
      else if set.getLsbD 0 then
        let w : FenceWin := { set := set, waits := ws, snapshot := x.arch, word := s.fetched, tokens := x.e.g.tokens, heldFlags := x.e.g.heldFlags,
                               after := x.e.g.after, bad := x.e.g.bad }
        .done { s := s.setGroup { x.e.g with fence := some w } }
      else .done { s := s.setGroup { x.e.g with soft := x.e.g.soft ++ [{ set := set, waits := ws, next := s.nextId }] } }) s

/-! ### FENCE_COMPLETION (R216) -/

/-- A command, matrix operation or thresher input with the number is not done. -/
def numberLive (s : State) (g : Group) (id : Nat) : Bool :=
  let k := s.coreAt g.core
  s.commands.any (fun c => c.id == id) || g.matrix.any (fun o => o.id == id) || k.inputs.any (fun i => i.id == id)
  || k.resuming.any (fun b => b.input.id == id) || (match k.block with
    | some b => b.input.id == id
    | none => false)

/-- What held accesses brought: the results of the atomics, one for each instruction, that of one which waits for some of its locations,
how many accesses were performed, and those that were not. -/
structure Performed where
  s : State
  results : List VarResult := []
  part : Option VarResult := none
  count : Nat := 0
  left : List HeldAccess := []
  mismatch : Option Nat := none

/-- The group's window must roll back. -/
def rollbackIsDue (s : State) (core slot : Nat) : Bool :=
  match (s.group? core slot).bind Group.fence with
  | some w => w.rollbackDue
  | none => false

/-- A lane of a held ATOM: the place, the operation, the register that receives what it observes, and its position among the held
accesses. -/
abbrev HeldAtom := Place × Rmw × Nat × Nat

/-- The atomics of one instruction at the head of the held accesses, from a position on: they carry one tag. -/
def sameAtoms (tag : BitVec 64) : Nat → List HeldAccess → List HeldAtom
  | n, .atom p r d t :: hs => if t = tag then (p, r, d, n) :: sameAtoms tag (n + 1) hs else []
  | _, _ => []

/-- The position that a held access of the group has when it is performed. -/
def Env.ownAccess (e : Env) (lane position : Nat) (atom : Bool) : OwnAccess :=
  { core := e.g.core, slot := e.g.slot, lane := lane, position := position, atom := atom }

/-- Performs one lane of a held ATOM where its walk has put it (R216, R359; log entry 88, DEDUCED); its result joins that of its
instruction. -/
def performAtom (e : Env) (amr : Word) (tag : BitVec 64) (acc : State × VarResult) (r : HeldAtom) : State × VarResult :=
  let x := performRmw acc.1 r.1 r.2.1 amr tag (some (e.ownAccess r.2.1.lane r.2.2.2 true))
  (x.1, { acc.2 with v := acc.2.v ++ observedCells r.2.2.1 r.2.1.lane r.2.1.width x.2.1
                     flags := acc.2.flags ++ (if x.2.2 = 0 then [] else [(r.2.1.lane, x.2.2)]) })

/-- Performs lanes of one held ATOM: its result so far. -/
def performAtoms (e : Env) (amr : Word) (tag : BitVec 64) (p : Performed) (rs : List HeldAtom) : State × VarResult :=
  rs.foldl (performAtom e amr tag) (p.s, p.part.getD { spec := true, atom := true })

/-- Performs a held store where its walk has put it (R216, R359; log entry 88, DEDUCED). -/
def performStore (e : Env) (p : Performed) (q : Place) (lane : Nat) (bs : List Byte) (tag : BitVec 64) : Performed :=
  { p with s := p.s.writePlace q bs tag (some (e.ownAccess lane p.count false)), count := p.count + 1 }

/-- Performs held accesses in issue order until a location of one must wait for its turn in the order log, or a rollback becomes due
(R216, R217, R391; log entries 20, DEDUCED, and 134, DESIGN CHOICE). -/
def performHeld (e : Env) (amr : Word) : Nat → List HeldAccess → Performed → Performed
  | 0, hs, p => { p with left := hs }
  | _, [], p => p
  | n + 1, h :: hs, p =>
    if rollbackIsDue p.s e.g.core e.g.slot then { p with left := h :: hs }
    else match h with
      | .store q lane bs tag => performHeld e amr n hs (performStore e p q lane bs tag)
      | .atom _ _ _ tag =>
        let rs := sameAtoms tag p.count (h :: hs)
        let rest := hs.drop (rs.length - 1)
        let c := chooseEach e.l.id tag e.t.id true true e.g.core p.s (rs.map (·.1)).eraseDups
        let taken := rs.filter (fun r => c.taken.contains r.1)
        let r := performAtoms e amr tag { p with s := c.s } taken
        if c.left = [] then
          performHeld e amr n rest { p with s := r.1, results := p.results ++ [r.2], part := none, count := p.count + rs.length }
        else
          { p with s := r.1, part := if taken = [] then p.part else some r.2, count := p.count + taken.length, mismatch := c.mismatch
                   left := (rs.filter (fun r => !c.taken.contains r.1)).map (fun r => .atom r.1 r.2.1 r.2.2.1 tag) ++ rest }

/-- The fence is complete and its held accesses are performed: the window closes (R216). -/
def Group.closeFence (g : Group) : Group :=
  { g with fence := none, outstanding := (g.outstanding.filter (!·.held)).map (fun r => { r with spec := false }) }

/-- The results of held ATOMs take the places that were kept for them (R216, R387). -/
def Group.bring (g : Group) (rs : List VarResult) : Group :=
  { g with outstanding := rs.foldl (fun os r => os.eraseP (·.held) ++ [r]) g.outstanding }

/-- The group after some of its held accesses have been performed: the window closes with the last, and the group parks if it waited
for the results (R216). While others wait for their turn nothing of it rolls back any more. -/
def Group.afterHeld (g : Group) (p : Performed) (amr : Word) : Group :=
  match g.fence with
  | none => g
  | some w =>
    if p.left = [] then g.closeFence.unpark amr
    else { g with fence := some { w with held := p.left, watched := [], completing := true, part := p.part } }

/-- The window must roll back before any held access is performed (R217; log entry 20, DEDUCED). -/
def Group.markRollback (g : Group) : Group := { g with fence := g.fence.map (fun w => { w with rollbackDue := true }) }

/-- What a fence that names T does when nothing it waits for is left: it performs the held accesses; where one of them would roll the
group back, none is performed and the rollback is due; none while the first must wait for its turn (R216, R217). -/
def completeFence (s : State) (e : Env) (w : FenceWin) : Option State :=
  let amr := s.amr e.l.ctx
  let p := performHeld e amr (w.held.length + 1) w.held { s := s, part := w.part }
  match p.mismatch with
  | some c => some (replayWaiting p.s e c)
  | none =>
    if rollbackIsDue p.s e.g.core e.g.slot then some (s.setGroup e.g.markRollback)
    else if p.count = 0 && !w.held.isEmpty then none
    else some (p.s.mapGroup e.g.core e.g.slot (fun g => (g.bring p.results).afterHeld p amr))

/-- FENCE_COMPLETION: fences that do not name T end when nothing they wait for is left; one that names T performs the held
accesses and closes (R215, R216). -/
def execFenceCompletion (s : State) : Host.Outcome State Fault Refusal :=
  match s.env? s.event.core s.event.slot with
  | none => .refused .notEnabled
  | some e =>
    let ended (ws : List Nat) : Bool := !(ws.any (numberLive s e.g))
    if e.g.soft.any (fun f => ended f.waits) then .next (s.setGroup { e.g with soft := e.g.soft.filter (fun f => !ended f.waits) })
    else match e.g.fence with
      | none => .refused .notEnabled
      | some w =>
        if !ended w.waits || w.rollbackDue then .refused .notEnabled
        else match completeFence s e w with
          | some s1 => .next s1
          | none => .refused .notEnabled

/-! ### FENCE_ROLLBACK (R217) -/

/-- The registers in error after a rollback: those of the snapshot, and the accumulators, which it does not restore (R217, R394). -/
def Group.badBehind (g : Group) (w : FenceWin) : List RegRef :=
  let accumulator : RegRef → Bool := fun r => match r with
    | .a _ => true
    | _ => false
  w.bad.filter (fun r => !accumulator r) ++ g.bad.filter accumulator

/-- The group as it was behind its fence: the state the fence saved, at the word after it. -/
def Group.rollBack (g : Group) (w : FenceWin) (amr : Word) : Group :=
  match w.snapshot.issuing with
  | none => g
  | some e =>
    let a := w.snapshot.advance e (w.snapshot.fallThrough e)
    let g1 : Group :=
      { g with arch := a, tokens := w.tokens, heldFlags := w.heldFlags, after := w.after, bad := g.badBehind w, wait := .none
               outstanding := g.outstanding.filter (fun r => !r.spec && !r.held)
               fence := some { w with held := [], watched := [], issued := 0, rollbacks := w.rollbacks + 1, rollbackDue := false } }
    g1.marker amr e.pc w.word e.mask

/-- FENCE_ROLLBACK: a write to a watched unit has taken its place (R217). -/
def execFenceRollback (s : State) : Host.Outcome State Fault Refusal :=
  match s.env? s.event.core s.event.slot with
  | none => .refused .notEnabled
  | some e =>
    match e.g.fence with
    | some w => if w.rollbackDue then .next (s.setGroup (e.g.rollBack w (s.amr e.l.ctx))) else .refused .notEnabled
    | none => .refused .notEnabled

/-! ### VARIABLE_LATENCY_RESULT (R39, R182, R233) -/

/-- An ARD takes its snapshot when it is delivered (R182): the result with its values, and the registers it poisons (R411). -/
def Group.snapshotArd (g : Group) (r : VarResult) : VarResult :=
  match r.ard with
  | none => r
  | some (n, _, _, _) => (serveArd n { g with outstanding := [r] }).outstanding.headD r

/-- Writes result number n of a group, and ends its park when it was the last (R39). -/
def Group.takeResult (g : Group) (amr : Word) (n : Nat) (r0 : VarResult) : Group :=
  let r := g.snapshotArd r0
  let g1 : Group :=
    { g with
      arch := g.arch.deliver r
      heldFlags := g.heldFlags ++ r.flags
      outstanding := g.outstanding.eraseIdx n
      bad := r.badAfter g.bad
      fence := g.fence.map (fun w => if r.spec then w else
        { w with snapshot := w.snapshot.deliver r, heldFlags := w.heldFlags ++ r.flags, bad := r.badAfter w.bad }) }
  g1.unpark amr

/-- VARIABLE_LATENCY_RESULT: result number num of a group arrives (R39); a held atomic's waits for its fence (R216). -/
def execVariableLatencyResult (s : State) : Host.Outcome State Fault Refusal :=
  match s.env? s.event.core s.event.slot with
  | none => .refused .notEnabled
  | some e =>
    match e.g.outstanding[s.event.num]? with
    | none => .refused .notEnabled
    | some r => if r.held then .refused .notEnabled else .next (s.setGroup (e.g.takeResult (s.amr e.l.ctx) s.event.num r))

end Sys2Proof.Machine
end

