-- ==== Sys2Proof/Machine/Thresher.lean ====
section
/-! DEFINITION. The thresher slot: taking an input, the THR instructions, and the end of a block (spec/11_data_on_move.md R278 to
R282). -/

namespace Sys2Proof.Machine

/-! ### Blocks (R279, R282) -/

def State.setBlock (s : State) (core : Nat) (b : Option ThrBlock) : State := s.setCore core { s.coreAt core with block := b }

/-- The results of a team in progress or unpopped (R278). -/
def teamResults (k : Core) (team : Nat) : Nat :=
  (k.results.filter (fun r => r.team == team)).length + (k.resuming.filter (fun b => b.input.team == team)).length
    + (match k.block with
      | some b => if b.input.team = team then 1 else 0
      | none => 0)

/-- The q4 entry of a block that ends (R279). -/
def blockEntry (b : ThrBlock) (status word : Nat) : BitVec 64 :=
  BitVec.ofNat 64 ((if status = 0 then b.tile else 0xFFFF) + b.emitted * 2 ^ 16 + status * 2 ^ 32 + word % 2 ^ 24 * 2 ^ 40)

/-- A block ends with a status: its entry enters the q4 of the group that pushed its input, and a failed one releases its tile
(R278, R279). -/
def endBlock (s : State) (core : Nat) (b : ThrBlock) (status word : Nat) : State :=
  let s1 := if status = 0 then s
    else s.mapTeam b.input.team (fun t => { t with loft := t.loft.filter (fun x => x.index != b.tile) })
  let k := s1.coreAt core
  s1.setCore core { k with block := none, results := k.results ++ [{ team := b.input.team, group := b.input.group, entry := blockEntry b status word }] }

/-- The accessor of a block's source reads and tile writes. -/
def blockAccessor (s : State) (core : Nat) (team : Nat) : Option Accessor :=
  (s.team? team).bind fun t => (s.launch? t.launch).map fun l => { ctx := l.ctx, launch := l.id, team := team, core := core }

/-- The status of a failed source read (R279). -/
def sourceStatus (cls : Nat) : Nat := if cls = 17 then 7 else 6

/-! ### The bit stream (R271, R281, R282) -/

/-- Sector k of the payload: read once and kept. A sector in a generator window has the values of the entries in force when it is read;
a GSET waits for no block (R202; log entry 90, DESIGN CHOICE). -/
def fetchSector (s : State) (core : Nat) (b : ThrBlock) (k : Nat) : Except Nat (List Byte × ThrBlock) :=
  let fresh : Except Nat (List Byte × ThrBlock) :=
    match blockAccessor s core b.input.team with
    | none => .error 6
    | some u =>
      match checkVirtual s u .load 16 false 32 (b.payload + BitVec.ofNat 64 (32 * k)).toNat 32 with
      | .error c => .error (sourceStatus c)
      | .ok p =>
        let bs := readAny s p 32
        .ok (bs, { b with sector := some (k, bs) })
  match b.sector with
  | some (j, bs) => if j = k then .ok (bs, b) else fresh
  | none => fresh

/-- n bytes of the payload from byte i, as a number. -/
def payloadBytes (s : State) (core : Nat) : Nat → Nat → ThrBlock → Except Nat (Nat × ThrBlock)
  | 0, _, b => .ok (0, b)
  | n + 1, i, b =>
    match fetchSector s core b (i / 32) with
    | .error c => .error c
    | .ok (bs, b1) =>
      match payloadBytes s core n (i + 1) b1 with
      | .error c => .error c
      | .ok (x, b2) => .ok ((bs.getD (i % 32) 0).toNat + 256 * x, b2)

/-- get(n): the next n bits, or the status of an overrun or a failed read (R281). -/
def getBits (s : State) (core : Nat) (b : ThrBlock) (n : Nat) : Except Nat (Nat × ThrBlock) :=
  if b.sectors * 256 < b.bit + n then .error 2
  else
    let first := b.bit / 8
    match payloadBytes s core ((b.bit + n - 1) / 8 - first + 1) first b with
    | .error c => .error c
    | .ok (x, b1) => .ok (x / 2 ^ (b.bit % 8) % 2 ^ n, b1)

/-! ### One word (R280, R281) -/

/-- What a word does to a block: the state, the block, and the status with which it ends, if it does. -/
structure Threshed where
  s : State
  b : ThrBlock
  status : Option Nat := none

def ThrBlock.reg (b : ThrBlock) (n : BitVec 4) : Word := smGet (0 : Word) n.toNat b.h
def ThrBlock.setReg (b : ThrBlock) (n : BitVec 4) (x : Word) : ThrBlock := { b with h := smSet (0 : Word) n.toNat x b.h }
def ThrBlock.entry (b : ThrBlock) (k : Nat) : Word := smGet (0 : Word) (k % 256) b.table
def ThrBlock.setEntry (b : ThrBlock) (k : Nat) (x : Word) : ThrBlock := { b with table := smSet (0 : Word) (k % 256) x b.table }

/-- The words that a block may execute (R280). -/
def thrStepLimit : Nat := 2 ^ 20

/-- A block at the first hint of the run it is in: a pause keeps no LIMM, so the run is issued again (R43, R282, R384; log entry 75,
DEDUCED). -/
def ThrBlock.rewind (b : ThrBlock) : ThrBlock := { b with pc := b.pc - b.hints, steps := b.steps - b.hints, limm := none, hints := 0 }

/-- Executes one word of the block in the issuing thresher slot (R280); in an ordinary slot the word is illegal (R37). A word that is
illegal ends the block with status 1 wherever it stands; the word index reported for a LIMM before another target is the target's (log
entry 115, DESIGN CHOICE). A legal word past the limit only counts, and the limit then ends the block. -/
def issueThr (hint limm bad : Bool) (f : Nat → State → ThrBlock → Threshed) (s : State) : Host.Outcome State Fault Refusal :=
  match s.issuer with
  | none => .fault .noThresherBlock
  | some (core, slot) =>
    if slot ≠ Config.thresherSlot then issue { illegal := true } (fun _ _ => .stall) s
    else match (s.coreAt core).block with
      | none => .fault .noThresherBlock
      | some b =>
        if thrStepLimit < b.steps then .next (stallState s)
        else if bad || (b.limm.isSome && !limm) then .next (endBlock s core b 1 b.pc)
        else if b.steps = thrStepLimit then .next (s.setBlock core (some { b with steps := b.steps + 1 }))
        else
          let r := f core s { b with steps := b.steps + 1, pc := b.pc + 1, hints := if hint then b.hints + 1 else 0 }
          match r.status with
          | none => .next (r.s.setBlock core (some r.b))
          | some c => .next (endBlock r.s core r.b c 0)

/-- A word that only changes the block; the LIMM before it is used up. -/
def issueThrPure (bad : Bool) (f : ThrBlock → ThrBlock) (s : State) : Host.Outcome State Fault Refusal :=
  issueThr false false bad (fun _ s b => { s := s, b := f b }) s

/-- A hint in the thresher slot (R280). -/
def issueThrHint (bad : Bool) (f : ThrBlock → ThrBlock) (s : State) : Host.Outcome State Fault Refusal :=
  issueThr true true bad (fun _ s b => { s := s, b := f b }) s

/-- A count of bits that THR.get and THR.peek refuse (R281). -/
def bitCountBad (n : BitVec 6) : Bool := n == 0 || 32 < n.toNat

/-- The sector of the bit position, which a block keeps after a peek (R282). -/
def sectorAtBit (s : State) (core : Nat) (b : ThrBlock) : Option (Nat × List Byte) :=
  match fetchSector s core b (b.bit / 256) with
  | .ok (_, b1) => b1.sector
  | .error _ => b.sector

/-- THR.get and THR.peek. -/
def takeBits (advance : Bool) (d : BitVec 4) (n : BitVec 6) (s : State) : Host.Outcome State Fault Refusal :=
  issueThr false false (bitCountBad n) (fun core s b =>
    match getBits s core b n.toNat with
    | .error c => { s := s, b := b, status := some c }
    | .ok (x, b1) =>
      let b2 := b1.setReg d (BitVec.ofNat 32 x)
      { s := s, b := if advance then { b2 with bit := b2.bit + n.toNat } else { b2 with sector := sectorAtBit s core b } }) s

def execThrGet (d : BitVec 4) (n : BitVec 6) (s : State) : Host.Outcome State Fault Refusal := takeBits true d n s
def execThrPeek (d : BitVec 4) (n : BitVec 6) (s : State) : Host.Outcome State Fault Refusal := takeBits false d n s

/-- THR.skip (R281): the bit position grows past 2^32 (log entry 120, DESIGN CHOICE). -/
def execThrSkip (a : BitVec 4) (n : BitVec 11) (s : State) : Host.Outcome State Fault Refusal :=
  issueThrPure false (fun b => { b with bit := b.bit + (b.reg a + n.setWidth 32).toNat }) s

def execThrBfx (d a : BitVec 4) (sg : Bool) (w p : BitVec 5) (s : State) : Host.Outcome State Fault Refusal :=
  issueThrPure false (fun b =>
    let f := (b.reg a).toNat / 2 ^ p.toNat % 2 ^ (w.toNat + 1)
    b.setReg d (if sg then BitVec.ofInt 32 (signed (w.toNat + 1) f) else BitVec.ofNat 32 f)) s

def execThrLut (d a : BitVec 4) (k : BitVec 8) (s : State) : Host.Outcome State Fault Refusal :=
  issueThrPure false (fun b => b.setReg d (b.entry ((b.reg a).toNat + k.toNat))) s

def execThrTbw (d a : BitVec 4) (k : BitVec 8) (s : State) : Host.Outcome State Fault Refusal :=
  issueThrPure false (fun b => b.setEntry ((b.reg a).toNat + k.toNat) (b.reg d)) s

/-- Fills n table words from word j on (R281). -/
def refillTable (s : State) (core : Nat) : Nat → Nat → ThrBlock → ThrBlock × Option Nat
  | 0, _, b => (b, none)
  | n + 1, j, b =>
    match getBits s core b 32 with
    | .error c => (b, some c)
    | .ok (x, b1) => refillTable s core n (j + 1) ({ b1 with bit := b1.bit + 32 }.setEntry j (BitVec.ofNat 32 x))

def execThrRefill (a : BitVec 4) (n : BitVec 8) (s : State) : Host.Outcome State Fault Refusal :=
  issueThr false false false (fun core s b =>
    let r := refillTable s core (n.toNat + 1) (b.reg a).toNat b
    { s := s, b := r.1, status := r.2 }) s

def execThrMovi (d : BitVec 4) (i : BitVec 11) (s : State) : Host.Outcome State Fault Refusal :=
  issueThr false true false (fun _ s b =>
    let x : Word := match b.limm with
      | none => i.signExtend 32
      | some p => (p ++ i).signExtend 32
    { s := s, b := { b.setReg d x with limm := none } }) s

/-- The second operand of ops 8 to 15 (R281). -/
def ThrBlock.operand (b : ThrBlock) (i : BitVec 11) : Word :=
  if i.getLsbD 10 then b.reg (i.extractLsb' 0 4) else (i.extractLsb' 0 10).signExtend 32

/-- A register operand with a non-zero reserved field. -/
def operandBad (i : BitVec 11) : Bool := i.getLsbD 10 && i.extractLsb' 4 6 != 0

/-- Ops 8 to 15, as IADD to SAR (R114). -/
def thrAlu (f : Word → Word → Word) (d a : BitVec 4) (i : BitVec 11) (s : State) : Host.Outcome State Fault Refusal :=
  issueThrPure (operandBad i) (fun b => b.setReg d (f (b.reg a) (b.operand i))) s

def execThrAdd (d a : BitVec 4) (i : BitVec 11) (s : State) : Host.Outcome State Fault Refusal := thrAlu (· + ·) d a i s
def execThrSub (d a : BitVec 4) (i : BitVec 11) (s : State) : Host.Outcome State Fault Refusal := thrAlu (· - ·) d a i s
def execThrAnd (d a : BitVec 4) (i : BitVec 11) (s : State) : Host.Outcome State Fault Refusal := thrAlu (· &&& ·) d a i s
def execThrOr (d a : BitVec 4) (i : BitVec 11) (s : State) : Host.Outcome State Fault Refusal := thrAlu (· ||| ·) d a i s
def execThrXor (d a : BitVec 4) (i : BitVec 11) (s : State) : Host.Outcome State Fault Refusal := thrAlu (· ^^^ ·) d a i s
def execThrShl (d a : BitVec 4) (i : BitVec 11) (s : State) : Host.Outcome State Fault Refusal :=
  thrAlu (fun x y => if 32 ≤ y.toNat then 0 else x <<< y.toNat) d a i s
def execThrShr (d a : BitVec 4) (i : BitVec 11) (s : State) : Host.Outcome State Fault Refusal :=
  thrAlu (fun x y => if 32 ≤ y.toNat then 0 else x >>> y.toNat) d a i s
def execThrSar (d a : BitVec 4) (i : BitVec 11) (s : State) : Host.Outcome State Fault Refusal :=
  thrAlu (fun x y => x.sshiftRight (min 31 y.toNat)) d a i s

/-- Emits bytes in order (R281). -/
def emitBytes : List Byte → Threshed → Threshed
  | [], t => t
  | x :: xs, t =>
    if 4096 ≤ t.b.emitted then { t with status := some 3 }
    else emitBytes xs
      { t with s := t.s.writePlace (.loft t.b.input.team t.b.tile t.b.emitted) [x] t.b.input.tag
               b := { t.b with emitted := t.b.emitted + 1, history := (x :: t.b.history).take 256 } }

def execThrEmit (a : BitVec 4) (n : BitVec 3) (s : State) : Host.Outcome State Fault Refusal :=
  issueThr false false (n == 0 || 4 < n.toNat) (fun _ s b => emitBytes (leBytes n.toNat (b.reg a).toNat) { s := s, b := b }) s

/-- Emits n times the byte at a distance back in the history (R281). -/
def copyHistory (distance : Nat) : Nat → Threshed → Threshed
  | 0, t => t
  | n + 1, t =>
    match t.status with
    | some _ => t
    | none => copyHistory distance n (emitBytes [t.b.history.getD (distance - 1) 0] t)

def execThrCopy (d a : BitVec 4) (s : State) : Host.Outcome State Fault Refusal :=
  issueThr false false false (fun _ s b =>
    let distance := (b.reg d).toNat
    if distance = 0 ∨ 256 < distance ∨ b.emitted < distance then { s := s, b := b, status := some 4 }
    else copyHistory distance (min 4097 (b.reg a).toNat) { s := s, b := b }) s

/-- Whether a condition code holds (R281). -/
def ThrBlock.holds (b : ThrBlock) (c : BitVec 4) (x : Word) : Bool :=
  match c.toNat with
  | 0 => true
  | 1 => x == 0
  | 2 => x != 0
  | 3 => x.msb
  | 4 => !x.msb
  | 5 => decide (b.sectors * 256 ≤ b.bit)
  | _ => b.emitted == 4096

/-- THR.br: the word index wraps with the 32-bit code offset. -/
def execThrBr (c a : BitVec 4) (i : BitVec 11) (s : State) : Host.Outcome State Fault Refusal :=
  issueThrPure (6 < c.toNat || ((c == 0 || c == 5 || c == 6) && a != 0)) (fun b =>
    if b.holds c (b.reg a) then { b with pc := wrapInt 30 ((b.pc : Int) - 1 + i.toInt) } else b) s

def execThrHalt (s : State) : Host.Outcome State Fault Refusal :=
  issueThr false false false (fun _ s b => { s := s, b := b, status := some 0 }) s

/-! ### Taking an input (R278 to R280) -/

/-- The team of an input may start a block: fewer than 8 results, and room for a tile of 16 granules (R239, R278). -/
def inputFits (s : State) (k : Core) (i : ThrInput) : Bool :=
  match s.team? i.team with
  | none => false
  | some t => match s.launch? t.launch with
    | none => false
    | some l => teamResults k i.team < 8 && t.loft.length < 64 && (t.loft.map (·.granules)).sum + 16 ≤ l.kh.loft

/-- Starts an input: its tile, its header, and the reset state of R280; a bad header ends it at once (R279). -/
def startInput (s : State) (core : Nat) (i : ThrInput) : State :=
  match s.team? i.team, blockAccessor s core i.team with
  | some t, some u =>
    let index := (lowestIndex 64 (t.loft.map (·.index))).getD 0
    let s1 := s.mapTeam i.team (fun t => { t with loft := t.loft ++ [{ index := index, granules := 16, shape := 0x10010, ctx := u.ctx }] })
    let b : ThrBlock := { input := i, pc := 0, bit := 0, steps := 0, tile := index, payload := 0, sectors := 1 }
    match checkVirtual s1 u .load 16 false 16 i.word.toNat 16 with
    | .error c => endBlock s1 core b (sourceStatus c) 0
    | .ok p =>
      let h := baleHeader (readAny s1 p 16)
      if h.formed && h.mode == 3 then s1.setBlock core (some { b with pc := h.param, payload := h.payload, sectors := h.sectors })
      else endBlock s1 core b 5 0
  | _, _ => s

/-- Takes the first input of a list whose turn it is (R278, R389 kind 7); none if every one must wait. -/
def takeInput (s : State) (core : Nat) : List ThrInput → Option State
  | [] => none
  | i :: is =>
    let k := s.coreAt core
    let launch := ((s.team? i.team).map (·.launch)).getD 0
    if !inputFits s k i then takeInput s core is
    else match choose s launch 7 core 0 i.tag i.team true with
      | .wait => takeInput s core is
      | .mismatch n => some (agentFault s launch n i.tag)
      | .go s1 =>
        let k1 := s1.coreAt core
        some (startInput (s1.setCore core { k1 with inputs := k1.inputs.filter (fun j => j.id != i.id) }) core i)

/-- The oldest input of each group, in order: a group's inputs go in order, and the arbitration is among groups (R278, R389 kind 7). -/
def oldestInputs : List ThrInput → List (Nat × Nat) → List ThrInput
  | [], _ => []
  | i :: is, seen =>
    if seen.contains (i.team, i.group) then oldestInputs is seen else i :: oldestInputs is ((i.team, i.group) :: seen)

/-- THRESHER_INPUT_TAKE: a resumed block first, then the oldest eligible input (R278). -/
def execThresherInputTake (s : State) : Host.Outcome State Fault Refusal :=
  let core := s.event.core
  let k := s.coreAt core
  if k.block.isSome then .refused .notEnabled
  else match k.resuming with
    | b :: bs =>
      if s.stopsTeam b.input.team then .refused .notEnabled
      else .next (s.setCore core { k with block := some b, resuming := bs })
    | [] =>
      match takeInput s core ((oldestInputs k.inputs []).filter (fun i => !s.stopsTeam i.team)) with
      | some s1 => .next s1
      | none => .refused .notEnabled

/-- THRESHER_STEP_LIMIT: a block that has gone past 1,048,576 words ends with status 8 (R280). -/
def execThresherStepLimit (s : State) : Host.Outcome State Fault Refusal :=
  match (s.coreAt s.event.core).block with
  | some b => if thrStepLimit < b.steps then .next (endBlock s s.event.core b 8 0) else .refused .notEnabled
  | none => .refused .notEnabled

end Sys2Proof.Machine
end

