-- ==== Sys2Proof/Machine/Control.lean ====
section
/-! DEFINITION. Branches, calls, exits, YIELD, LOCKX, UNLOCKX and WID (spec/12_execution.md R295 to R303,
spec/13_scheduling_sync.md R322 to R327 and R336). -/

namespace Sys2Proof.Machine

/-! ### Successors (R295, R297) -/

/-- The PC after the word being issued. -/
def Issue.nextPc (x : Issue) : BitVec 32 := x.arch.wordPc x.entry + 4

/-- The taken priority (R295). -/
def Issue.taken (x : Issue) : BitVec 16 := match x.run.bpri with
  | some n => (n.extractLsb' 0 10).setWidth 16 * 64
  | none => x.entry.prio

/-- The fall-through priority (R295). -/
def Issue.fall (x : Issue) : BitVec 16 := match x.run.bpri with
  | some n => (n.extractLsb' 10 10).setWidth 16 * 64
  | none => x.entry.prio

/-- The target of a branch whose offset counts words (R324); before generation 3 the offset counts from the next word (R63). The sum wraps at 2^32, so a
target below code offset 0 fails at its fetch (R323; log entry 122, DESIGN CHOICE). -/
def Issue.target (x : Issue) (off : BitVec 32) : BitVec 32 :=
  x.arch.wordPc x.entry + 4 * off + (if x.e.l.kh.gen = .n3 then 0 else 4)

/-- The lanes of the entry that are not active go on at the entry's priority. -/
def Issue.rest (x : Issue) : Succ := { prio := x.entry.prio, pc := x.nextPc, mask := x.entry.mask &&& ~~~x.active }

/-- A control word ends with these successors in the state s, unless the frontier has no room for them (R297). -/
def branchTo (x : Issue) (s : State) (succs : List Succ) : Res :=
  let frozen := match x.e.g.handler with
    | some h => h.frozen.length
    | none => 0
  if 48 < (x.arch.frontierAfter x.entry succs).length + frozen then .fault { cls := 11 }
  else .done { s := s, succs := some succs }

/-- BRA (R324). -/
def execBra (o : BitVec 24) (s : State) : Host.Outcome State Fault Refusal :=
  issue { bpri := true }
    (fun x s => branchTo x s [x.rest, { prio := x.taken, pc := x.target (o.signExtend 32), mask := x.active, fresh := true }]) s

/-- BRP (R324). -/
def execBrp (p : BitVec 6) (sense : Bool) (o : BitVec 16) (s : State) : Host.Outcome State Fault Refusal :=
  issue { bpri := true, reads := [pN p] }
    (fun x s =>
      let m := x.arch.getP p.toNat
      let t := x.active &&& (if sense then ~~~m else m)
      branchTo x s [{ prio := x.fall, pc := x.nextPc, mask := x.entry.mask &&& ~~~t },
        { prio := x.taken, pc := x.target (o.signExtend 32), mask := t, fresh := true }]) s

/-! ### Calls and the return stack (R300, R301) -/

/-- The active lanes push a return. -/
def pushReturns (x : Issue) (r : Return) (a : Arch) : Arch :=
  (laneList x.active).foldl (fun a i => a.setReturns i (r :: a.getReturns i)) a

/-- A call with its successors: no lane may hold 64 returns already. -/
def callTo (x : Issue) (s : State) (r : Return) (succs : List Succ) : Res :=
  let full := activeWhere x (fun i => 64 ≤ (x.arch.getReturns i).length)
  if full ≠ 0 then .fault { cls := 10, mask := full }
  else branchTo x (s.setGroup { x.e.g with arch := pushReturns x r x.arch }) succs

/-- CALL (R324). -/
def execCall (o : BitVec 24) (s : State) : Host.Outcome State Fault Refusal :=
  issue { bpri := true }
    (fun x s => callTo x s { pc := x.nextPc, prio := x.fall }
      [x.rest, { prio := x.taken, pc := x.target (o.signExtend 32), mask := x.active, fresh := true }]) s

/-- One successor for each place that lanes go to, of its own priority and PC. -/
def gather (ts : List (Nat × BitVec 16 × BitVec 32)) : List Succ :=
  ((ts.map (·.2)).eraseDups).map (fun k =>
    { prio := k.1, pc := k.2, mask := maskOf ((ts.filter (fun t => t.2 == k)).map (·.1)), fresh := true })

/-- The targets of JMP and CALLI, or their fault (R325). -/
def indirect (x : Issue) (a : BitVec 6) (next : List Succ → Res) : Res :=
  let t (i : Nat) : Word := x.arch.getV a.toNat i
  let out := activeWhere x (fun i => x.e.l.kh.codeSize ≤ (t i).toNat)
  let odd := activeWhere x (fun i => (t i).toNat % 4 != 0)
  let refuse (cls : Nat) (m : LaneMask) : Res :=
    .fault { cls := cls, mask := m, addr := ((lowestLane m).map t).getD 0 |>.setWidth 64
             addrs := (laneList m).map (fun i => (i, cls, (t i).setWidth 64)) }
  if out ≠ 0 then refuse 4 out
  else if odd ≠ 0 then refuse 5 odd
  else next (x.rest :: gather ((laneList x.active).map (fun i => (i, x.taken, t i))))

/-- JMP (R325). -/
def execJmp (a : BitVec 6) (s : State) : Host.Outcome State Fault Refusal :=
  issue { bpri := true, reads := [.v a.toNat] } (fun x s => indirect x a (branchTo x s)) s

/-- CALLI (R325): the fall-through class is ignored (R295). -/
def execCalli (a : BitVec 6) (s : State) : Host.Outcome State Fault Refusal :=
  issue { bpri := true, reads := [.v a.toNat] }
    (fun x s => indirect x a (callTo x s { pc := x.nextPc, prio := x.entry.prio })) s

/-- The active lanes pop a return. -/
def popReturns (x : Issue) (a : Arch) : Arch := (laneList x.active).foldl (fun a i => a.setReturns i (a.getReturns i).tail) a

/-- RET (R300, R301). -/
def execRet (s : State) : Host.Outcome State Fault Refusal :=
  issue {}
    (fun x s =>
      let empty := activeWhere x (fun i => (x.arch.getReturns i).isEmpty)
      if empty ≠ 0 then .fault { cls := 10, mask := empty }
      else
        let ts := (laneList x.active).filterMap (fun i => (x.arch.getReturns i).head?.map (fun r => (i, r.prio, r.pc)))
        branchTo x (s.setGroup { x.e.g with arch := popReturns x x.arch }) (x.rest :: gather ts)) s

/-- NOP (R325). -/
def execNop (s : State) : Host.Outcome State Fault Refusal := issue {} (fun _ s => .done { s := s }) s

/-- YIELD (R327): the group is not ready until the expiry. -/
def execYield (s : State) : Host.Outcome State Fault Refusal :=
  issue { fence := .stall } (fun x s => .done { s := s.setGroup { x.e.g with wait := .yield } }) s

/-- YIELD_EXPIRY (R327). -/
def execYieldExpiry (s : State) : Host.Outcome State Fault Refusal :=
  match s.group? s.event.core s.event.slot with
  | none => .refused .notEnabled
  | some g => if g.wait = .yield then .next (s.setGroup { g with wait := .none }) else .refused .notEnabled

/-! ### LOCKX and UNLOCKX (R302, R303) -/

/-- The group in the partner slot holds the extended set. -/
def partnerHolds (s : State) (core slot : Nat) : Bool := match s.group? core (slot ^^^ 1) with
  | some h => h.xset == .held
  | none => false

/-- LOCKX: granted zeroed, or the group blocks until it is granted (R17, R303). -/
def execLockx (s : State) : Host.Outcome State Fault Refusal :=
  issue { fence := .stall, badIn := fun x => x.e.g.xset != .none }
    (fun x s =>
      if partnerHolds s x.core x.slot then .done { s := s.setGroup { x.e.g with wait := .lockx }, stay := true }
      else .done { s := s.setGroup { x.e.g.mend RegRef.extended with arch := x.arch.setExtended [], xset := .held } }) s

/-- UNLOCKX: it waits for matrix operations that name an extended register; then the set passes on (R303). -/
def execUnlockx (s : State) : Host.Outcome State Fault Refusal :=
  issue { fence := .stall, badIn := fun x => x.e.g.xset != .held || x.arch.pending.any RegRef.extended }
    (fun x s =>
      if x.e.g.matrix.any (·.ext) then .stall
      else .done { s := (s.setGroup { x.e.g.mend RegRef.extended with arch := x.arch.setExtended [], xset := .none }).passX x.core x.slot }) s

/-! ### EXIT (R326, R376) -/

/-- Work that the group pushed and that is not done: it may still present the request that an entry names. -/
def pushedWork (s : State) (g : Group) : Bool :=
  let k := s.coreAt g.core
  s.commands.any (fun c => c.team == g.team && c.index == g.index)
  || (k.inputs ++ k.resuming.map (·.input) ++ (k.block.map (·.input)).toList).any (fun i => i.team == g.team && i.group == g.index)

/-- The entries that are next at their units. -/
def nextEntries (es : List LogEntry) : List LogEntry :=
  es.foldl (fun acc e => if e.used || acc.any (fun f => f.unit == e.unit) then acc else acc ++ [e]) []

/-- In replay, an entry that is its unit's next names the group of a tag, and not one of the same tag that started earlier (R388, R391). -/
def namedNext (s : State) (l : Launch) (team : Nat) (tag : BitVec 64) : Bool :=
  l.lh.mode == 2 && !s.namesake l.id team tag && (nextEntries l.log).any (fun e => e.namesTag tag)

/-- Steps 3 to 5 of R326: the extended set passes on, the slot becomes free, and what the group leaves to its team is kept. -/
def leaveSlot (s : State) (e : Env) : State :=
  let late := (e.g.tokens.filter (fun t => match t.result with
    | some (_, some _) => true
    | _ => false)).map (fun t => (t, t.core, e.g.slot, e.g.index))
  let s1 := (s.removeGroup e.g.core e.g.slot).mapTeam e.t.id (fun t =>
    { t with exited := e.g.index :: t.exited, unread := t.unread ++ late
             lateTags := if pushedWork s e.g then agentTag e.g 0 :: t.lateTags else t.lateTags })
  if namedNext s e.l e.t.id (agentTag e.g 0) && !pushedWork s e.g then launchFault s1 e.l.id 16 2 else s1

/-- The group's last lanes exit: its RED entries are drained first; while they wait, the group counts as arrived at every
barrier (R326). -/
def exitGroup (x : Issue) (s : State) : Res :=
  let go (s : State) : Res := match s.env? x.core x.slot with
    | some e => .done { s := leaveSlot s e }
    | none => .done { s := s }
  match drainFirst x s go with
  | .stall => if x.e.g.wait = .exiting then .stall else .moved (s.setGroup { x.e.g with wait := .exiting })
  | .moved s1 => .moved (s1.mapGroup x.core x.slot (fun g => { g with wait := .exiting }))
  | r => r

/-- The lanes of a handler leave the suspended entry too (R376). -/
def Group.dropSuspended (g : Group) (m : LaneMask) : Group :=
  { g with handler := g.handler.map (fun h => { h with suspended := { h.suspended with mask := h.suspended.mask &&& ~~~m } }) }

/-- s56 to s63, which the end of a handler writes (R376). -/
def trapStateRegs : List RegRef := (List.range 8).map (fun k => .s (56 + k))

/-- The EXIT takes the last lanes of a handler, so that it restores s56 to s63 (R376; log entry 99, DEDUCED). -/
def endsHandler (x : Issue) : Bool := x.e.g.handler.any (fun h => h.frozen != []) && x.rest.mask == 0 && x.arch.others == []

/-- EXIT (R165, R326, R376). -/
def execExit (s : State) : Host.Outcome State Fault Refusal :=
  issue { fence := .stall, writesIn := fun x => if endsHandler x then trapStateRegs else [] }
    (fun x s =>
      let empties := x.rest.mask = 0 ∧ x.arch.others = []
      let frozen := match x.e.g.handler with
        | some h => h.frozen
        | none => []
      let last := empties ∧ frozen = []
      if x.e.g.matrix ≠ [] then
        if last ∧ x.e.g.wait ≠ .exiting then .moved (s.setGroup { x.e.g with wait := .exiting }) else .stall
      else if last then exitGroup x s
      else
        let g := x.e.g.dropSuspended x.active
        match g.handler with
        | some h =>
          if empties then .done { s := s.setGroup ((g.leaveHandler h 0).marker x.amr x.entry.pc s.fetched x.entry.mask), stay := true }
          else .done { s := s.setGroup g, succs := some [x.rest] }
        | none => .done { s := s.setGroup g, succs := some [x.rest] }) s

/-! ### WID (R336) -/

/-- The first bit of field k of a work ID (R283). -/
def fieldBase (widths : List Nat) (k : Nat) : Nat := (widths.take k).sum

/-- Field k of a work ID (R283). -/
def workField (widths : List Nat) (id : BitVec 64) (k : Nat) : Nat := field id.toNat (fieldBase widths k) (widths.getD k 0)

/-- A WID of one register. -/
def widOne (d : BitVec 8) (f : Issue → Nat → Nat) (s : State) : Host.Outcome State Fault Refusal :=
  issueArch { writes := [vN d] } (fun x a => (setActive x d.toNat (fun i => BitVec.ofNat 32 (f x i)) a, [])) s

/-- A WID of a pair. -/
def widPair (d : BitVec 8) (f : Issue → Nat → BitVec 64) (s : State) : Host.Outcome State Fault Refusal :=
  issueArch { badReg := oddV d, writes := vPair d } (fun x a => (setActive64 x d.toNat (f x) a, [])) s

/-- WID.fk. -/
def widField (d : BitVec 8) (k : Nat) (s : State) : Host.Outcome State Fault Refusal :=
  widOne d (fun x i => workField x.e.l.lh.widths (x.e.workId i) k) s

/-- WID.extk. -/
def widExtent (d : BitVec 8) (k : Nat) (s : State) : Host.Outcome State Fault Refusal :=
  widOne d (fun x _ => x.e.l.lh.extents.getD k 1) s

def execWidF0 (d : BitVec 8) (s : State) : Host.Outcome State Fault Refusal := widField d 0 s
def execWidF1 (d : BitVec 8) (s : State) : Host.Outcome State Fault Refusal := widField d 1 s
def execWidF2 (d : BitVec 8) (s : State) : Host.Outcome State Fault Refusal := widField d 2 s
def execWidF3 (d : BitVec 8) (s : State) : Host.Outcome State Fault Refusal := widField d 3 s
def execWidF4 (d : BitVec 8) (s : State) : Host.Outcome State Fault Refusal := widField d 4 s
def execWidF5 (d : BitVec 8) (s : State) : Host.Outcome State Fault Refusal := widField d 5 s
/-- WID.id. -/
def execWidId (d : BitVec 8) (s : State) : Host.Outcome State Fault Refusal := widPair d (fun x i => x.e.workId i) s
/-- WID.key: the work ID with field 0 taken off (R285). -/
def execWidKey (d : BitVec 8) (s : State) : Host.Outcome State Fault Refusal :=
  widPair d (fun x i => x.e.workId i >>> x.e.l.lh.widths.headD 6) s
def execWidExt0 (d : BitVec 8) (s : State) : Host.Outcome State Fault Refusal := widExtent d 0 s
def execWidExt1 (d : BitVec 8) (s : State) : Host.Outcome State Fault Refusal := widExtent d 1 s
def execWidExt2 (d : BitVec 8) (s : State) : Host.Outcome State Fault Refusal := widExtent d 2 s
def execWidExt3 (d : BitVec 8) (s : State) : Host.Outcome State Fault Refusal := widExtent d 3 s
def execWidExt4 (d : BitVec 8) (s : State) : Host.Outcome State Fault Refusal := widExtent d 4 s
def execWidExt5 (d : BitVec 8) (s : State) : Host.Outcome State Fault Refusal := widExtent d 5 s

end Sys2Proof.Machine
end

