-- ==== Sys2Proof/Machine/Sync.lean ====
section
/-! DEFINITION. BAR, BARL and their release, the lending of the extended set, the wakes of WAITM, and the aged issue
(spec/10_memory_instr.md R255, spec/12_execution.md R298 and R304, spec/13_scheduling_sync.md R329 to R333). -/

namespace Sys2Proof.Machine

/-! ### Barrier state (R330, R331) -/

/-- A team's state for a slot. -/
def Team.barrier (t : Team) (n : Nat) : Barrier := (t.barriers.find? (fun b => b.slot == n)).getD { slot := n }

def Team.setBarrier (t : Team) (b : Barrier) : Team :=
  { t with barriers := b :: t.barriers.filter (fun c => c.slot != b.slot) }

/-- The teams of a team's level-k set that are placed (R286). -/
def levelSet (s : State) (e : Env) (k : Nat) : List Team :=
  let sh := ((e.l.lh.widths.drop 1).take k).sum
  s.teams.filter (fun t => t.id == e.t.id ||
    (k != 0 && !e.t.spawned && !t.spawned && t.launch == e.l.id && t.key.toNat / 2 ^ sh == e.t.key.toNat / 2 ^ sh))

/-- A team of the level-k set that is not placed. -/
def levelUnplaced (e : Env) (k : Nat) : Bool :=
  let sh := ((e.l.lh.widths.drop 1).take k).sum
  k != 0 && e.l.unplaced.any (fun u => u / 2 ^ sh == e.t.key.toNat / 2 ^ sh)

/-- A group that has exited or waits in its EXIT counts as arrived everywhere (R326, R330). -/
def groupGone (s : State) (t : Team) (i : Nat) : Bool :=
  t.exited.contains i || s.groups.any (fun g => g.team == t.id && g.index == i && g.wait == .exiting)

/-- Whether a team is complete at the instance of a slot, a level and a generation (R331). -/
def teamComplete (s : State) (n k : Nat) (gen : Word) (t : Team) : Bool :=
  let b := t.barrier n
  t.place == .resident && (List.range t.slots.length).all (fun i =>
    groupGone s t i || (b.generation == gen && b.arrived.any (fun a => a.1 == i && a.2.2.1 == k)))

/-- Whether an instance releases (R331). -/
def instanceComplete (s : State) (e : Env) (n k : Nat) (gen : Word) : Bool :=
  !levelUnplaced e k && (levelSet s e k).all (teamComplete s n k gen)

/-! ### BAR and BARL (R329 to R331) -/

/-- The groups of a team that have arrived at a slot take a queue-misuse fault at their barrier word, and their arrivals are
withdrawn (R331). -/
def withdraw (s : State) (l : Launch) (n : Nat) (t : Team) : State :=
  let hit (g : Group) : Bool := (t.barrier n).arrived.any (fun a => a.1 == g.index)
  let strike (g : Group) : Group := { g with wait := .none }.addAfter [Env.waitTrap ⟨g, t, l⟩ s 8]
  let t1 := t.setBarrier { t.barrier n with arrived := [] }
  let t2 := match t1.place with
    | .saved gs b i r a => { t1 with place := .saved (gs.map (fun g => if hit g then strike g else g)) b i r a }
    | .resident => t1
  { s.setTeam t2 with groups := s.groups.map (fun g => if g.team == t.id && hit g then strike g else g) }

/-- The teams whose arrivals disagree with a new arrival: its own, and every one of the instance it joins where one of them does (R331). -/
def clashing (s : State) (e : Env) (n : Nat) (barl : Bool) (k o : Nat) : List Team :=
  let b := e.t.barrier n
  let differs (a : Nat × Bool × Nat × Nat × Nat) : Bool := (a.2.1, a.2.2.1, a.2.2.2.1) != (barl, k, o)
  let joined := (levelSet s e k).filter (fun t =>
    (t.barrier n).generation == b.generation && (t.barrier n).arrived.any (fun a => a.2.2.1 == k))
  let own := if b.arrived.any differs then [e.t] else []
  if joined.any (fun t => (t.barrier n).arrived.any differs) then own ++ joined.filter (fun t => !own.contains t) else own

/-- An arrival: the group waits for the release (R330). -/
def arrive (barl : Bool) (d : BitVec 6) (o : BitVec 2) (k : BitVec 3) (n : BitVec 5) (x : Issue) (s : State) : Res :=
  match clashing s x.e n.toNat barl k.toNat o.toNat with
  | [] =>
    let b := x.e.t.barrier n.toNat
    let t := x.e.t.setBarrier { b with arrived := b.arrived ++ [(x.e.g.index, barl, k.toNat, o.toNat, d.toNat)] }
    .done { s := (s.setTeam t).setGroup { x.e.g with wait := .barrier n.toNat }, stay := true }
  | ts => .done { s := ts.foldl (fun s t => withdraw s x.e.l n.toNat t) s, fault := some { cls := 8 } }

/-- A slot or level that R329 refuses. -/
def barrierIllegal (k : BitVec 3) (n : BitVec 5) (x : Issue) : Bool :=
  x.e.l.kh.barriers ≤ n.toNat || 6 ≤ k.toNat || (k != 0 && (!x.e.l.lh.coresident || x.e.t.spawned))

/-- BAR (R329). -/
def execBar (l : BitVec 3) (n : BitVec 5) (s : State) : Host.Outcome State Fault Refusal :=
  issue { illegalIn := barrierIllegal l n, fence := .stall } (arrive false 0 0 l n) s

/-- BARL (R329): s(d) is read at arrival and written at the release. -/
def execBarl (d : BitVec 6) (o : BitVec 2) (l : BitVec 3) (n : BitVec 5) (s : State) : Host.Outcome State Fault Refusal :=
  issue { illegalIn := barrierIllegal l n, fence := .stall, reads := [sN d], writes := [sN d] } (arrive true d o l n) s

/-! ### The release (R332, R333) -/

/-- The operations of BARL. -/
def barlOp (o : Nat) (a b : Word) : Word :=
  match o with
  | 0 => a + b
  | 1 => a ||| b
  | 2 => a &&& b
  | _ => if a.toNat < b.toNat then b else a

/-- A participant of a release: its team key, itself, and its s(d) register if it issued BARL, with the op. -/
structure Participant where
  key : Nat
  g : Group
  barl : Bool
  op : Nat
  reg : Nat

/-- The participants of an instance in ascending (team key, group index). -/
def participants (s : State) (ts : List Team) (n k : Nat) (gen : Word) : List Participant :=
  let of (t : Team) : List Participant :=
    let b := t.barrier n
    if b.generation != gen then []
    else b.arrived.filterMap (fun a => if a.2.2.1 != k then none else
      (s.groups.find? (fun g => g.team == t.id && g.index == a.1)).map (fun g =>
        { key := t.key.toNat, g := g, barl := a.2.1, op := a.2.2.2.1, reg := a.2.2.2.2 }))
  sortBy (fun p : Participant => p.key * 64 + p.g.index) (ts.flatMap of)

/-- The value of a BARL release (R332). -/
def barlValue : List Participant → Word
  | [] => 0
  | p :: ps => ps.foldl (fun v q => barlOp q.op v (q.g.arch.getS q.reg)) (p.g.arch.getS p.reg)

/-- The clusters of the participants in the order in which they depart (R333). -/
def departureOrder (gen : Word) (ps : List Participant) : List Nat :=
  let cs := (ps.map (fun p => clusterOf p.g.core)).eraseDups
  sortBy (fun c => (c + 12 - gen.toNat % 12) % 12) cs

/-- Groups of the teams that wait to depart from a cluster go on. -/
def depart (s : State) (teams : List Nat) (n cluster : Nat) : State :=
  { s with groups := s.groups.map (fun g =>
      if g.wait == .departing n && teams.contains g.team && clusterOf g.core == cluster then
        match s.env? g.core g.slot with
        | some e => g.completeWord (s.amr e.l.ctx)
        | none => g
      else g) }

/-- Steps 2 to 4 of R332: values, generations, and the departure of the first cluster. -/
def release (s : State) (e : Env) (n : Nat) (gen : Word) (ps : List Participant) : State :=
  let v := barlValue ps
  let s1 := ps.foldl (fun s p => s.mapGroup p.g.core p.g.slot (fun g =>
    if p.barl then { g.mend (· == .s p.reg) with arch := g.arch.setS p.reg v, wait := .departing n } else { g with wait := .departing n })) s
  let ts := (ps.map (·.g.team)).eraseDups
  let s2 := ts.foldl (fun s i => s.mapTeam i (fun t =>
    t.setBarrier { slot := n, generation := gen + 1 })) s1
  match departureOrder gen ps with
  | [] => s2
  | c :: cs =>
    let s3 := depart s2 ts n c
    if cs.isEmpty then s3
    else { s3 with departures := s3.departures ++
      [{ launch := e.l.id, slot := n, generation := gen, clusters := cs, next := s.tick + 128, teams := ts }] }

/-- BARRIER_RELEASE: the instance at which the group waits releases, once its REDs are drained (R331, R332). -/
def execBarrierRelease (s : State) : Host.Outcome State Fault Refusal :=
  match s.env? s.event.core s.event.slot with
  | none => .refused .notEnabled
  | some e =>
    match e.g.wait with
    | .barrier n =>
      let b := e.t.barrier n
      let k := ((b.arrived.find? (fun a => a.1 == e.g.index)).map (·.2.2.1)).getD 0
      if !instanceComplete s e n k b.generation then .refused .notEnabled
      else
        let ts := levelSet s e k
        let ps := participants s ts n k b.generation
        let held := (ps.map (fun p => p.g.reds.length + p.g.batch.length)).sum
        match drainGroups s e.l.id (ps.map (·.g)) with
        | (_, _, some c) => .next (replayWaiting s e c)
        | (s1, true, none) => .next (release s1 e n b.generation (participants s1 ts n k b.generation))
        | (s1, false, none) =>
          let left := ((participants s1 ts n k b.generation).map (fun p => p.g.reds.length + p.g.batch.length)).sum
          if left = held ∧ ps.all (fun p => p.g.reds.isEmpty) then .refused .notEnabled else .next s1
    | _ => .refused .notEnabled

/-- CLUSTER_DEPARTURE: the next cluster of departure number num leaves in its slew window (R333). -/
def execClusterDeparture (s : State) : Host.Outcome State Fault Refusal :=
  match s.departures[s.event.num]? with
  | none => .refused .notEnabled
  | some d =>
    match d.clusters with
    | [] => .refused .notEnabled
    | c :: cs =>
      if s.tick < d.next then .refused .notEnabled
      else
        let s1 := depart s d.teams d.slot c
        let rest := if cs.isEmpty then s.departures.eraseIdx s.event.num
          else s.departures.set s.event.num { d with clusters := cs, next := d.next + 128 }
        .next { s1 with departures := rest }

/-! ### The extended set is lent (R304) -/

/-- Stalls at which a holder lends its set (R304). -/
def lendable : Wait → Bool
  | .queue push n _ => 8 ≤ n || (n == 4 && !push)
  | .barrier _ => true
  | .departing _ => true
  | .waitm _ _ _ => true
  | _ => false

/-- A group that waits for the set: at a LOCKX, or as a lender whose stall has ended (R304). -/
def awaitsSet (g : Group) : Bool := (g.xset == .none && g.wait == .lockx) || (g.xset == .lent && g.wait == .none)

/-- EXTENDED_SET_LENDING: the stalled holder in the slot lends its set to its waiting partner (R304). Its values stand in its control
area after the step (Machine/ControlArea.lean). -/
def execExtendedSetLending (s : State) : Host.Outcome State Fault Refusal :=
  match s.group? s.event.core s.event.slot, s.env? s.event.core (s.event.slot ^^^ 1) with
  | some g, some p =>
    if g.xset = .held ∧ lendable g.wait ∧ awaitsSet p.g ∧ g.outstanding.isEmpty ∧ !g.matrix.any (·.ext) then
      let g1 := { g with lentSave := g.arch.extended, arch := g.arch.setExtended [], xset := .lent }
      let p1 := if p.g.xset = .lent then p.g.regainX else p.g.grantX (s.amr p.l.ctx)
      .next ((s.setGroup g1).setGroup p1)
    else .refused .notEnabled
  | _, _ => .refused .notEnabled

/-! ### WAITM wakes (R255) -/

/-- Wakes a sleeping group: due are the tags of the writes that may wake it, the first one first, or 0 alone for a timeout. The choice is
logged, and in replay the unit's next entry must name one of them (R255, R389 kind 6, R391; log entry 29, DEDUCED). -/
def wake (s : State) (e : Env) (due : List (BitVec 64)) : Host.Outcome State Fault Refusal :=
  let go (s : State) : Host.Outcome State Fault Refusal :=
    .next (s.mapGroup e.g.core e.g.slot (fun g => g.completeWord (s.amr e.l.ctx)))
  let entry : LogEntry := { kind := 6, unit := e.g.core, check := BitVec.ofNat 32 e.g.slot, chosen := due.headD 0 }
  if e.l.lh.mode = 0 then go s
  else if e.l.lh.mode = 1 then go (appendLog s e.l entry)
  else match nextEntry e.l e.g.core with
    | none => .next (replayWaiting s e 1)
    | some n =>
      if n.kind = 6 ∧ n.check = entry.check ∧ n.chosen ∈ due then
        go (s.setLaunch { e.l with log := consume e.g.core e.l.log })
      else .refused .notEnabled

/-- MONITOR_WAKE: a write to an armed line wakes the group; with flag set, the write of tag value to another line whose hash
bits the filter holds (R255; log entry 29, DEDUCED). -/
def execMonitorWake (s : State) : Host.Outcome State Fault Refusal :=
  match s.env? s.event.core s.event.slot with
  | none => .refused .notEnabled
  | some e =>
    match e.g.wait with
    | .waitm _ _ due =>
      let tags := due ++ (if s.event.flag then [s.event.value] else [])
      if tags.isEmpty then .refused .notEnabled else wake s e tags
    | _ => .refused .notEnabled

/-- WAITM_TIMEOUT: after 1,048,576 ticks asleep; in replay where the log has it, and with no entry left the task ends (R255, R391). -/
def execWaitmTimeout (s : State) : Host.Outcome State Fault Refusal :=
  match s.env? s.event.core s.event.slot with
  | none => .refused .notEnabled
  | some e =>
    match e.g.wait with
    | .waitm _ since _ =>
      if e.l.lh.mode = 2 then
        (match nextEntry e.l e.g.core with
          | some n => if n.kind = 6 ∧ n.chosen = 0 then wake s e [0] else .refused .notEnabled
          | none => if 0x100000 ≤ (s.tick - since).toNat then .next (replayWaiting s e 1) else .refused .notEnabled)
      else if 0x100000 ≤ (s.tick - since).toNat then wake s e [0]
      else .refused .notEnabled
    | _ => .refused .notEnabled

/-! ### The aged issue (R298) -/

/-- AGED_ISSUE: the group's next run is issued by its second entry (R298). -/
def execAgedIssue (s : State) : Host.Outcome State Fault Refusal :=
  match s.group? s.event.core s.event.slot with
  | none => .refused .notEnabled
  | some g =>
    if agedReady g then .next (s.setGroup { g with arch := { g.arch with aged := true } }) else .refused .notEnabled

end Sys2Proof.Machine
end

