-- ==== Sys2Proof/Machine/Spawn.lean ====
section
/-! DEFINITION. Spawn bins, the spawn queue, the start of groups, and what a core has free (spec/12_execution.md R287 to R293,
spec/13_scheduling_sync.md R317 and R328). -/

namespace Sys2Proof.Machine

/-! ### Arrivals (R289, R290) -/

/-- Threads of a core on their way into bins: the open bins, how many have been opened, and the groups closed. -/
structure Arrival where
  bins : List Bin
  order : Nat
  closed : List PendingGroup := []

def Bin.pending (b : Bin) : PendingGroup := { launch := b.launch, entry := b.entry, threads := b.threads }

/-- Puts a bin into its place; with 64 threads it closes (R291). -/
def Arrival.store (a : Arrival) (b : Bin) : Arrival :=
  let others := a.bins.filter (fun c => c.number != b.number)
  if b.threads.length = 64 then { a with bins := others, closed := a.closed ++ [b.pending] } else { a with bins := b :: others }

/-- The open bin that was opened earliest. -/
def earliestBin : List Bin → Option Bin
  | [] => none
  | b :: bs => match earliestBin bs with
    | some c => if c.order < b.order then some c else some b
    | none => some b

/-- Closes a bin (R291). -/
def Arrival.close (a : Arrival) (b : Bin) : Arrival :=
  { a with bins := a.bins.filter (fun c => c.number != b.number), closed := a.closed ++ [b.pending] }

/-- Opens bin n, which is empty, with one thread. -/
def Arrival.openAt (a : Arrival) (launch : Nat) (entry : BitVec 32) (tick arg : BitVec 64) (n : Nat) (loose : Bool) : Arrival :=
  { a with bins := { number := n, launch := launch, entry := entry, threads := [arg], opened := tick, order := a.order, loose := loose } :: a.bins
           order := a.order + 1 }

/-- Opens a bin with one thread (R290 steps 2 and 3): the empty bin of the lowest number (log entry 131, DESIGN CHOICE). -/
def Arrival.openBin (a : Arrival) (launch : Nat) (entry : BitVec 32) (tick arg : BitVec 64) (loose : Bool) : Arrival :=
  match lowestIndex 16 (a.bins.map (·.number)), earliestBin a.bins with
  | some n, _ => a.openAt launch entry tick arg n loose
  | none, some b => (a.close b).openAt launch entry tick arg b.number loose
  | none, none => a

/-- One thread of an arrival (R290). -/
def Arrival.join (a : Arrival) (launch : Nat) (entry : BitVec 32) (tick arg : BitVec 64) (loose : Bool) : Arrival :=
  match a.bins.find? (fun b => b.launch == launch && b.entry == entry) with
  | some b => a.store { b with threads := b.threads ++ [arg] }
  | none => a.openBin launch entry tick arg loose

/-- Another launch's bin stands at the number that the order log gives to an arrival: the arrival waits until the bin has closed (R291). -/
def Arrival.blocked (a : Arrival) (launch n : Nat) : Bool := a.bins.any (fun b => b.number == n && b.launch != launch && !b.loose)

/-- Empties bin n in replay: a bin whose number is loose takes another number, after step 3 of R290 where no bin is empty, and any other
closes, as it had in the record. -/
def Arrival.vacate (a : Arrival) (n : Nat) : Arrival :=
  match a.bins.find? (fun b => b.number == n) with
  | none => a
  | some b =>
    if !b.loose then a.close b
    else
      let full := (lowestIndex 16 (a.bins.map (·.number))).isNone
      let a1 := if full then (earliestBin a.bins).elim a a.close else a
      match lowestIndex 16 (a1.bins.map (·.number)) with
      | some k => { a1 with bins := a1.bins.map (fun c => if c.number == n then { c with number := k } else c) }
      | none => a1

/-- The first thread of an arrival that the order log sends to bin n (R293; log entry 100, DEDUCED): an open bin of the launch and
entry under another number takes the number if its own is loose, and had closed in the record otherwise. -/
def Arrival.force (a : Arrival) (launch : Nat) (entry : BitVec 32) (tick arg : BitVec 64) (n : Nat) : Arrival :=
  match a.bins.find? (fun b => b.launch == launch && b.entry == entry) with
  | none => (a.vacate n).openAt launch entry tick arg n false
  | some b =>
    if b.number = n then a.store { b with threads := b.threads ++ [arg], loose := false }
    else if b.loose then
      let others := { a with bins := a.bins.filter (fun c => c.number != b.number) }
      (others.vacate n).store { b with number := n, threads := b.threads ++ [arg], loose := false }
    else ((a.close b).vacate n).openAt launch entry tick arg n false

/-- The threads of an arrival enter in order; the log may name the bin of the first (R290, R293). -/
def Arrival.enter (a : Arrival) (launch : Nat) (entry : BitVec 32) (tick : BitVec 64) (loose : Bool) :
    Option Nat → List (BitVec 64) → Arrival
  | _, [] => a
  | none, args => args.foldl (fun r x => r.join launch entry tick x loose) a
  | some n, x :: args => args.foldl (fun r x => r.join launch entry tick x loose) (a.force launch entry tick x n)

/-- The bin that the first lane of an arrival reaches (R389 kind 2). -/
def firstBin (a : Arrival) (launch : Nat) (entry : BitVec 32) : Nat :=
  match a.bins.find? (fun b => b.launch == launch && b.entry == entry) with
  | some b => b.number
  | none => match lowestIndex 16 (a.bins.map (·.number)) with
    | some n => n
    | none => ((earliestBin a.bins).map (·.number)).getD 0

/-- The pending groups that a spawn queue holds (R292). -/
def spawnQueueSize : Nat := 4096

/-- In replay, the bin that the log names for the arrival of a tag, when its turn has come (R293, R391). -/
def loggedBin (s : State) (launch core : Nat) (tag : BitVec 64) : Option Nat :=
  (s.launch? launch).bind fun l =>
    if l.lh.mode ≠ 2 then none
    else (nextEntry l core).bind fun e => if e.kind = 2 ∧ e.chosen = tag ∧ e.check.toNat < 16 then some e.check.toNat else none

/-- An arrival at the bins of the core, and its place in the order log (R290 to R293). -/
def spawnArrival (x : Issue) (entry : BitVec 32) (args : List (BitVec 64)) (s : State) : Res :=
  let k := s.coreAt x.core
  let a0 : Arrival := { bins := k.bins, order := k.binOrder }
  let forced := loggedBin s x.e.l.id x.core x.tag
  let r := a0.enter x.e.l.id entry s.tick (x.e.l.lh.mode == 2) forced args
  if forced.any (a0.blocked x.e.l.id) then .stall
  else if spawnQueueSize < k.spawnQueue.length + r.closed.length then .fault { cls := 8 }
  else match choose s x.e.l.id 2 x.core (BitVec.ofNat 32 (forced.getD (firstBin a0 x.e.l.id entry))) x.tag x.e.t.id with
    | .wait => .stall
    | .mismatch n => .mismatch n
    | .go s1 =>
      let s2 := s1.setCore x.core { k with bins := r.bins, binOrder := r.order, spawnQueue := k.spawnQueue ++ r.closed }
      .done { s := (s2.mapLaunch x.e.l.id (fun l => { l with spawns := true })).mapGroup x.core x.slot Group.bump }

/-- SPAWN (R290 to R293, R328): the arrival follows every access the group issued, so its RED entries are drained first (log entry 66,
DEDUCED). -/
def execSpawn (a b : BitVec 6) (s : State) : Host.Outcome State Fault Refusal :=
  issue { badReg := oddS a, reads := [.v a.toNat, .v (a.toNat + 1), sN b], fence := .stall }
    (fun x s =>
      let entry := x.arch.getS b.toNat
      if x.e.l.kh.codeSize ≤ entry.toNat then .fault { cls := 4, addr := entry.setWidth 64 }
      else if entry.toNat % 4 ≠ 0 then .fault { cls := 5, addr := entry.setWidth 64 }
      else if x.active = 0 then .done { s := s }
      else drainFirst x s (spawnArrival x entry ((laneList x.active).map (fun i => x.arch.getV64 a.toNat i)))) s

/-! ### Closing by the timer (R291, R293) -/

/-- A bin of a core closes into a pending group. -/
def closeBin (s : State) (core : Nat) (b : Bin) : State :=
  let k := s.coreAt core
  s.setCore core { k with bins := k.bins.filter (fun c => c.number != b.number), spawnQueue := k.spawnQueue ++ [b.pending] }

/-- The timer of a bin has run for SPAWNT ticks (R291). -/
def binExpired (s : State) (l : Launch) (b : Bin) : Bool := s.sys l.ctx 0x008 ≤ s.tick - b.opened

/-- Whether a bin closes now by its timer, and the state with the choice made: off and record go by SPAWNT, replay by the
log. -/
def timerClose (s : State) (core : Nat) (b : Bin) : Option State :=
  match s.launch? b.launch with
  | none => none
  | some l =>
    let expired := binExpired s l b
    let entry : LogEntry :=
      { kind := 3, unit := core, check := BitVec.ofNat 32 b.number, chosen := BitVec.ofNat 64 b.threads.length }
    if l.lh.mode = 0 then (if expired then some s else none)
    else if l.lh.mode = 1 then (if expired then some (appendLog s l entry) else none)
    else match nextEntry l core with
      | some e =>
        if e.kind = 3 ∧ (b.loose ∨ e.check = entry.check) ∧ e.chosen = entry.chosen then some (s.setLaunch { l with log := consume core l.log })
        else none
      | none => none

/-- A launch in replay that has an expired bin on the core and no entry left to close it (R90, R391; log entry 100, DEDUCED). -/
def binUnlogged (s : State) (core : Nat) : Option Nat :=
  (s.coreAt core).bins.findSome? (fun b => (s.launch? b.launch).bind (fun l =>
    if l.lh.mode = 2 ∧ (nextEntry l core).isNone ∧ binExpired s l b then some l.id else none))

/-- BIN_TIMER_EXPIRY: the first bin of the core whose timer expires closes, if the spawn queue has room (R291), and stays
open until it has (log entry 132, DESIGN CHOICE); in replay with no entry left for it the task ends (R391 code 1). -/
def execBinTimerExpiry (s : State) : Host.Outcome State Fault Refusal :=
  let core := s.event.core
  let k := s.coreAt core
  let ready := if spawnQueueSize ≤ k.spawnQueue.length then []
    else (sortBy (fun b : Bin => b.order) k.bins).filterMap (fun b => (timerClose s core b).map (fun s1 => (s1, b)))
  match ready, binUnlogged s core with
  | (s1, b) :: _, _ => .next (closeBin s1 core b)
  | [], some id => .next (launchFault s id 16 1)
  | [], none => .refused .notEnabled

/-! ### What a core has free (R317) -/

/-- Slots that hold a group. -/
def heldSlots (s : State) (core : Nat) : List Nat := (s.groups.filter (fun g => g.core == core)).map (·.slot)

/-- The resident teams of a core with their launches, flushed ones included while their commands run (R262). -/
def residentsOf (s : State) (core : Nat) : List (Team × Launch) :=
  ((s.teams ++ s.ghosts).filter (fun t => t.core == core && t.place == .resident)).filterMap (fun t => (s.launch? t.launch).map (fun l => (t, l)))

/-- A core has the Loft and the barrier slots of one more team of a kernel (R317). -/
def fitsTeam (s : State) (core : Nat) (kh : KernelHeader) : Bool :=
  let ts := residentsOf s core
  (ts.map (·.2.kh.loft)).sum + kh.loft ≤ Config.loftGranules && (ts.map (·.2.kh.barriers)).sum + kh.barriers ≤ 32

/-- A cluster has the Barn of a launch, or has given it already (R317). -/
def fitsBarn (s : State) (l : Launch) (cluster : Nat) : Bool :=
  l.clusters.contains cluster
  || ((s.launches.filter (fun m => m.clusters.contains cluster)).map (·.kh.barn)).sum + l.kh.barn ≤ Config.barnGranules

/-! ### Groups at start (R15, R287, R288, R388) -/

/-- Groups of the launch that have started in a slot of a core. -/
def Launch.startCount (l : Launch) (core slot : Nat) : Nat :=
  ((l.starts.find? (fun x => x.1 == core && x.2.1 == slot)).map (·.2.2)).getD 0

def Launch.countStart (l : Launch) (core slot : Nat) : Launch :=
  { l with starts := (core, slot, l.startCount core slot + 1) :: l.starts.filter (fun x => !(x.1 == core && x.2.1 == slot)) }

/-- A group as it starts (R15, R288). -/
def freshGroup (l : Launch) (team index core slot : Nat) (entry : BitVec 32) (live : LaneMask) (ids : List (BitVec 64)) : Group :=
  { core := core, slot := slot, team := team, index := index, live := live, ids := ids, homeCore := core,
    startNumber := l.startCount core slot % 2 ^ 16,
    arch := { frontier := [{ prio := 0x8000, pc := entry, mask := live, guard := guardNone }] } }

/-- Starts a group. -/
def startGroup (s : State) (l : Launch) (team index slot core : Nat) (entry : BitVec 32) (live : LaneMask)
    (ids : List (BitVec 64)) : State :=
  let l1 := (s.launch? l.id).getD l
  { s.mapLaunch l.id (fun m => m.countStart core slot) with
    groups := s.groups ++ [freshGroup l1 team index core slot entry live ids] }

/-- The mask of the lowest n lanes. -/
def lowLanes (n : Nat) : LaneMask := BitVec.ofNat 64 (2 ^ (min n 64) - 1)

/-- SPAWNED_GROUP_START: the oldest pending group of the core's queue starts in its lowest free slot as a team of one group
(R288, R292). -/
def execSpawnedGroupStart (s : State) : Host.Outcome State Fault Refusal :=
  let core := s.event.core
  let k := s.coreAt core
  match k.spawnQueue with
  | [] => .refused .notEnabled
  | p :: rest =>
    match s.launch? p.launch, lowestIndex Config.thresherSlot (heldSlots s core) with
    | some l, some slot =>
      if l.held || l.draining || l.revoked != [] || !fitsTeam s core l.kh then .refused .notEnabled
      else
        let t : Team :=
          { id := s.nextId, launch := l.id, key := (p.threads.headD 0) >>> l.lh.widths.headD 6, core := core, spawned := true,
            entry := p.entry, threads := p.threads, slots := [slot] }
        let s1 := { s.setCore core { k with spawnQueue := rest } with teams := s.teams ++ [t], nextId := s.nextId + 1 }
        .next (startGroup s1 l t.id 0 slot core p.entry (lowLanes p.threads.length) p.threads)
    | _, _ => .refused .notEnabled

end Sys2Proof.Machine
end

