-- ==== Sys2Proof/Machine/SaveArea.lean ====
section
/-! DEFINITION. The save pool and the layout of the team area and the group areas in it, and the thread-local memory that a save
carries along (spec/14_isolation.md R364, spec/15_recovery.md R383 to R385). -/

namespace Sys2Proof.Machine

/-- A piece of an area: an offset and the bytes there. Bytes that no piece covers are zero. -/
abbrev Piece := Nat × List Byte

/-- A number of n bytes at an offset. -/
def num (off n x : Nat) : Piece := (off, leBytes n x)

/-- Moves pieces by an offset. -/
def shift (off : Nat) (ps : List Piece) : List Piece := ps.map (fun p => (off + p.1, p.2))

/-! ### Sizes (R383) -/

/-- n rounded up to a multiple of u. -/
def roundUp (u n : Nat) : Nat := (n + u - 1) / u * u

/-- Bytes of a team area. -/
def teamAreaBytes (kh : KernelHeader) : Nat := roundUp 4096 (4096 + 256 * kh.loft)

/-- Bytes of a group area. -/
def groupAreaBytes (kh : KernelHeader) : Nat := roundUp 256 (0x26100 + 64 * kh.tlm)

/-- Bytes of a team's save. -/
def saveBytes (kh : KernelHeader) (groups : Nat) : Nat := teamAreaBytes kh + groups * groupAreaBytes kh

/-- The areas in use: address and bytes. -/
def usedAreas (s : State) : List (Nat × Nat) :=
  s.teams.filterMap (fun t => match t.place with
    | .saved _ _ _ _ a => (s.launch? t.launch).map (fun l => (a, saveBytes l.kh t.slots.length))
    | .resident => none)

/-- The lowest free place of n bytes in the save pool (R383). -/
def freeArea (s : State) (n : Nat) : Option Nat :=
  let used := usedAreas s
  let clear (a : Nat) : Bool := a + n ≤ Config.granaryBytes && used.all (fun u => a + n ≤ u.1 || u.1 + u.2 ≤ a)
  ((sortBy id (Config.savePoolBase :: used.map (fun u => roundUp 4096 (u.1 + u.2)))).filter clear).head?

/-! ### The team area (R384) -/

/-- The mask of the bits in a list. -/
def bitMask (ns : List Nat) : Nat := ns.foldl (fun m n => m ||| 2 ^ n) 0

/-- The barrier entries. -/
def barrierPieces (t : Team) : List Piece :=
  t.barriers.flatMap (fun b =>
    let at_ := 0x100 + 16 * b.slot
    let kind := (b.arrived.head?).map (fun a => a.2.2.1 + (if a.2.1 then 8 else 0) + 16 * a.2.2.2.1)
    [num at_ 4 b.generation.toNat, num (at_ + 4) 2 (bitMask (b.arrived.map (·.1))), num (at_ + 6) 1 (kind.getD 0),
     num (at_ + 7) 1 (((b.arrived.head?).map (·.2.2.2.2)).getD 0)])

/-- The queue entries. -/
def queuePieces (t : Team) : List Piece :=
  t.queues.map (fun b => num (0x300 + 8 * (b.q - 8)) 8 (b.handle.toNat + (b.capacity - 1) * 2 ^ 16 + 2 ^ 28))

/-- The Loft table and the contents: a tile's place is the granules before it. -/
def loftPieces : Nat → Nat → List Tile → List Piece
  | _, _, [] => []
  | k, before, x :: xs =>
    [num (0x380 + 16 * k) 2 x.index, num (0x384 + 16 * k) 4 x.granules, num (0x388 + 16 * k) 4 (256 * before),
     num (0x38C + 16 * k) 4 x.shape.toNat]
    ++ x.bytes.map (fun b => (0x1000 + 256 * before + b.1, [b.2]))
    ++ loftPieces (k + 1) (before + x.granules) xs

/-- The thresher block with the team's inputs and results. -/
def thresherPieces (block : Option ThrBlock) (inputs : List ThrInput) (results : List ThrResult) : List Piece :=
  let own : List Piece := match block with
    | none => []
    | some b =>
      [num 0 4 b.pc, num 4 4 b.bit, num 8 4 b.steps, num 0xC 2 b.tile, num 0xE 2 b.history.length,
       num 0x10 8 b.input.word.toNat, num 0x18 1 b.input.group, (0x20, (b.sector.map (·.2)).getD []), (0x80, b.history.reverse)]
      ++ b.h.map (fun r => num (0x40 + 4 * r.1) 4 r.2.toNat) ++ b.table.map (fun r => num (0x200 + 4 * r.1) 4 r.2.toNat)
  let listed {α : Type} (xs : List α) (f : Nat → α → List Piece) : List Piece := (xs.zip (List.range xs.length)).flatMap (fun x => f x.2 x.1)
  own ++ [num 0x180 1 (if block.isSome then 1 else 0), num 0x181 1 inputs.length, num 0x182 1 results.length]
  ++ listed inputs (fun k i => [num (0x600 + 8 * k) 8 i.word.toNat, num (0x748 + k) 1 i.group])
  ++ listed results (fun k r => [num (0x700 + 8 * k) 8 r.entry.toNat, num (0x740 + k) 1 r.group])

/-- The slots of a team: byte g holds that of group g (R320, R384). -/
def slotBytes (slots : List Nat) : List Byte := (List.range 16).map (fun g => BitVec.ofNat 8 (slots.getD g 0xFF))

/-- The team area. -/
def teamPieces (t : Team) (l : Launch) (hold : Bool) (block : Option ThrBlock) (inputs : List ThrInput)
    (results : List ThrResult) : List Piece :=
  [num 0 4 0x53544733, num 4 1 t.slots.length, num 5 1 (if hold then 1 else 0), num 6 2 t.core, num 8 8 t.key.toNat,
   num 0x10 8 l.tcb.toNat, num 0x18 8 t.watchdog.toNat, (0x20, slotBytes t.slots), num 0x30 4 l.kh.loft]
  ++ barrierPieces t ++ queuePieces t ++ loftPieces 0 0 t.loft ++ shift 0x800 (thresherPieces block inputs results)

/-! ### The group areas (R306, R385) -/

/-- The pending set as bits: v from bit 0, s from bit 256, t from bit 320, a from bit 328. -/
def pendingBit : RegRef → Option Nat
  | .v n => some n
  | .s n => some (256 + n)
  | .t n => some (320 + n)
  | .a n => some (328 + n)
  | .p _ => none
  | .tw _ => none
  | .fl => none

/-- The descriptor of a scratch operand; zero for a tile register. -/
def sourceDescriptor : MatrixSource → Nat
  | .tile _ => 0
  | .scratch d => d.toNat

/-- The record of a matrix operation. -/
def matrixRecord (o : MatrixOp) : List Byte :=
  record 64 [(0, 4, o.word.toNat), (4, 4, o.limm.toNat), (8, 8, sourceDescriptor o.a), (16, 8, sourceDescriptor o.b),
    (24, 8, o.mask.toNat), (32, 4, o.tw.toNat), (36, 1, o.done), (37, 1, 1)]

/-- The format code of an accumulator. -/
def accCode : AccFmt → Nat
  | .none => 0
  | .chain => 1
  | .narrow => 2
  | .integer => 3

/-- Where the area of an accumulator lies. -/
def accOffset (n : Nat) : Nat := 0x900 + 0x900 * n

/-- The elements of an accumulator that has a format. -/
def accElements (a : Acc) : List Byte :=
  if a.fmt = .none then [] else lanes.flatMap (fun i => (List.range 8).flatMap (fun c => leBytes 4 (a.elem i c).toNat))

/-- An accumulator. -/
def accPieces (n : Nat) (a : Acc) : List Piece :=
  let at_ := accOffset n
  [num at_ 1 (accCode a.fmt), num (at_ + 1) 1 a.f.toNat, num (at_ + 4) 4 a.steps.toNat]
  ++ a.flags.map (fun f => num (at_ + 0x40 + 2 * f.1) 2 f.2.toNat) ++ [(at_ + 0x100, accElements a)]

/-- The return stack of a lane, newest first: its entries by level from the oldest. -/
def returnPieces (lane : Nat) (rs : List Return) : List Piece :=
  num (0x3C0 + lane) 1 rs.length
  :: (rs.zip (List.range rs.length)).map (fun r =>
    (0x9100 + (64 * (rs.length - 1 - r.2) + lane) * 8, returnRecord r.1))

/-- A register of 64 lanes as a spill record. -/
def registerPiece (off n : Nat) (v : SMap Word) : Piece :=
  (off, spillRecord (lanes.map (fun i => smGet (0 : Word) (64 * n + i) v)))

/-- The record of a RED entry. -/
def redRecord (e : RedEntry) (batched : Bool) : List Byte :=
  record 32 [(0, 8, e.addr.toNat), (8, 8, e.operand.toNat), (16, 1, e.op), (17, 1, e.type), (18, 1, e.lane),
    (19, 1, if batched then 1 else 0), (20, 4, (e.tag >>> 16).toNat % 2 ^ 32)]

/-- The state byte of a group. -/
def stateByte (g : Group) : Nat :=
  (if g.handler.isSome then 1 else 0) + (match g.xset with
    | .none => 0
    | .held => 2
    | .lent => 4) + (match g.wait with
    | .barrier _ => 8
    | _ => 0)

/-- The payload lengths of the last PREF. -/
def prefLengths (g : Group) : Nat :=
  (g.pref.zip (List.range 3)).foldl (fun m p => m + p.1.1.toNat * 2 ^ (8 * p.2) + p.1.2.toNat * 2 ^ (24 + 6 * p.2)) 0

/-- A group area without its thread-local bytes. -/
def groupPieces (g : Group) (l : Launch) : List Piece :=
  let a := g.arch
  let reds := g.batch.map (fun e => redRecord e true) ++ (sortBy (RedEntry.rank g) g.reds).map (fun e => redRecord e false)
  let listed (off step : Nat) (rs : List (List Byte)) : List Piece := (rs.zip (List.range rs.length)).map (fun r => (off + step * r.2, r.1))
  let xv := if g.xset = .lent then g.lentSave else a.v
  [num 0 4 0x53564733, num 4 1 g.slot, num 5 1 g.index, num 6 1 (stateByte g), num 7 1 (areaFrontier g).length,
   num 8 4 a.sseq.toNat, num 0xC 4 g.request.toNat, num 0x10 2 a.aging, num 0x12 2 reds.length, num 0x14 8 (prefLengths g),
   num 0x1C 2 g.homeCore, num 0x1E 2 g.startNumber,
   num 0x40 0x2A (bitMask (a.pending.filterMap pendingBit))]
  ++ (match g.handler with
    | some h => (0x20, frontierRecord { h.suspended with pc := 0 } 0)
        :: (h.shadow.zip (List.range 8)).map (fun x => num (0x3A0 + 4 * x.2) 4 x.1.toNat)
    | none => [])
  ++ a.s.map (fun x => num (0x80 + 4 * x.1) 4 x.2.toNat)
  ++ a.p.map (fun x => num (0x180 + 8 * x.1) 8 x.2.toNat)
  ++ a.fl.map (fun x => num (0x300 + 2 * x.1) 2 x.2.toNat)
  ++ (List.range l.kh.tiles).map (fun n => num (0x380 + 4 * n) 4 (a.getTw n).toNat)
  ++ listed 0x400 16 ((areaFrontier g).map (fun e => frontierRecord e.1 e.2))
  ++ listed 0x700 64 (g.matrix.map matrixRecord)
  ++ g.accs.flatMap (fun x => accPieces x.1 x.2)
  ++ a.t.map (fun x => (0x5100 + x.1, [x.2]))
  ++ a.returns.flatMap (fun x => returnPieces x.1 x.2)
  ++ (List.range l.kh.regs).map (fun n => registerPiece (0x11100 + 272 * n) n a.v)
  ++ (if g.xset = .none then [] else (List.range 128).map (fun n => registerPiece (0x19900 + 272 * n) (128 + n) xv))
  ++ listed 0x22100 32 reds

/-! ### Thread-local memory (R364) -/

/-- The bytes and the poison of a group's thread-local memory: each byte with whether it is poisoned. -/
def threadBytes (s : State) (l : Launch) (core slot : Nat) : List (Byte × Bool) :=
  (List.range (64 * l.kh.tlm)).map (fun i =>
    match translate s l.ctx (threadRegion s l.ctx core slot + i) with
    | some f => (s.memory.readByte f.tier f.phys, s.memory.poisoned f.tier f.phys 1)
    | none => (0, false))

/-! ### Writing and reading areas -/

/-- Puts pieces at an address. -/
def putPieces (m : SMap Byte) (a : Nat) (ps : List Piece) : SMap Byte := ps.foldl (fun m p => putCells m (a + p.1) p.2) m

/-- Where the area of group number k of a save lies. -/
def groupAreaAt (kh : KernelHeader) (a k : Nat) : Nat := a + teamAreaBytes kh + k * groupAreaBytes kh

/-- The bytes of a group area that a save writes: all but the fields of undeclared registers, and of an extended set that the group
neither holds nor has lent (R385). -/
def writtenParts (kh : KernelHeader) (g : Group) : List (Nat × Nat) :=
  [(0, 0x380 + 4 * kh.tiles), (0x3A0, 0x560), (0x900, 0x900 * kh.accs), (0x5100, 2048 * kh.tiles), (0x9100, 0x8000), (0x11100, 272 * kh.regs)]
  ++ (if g.xset = .none then [] else [(0x19900, 272 * 128)]) ++ [(0x22100, 0x4000 + 64 * kh.tlm)]

/-- The parts of the pool that a save writes. -/
def savedParts (kh : KernelHeader) (gs : List Group) : List (Nat × Nat) :=
  (0, teamAreaBytes kh) :: gs.flatMap (fun g => (writtenParts kh g).map (fun r => (groupAreaAt kh 0 g.index + r.1, r.2)))

/-- The pieces of a whole save with the thread-local bytes of its groups. -/
def savePieces (s : State) (t : Team) (l : Launch) (hold : Bool) (gs : List Group) (block : Option ThrBlock)
    (inputs : List ThrInput) (results : List ThrResult) : List Piece :=
  teamPieces t l hold block inputs results
  ++ gs.flatMap (fun g => shift (groupAreaAt l.kh 0 g.index)
      (groupPieces g l ++ [(0x26100, (threadBytes s l t.core g.slot).map (·.1))]))

/-! ### Poison that a save carries (R394, R411) -/

/-- The 32-byte units that n bytes at an offset touch. -/
def sectorRange (off n : Nat) : List Nat := (List.range ((off + n + 31) / 32 - off / 32)).map (fun k => off / 32 + k)

/-- Where a register lies in a group area. -/
def registerField : RegRef → Nat × Nat
  | .v n => if n < 128 then (0x11100 + 272 * n, 272) else (0x19900 + 272 * (n - 128), 272)
  | .s n => (0x80 + 4 * n, 4)
  | .p n => (0x180 + 8 * n, 8)
  | .t n => (0x5100 + 2048 * n, 2048)
  | .a n => (accOffset n + 0x100, 2048)
  | .tw n => (0x380 + 4 * n, 4)
  | .fl => (0x300, 128)

/-- The fields of a group area that hold poisoned data: its registers in error, those of the trap shadow, its poisoned tile registers and
accumulators. -/
def poisonedFields (g : Group) : List (Nat × Nat) :=
  (g.bad ++ g.arch.tPoison.map RegRef.t ++ (g.accs.filter (fun x => x.2.poison)).map (fun x => RegRef.a x.1)).map registerField
  ++ (if g.handler.any (fun h => h.bad != []) then [(0x3A0, 32)] else [])

/-- The poisoned sectors that tiles bring into a team area: each tile lies behind the granules before it. -/
def tilePoison : Nat → List Tile → List Nat
  | _, [] => []
  | before, x :: xs => x.poison.map (fun w => (0x1000 + 256 * before + 16 * w) / 32) ++ tilePoison (before + x.granules) xs

/-- The sectors of an area that its team's poisoned registers and tiles poison, thread-local bytes apart. -/
def ownPoison (kh : KernelHeader) (a : Nat) (t : Team) (gs : List Group) : List Nat :=
  (tilePoison 0 t.loft).map (fun k => a / 32 + k)
  ++ gs.flatMap (fun g => (poisonedFields g).flatMap (fun f => sectorRange (groupAreaAt kh a g.index + f.1) f.2))

/-- The poisoned sectors that a save brings into an area (R394). -/
def savePoison (s : State) (t : Team) (l : Launch) (a : Nat) (gs : List Group) : List Nat :=
  ownPoison l.kh a t gs ++ gs.flatMap (fun g =>
    let bs := threadBytes s l t.core g.slot
    ((bs.zip (List.range bs.length)).filter (fun b => b.1.2)).map (fun b => (groupAreaAt l.kh a g.index + 0x26100 + b.2) / 32))

/-- Writes a save at an address of the pool; a sector that it writes whole is poisoned by what it brings only (R394). -/
def writeSave (s : State) (a : Nat) (t : Team) (l : Launch) (hold : Bool) (gs : List Group) (block : Option ThrBlock)
    (inputs : List ThrInput) (results : List ThrResult) : State :=
  let parts := savedParts l.kh gs
  let m := s.memory
  let cleared := parts.foldl (fun m r => smEraseRange (a + r.1) r.2 m) m.granary
  let kept := parts.foldl (fun p r => keepPoison 32 (a + r.1) r.2 p) m.granaryPoison
  { s with memory := { m with
      granary := putPieces cleared a (savePieces s t l hold gs block inputs results)
      granaryPoison := (savePoison s t l a gs ++ kept).eraseDups } }

/-! ### Errors that strike a save (R394; log entry 101, DESIGN CHOICE) -/

/-- The sectors of n bytes at an address of the pool that an error has struck since the save. -/
def struckSectors (s : State) (own : List Nat) (a n : Nat) : List Nat :=
  s.memory.granaryPoison.filter (fun k => a ≤ 32 * k && 32 * k < a + n && !own.contains k)

/-- The registers of a group whose fields a struck sector meets; off is the sector's offset in the group area. -/
def registersAt (kh : KernelHeader) (off : Nat) : List RegRef :=
  let from_ (base size : Nat) : List Nat := (List.range ((off + 32 - base + size - 1) / size - (off - base) / size)).map (fun k => (off - base) / size + k)
  if 0x80 ≤ off ∧ off < 0x180 then (from_ 0x80 4).map .s
  else if 0x180 ≤ off ∧ off < 0x300 then (from_ 0x180 8).map .p
  else if 0x300 ≤ off ∧ off < 0x380 then [.fl]
  else if 0x380 ≤ off ∧ off < 0x3A0 then ((from_ 0x380 4).filter (· < kh.tiles)).map .tw
  else if 0x11100 ≤ off ∧ off < 0x19900 then ((from_ 0x11100 272).filter (· < kh.regs)).map .v
  else if 0x19900 ≤ off ∧ off < 0x22100 then ((from_ 0x19900 272).filter (· < 128)).map (fun n => .v (128 + n))
  else if 0x5100 ≤ off ∧ off < 0x9100 then ((from_ 0x5100 2048).filter (· < kh.tiles)).map .t
  else if 0x900 ≤ off ∧ off < 0x5100 ∧ 0x100 ≤ (off - 0x900) % 0x900 then ([(off - 0x900) / 0x900].filter (· < kh.accs)).map .a
  else []

/-- A struck sector of a group area holds nothing but registers or thread-local bytes: no control data. -/
def holdsData (off : Nat) : Bool :=
  (0x80 ≤ off && off < 0x3A0) || (0x900 ≤ off && off < 0x5100 && 0x100 ≤ (off - 0x900) % 0x900) || (0x5100 ≤ off && off < 0x9100)
  || (0x11100 ≤ off && off < 0x22100) || 0x26100 ≤ off

/-- A register that an error has struck. -/
def Group.strike (g : Group) : RegRef → Group
  | .t n => { g with arch := { g.arch with tPoison := n :: g.arch.tPoison.filter (· != n) } }
  | .a n => g.setAcc n { g.acc n with poison := true }
  | r => { g with bad := r :: g.bad.filter (· != r) }

/-- A saved group with what has struck its area. -/
def struckGroup (s : State) (kh : KernelHeader) (own : List Nat) (a : Nat) (g : Group) : Group :=
  let at_ := groupAreaAt kh a g.index
  ((struckSectors s own at_ 0x26100).flatMap (fun k => registersAt kh (32 * k - at_))).foldl Group.strike g

/-- Saved tiles with what has struck their contents; before counts the granules before the first. -/
def struckTiles (hit : List Nat) : Nat → List Tile → List Tile
  | _, [] => []
  | before, x :: xs =>
    let words := (List.range (16 * x.granules)).filter (fun w => hit.contains ((0x1000 + 256 * before + 16 * w) / 32))
    { x with poison := (words ++ x.poison).eraseDups } :: struckTiles hit (before + x.granules) xs

/-- An error has struck control data of a save: bytes that are neither registers, nor tile contents, nor thread-local. -/
def controlStruck (s : State) (kh : KernelHeader) (own : List Nat) (a : Nat) (gs : List Group) : Bool :=
  !(struckSectors s own a 0x1000).isEmpty
  || gs.any (fun g => (struckSectors s own (groupAreaAt kh a g.index) 0x26100).any (fun k => !holdsData (32 * k - groupAreaAt kh a g.index)))

/-- Copies a group's thread-local bytes from its area into the region of the slot it resumes in, sector by sector (R364). -/
def restoreThreads (s : State) (l : Launch) (a core : Nat) (g : Group) : State :=
  let at_ := groupAreaAt l.kh a g.index + 0x26100
  let base := threadRegion s l.ctx core g.slot
  (sectorsOf base (s.memory.read .granary at_ (64 * l.kh.tlm))).foldl (fun s q =>
    match translate s l.ctx q.1 with
    | some f =>
      let p : Place := .mem f.tier f.phys 0
      let s1 := s.putPlace p q.2
      if s.memory.poisoned .granary (at_ + (q.1 - base)) q.2.length then s1.poisonPlace p q.2.length else s1
    | none => s) s

end Sys2Proof.Machine
end

