-- ==== Sys2Proof/Machine/Leases.lean ====
section
/-! DEFINITION. Residency leases: the regions a launch holds leases over, where they lie in the intermediate space, whether their
pages are resident, and which launches an invalidation strikes (spec/14_isolation.md R351, R359 to R364). -/

namespace Sys2Proof.Machine

/-! ### Regions in range registers -/

/-- A region lies in one range register of kind 1. -/
def inOneRange (s : State) (ctx : Nat) (r : Region) : Bool :=
  (List.range 16).any (fun n => rangeKind s ctx n == 1 && rangeBase s ctx n ≤ r.1 && r.1 + r.2 ≤ rangeBase s ctx n + rangeBytes s ctx n)

/-! ### The leases of a launch (R360) -/

/-- The declared leases. -/
def declaredRegions (lh : LaunchHeader) : List Region := lh.leases.map (fun e => (e.1.toNat, 4096 * e.2))

/-- The code object as a region. -/
def codeRegion (kh : KernelHeader) (lh : LaunchHeader) : Region := (lh.kernel.toNat, 0x180 + kh.codeSize)

/-- The implicit leases besides the code object: launch header, TCB, fault area, order log, dispatch trace, thread-local
memory. -/
def implicitRegions (s : State) (ctx : Nat) (lh : LaunchHeader) (header tcb : Nat) (fault : Region) : List Region :=
  [(header, 256), (tcb, 64), fault, (lh.logBase.toNat, 4096 * lh.logPages), (lh.traceBase.toNat, 4096 * lh.tracePages),
   ((s.sys ctx 0x183).toNat, 4096 * (s.sys ctx 0x184).toNat)]

/-- The virtual address of a launch header, from the TCB's bytes. -/
def headerAddress (tcb : List Byte) : Nat := byteField tcb 0x10 8

/-- Every leased region of an admitted launch. -/
def leaseRegions (s : State) (l : Launch) : List Region :=
  declaredRegions l.lh ++ codeRegion l.kh l.lh
    :: implicitRegions s l.ctx l.lh l.header.toNat l.tcb.toNat (l.faultBase.toNat, l.faultBytes)

/-- The leases of a launch that are granted, each with its place among all of them. -/
def grantedLeases (s : State) (l : Launch) : List (Region × Nat) := (leaseRegions s l).zipIdx.filter (fun r => !l.revoked.contains r.2)

/-- Two regions share a byte. -/
def overlaps (a b : Region) : Bool := a.2 != 0 && b.2 != 0 && a.1 < b.1 + b.2 && b.1 < a.1 + a.2

/-- A range register of kind 1 is pinned by a granted lease of the context (R351). -/
def rangePinned (s : State) (ctx n : Nat) : Bool :=
  rangeKind s ctx n == 1 && s.launches.any (fun l => l.ctx == ctx &&
    (grantedLeases s l).any (fun r => overlaps r.1 (rangeBase s ctx n, rangeBytes s ctx n)))

/-! ### Residency (R360) -/

/-- Follows the leaves over a piece: the predicate holds of each with the bytes it serves; holes says whether invalid entries
may stand between them. -/
def allLeaves (s : State) (ctx : Nat) (holes : Bool) (p : Leaf → Nat → Bool) : Nat → Region → Bool
  | 0, r => holes || r.2 == 0
  | k + 1, (ia, n) =>
    if n = 0 then true
    else match walk s ctx ia with
      | none =>
        let m := min n (4096 - ia % 4096)
        holes && allLeaves s ctx holes p k (ia + m, n - m)
      | some f =>
        let m := min n (f.size - ia % f.size)
        p f m && allLeaves s ctx holes p k (ia + m, n - m)

/-- A host page of the leaf's bytes that the host refuses. -/
def leafRefused (refused : List Nat) (f : Leaf) (m : Nat) : Bool :=
  f.tier == .host && refused.any (fun g => overlaps (4096 * g, 4096) (f.bus, m))

/-- Every page of a region is resident, or is made so by the host, which refuses the pages listed (R360). -/
def regionResident (s : State) (ctx : Nat) (refused : List Nat) (r : Region) : Bool :=
  match piecesOf s ctx r with
  | none => false
  | some ps => ps.all (fun q => allLeaves s ctx false (fun f m => !leafRefused refused f m) (q.2 / 4096 + 2) q)

/-! ### Invalidations (R359, R362) -/

/-- The block of intermediate addresses that an XLINV names, if its layout is right (R359). -/
def xlinvBlock (v : BitVec 64) : Option Region :=
  let x := v.toNat
  if field x 2 1 = 1 then (if x = 4 then some (0, 2 ^ 52) else none)
  else
    let bytes : Nat := match field x 0 2 with
      | 0 => 2 ^ 12
      | 1 => 2 ^ 16
      | 2 => 2 ^ 21
      | _ => 2 ^ 30
    let ia := field x 12 40 * 4096
    if field x 3 9 = 0 ∧ field x 52 12 = 0 ∧ ia % bytes = 0 then some (ia, bytes) else none

/-- Launches with the granted leases of which hit holds of a piece; a launch that is not concerned, or has none, does not stand. -/
def struckLeases (s : State) (concerned : Launch → Bool) (hit : Launch → Region → Bool) : List (Nat × List Nat) :=
  s.launches.filterMap fun l =>
    let ks := ((grantedLeases s l).filter (fun r => ((piecesOf s l.ctx r.1).getD []).any (hit l))).map (·.2)
    if concerned l && ks != [] then some (l.id, ks) else none

/-- The leases with a page in a block of the context's intermediate space. -/
def struckByBlock (s : State) (ctx : Nat) (block : Region) : List (Nat × List Nat) :=
  struckLeases s (fun l => l.ctx == ctx) (fun _ p => overlaps p block)

/-- The leases with a host page among n pages from an untranslated address; with a PASID, only in contexts that bear it. -/
def struckByPages (s : State) (pasid : Option Nat) (addr n : Nat) : List (Nat × List Nat) :=
  let bears (c : Nat) : Bool := match pasid with
    | none => true
    | some p => field (s.sys c 0x182).toNat 0 20 == p && (s.sys c 0x182).getLsbD 31
  struckLeases s (fun l => bears l.ctx)
    (fun l q => !allLeaves s l.ctx true (fun f m => !(f.tier == .host && overlaps (addr, 4096 * n) (f.bus, m))) (q.2 / 4096 + 2) q)

/-- The leases that an invalidation strikes as the state stands: those granted since it came are among them. -/
def struckNow (s : State) (v : Invalidation) : List (Nat × List Nat) :=
  if v.management then ((xlinvBlock v.addr).map (struckByBlock s v.ctx)).getD []
  else struckByPages s v.pasid v.addr.toNat v.num

/-- Those that are not being revoked yet. -/
def freshStrikes (s : State) (v : Invalidation) : List (Nat × List Nat) :=
  (struckNow s v).filterMap fun x =>
    let ks := x.2.filter (fun k => !((s.launch? x.1).map (·.revoking.contains k)).getD true)
    if ks = [] then none else some (x.1, ks)

/-- The leases that the invalidation revokes when it completes. -/
def hitLeases (s : State) (v : Invalidation) : List (Nat × List Nat) :=
  let xs := v.struck ++ struckNow s v
  s.launches.filterMap fun l =>
    let ks := l.revoking.filter (fun k => xs.any (fun x => x.1 == l.id && x.2.contains k))
    if ks = [] then none else some (l.id, ks)

/-! ### Undrained RED entries whose translation has ended (R225, R361, R362; log entry 88, DEDUCED) -/

/-- An undrained entry walked again: where it goes now, or the class that the walk raises (R361). -/
def rewalk (s : State) (u : Accessor) (r : RedEntry) : Except Nat Place :=
  match r.place with
  | .mem _ _ _ => locateVirtual s u .atomic r.op false r.width r.addr.toNat
  | p => .ok p

/-- The undrained entries of a group walked again: an entry that its walk refuses leaves, and its lanes fault. -/
def rewalkGroup (s : State) (e : Env) : State :=
  let again (rs : List RedEntry) : List RedEntry := rs.filterMap (fun r => match rewalk s e.accessor r with
    | .ok p => some { r with place := p }
    | .error _ => none)
  let fails := sortBy (fun f : Nat × Nat × BitVec 64 => f.1) ((e.g.batch ++ e.g.reds).filterMap (fun r => match rewalk s e.accessor r with
    | .ok _ => none
    | .error c => some (r.lane, c, r.addr)))
  let faults := (lanesFault fails false).toList.map (fun f =>
    { e.headTrap s f.cls f.code with mask := f.mask, addr := f.addr, addrs := f.addrs, async := true })
  let window := e.g.fence.map (fun w => { w with after := w.after ++ faults })
  s.setGroup ({ e.g with reds := again e.g.reds, batch := again e.g.batch, fence := window }.addAfter faults)

/-- As rewalkGroup, for every group of a team that is on its core. -/
def rewalkTeam (s : State) (team : Nat) : State :=
  (s.groups.filter (fun g => g.team == team)).foldl (fun s g => (s.env? g.core g.slot).elim s (rewalkGroup s)) s

/-- The struck launches stop issuing (R362 step 1). -/
def stopLaunches (s : State) (struck : List (Nat × List Nat)) : State :=
  { s with launches := s.launches.map (fun l =>
      { l with revoking := (l.revoking ++ (struck.filter (fun x => x.1 == l.id)).flatMap (·.2)).eraseDups }) }

end Sys2Proof.Machine
end

