-- ==== Sys2Proof/Machine/Placement.lean ====
section
/-! DEFINITION. Placing teams on cores: fresh ones, recorded ones and saved ones, and DISPATCH_STEP (spec/12_execution.md R285 to
R288 and R305, spec/13_scheduling_sync.md R317 to R321, spec/15_recovery.md R379 and R380). -/

namespace Sys2Proof.Machine

/-! ### Cores and slots (R317) -/

/-- The cores from the next-core pointer on. -/
def coreOrder (s : State) : List Nat := (List.range Config.cores).map (fun k => (s.nextCore + k) % Config.cores)

/-- The partition with the most free slots, ties to the lower one. -/
def bestPartition (free : List Nat) : Nat :=
  let count (p : Nat) : Nat := (free.filter (fun n => partitionOf n == p)).length
  (List.range 4).foldl (fun b p => if count b < count p then p else b) 0

/-- Slots for n groups in turn (R317 step 3). -/
def chooseSlots : Nat → List Nat → Option (List Nat)
  | 0, _ => some []
  | n + 1, free =>
    match lowestIndex 64 ((List.range 64).filter (fun k => !(free.contains k && partitionOf k == bestPartition free))) with
    | none => none
    | some k => (chooseSlots n (free.filter (· != k))).map (fun ks => k :: ks)

/-- Free slots of a core. -/
def freeSlots (s : State) (core : Nat) : List Nat :=
  let held := heldSlots s core
  (List.range Config.thresherSlot).filter (fun k => !held.contains k)

/-- A core has everything but slots for one more team of a launch (R317). -/
def fitsCore (s : State) (l : Launch) (core : Nat) : Bool := fitsTeam s core l.kh && fitsBarn s l (clusterOf core)

/-- Given slots are free on a core. -/
def slotsFree (s : State) (core : Nat) (slots : List Nat) : Bool :=
  let free := freeSlots s core
  slots.all (fun k => free.contains k)

/-! ### The dispatch trace (R320) -/

/-- An entry of the trace. -/
def traceEntry (key core : Nat) (slots : List Nat) : List Byte :=
  record 16 [(0, 8, key), (8, 2, core), (10, 1, slots.length)] ++ slotBytes slots

/-- The keys of the entries written so far. -/
def tracedKeys (l : Launch) : List Nat := (List.range l.traced).map (fun m => byteField l.traceBytes (0x40 + 32 * m) 8)

/-- Writes the entry of a placed team, once for each team. -/
def traceTeam (s : State) (id key core : Nat) (slots : List Nat) : State :=
  match s.launch? id with
  | none => s
  | some l =>
    if l.lh.mode ≠ 1 ∨ (tracedKeys l).contains key then s
    else
      let e := traceEntry key core slots
      let bytes := putBytes (l.traceBytes ++ e) 4 (leBytes 4 (l.traced + 1))
      let s1 := s.setLaunch { l with traced := l.traced + 1, traceBytes := bytes }
      hwWrite (hwWrite s1 l.ctx (l.lh.traceBase.toNat + 0x40 + 32 * l.traced) e) l.ctx (l.lh.traceBase.toNat + 4) (leBytes 4 (l.traced + 1))

/-! ### Fresh teams (R287, R288, R317) -/

/-- The lanes of group g that are live at start (R287). -/
def liveLanes (lh : LaunchHeader) (g : Nat) : LaneMask := lowLanes (lh.extents.headD 1 - 64 * g)

/-- Puts a fresh team on a core. -/
def installTeam (s : State) (l : Launch) (key core : Nat) (slots : List Nat) : State :=
  let t : Team := { id := s.nextId, launch := l.id, key := BitVec.ofNat 64 key, core := core, spawned := false, slots := slots }
  let s1 := { s with teams := s.teams ++ [t], nextId := s.nextId + 1, nextCore := (core + 1) % Config.cores }
  let s2 := s1.mapLaunch l.id (fun m =>
    { m with unplaced := m.unplaced.erase key, clusters := (clusterOf core :: m.clusters).eraseDups, dispatched := true,
             trace := m.trace.filter (fun e => e.1 != key) })
  let s3 := (slots.zip (List.range slots.length)).foldl (fun s x =>
    startGroup s l t.id x.2 x.1 core l.kh.entry (liveLanes l.lh x.2) []) s2
  traceTeam s3 l.id key core slots

/-- The core and slots for a fresh team: the recorded ones in replay, as long as it has not started before (R317, R321). -/
def freshPlace (s : State) (l : Launch) (key : Nat) : Option (Nat × List Nat) :=
  match l.trace.find? (fun e => e.1 == key) with
  | some (_, core, slots) => if fitsCore s l core && slotsFree s core slots then some (core, slots) else none
  | none =>
    ((coreOrder s).filter (fitsCore s l)).findSome? (fun c => (chooseSlots l.groupCount (freeSlots s c)).map (fun ks => (c, ks)))

/-- Places one fresh team. -/
def placeFresh (s : State) (id key : Nat) : Option State :=
  (s.launch? id).bind fun l => (freshPlace s l key).map fun p => installTeam s l key p.1 p.2

/-! ### Saved teams (R305, R319, R380) -/

/-- A group comes back into its slot; the extended set is its own again, or it stays a lender (R305). -/
def resumeGroup (s : State) (core : Nat) (g : Group) : State :=
  let g1 := { g with core := core }
  let taken := partnerHolds s core g.slot
  let g2 := match g1.xset with
    | .none => g1
    | .held => if taken then { g1 with lentSave := g1.arch.extended, arch := g1.arch.setExtended [], xset := .lent } else g1
    | .lent => if taken then g1 else g1.regainX
  { s with groups := s.groups ++ [g2] }

/-- The cores on which a saved team may go on (R319, R379). -/
def resumeCores (s : State) (l : Launch) (t : Team) : List Nat :=
  if l.lh.mode ≠ 0 then [t.core]
  else if l.kh.barn = 0 then coreOrder s
  else (coreOrder s).filter (fun c => clusterOf c == clusterOf t.core)

/-- Saved groups in the order in which they resume: the set of a pair is its holder's again before a lender looks for it (R305). -/
def resumeOrder (gs : List Group) : List Group := gs.filter (fun g => g.xset != .lent) ++ gs.filter (fun g => g.xset == .lent)

/-- Puts a saved team back on a core (R380, R282, R364). An error that has struck registers or tiles in its area poisons them there; one
that has struck its control data ends the task (R394; log entry 101, DESIGN CHOICE). The undrained RED entries that a save holds by their
virtual addresses are walked again (R361, R385; log entry 88, DEDUCED). -/
def reinstall (s : State) (l : Launch) (t : Team) (core : Nat) (gs : List Group) (block : Option ThrBlock)
    (inputs : List ThrInput) (results : List ThrResult) (area : Nat) : State :=
  let own := ownPoison l.kh area t gs
  if controlStruck s l.kh own area gs then launchFault s l.id 17 1
  else
    let hit := (struckSectors s own area (teamAreaBytes l.kh)).map (fun k => k - area / 32)
    let loft := struckTiles hit 0 t.loft
    let k := s.coreAt core
    let k1 := { k with inputs := k.inputs ++ inputs, resuming := k.resuming ++ block.toList, results := k.results ++ results }
    let s1 := (s.setTeam { t with place := .resident, hold := false, core := core, loft := loft }).setCore core k1
    let s2 := { s1.mapLaunch l.id (fun m => { m with clusters := (clusterOf core :: m.clusters).eraseDups }) with
                nextCore := (core + 1) % Config.cores }
    rewalkTeam ((resumeOrder gs).foldl (fun s g => resumeGroup (restoreThreads s l area core g) core (struckGroup s l.kh own area g)) s2) t.id

/-- Resumes one saved team. -/
def placeSaved (s : State) (team : Nat) : Option State :=
  (s.team? team).bind fun t => (s.launch? t.launch).bind fun l =>
    match t.place with
    | .resident => none
    | .saved gs b i r a =>
      ((resumeCores s l t).find? (fun c => fitsCore s l c && slotsFree s c (gs.map (·.slot)))).map
        (fun c => reinstall s l t c gs b i r a)

/-! ### DISPATCH_STEP (R317, R318) -/

/-- The saved teams of a launch, in their order. -/
def savedTeams (s : State) (id : Nat) : List Team := s.teams.filter (fun t => t.launch == id && t.place != .resident)

/-- Places all of a list, or none. -/
def placeAll {α : Type} (f : State → α → Option State) (s : State) (xs : List α) : Option State :=
  xs.foldl (fun r x => r.bind (fun s => f s x)) (some s)

/-- What one dispatch step does for a launch: saved teams first, then the unplaced team with the smallest key; a co-resident
launch moves as a whole (R317, R318, R379, R381, R413). -/
def dispatchLaunch (s : State) (l : Launch) : Option State :=
  let saved := savedTeams s l.id
  let due := saved.filter (fun t => !t.hold)
  if l.revoked != [] || s.stopsLaunch l || l.draining then none
  else if l.lh.coresident then
    if saved.any (·.hold) || (l.unplaced != [] && l.held) then none
    else if saved = [] ∧ l.unplaced = [] then none
    else (placeAll placeSaved s (due.map (·.id))).bind (fun s1 => placeAll (fun s k => placeFresh s l.id k) s1 l.unplaced)
  else match due with
    | t :: _ => placeSaved s t.id
    | [] =>
      match l.unplaced with
      | k :: _ => if l.held then none else placeFresh s l.id k
      | [] => none

/-- DISPATCH_STEP: every admitted launch in order of launch queue, then of admission, places what it can; not enabled when none
places anything. -/
def execDispatchStep (s : State) : Host.Outcome State Fault Refusal :=
  let order := (sortBy (fun l : Launch => 7 - l.lh.queue) s.launches).map (·.id)
  let r := order.foldl (fun (acc : State × Bool) id =>
    match (acc.1.launch? id).bind (dispatchLaunch acc.1) with
    | some s1 => (s1, true)
    | none => acc) (s, false)
  if r.2 then .next r.1 else .refused .notEnabled

end Sys2Proof.Machine
end

