-- ==== Sys2Proof/Machine/Preempt.lean ====
section
/-! DEFINITION. Saving teams, the pre-emption requests of the host, and the revocation of leases (spec/09_ordering_model.md R218 and
R221, spec/14_isolation.md R362, spec/15_recovery.md R377 to R382 and R413). -/

namespace Sys2Proof.Machine

/-! ### Saving a team (R379) -/

/-- The groups of a team that are resident. -/
def State.groupsOf (s : State) (team : Nat) : List Group := s.groups.filter (fun g => g.team == team)

/-- What the order log says to the wake of a sleeper at a save, whose entry has the value 0 (R255, R389 kind 6, R391). -/
def wakeForSave (s : State) (l : Launch) (g : Group) : LogAnswer :=
  let entry : LogEntry := { kind := 6, unit := g.core, check := BitVec.ofNat 32 g.slot, chosen := 0 }
  let l1 := (s.launch? l.id).getD l
  if !g.asleep || l.lh.mode = 0 then .go s
  else if l.lh.mode = 1 then .go (appendLog s l1 entry)
  else match nextEntry l1 g.core with
    | none => .mismatch 1
    | some e =>
      if e.kind = 6 ∧ e.check = entry.check ∧ e.chosen = 0 then .go (s.setLaunch { l1 with log := consume g.core l1.log }) else .wait

/-- The wakes of a team's sleepers at a save, one after another. -/
def wakesForSave (l : Launch) : State → List Group → LogAnswer
  | s, [] => .go s
  | s, g :: gs => match wakeForSave s l g with
    | .go s1 => wakesForSave l s1 gs
    | r => r

/-- The answer is that a turn has not come. -/
def LogAnswer.waits : LogAnswer → Bool
  | .wait => true
  | _ => false

/-- A team can be saved: its engine commands have completed, its groups stand at a run boundary, and in replay the wakes of its
sleepers have their turn (R262, R379, R391; log entry 30, DEDUCED). -/
def quiet (s : State) (t : Team) : Bool :=
  let gs := s.groupsOf t.id
  let mode := ((s.launch? t.launch).map (·.lh.mode)).getD 0
  !s.commands.any (fun c => c.team == t.id) && gs.all (fun g => g.arch.run.count == 0 || g.wait != .none || mode == 2)
  && !((s.launch? t.launch).map (fun l => (wakesForSave l s gs).waits)).getD false

/-- A result that arrives before the save: not one past a fence. -/
def arrivesAtSave (g : Group) (r : VarResult) : Bool := !r.held && !(r.spec && g.fence.isSome)

/-- Every result outstanding arrives (R41). -/
def deliverAll (amr : Word) : Nat → Group → Group
  | 0, g => g
  | n + 1, g =>
    match g.outstanding.findIdx? (arrivesAtSave g) with
    | none => g
    | some i => match g.outstanding[i]? with
      | some r => deliverAll amr n (g.takeResult amr i r)
      | none => g

/-- A group inside a fence window stands at its fence again, with what the fence saved (R218). A fence whose set does not name T stays
incomplete, and the group goes on from where it is (R216; log entry 113, DESIGN CHOICE); so does one that names T once held accesses have
been performed (log entry 134, DESIGN CHOICE). -/
def Group.toFence (g : Group) : Group :=
  match g.fence with
  | none => g
  | some w =>
    if w.completing then g else
    { g with arch := w.snapshot, tokens := w.tokens, heldFlags := w.heldFlags, after := w.after, bad := g.badBehind w, wait := .none,
             fence := none,
             outstanding := g.outstanding.filter (fun r => !r.spec && !r.held) }

/-- What a group waits for when it is saved (R253, R255, R334): a sleeper and a departing group go on after their word, a
barrier wait stands, and every other word issues again. -/
def Group.settleWait (g : Group) (amr : Word) : Group :=
  match g.wait with
  | .barrier _ => g
  | .faulted => g
  | .departing _ => g.completeWord amr
  | .waitm _ _ _ => g.completeWord amr
  | .none => g
  | .parked _ _ _ => g
  | _ => { g with wait := .none }

/-- A group as it is saved: its results have arrived, and its run begins again at its first hint, unless it waits at the barrier that
the run has issued (R334, R343). -/
def Group.forSave (g : Group) (amr : Word) : Group :=
  let g1 := ((deliverAll amr g.outstanding.length g).toFence).settleWait amr
  match g1.wait with
  | .barrier _ => g1
  | _ => { g1 with arch := { g1.arch with run := {} } }

/-- What a core holds of a team's thresher work: the block, which begins its run of hints again, the inputs and the results. -/
def threshed (k : Core) (team : Nat) : Option ThrBlock × List ThrInput × List ThrResult :=
  let own (b : ThrBlock) : Bool := b.input.team == team
  (((k.block.toList ++ k.resuming).find? own).map ThrBlock.rewind, k.inputs.filter (fun i => i.team == team), k.results.filter (fun r => r.team == team))

/-- Writes a team whose groups are ready to the area and takes it off its core (R379, R383). -/
def storeTeam (s : State) (t : Team) (l : Launch) (hold : Bool) (area : Nat) : State :=
  let gs := s.groupsOf t.id
  let x := threshed (s.coreAt t.core) t.id
  let s1 := writeSave s area t l hold gs x.1 x.2.1 x.2.2
  let s2 := gs.foldl (fun s g => s.removeGroup g.core g.slot) s1
  (s2.setCore t.core ((s2.coreAt t.core).forget [t.id] none)).mapTeam t.id (fun u =>
    { u with place := .saved gs x.1 x.2.1 x.2.2 area, hold := hold, stopping := false })

/-- Saves a team that is quiet; none when the save pool has no room (R379, R383). A team that has ended needs no save, and where the
order log has no entry left for a sleeper's wake the task ends (R391). -/
def saveTeam (s : State) (team : Nat) (hold : Bool) : Option State :=
  match (s.team? team).bind (fun t => (s.launch? t.launch).map (fun l => (t, l))) with
  | none => some s
  | some (t, l) =>
    (freeArea s (saveBytes l.kh t.slots.length)).bind fun area =>
      let amr := s.amr l.ctx
      match wakesForSave l s (s.groupsOf team) with
      | .wait => none
      | .mismatch n => some (((s.groupsOf team).find? Group.asleep).elim s (fun g => replayWaiting s ⟨g, t, l⟩ n))
      | .go s0 =>
        let s1 := (s0.groupsOf team).foldl (fun s g => s.mapGroup g.core g.slot (fun h => h.forSave amr)) s0
        let s2 := if l.lh.mode = 0 then (drainGroups s1 l.id (s1.groupsOf team) (some (fun _ => true))).1 else s1
        some (storeTeam s2 ((s2.team? team).getD t) ((s2.launch? l.id).getD l) hold area)

/-- The resident teams of a launch. -/
def residentTeams (s : State) (id : Nat) : List Team := s.teams.filter (fun t => t.launch == id && t.place == .resident)

/-- Saves every resident team of a launch, or none of them. -/
def saveLaunch (s : State) (id : Nat) (hold : Bool) : Option State :=
  placeAll (fun s t => saveTeam s t hold) s ((residentTeams s id).map (·.id))

/-- Every resident team of a launch is quiet, and in replay the wakes of all their sleepers have their turns. -/
def launchQuiet (s : State) (id : Nat) : Bool :=
  let ts := residentTeams s id
  ts.all (quiet s) && !((s.launch? id).map (fun l => (wakesForSave l s (ts.flatMap (fun t => s.groupsOf t.id))).waits)).getD false

/-! ### The requests (R377, R378, R413) -/

/-- The bound of a request in ticks; 0 means none (R378). -/
def boundOf (r : Request) (l : Launch) : Nat := if r.bound = 0 then l.lh.bound else r.bound

/-- PREDONE after a method was applied (R377). -/
def predone (s : State) (r : Request) (l : Launch) : BitVec 64 :=
  let b := boundOf r l
  let met := b = 0 ∨ (s.tick - r.start).toNat ≤ b
  BitVec.ofNat 64 (1 + 2 * r.method + (if met then 8 else 0))

/-- Ends request number n with a PREDONE word. -/
def endRequest (s : State) (n : Nat) (w : BitVec 64) : State := { s.setBar 0x1010 w with requests := s.requests.eraseIdx n }

/-- A refused request (R377). -/
def refuseRequest (s : State) (n code : Nat) : State := endRequest s n (BitVec.ofNat 64 (1 + 256 * code))

/-- The admitted launch that a request names (R413). -/
def requestLaunch (s : State) (r : Request) : Option Launch := s.launches.find? (fun l => l.ctx == r.ctx && l.tcb == r.tcb)

/-- The save bytes of R378's estimate for a team of a number of groups. -/
def estimateBytes (kh : KernelHeader) (groups : Nat) : Nat :=
  4096 + 256 * kh.loft + groups * (4096 + 272 * kh.regs + 2048 * (kh.tiles + kh.accs) + 64 * kh.tlm)

/-- The save pool has no room for every team of a list (R383). -/
def poolFull (s : State) (ts : List Team) (l : Launch) : Bool :=
  ((ts.foldl (fun (r : Option State) t => r.bind (fun s => (freeArea s (saveBytes l.kh t.slots.length)).map (fun a =>
    s.setTeam { t with place := .saved [] none [] [] a }))) (some s))).isNone

/-- A method with its latency and its cost, both in the unit of R378's quotient. -/
structure Estimate where
  method : Nat
  latency : Nat
  cost : Nat
deriving DecidableEq, Repr

/-- The available methods in the order of ties: drain, save, flush (R378). Values are multiplied by the number of retired teams, or
by 1, so that the mean is exact. -/
def estimates (s : State) (l : Launch) : List Estimate :=
  let ts := residentTeams s l.id
  let times := ts.map (fun t => t.watchdog.toNat)
  let u := max 1 l.retiredTeams
  let left := times.map (fun t => l.retiredTime - t * u)
  let drain : List Estimate := if l.retiredTeams = 0 then []
    else [{ method := 2, latency := left.foldl max 0, cost := left.sum }]
  let lams := ts.map (fun t => 4096 + (estimateBytes l.kh t.slots.length + 255) / 256)
  let save : List Estimate := if poolFull s ts l then []
    else [{ method := 1, latency := u * lams.foldl max 0, cost := u * 2 * lams.sum }]
  let every := ((s.teams.filter (fun t => t.launch == l.id)).map (fun t => t.watchdog.toNat)).sum + l.retiredTime
  let flush : List Estimate :=
    if l.lh.mode = 2 then [{ method := 3, latency := u * 1024, cost := u * (times.length * (1024 + every)) }]
    else if l.kh.restartable then [{ method := 3, latency := u * 1024, cost := u * (times.map (fun t => 1024 + t)).sum }]
    else []
  drain ++ save ++ flush

/-- The first estimate with the least value. -/
def leastBy (f : Estimate → Nat) : List Estimate → Option Estimate
  | [] => none
  | e :: es => match leastBy f es with
    | some b => if f b < f e then some b else some e
    | none => some e

/-- The method of a request with method 0 (R378). -/
def chooseMethod (s : State) (r : Request) (l : Launch) : Nat :=
  let es := estimates s l
  let b := boundOf r l
  let meets := es.filter (fun e => b == 0 || e.latency ≤ b * max 1 l.retiredTeams)
  ((leastBy (·.cost) meets).or (leastBy (·.latency) es)).elim 2 (·.method)

/-- PREEMPT_CHOSEN: request number num has method 0 and receives its method (R378). -/
def execPreemptChosen (s : State) : Host.Outcome State Fault Refusal :=
  match s.requests[s.event.num]? with
  | none => .refused .notEnabled
  | some r =>
    if r.method ≠ 0 then .refused .notEnabled
    else match requestLaunch s r with
      | none => .next (refuseRequest s s.event.num 1)
      | some l => .next { s with requests := s.requests.set s.event.num { r with method := chooseMethod s r l } }

/-- PREEMPT_SAVE: request number num has method 1; its launch's teams are quiet and are saved (R379). -/
def execPreemptSave (s : State) : Host.Outcome State Fault Refusal :=
  match s.requests[s.event.num]? with
  | none => .refused .notEnabled
  | some r =>
    if r.method ≠ 1 then .refused .notEnabled
    else match requestLaunch s r with
      | none => .next (refuseRequest s s.event.num 1)
      | some l =>
        if !launchQuiet s l.id then .refused .notEnabled
        else match saveLaunch s l.id r.hold with
          | none => .next (refuseRequest s s.event.num 3)
          | some s1 => .next (endRequest s1 s.event.num (predone s r l))

/-- PREEMPT_DRAIN: request number num has method 2; it stops placement, and it is done when no team of the launch is resident
(R381, R413). -/
def execPreemptDrain (s : State) : Host.Outcome State Fault Refusal :=
  match s.requests[s.event.num]? with
  | none => .refused .notEnabled
  | some r =>
    if r.method ≠ 2 then .refused .notEnabled
    else match requestLaunch s r with
      | none => .next (refuseRequest s s.event.num 1)
      | some l =>
        if residentTeams s l.id = [] then
          .next (endRequest (s.mapLaunch l.id (fun m => { m with draining := false, held := m.held || r.hold })) s.event.num (predone s r l))
        else if l.draining then .refused .notEnabled
        else .next (s.mapLaunch l.id (fun m => { m with draining := true }))

/-- The order log's header says that the launch was flushed (R390). -/
def markFlushed (s : State) (id : Nat) : State :=
  match s.launch? id with
  | none => s
  | some l =>
    if l.lh.mode ≠ 1 then s
    else hwWrite (s.setLaunch { l with flushed := true }) l.ctx (l.lh.logBase.toNat + 8) [if l.overflowed then 3 else 2]

/-- A team ends to start afresh (R221, R262, R282, R382). Its commands that have started complete with their tokens discarded, and
until then its Loft stays; a spawned team goes back to its core's spawn queue (log entry 31, DEDUCED). -/
def flushTeam (started : List Nat) (s : State) (t : Team) : State :=
  let s1 := (s.groupsOf t.id).foldl (fun s g => s.removeGroup g.core g.slot) s
  let keep (c : Command) : Option Command :=
    if c.team != t.id then some c else if started.contains c.id then some { c with discard := true } else none
  let ghost := if s1.commands.any (fun c => c.team == t.id && started.contains c.id) then [t] else []
  let s2 := { s1 with commands := s1.commands.filterMap keep, teams := s1.teams.filter (fun u => u.id != t.id)
                      ghosts := ghost ++ s1.ghosts }
  let k := (s2.coreAt t.core).forget [t.id] none
  if t.spawned then
    s2.setCore t.core { k with spawnQueue := { launch := t.launch, entry := t.entry, threads := t.threads } :: k.spawnQueue }
  else (s2.setCore t.core k).mapLaunch t.launch (fun l => { l with unplaced := insertBy id t.key.toNat l.unplaced })

/-- The teams that a flush ends: the resident ones, and every one of a co-resident launch, saved ones included (R382). -/
def flushedTeams (s : State) (l : Launch) : List Team :=
  if l.lh.coresident then s.teams.filter (fun t => t.launch == l.id) else residentTeams s l.id

/-- PREEMPT_FLUSH: request number num has method 3 (R382); nums names the commands that have started. -/
def execPreemptFlush (s : State) : Host.Outcome State Fault Refusal :=
  match s.requests[s.event.num]? with
  | none => .refused .notEnabled
  | some r =>
    if r.method ≠ 3 then .refused .notEnabled
    else match requestLaunch s r with
      | none => .next (refuseRequest s s.event.num 1)
      | some l =>
        if l.lh.mode = 2 then .next (launchFault (endRequest s s.event.num (predone s r l)) l.id 16 3)
        else if !l.kh.restartable then .next (refuseRequest s s.event.num 2)
        else
          let s1 := (flushedTeams s l).foldl (flushTeam s.event.nums) (markFlushed s l.id)
          .next (endRequest (s1.mapLaunch l.id (fun m => { m with held := m.held || r.hold })) s.event.num (predone s r l))

/-- PRERESUME: a host write of the TCB address value releases the holds of its launch (R377, R413). -/
def execPreresume (s : State) : Host.Outcome State Fault Refusal :=
  let named (l : Launch) : Bool := l.tcb == s.event.value
  let ids := (s.launches.filter named).map (·.id)
  .next { s with
    launches := s.launches.map (fun l => if named l then { l with held := false } else l)
    teams := s.teams.map (fun t => if ids.contains t.launch then { t with hold := false } else t)
    requests := s.requests.map (fun r => if r.tcb == s.event.value && r.method == 2 then { r with hold := false } else r) }

/-! ### Revocation (R362) -/

/-- Step 4 of R362 for a launch of whose leases these have been revoked: its teams are saved; without room in the pool the task ends
(R383). -/
def revoke (s : State) (struck : Nat × List Nat) : State :=
  match saveLaunch s struck.1 false with
  | some s1 => s1.mapLaunch struck.1 (fun l =>
      { l with revoking := l.revoking.filter (fun k => !struck.2.contains k), revoked := (l.revoked ++ struck.2).eraseDups })
  | none => launchFault s struck.1 4 0

/-- Step 2 of R362 for a launch in mode 0: its undrained REDs take their places where their walks have put them, before the old
translation ends; those of a deterministic launch are walked again when its teams go on (log entry 88, DEDUCED). -/
def drainStruck (s : State) (struck : Nat × List Nat) : State :=
  match s.launch? struck.1 with
  | none => s
  | some l =>
    if l.lh.mode ≠ 0 then s
    else (drainGroups s l.id ((residentTeams s l.id).flatMap (fun t => s.groupsOf t.id)) (some (fun _ => true))).1

/-- The launches struck have stopped, and their requests have taken their places (R362 steps 1 and 2). -/
def strickenQuiet (s : State) (struck : List (Nat × List Nat)) : Bool :=
  struck.all (fun x => (s.launch? x.1).isNone || launchQuiet s x.1)

/-- The oldest invalidation that waits completes: its completion is sent, or XLDONE is set, and its launches are saved (R347, R359,
R362, R363). Leases that have been granted since it came and that it strikes are first revoked too (log entry 88, DEDUCED). -/
def completeInvalidation (s : State) (management : Bool) : Host.Outcome State Fault Refusal :=
  match s.link.pending with
  | [] => .refused .notEnabled
  | v :: rest =>
    let fresh := freshStrikes s v
    let hits := hitLeases s v
    if v.management ≠ management then .refused .notEnabled
    else if fresh ≠ [] then
      .next { stopLaunches s fresh with link := { s.link with pending := { v with struck := v.struck ++ fresh } :: rest } }
    else if !strickenQuiet s hits then .refused .notEnabled
    else
      let s0 := hits.foldl drainStruck s
      let link := { s0.link with pending := rest
                                 translations := v.pages ++ s0.link.translations
                                 invalidations := if management then s0.link.invalidations else s0.link.invalidations ++ [v.addr] }
      let s1 := hits.foldl revoke { s0 with link := link }
      .next (if management && !rest.any (·.management) then s1.setBar 0x0108 1 else s1)

/-- Enters an invalidation; the launches struck stop issuing. -/
def enterInvalidation (s : State) (v : Invalidation) : State :=
  { stopLaunches s v.struck with link := { s.link with pending := s.link.pending ++ [v] } }

/-- The translations that come with a request: page k from the address goes to page k of a list (R358; log entry 61, DESIGN CHOICE). -/
def newTranslations (pasid : Option Nat) (addr : Nat) (pages : List Nat) : List (Option Nat × Nat × Nat) :=
  (pages.zip (List.range pages.length)).map (fun p => (pasid, addr / 4096 + p.2, p.1))

/-- ATS_INVALIDATION_REQUEST: the host's request over num pages from addr, with a PASID in nums if it bears one, and where the host puts
the pages afterwards; or, with flag set, the answer to the oldest request (R362, R363). -/
def execAtsInvalidationRequest (s : State) : Host.Outcome State Fault Refusal :=
  if s.event.flag then completeInvalidation s false
  else
    let pasid := s.event.nums.head?
    let a := s.event.addr.toNat
    .next (enterInvalidation s
      { addr := s.event.addr, management := false, pasid := pasid, num := s.event.num, struck := struckByPages s pasid a s.event.num
        pages := newTranslations pasid a (s.event.pages.take s.event.num) })

/-- A revoked lease of the launch can be granted again (R360): a declared one lies in one range register, and every page is resident but
for those that the host refuses. -/
def leaseReady (s : State) (l : Launch) (refused : List Nat) (r : Region × Nat) : Bool :=
  (l.lh.leases.length ≤ r.2 || inOneRange s l.ctx r.1) && regionResident s l.ctx refused r.1

/-- The leases of a launch that are revoked. -/
def revokedLeases (s : State) (l : Launch) : List (Region × Nat) := (leaseRegions s l).zipIdx.filter (fun r => l.revoked.contains r.2)

/-- The leases that are being revoked and for which no invalidation waits: an SWRITE of XLINV has struck them. -/
def ownStrikes (s : State) (l : Launch) : List Nat :=
  l.revoking.filter (fun k => !s.link.pending.any (fun v => v.struck.any (fun x => x.1 == l.id && x.2.contains k)))

/-- LEASE_REGRANT: launch num's revoked leases are granted again under R360, but for host pages in nums, which the host refuses; with a
revocation still to be completed by a save, that save (R362). -/
def execLeaseRegrant (s : State) : Host.Outcome State Fault Refusal :=
  match s.launch? s.event.num with
  | none => .refused .notEnabled
  | some l =>
    if l.revoking ≠ [] then
      (if ownStrikes s l = [] ∨ !launchQuiet s l.id then .refused .notEnabled else .next (revoke s (l.id, ownStrikes s l)))
    else if l.revoked = [] then .refused .notEnabled
    else if (revokedLeases s l).all (leaseReady s l s.event.nums) then .next (s.mapLaunch l.id (fun m => { m with revoked := [] }))
    else .next (launchFault s l.id 4 0)

end Sys2Proof.Machine
end

