-- ==== Sys2Proof/Machine/Submit.lean ====
section
/-! DEFINITION. Submitting a task: the conditions of acceptance, SUBMIT, PSUBMIT and TSUB (spec/13_scheduling_sync.md R310, R311,
R314, R335, spec/14_isolation.md R344, R348, R352). -/

namespace Sys2Proof.Machine

/-- Magic of a TCB. -/
def tcbMagic : Nat := 0x54434233

/-- The context is active (R348). -/
def State.contextActive (s : State) (ctx : Nat) : Bool := (s.sys ctx 0x180).getLsbD 0

/-- The tasks in a launch queue, oldest first (R314). -/
def State.queueTasks (s : State) (q : Nat) : List Task := (s.queues.filter (fun e => e.1 == q)).map (·.2)

/-- The bytes of an aligned TCB that the launch processor can read and write; none in a context that is not active (R311). -/
def readTcb (s : State) (ctx : Nat) (tcb : BitVec 64) : Option (List Byte) :=
  if s.contextActive ctx ∧ tcb.toNat % 64 = 0 ∧ hwWritable s ctx tcb.toNat 64 then hwRead s ctx tcb.toNat 64 else none

/-- The launch queue that a TCB's launch header names, when its first 8 bytes can be read and the queue is one of 0 to 7. -/
def namedQueue (s : State) (ctx : Nat) (bytes : List Byte) : Option Nat :=
  (hwRead s ctx (headerAddress bytes) 8).bind (fun h => if byteField h 7 1 < 8 then some (byteField h 7 1) else none)

/-- What R311 says to a submission: the launch queue, or the refusal code. -/
def acceptTcb (s : State) (ctx : Nat) (tcb : BitVec 64) : Except Nat Nat :=
  match readTcb s ctx tcb with
  | none => .error 1
  | some b =>
    if byteField b 0 4 ≠ tcbMagic ∨ byteField b 4 1 ≠ 0 ∨ byteField b 8 4 ≠ 0 then .error 1
    else match namedQueue s ctx b with
      | none => .error 1
      | some q => if 4096 ≤ (s.queueTasks q).length then .error 2 else .ok q

/-- Records a refused submission (R349, R352). -/
def recordRefusal (s : State) (ctx : Nat) (tcb : BitVec 64) (code : Nat) : State :=
  s.setSys ctx 0x138 ((tcb >>> 6 <<< 6) ||| BitVec.ofNat 64 code)

/-- A submission with its answer: 0, or the refusal code (R311). -/
def submitTask (s : State) (ctx : Nat) (tcb : BitVec 64) (privileged : Bool) : State × Nat :=
  match acceptTcb s ctx tcb with
  | .error c => (recordRefusal s ctx tcb c, c)
  | .ok q =>
    let s1 := hwWrite s ctx (tcb.toNat + 4) [1]
    ({ s1 with queues := s1.queues ++ [(q, { ctx := ctx, tcb := tcb, privileged := privileged })] }, 0)

/-- A refused host submission writes state 4 and the code while the state is 0 (R311). -/
def refuseHost (s : State) (ctx : Nat) (tcb : BitVec 64) (code : Nat) : State :=
  match readTcb s ctx tcb with
  | some b => if byteField b 4 1 = 0 then completionInterrupt (writeTcb s ctx tcb 4 code) ctx tcb else s
  | none => s

/-- A host submission. -/
def hostSubmit (s : State) (privileged : Bool) : Host.Outcome State Fault Refusal :=
  let ctx := s.event.ctx
  if 64 ≤ ctx ∨ s.power ≠ .running then .refused .notEnabled
  else
    let r := submitTask s ctx s.event.value privileged
    .next (if r.2 = 0 then r.1 else refuseHost r.1 ctx s.event.value r.2)

/-- SUBMIT: the host writes the TCB address value to the submit register of context ctx (R311, R346). -/
def execSubmit (s : State) : Host.Outcome State Fault Refusal := hostSubmit s false

/-- PSUBMIT: as SUBMIT; the launch runs in the privileged view (R344). -/
def execPsubmit (s : State) : Host.Outcome State Fault Refusal := hostSubmit s true

/-- One byte of a TCB passes checks 1 and 4 of R227 for the atomic on its state, a compare-and-swap (R219, R311, R335; log entry 66,
DEDUCED). -/
def tcbByteAllowed (s : State) (u : Accessor) (va : Nat) : Bool :=
  match toIa s u.ctx va with
  | none => false
  | some ia => inLease s u.launch u.ctx ia && !inControlArea s u.ctx ia && ((walk s u.ctx ia).map (fun f => leafPermits f .atomic 1)).getD false

/-- TSUB (R335): the task runs unprivileged (R344). The submission follows every access the group issued, so its RED entries are
drained first (log entry 66, DEDUCED). -/
def execTsub (d a : BitVec 6) (s : State) : Host.Outcome State Fault Refusal :=
  issue { badReg := oddS a, reads := sPair a, writes := [sN d], fence := .stall }
    (fun x s =>
      let tcb := x.arch.getS64 a.toNat
      if (List.range 64).all (fun k => tcbByteAllowed s x.e.accessor (tcb.toNat + k)) then
        drainFirst x s (fun s =>
          let r := submitTask s x.e.l.ctx tcb false
          .done { s := r.1.mapGroup x.core x.slot (fun g => { g with arch := g.arch.setS d.toNat (BitVec.ofNat 32 r.2) }) })
      else .fault { cls := 4, addr := tcb }) s

end Sys2Proof.Machine
end

