-- ==== Sys2Proof/Machine/Headers.lean ====
section
/-! DEFINITION. Kernel headers, launch headers and errata lists as admission reads them, the normalised header, team keys, and the
bytes of the dispatch trace and of the order log (spec/02_encoding.md R57 to R59, spec/03_numbers.md R79 and R88,
spec/12_execution.md R285, spec/13_scheduling_sync.md R320 and R321, spec/14_isolation.md R366, spec/15_recovery.md R388). -/

namespace Sys2Proof.Machine

/-! ### Kernel headers -/

/-- The generation that byte 0x04 names. -/
def genOf (n : Nat) : Option Gen :=
  match n with
  | 1 => some .n1
  | 2 => some .n2
  | 3 => some .n3
  | _ => none

/-- The errata that the device reproduces (R366). -/
def errataOf : Gen → List Nat
  | .n1 => [257, 258]
  | .n2 => [513, 514]
  | .n3 => []

/-- Every byte of a record from an offset on is zero, n of them. -/
def zeroBytes (bs : List Byte) (off n : Nat) : Bool := byteField bs off n == 0

/-- A byte offset of a word of the code. -/
def codeOffset (size o : Nat) : Bool := o % 4 == 0 && o < size

/-- The fields of a kernel header keep their limits (R57). -/
def kernelLimits (bs : List Byte) : Bool :=
  let f (off n : Nat) : Nat := byteField bs off n
  let size := f 0x10 4
  f 0 4 == 0x4B485333 && f 5 1 == 1 && f 6 2 < 4 && size % 4 == 0 && 4 ≤ size && size ≤ 2 ^ 26
  && codeOffset size (f 8 4) && (f 0xC 4 == 0xFFFFFFFF || codeOffset size (f 0xC 4))
  && 8 ≤ f 0x14 1 && f 0x14 1 ≤ 128 && f 0x14 1 % 8 == 0 && f 0x15 1 ≤ 8 && f 0x16 1 ≤ 8 && 1 ≤ f 0x17 1 && f 0x17 1 ≤ 16
  && f 0x18 2 ≤ 4096 && f 0x1A 1 ≤ 32 && f 0x1B 1 == 0 && f 0x1C 4 ≤ 65536 && f 0x20 4 % 16 == 0 && f 0x20 4 ≤ 65536
  && f 0x24 1 ≤ 16 && zeroBytes bs 0x25 3 && zeroBytes bs (0x28 + 2 * f 0x24 1) (32 - 2 * f 0x24 1) && zeroBytes bs 0x68 24

/-- A kernel header of 128 bytes, if it is one that loads (R57, R59, R366). -/
def kernelHeader (bs : List Byte) : Option KernelHeader :=
  let f (off n : Nat) : Nat := byteField bs off n
  let errata := (List.range (f 0x24 1)).map (fun k => f (0x28 + 2 * k) 2)
  (genOf (f 4 1)).bind fun gen =>
    if kernelLimits bs && errata.all (fun e => (errataOf gen).contains e) then
      some
        { raw := bs, gen := gen, detCapable := f 6 2 % 2 == 1, restartable := 2 ≤ f 6 2, entry := BitVec.ofNat 32 (f 8 4),
          trap := BitVec.ofNat 32 (f 0xC 4), codeSize := f 0x10 4, regs := f 0x14 1, tiles := f 0x15 1, accs := f 0x16 1,
          groups := f 0x17 1, loft := f 0x18 2, barriers := f 0x1A 1, barn := f 0x1C 4, tlm := f 0x20 4, errata := errata }
    else none

/-- Loads the code object at a virtual address: every byte of its region lies in range registers of kind 1, header and code can be
read, and the digest is the code's (R57, R59, R315, R360). -/
def loadKernel (s : State) (ctx kernel : Nat) : Option KernelHeader :=
  ((hwRead s ctx kernel 128).bind kernelHeader).bind fun kh =>
    (hwRead s ctx (kernel + 0x180) kh.codeSize).bind fun code =>
      if (piecesOf s ctx (kernel, 0x180 + kh.codeSize)).isSome ∧ shake256 32 code = sliceBytes kh.raw 0x48 32 then some kh else none

/-! ### Launch headers -/

/-- Bits [63:52] of lease entry k's address (R58). -/
def leaseHigh (bs : List Byte) (k : Nat) : Nat := field (byteField bs 0xE4 24) (12 * k) 12

/-- The used lease entries: address and pages. -/
def leaseEntries (bs : List Byte) : List (BitVec 64 × Nat) :=
  (List.range 16).filterMap (fun k =>
    let e := byteField bs (0x40 + 8 * k) 8
    if field e 40 24 = 0 then none
    else some (BitVec.ofNat 64 (field e 0 40 * 2 ^ 12 + leaseHigh bs k * 2 ^ 52), field e 40 24))

/-- The six widths. -/
def headerWidths (bs : List Byte) : List Nat := (List.range 6).map (fun k => byteField bs (0x10 + k) 1)

/-- The six extents. -/
def headerExtents (bs : List Byte) : List Nat := (List.range 6).map (fun k => byteField bs (0x18 + 4 * k) 4 + 1)

/-- Widths that .fields allows (R56). -/
def widthsAllowed (ws : List Nat) : Bool := 6 ≤ ws.headD 0 && ws.headD 0 ≤ 10 && ws.tail.all (fun w => w ≤ 32) && ws.sum ≤ 64

/-- The fields of a launch header at an address keep their limits (R58, R310). -/
def launchLimits (va : Nat) (bs : List Byte) (groups : Nat) : Bool :=
  let f (off n : Nat) : Nat := byteField bs off n
  let ws := headerWidths bs
  let es := headerExtents bs
  f 0 4 == 0x4C485333 && f 4 1 == 1 && f 5 1 ≤ 2 && f 6 1 ≤ 1 && f 7 1 ≤ 7 && va % 256 == 0 && f 8 8 % 128 == 0
  && widthsAllowed ws && zeroBytes bs 0x16 2 && (es.zip ws).all (fun x => x.1 ≤ 2 ^ x.2) && es.headD 1 ≤ 64 * groups
  && (List.range 16).all (fun k => field (f (0x40 + 8 * k) 8) 40 24 != 0 || leaseHigh bs k == 0)
  && f 0xC0 8 % 4096 == 0 && f 0xD0 8 % 4096 == 0 && f 0xE0 1 ≤ 8 && zeroBytes bs 0xE1 3 && zeroBytes bs 0xFC 4

/-- A launch header of 256 bytes; the queue is the one it was accepted into. -/
def launchHeader (bs : List Byte) (queue : Nat) : LaunchHeader :=
  let f (off n : Nat) : Nat := byteField bs off n
  { raw := bs, mode := f 5 1, coresident := f 6 1 == 1, queue := queue, kernel := BitVec.ofNat 64 (f 8 8), widths := headerWidths bs,
    extents := headerExtents bs, amr := BitVec.ofNat 32 (f 0x30 4), bound := f 0x34 4, leases := leaseEntries bs,
    logBase := BitVec.ofNat 64 (f 0xC0 8), logPages := f 0xC8 4, tracePages := f 0xCC 4, traceBase := BitVec.ofNat 64 (f 0xD0 8),
    genBase := BitVec.ofNat 64 (f 0xD8 8), genCount := f 0xE0 1 }

/-- An AMR that R79 admits. -/
def amrAllowed (amr : Word) : Bool :=
  let n := amr.toNat
  field n 0 3 ≤ 4 && field n 7 1 == 0 && field n 16 8 == 0 && 1 ≤ field n 24 8 && field n 24 8 ≤ 3

/-- The normalised launch header (R88). -/
def normalised (lh : LaunchHeader) : List Byte := putBytes (putBytes lh.raw 5 [0]) 0xC0 (List.replicate 24 0)

/-- Team keys in ascending order, for the widths and extents of fields 1 to 5 (R285). -/
def teamKeys : List Nat → List Nat → List Nat
  | w :: ws, e :: es => (teamKeys ws es).flatMap (fun hi => (List.range e).map (fun lo => hi * 2 ^ w + lo))
  | _, _ => [0]

/-! ### The dispatch trace (R320, R321) -/

/-- Magic and header digest of a trace. -/
def traceMagic : Nat := 0x44545233

/-- The 64 bytes that open a trace. -/
def traceHeader (lh : LaunchHeader) : List Byte := putBytes (record 64 [(0, 4, traceMagic)]) 8 (shake256 32 (normalised lh))

/-- Entry m of a trace: key, core, G and the 16 slot bytes. -/
def traceFields (bs : List Byte) (m : Nat) : Nat × Nat × Nat × List Nat :=
  let at_ := 0x40 + 32 * m
  (byteField bs at_ 8, byteField bs (at_ + 8) 2, byteField bs (at_ + 10) 1, (sliceBytes bs (at_ + 16) 16).map (·.toNat))

/-- An entry gives a key, a core and G distinct slots (R321). -/
def traceEntryOk (groups : Nat) (key : Nat) (x : Nat × Nat × Nat × List Nat) : Bool :=
  let slots := x.2.2.2.take groups
  x.1 == key && x.2.1 < Config.cores && x.2.2.1 == groups && slots.all (fun k => k < Config.thresherSlot) && slots.eraseDups == slots
  && (x.2.2.2.drop groups).all (fun k => k == 0xFF)

/-- The trace that a replay launch reads, with the places it gives its teams; none where R321 refuses it. -/
def readTrace (s : State) (ctx : Nat) (lh : LaunchHeader) (keys : List Nat) (groups : Nat) :
    Option (List Byte × List (Nat × Nat × List Nat)) :=
  let n := keys.length
  (hwRead s ctx lh.traceBase.toNat (0x40 + 32 * n)).bind fun bs =>
    let es := (List.range n).map (traceFields bs)
    if byteField bs 0 4 = traceMagic ∧ byteField bs 4 4 = n ∧ sliceBytes bs 8 32 = shake256 32 (normalised lh)
        ∧ (keys.zip es).all (fun x => traceEntryOk groups x.1 x.2) then
      some (bs, es.map (fun x => (x.1, x.2.1, x.2.2.2.take groups)))
    else none

/-! ### The order log (R388) -/

def logMagic : Nat := 0x4F4C4733

/-- An entry of the log from its 16 bytes. Byte 1, which R388 has zero, is not kept (log entry 98, DESIGN CHOICE). -/
def logEntryOf (bs : List Byte) : LogEntry :=
  { kind := byteField bs 0 1, unit := byteField bs 2 2, check := BitVec.ofNat 32 (byteField bs 4 4), chosen := BitVec.ofNat 64 (byteField bs 8 8) }

/-- The entries that a replay launch reads; none where R388 refuses the header. -/
def readLog (s : State) (ctx : Nat) (lh : LaunchHeader) : Option (List LogEntry) :=
  (hwRead s ctx lh.logBase.toNat 64).bind fun h =>
    let n := byteField h 4 4
    if byteField h 0 4 ≠ logMagic ∨ (lh.logPages * 4096 - 64) / 16 < n then none
    else (hwRead s ctx (lh.logBase.toNat + 64) (16 * n)).map (fun bs => (List.range n).map (fun k => logEntryOf (sliceBytes bs (16 * k) 16)))

end Sys2Proof.Machine
end

