-- ==== Sys2Proof/Machine/Admission.lean ====
section
/-! DEFINITION. Admission: the checks of the launch processor in their order, what a head waits for, and what admission loads
(spec/13_scheduling_sync.md R315, R316, R318, R320, R321, spec/08_generators.md R188 and R191, spec/14_isolation.md R360 and R364,
spec/15_recovery.md R373 and R388). -/

namespace Sys2Proof.Machine

/-! ### The checks (R315) -/

/-- The thread-local need of a launch fits its context's region stride (R364). -/
def threadsFit (s : State) (ctx tlm : Nat) : Bool := 64 * tlm + 61952 ≤ (s.sys ctx 0x184).toNat / 9072 * 4096

/-- Check 0x04: the header's limits, its leases, the implicit regions, and the thread-local need. -/
def headerChecks (s : State) (l : Launch) : Bool :=
  launchLimits l.header.toNat l.lh.raw l.kh.groups && (declaredRegions l.lh).all (inOneRange s l.ctx)
  && (implicitRegions s l.ctx l.lh l.header.toNat l.tcb.toNat (l.faultBase.toNat, l.faultBytes)).all (fun r => (piecesOf s l.ctx r).isSome)
  && threadsFit s l.ctx l.kh.tlm

/-- The context with no generator window (R188). -/
def clearWindows (s : State) (ctx : Nat) : State :=
  (List.range 8).foldl (fun s g => installWindow s ctx g (List.replicate 8 0)) s

/-- The entries of the generator block, each valid after the ones before it (R191). -/
def blockValid (s : State) (ctx : Nat) : Nat → List (List Word) → Bool
  | _, [] => true
  | g, e :: es => entryValid s ctx g e && blockValid (installWindow s ctx g e) ctx (g + 1) es

/-- The eight window entries that a launch would load; none when a byte of its block cannot be read. -/
def blockEntries (s : State) (ctx : Nat) (lh : LaunchHeader) : Option (List (List Word)) :=
  (hwRead s ctx lh.genBase.toNat (32 * lh.genCount)).map (fun bs =>
    (List.range 8).map (fun g => (List.range 8).map (fun k => BitVec.ofNat 32 (byteField bs (32 * g + 4 * k) 4))))

/-- Teams of a co-resident launch that a core holds at most (R318). -/
def coreCapacity (l : Launch) : Nat :=
  let q (n d : Nat) : List Nat := if d = 0 then [] else [n / d]
  (q 4096 l.kh.loft ++ q 32 l.kh.barriers).foldl min (63 / l.groupCount)

/-- Check 0x08, with the trace and the log that a replay launch reads (R320, R321, R388). -/
def replayParts (s : State) (l : Launch) : Option Launch :=
  if l.lh.mode = 0 then some l
  else if l.lh.tracePages * 4096 < 128 + 32 * l.teamCount then none
  else if l.lh.mode = 1 then some { l with traceBytes := traceHeader l.lh }
  else
    (readTrace s l.ctx l.lh l.unplaced l.groupCount).bind fun t =>
      (readLog s l.ctx l.lh).map (fun es => { l with traceBytes := t.1, trace := t.2, traced := l.teamCount, log := es })

/-- Checks 0x05 to 0x0A of a launch whose headers pass; refused names the host pages that the host refuses. -/
def laterChecks (s : State) (refused : List Nat) (l : Launch) : Except Nat Launch :=
  if !amrAllowed l.lh.amr then .error 5
  else match blockEntries s l.ctx l.lh with
    | none => .error 6
    | some es =>
      if !blockValid (clearWindows s l.ctx) l.ctx 0 (es.take l.lh.genCount) then .error 6
      else if l.lh.mode ≠ 0 ∧ (!l.kh.detCapable ∨ l.lh.logPages = 0) then .error 7
      else match replayParts s { l with windows := es.flatten } with
        | none => .error 8
        | some l1 =>
          if l.lh.coresident ∧ 144 * coreCapacity l < l.teamCount then .error 9
          else if (leaseRegions s l).all (regionResident s l.ctx refused) then .ok l1
          else .error 10

/-- The launch that a task asks for, or the code of the first check that fails. -/
def candidate (s : State) (q : Nat) (t : Task) (refused : List Nat) : Except Nat Launch :=
  match hwRead s t.ctx t.tcb.toNat 64 with
  | none => .error 4
  | some tcb =>
    match hwRead s t.ctx (headerAddress tcb) 256 with
    | none => .error 4
    | some bs =>
      let lh := launchHeader bs q
      match loadKernel s t.ctx lh.kernel.toNat with
      | none => .error 3
      | some kh =>
        let digest := shake256 8 (normalised lh)
        let l : Launch :=
          { id := s.nextId, ctx := t.ctx, tcb := t.tcb, header := BitVec.ofNat 64 (headerAddress tcb), privileged := t.privileged, kh := kh,
            lh := lh, windows := [], k0 := BitVec.ofNat 32 (byteField digest 0 4), k1 := BitVec.ofNat 32 (byteField digest 4 4),
            unplaced := teamKeys (lh.widths.drop 1) (lh.extents.drop 1), faultBase := BitVec.ofNat 64 (byteField tcb 0x20 8),
            faultBytes := byteField tcb 0x28 4 / 64 * 64 }
        if headerChecks s l then laterChecks s refused l else .error 4

/-! ### What a head waits for (R316) -/

/-- A launch of the context is still resident with another AMR, or with other windows (R80, R188). -/
def contextWaits (s : State) (l : Launch) : Bool :=
  s.launches.any (fun m => m.ctx == l.ctx)
  && (s.launches.any (fun m => m.ctx == l.ctx && m.lh.amr != l.lh.amr) || (List.range 8).flatMap (windowEntry s l.ctx) != l.windows)

/-! ### Admission -/

/-- Loads the eight windows (R188). -/
def loadWindows (s : State) (l : Launch) : State :=
  (List.range 8).foldl (fun s g => installWindow s l.ctx g (sliceWords l.windows g)) s
where
  sliceWords (ws : List Word) (g : Nat) : List Word := (ws.drop (8 * g)).take 8

/-- What the launch processor writes for a record launch: the headers of the order log and of the trace (R320, R388). -/
def writeRecordHeaders (s : State) (l : Launch) : State :=
  if l.lh.mode = 1 then
    hwWrite (hwWrite s l.ctx l.lh.logBase.toNat (record 64 [(0, 4, logMagic)])) l.ctx l.lh.traceBase.toNat l.traceBytes
  else s

/-- Admits a launch: state 2, the AMR, the windows and the headers of its regions (R80, R188, R316, R373, R388). -/
def admitLaunch (s : State) (l : Launch) : State :=
  let s1 := { s with launches := s.launches ++ [l], nextId := s.nextId + 1 }
  let s2 := hwWrite s1 l.ctx (l.tcb.toNat + 4) [2]
  let s3 := loadWindows (s2.setSys l.ctx 0 (l.lh.amr.setWidth 64)) l
  writeRecordHeaders (writeAreaHeader s3 l 0xFFFFFFFF) l

/-- Takes the head off a launch queue. -/
def dropHead (s : State) (q : Nat) : State :=
  { s with queues := match s.queues.findIdx? (fun e => e.1 == q) with
      | some i => s.queues.eraseIdx i
      | none => s.queues }

/-- What admission does with the head of a queue: none when there is no head, or it waits. A launch whose lease is revoked waits at
the head of its queue (R362). -/
def admitHead (s : State) (q : Nat) (refused : List Nat) : Option State :=
  if s.launches.any (fun l => l.revoked != [] && l.lh.queue == q) then none
  else match s.queueTasks q with
    | [] => none
    | t :: _ =>
      match candidate s q t refused with
      | .error c => some (completionInterrupt (writeTcb (dropHead s q) t.ctx t.tcb 4 c) t.ctx t.tcb)
      | .ok l =>
        if contextWaits s l then none
        else
          let s1 := admitLaunch (dropHead s q) l
          if l.lh.coresident then placeAll (fun s k => placeFresh s l.id k) s1 l.unplaced else some s1

/-- ADMISSION: the head of each queue, from queue 7 down to queue 0; nums names the host pages that the host does not make resident
(R315, R316, R360). Launch queues are held while a checkpoint is in progress (R395). -/
def execAdmission (s : State) : Host.Outcome State Fault Refusal :=
  if s.checkpointing then .refused .notEnabled
  else
    let r := [7, 6, 5, 4, 3, 2, 1, 0].foldl (fun (acc : State × Bool) q =>
      match admitHead acc.1 q s.event.nums with
      | some s1 => (s1, true)
      | none => acc) (s, false)
    if r.2 then .next r.1 else .refused .notEnabled

end Sys2Proof.Machine
end

