-- ==== Sys2Proof/Machine/Retire.lean ====
section
/-! DEFINITION. The end of teams and launches: retirement with its signature record and successors, the watchdog and the queue
deadlock (spec/03_numbers.md R88 and R89, spec/09_ordering_model.md R214, spec/11_data_on_move.md R260, spec/13_scheduling_sync.md
R312, R339 and R341, spec/15_recovery.md R391 and R412). -/

namespace Sys2Proof.Machine

/-! ### Teams (R214, R260, R391, R412) -/

/-- The thresher holds work of the team: inputs, or a block. -/
def thresherBusy (s : State) (t : Team) : Bool :=
  let k := s.coreAt t.core
  k.inputs.any (fun i => i.team == t.id) || (k.resuming ++ k.block.toList).any (fun b => b.input.team == t.id)

/-- Every group of a resident team has exited and its commands and thresher work are done (R214). -/
def teamDone (s : State) (t : Team) : Bool :=
  t.place == .resident && (List.range t.slots.length).all (fun i => t.exited.contains i) && s.groupsOf t.id == []
  && !s.commands.any (fun c => c.team == t.id) && !thresherBusy s t

/-- The first failed command whose token was never read, by group, then by register. -/
def firstUnread (t : Team) : Option (Token × Nat × Nat × Nat) :=
  (sortBy (fun u : Token × Nat × Nat × Nat => 64 * u.2.2.2 + u.1.reg) t.unread).head?

/-- The record of a failed command whose token was never read (R412); the key as R372 gives it. -/
def unreadRecord (t : Team) (l : Launch) (u : Token × Nat × Nat × Nat) (f : LaneFault) : Record :=
  { cls := f.cls, flags := recordFlags f.cls false false true true, code := f.code, ctx := l.ctx, slot := u.2.2.1, core := u.2.1,
    key := if t.spawned then t.threads.headD 0 else t.key, pc := u.1.pc, word := u.1.word, mask := f.mask, addr := f.addr, index := u.2.2.2, addrs := f.addrs }

/-- A team leaves its core; what it leaves of q4 entries goes with it. -/
def leaveCore (s : State) (t : Team) : State :=
  let s1 := s.setCore t.core ((s.coreAt t.core).forget [t.id] none)
  { s1 with teams := s1.teams.filter (fun u => u.id != t.id) }

/-- A team that is done retires, or its failure or its mismatch ends the task; none while its record waits for its turn (R389 kind
10). -/
def retireTeam (s : State) (t : Team) (l : Launch) : Option State :=
  match firstUnread t with
  | some u =>
    (u.1.fault).bind fun f =>
      match choose s l.id 10 unitLaunch (BitVec.ofNat 32 f.cls) u.1.tag t.id with
      | .go s1 => some (endTask (writeRecord s1 ((s1.launch? l.id).getD l) (unreadRecord t l u f) true) l.id f.cls)
      | .mismatch n => some (launchFault s l.id 16 n)
      | .wait => none
  | none =>
    if t.lateTags.any (namedNext s l t.id) then some (launchFault s l.id 16 2)
    else some ((leaveCore s t).mapLaunch l.id (fun m =>
      { m with retiredTime := m.retiredTime + t.watchdog.toNat, retiredTeams := m.retiredTeams + 1 }))

/-- TEAM_RETIREMENT of team num (R214). -/
def execTeamRetirement (s : State) : Host.Outcome State Fault Refusal :=
  match s.team? s.event.num with
  | none => .refused .notEnabled
  | some t =>
    match s.launch? t.launch with
    | none => .refused .notEnabled
    | some l =>
      if !teamDone s t then .refused .notEnabled
      else match retireTeam s t l with
        | some s1 => .next s1
        | none => .refused .notEnabled

/-! ### The watchdog and the queue deadlock (R339, R341) -/

/-- WATCHDOG_FAULT: team num's count has reached the limit (R339). -/
def execWatchdogFault (s : State) : Host.Outcome State Fault Refusal :=
  match s.team? s.event.num with
  | none => .refused .notEnabled
  | some t =>
    match s.launch? t.launch with
    | none => .refused .notEnabled
    | some l =>
      let limit := (s.sys l.ctx 9).toNat
      if t.place ≠ .resident ∨ limit = 0 ∨ t.watchdog.toNat < limit * 2 ^ 20 ∨ s.groupsOf t.id = [] then .refused .notEnabled
      else (teamFault s t.id 15).elim (.refused .notEnabled) .next

/-- A group is blocked on a named queue of its team that is bound to Loft storage, or has written its record of the deadlock. -/
def blockedOnLoft (s : State) (e : Env) : Bool :=
  match e.g.wait with
  | .faulted => true
  | .queue push n _ => 8 ≤ n && (match e.t.binding n with
      | none => false
      | some b => b.handle.toNat < 0x4000 && (match accessQueue s e (agentTag e.g (e.g.request + 1)) b push 0 with
          | .blocked => true
          | _ => false))
  | _ => false

/-- Nothing can unblock the team (R341). -/
def queueDeadlocked (s : State) (t : Team) : Bool :=
  let gs := s.groupsOf t.id
  t.place == .resident && gs != []
  && gs.all (fun g => ((s.env? g.core g.slot).map (blockedOnLoft s)).getD false && g.matrix.isEmpty)
  && !s.commands.any (fun c => c.team == t.id) && !thresherBusy s t

/-- QUEUE_DEADLOCK of team num (R341). -/
def execQueueDeadlock (s : State) : Host.Outcome State Fault Refusal :=
  match s.team? s.event.num with
  | none => .refused .notEnabled
  | some t => if queueDeadlocked s t then (teamFault s t.id 9).elim (.refused .notEnabled) .next else .refused .notEnabled

/-! ### Launches (R88, R89, R312) -/

/-- Nothing of a launch is left to run, commands of flushed teams included (R262, R292, R312); a request that names it is answered
first (R413). -/
def launchDone (s : State) (l : Launch) : Bool :=
  l.unplaced == [] && s.teams.all (fun t => t.launch != l.id) && s.commands.all (fun c => c.launch != l.id)
  && s.cores.all (fun k => k.2.bins.all (fun b => b.launch != l.id) && k.2.spawnQueue.all (fun p => p.launch != l.id))
  && s.requests.all (fun r => !(r.ctx == l.ctx && r.tcb == l.tcb))

/-- The order-log entries that the signature covers: written, or consumed (R88). -/
def signedEntries (l : Launch) : List LogEntry := if l.lh.mode = 2 then l.log.filter (·.used) else l.log

/-- The message of the signature (R88). -/
def signatureMessage (l : Launch) : List Byte :=
  let gen : Nat := match l.kh.gen with
    | .n1 => 1
    | .n2 => 2
    | .n3 => 3
  leBytes 4 0x53594733 ++ leBytes 4 (field l.lh.amr.toNat 24 8 + gen * 2 ^ 8 + 3 * 2 ^ 16) ++ leBytes 4 l.lh.amr.toNat ++ leBytes 4 0
  ++ shake256 32 l.kh.raw ++ normalised l.lh ++ l.windows.flatMap (fun w => leBytes 4 w.toNat) ++ shake256 32 l.traceBytes
  ++ shake256 32 ((signedEntries l).flatMap LogEntry.bytes)

/-- The signature (R88). -/
def signature (l : Launch) : List Byte := shake256 32 (signatureMessage l)

/-- Where the signature record lies. -/
def signatureAt (l : Launch) : Nat := l.lh.traceBase.toNat + 4096 * l.lh.tracePages - 64

/-- The status byte of the signature record; present is the record that a replay finds (R89, R390). -/
def signatureStatus (l : Launch) (present : Option (List Byte)) : Nat :=
  let bit (n : Nat) (b : Bool) : Nat := if b then 2 ^ n else 0
  bit 0 (l.lh.mode == 1 && (l.overflowed || l.flushed)) + bit 1 (l.lh.mode == 2 && l.log.any (fun e => !e.used))
  + bit 2 (l.lh.mode == 2 && (present.map (fun r => r.take 32)) != some (signature l))

/-- Writes the signature record in record and replay mode (R89). -/
def writeSignature (s : State) (l : Launch) : State :=
  if l.lh.mode = 0 then s
  else
    let tail := record 32 [(0, 1, signatureStatus l (hwRead s l.ctx (signatureAt l) 64)), (1, 1, l.lh.mode), (4, 4, (signedEntries l).length),
      (8, 4, l.traced)]
    hwWrite s l.ctx (signatureAt l) (signature l ++ tail)

/-- One successor loses a predecessor (R312 step 4); the flag says that it was not changed. -/
def decrement (ctx : Nat) (acc : State × Bool) (addr : Option Nat) : State × Bool :=
  let s := acc.1
  match addr with
  | none => (s, true)
  | some a =>
    match hwRead s ctx a 12 with
    | none => (s, true)
    | some b =>
      let n := byteField b 8 4
      if byteField b 0 4 ≠ tcbMagic ∨ n = 0 ∨ !hwWritable s ctx (a + 8) 4 then (s, true)
      else
        let s1 := hwWrite s ctx (a + 8) (leBytes 4 (n - 1))
        (if n = 1 then (submitTask s1 ctx (BitVec.ofNat 64 a) false).1 else s1, acc.2)

/-- The successors of a TCB, in list order: an address that cannot be read is none. -/
def successorList (s : State) (ctx : Nat) (tcb : List Byte) : List (Option Nat) :=
  (List.range (byteField tcb 6 2)).map (fun k => (hwRead s ctx (byteField tcb 0x18 8 + 8 * k) 8).map leNat)

/-- Steps 1 to 5 of R312. -/
def retireLaunch (s : State) (l : Launch) : State :=
  let s1 := (writeSignature s l).dropLaunch l.id
  let s2 := writeTcb (hwWrite s1 l.ctx (l.tcb.toNat + 0x30) (leBytes 8 s.tick.toNat)) l.ctx l.tcb 3 0
  let r := (successorList s2 l.ctx ((hwRead s2 l.ctx l.tcb.toNat 64).getD [])).foldl (decrement l.ctx) (s2, false)
  let s3 := if r.2 then hwWrite r.1 l.ctx (l.tcb.toNat + 0xC) (leBytes 4 0x0C) else r.1
  completionInterrupt s3 l.ctx l.tcb

/-- LAUNCH_RETIREMENT of launch num (R312). -/
def execLaunchRetirement (s : State) : Host.Outcome State Fault Refusal :=
  match s.launch? s.event.num with
  | none => .refused .notEnabled
  | some l => if launchDone s l then .next (retireLaunch s l) else .refused .notEnabled

end Sys2Proof.Machine
end

