-- ==== Sys2Proof/Machine/SysRegs.lean ====
section
/-! DEFINITION. The system registers: which may be read and written in which view, the rules of a write, SREAD and SWRITE, XLINV and
the patch engine (spec/13_scheduling_sync.md R337 and R338, spec/14_isolation.md R349 to R355, R359, R362 and R365). -/

namespace Sys2Proof.Machine

/-! ### The registers (R337, R349) -/

/-- A listed number. -/
def sysListed (n : Nat) : Bool := n ≤ 9 || (0x100 ≤ n && n ≤ 0x13C) || (0x180 ≤ n && n ≤ 0x187)

/-- A register of 64 bits. -/
def sysWide (n : Nat) : Bool := n == 3 || n == 4 || (0x100 ≤ n && n ≤ 0x13B) || n == 0x181 || n == 0x183 || n == 0x185 || n == 0x186

/-- Readable in no view. -/
def sysUnreadable (n : Nat) : Bool := n == 0x139 || n == 0x185 || n == 0x186

/-- Readable in the privileged view only. -/
def sysReadPrivileged (n : Nat) : Bool := 0x139 ≤ n

/-- Writable in the privileged view. -/
def sysWritable (n : Nat) : Bool := n == 8 || n == 9 || (0x100 ≤ n && n ≤ 0x13C)

/-- A register that only the host writes, and only in a context that is not active. -/
def sysHostOnly (n : Nat) : Bool := 0x180 ≤ n && n ≤ 0x184

/-- WINCTX names the context (R347, R349). -/
def windowSelected (s : State) (ctx : Nat) : Bool := field (s.bar 0x100).toNat 0 6 == ctx

/-- PATCHCTL as it reads: 1 while a patch is busy (R349, R365). -/
def patchControl (s : State) (ctx : Nat) : BitVec 64 := if (s.context ctx).patch.isSome then 1 else s.sys ctx 0x13C

/-! ### SREAD (R337, R338) -/

/-- A read that the order log records (R338). -/
def timeNumber (n : Nat) : Bool := 3 ≤ n && n ≤ 6

/-- The value of a register for a group. -/
def sysValue (s : State) (x : Issue) (n : Nat) : BitVec 64 :=
  match n with
  | 1 => BitVec.ofNat 64 x.e.l.ctx
  | 2 => x.arch.sseq.setWidth 64
  | 3 => s.tick
  | 4 => x.e.t.watchdog
  | 5 => BitVec.ofNat 64 x.core
  | 6 => BitVec.ofNat 64 x.slot
  | 7 => BitVec.ofNat 64 x.e.l.lh.mode
  | 0x187 => if windowSelected s x.e.l.ctx then 1 else 0
  | 0x13C => patchControl s x.e.l.ctx
  | _ => s.sys x.e.l.ctx n

/-- Writes a value to s(d), or to the pair. -/
def putUniform (d : Nat) (wide : Bool) (v : BitVec 64) (a : Arch) : Arch := if wide then a.setS64 d v else a.setS d (v.setWidth 32)

/-- SREAD: inside a fence window a time read of mode 1 or 2 waits for the fence, so that a rollback never repeats it. -/
def execSread (d : BitVec 6) (n : BitVec 12) (s : State) : Host.Outcome State Fault Refusal :=
  let k := n.toNat
  issue { illegal := !sysListed k, forbidden := sysUnreadable k, privileged := sysReadPrivileged k, badReg := sysWide k && oddS d
          writes := if sysWide k then sPair d else [sN d] }
    (fun x s =>
      let write (s : State) (v : BitVec 64) : Res :=
        .done { s := s.mapGroup x.core x.slot (fun g => { g with arch := putUniform d.toNat (sysWide k) v g.arch }) }
      if timeNumber k && x.e.l.lh.mode != 0 && x.e.g.fence.isSome then .stall
      else if timeNumber k then
        match timeRead s x.e.l.id x.e.g k (sysValue s x k) with
        | (.go s1, v) => write s1 v
        | (.wait, _) => .stall
        | (.mismatch m, _) => .mismatch m
      else write s (sysValue s x k)) s

/-! ### Writes (R349 to R353) -/

/-- Why a write is refused: the fault class of an SWRITE, and the reason in MGERR (R347). -/
structure Denied where
  cls : Nat
  reason : Nat
deriving DecidableEq, Repr

def brokenLayout : Denied := ⟨3, 1⟩
def pinnedRange : Denied := ⟨3, 2⟩
def windowRange : Denied := ⟨3, 3⟩

/-- A range of a register that word A is about to make kind 1: its length and its IA are ones that R350 allows. -/
def rangeFormed (s : State) (ctx k : Nat) (a : BitVec 64) : Bool :=
  let base := field a.toNat 12 52 * 4096
  let n := rangeBytes s ctx k
  1 ≤ n && base + n ≤ 2 ^ 64 && rangeIa s ctx k + n ≤ 2 ^ 52 && field (s.sys ctx (0x120 + k)).toNat 0 3 == 0

/-- A write to a word of range register k: number n is 0x100, 0x110 or 0x120 plus k (R350, R351). -/
def writeRange (s : State) (ctx n : Nat) (v : BitVec 64) : Except Denied State :=
  let k := n % 16
  let kind := rangeKind s ctx k
  let x := v.toNat
  if kind = 2 then .error windowRange
  else if rangePinned s ctx k then .error pinnedRange
  else if n < 0x110 then
    match field x 0 2 with
    | 0 => if field x 2 10 = 0 then .ok (s.setSys ctx n v) else .error brokenLayout
    | 1 =>
      if field x 2 10 ≠ 0 ∨ !rangeFormed s ctx k v then .error brokenLayout
      else if rangeFree s ctx k (field x 12 52 * 4096) (rangeBytes s ctx k) then .ok (s.setSys ctx n v)
      else .error ⟨4, 1⟩
    | 2 => .error windowRange
    | _ => .error brokenLayout
  else if kind ≠ 0 then .error brokenLayout
  else if n < 0x120 then (if 1 ≤ x ∧ x < 2 ^ 40 then .ok (s.setSys ctx n v) else .error brokenLayout)
  else if field x 3 9 = 0 ∧ field x 52 12 = 0 then .ok (s.setSys ctx n v) else .error brokenLayout

/-- A communicator word that R353 allows. -/
def commFormed (v : BitVec 64) : Bool :=
  let x := v.toNat
  commRank x < commSize x && field x 24 3 ≤ 5 && field x 27 3 ≤ 5 && field x 31 1 == 0

/-- A q2 command of the context that names communicator n has not completed (R353). -/
def commBusy (s : State) (ctx n : Nat) : Bool :=
  s.commands.any (fun c => c.engine == .collective && c.ctx == ctx && cmdComm c.word == n)

/-- A write to a register of the privileged view that starts no work (R349). -/
def writeSystem (s : State) (ctx n : Nat) (v : BitVec 64) : Except Denied State :=
  if n = 8 then (if 256 ≤ v.toNat ∧ v.toNat ≤ 65536 then .ok (s.setSys ctx n v) else .error brokenLayout)
  else if n = 9 then .ok (s.setSys ctx n (v &&& 0xFFFFFFFF))
  else if 0x100 ≤ n ∧ n < 0x130 then writeRange s ctx n v
  else if 0x130 ≤ n ∧ n < 0x138 then (if commFormed v then .ok (s.setSys ctx n v) else .error brokenLayout)
  else if n = 0x138 then .ok (s.setSys ctx n 0)
  else if n = 0x13A then .ok (s.setSys ctx n v)
  else if n = 0x13B then (if v.toNat % 4 = 0 then .ok (s.setSys ctx n v) else .error brokenLayout)
  else .error ⟨3, 5⟩

/-! ### XLINV (R359, R362) -/

/-- The requests of the other groups of the issuer's launch, which stays on its cores until the write has completed, end with the old
translation: the held accesses are discarded by a rollback, and the REDs take their places or are walked again (R359, R362; log entry 88,
DEDUCED). -/
def settleOwn (s : State) (struck : Nat × List Nat) : State :=
  let s1 := drainStruck s struck
  let ts := (residentTeams s1 struck.1).map (·.id)
  let holds (g : Group) : Bool := ts.contains g.team && (g.fence.map (fun w => !w.held.isEmpty && !w.completing)).getD false
  let s2 := { s1 with groups := s1.groups.map (fun g => if holds g then g.markRollback else g) }
  ts.foldl rewalkTeam s2

/-- An SWRITE of XLINV: the launches struck stop; when they are quiet they are saved and the write completes. A revocation that
strikes the issuer takes effect after the write (R362). -/
def writeXlinv (x : Issue) (s : State) (v : BitVec 64) : Res :=
  match xlinvBlock v with
  | none => .fault { cls := 3 }
  | some block =>
    let struck := struckByBlock s x.e.l.ctx block
    let others := struck.filter (fun i => i.1 != x.e.l.id)
    let own := struck.filter (fun i => i.1 == x.e.l.id)
    let stopped := others.all (fun i => ((s.launch? i.1).map (fun l => i.2.all l.revoking.contains)).getD true)
    if strickenQuiet s others then .done { s := stopLaunches (own.foldl settleOwn (others.foldl revoke (others.foldl drainStruck s))) own }
    else if !stopped then .moved (stopLaunches s others)
    else .stall

/-! ### The patch engine (R365) -/

/-- The code object of a queued task: the address of its kernel header. -/
def taskKernel (s : State) (t : Task) : Option Nat :=
  (hwRead s t.ctx (t.tcb.toNat + 0x10) 8).bind fun h => (hwRead s t.ctx (leNat h + 8) 8).map leNat

/-- The code objects in use in a context: the addresses of their kernel headers and the sizes of their code. -/
def codeInUse (s : State) (ctx : Nat) : List Region :=
  let queued := (s.queues.filter (fun e => e.2.ctx == ctx)).filterMap (fun e =>
    (taskKernel s e.2).bind fun k => (hwRead s ctx (k + 0x10) 4).map (fun b => (k, leNat b)))
  ((s.launches.filter (fun l => l.ctx == ctx)).map (fun l => (l.lh.kernel.toNat, l.kh.codeSize)) ++ queued).eraseDups

/-- The code object whose code holds a patch's target. -/
def patchObject (s : State) (ctx : Nat) (target : Region) : Option Region :=
  (codeInUse s ctx).find? (fun c => c.1 + 0x180 ≤ target.1 && target.1 + target.2 ≤ c.1 + 0x180 + c.2)

/-- A resident launch of the code object runs in deterministic mode 1 or 2. -/
def patchPinned (s : State) (ctx kernel : Nat) : Bool :=
  s.launches.any (fun l => l.ctx == ctx && l.lh.kernel.toNat == kernel && l.lh.mode != 0)

/-- Writes bytes of program text, whose pages refuse program writes, sector by sector; each byte with whether it is poisoned (R394). -/
def writeText (s : State) (ctx va : Nat) (bs : List (Byte × Bool)) : State :=
  (sectorsOf va (bs.map (·.1))).foldl (fun s q =>
    match toIa s ctx q.1 with
    | none => s
    | some ia => match walk s ctx ia with
      | none => s
      | some f =>
        let p : Place := .mem f.tier f.phys ia
        let s1 := s.writePlace p q.2
        if ((bs.drop (q.1 - va)).take q.2.length).any (·.2) then s1.poisonPlace p q.2.length else s1) s

/-- Bytes at a virtual address with their poison; none where one cannot be read. -/
def readPatch (s : State) (ctx va n : Nat) : Option (List (Byte × Bool)) :=
  (hwRead s ctx va n).map (fun bs => (bs.zip (List.range n)).map (fun b =>
    (b.1, ((translate s ctx (va + b.2)).map (fun f => s.memory.poisoned f.tier f.phys 1)).getD false)))

/-- Rewrites the code digest of a kernel header (R365 step 5). -/
def rewriteDigest (s : State) (ctx : Nat) (code : Region) : State :=
  let digest := shake256 32 ((hwRead s ctx (code.1 + 0x180) code.2).getD [])
  let s1 := writeText s ctx (code.1 + 0x48) (digest.map (fun b => (b, false)))
  { s1 with launches := s1.launches.map (fun l =>
      if l.ctx == ctx && l.lh.kernel.toNat == code.1 then { l with kh := { l.kh with raw := putBytes l.kh.raw 0x48 digest } } else l) }

/-- A patch of the context is busy. -/
def patchBusy (s : State) (ctx : Nat) : Bool := (s.context ctx).patch.isSome

def State.setPatch (s : State) (ctx : Nat) (j : Option PatchJob) : State := s.setContext ctx { s.context ctx with patch := j }

/-- A stall whose word issues again, so that it is fetched again (R253, R303, R326, R377). -/
def Wait.reissues : Wait → Bool
  | .queue _ _ _ => true
  | .lockx => true
  | .exiting => true
  | .halting => true
  | _ => false

/-- A group that stands at a word of the target stops before it: a run of which the target has a word begins again at its first hint,
and a blocked word issues again (R43, R365; log entry 75, DEDUCED). -/
def stopAtTarget (s : State) (ctx : Nat) (g : Group) : Group :=
  match s.env? g.core g.slot, g.arch.issuing with
  | some e, some n =>
    if e.l.ctx ≠ ctx ∨ !patchHolds s e.l (g.arch.wordPc n).toNat then g
    else if g.wait.reissues then { g with wait := .none, arch := { g.arch with run := {} } }
    else if g.wait = .none then { g with arch := { g.arch with run := {} } }
    else g
  | _, _ => g

/-- Steps 1 to 3 of a patch of n words (R365): it is refused, and PATCHCTL reads 2, or it reads its words and is busy. -/
def startPatch (s : State) (ctx n : Nat) : State :=
  let target : Region := ((s.sys ctx 0x13B).toNat, 4 * n)
  match patchObject s ctx target, readPatch s ctx (s.sys ctx 0x13A).toNat (4 * n) with
  | some code, some bs =>
    if patchPinned s ctx code.1 then s.setSys ctx 0x13C 2
    else
      let s1 := s.setPatch ctx (some { target := target.1, kernel := code.1, code := code.2, bytes := bs })
      { s1 with groups := s1.groups.map (stopAtTarget s1 ctx) }
  | _, _ => s.setSys ctx 0x13C 2

/-- Steps 4 to 6 of the patch that is busy (R365): PATCHCTL then reads 0, or 2 when a write was discarded meanwhile. -/
def finishPatch (s : State) (ctx : Nat) (j : PatchJob) : State :=
  let s1 := rewriteDigest (writeText s ctx j.target j.bytes) ctx (j.kernel, j.code)
  (s1.setPatch ctx none).setSys ctx 0x13C (if j.refused then 2 else 0)

/-! ### SWRITE (R355) -/

/-- What an SWRITE of a value to register n does once its group's RED entries are drained. -/
def writeBody (n : Nat) (x : Issue) (v : BitVec 64) (s : State) : Res :=
  let ctx := x.e.l.ctx
  if n = 0x139 then writeXlinv x s v
  else if n = 0x13C then .done { s := startPatch s ctx (v.toNat + 1) }
  else match writeSystem s ctx n v with
    | .ok s1 => .done { s := s1 }
    | .error d => .fault { cls := d.cls }

/-- A write that stalls until an engine is idle (R353, R365). -/
def writeWaits (s : State) (ctx n : Nat) : Bool :=
  (n == 0x13C && patchBusy s ctx) || (0x130 ≤ n && n < 0x138 && commBusy s ctx (n - 0x130))

/-- SWRITE to the register whose number has the halves h and l. It follows every access the group issued before, so its RED entries
are drained first (R355). -/
def execSwrite (h a l : BitVec 6) (s : State) : Host.Outcome State Fault Refusal :=
  let n := h.toNat * 64 + l.toNat
  issue { illegal := !sysListed n, forbidden := !sysWritable n, privileged := true, badReg := sysWide n && oddS a
          reads := if sysWide n then sPair a else [sN a], fence := .stall }
    (fun x s =>
      let v : BitVec 64 := if sysWide n then x.arch.getS64 a.toNat else (x.arch.getS a.toNat).setWidth 64
      if n = 0x13C ∧ 2 ^ 14 ≤ v.toNat then .fault { cls := 3 }
      else if writeWaits s x.e.l.ctx n then .stall
      else drainFirst x s (writeBody n x v)) s

end Sys2Proof.Machine
end

