-- ==== Sys2Proof/Machine/Traps.lean ====
section
/-! DEFINITION. TRAP, BKPT and TRET (spec/14_isolation.md R354 and R356, spec/15_recovery.md R370, R371, R376 and R377). -/

namespace Sys2Proof.Machine

/-- TRAP: the group takes a software trap and goes on after it (R356, R371). -/
def execTrap (n : BitVec 12) (s : State) : Host.Outcome State Fault Refusal :=
  issue { fence := .stall } (fun _ _ => .fault { cls := 13, code := n.toNat, took := true, after := true }) s

/-- The breakpoint of a BKPT as a fault to record. -/
def breakpoint (x : Issue) (n : Nat) (word : Word) : Trap :=
  { cls := 14, code := n, pc := x.entry.pc, word := word, took := true, entry := x.entry.mask }

/-- A BKPT that does not enter the handler: its record, and the group after the word (R377). -/
def recordBreakpoint (x : Issue) (n : Nat) (s : State) : LogAnswer :=
  match choose s x.e.l.id 10 unitLaunch 14 (agentTag x.e.g x.e.g.request) x.e.t.id with
  | .go s1 =>
    let s2 := writeRecord s1 ((s1.launch? x.e.l.id).getD x.e.l) (x.e.record (breakpoint x n s.fetched) false) false
    .go (s2.mapGroup x.core x.slot (fun g =>
      ({ g with arch := g.arch.advance x.entry (x.arch.fallThrough x.entry), wait := .none }).marker x.amr x.entry.pc s.fetched x.entry.mask))
  | r => r

/-- A BKPT of a context whose bit in BKPTCTX is set: the team stops, and is saved with hold when it is quiet; without room in the
save pool it waits (R377, R383). -/
def haltTeam (x : Issue) (n : Nat) (s : State) : Res :=
  if !x.e.t.stopping then .moved ((s.setTeam { x.e.t with stopping := true }).setGroup { x.e.g with wait := .halting })
  else if !quiet s x.e.t || (freeArea s (saveBytes x.e.l.kh x.e.t.slots.length)).isNone then
    (if x.e.g.wait = .halting then .stall else .moved (s.setGroup { x.e.g with wait := .halting }))
  else match recordBreakpoint x n s with
    | .wait => .stall
    | .mismatch m => .mismatch m
    | .go s1 => match saveTeam s1 x.e.t.id true with
      | some s2 => .moved s2
      | none => .stall

/-- BKPT (R356, R377). -/
def execBkpt (n : BitVec 12) (s : State) : Host.Outcome State Fault Refusal :=
  issue { fence := .stall }
    (fun x s =>
      if (s.bar 0x1020).getLsbD x.e.l.ctx then haltTeam x n.toNat s
      else .fault { cls := 14, code := n.toNat, took := true, after := true }) s

/-- TRET reads s59 and writes s56 to s63 (R40, R376). -/
def execTret (s : State) : Host.Outcome State Fault Refusal :=
  issue { fence := .stall, illegalIn := fun x => x.e.g.handler.isNone, reads := [.s 59], writes := trapStateRegs }
    (fun x s =>
      match x.e.g.handler with
      | none => .fault { cls := 1 }
      | some h =>
        let p := x.arch.getS 59
        if x.e.l.kh.codeSize ≤ p.toNat ∨ p.toNat % 4 ≠ 0 then .fault { cls := 1 }
        else .done { s := s.setGroup ((x.e.g.leaveHandler h p).marker x.amr x.entry.pc s.fetched x.entry.mask), stay := true }) s

end Sys2Proof.Machine
end

