-- ==== Sys2Proof/Machine/HostRegs.lean ====
section
/-! DEFINITION. The host's registers: BAR0 with the management pages, and BAR4 (spec/14_isolation.md R346 to R353, R359 and R365,
spec/15_recovery.md R377, R393 and R394). -/

namespace Sys2Proof.Machine

/-! ### Management-page writes (R346, R347) -/

/-- A host write while the device runs; otherwise the registers concerned are not served (R347, R367, R397). -/
def hostWrite (s : State) (s1 : State) : Host.Outcome State Fault Refusal := if s.power = .running then .next s1 else .refused .notEnabled

/-- The MGERR value of a discarded write (R347). -/
def managementError (ctx n reason : Nat) : BitVec 64 := BitVec.ofNat 64 (field n 0 12 + field ctx 0 6 * 2 ^ 12 + reason * 2 ^ 20 + 2 ^ 63)

/-- A discarded write. -/
def discard (s : State) (ctx n reason : Nat) : State := s.setBar 0x110 (managementError ctx n reason)

/-- A write with the privileged view's rules. -/
def managed (s : State) (ctx n : Nat) (r : Except Denied State) : State :=
  match r with
  | .ok s1 => s1
  | .error d => discard s ctx n d.reason

/-- RANGE_REGISTER_WRITE: the host writes value to word num, 0x100 to 0x12F, of context ctx (R350, R351). -/
def execRangeRegisterWrite (s : State) : Host.Outcome State Fault Refusal :=
  let c := s.event.ctx
  let n := s.event.num
  if 64 ≤ c ∨ n < 0x100 ∨ 0x130 ≤ n then .refused .notEnabled
  else hostWrite s (managed s c n (writeRange s c n s.event.value))

/-- COMM_WRITE: the host writes value to communicator num, 0 to 7, of context ctx once no q2 command names it (R353). -/
def execCommWrite (s : State) : Host.Outcome State Fault Refusal :=
  let c := s.event.ctx
  let n := s.event.num
  if 64 ≤ c ∨ 8 ≤ n ∨ commBusy s c n then .refused .notEnabled
  else hostWrite s (managed s c (0x130 + n) (writeSystem s c (0x130 + n) s.event.value))

/-- SUBSTAT_CLEAR of context ctx (R349). -/
def execSubstatClear (s : State) : Host.Outcome State Fault Refusal :=
  if 64 ≤ s.event.ctx then .refused .notEnabled else hostWrite s (s.setSys s.event.ctx 0x138 0)

/-- XLINV: the host writes value through the page of context ctx; with flag set, the oldest such write completes (R347, R359, R362). -/
def execXlinv (s : State) : Host.Outcome State Fault Refusal :=
  let c := s.event.ctx
  if s.event.flag then completeInvalidation s true
  else if 64 ≤ c then .refused .notEnabled
  else match xlinvBlock s.event.value with
    | none => hostWrite s (discard s c 0x139 1)
    | some block => hostWrite s (enterInvalidation (s.setBar 0x108 0)
        { addr := s.event.value, management := true, ctx := c, struck := struckByBlock s c block })

/-- A write of PATCHCTL through the management page (R365): while a patch is busy it is discarded, and PATCHCTL reads 2 afterwards. -/
def writePatch (s : State) (ctx v : Nat) : State :=
  match (s.context ctx).patch with
  | some j => (discard s ctx 0x13C 6).setPatch ctx (some { j with refused := true })
  | none => if v < 2 ^ 14 then startPatch s ctx (v + 1) else discard s ctx 0x13C 1

/-- PATCH: the host writes value to PATCHCTL of context ctx; with flag set, the patch that is busy there is carried out (R365). -/
def execPatch (s : State) : Host.Outcome State Fault Refusal :=
  let c := s.event.ctx
  if 64 ≤ c then .refused .notEnabled
  else if s.event.flag then
    match (s.context c).patch with
    | some j => hostWrite s (finishPatch s c j)
    | none => .refused .notEnabled
  else hostWrite s (writePatch s c (s.event.value.toNat % 2 ^ 32))

/-! ### Contexts (R348) -/

/-- No two range registers of kind 1 overlap. -/
def rangesApart (s : State) (ctx : Nat) : Bool :=
  (List.range 16).all (fun n => rangeKind s ctx n != 1 || (List.range 16).all (fun m => m == n || rangeKind s ctx m != 1
    || !overlaps (rangeBase s ctx n, rangeBytes s ctx n) (rangeBase s ctx m, rangeBytes s ctx m)))

/-- The root table is aligned and lies in the GDDR-7 space. -/
def rootPlaced (s : State) (ctx : Nat) : Bool :=
  let root := (s.sys ctx 0x181).toNat
  root % 65536 == 0 && root + 65536 ≤ Config.gddrBytes

/-- The thread-local region lies inside one range register of kind 1, or is empty. -/
def threadsPlaced (s : State) (ctx : Nat) : Bool :=
  s.sys ctx 0x184 == 0 || inOneRange s ctx ((s.sys ctx 0x183).toNat, 4096 * (s.sys ctx 0x184).toNat)

/-- Why a context cannot be activated; 0 for nothing. -/
def activationReason (s : State) (ctx : Nat) : Nat :=
  if !rangesApart s ctx then 1 else if !rootPlaced s ctx then 2 else if !threadsPlaced s ctx then 3 else 0

/-- CTXSTATE_ACTIVATE: 1 is written to CTXSTATE of the free context ctx (R348). -/
def execCtxstateActivate (s : State) : Host.Outcome State Fault Refusal :=
  let c := s.event.ctx
  if 64 ≤ c ∨ s.contextActive c then .refused .notEnabled
  else
    let r := activationReason s c
    hostWrite s (s.setSys c 0x180 (if r = 0 then 1 else BitVec.ofNat 64 (r * 256)))

/-- A task of the context is queued, admitted or resident, or a patch is busy. -/
def contextBusy (s : State) (ctx : Nat) : Bool :=
  s.queues.any (fun e => e.2.ctx == ctx) || s.launches.any (fun l => l.ctx == ctx) || patchBusy s ctx

/-- CTXSTATE_FREE: 0 is written to CTXSTATE of the active context ctx, which is scrubbed (R348). -/
def execCtxstateFree (s : State) : Host.Outcome State Fault Refusal :=
  let c := s.event.ctx
  if 64 ≤ c ∨ !s.contextActive c then .refused .notEnabled
  else hostWrite s (if contextBusy s c then s.setSys c 0x180 0x401 else s.setContext c {})

/-! ### Other registers (R346, R347, R349) -/

/-- A value that a host-only register takes (R349). -/
def hostOnlyFormed (n : Nat) (v : BitVec 64) : Bool :=
  let x := v.toNat
  match n with
  | 0x180 => x == 0 || x == 1
  | 0x182 => field x 20 11 == 0
  | 0x183 => x % 4096 == 0
  | _ => true

/-- The bits that a register of 32 bits keeps. -/
def sysBits (n : Nat) (v : BitVec 64) : BitVec 64 := if sysWide n then v else v &&& 0xFFFFFFFF

/-- A host-only register, by the host. Writing 0 to CTXSTATE of a free context changes nothing. -/
def writeHostOnly (s : State) (ctx n : Nat) (v : BitVec 64) : State :=
  if s.contextActive ctx then discard s ctx n 4
  else if !hostOnlyFormed n v then discard s ctx n 1
  else if n = 0x180 then s
  else s.setSys ctx n v

/-- Numbers whose management-page writes have a row of their own. -/
def ownRow (s : State) (ctx n : Nat) (v : BitVec 64) : Bool :=
  (0x100 ≤ n && n ≤ 0x139) || n == 0x13C || n == 0x185 || n == 0x186
  || (n == 0x180 && v == (if s.contextActive ctx then 0 else 1))

/-- A management-page write of a number without a row of its own; an unlisted number is discarded. -/
def writeManagement (s : State) (ctx n : Nat) (v : BitVec 64) : State :=
  let x := sysBits n v
  if !sysListed n then s
  else if sysHostOnly n then writeHostOnly s ctx n x
  else managed s ctx n (writeSystem s ctx n x)

/-- A write to PREEMPT1 starts the request that PREEMPT0 describes (R377). -/
def startRequest (s : State) (v : BitVec 64) : State :=
  let p := (s.bar 0x1000).toNat
  let r : Request :=
    { tcb := BitVec.ofNat 64 (p / 64 * 64), ctx := field v.toNat 0 6, method := field p 0 2, hold := field p 2 1 == 1,
      bound := field v.toNat 32 32, start := s.tick }
  { (s.setBar 0x1008 (v &&& 0xFFFFFFFF0000003F)).setBar 0x1010 0 with requests := s.requests ++ [r] }

/-- A write to a device register without a row of its own. -/
def writeDevice (s : State) (o : Nat) (v : BitVec 64) : State :=
  match o with
  | 0x100 => s.setBar o (v &&& 0x3F)
  | 0x108 => if v.getLsbD 0 then s else s.setBar o 0
  | 0x1000 => s.setBar o (v &&& 0xFFFFFFFFFFFFFFC7)
  | 0x1008 => startRequest s v
  | 0x1020 => s.setBar o v
  | 0x1100 => s.setBar o v
  | 0x2000 => s.setBar o v
  | 0x2008 => s.setBar o v
  | 0x3000 => s.setBar o v
  | 0x3008 => s.setBar o v
  | 0x3010 => s.setBar o v
  | _ => s

/-- Device registers whose writes have a row of their own: MGERR, PRERESUME, CKPTCTL, FWCTL, ATTCTL, ERRCNT. -/
def deviceRow (o : Nat) (v : BitVec 64) : Bool :=
  o == 0x110 || o == 0x1018 || ((o == 0x1108 || o == 0x2010 || o == 0x3018) && (v == 1 || v == 2)) || (0x4000 ≤ o && o < 0x5880)

/-- Registers that the recovery loader serves (R347). -/
def loaderServes (o : Nat) : Bool := o == 0x2000 || o == 0x2008

/-- REGISTER_WRITE: the host writes value at BAR0 offset addr, a register without a row of its own (R346, R347, R349). -/
def execRegisterWrite (s : State) : Host.Outcome State Fault Refusal :=
  let o := s.event.addr.toNat
  let v := s.event.value
  if s.power = .recovery then (if loaderServes o then .next (writeDevice s o v) else .refused .notEnabled)
  else if 0x100000 ≤ o then
    let c := (o - 0x100000) / 4096
    let n := o % 4096 / 8
    if 64 ≤ c ∨ ownRow s c n v then .refused .notEnabled else hostWrite s (writeManagement s c n v)
  else if deviceRow o v then .refused .notEnabled
  else hostWrite s (writeDevice s o v)

/-- MGERR_CLEAR (R347). -/
def execMgerrClear (s : State) : Host.Outcome State Fault Refusal := hostWrite s (s.setBar 0x110 0)

/-- ERRCNT_CLEAR of unit num (R347, R393). -/
def execErrcntClear (s : State) : Host.Outcome State Fault Refusal := hostWrite s (s.setBar (0x4000 + 8 * s.event.num) 0)

/-! ### Host reads of BAR0 and BAR2 (R346, R347) -/

/-- Where the reading of monitor m is held, past the end of BAR0. -/
def monitorKey (m : Nat) : Nat := 2 ^ 24 + m

/-- A read of a device register at its offset; a monitor's row stands before an error counter's (log entry 50, DESIGN CHOICE). -/
def readDevice (s : State) (o : Nat) : BitVec 64 :=
  if o = 0 then 0x01035A33
  else if o % 8 = 0 ∧ 0x5000 ≤ o ∧ o < 0x5000 + 8 * 80 then s.bar (monitorKey ((o - 0x5000) / 8))
  else s.bar o

/-- A read of a management page. -/
def readManagement (s : State) (ctx n : Nat) : BitVec 64 :=
  match n with
  | 1 => BitVec.ofNat 64 ctx
  | 3 => s.tick
  | 0x187 => if windowSelected s ctx then 1 else 0
  | 0x13C => patchControl s ctx
  | _ => if sysUnreadable n || !sysListed n then 0 else s.sys ctx n

/-- A read at a BAR0 offset; in the recovery loader only its registers are served (R347). -/
def readBar0 (s : State) (o : Nat) : BitVec 64 :=
  if s.power = .recovery ∧ !(o == 0 || loaderServes o || o == 0x2018) then 0
  else if 0x100000 ≤ o then (if o < 0x140000 then readManagement s ((o - 0x100000) / 4096) (o % 4096 / 8) else 0)
  else readDevice s o

/-- A read at a BAR2 offset: SUBSTAT stands at 0x008 of a context's page, and every other offset reads as zero (R346, R352). -/
def readBar2 (s : State) (o : Nat) : BitVec 64 :=
  if s.power = .running ∧ o < 0x40000 ∧ o % 4096 = 8 then s.sys (o / 4096) 0x138 else 0

/-! ### BAR4 (R346, R365, R394) -/

/-- A leaf's page meets program text in use, in whatever context (R365). -/
def pageInUse (s : State) (f : Leaf) (n : Nat) : Bool :=
  let page := (f.phys / n * n, n)
  (List.range 64).any (fun c => (codeInUse s c).any (fun k =>
    !((piecesOf s c (k.1, 0x180 + k.2)).getD []).all (fun p =>
      allLeaves s c true (fun g m => !(g.tier == f.tier && overlaps page (g.phys, m))) (p.2 / 4096 + 2) p)))

/-- The leaf that one byte of a BAR4 access uses, if the access is performed. -/
def windowLeaf (s : State) (ctx ia : Nat) (write : Bool) : Option Leaf :=
  (walk s ctx ia).bind (fun f =>
    if (if write then f.wr && !(f.ex && (patchBusy s ctx || pageInUse s f f.size)) else f.rd) then some f else none)

/-- BAR4_ACCESS at intermediate address addr: with flag a write of bytes, else a read of num bytes (R346, R224). -/
def execBar4Access (s : State) : Host.Outcome State Fault Refusal :=
  let ctx := field (s.bar 0x100).toNat 0 6
  let a := s.event.addr.toNat
  let n := if s.event.flag then s.event.bytes.length else s.event.num
  let leaves := (List.range n).map (fun k => windowLeaf s ctx (a + k) s.event.flag)
  let link := s.link
  if 2 ^ 42 < a + n then .refused .notEnabled
  else if leaves.any (·.isNone) then
    hostWrite s { s with link := { link with readAbort := true, readPoison := false, readData := 0 } }
  else if s.event.flag then
    let s1 := (sectorsOf a s.event.bytes).foldl (fun s p => match (leaves[p.1 - a]?).join with
      | some f => s.writePlace (.mem f.tier f.phys p.1) p.2
      | none => s) s
    hostWrite s { s1 with link := { s1.link with readAbort := false } }
  else
    let fs := leaves.filterMap id
    let bs := fs.map (fun f => s.memory.readByte f.tier f.phys)
    hostWrite s { s with link := { link with
      readAbort := false
      readPoison := fs.any (fun f => s.memory.poisoned f.tier f.phys 1)
      readData := BitVec.ofNat 64 (leNat bs) } }

end Sys2Proof.Machine
end

