-- ==== Sys2Proof/Machine/Trust.lean ====
section
/-! DEFINITION. Power-on, device reset, firmware and attestation (spec/14_isolation.md R347, R367 and R368). -/

namespace Sys2Proof.Machine

/-! ### Firmware images (R367) -/

/-- Bytes of the image header, the signature at its end. -/
def imageHeaderBytes : Nat := 0x30 + 3309

/-- The bytes after the header. -/
def imageBody (img : List Byte) : List Byte := img.drop imageHeaderBytes

/-- The security version that an image names. -/
def securityVersion (img : List Byte) : Nat := byteField img 8 4

/-- The image digest that a header holds. -/
def imageDigest (img : List Byte) : List Byte := sliceBytes img 0x10 32

/-- Why the boot ROM or an install does not take an image; 0 for nothing: 5 length, 1 signature, 2 digest, 3 security version. -/
def imageReason (minimum : Word) (img : List Byte) : Nat :=
  if img.length ≠ imageHeaderBytes + byteField img 0xC 4 then 5
  else if !Config.firmwareVerifies (sliceBytes img 0 0x30) (sliceBytes img 0x30 3309) then 1
  else if shake256 32 (imageBody img) ≠ imageDigest img then 2
  else if securityVersion img < minimum.toNat then 3
  else 0

/-! ### Boot (R367, R347) -/

/-- The power state after the boot ROM has run: the image in flash is loaded and every core passes its test, or the recovery loader
waits. -/
def bootPower (s : State) : Power := if imageReason s.fusedMinimum s.flash = 0 ∧ Config.powerOnTestPasses s.freeIx then .running else .recovery

/-- The device after a reset: every register at its reset value, nothing resident, and the boot ROM has run. Memory, flash, fuses and
what lies outside the device stay. -/
def restart (s : State) : State :=
  { State.reset with
    memory := s.memory
    flash := s.flash
    fusedMinimum := s.fusedMinimum
    link := { interrupts := s.link.interrupts, aer := s.link.aer, invalidations := s.link.invalidations,
              translations := s.link.translations }
    peers := s.peers
    images := s.images
    nextId := s.nextId
    agenda := s.agenda
    freeIx := s.freeIx
    power := bootPower s }

/-- DEVICE_RESET (R340, R347, R397). -/
def execDeviceReset (s : State) : Host.Outcome State Fault Refusal := .next (restart s)

/-- POWER_ON: as a reset, and device memory holds what it holds at power-on (R367; log entry 4, DESIGN CHOICE). -/
def execPowerOn (s : State) : Host.Outcome State Fault Refusal :=
  let s1 := restart s
  .next { s1 with memory := { host := s1.memory.host, hostPoison := s1.memory.hostPoison } }

/-! ### The firmware mailbox (R347, R367) -/

/-- The bytes of host memory at an address; none when one is poisoned, or when the address is not aligned to u. -/
def fetchHost (s : State) (a n u : Nat) : Option (List Byte) :=
  if a % u ≠ 0 ∨ s.memory.poisoned .host a n then none else some (s.memory.read .host a n)

/-- Any context is active. -/
def anyActive (s : State) : Bool := (List.range 64).any s.contextActive

/-- A refused install. -/
def refuseImage (s : State) (reason : Nat) : State := s.setBar 0x2018 (BitVec.ofNat 64 (3 + reason * 256))

/-- A mailbox takes a job: its status register reads busy (R347; log entry 104, DESIGN CHOICE). -/
def startJob (s : State) (j : MailboxJob) (status : Nat) : State :=
  { s with link := { s.link with jobs := s.link.jobs ++ [j] } }.setBar status 1

/-- A mailbox is done with its job. -/
def endJob (s : State) (j : MailboxJob) : State := { s with link := { s.link with jobs := s.link.jobs.filter (· != j) } }

/-- An install is carried out: the image is fetched and checked. A verified one replaces the one in flash, and the device restarts. -/
def install (s : State) (unanswered : Bool) : State :=
  if anyActive s then refuseImage s 6
  else match fetchHost s (s.bar 0x2000).toNat (s.bar 0x2008).toNat 4096, unanswered with
    | some img, false =>
      let r := imageReason s.fusedMinimum img
      if r = 0 then (restart { s with flash := img }).setBar 0x2018 2 else refuseImage s r
    | _, _ => refuseImage s 4

/-- FIRMWARE_INSTALL: 1 is written to FWCTL; while the mailbox is busy with an install, that install is carried out, and flag says that
the host does not answer the fetch. -/
def execFirmwareInstall (s : State) : Host.Outcome State Fault Refusal :=
  if s.power = .shutdown then .refused .notEnabled
  else if s.link.jobs.contains .install then .next (install (endJob s .install) s.event.flag)
  else if anyActive s then .next (refuseImage s 6)
  else .next (startJob s .install 0x2018)

/-- FUSE_RAISE: 2 is written to FWCTL (R367). -/
def execFuseRaise (s : State) : Host.Outcome State Fault Refusal :=
  let v := securityVersion s.flash
  hostWrite s (if s.fusedMinimum.toNat < v then { s with fusedMinimum := BitVec.ofNat 32 v } else s)

/-! ### Attestation (R347, R368) -/

/-- The measurement of the code object that a request names: zero when none is, or when it is not loaded. -/
def measurement (s : State) (request : List Byte) : List Byte :=
  let c := byteField request 32 1
  match s.launches.find? (fun l => l.ctx == field c 0 6 && l.lh.kernel.toNat == byteField request 40 8) with
  | some l => if field c 7 1 = 1 then shake256 32 l.kh.raw else List.replicate 32 0
  | none => List.replicate 32 0

/-- The report without its signature. -/
def reportBody (s : State) (request : List Byte) : List Byte :=
  leBytes 4 0x41545A33 ++ leBytes 4 1 ++ sliceBytes request 0 32 ++ leBytes 16 Config.serial.toNat ++ imageDigest s.flash
  ++ leBytes 4 (securityVersion s.flash) ++ leBytes 4 s.fusedMinimum.toNat ++ measurement s request ++ shake256 32 Config.identityPublic

/-- The report (R368). -/
def report (s : State) (request : List Byte) : List Byte := reportBody s request ++ sliceBytes (Config.identitySign (reportBody s request)) 0 3309

/-- Writes an output to ATTOUT, then ATTSTAT; a buffer that is too small takes nothing. -/
def answerAttestation (s : State) (out : List Byte) : State :=
  if (s.bar 0x3010).toNat < out.length then s.setBar 0x3020 (3 + 256)
  else
    let a := (s.bar 0x3008).toNat
    (s.writePlace (.mem .host a a) out).setBar 0x3020 (BitVec.ofNat 64 (2 + out.length * 2 ^ 32))

/-- An attestation that the host does not answer. -/
def failAttestation (s : State) : State := s.setBar 0x3020 (3 + 2 * 256)

/-- The report is made. -/
def attest (s : State) (unanswered : Bool) : State :=
  match fetchHost s (s.bar 0x3000).toNat 64 64, unanswered with
  | some request, false => answerAttestation s (report s request)
  | _, _ => failAttestation s

/-- The certificate chain is written. -/
def sendChain (s : State) (unanswered : Bool) : State :=
  if unanswered then failAttestation s else answerAttestation s Config.certificateChain

/-- A request to the attestation mailbox, or, while it is busy with that job, the job itself. -/
def attestationJob (s : State) (j : MailboxJob) (run : State → Bool → State) : Host.Outcome State Fault Refusal :=
  if s.link.jobs.contains j then hostWrite s (run (endJob s j) s.event.flag)
  else if s.link.jobs.contains .report || s.link.jobs.contains .chain then .refused .notEnabled
  else hostWrite s (startJob s j 0x3020)

/-- ATTESTATION_REPORT: 1 is written to ATTCTL; while the mailbox is busy with a report, it is made, and flag says that the host does
not answer the fetch or the write. -/
def execAttestationReport (s : State) : Host.Outcome State Fault Refusal := attestationJob s .report attest

/-- CERTIFICATE_CHAIN: 2 is written to ATTCTL; while the mailbox is busy with a chain, it is written, and flag says that the host does not
answer the write. -/
def execCertificateChain (s : State) : Host.Outcome State Fault Refusal := attestationJob s .chain sendChain

end Sys2Proof.Machine
end

