-- ==== Sys2Proof/Machine/Errors.lean ====
section
/-! DEFINITION. Errors, poison, power and heat (spec/13_scheduling_sync.md R342 and R343, spec/15_recovery.md R370, R386, R393, R394 and
R397). -/

namespace Sys2Proof.Machine

/-! ### Timing errors (R386) -/

/-- TIMING_ERROR_REPLAY: the next instruction of the group in the slot is executed again num times in a row, with no new effect; the
sixteenth time raises a machine check with code 4. -/
def execTimingErrorReplay (s : State) : Host.Outcome State Fault Refusal :=
  match s.env? s.event.core s.event.slot with
  | none => .next s
  | some e =>
    if s.event.num < 16 then .next s
    else if e.g.fenced then .refused .notEnabled
    else match takeFault s e.g.core e.g.slot (e.headTrap s 17 4) with
      | some s1 => .next s1
      | none => .refused .notEnabled

/-! ### Memory errors (R370, R393, R394) -/

/-- CORRECTED_ERROR in unit num: its counter increments (R393). -/
def execCorrectedError (s : State) : Host.Outcome State Fault Refusal :=
  let o := 0x4000 + 8 * s.event.num
  .next (s.setBar o (s.bar o + 1))

/-- Every task resident ends with a machine check of a code (R370). -/
def failEveryTask (s : State) (code : Nat) : State := (s.launches.map (·.id)).foldl (fun s i => launchFault s i 17 code) s

/-- Whether what reads the table stands past an incomplete fence: the group's next word, or with the event's flag an operation of the tile
engine, its num-th head, past a fence whose set does not name T; past one whose set names T no matrix word issues (R216). None: there is
no such operation. -/
def readerPast (s : State) (g : Group) : Option Bool :=
  if s.event.flag then (g.heads[s.event.num]?).map (fun o => g.soft.any (fun f => f.next ≤ o.id)) else some g.fenced

/-- A machine check that is held, before every fault that waits: a rollback discards it only where a word of the window raised it (R217,
R218). -/
def Group.holdCheck (g : Group) (flag : Bool) (f : Trap) : Group :=
  { g with after := f :: g.after, fence := g.fence.map (fun w => if flag then { w with after := f :: w.after } else w) }

/-- An uncorrectable error of a table that the group in the slot reads, at its head entry's word, or with the event's flag in the tile
engine (R108, R369 code 3, R412). A reader past an incomplete fence has its fault held (R218; log entry 108, DEDUCED). -/
def tableError (s : State) (core slot : Nat) : Option State :=
  (s.env? core slot).bind fun e =>
    (readerPast s e.g).map fun past =>
      let f : Trap := { e.headTrap s 17 3 with inner := e.g.handler.isSome }
      let held := s.setGroup (e.g.holdCheck s.event.flag f)
      if past then held else (takeFault s core slot f).getD held

/-- What an uncorrectable error does to the place it strikes (R108, R370, R394). -/
def strikeSite (s : State) : ErrSite → State
  | .mem t n => s.poisonPlace (.mem t (32 * n) 0) 32
  | .loft t i w => s.poisonPlace (.loft t i (16 * w)) 16
  | .barn l c i w => s.poisonPlace (.barn l c i (16 * w)) 16
  | .reg core slot r => s.mapGroup core slot (fun g => { g with bad := r :: g.bad.filter (· != r) })
  | .table core slot => (tableError s core slot).getD s
  | .unit link => failEveryTask s (if link then 5 else 2)

/-- UNCORRECTABLE_ERROR at the site of the event. -/
def execUncorrectableError (s : State) : Host.Outcome State Fault Refusal :=
  match s.event.site with
  | none => .refused .notEnabled
  | some (.table core slot) => (tableError s core slot).elim (.refused .notEnabled) .next
  | some x => .next (strikeSite s x)

/-- SCRUB: sectors are read and corrected ones are rewritten; no bit that can be read changes (R393). -/
def execScrub (s : State) : Host.Outcome State Fault Refusal := .next s

/-! ### Power and heat (R342, R343, R397) -/

/-- What a cluster bids: the launch queue of every team resident in it, by which the bid is weighted (R342). -/
def clusterBid (s : State) (k : Nat) : List Nat :=
  (s.teams.filter (fun t => t.place == .resident && clusterOf t.core == k)).filterMap (fun t => (s.launch? t.launch).map (·.lh.queue))

/-- What all clusters bid. -/
def tokenBids (s : State) : List (List Nat) := (List.range Config.clusters).map (clusterBid s)

/-- The token grants of the clusters from k on, with room left above the 64 that every cluster has (R342; log entry 10, DESIGN CHOICE). -/
def tokenGrants (s : State) : Nat → Nat → Nat → SMap Nat → SMap Nat
  | 0, _, _, m => m
  | n + 1, k, room, m =>
    let x := if s.throttled.contains k then 0 else min room (Config.tokenGrant s.freeIx (tokenBids s) k)
    tokenGrants s n (k + 1) (room - x) (smSet 64 k (64 + x) m)

/-- Updates the 80 monitors (R347, R397). -/
def readMonitors (s : State) : State :=
  (List.range 80).foldl (fun s m => s.setBar (monitorKey m) (Config.monitorReading s.freeIx m)) s

/-- POWER_TOKEN_BID: every 10,000 ticks the arbiter grants tokens and the monitors are updated (R342, R397). -/
def execPowerTokenBid (s : State) : Host.Outcome State Fault Refusal :=
  if s.tick < s.nextBid then .refused .notEnabled
  else
    let room := 6400 - 64 * Config.clusters
    .next { readMonitors s with grants := tokenGrants s Config.clusters 0 room s.grants, nextBid := s.nextBid + 10000 }

/-- DROOP: the clock of a cluster is stretched; no result changes (R342, R343). -/
def execDroop (s : State) : Host.Outcome State Fault Refusal := .next s

/-- THERMAL_THROTTLE: cluster num's junction temperature passes value, in 1/16 of a degree: at 100 degrees its grant falls to 64 tokens,
until it is below 95 degrees (R397). -/
def execThermalThrottle (s : State) : Host.Outcome State Fault Refusal :=
  let k := s.event.num
  let others := s.throttled.filter (fun c => c != k)
  if Config.clusters ≤ k then .refused .notEnabled
  else if 16 * 100 ≤ s.event.value.toNat ∧ !s.throttled.contains k then
    .next { s with throttled := k :: others, grants := smSet 64 k 64 s.grants }
  else if s.event.value.toNat < 16 * 95 ∧ s.throttled.contains k then .next { s with throttled := others }
  else .refused .notEnabled

/-- Resident work is lost. -/
def loseWork (s : State) : State :=
  { s with groups := [], teams := [], launches := [], queues := [], cores := [], commands := [], ghosts := [], requests := []
           departures := [] }

/-- THERMAL_SHUTDOWN: at 110 degrees every clock stops and the error is reported through AER; value is the temperature in 1/16 of a
degree (R397). -/
def execThermalShutdown (s : State) : Host.Outcome State Fault Refusal :=
  if s.event.value.toNat < 16 * 110 then .refused .notEnabled
  else .next { loseWork s with power := .shutdown, link := { s.link with aer := s.link.aer + 1 } }

end Sys2Proof.Machine
end

