-- ==== Sys2Proof/Machine/Checkpoint.lean ====
section
/-! DEFINITION. Checkpoint and restore: the target list, the chunks of the image and where they go (spec/15_recovery.md R395 and
R396). -/

namespace Sys2Proof.Machine

/-! ### The target list (R395) -/

/-- A target: address, port and length in GiB. -/
structure Target where
  addr : Nat
  port : Nat
  gib : Nat
deriving DecidableEq, Repr

/-- The targets of the list at CKPTLIST; none when the count is not 1 to 32. -/
def targetList (s : State) : List Target :=
  let a := (s.bar 0x1100).toNat
  let n := leNat (s.memory.read .host a 8)
  if n = 0 ∨ 32 < n then []
  else (List.range n).map (fun k =>
    let d := s.memory.read .host (a + 8 + 16 * k) 16
    { addr := byteField d 0 8, port := byteField d 8 1, gib := byteField d 12 4 })

/-- Bytes of a chunk. -/
def chunkBytes : Nat := 2 ^ 30

/-- Chunks of the image: chunk 0, then the GDDR-7 and the Granary space. -/
def imageChunks : Nat := 1 + (Config.gddrBytes + Config.granaryBytes + chunkBytes - 1) / chunkBytes

/-- The first of the targets from number k on, cyclically, that has room. -/
def nextTarget (ts : List (Target × Nat)) (k : Nat) : Option Nat :=
  ((List.range ts.length).map (fun j => (k + j) % ts.length)).find? (fun j => match ts[j]? with
    | some t => t.2 < t.1.gib
    | none => false)

/-- Where chunks go from chunk c on: port and address; each target goes with the chunks it already holds. -/
def placeChunks : Nat → Nat → List (Target × Nat) → List (Nat × Nat)
  | 0, _, _ => []
  | n + 1, c, ts =>
    match nextTarget ts (c % ts.length) with
    | none => []
    | some j => match ts[j]? with
      | none => []
      | some t => (t.1.port, t.1.addr + chunkBytes * t.2) :: placeChunks n (c + 1) (ts.set j (t.1, t.2 + 1))

/-- Where each chunk of the image goes. -/
def chunkPlaces (ts : List Target) : List (Nat × Nat) := placeChunks imageChunks 0 (ts.map (fun t => (t, 0)))

/-! ### The image (R396) -/

/-- First byte of a tier in the image. -/
def tierOffset : Tier → Nat
  | .gddr => chunkBytes
  | _ => chunkBytes + Config.gddrBytes

/-- The image of device memory: bytes by their offset. -/
def memoryCells (m : Memory) : SMap Byte :=
  m.gddr.map (fun b => (tierOffset .gddr + b.1, b.2)) ++ m.granary.map (fun b => (tierOffset .granary + b.1, b.2))

/-- The bytes of chunk c among cells by offset. -/
def chunkOf (cells : SMap Byte) (c : Nat) : List Byte := (List.range chunkBytes).map (fun k => smGet (0 : Byte) (chunkBytes * c + k) cells)

/-- The digest table: every chunk after chunk 0. -/
def digestTable (cells : SMap Byte) : List Byte := (List.range (imageChunks - 1)).flatMap (fun c => shake256 32 (chunkOf cells (c + 1)))

/-- The poisoned units: tier in [63:62], address below. -/
def poisonedUnits (m : Memory) : List Nat :=
  m.gddrPoison.map (fun k => 32 * k) ++ m.granaryPoison.map (fun k => 2 ^ 62 + 32 * k)

/-- The management pages of the 64 contexts. -/
def pagePieces (s : State) : List Piece :=
  (List.range 64).flatMap (fun c => (List.range 512).map (fun n => num (0x100000 + 4096 * c + 8 * n) 8 (readManagement s c n).toNat))

/-- The launch queues: a count, then 16 bytes for each task (log entry 51, DEDUCED). -/
def queueBytes (s : State) : List Piece :=
  num 0x140000 8 s.queues.length :: (s.queues.zip (List.range s.queues.length)).map (fun e =>
    (0x140010 + 16 * e.2, record 16 [(0, 1, e.1.1), (1, 1, e.1.2.ctx), (2, 1, if e.1.2.privileged then 1 else 0), (8, 8, e.1.2.tcb.toNat)]))

/-- The header of chunk 0 (log entry 51, DEDUCED). -/
def checkpointHeader (s : State) : List Byte :=
  record 0x2000 [(0, 4, 0x434B5A33), (8, 16, Config.serial.toNat), (0x18, 32, leNat (imageDigest s.flash)), (0x38, 8, s.checkpointStart.toNat),
    (0x40, 8, imageChunks), (0x48, 8, (poisonedUnits s.memory).length)]

/-- Chunk 0. -/
def chunkZero (s : State) : SMap Byte :=
  let table := digestTable (memoryCells s.memory)
  let units := poisonedUnits s.memory
  let pieces : List Piece :=
    [(0, checkpointHeader s), (0x2000, sliceBytes (Config.identitySign (shake256 32 (checkpointHeader s ++ table))) 0 3309), (0x10000, table)]
    ++ pagePieces s ++ queueBytes s ++ (units.zip (List.range units.length)).map (fun u => num (0x200000 + 8 * u.2) 8 u.1)
  putPieces [] 0 pieces

/-! ### Writing and reading chunks -/

/-- The bytes behind a port: host memory for port 6. -/
def portCells (s : State) (port : Nat) : List Host.Cell := if port = 6 then s.memory.host else s.peers

/-- Where an address of a port is among its bytes. -/
def portKey (port addr : Nat) : Nat := if port = 6 then addr else port * 2 ^ 64 + addr

def setPort (s : State) (port : Nat) (cs : List Host.Cell) : State :=
  if port = 6 then { s with memory := s.memory.setCells .host cs } else { s with peers := cs }

/-- The sectors of host memory that a chunk at a port's address covers hold poison no more (R394). -/
def clearPort (s : State) (port key : Nat) : State :=
  if port = 6 then { s with memory := s.memory.setPoison .host (keepPoison 32 key chunkBytes s.memory.hostPoison) } else s

/-- Writes chunk c to its place: the bytes that are not listed are zero. -/
def writeChunk (cells : SMap Byte) (s : State) (p : (Nat × Nat) × Nat) : State :=
  let key := portKey p.1.1 p.1.2
  let own := (cells.filter (fun b => chunkBytes * p.2 ≤ b.1 && b.1 < chunkBytes * (p.2 + 1)))
  let cleared := smEraseRange key chunkBytes (portCells s p.1.1)
  setPort (clearPort s p.1.1 key) p.1.1 (own.foldl (fun m b => smSet (0 : Byte) (key + (b.1 - chunkBytes * p.2)) b.2 m) cleared)

/-- Writes the whole image. -/
def writeImage (s : State) (ts : List Target) : State :=
  let places := chunkPlaces ts
  (places.zip (List.range places.length)).foldl (writeChunk (chunkZero s ++ memoryCells s.memory)) s

/-- Reads the image back: bytes by their offset. -/
def readImage (s : State) (ts : List Target) : SMap Byte :=
  let places := chunkPlaces ts
  (places.zip (List.range places.length)).flatMap (fun p =>
    let key := portKey p.1.1 p.1.2
    ((portCells s p.1.1).filter (fun b => key ≤ b.1 && b.1 < key + chunkBytes)).map (fun b => (chunkBytes * p.2 + (b.1 - key), b.2)))

/-! ### CHECKPOINT (R395) -/

/-- Ends a checkpoint or a restore with CKPTSTAT: a state, a reason, and the milliseconds since it started. -/
def endCheckpoint (s : State) (state reason : Nat) : State :=
  let ms := (s.tick - s.checkpointStart).toNat / 10 ^ 6 % 2 ^ 32
  s.setBar 0x1110 (BitVec.ofNat 64 (state + reason * 256 + ms * 2 ^ 32))

/-- Every resident team is saved; none when the pool has no room. -/
def saveEvery (s : State) : Option State := placeAll (fun s l => saveLaunch s l false) s (s.launches.map (·.id))

/-- CHECKPOINT: 1 is written to CKPTCTL; with flag set, the checkpoint in progress is carried out once every team is quiet. -/
def execCheckpoint (s : State) : Host.Outcome State Fault Refusal :=
  if s.event.flag then
    if !s.checkpointing || !s.launches.all (fun l => launchQuiet s l.id) then .refused .notEnabled
    else match saveEvery s with
      | none => .next (endCheckpoint s 3 3)
      | some s1 =>
        let i : Image :=
          { started := s1.checkpointStart, contexts := s1.contexts, launches := s1.launches, teams := s1.teams }
        .next (endCheckpoint { writeImage s1 (targetList s1) with images := i :: s1.images } 2 0)
  else if s.checkpointing then .refused .notEnabled
  else
    let s1 := { s with checkpointStart := s.tick }
    if ((targetList s).map (·.gib)).sum < imageChunks then hostWrite s (endCheckpoint s1 3 1)
    else hostWrite s (s1.setBar 0x1110 1)

/-! ### CHECKPOINT_RESTORE (R396) -/

/-- Device memory of an image. -/
def restoredMemory (m : Memory) (cells : SMap Byte) : Memory :=
  let part (a n : Nat) : List Host.Cell := (cells.filter (fun b => a ≤ b.1 && b.1 < a + n)).map (fun b => (b.1 - a, b.2))
  let units := (List.range (byteField ((List.range 8).map (fun k => smGet (0 : Byte) (0x48 + k) cells)) 0 8)).map (fun u =>
    leNat ((List.range 8).map (fun k => smGet (0 : Byte) (0x200000 + 8 * u + k) cells)))
  let poison (t : Nat) : List Nat := (units.filter (fun u => field u 62 2 == t)).map (fun u => field u 0 62 / 32)
  { m with
    gddr := part (tierOffset .gddr) Config.gddrBytes
    granary := part (tierOffset .granary) Config.granaryBytes
    gddrPoison := poison 0
    granaryPoison := poison 1 }

/-- The table of digests that chunk 0 holds. -/
def heldDigests (cells : SMap Byte) : List Byte := (List.range (32 * (imageChunks - 1))).map (fun k => smGet (0 : Byte) (0x10000 + k) cells)

/-- n bytes of an image as a number. -/
def imageField (cells : SMap Byte) (off n : Nat) : Nat := leNat ((List.range n).map (fun k => smGet (0 : Byte) (off + k) cells))

/-- Numbers of the registers that a management page gives back. -/
def restoredNumbers : List Nat :=
  [0, 8, 9] ++ (List.range 0x39).map (fun k => 0x100 + k) ++ [0x13A, 0x13B, 0x13C] ++ (List.range 5).map (fun k => 0x180 + k)

/-- The system registers of a context, from its management page in an image. -/
def restoredSys (cells : SMap Byte) (c : Nat) : SMap (BitVec 64) :=
  restoredNumbers.foldl (fun m n => smSet (sysReset n) n (BitVec.ofNat 64 (imageField cells (0x100000 + 4096 * c + 8 * n) 8)) m) []

/-- The contexts of an image; what no management page shows comes from what the model has kept (log entry 105, DEDUCED). -/
def restoredContexts (cells : SMap Byte) (kept : SMap Context) : SMap Context :=
  (List.range 64).foldl (fun m c => smSet {} c { smGet {} c kept with sys := restoredSys cells c } m) []

/-- The launch queues of an image. -/
def restoredQueues (cells : SMap Byte) : List (Nat × Task) :=
  (List.range (imageField cells 0x140000 8)).map (fun k =>
    let at_ := 0x140010 + 16 * k
    (imageField cells at_ 1, { ctx := imageField cells (at_ + 1) 1, tcb := BitVec.ofNat 64 (imageField cells (at_ + 8) 8)
                               privileged := imageField cells (at_ + 2) 1 == 1 }))

/-- The header of an image names this module. -/
def ownImage (cells : SMap Byte) : Bool := imageField cells 0 4 == 0x434B5A33 && imageField cells 8 16 == Config.serial.toNat

/-- The checkpoint that started when an image's header says: its launches and teams, which the image holds in save areas that it does
not list (log entry 105, DEDUCED). -/
def keptImage (s : State) (cells : SMap Byte) : Image :=
  (s.images.find? (fun i => i.started.toNat == imageField cells 0x38 8)).getD {}

/-- The machine with an image restored. -/
def restoreImage (s : State) (cells : SMap Byte) : State :=
  let i := keptImage s cells
  { s with
    memory := restoredMemory s.memory cells
    contexts := restoredContexts cells i.contexts
    queues := restoredQueues cells
    launches := i.launches
    teams := i.teams }

/-- CHECKPOINT_RESTORE: 2 is written to CKPTCTL. An image of this module is restored with no context active, when every digest is
right (R396; log entry 81, DEDUCED). -/
def execCheckpointRestore (s : State) : Host.Outcome State Fault Refusal :=
  let cells := readImage s (targetList s)
  let s1 := { s with checkpointStart := s.tick }
  if s.checkpointing then .refused .notEnabled
  else if anyActive s || !ownImage cells then hostWrite s (endCheckpoint s1 3 0)
  else if digestTable cells ≠ heldDigests cells then hostWrite s (endCheckpoint s1 3 2)
  else hostWrite s (endCheckpoint (restoreImage s1 cells) 2 0)

end Sys2Proof.Machine
end

