-- ==== Sys2Proof/Machine/Integer.lean ====
section
/-! DEFINITION. Integer, bit, move, compare, predicate, cross-lane and uniform instructions (spec/05_integer_instr.md R109 to
R132), XRED excepted (Machine/CrossLane.lean). -/

namespace Sys2Proof.Machine

/-! ### Integer operations on 32-bit and 64-bit patterns (R113 to R118) -/

/-- Clamps an exact result to the signed range of n bits (R113). -/
def clampInt (n : Nat) (x : Int) : Int := max (-(2 ^ (n - 1) : Nat)) (min ((2 ^ (n - 1) : Nat) - 1) x)

/-- An exact result as n bits: clamped under SAT, else wrapped (R113, R114). -/
def narrow (n : Nat) (sat : Bool) (x : Int) : BitVec n := BitVec.ofInt n (if sat then clampInt n x else x)

def opAdd (sat : Bool) (a b : Word) : Word := narrow 32 sat (a.toInt + b.toInt)
def opSub (sat : Bool) (a b : Word) : Word := narrow 32 sat (a.toInt - b.toInt)
def opMul (sat : Bool) (a b : Word) : Word := narrow 32 sat (a.toInt * b.toInt)
def opMulHS (a b : Word) : Word := BitVec.ofInt 32 (a.toInt * b.toInt / 2 ^ 32)
def opMulHN (a b : Word) : Word := BitVec.ofNat 32 (a.toNat * b.toNat / 2 ^ 32)
def opMad (sat : Bool) (d a b : Word) : Word := narrow 32 sat (d.toInt + a.toInt * b.toInt)
def opMinS (a b : Word) : Word := if a.toInt ≤ b.toInt then a else b
def opMaxS (a b : Word) : Word := if a.toInt ≤ b.toInt then b else a
def opMinN (a b : Word) : Word := if a.toNat ≤ b.toNat then a else b
def opMaxN (a b : Word) : Word := if a.toNat ≤ b.toNat then b else a
def opShl (a : Word) (n : Nat) : Word := if 32 ≤ n then 0 else a <<< n
def opShr (a : Word) (n : Nat) : Word := if 32 ≤ n then 0 else a >>> n
def opSar (a : Word) (n : Nat) : Word := a.sshiftRight (min n 31)
def opAdd64 (sat : Bool) (a b : BitVec 64) : BitVec 64 := narrow 64 sat (a.toInt + b.toInt)
def opSub64 (sat : Bool) (a b : BitVec 64) : BitVec 64 := narrow 64 sat (a.toInt - b.toInt)
def opPopc (a : Word) : Word := BitVec.ofNat 32 (popCount 32 a.toNat)
def opClz (a : Word) : Word := BitVec.ofNat 32 (32 - bitLength 32 a.toNat)
def opBrev (a : Word) : Word := BitVec.ofNat 32 (bitReverse 32 a.toNat)

/-- BFE (R116): a field of the value extended to unbounded width; erratum 258 makes a .s32 of width 0 the sign (R366). -/
def opBfe (sg errata258 : Bool) (a c : Word) : Word :=
  let pos := field c.toNat 0 8
  let wid := min (field c.toNat 8 8) 32
  if wid = 0 then (if sg && errata258 && a.getLsbD 31 then 0xFFFFFFFF else 0)
  else
    let x : Int := if sg then a.toInt else a.toNat
    let f := (x / (2 ^ pos : Nat) % (2 ^ wid : Nat)).toNat
    if sg then BitVec.ofInt 32 (signed wid f) else BitVec.ofNat 32 f

/-- BFI (R116). -/
def opBfi (d a c : Word) : Word :=
  let pos := field c.toNat 0 8
  let wid := min (field c.toNat 8 8) 32
  let m := BitVec.ofNat 32 ((2 ^ wid - 1) * 2 ^ pos)
  (d &&& ~~~m) ||| (BitVec.ofNat 32 (a.toNat * 2 ^ pos) &&& m)

/-- A condition code on signed or unsigned values (R32, R120). -/
def holds (c : BitVec 2) (a b : Int) : Bool :=
  match c.toNat with
  | 0 => a == b
  | 1 => a != b
  | 2 => decide (a < b)
  | _ => decide (a ≤ b)

/-! ### Immediates (R46, R117, R119) -/

/-- The I-format immediate: imm8, or payload:imm8 with LIMM, sign-extended or not. -/
def immI (r : Run) (sg : Bool) (i : BitVec 8) : Word :=
  match r.limm with
  | none => if sg then i.signExtend 32 else i.setWidth 32
  | some p => let k : BitVec 28 := p ++ i
              if sg then k.signExtend 32 else k.setWidth 32

/-- The W-format immediate: sext(imm16, 16), or payload[15:0]:imm16 with LIMM. -/
def immW (r : Run) (i : BitVec 16) : Word :=
  match r.limm with
  | none => i.signExtend 32
  | some p => p.setWidth 16 ++ i

/-! ### Shapes -/

/-- A three-vector instruction. -/
def vec3 (sat old : Bool) (d a b : BitVec 8) (f : Bool → Word → Word → Word → Word) (s : State) :
    Host.Outcome State Fault Refusal :=
  issueArch { sat := sat, reads := [vN a, vN b] ++ (if old then [vN d] else []), writes := [vN d] }
    (fun x r => (setActive x d.toNat (fun i => f x.run.sat (r.getV d.toNat i) (r.getV a.toNat i) (r.getV b.toNat i)) r, [])) s

/-- A three-pair instruction (R115). -/
def vec3Pair (d a b : BitVec 8) (f : Bool → BitVec 64 → BitVec 64 → BitVec 64) (s : State) : Host.Outcome State Fault Refusal :=
  issueArch { sat := true, badReg := oddV d || oddV a || oddV b, reads := vPair a ++ vPair b, writes := vPair d }
    (fun x r => (setActive64 x d.toNat (fun i => f x.run.sat (r.getV64 a.toNat i) (r.getV64 b.toNat i)) r, [])) s

/-- A vector-immediate instruction (R117). -/
def vecImm (sat sg : Bool) (d a i : BitVec 8) (f : Bool → Word → Word → Word) (s : State) : Host.Outcome State Fault Refusal :=
  issueArch { limm := true, sat := sat, reads := [vN a], writes := [vN d] }
    (fun x r => (setActive x d.toNat (fun l => f x.run.sat (r.getV a.toNat l) (immI x.run sg i)) r, [])) s

/-- A unary vector instruction (R118). -/
def vec1 (sat : Bool) (d a : BitVec 8) (f : Bool → Word → Word) (s : State) : Host.Outcome State Fault Refusal :=
  issueArch { sat := sat, reads := [vN a], writes := [vN d] }
    (fun x r => (setActive x d.toNat (fun i => f x.run.sat (r.getV a.toNat i)) r, [])) s

/-- A compare (R120). -/
def compare (c : BitVec 2) (p : BitVec 6) (a b : BitVec 8) (f : Word → Int) (s : State) : Host.Outcome State Fault Refusal :=
  issueArch { reads := [vN a, vN b], writes := [pN p] }
    (fun x r => (setActiveP x p.toNat (fun i => holds c (f (r.getV a.toNat i)) (f (r.getV b.toNat i))) r, [])) s

/-- A uniform instruction of two sources (R130). -/
def uni2 (sat : Bool) (d a b : BitVec 6) (f : Bool → Word → Word → Word) (s : State) : Host.Outcome State Fault Refusal :=
  issueArch { sat := sat, reads := [sN a, sN b], writes := [sN d] }
    (fun x r => (r.setS d.toNat (f x.run.sat (r.getS a.toNat) (r.getS b.toNat)), [])) s

/-- A uniform instruction of one source (R130). -/
def uni1 (d a : BitVec 6) (f : Word → Word) (s : State) : Host.Outcome State Fault Refusal :=
  issueArch { reads := [sN a], writes := [sN d] } (fun _ r => (r.setS d.toNat (f (r.getS a.toNat)), [])) s

/-- A 64-bit uniform instruction (R130). -/
def uni2Pair (d a b : BitVec 6) (f : Bool → BitVec 64 → BitVec 64 → BitVec 64) (s : State) : Host.Outcome State Fault Refusal :=
  issueArch { sat := true, badReg := oddS d || oddS a || oddS b, reads := sPair a ++ sPair b, writes := sPair d }
    (fun x r => (r.setS64 d.toNat (f x.run.sat (r.getS64 a.toNat) (r.getS64 b.toNat)), [])) s

def boolWord (b : Bool) : Word := if b then 1 else 0

/-! ### Three-vector (R114 to R116) -/

def execIadd (d a b : BitVec 8) (s : State) := vec3 true false d a b (fun t _ x y => opAdd t x y) s
def execIsub (d a b : BitVec 8) (s : State) := vec3 true false d a b (fun t _ x y => opSub t x y) s
def execImul (d a b : BitVec 8) (s : State) := vec3 true false d a b (fun t _ x y => opMul t x y) s
def execImulhS32 (d a b : BitVec 8) (s : State) := vec3 false false d a b (fun _ _ x y => opMulHS x y) s
def execImulhN32 (d a b : BitVec 8) (s : State) := vec3 false false d a b (fun _ _ x y => opMulHN x y) s
def execImad (d a b : BitVec 8) (s : State) := vec3 true true d a b (fun t z x y => opMad t z x y) s
def execIminS32 (d a b : BitVec 8) (s : State) := vec3 false false d a b (fun _ _ x y => opMinS x y) s
def execImaxS32 (d a b : BitVec 8) (s : State) := vec3 false false d a b (fun _ _ x y => opMaxS x y) s
def execIminN32 (d a b : BitVec 8) (s : State) := vec3 false false d a b (fun _ _ x y => opMinN x y) s
def execImaxN32 (d a b : BitVec 8) (s : State) := vec3 false false d a b (fun _ _ x y => opMaxN x y) s
def execAnd (d a b : BitVec 8) (s : State) := vec3 false false d a b (fun _ _ x y => x &&& y) s
def execOr (d a b : BitVec 8) (s : State) := vec3 false false d a b (fun _ _ x y => x ||| y) s
def execXor (d a b : BitVec 8) (s : State) := vec3 false false d a b (fun _ _ x y => x ^^^ y) s
def execShl (d a b : BitVec 8) (s : State) := vec3 false false d a b (fun _ _ x y => opShl x y.toNat) s
def execShr (d a b : BitVec 8) (s : State) := vec3 false false d a b (fun _ _ x y => opShr x y.toNat) s
def execSar (d a b : BitVec 8) (s : State) := vec3 false false d a b (fun _ _ x y => opSar x y.toNat) s
def execIadd64 (d a b : BitVec 8) (s : State) := vec3Pair d a b opAdd64 s
def execIsub64 (d a b : BitVec 8) (s : State) := vec3Pair d a b opSub64 s

/-- BFE.s32 (R116), with erratum 258 where the code object lists it (R366). -/
def execBfeS32 (d a b : BitVec 8) (s : State) : Host.Outcome State Fault Refusal :=
  issueArch { reads := [vN a, vN b], writes := [vN d] }
    (fun x r => (setActive x d.toNat (fun i =>
      opBfe true (x.e.l.kh.errata.contains 258) (r.getV a.toNat i) (r.getV b.toNat i)) r, [])) s

def execBfeN32 (d a b : BitVec 8) (s : State) := vec3 false false d a b (fun _ _ x c => opBfe false false x c) s
def execBfi (d a b : BitVec 8) (s : State) := vec3 false true d a b (fun _ z x c => opBfi z x c) s

/-! ### Immediate, unary and moves (R117 to R119) -/

def execIaddi (d a i : BitVec 8) (s : State) := vecImm true true d a i opAdd s
def execAndi (d a i : BitVec 8) (s : State) := vecImm false true d a i (fun _ x k => x &&& k) s
def execOri (d a i : BitVec 8) (s : State) := vecImm false true d a i (fun _ x k => x ||| k) s
def execShli (d a i : BitVec 8) (s : State) := vecImm false false d a i (fun _ x k => opShl x k.toNat) s
def execShri (d a i : BitVec 8) (s : State) := vecImm false false d a i (fun _ x k => opShr x k.toNat) s
def execSari (d a i : BitVec 8) (s : State) := vecImm false false d a i (fun _ x k => opSar x k.toNat) s
def execMov (d a : BitVec 8) (s : State) := vec1 false d a (fun _ x => x) s
def execNot (d a : BitVec 8) (s : State) := vec1 false d a (fun _ x => ~~~x) s
def execIneg (d a : BitVec 8) (s : State) := vec1 true d a (fun t x => narrow 32 t (-x.toInt)) s
def execIabs (d a : BitVec 8) (s : State) := vec1 true d a (fun t x => narrow 32 t (x.toInt.natAbs : Int)) s
def execPopc (d a : BitVec 8) (s : State) := vec1 false d a (fun _ x => opPopc x) s
def execClz (d a : BitVec 8) (s : State) := vec1 false d a (fun _ x => opClz x) s
def execBrev (d a : BitVec 8) (s : State) := vec1 false d a (fun _ x => opBrev x) s
def execSextS8 (d a : BitVec 8) (s : State) := vec1 false d a (fun _ x => (x.setWidth 8).signExtend 32) s
def execSextS16 (d a : BitVec 8) (s : State) := vec1 false d a (fun _ x => (x.setWidth 16).signExtend 32) s
def execZextN8 (d a : BitVec 8) (s : State) := vec1 false d a (fun _ x => (x.setWidth 8).setWidth 32) s
def execZextN16 (d a : BitVec 8) (s : State) := vec1 false d a (fun _ x => (x.setWidth 16).setWidth 32) s

def execMov64 (d a : BitVec 8) (s : State) : Host.Outcome State Fault Refusal :=
  issueArch { badReg := oddV d || oddV a, reads := vPair a, writes := vPair d }
    (fun x r => (setActive64 x d.toNat (fun i => r.getV64 a.toNat i) r, [])) s

def execMovi (d : BitVec 8) (i : BitVec 16) (s : State) : Host.Outcome State Fault Refusal :=
  issueArch { limm := true, limmMask := 0xFFFF, writes := [vN d] }
    (fun x r => (setActive x d.toNat (fun _ => immW x.run i) r, [])) s

def execMovhi (d : BitVec 8) (i : BitVec 16) (s : State) : Host.Outcome State Fault Refusal :=
  issueArch { reads := [vN d], writes := [vN d] }
    (fun x r => (setActive x d.toNat (fun l => i ++ (r.getV d.toNat l).setWidth 16) r, [])) s

/-! ### Compares and predicates (R120 to R122) -/

def execIcmpS32 (c : BitVec 2) (p : BitVec 6) (a b : BitVec 8) (s : State) := compare c p a b (fun x => x.toInt) s
def execIcmpN32 (c : BitVec 2) (p : BitVec 6) (a b : BitVec 8) (s : State) := compare c p a b (fun x => (x.toNat : Int)) s

def execPlog (d a b : BitVec 6) (t : BitVec 4) (s : State) : Host.Outcome State Fault Refusal :=
  issueArch { reads := [pN a, pN b], writes := [pN d] }
    (fun x r => (setActiveP x d.toNat (fun i =>
      t.getLsbD (2 * ((r.getP a.toNat).getLsbD i).toNat + ((r.getP b.toNat).getLsbD i).toNat)) r, [])) s

def execPmvVp (d : BitVec 8) (a : BitVec 6) (s : State) : Host.Outcome State Fault Refusal :=
  issueArch { reads := [pN a], writes := [vN d] }
    (fun x r => (setActive x d.toNat (fun i => boolWord ((r.getP a.toNat).getLsbD i)) r, [])) s

def execPmvPv (d : BitVec 6) (a : BitVec 8) (s : State) : Host.Outcome State Fault Refusal :=
  issueArch { reads := [vN a], writes := [pN d] }
    (fun x r => (setActiveP x d.toNat (fun i => r.getV a.toNat i != 0) r, [])) s

def execPmvSp (d a : BitVec 6) (s : State) : Host.Outcome State Fault Refusal :=
  issueArch { badReg := oddS d, reads := [pN a], writes := sPair d } (fun _ r => (r.setS64 d.toNat (r.getP a.toNat), [])) s

def execPmvPs (d a : BitVec 6) (s : State) : Host.Outcome State Fault Refusal :=
  issueArch { badReg := oddS a, reads := sPair a, writes := [pN d] }
    (fun x r => (setActiveP x d.toNat (fun i => (r.getS64 a.toNat).getLsbD i) r, [])) s

/-! ### Cross-lane (R124 to R126) -/

/-- Bit i is 1 if lane i is active and its predicate is 1 (R124). -/
def ballot (x : Issue) (r : Arch) (a : BitVec 6) : LaneMask := x.active &&& r.getP a.toNat

def execVoteBallot (d a : BitVec 6) (s : State) : Host.Outcome State Fault Refusal :=
  issueArch { badReg := oddS d, reads := [pN a], writes := sPair d } (fun x r => (r.setS64 d.toNat (ballot x r a), [])) s

/-- A predicate that depends on the ballot, written to every active lane (R124). -/
def votePredicate (d a : BitVec 6) (f : LaneMask → LaneMask → Bool) (s : State) : Host.Outcome State Fault Refusal :=
  issueArch { reads := [pN a], writes := [pN d] }
    (fun x r => (setActiveP x d.toNat (fun _ => f x.active (ballot x r a)) r, [])) s

def execVoteAny (d a : BitVec 6) (s : State) := votePredicate d a (fun _ b => b != 0) s
def execVoteAll (d a : BitVec 6) (s : State) := votePredicate d a (fun m b => b == m) s
def execVoteUni (d a : BitVec 6) (s : State) := votePredicate d a (fun m b => b == 0 || b == m) s

def execVoteActive (d : BitVec 6) (s : State) : Host.Outcome State Fault Refusal :=
  issueArch { badReg := oddS d, writes := sPair d } (fun x r => (r.setS64 d.toNat x.active, [])) s

def execVoteCount (d a : BitVec 6) (s : State) : Host.Outcome State Fault Refusal :=
  issueArch { reads := [pN a], writes := [sN d] }
    (fun x r => (r.setS d.toNat (BitVec.ofNat 32 (laneCount (ballot x r a))), [])) s

/-- A shuffle by an immediate distance (R125): src gives the source lane of a lane; under erratum 514 a lane whose source lies
below 0 receives 0 (R366). -/
def shuffle (up : Bool) (d a : BitVec 8) (src : Nat → Int) (s : State) : Host.Outcome State Fault Refusal :=
  issueArch { reads := [vN a], writes := [vN d] }
    (fun x r => (setActive x d.toNat (fun i =>
      let j := src i
      if 0 ≤ j ∧ j < 64 then r.getV a.toNat j.toNat
      else if up && x.e.l.kh.errata.contains 514 then 0 else r.getV a.toNat i) r, [])) s

def execShflIdx (d a : BitVec 8) (n : BitVec 6) (s : State) := shuffle false d a (fun _ => n.toNat) s
def execShflUp (d a : BitVec 8) (n : BitVec 6) (s : State) := shuffle true d a (fun i => (i : Int) - n.toNat) s
def execShflDown (d a : BitVec 8) (n : BitVec 6) (s : State) := shuffle false d a (fun i => (i : Int) + n.toNat) s
def execShflXor (d a : BitVec 8) (n : BitVec 6) (s : State) := shuffle false d a (fun i => (i ^^^ n.toNat : Nat)) s

def execShflv (d a b : BitVec 8) (s : State) : Host.Outcome State Fault Refusal :=
  issueArch { reads := [vN a, vN b], writes := [vN d] }
    (fun x r => (setActive x d.toNat (fun i => r.getV a.toNat ((r.getV b.toNat i).toNat % 64)) r, [])) s

/-- The mask of the active lanes whose value equals lane i's (R126). -/
def matchMask {α : Type} [DecidableEq α] (x : Issue) (f : Nat → α) (i : Nat) : LaneMask := activeWhere x (fun j => f j == f i)

def execMatchB32 (d a : BitVec 8) (s : State) : Host.Outcome State Fault Refusal :=
  issueArch { badReg := oddV d, reads := [vN a], writes := vPair d }
    (fun x r => (setActive64 x d.toNat (matchMask x (fun j => r.getV a.toNat j)) r, [])) s

def execMatchB64 (d a : BitVec 8) (s : State) : Host.Outcome State Fault Refusal :=
  issueArch { badReg := oddV d || oddV a, reads := vPair a, writes := vPair d }
    (fun x r => (setActive64 x d.toNat (matchMask x (fun j => r.getV64 a.toNat j)) r, [])) s

/-! ### Uniform (R130 to R132) -/

def execUadd (d a b : BitVec 6) (s : State) := uni2 true d a b opAdd s
def execUsub (d a b : BitVec 6) (s : State) := uni2 true d a b opSub s
def execUmul (d a b : BitVec 6) (s : State) := uni2 false d a b (fun _ x y => opMul false x y) s
def execUmulhS32 (d a b : BitVec 6) (s : State) := uni2 false d a b (fun _ x y => opMulHS x y) s
def execUmulhN32 (d a b : BitVec 6) (s : State) := uni2 false d a b (fun _ x y => opMulHN x y) s
def execUand (d a b : BitVec 6) (s : State) := uni2 false d a b (fun _ x y => x &&& y) s
def execUor (d a b : BitVec 6) (s : State) := uni2 false d a b (fun _ x y => x ||| y) s
def execUxor (d a b : BitVec 6) (s : State) := uni2 false d a b (fun _ x y => x ^^^ y) s
def execUshl (d a b : BitVec 6) (s : State) := uni2 false d a b (fun _ x y => opShl x y.toNat) s
def execUshr (d a b : BitVec 6) (s : State) := uni2 false d a b (fun _ x y => opShr x y.toNat) s
def execUsar (d a b : BitVec 6) (s : State) := uni2 false d a b (fun _ x y => opSar x y.toNat) s
def execUminS32 (d a b : BitVec 6) (s : State) := uni2 false d a b (fun _ x y => opMinS x y) s
def execUmaxS32 (d a b : BitVec 6) (s : State) := uni2 false d a b (fun _ x y => opMaxS x y) s
def execUminN32 (d a b : BitVec 6) (s : State) := uni2 false d a b (fun _ x y => opMinN x y) s
def execUmaxN32 (d a b : BitVec 6) (s : State) := uni2 false d a b (fun _ x y => opMaxN x y) s
def execUmov (d a : BitVec 6) (s : State) := uni1 d a (fun x => x) s
def execUnot (d a : BitVec 6) (s : State) := uni1 d a (fun x => ~~~x) s
def execUsetEq (d a b : BitVec 6) (s : State) := uni2 false d a b (fun _ x y => boolWord (x == y)) s
def execUsetNe (d a b : BitVec 6) (s : State) := uni2 false d a b (fun _ x y => boolWord (x != y)) s
def execUsetLtS32 (d a b : BitVec 6) (s : State) := uni2 false d a b (fun _ x y => boolWord (x.toInt < y.toInt)) s
def execUsetLeS32 (d a b : BitVec 6) (s : State) := uni2 false d a b (fun _ x y => boolWord (x.toInt ≤ y.toInt)) s
def execUsetLtN32 (d a b : BitVec 6) (s : State) := uni2 false d a b (fun _ x y => boolWord (x.toNat < y.toNat)) s
def execUsetLeN32 (d a b : BitVec 6) (s : State) := uni2 false d a b (fun _ x y => boolWord (x.toNat ≤ y.toNat)) s
def execUadd64 (d a b : BitVec 6) (s : State) := uni2Pair d a b opAdd64 s
def execUsub64 (d a b : BitVec 6) (s : State) := uni2Pair d a b opSub64 s
def execUpopc (d a : BitVec 6) (s : State) := uni1 d a opPopc s
def execUclz (d a : BitVec 6) (s : State) := uni1 d a opClz s

def execUmovi (d : BitVec 6) (i : BitVec 16) (s : State) : Host.Outcome State Fault Refusal :=
  issueArch { limm := true, limmMask := 0xFFFF, writes := [sN d] } (fun x r => (r.setS d.toNat (immW x.run i), [])) s

def execUaddi (d : BitVec 6) (i : BitVec 16) (s : State) : Host.Outcome State Fault Refusal :=
  issueArch { limm := true, limmMask := 0xFFFF, sat := true, reads := [sN d], writes := [sN d] }
    (fun x r => (r.setS d.toNat (opAdd x.run.sat (r.getS d.toNat) (immW x.run i)), [])) s

def execUmovhi (d : BitVec 6) (i : BitVec 16) (s : State) : Host.Outcome State Fault Refusal :=
  issueArch { reads := [sN d], writes := [sN d] } (fun _ r => (r.setS d.toNat (i ++ (r.getS d.toNat).setWidth 16), [])) s

def execUvmovVs (d : BitVec 8) (a : BitVec 6) (s : State) : Host.Outcome State Fault Refusal :=
  issueArch { reads := [sN a], writes := [vN d] } (fun x r => (setActive x d.toNat (fun _ => r.getS a.toNat) r, [])) s

def execUvmovSv (d : BitVec 6) (a : BitVec 8) (n : BitVec 6) (s : State) : Host.Outcome State Fault Refusal :=
  issueArch { reads := [vN a], writes := [sN d] } (fun _ r => (r.setS d.toNat (r.getV a.toNat n.toNat), [])) s

def execUvmovFirst (d : BitVec 6) (a : BitVec 8) (s : State) : Host.Outcome State Fault Refusal :=
  issueArch { reads := [vN a], writes := [sN d] }
    (fun x r => (r.setS d.toNat (match lowestLane x.active with
      | some j => r.getV a.toNat j
      | none => 0), [])) s

end Sys2Proof.Machine
end

