-- ==== Sys2Proof/Machine/CrossLane.lean ====
section
/-! DEFINITION. XRED: reductions and scans on the fixed lane tree (spec/05_integer_instr.md R127 to R129). -/

namespace Sys2Proof.Machine

/-- An XRED operation on two leaves, the left holding the lower lanes (R128, R129). -/
def xredOp (amr : Word) (o : Nat) (l r : Word) : Word × BitVec 9 :=
  let ln (m : LnFmt) : Word × BitVec 9 :=
    let x := lnAddCode m (roundAmr amr) l.toNat r.toNat
    (BitVec.ofNat 32 x.1, x.2)
  match o with
  | 0 => (l + r, 0)
  | 1 => (opMinS l r, 0)
  | 2 => (opMaxS l r, 0)
  | 3 => (opMinN l r, 0)
  | 4 => (opMaxN l r, 0)
  | 5 => (l &&& r, 0)
  | 6 => (l ||| r, 0)
  | 7 => (l ^^^ r, 0)
  | 8 => ln .ln16
  | _ => ln .ln32

/-- The identity of an operation (R128). -/
def xredIdentity (o : Nat) : Word :=
  match o with
  | 1 => 0x7FFFFFFF
  | 2 => 0x80000000
  | 3 => 0xFFFFFFFF
  | 5 => 0xFFFFFFFF
  | 8 => 0x4000
  | 9 => 0x40000000
  | _ => 0

/-- The tree over the 2 to the k leaves from lo (R127): the value if any leaf is present, and the flags of its nodes. -/
def laneTree (op : Word → Word → Word × BitVec 9) (leaf : Nat → Option Word) : Nat → Nat → Option Word × BitVec 9
  | 0, lo => (leaf lo, 0)
  | k + 1, lo =>
    let l := laneTree op leaf k lo
    let r := laneTree op leaf k (lo + 2 ^ k)
    match l.1, r.1 with
    | none, _ => (r.1, l.2 ||| r.2)
    | some _, none => (l.1, l.2 ||| r.2)
    | some a, some b =>
      let x := op a b
      (some x.1, l.2 ||| r.2 ||| x.2)

/-- The leaf of lane j (R127, R128): absent if the lane is not in the set; erratum 257 makes an inactive lane of an LN16 sum a
+0 leaf (R366). -/
def xredLeaf (x : Issue) (r : Arch) (a o j : Nat) (inSet : Bool) : Option Word :=
  if !inSet then none
  else if x.active.getLsbD j then some (if o = 8 then (r.getV a j) &&& 0xFFFF else r.getV a j)
  else if o = 8 && x.e.l.kh.errata.contains 257 then some 0x4000
  else none

/-- Lane i's result and flags (R127). -/
def xredLane (x : Issue) (r : Arch) (a : Nat) (oct : Bool) (kind o i : Nat) : Word × BitVec 9 :=
  let base := if oct then 8 * (i / 8) else 0
  let v := laneTree (xredOp x.amr o)
    (fun j => xredLeaf x r a o j (kind = 0 || j < i || (kind = 1 && j = i))) (if oct then 3 else 6) base
  (v.1.getD (xredIdentity o), v.2)

def execXred (d a : BitVec 8) (oct : Bool) (k : BitVec 2) (o : BitVec 4) (s : State) : Host.Outcome State Fault Refusal :=
  issueArch { illegal := k == 3 || 10 ≤ o.toNat, reads := [vN a], writes := [vN d] }
    (fun x r =>
      let whole := if k == 0 && !oct then xredLane x r a.toNat oct 0 o.toNat 0 else (0, 0)
      setActiveFlags x d.toNat
        (fun i => if k == 0 && !oct then whole else xredLane x r a.toNat oct k.toNat o.toNat i) r) s

end Sys2Proof.Machine
end

