-- ==== Sys2Proof/Machine/Hints.lean ====
section
/-! DEFINITION. The hint words (spec/02_encoding.md R43 to R46) and the word of an unassigned major (R48). In the thresher slot
LIMM extends its block's next word and HNOP does nothing; every other hint ends the block (R280). -/

namespace Sys2Proof.Machine

/-- The word is the thresher slot's. -/
def inThresher (s : State) : Bool := match s.issuer with
  | some (_, slot) => slot == Config.thresherSlot
  | none => false

/-- A hint that has no meaning in the thresher slot. -/
def hintOr (cls : Nat) (f : Issue → Arch → Arch) (s : State) : Host.Outcome State Fault Refusal :=
  if inThresher s then issueThrHint true id s else issueHint cls f s

/-- Changes the run of the issuing entry. -/
def Arch.mapRun (a : Arch) (f : Run → Run) : Arch := { a with run := f a.run }

/-- HNOP (R45). -/
def execHnop (s : State) : Host.Outcome State Fault Refusal :=
  if inThresher s then issueThrHint false id s else issueHint 0 (fun _ a => a) s

/-- LIMM (R45, R46). -/
def execLimm (i : BitVec 20) (s : State) : Host.Outcome State Fault Refusal :=
  if inThresher s then issueThrHint false (fun b => { b with limm := some i }) s
  else issueHint 0 (fun _ a => a.mapRun (fun r => { r with limm := some i })) s

/-- RND (R45): a mode of 5 to 7 is an illegal instruction at the hint. -/
def execRnd (r : BitVec 3) (s : State) : Host.Outcome State Fault Refusal :=
  hintOr (if 5 ≤ r.toNat then 1 else 0) (fun _ a => a.mapRun (fun q => { q with rnd := some r })) s

/-- SAT (R45). -/
def execSat (s : State) : Host.Outcome State Fault Refusal := hintOr 0 (fun _ a => a.mapRun (fun r => { r with sat := true })) s

/-- Gives the entry with a key a guard. -/
def setGuard (key : Nat) (g : BitVec 7) (fr : List Entry) : List Entry :=
  fr.map (fun e => if e.key = key then { e with guard := g } else e)

/-- GUARD (R44, R45): codes 48 to 62 name no predicate, and none cannot be inverted. -/
def execGuard (v : Bool) (p : BitVec 6) (s : State) : Host.Outcome State Fault Refusal :=
  hintOr (if p = 63 then (if v then 1 else 0) else if 48 ≤ p.toNat then 2 else 0)
    (fun x a => { a with frontier := setGuard x.entry.key (BitVec.ofBool v ++ p) a.frontier }) s

/-- BPRI (R45, R295). -/
def execBpri (f t : BitVec 10) (s : State) : Host.Outcome State Fault Refusal :=
  hintOr 0 (fun _ a => a.mapRun (fun r => { r with bpri := some (f ++ t) })) s

/-- The placement hint (R45): it changes timing only. -/
def execPlacement (s : State) : Host.Outcome State Fault Refusal := hintOr 0 (fun _ a => a) s

/-- A word of an unassigned major (R38 step 1, R48); in the thresher slot it ends the block with status 1 (R280). -/
def execUnassignedMajor (s : State) : Host.Outcome State Fault Refusal :=
  match s.issuer with
  | none => .refused .notEnabled
  | some (core, slot) =>
    if slot = Config.thresherSlot then
      match (s.coreAt core).block with
      | none => .fault .noThresherBlock
      | some b => .next (if thrStepLimit < b.steps then stallState s else endBlock s core b 1 b.pc)
    else issue { illegal := true } (fun _ s => .done { s := s }) s

end Sys2Proof.Machine
end

