-- ==== Sys2Proof/Machine/LnInstr.lean ====
section
/-! DEFINITION. The LN arithmetic, transcendental, conversion and flag instructions (spec/06_ln_instr.md R133 to R158). -/

namespace Sys2Proof.Machine

/-! ### Shapes -/

/-- A value with flags as a register holds it (R133): the bits above the format are zero. -/
def lnResult (m : LnFmt) (r : LnVal × BitVec 9) : Word × BitVec 9 := (BitVec.ofNat 32 (lnCode m r.1), r.2)

/-- A rounding instruction's decoder facts (R135). -/
def roundUse (u : Use) : Use := { u with rnd := true, rounds := true }

/-- A two-operand LN instruction (R136): f gets the issue, the lane, the old destination and the operands. -/
def ln3 (m : LnFmt) (rounds old : Bool) (d a b : BitVec 8) (f : Issue → Nat → LnVal → LnVal → LnVal → LnVal × BitVec 9) (s : State) :
    Host.Outcome State Fault Refusal :=
  let u : Use := { reads := [vN a, vN b] ++ (if old then [vN d] else []), writes := [vN d] }
  issueArch (if rounds then roundUse u else u)
    (fun x r => setActiveFlags x d.toNat (fun i =>
      lnResult m (f x i (lnVal m (r.getV d.toNat i).toNat) (lnVal m (r.getV a.toNat i).toNat) (lnVal m (r.getV b.toNat i).toNat))) r) s

/-- A LUN operation on the formats that R141 allows it, of any result (R140). -/
def lun (least : Nat) (rounds : Bool) (d a : BitVec 8) (f : BitVec 2) (g : LnFmt → Issue → Nat → Word → Word × BitVec 9) (s : State) :
    Host.Outcome State Fault Refusal :=
  let u : Use := { illegal := f.toNat < least || f == 3, reads := [vN a], writes := [vN d] }
  issueArch (if rounds then roundUse u else u)
    (fun x r => setActiveFlags x d.toNat (fun i => g ((lnFmtOf f.toNat).getD .ln8) x i (r.getV a.toNat i)) r) s

/-- A LUN operation from an LN value to an LN value of the same format. -/
def lunValue (least : Nat) (rounds : Bool) (d a : BitVec 8) (f : BitVec 2) (g : LnFmt → Issue → Nat → LnVal → LnVal × BitVec 9) (s : State) :
    Host.Outcome State Fault Refusal :=
  lun least rounds d a f (fun m x i w => lnResult m (g m x i (lnVal m w.toNat))) s

/-! ### Two operands (R136 to R139, R148) -/

def execLaddLn8 (d a b : BitVec 8) (s : State) := ln3 .ln8 true false d a b (fun x i _ p q => lnAdd .ln8 (x.rounding i 0) p q) s
def execLaddLn16 (d a b : BitVec 8) (s : State) := ln3 .ln16 true false d a b (fun x i _ p q => lnAdd .ln16 (x.rounding i 0) p q) s
def execLaddLn32 (d a b : BitVec 8) (s : State) := ln3 .ln32 true false d a b (fun x i _ p q => lnAdd .ln32 (x.rounding i 0) p q) s
def execLsubLn8 (d a b : BitVec 8) (s : State) := ln3 .ln8 true false d a b (fun x i _ p q => lnAdd .ln8 (x.rounding i 0) p q.negate) s
def execLsubLn16 (d a b : BitVec 8) (s : State) := ln3 .ln16 true false d a b (fun x i _ p q => lnAdd .ln16 (x.rounding i 0) p q.negate) s
def execLsubLn32 (d a b : BitVec 8) (s : State) := ln3 .ln32 true false d a b (fun x i _ p q => lnAdd .ln32 (x.rounding i 0) p q.negate) s
def execLmulLn8 (d a b : BitVec 8) (s : State) := ln3 .ln8 false false d a b (fun x _ _ p q => lnMul .ln8 x.plain p q) s
def execLmulLn16 (d a b : BitVec 8) (s : State) := ln3 .ln16 false false d a b (fun x _ _ p q => lnMul .ln16 x.plain p q) s
def execLmulLn32 (d a b : BitVec 8) (s : State) := ln3 .ln32 false false d a b (fun x _ _ p q => lnMul .ln32 x.plain p q) s
def execLmadLn8 (d a b : BitVec 8) (s : State) := ln3 .ln8 true true d a b (fun x i c p q => lnMad .ln8 (x.rounding i 0) p q c) s
def execLmadLn16 (d a b : BitVec 8) (s : State) := ln3 .ln16 true true d a b (fun x i c p q => lnMad .ln16 (x.rounding i 0) p q c) s
def execLmadLn32 (d a b : BitVec 8) (s : State) := ln3 .ln32 true true d a b (fun x i c p q => lnMad .ln32 (x.rounding i 0) p q c) s
def execLdivLn16 (d a b : BitVec 8) (s : State) := ln3 .ln16 false false d a b (fun x _ _ p q => lnDiv .ln16 x.plain p q) s
def execLdivLn32 (d a b : BitVec 8) (s : State) := ln3 .ln32 false false d a b (fun x _ _ p q => lnDiv .ln32 x.plain p q) s
def execLminLn16 (d a b : BitVec 8) (s : State) := ln3 .ln16 false false d a b (fun _ _ _ p q => (lnMin .ln16 p q, 0)) s
def execLminLn32 (d a b : BitVec 8) (s : State) := ln3 .ln32 false false d a b (fun _ _ _ p q => (lnMin .ln32 p q, 0)) s
def execLmaxLn16 (d a b : BitVec 8) (s : State) := ln3 .ln16 false false d a b (fun _ _ _ p q => (lnMax .ln16 p q, 0)) s
def execLmaxLn32 (d a b : BitVec 8) (s : State) := ln3 .ln32 false false d a b (fun _ _ _ p q => (lnMax .ln32 p q, 0)) s
def execLpowLn32 (d a b : BitVec 8) (s : State) := ln3 .ln32 true false d a b (fun x i _ p q => lnPow (x.rounding i 0) p q) s

/-- LSCALE (R136): the second operand is a 32-bit integer. -/
def lnScaleBy (m : LnFmt) (d a b : BitVec 8) (s : State) : Host.Outcome State Fault Refusal :=
  issueArch { reads := [vN a, vN b], writes := [vN d] }
    (fun x r => setActiveFlags x d.toNat (fun i =>
      lnResult m (lnScale m x.plain (r.getV b.toNat i).toInt (lnVal m (r.getV a.toNat i).toNat))) r) s

def execLscaleLn16 (d a b : BitVec 8) (s : State) := lnScaleBy .ln16 d a b s
def execLscaleLn32 (d a b : BitVec 8) (s : State) := lnScaleBy .ln32 d a b s

/-- LCMP (R139). -/
def lnCompare (m : LnFmt) (c : BitVec 2) (p : BitVec 6) (a b : BitVec 8) (s : State) : Host.Outcome State Fault Refusal :=
  issueArch { reads := [vN a, vN b], writes := [pN p] }
    (fun x r => (setActiveP x p.toNat (fun i => lnHolds m c (lnVal m (r.getV a.toNat i).toNat) (lnVal m (r.getV b.toNat i).toNat)) r, [])) s

def execLcmpLn16 (c : BitVec 2) (p : BitVec 6) (a b : BitVec 8) (s : State) := lnCompare .ln16 c p a b s
def execLcmpLn32 (c : BitVec 2) (p : BitVec 6) (a b : BitVec 8) (s : State) := lnCompare .ln32 c p a b s

/-! ### Unary (R140 to R144, R147, R149) -/

def execLneg (d a : BitVec 8) (f : BitVec 2) (s : State) := lunValue 0 false d a f (fun _ _ _ v => (v.negate, 0)) s

/-- A value with its sign cleared (R73). -/
def lnAbs (v : LnVal) : LnVal := if v.isNeg then v.negate else v

def execLabs (d a : BitVec 8) (f : BitVec 2) (s : State) := lunValue 0 false d a f (fun _ _ _ v => (lnAbs v, 0)) s
def execLrcp (d a : BitVec 8) (f : BitVec 2) (s : State) := lunValue 0 false d a f (fun m x _ v => lnRcp m x.plain v) s
def execLsqr (d a : BitVec 8) (f : BitVec 2) (s : State) := lunValue 0 false d a f (fun m x _ v => lnSqr m x.plain v) s
def execLsqrt (d a : BitVec 8) (f : BitVec 2) (s : State) :=
  lunValue 0 true d a f (fun m x i v => lnSqrt (x.e.l.kh.errata.contains 513) m (x.rounding i 0) v) s
def execLrsqrt (d a : BitVec 8) (f : BitVec 2) (s : State) := lunValue 0 true d a f (fun m x i v => lnRsqrt m (x.rounding i 0) v) s
def execLexp2 (d a : BitVec 8) (f : BitVec 2) (s : State) := lunValue 1 true d a f (fun m x i v => lnExp2 m (x.rounding i 0) v) s
def execLlog2 (d a : BitVec 8) (f : BitVec 2) (s : State) := lunValue 1 true d a f (fun m x i v => lnLog2 m (x.rounding i 0) v) s
def execLexp (d a : BitVec 8) (f : BitVec 2) (s : State) := lunValue 1 true d a f (fun m x i v => lnExpE m (x.rounding i 0) v) s
def execLsint (d a : BitVec 8) (f : BitVec 2) (s : State) := lunValue 1 true d a f (fun m x i v => lnTurn false m (x.rounding i 0) v) s
def execLcost (d a : BitVec 8) (f : BitVec 2) (s : State) := lunValue 1 true d a f (fun m x i v => lnTurn true m (x.rounding i 0) v) s
def execLclass (d a : BitVec 8) (f : BitVec 2) (s : State) := lun 0 false d a f (fun m _ _ w => (BitVec.ofNat 32 (lnClass m w.toNat), 0)) s

/-- LCVT to a format; f is the source's (R143). -/
def lnCvt (dst : LnFmt) (d a : BitVec 8) (f : BitVec 2) (s : State) : Host.Outcome State Fault Refusal :=
  lun 0 true d a f (fun m x i w => lnResult dst (lnConvert m dst (x.rounding i 0) (lnVal m w.toNat))) s

def execLcvtLn8 (d a : BitVec 8) (f : BitVec 2) (s : State) := lnCvt .ln8 d a f s
def execLcvtLn16 (d a : BitVec 8) (f : BitVec 2) (s : State) := lnCvt .ln16 d a f s
def execLcvtLn32 (d a : BitVec 8) (f : BitVec 2) (s : State) := lnCvt .ln32 d a f s
def execLgetl (d a : BitVec 8) (f : BitVec 2) (s : State) :=
  lun 0 false d a f (fun m _ _ w => (BitVec.ofInt 32 (signed m.log w.toNat), 0)) s
def execLmkl (d a : BitVec 8) (f : BitVec 2) (s : State) :=
  lun 0 false d a f (fun m x _ w => lnResult m (lnMake m x.plain w.toInt)) s

/-- LUNPK of byte k (R144). -/
def lnUnpack (k : Nat) (d a : BitVec 8) (f : BitVec 2) (s : State) : Host.Outcome State Fault Refusal :=
  lun 1 false d a f (fun m x _ w => lnResult m (lnConvert .ln8 m x.plain (lnVal .ln8 (field w.toNat (8 * k) 8)))) s

def execLunpk0 (d a : BitVec 8) (f : BitVec 2) (s : State) := lnUnpack 0 d a f s
def execLunpk1 (d a : BitVec 8) (f : BitVec 2) (s : State) := lnUnpack 1 d a f s
def execLunpk2 (d a : BitVec 8) (f : BitVec 2) (s : State) := lnUnpack 2 d a f s
def execLunpk3 (d a : BitVec 8) (f : BitVec 2) (s : State) := lnUnpack 3 d a f s

/-- LPACK (R145). -/
def execLpack (d a b : BitVec 8) (s : State) : Host.Outcome State Fault Refusal :=
  issueArch { reads := [vN d, vN a, vN b], writes := [vN d] }
    (fun x r => (setActive x d.toNat (fun i =>
      (r.getV d.toNat i).extractLsb' 0 16 ++ (r.getV b.toNat i).extractLsb' 0 8 ++ (r.getV a.toNat i).extractLsb' 0 8) r, [])) s

/-! ### Fixed point and IEEE (R150 to R156) -/

def execLfix (d a : BitVec 8) (f : BitVec 2) (sg : Bool) (n : BitVec 5) (s : State) : Host.Outcome State Fault Refusal :=
  lun 0 true d a f (fun m x i w =>
    let r := lnFix m (x.rounding i 0) sg n.toNat (lnVal m w.toNat)
    (BitVec.ofInt 32 r.1, r.2)) s

def execLflt (d a : BitVec 8) (f : BitVec 2) (sg : Bool) (n : BitVec 5) (s : State) : Host.Outcome State Fault Refusal :=
  lun 0 true d a f (fun m x i w => lnResult m (lnFloat m (x.rounding i 0) (if sg then w.toInt else w.toNat) n.toNat)) s

/-- An illegal FCVT function byte (R153). -/
def fcvtIllegal (l : BitVec 2) (e : BitVec 3) : Bool := l == 3 || 4 ≤ e.toNat

def execFcvtToLn (d a : BitVec 8) (l : BitVec 2) (e : BitVec 3) (s : State) : Host.Outcome State Fault Refusal :=
  let wide := e == 3
  let m := (lnFmtOf l.toNat).getD .ln8
  issueArch (roundUse { illegal := fcvtIllegal l e, badReg := wide && oddV a, reads := if wide then vPair a else [vN a], writes := [vN d] })
    (fun x r => setActiveFlags x d.toNat (fun i =>
      lnResult m (ieeeToLn (ieeeFmt e.toNat) m (x.rounding i 0) (x.amr.getLsbD 5)
        (if wide then (r.getV64 a.toNat i).toNat else (r.getV a.toNat i).toNat))) r) s

def execFcvtToIeee (d a : BitVec 8) (l : BitVec 2) (e : BitVec 3) (s : State) : Host.Outcome State Fault Refusal :=
  let wide := e == 3
  let m := (lnFmtOf l.toNat).getD .ln8
  let out (x : Issue) (r : Arch) (i : Nat) : Nat × BitVec 9 :=
    lnToIeee (ieeeFmt e.toNat) m (x.rounding i 0) (x.amr.getLsbD 6) (lnVal m (r.getV a.toNat i).toNat)
  issueArch (roundUse { illegal := fcvtIllegal l e, badReg := wide && oddV d, reads := [vN a], writes := if wide then vPair d else [vN d] })
    (fun x r =>
      if wide then setActiveFlags64 x d.toNat (fun i => ((BitVec.ofNat 64 (out x r i).1), (out x r i).2)) r
      else setActiveFlags x d.toNat (fun i => ((BitVec.ofNat 32 (out x r i).1), (out x r i).2)) r) s

/-! ### FLAG (R157, R158) -/

def execFlagGet (d : BitVec 8) (s : State) : Host.Outcome State Fault Refusal :=
  issueArch { writes := [vN d], readsState := [.fl] } (fun x r => (setActive x d.toNat (fun i => (r.getFl i).setWidth 32) r, [])) s

/-- Rewrites fl of the active lanes from the mask in their va; nothing is raised (R157). With old, the new fl is made from the old one. -/
def flagWrite (old : Bool) (a : BitVec 8) (f : BitVec 16 → BitVec 16 → BitVec 16) (s : State) : Host.Outcome State Fault Refusal :=
  issueArch { reads := [vN a], readsState := if old then [.fl] else [], writesState := [.fl] }
    (fun x r => ((laneList x.active).foldl (fun r' i => r'.setFl i (f (r.getFl i) ((r.getV a.toNat i).setWidth 16 &&& 0x1FF))) r, [])) s

def execFlagSet (a : BitVec 8) (s : State) := flagWrite true a (fun o k => o ||| k) s
def execFlagClr (a : BitVec 8) (s : State) := flagWrite true a (fun o k => o &&& ~~~k) s
def execFlagPut (a : BitVec 8) (s : State) := flagWrite false a (fun _ k => k) s

def execFlagGor (d : BitVec 6) (s : State) : Host.Outcome State Fault Refusal :=
  issueArch { writes := [sN d], readsState := [.fl] }
    (fun x r => (r.setS d.toNat ((laneList x.active).foldl (fun w i => w ||| (r.getFl i).setWidth 32) 0), [])) s

def execFlagTst (d : BitVec 6) (a : BitVec 8) (s : State) : Host.Outcome State Fault Refusal :=
  issueArch { reads := [vN a], writes := [pN d], readsState := [.fl] }
    (fun x r => (setActiveP x d.toNat (fun i => (r.getFl i &&& (r.getV a.toNat i).setWidth 16 &&& 0x1FF) != 0) r, [])) s

end Sys2Proof.Machine
end

