-- ==== Sys2Proof/Machine/Dispatch.lean ====
section
/-! DEFINITION. One arm per row of spec/opcode_table.json. -/

namespace Sys2Proof.Machine

def exec (i : Instr) (s : State) : Host.Outcome State Fault Refusal :=
  match i with
  | .iadd d a b => Sys2Proof.Machine.execIadd d a b s
  | .isub d a b => Sys2Proof.Machine.execIsub d a b s
  | .imul d a b => Sys2Proof.Machine.execImul d a b s
  | .imulhS32 d a b => Sys2Proof.Machine.execImulhS32 d a b s
  | .imulhN32 d a b => Sys2Proof.Machine.execImulhN32 d a b s
  | .imad d a b => Sys2Proof.Machine.execImad d a b s
  | .iminS32 d a b => Sys2Proof.Machine.execIminS32 d a b s
  | .imaxS32 d a b => Sys2Proof.Machine.execImaxS32 d a b s
  | .iminN32 d a b => Sys2Proof.Machine.execIminN32 d a b s
  | .imaxN32 d a b => Sys2Proof.Machine.execImaxN32 d a b s
  | .and d a b => Sys2Proof.Machine.execAnd d a b s
  | .or d a b => Sys2Proof.Machine.execOr d a b s
  | .xor d a b => Sys2Proof.Machine.execXor d a b s
  | .shl d a b => Sys2Proof.Machine.execShl d a b s
  | .shr d a b => Sys2Proof.Machine.execShr d a b s
  | .sar d a b => Sys2Proof.Machine.execSar d a b s
  | .iadd64 d a b => Sys2Proof.Machine.execIadd64 d a b s
  | .isub64 d a b => Sys2Proof.Machine.execIsub64 d a b s
  | .bfeS32 d a b => Sys2Proof.Machine.execBfeS32 d a b s
  | .bfeN32 d a b => Sys2Proof.Machine.execBfeN32 d a b s
  | .bfi d a b => Sys2Proof.Machine.execBfi d a b s
  | .iaddi d a imm => Sys2Proof.Machine.execIaddi d a imm s
  | .andi d a imm => Sys2Proof.Machine.execAndi d a imm s
  | .ori d a imm => Sys2Proof.Machine.execOri d a imm s
  | .shli d a imm => Sys2Proof.Machine.execShli d a imm s
  | .shri d a imm => Sys2Proof.Machine.execShri d a imm s
  | .sari d a imm => Sys2Proof.Machine.execSari d a imm s
  | .mov d a => Sys2Proof.Machine.execMov d a s
  | .not d a => Sys2Proof.Machine.execNot d a s
  | .ineg d a => Sys2Proof.Machine.execIneg d a s
  | .iabs d a => Sys2Proof.Machine.execIabs d a s
  | .popc d a => Sys2Proof.Machine.execPopc d a s
  | .clz d a => Sys2Proof.Machine.execClz d a s
  | .brev d a => Sys2Proof.Machine.execBrev d a s
  | .sextS8 d a => Sys2Proof.Machine.execSextS8 d a s
  | .sextS16 d a => Sys2Proof.Machine.execSextS16 d a s
  | .zextN8 d a => Sys2Proof.Machine.execZextN8 d a s
  | .zextN16 d a => Sys2Proof.Machine.execZextN16 d a s
  | .mov64 d a => Sys2Proof.Machine.execMov64 d a s
  | .movi d imm => Sys2Proof.Machine.execMovi d imm s
  | .movhi d imm => Sys2Proof.Machine.execMovhi d imm s
  | .icmpS32 c p a b => Sys2Proof.Machine.execIcmpS32 c p a b s
  | .icmpN32 c p a b => Sys2Proof.Machine.execIcmpN32 c p a b s
  | .plog d a b t => Sys2Proof.Machine.execPlog d a b t s
  | .pmvVp d a => Sys2Proof.Machine.execPmvVp d a s
  | .pmvPv d a => Sys2Proof.Machine.execPmvPv d a s
  | .pmvSp d a => Sys2Proof.Machine.execPmvSp d a s
  | .pmvPs d a => Sys2Proof.Machine.execPmvPs d a s
  | .voteBallot d a => Sys2Proof.Machine.execVoteBallot d a s
  | .voteAny d a => Sys2Proof.Machine.execVoteAny d a s
  | .voteAll d a => Sys2Proof.Machine.execVoteAll d a s
  | .voteUni d a => Sys2Proof.Machine.execVoteUni d a s
  | .voteActive d => Sys2Proof.Machine.execVoteActive d s
  | .voteCount d a => Sys2Proof.Machine.execVoteCount d a s
  | .shflIdx d a n => Sys2Proof.Machine.execShflIdx d a n s
  | .shflUp d a n => Sys2Proof.Machine.execShflUp d a n s
  | .shflDown d a n => Sys2Proof.Machine.execShflDown d a n s
  | .shflXor d a n => Sys2Proof.Machine.execShflXor d a n s
  | .shflv d a b => Sys2Proof.Machine.execShflv d a b s
  | .matchB32 d a => Sys2Proof.Machine.execMatchB32 d a s
  | .matchB64 d a => Sys2Proof.Machine.execMatchB64 d a s
  | .xred d a sx k o => Sys2Proof.Machine.execXred d a sx k o s
  | .uadd d a b => Sys2Proof.Machine.execUadd d a b s
  | .usub d a b => Sys2Proof.Machine.execUsub d a b s
  | .umul d a b => Sys2Proof.Machine.execUmul d a b s
  | .umulhS32 d a b => Sys2Proof.Machine.execUmulhS32 d a b s
  | .umulhN32 d a b => Sys2Proof.Machine.execUmulhN32 d a b s
  | .uand d a b => Sys2Proof.Machine.execUand d a b s
  | .uor d a b => Sys2Proof.Machine.execUor d a b s
  | .uxor d a b => Sys2Proof.Machine.execUxor d a b s
  | .ushl d a b => Sys2Proof.Machine.execUshl d a b s
  | .ushr d a b => Sys2Proof.Machine.execUshr d a b s
  | .usar d a b => Sys2Proof.Machine.execUsar d a b s
  | .uminS32 d a b => Sys2Proof.Machine.execUminS32 d a b s
  | .umaxS32 d a b => Sys2Proof.Machine.execUmaxS32 d a b s
  | .uminN32 d a b => Sys2Proof.Machine.execUminN32 d a b s
  | .umaxN32 d a b => Sys2Proof.Machine.execUmaxN32 d a b s
  | .umov d a => Sys2Proof.Machine.execUmov d a s
  | .unot d a => Sys2Proof.Machine.execUnot d a s
  | .usetEq d a b => Sys2Proof.Machine.execUsetEq d a b s
  | .usetNe d a b => Sys2Proof.Machine.execUsetNe d a b s
  | .usetLtS32 d a b => Sys2Proof.Machine.execUsetLtS32 d a b s
  | .usetLeS32 d a b => Sys2Proof.Machine.execUsetLeS32 d a b s
  | .usetLtN32 d a b => Sys2Proof.Machine.execUsetLtN32 d a b s
  | .usetLeN32 d a b => Sys2Proof.Machine.execUsetLeN32 d a b s
  | .uadd64 d a b => Sys2Proof.Machine.execUadd64 d a b s
  | .usub64 d a b => Sys2Proof.Machine.execUsub64 d a b s
  | .upopc d a => Sys2Proof.Machine.execUpopc d a s
  | .uclz d a => Sys2Proof.Machine.execUclz d a s
  | .umovi d imm => Sys2Proof.Machine.execUmovi d imm s
  | .uaddi d imm => Sys2Proof.Machine.execUaddi d imm s
  | .umovhi d imm => Sys2Proof.Machine.execUmovhi d imm s
  | .uvmovVs d a => Sys2Proof.Machine.execUvmovVs d a s
  | .uvmovSv d a n => Sys2Proof.Machine.execUvmovSv d a n s
  | .uvmovFirst d a => Sys2Proof.Machine.execUvmovFirst d a s
  | .laddLn8 d a b => Sys2Proof.Machine.execLaddLn8 d a b s
  | .laddLn16 d a b => Sys2Proof.Machine.execLaddLn16 d a b s
  | .laddLn32 d a b => Sys2Proof.Machine.execLaddLn32 d a b s
  | .lsubLn8 d a b => Sys2Proof.Machine.execLsubLn8 d a b s
  | .lsubLn16 d a b => Sys2Proof.Machine.execLsubLn16 d a b s
  | .lsubLn32 d a b => Sys2Proof.Machine.execLsubLn32 d a b s
  | .lmulLn8 d a b => Sys2Proof.Machine.execLmulLn8 d a b s
  | .lmulLn16 d a b => Sys2Proof.Machine.execLmulLn16 d a b s
  | .lmulLn32 d a b => Sys2Proof.Machine.execLmulLn32 d a b s
  | .lmadLn8 d a b => Sys2Proof.Machine.execLmadLn8 d a b s
  | .lmadLn16 d a b => Sys2Proof.Machine.execLmadLn16 d a b s
  | .lmadLn32 d a b => Sys2Proof.Machine.execLmadLn32 d a b s
  | .ldivLn16 d a b => Sys2Proof.Machine.execLdivLn16 d a b s
  | .ldivLn32 d a b => Sys2Proof.Machine.execLdivLn32 d a b s
  | .lminLn16 d a b => Sys2Proof.Machine.execLminLn16 d a b s
  | .lminLn32 d a b => Sys2Proof.Machine.execLminLn32 d a b s
  | .lmaxLn16 d a b => Sys2Proof.Machine.execLmaxLn16 d a b s
  | .lmaxLn32 d a b => Sys2Proof.Machine.execLmaxLn32 d a b s
  | .lpowLn32 d a b => Sys2Proof.Machine.execLpowLn32 d a b s
  | .lscaleLn16 d a b => Sys2Proof.Machine.execLscaleLn16 d a b s
  | .lscaleLn32 d a b => Sys2Proof.Machine.execLscaleLn32 d a b s
  | .lcmpLn16 c p a b => Sys2Proof.Machine.execLcmpLn16 c p a b s
  | .lcmpLn32 c p a b => Sys2Proof.Machine.execLcmpLn32 c p a b s
  | .lneg d a f => Sys2Proof.Machine.execLneg d a f s
  | .labs d a f => Sys2Proof.Machine.execLabs d a f s
  | .lrcp d a f => Sys2Proof.Machine.execLrcp d a f s
  | .lsqr d a f => Sys2Proof.Machine.execLsqr d a f s
  | .lsqrt d a f => Sys2Proof.Machine.execLsqrt d a f s
  | .lrsqrt d a f => Sys2Proof.Machine.execLrsqrt d a f s
  | .lexp2 d a f => Sys2Proof.Machine.execLexp2 d a f s
  | .llog2 d a f => Sys2Proof.Machine.execLlog2 d a f s
  | .lexp d a f => Sys2Proof.Machine.execLexp d a f s
  | .lsint d a f => Sys2Proof.Machine.execLsint d a f s
  | .lcost d a f => Sys2Proof.Machine.execLcost d a f s
  | .lclass d a f => Sys2Proof.Machine.execLclass d a f s
  | .lcvtLn8 d a sx => Sys2Proof.Machine.execLcvtLn8 d a sx s
  | .lcvtLn16 d a sx => Sys2Proof.Machine.execLcvtLn16 d a sx s
  | .lcvtLn32 d a sx => Sys2Proof.Machine.execLcvtLn32 d a sx s
  | .lgetl d a f => Sys2Proof.Machine.execLgetl d a f s
  | .lmkl d a f => Sys2Proof.Machine.execLmkl d a f s
  | .lunpk0 d a f => Sys2Proof.Machine.execLunpk0 d a f s
  | .lunpk1 d a f => Sys2Proof.Machine.execLunpk1 d a f s
  | .lunpk2 d a f => Sys2Proof.Machine.execLunpk2 d a f s
  | .lunpk3 d a f => Sys2Proof.Machine.execLunpk3 d a f s
  | .lfix d a f sx n => Sys2Proof.Machine.execLfix d a f sx n s
  | .lflt d a f sx n => Sys2Proof.Machine.execLflt d a f sx n s
  | .fcvtToLn d a l e => Sys2Proof.Machine.execFcvtToLn d a l e s
  | .fcvtToIeee d a l e => Sys2Proof.Machine.execFcvtToIeee d a l e s
  | .lpack d a b => Sys2Proof.Machine.execLpack d a b s
  | .flagGet d => Sys2Proof.Machine.execFlagGet d s
  | .flagSet a => Sys2Proof.Machine.execFlagSet a s
  | .flagClr a => Sys2Proof.Machine.execFlagClr a s
  | .flagPut a => Sys2Proof.Machine.execFlagPut a s
  | .flagGor d => Sys2Proof.Machine.execFlagGor d s
  | .flagTst d a => Sys2Proof.Machine.execFlagTst d a s
  | .lmma c a b f sx p => Sys2Proof.Machine.execLmma c a b f sx p s
  | .lmms c a b f w n p => Sys2Proof.Machine.execLmms c a b f w n p s
  | .imma c a b n p => Sys2Proof.Machine.execImma c a b n p s
  | .aclrLn32 c => Sys2Proof.Machine.execAclrLn32 c s
  | .aclrLn16 c => Sys2Proof.Machine.execAclrLn16 c s
  | .aclrS32 c f => Sys2Proof.Machine.execAclrS32 c f s
  | .ard c q d => Sys2Proof.Machine.execArd c q d s
  | .awr c q => Sys2Proof.Machine.execAwr c q s
  | .amov c sx => Sys2Proof.Machine.execAmov c sx s
  | .tld t d sx => Sys2Proof.Machine.execTld t d sx s
  | .tst t d sx => Sys2Proof.Machine.execTst t d sx s
  | .tmov t u => Sys2Proof.Machine.execTmov t u s
  | .twset n b => Sys2Proof.Machine.execTwset n b s
  | .twget n b => Sys2Proof.Machine.execTwget n b s
  | .mwait c => Sys2Proof.Machine.execMwait c s
  | .gset a g => Sys2Proof.Machine.execGset a g s
  | .gcfg d g => Sys2Proof.Machine.execGcfg d g s
  | .ldgUniformVector d a b z => Sys2Proof.Machine.execLdgUniformVector d a b z s
  | .ldgUniform d b z => Sys2Proof.Machine.execLdgUniform d b z s
  | .ldgVector d a z => Sys2Proof.Machine.execLdgVector d a z s
  | .stgUniformVector d a b z => Sys2Proof.Machine.execStgUniformVector d a b z s
  | .stgUniform d b z => Sys2Proof.Machine.execStgUniform d b z s
  | .stgVector d a z => Sys2Proof.Machine.execStgVector d a z s
  | .ldhVector d a b z => Sys2Proof.Machine.execLdhVector d a b z s
  | .ldhOffset d b z => Sys2Proof.Machine.execLdhOffset d b z s
  | .sthVector d a b z => Sys2Proof.Machine.execSthVector d a b z s
  | .sthOffset d b z => Sys2Proof.Machine.execSthOffset d b z s
  | .atom d a o t => Sys2Proof.Machine.execAtom d a o t s
  | .red d a o t => Sys2Proof.Machine.execRed d a o t s
  | .fenceX sx => Sys2Proof.Machine.execFenceX sx s
  | .talloc d a l => Sys2Proof.Machine.execTalloc d a l s
  | .tfree a => Sys2Proof.Machine.execTfree a s
  | .pref d a b => Sys2Proof.Machine.execPref d a b s
  | .vspl d b sx => Sys2Proof.Machine.execVspl d b sx s
  | .vfil d b sx => Sys2Proof.Machine.execVfil d b sx s
  | .qpush n a => Sys2Proof.Machine.execQpush n a s
  | .qpop d n => Sys2Proof.Machine.execQpop d n s
  | .qtry d n b => Sys2Proof.Machine.execQtry d n b s
  | .thrGet d n => Sys2Proof.Machine.execThrGet d n s
  | .thrPeek d n => Sys2Proof.Machine.execThrPeek d n s
  | .thrSkip a n => Sys2Proof.Machine.execThrSkip a n s
  | .thrBfx d a sx w p => Sys2Proof.Machine.execThrBfx d a sx w p s
  | .thrLut d a k => Sys2Proof.Machine.execThrLut d a k s
  | .thrTbw d a k => Sys2Proof.Machine.execThrTbw d a k s
  | .thrRefill a n => Sys2Proof.Machine.execThrRefill a n s
  | .thrMovi d imm => Sys2Proof.Machine.execThrMovi d imm s
  | .thrAdd d a imm => Sys2Proof.Machine.execThrAdd d a imm s
  | .thrSub d a imm => Sys2Proof.Machine.execThrSub d a imm s
  | .thrAnd d a imm => Sys2Proof.Machine.execThrAnd d a imm s
  | .thrOr d a imm => Sys2Proof.Machine.execThrOr d a imm s
  | .thrXor d a imm => Sys2Proof.Machine.execThrXor d a imm s
  | .thrShl d a imm => Sys2Proof.Machine.execThrShl d a imm s
  | .thrShr d a imm => Sys2Proof.Machine.execThrShr d a imm s
  | .thrSar d a imm => Sys2Proof.Machine.execThrSar d a imm s
  | .thrEmit a n => Sys2Proof.Machine.execThrEmit a n s
  | .thrCopy d a => Sys2Proof.Machine.execThrCopy d a s
  | .thrBr c a imm => Sys2Proof.Machine.execThrBr c a imm s
  | .qbindInit n a => Sys2Proof.Machine.execQbindInit n a s
  | .qbindAttach n a => Sys2Proof.Machine.execQbindAttach n a s
  | .qbindUnbind n => Sys2Proof.Machine.execQbindUnbind n s
  | .waitmUniformVector d a b z => Sys2Proof.Machine.execWaitmUniformVector d a b z s
  | .waitmUniform d b z => Sys2Proof.Machine.execWaitmUniform d b z s
  | .waitmVector d a z => Sys2Proof.Machine.execWaitmVector d a z s
  | .bra o => Sys2Proof.Machine.execBra o s
  | .brp p sx o => Sys2Proof.Machine.execBrp p sx o s
  | .call o => Sys2Proof.Machine.execCall o s
  | .jmp a => Sys2Proof.Machine.execJmp a s
  | .calli a => Sys2Proof.Machine.execCalli a s
  | .spawn a b => Sys2Proof.Machine.execSpawn a b s
  | .bar l sx => Sys2Proof.Machine.execBar l sx s
  | .barl d o l sx => Sys2Proof.Machine.execBarl d o l sx s
  | .tsub d a => Sys2Proof.Machine.execTsub d a s
  | .widF0 d => Sys2Proof.Machine.execWidF0 d s
  | .widF1 d => Sys2Proof.Machine.execWidF1 d s
  | .widF2 d => Sys2Proof.Machine.execWidF2 d s
  | .widF3 d => Sys2Proof.Machine.execWidF3 d s
  | .widF4 d => Sys2Proof.Machine.execWidF4 d s
  | .widF5 d => Sys2Proof.Machine.execWidF5 d s
  | .widId d => Sys2Proof.Machine.execWidId d s
  | .widKey d => Sys2Proof.Machine.execWidKey d s
  | .widExt0 d => Sys2Proof.Machine.execWidExt0 d s
  | .widExt1 d => Sys2Proof.Machine.execWidExt1 d s
  | .widExt2 d => Sys2Proof.Machine.execWidExt2 d s
  | .widExt3 d => Sys2Proof.Machine.execWidExt3 d s
  | .widExt4 d => Sys2Proof.Machine.execWidExt4 d s
  | .widExt5 d => Sys2Proof.Machine.execWidExt5 d s
  | .sread d n => Sys2Proof.Machine.execSread d n s
  | .swrite h a l => Sys2Proof.Machine.execSwrite h a l s
  | .trap n => Sys2Proof.Machine.execTrap n s
  | .bkpt n => Sys2Proof.Machine.execBkpt n s
  | .limm imm => Sys2Proof.Machine.execLimm imm s
  | .rnd r => Sys2Proof.Machine.execRnd r s
  | .guard v p => Sys2Proof.Machine.execGuard v p s
  | .bpri f t => Sys2Proof.Machine.execBpri f t s
  | .mwaitAll => Sys2Proof.Machine.execMwaitAll s
  | .abfl => Sys2Proof.Machine.execAbfl s
  | .thrHalt => Sys2Proof.Machine.execThrHalt s
  | .nop => Sys2Proof.Machine.execNop s
  | .ret => Sys2Proof.Machine.execRet s
  | .exit => Sys2Proof.Machine.execExit s
  | .yield => Sys2Proof.Machine.execYield s
  | .lockx => Sys2Proof.Machine.execLockx s
  | .unlockx => Sys2Proof.Machine.execUnlockx s
  | .tret => Sys2Proof.Machine.execTret s
  | .hnop => Sys2Proof.Machine.execHnop s
  | .sat => Sys2Proof.Machine.execSat s
  | .placement => Sys2Proof.Machine.execPlacement s
  | .variableLatencyResult => Sys2Proof.Machine.execVariableLatencyResult s
  | .fenceCompletion => Sys2Proof.Machine.execFenceCompletion s
  | .fenceRollback => Sys2Proof.Machine.execFenceRollback s
  | .tileEnginePass => Sys2Proof.Machine.execTileEnginePass s
  | .queueUnblock => Sys2Proof.Machine.execQueueUnblock s
  | .monitorWake => Sys2Proof.Machine.execMonitorWake s
  | .waitmTimeout => Sys2Proof.Machine.execWaitmTimeout s
  | .barrierRelease => Sys2Proof.Machine.execBarrierRelease s
  | .clusterDeparture => Sys2Proof.Machine.execClusterDeparture s
  | .extendedSetLending => Sys2Proof.Machine.execExtendedSetLending s
  | .agedIssue => Sys2Proof.Machine.execAgedIssue s
  | .yieldExpiry => Sys2Proof.Machine.execYieldExpiry s
  | .binTimerExpiry => Sys2Proof.Machine.execBinTimerExpiry s
  | .spawnedGroupStart => Sys2Proof.Machine.execSpawnedGroupStart s
  | .watchdogFault => Sys2Proof.Machine.execWatchdogFault s
  | .queueDeadlock => Sys2Proof.Machine.execQueueDeadlock s
  | .copyOrConvert => Sys2Proof.Machine.execCopyOrConvert s
  | .expand => Sys2Proof.Machine.execExpand s
  | .gather => Sys2Proof.Machine.execGather s
  | .scatter => Sys2Proof.Machine.execScatter s
  | .scatterAdd => Sys2Proof.Machine.execScatterAdd s
  | .allReduce => Sys2Proof.Machine.execAllReduce s
  | .reduceScatter => Sys2Proof.Machine.execReduceScatter s
  | .allGather => Sys2Proof.Machine.execAllGather s
  | .broadcast => Sys2Proof.Machine.execBroadcast s
  | .linkError => Sys2Proof.Machine.execLinkError s
  | .thresherInputTake => Sys2Proof.Machine.execThresherInputTake s
  | .thresherStepLimit => Sys2Proof.Machine.execThresherStepLimit s
  | .submit => Sys2Proof.Machine.execSubmit s
  | .psubmit => Sys2Proof.Machine.execPsubmit s
  | .admission => Sys2Proof.Machine.execAdmission s
  | .dispatchStep => Sys2Proof.Machine.execDispatchStep s
  | .teamRetirement => Sys2Proof.Machine.execTeamRetirement s
  | .launchRetirement => Sys2Proof.Machine.execLaunchRetirement s
  | .preemptChosen => Sys2Proof.Machine.execPreemptChosen s
  | .preemptSave => Sys2Proof.Machine.execPreemptSave s
  | .preemptDrain => Sys2Proof.Machine.execPreemptDrain s
  | .preemptFlush => Sys2Proof.Machine.execPreemptFlush s
  | .preresume => Sys2Proof.Machine.execPreresume s
  | .atsInvalidationRequest => Sys2Proof.Machine.execAtsInvalidationRequest s
  | .leaseRegrant => Sys2Proof.Machine.execLeaseRegrant s
  | .xlinv => Sys2Proof.Machine.execXlinv s
  | .patch => Sys2Proof.Machine.execPatch s
  | .ctxstateActivate => Sys2Proof.Machine.execCtxstateActivate s
  | .ctxstateFree => Sys2Proof.Machine.execCtxstateFree s
  | .commWrite => Sys2Proof.Machine.execCommWrite s
  | .rangeRegisterWrite => Sys2Proof.Machine.execRangeRegisterWrite s
  | .substatClear => Sys2Proof.Machine.execSubstatClear s
  | .mgerrClear => Sys2Proof.Machine.execMgerrClear s
  | .errcntClear => Sys2Proof.Machine.execErrcntClear s
  | .registerWrite => Sys2Proof.Machine.execRegisterWrite s
  | .firmwareInstall => Sys2Proof.Machine.execFirmwareInstall s
  | .fuseRaise => Sys2Proof.Machine.execFuseRaise s
  | .attestationReport => Sys2Proof.Machine.execAttestationReport s
  | .certificateChain => Sys2Proof.Machine.execCertificateChain s
  | .checkpoint => Sys2Proof.Machine.execCheckpoint s
  | .checkpointRestore => Sys2Proof.Machine.execCheckpointRestore s
  | .bar4Access => Sys2Proof.Machine.execBar4Access s
  | .powerOn => Sys2Proof.Machine.execPowerOn s
  | .timingErrorReplay => Sys2Proof.Machine.execTimingErrorReplay s
  | .correctedError => Sys2Proof.Machine.execCorrectedError s
  | .uncorrectableError => Sys2Proof.Machine.execUncorrectableError s
  | .scrub => Sys2Proof.Machine.execScrub s
  | .powerTokenBid => Sys2Proof.Machine.execPowerTokenBid s
  | .droop => Sys2Proof.Machine.execDroop s
  | .thermalThrottle => Sys2Proof.Machine.execThermalThrottle s
  | .thermalShutdown => Sys2Proof.Machine.execThermalShutdown s
  | .unassignedMajor => Sys2Proof.Machine.execUnassignedMajor s
  | .deviceReset => Sys2Proof.Machine.execDeviceReset s

end Sys2Proof.Machine
end

