-- ==== Sys2Proof/Machine/Schedule.lean ====
section
/-! DEFINITION. What happens in one step: the agenda's next event, or by turns an issue of the next ready slot (R308) or an
internal event that is due (log entry 1, DESIGN CHOICE). The meaning of an instruction is a parameter here; Machine/Step.lean supplies exec. -/

namespace Sys2Proof.Machine

/-- The meaning of instructions, as step supplies it. -/
abbrev Meaning := Instr → State → Host.Outcome State Fault Refusal

/-- Rows that no word encodes: events of the hardware or the host. -/
def isEvent (i : Instr) : Bool := (encode false i).isNone && (match i with
  | .hnop => false
  | .placement => false
  | _ => true)

/-- Time passes: the reference timer and every resident team's watchdog count advance by a free number of ticks (R339, R340;
log entry 2, DESIGN CHOICE). -/
def passTime (s : State) : State :=
  let d := BitVec.ofNat 64 (Config.ticksOf s.freeIx)
  { s with
    tick := s.tick + d
    freeIx := s.freeIx + 1
    stalled := false
    teams := s.teams.map (fun t => if t.place = .resident then { t with watchdog := t.watchdog + d } else t) }

/-- Takes a fault that waits for the group's results or its turn in the order log (R233, R260, R374). -/
def settle (s : State) (core slot : Nat) : State :=
  match s.group? core slot with
  | none => s
  | some g =>
    match g.after with
    | [] => s
    | f :: rest => (takeFault (s.setGroup { g with after := rest, wait := .none }) core slot f).getD (stallState s)

/-- Whether a waiting fault of the group is due. A held machine check of a table is, whatever the group waits for (R108, R218). -/
def settleDue (g : Group) : Bool :=
  g.after.head?.any (fun f => g.handler.isNone || f.inner) && g.outstanding.isEmpty && !g.fenced && (match g.wait with
    | .none => true
    | .parked _ _ _ => true
    | .exiting => true
    | .halting => true
    | .faulted => false
    | _ => g.after.head?.any (fun f => f.cls == 17))

/-- A fault that stands before everything the group may issue, the end of its EXIT and its BKPT too (R218, R233, R260, R331). -/
def trapWaits (g : Group) : Bool :=
  g.after.head?.any (fun f => g.handler.isNone || f.inner) && (g.wait == .none || g.wait == .exiting || g.wait == .halting)

/-- A group that a busy patch holds: inside a hint run it goes back to the first hint, and otherwise it waits (R43, R365). -/
def holdForPatch (s : State) (x : Issue) : State :=
  if x.run.count = 0 then stallState s else s.setGroup { x.e.g with arch := { x.arch with run := {} } }

/-- One issue attempt of an ordinary slot (R308): a state whose stalled field is set says that the slot is not ready. -/
def attempt (ex : Meaning) (s : State) (core slot : Nat) : Host.Outcome State Fault Refusal :=
  match issueOf s core slot with
  | none => .next (stallState s)
  | some x =>
    let g := x.e.g
    if settleDue g && g.begun.isNone then .next (settle s core slot)
    else if (g.wait ≠ .none ∧ g.wait ≠ .exiting ∧ g.wait ≠ .halting) ∨ g.xset = .lent ∨ (trapWaits g ∧ g.begun = none) then .next (stallState s)
    else if patchHolds s x.e.l (x.arch.wordPc x.entry).toNat then .next (holdForPatch s x)
    else if g.arch.run.count = 0 ∧ g.wait ≠ .halting ∧ s.stops x.e.t x.e.l then .next (stallState s)
    else if agedReady g then ex .agedIssue { s with event := { core := core, slot := slot } }
    else
      let s1 := { s with issuer := some (core, slot), fetched := 0 }
      match fetchAt s x.e.l (x.arch.wordPc x.entry).toNat with
      | .fault c n =>
        .next (if n = 0 then raiseHint x s1 c else raise x s1 s1 { cls := c, code := n })
      | .word w =>
        let s2 := { s1 with fetched := w }
        match decodeGen x.e.l.kh.gen w with
        | .ok i => ex i s2
        | .error _ => .next (if w.extractLsb' 24 7 = 0x7F then raiseHint x s2 1 else raise x s2 s2 { cls := 1 })

/-- The word that the thresher slot of a core executes next, if its block fetches inside the code (R280). A word whose text is poisoned or
not translated is none either, so it ends the block with status 1 (log entry 121, DESIGN CHOICE). -/
def thresherWord (s : State) (core : Nat) : Option Word :=
  (s.coreAt core).block.bind fun b =>
    (s.team? b.input.team).bind fun t =>
      (s.launch? t.launch).bind fun l =>
        match fetchAt s l (4 * b.pc) with
        | .word w => some w
        | .fault _ _ => none

/-- A busy patch holds the block's next word (R365). -/
def thresherHeld (s : State) (b : ThrBlock) : Bool :=
  (((s.team? b.input.team).bind fun t => s.launch? t.launch).map (fun l => patchHolds s l (4 * b.pc))).getD false

/-- A block that a busy patch holds: behind hints it goes back to the first of them, and otherwise it waits (R43, R365). -/
def holdBlock (s : State) (core : Nat) (b : ThrBlock) : State :=
  if b.hints = 0 then stallState s else s.setBlock core (some b.rewind)

/-- One issue of a thresher slot (R11, R280): a word that is no THR word and no hint acts as an unassigned one. -/
def attemptThresher (ex : Meaning) (s : State) (core : Nat) : Host.Outcome State Fault Refusal :=
  match (s.coreAt core).block with
  | none => .next (stallState s)
  | some b =>
    if s.stopsTeam b.input.team then .next (stallState s)
    else if thresherHeld s b then .next (holdBlock s core b)
    else
    let w := ((thresherWord s core).getD 0) &&& 0x7FFFFFFF
    let gen := (((s.team? b.input.team).bind fun t => s.launch? t.launch).map (·.kh.gen)).getD .n3
    let s1 := { s with issuer := some (core, Config.thresherSlot), fetched := w }
    let k := w.extractLsb' 24 7
    if k = 0x70 ∨ k = 0x7F then
      match decodeGen gen w with
      | .ok i => ex i s1
      | .error _ => ex .unassignedMajor s1
    else ex .unassignedMajor s1

/-- The slots that may issue: resident groups and active thresher slots, in the order in which the partitions take their
turns and each partition its slots (R10, R11, R308). -/
def slotOrder (s : State) : List (Nat × Nat) :=
  let ordinary := s.groups.map (fun g => (g.core, g.slot))
  let threshers := (s.cores.filter (fun k => k.2.block.isSome)).map (fun k => (k.1, Config.thresherSlot))
  let key (c : Nat × Nat) : Nat :=
    let p := 4 * c.1 + partitionOf c.2
    let ptr := smGet 0 (partitionOf c.2) (s.coreAt c.1).pointers
    ((p + 576 - s.lastPartition - 1) % 576) * 16 + (c.2 % 16 + 16 - ptr) % 16
  sortBy key (ordinary ++ threshers)

/-- After an issue, the partition's pointer moves to the slot after the one that issued (R308). -/
def movePointer (s : State) (core slot : Nat) : State :=
  let k := s.coreAt core
  { s.setCore core { k with pointers := smSet 0 (partitionOf slot) ((slot + 1) % 16) k.pointers } with
    lastPartition := 4 * core + partitionOf slot }

/-- The first slot of the list that issues; none if no slot is ready. -/
def firstIssue (ex : Meaning) (s : State) : List (Nat × Nat) → Option (Host.Outcome State Fault Refusal)
  | [] => none
  | c :: cs =>
    match (if c.2 = Config.thresherSlot then attemptThresher ex s c.1 else attempt ex s c.1 c.2) with
    | .next s1 => if s1.stalled then firstIssue ex s cs else some (.next (movePointer s1 c.1 c.2))
    | r => some r

/-- Events that each group may be due (spec/95_what_each_step_holds.md). -/
def groupEvents (g : Group) : List (Instr × EventArgs) :=
  let at_ : EventArgs := { core := g.core, slot := g.slot }
  [(.fenceRollback, at_), (.variableLatencyResult, at_), (.fenceCompletion, at_), (.tileEnginePass, at_), (.queueUnblock, at_),
   (.monitorWake, at_), (.waitmTimeout, at_), (.barrierRelease, at_), (.yieldExpiry, at_), (.extendedSetLending, at_)]

/-- Events that each team may be due. -/
def teamEvents (t : Team) : List (Instr × EventArgs) :=
  [(.watchdogFault, { num := t.id }), (.queueDeadlock, { num := t.id }), (.teamRetirement, { num := t.id })]

/-- Events that each core may be due. -/
def coreEvents (k : Nat × Core) : List (Instr × EventArgs) :=
  [(.thresherInputTake, { core := k.1 }), (.thresherStepLimit, { core := k.1 }), (.binTimerExpiry, { core := k.1 }),
   (.spawnedGroupStart, { core := k.1 })]

/-- The rows that carry out an engine's commands. -/
def engineEvents (c : Command) : List (Instr × EventArgs) :=
  match c.engine with
  | .copy k => [(.copyOrConvert, { num := k }), (.expand, { num := k })]
  | .gather k => [(.gather, { num := k }), (.scatter, { num := k }), (.scatterAdd, { num := k })]
  | .collective => [(.allReduce, { num := 0 }), (.reduceScatter, { num := 0 }), (.allGather, { num := 0 }), (.broadcast, { num := 0 })]

/-- The rows that carry out a pre-emption request. -/
def requestEvents (n : Nat) : List (Instr × EventArgs) :=
  [(.preemptChosen, { num := n }), (.preemptSave, { num := n }), (.preemptDrain, { num := n }), (.preemptFlush, { num := n })]

/-- The row that carries out the job of a busy mailbox (R347). -/
def jobEvent : MailboxJob → Instr
  | .install => .firmwareInstall
  | .report => .attestationReport
  | .chain => .certificateChain

/-- The jobs of the mailboxes. -/
def mailboxEvents (s : State) : List (Instr × EventArgs) := s.link.jobs.map (fun j => (jobEvent j, ({} : EventArgs)))

/-- Every internal event that may be due, each with what it strikes. -/
def internalEvents (s : State) : List (Instr × EventArgs) :=
  s.groups.flatMap groupEvents
  ++ s.commands.flatMap engineEvents
  ++ s.cores.flatMap coreEvents
  ++ (List.range s.departures.length).map (fun n => (.clusterDeparture, { num := n }))
  ++ (if s.launches.isEmpty then [] else [(.dispatchStep, { num := 0 })])
  ++ s.launches.flatMap (fun l => [(.launchRetirement, { num := l.id }), (.leaseRegrant, { num := l.id })])
  ++ s.teams.flatMap teamEvents
  ++ (if s.queues.isEmpty then [] else [(.admission, ({} : EventArgs))])
  ++ (List.range s.requests.length).flatMap requestEvents
  ++ s.link.pending.map (fun v => (if v.management then .xlinv else .atsInvalidationRequest, { flag := true }))
  ++ (if s.checkpointing then [(.checkpoint, { flag := true })] else [])
  ++ (s.contexts.filter (fun c => c.2.patch.isSome)).map (fun c => (.patch, { ctx := c.1, flag := true }))
  ++ mailboxEvents s
  ++ [(.powerTokenBid, ({} : EventArgs))]

/-- The first event of the list that is enabled. -/
def firstEvent (ex : Meaning) (s : State) : List (Instr × EventArgs) → Option (Host.Outcome State Fault Refusal)
  | [] => none
  | e :: es =>
    match ex e.1 { s with event := e.2, issuer := none } with
    | .refused .notEnabled => firstEvent ex s es
    | r => some r

/-- Internal events take their turns from a place that moves on with every step (log entry 1, DESIGN CHOICE). -/
def rotateEvents (s : State) : List (Instr × EventArgs) :=
  let es := internalEvents s
  es.drop (s.freeIx % (es.length + 1)) ++ es.take (s.freeIx % (es.length + 1))

/-- A rollback that a write has made due comes before any further word (R217). -/
def rollbackEvents (s : State) : List (Instr × EventArgs) :=
  (s.groups.filter (fun g => match g.fence with
    | some w => w.rollbackDue
    | none => false)).map (fun g => (.fenceRollback, { core := g.core, slot := g.slot }))

def withTurn (b : Bool) : Host.Outcome State Fault Refusal → Host.Outcome State Fault Refusal
  | .next s => .next { s with turn := b }
  | r => r

/-- The host's processors write bytes of host memory (R222); a poisoned sector that they write whole is poisoned no more (R394). -/
def hostStores (s : State) (bs : List Host.Cell) : State :=
  if bs.isEmpty then s
  else
    let s1 := bs.foldl (fun s b => s.writePlace (.mem .host b.1 b.1) [b.2]) s
    let whole (k : Nat) : Bool := (List.range 32).all (fun i => bs.any (fun b => b.1 == 32 * k + i))
    { s1 with memory := s1.memory.setPoison .host (s1.memory.hostPoison.filter (fun k => !whole k)) }

/-- The control areas follow a step (R306). -/
def withControl (before : State) : Host.Outcome State Fault Refusal → Host.Outcome State Fault Refusal
  | .next s => .next (keepControl before s)
  | r => r

/-- What a step does after time has passed (log entry 1, DESIGN CHOICE). -/
def stepBody (ex : Meaning) (s : State) : Host.Outcome State Fault Refusal :=
  match s.agenda with
  | (i, a) :: rest =>
    let s1 := hostStores { s with agenda := rest, event := a, issuer := none } a.host
    if isEvent i then
      match ex i s1 with
      | .refused .notEnabled => .next s1
      | r => r
    else .next s1
  | [] =>
    if s.power ≠ .running then (firstEvent ex s (mailboxEvents s)).getD (.next s)
    else match firstEvent ex s (rollbackEvents s) with
      | some r => r
      | none =>
        if s.turn then
          match firstEvent ex s (rotateEvents s) with
          | some r => withTurn false r
          | none =>
            match firstIssue ex s (slotOrder s) with
            | some r => r
            | none => .next s
        else
          match firstIssue ex s (slotOrder s) with
          | some r => withTurn true r
          | none =>
            match firstEvent ex s (rotateEvents s) with
            | some r => r
            | none => .next s

/-- One step of the machine. -/
def runStep (ex : Meaning) (s : State) : Host.Outcome State Fault Refusal :=
  withControl (passTime s) (stepBody ex (passTime s))

end Sys2Proof.Machine
end

