-- ==== Sys2Proof/Machine/Place.lean ====
section
/-! DEFINITION. A machine in which one instruction is about to issue: a context, a launch of one team of one group with one
live lane, and the instruction in its code (log entry 18 says how a program comes to run from reset). -/

namespace Sys2Proof.Machine

/-- A kernel header that declares every register of every class (R57). -/
def placedKernel : KernelHeader :=
  { raw := [], gen := .n3, detCapable := false, restartable := false, entry := 0, trap := 0xFFFFFFFF, codeSize := 64, regs := 128,
    tiles := 8, accs := 8, groups := 1, loft := 4096, barriers := 32, barn := 65536, tlm := 0, errata := [] }

/-- A launch header with one thread and no lease (R58); the kernel header lies at virtual address 0x8000_0000 − 0x180. -/
def placedHeader : LaunchHeader :=
  { raw := [], mode := 0, coresident := false, queue := 0, kernel := 0x7FFFFE80, widths := [6, 0, 0, 0, 0, 0],
    extents := [1, 1, 1, 1, 1, 1], amr := 0x03000000, bound := 0, leases := [], logBase := 0, logPages := 0, tracePages := 0,
    traceBase := 0, genBase := 0, genCount := 0 }

/-- Stores the words' bytes from an address on, lowest first. -/
def storeWords (m : Memory) (t : Tier) (a w : Nat) : Memory := m.write t a (leBytes 8 w)

/-- The context's registers: active, tables at 0x10_0000, range register 0 from virtual 0x4000_0000 for 2 GiB onto the same
IA, and the AMR of the launch (R349, R350). -/
def placedContext : Context :=
  { sys := [(0x000, 0x03000000), (0x100, 0x40000001), (0x110, 0x80000), (0x120, 0x40000000), (0x180, 1), (0x181, 0x100000)] }

/-- The tables: root entry 0, then 1 GiB leaves for the first two GiB of the range, the second one executable (R357,
R358). -/
def placedTables (m : Memory) : Memory :=
  let m1 := m.write .gddr 0x100000 (leBytes 8 0x110001)
  let m2 := m1.write .gddr 0x110008 (leBytes 8 0x4000000F)
  m2.write .gddr 0x110010 (leBytes 8 0x80000017)

/-- The group: lane 0 at code offset 0 (R288). -/
def placedGroup : Group :=
  { core := 0, slot := 0, team := 1, index := 0, live := 1, homeCore := 0, startNumber := 0,
    arch := { frontier := [{ prio := 0x8000, pc := 0, mask := 1, guard := 63 }] } }

/-- The launch and its team (R285, R317). -/
def placedLaunch : Launch :=
  { id := 1, ctx := 0, tcb := 0, header := 0, privileged := true, kh := placedKernel, lh := placedHeader, windows := [], k0 := 0, k1 := 0,
    unplaced := [], dispatched := true }

def placedTeam : Team := { id := 1, launch := 1, key := 0, core := 0, spawned := false, slots := [0] }

/-- The thresher block of the team, for a THR word (R280). -/
def placedBlock : ThrBlock :=
  { input := { team := 1, group := 0, word := 0, id := 1, tag := 0 }, pc := 0, bit := 0, steps := 0, tile := 0, payload := 0x40000000, sectors := 1 }

/-- The machine s with the instruction's words in the code of a launch whose one group, or for a THR word whose thresher
block, issues next. -/
def placeWords (s : State) (nbits w : Nat) : State :=
  let m := (placedTables s.memory).write .gddr 0x80000000 (leBytes (nbits / 8) w)
  let thr := field w 24 7 = 0x70
  { s with
    groups := if thr then [] else [placedGroup]
    teams := [{ placedTeam with loft := if thr then [{ index := 0, granules := 16, shape := 0x10010, ctx := 0 }] else [] }]
    launches := [placedLaunch]
    queues := []
    contexts := [(0, placedContext)]
    cores := if thr then [(0, { block := some placedBlock })] else []
    memory := m
    commands := []
    departures := []
    agenda := []
    power := .running
    turn := false
    nextId := 2 }

end Sys2Proof.Machine
end

