-- ==== Sys2Proof/Machine/Step.lean ====
section
/-! DEFINITION. One step of the machine, and the placing of one instruction where step fetches next. -/

namespace Sys2Proof.Machine

/-- One step: the agenda's next event, or an issue, or an internal event that is due (Machine/Schedule.lean). -/
def step (s : State) : Host.Outcome State Fault Refusal := runStep exec s

/-- s with one instruction stored where step fetches its next instruction (Machine/Place.lean; log entry 18, DEDUCED). -/
def State.withFetchWord (s : State) (nbits w : Nat) : State := placeWords s nbits w

end Sys2Proof.Machine
end

