-- ==== Sys2Proof/Safety.lean ====
section
/-! DEFINITION. What statements about the machine are made of: a safe run, a word that may issue, what its issue leaves, and the
invariant that every step keeps. Faults of the hardware are next states of the machine (R370, R374), so a run of the machine
that stops has left the model. -/

namespace Sys2Proof.Machine

/-- Rows that no word encodes: the events of the hardware and of the host, and the word of an unassigned major (R48). -/
def wordless : Instr → Bool
  | .variableLatencyResult => true
  | .fenceCompletion => true
  | .fenceRollback => true
  | .tileEnginePass => true
  | .queueUnblock => true
  | .monitorWake => true
  | .waitmTimeout => true
  | .barrierRelease => true
  | .clusterDeparture => true
  | .extendedSetLending => true
  | .agedIssue => true
  | .yieldExpiry => true
  | .binTimerExpiry => true
  | .spawnedGroupStart => true
  | .watchdogFault => true
  | .queueDeadlock => true
  | .copyOrConvert => true
  | .expand => true
  | .gather => true
  | .scatter => true
  | .scatterAdd => true
  | .allReduce => true
  | .reduceScatter => true
  | .allGather => true
  | .broadcast => true
  | .linkError => true
  | .thresherInputTake => true
  | .thresherStepLimit => true
  | .submit => true
  | .psubmit => true
  | .admission => true
  | .dispatchStep => true
  | .teamRetirement => true
  | .launchRetirement => true
  | .preemptChosen => true
  | .preemptSave => true
  | .preemptDrain => true
  | .preemptFlush => true
  | .preresume => true
  | .atsInvalidationRequest => true
  | .leaseRegrant => true
  | .xlinv => true
  | .patch => true
  | .ctxstateActivate => true
  | .ctxstateFree => true
  | .commWrite => true
  | .rangeRegisterWrite => true
  | .substatClear => true
  | .mgerrClear => true
  | .errcntClear => true
  | .registerWrite => true
  | .firmwareInstall => true
  | .fuseRaise => true
  | .attestationReport => true
  | .certificateChain => true
  | .checkpoint => true
  | .checkpointRestore => true
  | .bar4Access => true
  | .powerOn => true
  | .timingErrorReplay => true
  | .correctedError => true
  | .uncorrectableError => true
  | .scrub => true
  | .powerTokenBid => true
  | .droop => true
  | .thermalThrottle => true
  | .thermalShutdown => true
  | .unassignedMajor => true
  | .deviceReset => true
  | _ => false

/-- Words that only the thresher slot executes (R280). -/
def thresherOnly : Instr → Bool
  | .thrGet _ _ => true
  | .thrPeek _ _ => true
  | .thrSkip _ _ => true
  | .thrBfx _ _ _ _ _ => true
  | .thrLut _ _ _ => true
  | .thrTbw _ _ _ => true
  | .thrRefill _ _ => true
  | .thrMovi _ _ => true
  | .thrAdd _ _ _ => true
  | .thrSub _ _ _ => true
  | .thrAnd _ _ _ => true
  | .thrOr _ _ _ => true
  | .thrXor _ _ _ => true
  | .thrShl _ _ _ => true
  | .thrShr _ _ _ => true
  | .thrSar _ _ _ => true
  | .thrEmit _ _ => true
  | .thrCopy _ _ => true
  | .thrBr _ _ _ => true
  | .thrHalt => true
  | _ => false

/-- The hint words (R45). -/
def hintWord : Instr → Bool
  | .hnop => true
  | .limm _ => true
  | .rnd _ => true
  | .sat => true
  | .guard _ _ => true
  | .bpri _ _ => true
  | .placement => true
  | _ => false

/-- A target of BPRI (R45, R295). -/
def takesBpri : Instr → Bool
  | .bra _ => true
  | .brp _ _ _ => true
  | .call _ => true
  | .jmp _ => true
  | .calli _ => true
  | _ => false

/-- A word with a saturating form, as the instruction entries give it (R45, R113, R115, R117, R118, R131, R132). -/
def takesSat : Instr → Bool
  | .iadd _ _ _ => true
  | .isub _ _ _ => true
  | .imul _ _ _ => true
  | .imad _ _ _ => true
  | .iadd64 _ _ _ => true
  | .isub64 _ _ _ => true
  | .iaddi _ _ _ => true
  | .ineg _ _ => true
  | .iabs _ _ => true
  | .uadd _ _ _ => true
  | .usub _ _ _ => true
  | .uadd64 _ _ _ => true
  | .usub64 _ _ _ => true
  | .uaddi _ _ => true
  | _ => false

/-- A word that rounds (R45, R75, R81). -/
def takesRnd : Instr → Bool
  | .laddLn8 _ _ _ => true
  | .laddLn16 _ _ _ => true
  | .laddLn32 _ _ _ => true
  | .lsubLn8 _ _ _ => true
  | .lsubLn16 _ _ _ => true
  | .lsubLn32 _ _ _ => true
  | .lmadLn8 _ _ _ => true
  | .lmadLn16 _ _ _ => true
  | .lmadLn32 _ _ _ => true
  | .lpowLn32 _ _ _ => true
  | .lsqrt _ _ _ => true
  | .lrsqrt _ _ _ => true
  | .lexp2 _ _ _ => true
  | .llog2 _ _ _ => true
  | .lexp _ _ _ => true
  | .lsint _ _ _ => true
  | .lcost _ _ _ => true
  | .lcvtLn8 _ _ _ => true
  | .lcvtLn16 _ _ _ => true
  | .lcvtLn32 _ _ _ => true
  | .lfix _ _ _ _ _ => true
  | .lflt _ _ _ _ _ => true
  | .fcvtToLn _ _ _ _ => true
  | .fcvtToIeee _ _ _ _ => true
  | .lmma _ _ _ _ _ _ => true
  | .lmms _ _ _ _ _ _ _ => true
  | _ => false

/-- A word whose immediate, offset or fields a LIMM extends: the I, W, M and A formats, PREF, and LMMA of LB8 and LMMS (R46, R176, R177,
R243). -/
def takesLimm : Instr → Bool
  | .iaddi _ _ _ => true
  | .andi _ _ _ => true
  | .ori _ _ _ => true
  | .shli _ _ _ => true
  | .shri _ _ _ => true
  | .sari _ _ _ => true
  | .movi _ _ => true
  | .umovi _ _ => true
  | .uaddi _ _ => true
  | .ldgUniformVector _ _ _ _ => true
  | .ldgUniform _ _ _ => true
  | .ldgVector _ _ _ => true
  | .stgUniformVector _ _ _ _ => true
  | .stgUniform _ _ _ => true
  | .stgVector _ _ _ => true
  | .ldhVector _ _ _ _ => true
  | .ldhOffset _ _ _ => true
  | .sthVector _ _ _ _ => true
  | .sthOffset _ _ _ => true
  | .waitmUniformVector _ _ _ _ => true
  | .waitmUniform _ _ _ => true
  | .waitmVector _ _ _ => true
  | .atom _ _ _ _ => true
  | .red _ _ _ _ => true
  | .pref _ _ _ => true
  | .vspl _ _ _ => true
  | .vfil _ _ _ => true
  | .lmms _ _ _ _ _ _ _ => true
  | .lmma _ _ _ f _ _ => f == 1
  | _ => false

/-- k steps from s that all give a next state. -/
def safeFor : Nat → State → Prop
  | 0, _ => True
  | k + 1, s => ∃ t, step s = .next t ∧ safeFor k t

/-- The memories of the module and of the peers are in their one canonical form (log entry 4, DESIGN CHOICE). -/
def Canonical (s : State) : Prop := s.memory.wf = true ∧ smCanonical (0 : Byte) s.peers = true

/-- x is the issue of the machine's issuing slot. Its group has no incomplete fence (R215) and no register with an
uncorrectable error (R394), and under a switch marker no ATOM flags to make visible (R233). -/
structure Issues (s : State) (x : Issue) : Prop where
  issuer : s.issuer = some (x.core, x.slot)
  issue : issueOf s x.core x.slot = some x
  fence : x.e.g.fence = none
  soft : x.e.g.soft = []
  bad : x.e.g.bad = []
  held : s.fetched.getLsbD 31 = true → x.e.g.heldFlags = []

/-- The hints of the run are hints that the target takes: a LIMM with no bit outside the given ones, RND, SAT and BPRI
(R45, R46). -/
structure Hinted (x : Issue) (limm : Option (BitVec 20)) (rnd sat bpri : Bool) : Prop where
  limm : ∀ p, x.run.limm = some p → ∃ k, limm = some k ∧ p &&& ~~~k = 0
  rnd : x.run.rnd ≠ none → rnd = true
  sat : x.run.sat = true → sat = true
  bpri : x.run.bpri ≠ none → bpri = true

/-- As Issues, for a group that stands past an incomplete fence whose set names T, with the window w that still takes words: fewer than
32 have issued, the fence has rolled back fewer than four times, and no held access has been performed (R216, R217). -/
structure IssuesPast (s : State) (x : Issue) (w : FenceWin) : Prop where
  issuer : s.issuer = some (x.core, x.slot)
  issue : issueOf s x.core x.slot = some x
  fence : x.e.g.fence = some w
  soft : x.e.g.soft = []
  bad : x.e.g.bad = []
  held : s.fetched.getLsbD 31 = true → x.e.g.heldFlags = []
  room : w.issued < 32 ∧ w.rollbacks < 4
  open_ : w.completing = false

/-- The registers may be named: inside their class and the declared counts, the lock held for an extended one, none pending,
none a tracked token (R13, R14, R19, R38, R39). -/
def Usable (x : Issue) (rs : List RegRef) : Prop :=
  ∀ r ∈ rs, x.e.regBad r = false ∧ r ∉ x.arch.pending ∧ ∀ t ∈ x.e.g.tokens, r ≠ .s t.reg

/-- No flag of the list is enabled to trap (R86). -/
def Untrapped (x : Issue) (fs : List (Nat × BitVec 9)) : Prop := ∀ f ∈ fs, f.2 &&& trapEnables x.amr = 0

/-- The word of x carries the switch marker (R42). -/
def State.marked (s : State) : Bool := s.fetched.getLsbD 31

/-- The machine after the issue x: the machine is t but for the issuing group, which is g with the issuing entry replaced by
the successors of its lanes (R295, R296, R298); a marked word parks the group while results are outstanding and empties the
pending set otherwise (R39, R42). -/
def Issue.closes (x : Issue) (s t : State) (g : Group) (succs : List Succ) : State :=
  let fr := insertSuccs x.entry.guard g.arch.others succs
  let quiet := g.outstanding.isEmpty
  t.setGroup { g with
    arch := { g.arch with
      frontier := fr
      aging := agingAfter g.arch fr
      aged := false
      run := {}
      pending := if s.marked && quiet then [] else g.arch.pending }
    wait := if s.marked && !quiet then .parked x.entry.pc s.fetched x.entry.mask else g.wait }

/-- As closes, where the word changes nothing but the registers of its group, which are those of a: everything outside the
group, and everything of the group but registers, frontier, run, pending set and wait, is as before. -/
def Issue.leaves (x : Issue) (s : State) (a : Arch) (succs : List Succ) : State := x.closes s s { x.e.g with arch := a } succs

/-- The successors of a word that is no control word: the lanes go on behind it (R295). -/
def Issue.onward (x : Issue) : List Succ := [{ prio := x.entry.prio, pc := x.arch.wordPc x.entry + 4, mask := x.entry.mask }]

/-- exec of i answers a next state: the registers are those of a, and the lanes go on behind the word. -/
def Completes (i : Instr) (s : State) (x : Issue) (a : Arch) : Prop := exec i s = .next (x.leaves s a x.onward)

/-- exec of i answers the machine t with the group g, after flags fs of which none is enabled to trap: they join fl of their
lanes (R84), and mode 4 counts in SSEQ where the word rounds (R77). -/
def CompletesWith (i : Instr) (s : State) (x : Issue) (t : State) (fs : List (Nat × BitVec 9)) (rounds : Bool) (g : Group) : Prop :=
  Untrapped x fs →
    let a := g.arch.orFlags fs
    exec i s = .next (x.closes s t { g with arch := if rounds && x.mode = 4 then { a with sseq := a.sseq + 1 } else a } x.onward)

/-- As Completes, for a word that raises flags. -/
def CompletesFlags (i : Instr) (s : State) (x : Issue) (rounds : Bool) (r : Arch × List (Nat × BitVec 9)) : Prop :=
  CompletesWith i s x s r.2 rounds { x.e.g with arch := r.1 }

/-- As Completes, for a word that changes its group as a whole. -/
def CompletesGroup (i : Instr) (s : State) (x : Issue) (g : Group) : Prop := exec i s = .next (x.closes s s g x.onward)

/-- The machine after a word with which the group of x leaves its handler (R376): s56 to s63 hold the shadow again with the
errors of its values (R394), the frontier is fr, no run is open, and a marked word parks the group or empties its pending set. -/
def Issue.leavesHandler (x : Issue) (s : State) (h : Handler) (fr : List Entry) : State :=
  let regs := (h.shadow.zip (List.range 8)).foldl (fun a w => a.setS (56 + w.2) w.1) x.arch
  let quiet := x.e.g.outstanding.isEmpty
  s.setGroup { x.e.g with
    arch := { regs with
      frontier := fr
      aging := 0
      aged := false
      run := {}
      pending := if s.marked && quiet then [] else x.arch.pending }
    handler := none
    bad := h.bad
    wait := if s.marked && !quiet then .parked x.entry.pc s.fetched x.entry.mask else x.e.g.wait
    waitWord := s.fetched }

/-- The fault of the word of x as the group takes it (R371, R372): class, code, lanes, address, whether the word took effect, and
where the lanes go on. -/
def Issue.trap (x : Issue) (s : State) (cls code : Nat) (took : Bool) (resume : BitVec 32) : Trap :=
  { cls := cls, code := code, pc := x.entry.pc, word := s.fetched, took := took, resume := some resume, entry := x.entry.mask }

/-- The record of a fault of the word of x (R372): flags bit 0 says resumable, bit 1 that the handler takes it, bit 4 that the
word took effect. -/
def Issue.faultRecord (x : Issue) (f : Trap) (flags : Nat) : Record :=
  { cls := f.cls, flags := flags, code := f.code, ctx := x.e.l.ctx, slot := x.e.g.slot, core := x.e.g.core, key := x.e.key,
    pc := f.pc, word := f.word, mask := f.mask, addr := f.addr, index := x.e.g.index, addrs := f.addrs }

/-- The group of x in its trap handler after the fault f (R374, R375): s56 to s63 hold the trap state and their old values are in
the shadow; the lanes of the issuing entry stand at the handler with priority 0 and no guard, e is their suspended entry, and the
rest of the frontier is frozen. -/
def Issue.inHandler (x : Issue) (f : Trap) (flags : Nat) (e : Entry) : Group :=
  let a := x.arch.orFlags x.e.g.heldFlags
  let regs := (((((((a.setS 56 (BitVec.ofNat 32 (f.cls + flags * 2 ^ 8 + f.code * 2 ^ 16))).setS 57 f.word).setS 58 f.pc).setS 59
    (f.resume.getD e.pc)).setS 60 (f.mask.extractLsb' 0 32)).setS 61 (f.mask.extractLsb' 32 32)).setS 62
    (f.addr.extractLsb' 0 32)).setS 63 (f.addr.extractLsb' 32 32)
  { x.e.g with
    arch := { regs with
      frontier := [{ prio := 0, pc := x.e.l.kh.trap, mask := e.mask &&& x.entry.mask, guard := 63 }]
      aging := 0
      aged := false
      run := {}
      pending := [] }
    heldFlags := []
    handler := some
      { suspended := { e with mask := e.mask &&& x.entry.mask }
        frozen := (x.arch.frontier.map (fun y => if y.key = e.key then { y with mask := y.mask &&& ~~~x.entry.mask } else y)).filter
          (fun y => y.mask != 0)
        shadow := (List.range 8).map (fun k => x.arch.getS (56 + k)) }
    wait := .none }

/-- The group of x has a trap handler to enter and nothing to wait for: no result is outstanding, the launch does not log or
replay, and e is the first frontier entry with a lane of the issuing one (R370, R374). -/
structure MayTrap (x : Issue) (e : Entry) : Prop where
  mode : x.e.l.lh.mode = 0
  quiet : x.e.g.outstanding = []
  entry : x.arch.frontier.find? (fun y => y.mask &&& x.entry.mask != 0) = some e
  outside : x.e.g.handler = none
  handler : x.e.l.kh.trap ≠ 0xFFFFFFFF

/-- The machine after the group of x took the fault f into its handler: the record is written, the group is in the handler. -/
def Issue.entersHandler (x : Issue) (s : State) (f : Trap) (e : Entry) : State :=
  let flags := if f.took then 19 else 3
  (writeRecord s x.e.l (x.faultRecord f flags) false).setGroup (x.inHandler f flags e)

/-- The group g, waiting at a word of its entry n, after that word completes (R254, R303, R332): its lanes go on behind the word,
and a switch marker empties the pending set. -/
def Group.goesOn (g : Group) (n : Entry) : Group :=
  let fr := insertSuccs n.guard g.arch.others [{ prio := n.prio, pc := g.arch.wordPc n + 4, mask := n.mask }]
  { g with
    arch := { g.arch with
      frontier := fr
      aging := agingAfter g.arch fr
      aged := false
      run := {}
      pending := if g.waitWord.getLsbD 31 then [] else g.arch.pending }
    wait := .none }

/-- A group that waits at a word of its entry n with nothing for the word's marker to wait for or make visible. -/
structure WaitsAt (g : Group) (n : Entry) : Prop where
  entry : g.arch.issuing = some n
  quiet : g.waitWord.getLsbD 31 = true → g.outstanding = [] ∧ g.heldFlags = []

/-- es are the undrained RED entries of the group of x in the order of R220 within a group, lane before issue, and nothing keeps them
from being drained at once: no batch waits, and with entries the launch's determinism is off and the group is not asleep. -/
structure DrainsAs (x : Issue) (es : List RedEntry) : Prop where
  batch : x.e.g.batch = []
  same : es.Perm x.e.g.reds
  order : es.Pairwise (fun e f => e.lane < f.lane ∨ e.lane = f.lane ∧ e.issue < f.issue)
  count : ∀ e ∈ es, e.issue < 4294967296
  free : es ≠ [] → x.e.l.lh.mode = 0 ∧ x.e.g.wait = .none

/-- The group of x with no undrained RED entry and its whole quota of REDs (R235). -/
def Issue.emptied (x : Issue) : Group := { x.e.g with reds := [], redQuota := 0 }

/-- The machine after the entries es of the group of x have been drained, one after the other (R220, R236). -/
def Issue.drained (x : Issue) (s : State) (es : List RedEntry) : State :=
  es.foldl (fun t e => performRed t x.amr e) (s.setGroup x.emptied)

/-- The checks of R227 pass for n bytes in every active lane, and place gives where its bytes are. -/
def Reaches (s : State) (x : Issue) (k : AccessKind) (op : Nat) (waits : Bool) (n : Nat) (addr : Nat → LaneAddr) (place : Nat → Place) : Prop :=
  ∀ i, i < 64 → x.active.getLsbD i = true → checkLane s x k op waits n (addr i) = .ok (place i)

/-- The active lanes of x that fail a check of R227, ascending, each with its class and address. -/
def Issue.failures (x : Issue) (s : State) (k : AccessKind) (op n : Nat) (addr : Nat → LaneAddr) : List (Nat × Nat × BitVec 64) :=
  (laneList x.active).filterMap (fun i => match checkLane s x k op false n (addr i) with
    | .error c => some (i, c, (addr i).coded)
    | .ok _ => none)

/-- The active lanes of x that pass the checks of R227, ascending, each with its place. -/
def Issue.passes (x : Issue) (s : State) (k : AccessKind) (op n : Nat) (addr : Nat → LaneAddr) : List (Nat × Place) :=
  (laneList x.active).filterMap (fun i => match checkLane s x k op false n (addr i) with
    | .ok p => some (i, p)
    | .error _ => none)

/-- The one fault of a word whose lanes fail checks, of class c (R227, R371, R372): the lanes that raised that class, the address of the
lowest of them, all failing lanes; took says that another lane completed, so that the group goes on behind the word. -/
def Issue.laneTrap (x : Issue) (s : State) (c : Nat) (fails : List (Nat × Nat × BitVec 64)) (took : Bool) : Trap :=
  let own := fails.filter (fun f => f.2.1 == c)
  { x.trap s c (if c = 17 then 1 else 0) took (if took then x.arch.wordPc x.entry + 4 else x.entry.pc) with
    mask := maskOf (own.map (·.1)), addr := (own.head?.map (·.2.2)).getD 0, addrs := fails }

/-- An exact result clamped to the signed range of 32 bits (R113). -/
def clamp32 (z : Int) : Word := BitVec.ofInt 32 (max (-2147483648) (min 2147483647 z))

/-- An exact result clamped to the signed range of 64 bits (R113). -/
def clamp64 (z : Int) : BitVec 64 := BitVec.ofInt 64 (max (-9223372036854775808) (min 9223372036854775807 z))

end Sys2Proof.Machine
end

