-- ==== Sys2Proof/Certificates/Slice0/Obligations.lean ====
section
/-! DEFINITION. The statements for the provers, in the order of OBLIGATIONS.json. -/

open Sys2Proof Sys2Proof.Machine

/-! ### Integer instructions (spec/05_integer_instr.md) -/

/-- R113, R114: every active lane of vd receives the result of its row, the clamped exact result under SAT where the row takes
SAT; inactive lanes, every other register, fl and all of memory stay. -/
def Obligations.IntegerVectorResults : Prop :=
  ∀ (s : State) (x : Issue) (d a b : BitVec 8), Issues s x → Usable x [vN d, vN a, vN b] →
    let A := x.arch.getV a.toNat
    let B := x.arch.getV b.toNat
    let D := x.arch.getV d.toNat
    let writes := fun f : Nat → Word => setActive x d.toNat f x.arch
    let sat := x.run.sat
    (Hinted x none false true false →
      Completes (.iadd d a b) s x (writes fun i => if sat then clamp32 ((A i).toInt + (B i).toInt) else A i + B i)
      ∧ Completes (.isub d a b) s x (writes fun i => if sat then clamp32 ((A i).toInt - (B i).toInt) else A i - B i)
      ∧ Completes (.imul d a b) s x (writes fun i => if sat then clamp32 ((A i).toInt * (B i).toInt) else A i * B i)
      ∧ Completes (.imad d a b) s x (writes fun i =>
          if sat then clamp32 ((D i).toInt + (A i).toInt * (B i).toInt) else D i + A i * B i))
    ∧ (Hinted x none false false false →
      Completes (.imulhS32 d a b) s x (writes fun i => ((A i).signExtend 64 * (B i).signExtend 64).extractLsb' 32 32)
      ∧ Completes (.imulhN32 d a b) s x (writes fun i => ((A i).setWidth 64 * (B i).setWidth 64).extractLsb' 32 32)
      ∧ Completes (.iminS32 d a b) s x (writes fun i => if (A i).slt (B i) then A i else B i)
      ∧ Completes (.imaxS32 d a b) s x (writes fun i => if (A i).slt (B i) then B i else A i)
      ∧ Completes (.iminN32 d a b) s x (writes fun i => if (A i).ult (B i) then A i else B i)
      ∧ Completes (.imaxN32 d a b) s x (writes fun i => if (A i).ult (B i) then B i else A i)
      ∧ Completes (.and d a b) s x (writes fun i => A i &&& B i)
      ∧ Completes (.or d a b) s x (writes fun i => A i ||| B i)
      ∧ Completes (.xor d a b) s x (writes fun i => A i ^^^ B i)
      ∧ Completes (.shl d a b) s x (writes fun i => A i <<< (B i).toNat)
      ∧ Completes (.shr d a b) s x (writes fun i => A i >>> (B i).toNat)
      ∧ Completes (.sar d a b) s x (writes fun i => (A i).sshiftRight (B i).toNat))

/-- R115, R116: the 64-bit sum and difference of even pairs, and the field instructions, whose control word is vb[i]; where the
code object does not list erratum 258 (R366). -/
def Obligations.IntegerPairAndFieldResults : Prop :=
  ∀ (s : State) (x : Issue) (d a b : BitVec 8), Issues s x →
    (Usable x (vPair d ++ vPair a ++ vPair b) → d.getLsbD 0 = false → a.getLsbD 0 = false → b.getLsbD 0 = false →
      Hinted x none false true false →
      let A := x.arch.getV64 a.toNat
      let B := x.arch.getV64 b.toNat
      Completes (.iadd64 d a b) s x (setActive64 x d.toNat (fun i =>
          if x.run.sat then clamp64 ((A i).toInt + (B i).toInt) else A i + B i) x.arch)
      ∧ Completes (.isub64 d a b) s x (setActive64 x d.toNat (fun i =>
          if x.run.sat then clamp64 ((A i).toInt - (B i).toInt) else A i - B i) x.arch))
    ∧ (Usable x [vN d, vN a, vN b] → Hinted x none false false false →
      let A := x.arch.getV a.toNat
      let D := x.arch.getV d.toNat
      let pos := fun i => (x.arch.getV b.toNat i).toNat % 256
      let wid := fun i => min ((x.arch.getV b.toNat i).toNat / 256 % 256) 32
      (258 ∉ x.e.l.kh.errata → Completes (.bfeS32 d a b) s x (setActive x d.toNat (fun i =>
          let f := (A i).toInt / 2 ^ pos i % 2 ^ wid i
          if wid i = 0 then 0 else if f < 2 ^ (wid i - 1) then BitVec.ofInt 32 f else BitVec.ofInt 32 (f - 2 ^ wid i)) x.arch))
      ∧ Completes (.bfeN32 d a b) s x (setActive x d.toNat (fun i =>
          BitVec.ofNat 32 ((A i).toNat / 2 ^ pos i % 2 ^ wid i)) x.arch)
      ∧ Completes (.bfi d a b) s x (setActive x d.toNat (fun i =>
          let m : Word := BitVec.ofNat 32 ((2 ^ wid i - 1) * 2 ^ pos i)
          (D i &&& ~~~m) ||| (A i <<< pos i &&& m)) x.arch))

/-- R117, R118, R119: the immediate, unary and move instructions; the immediate is that of R46. -/
def Obligations.ImmediateUnaryMoveResults : Prop :=
  ∀ (s : State) (x : Issue) (d a i8 : BitVec 8) (i16 : BitVec 16), Issues s x →
    let A := x.arch.getV a.toNat
    let D := x.arch.getV d.toNat
    let writes := fun f : Nat → Word => setActive x d.toNat f x.arch
    let signed : Word := match x.run.limm with
      | none => i8.signExtend 32
      | some p => (p ++ i8).signExtend 32
    let plain : Word := match x.run.limm with
      | none => i8.setWidth 32
      | some p => (p ++ i8).setWidth 32
    let wide : Word := match x.run.limm with
      | none => i16.signExtend 32
      | some p => p.setWidth 16 ++ i16
    (Usable x [vN d, vN a] →
      (Hinted x (some 0xFFFFF) false true false → Completes (.iaddi d a i8) s x (writes fun i =>
          if x.run.sat then clamp32 ((A i).toInt + signed.toInt) else A i + signed))
      ∧ (Hinted x (some 0xFFFFF) false false false →
        Completes (.andi d a i8) s x (writes fun i => A i &&& signed)
        ∧ Completes (.ori d a i8) s x (writes fun i => A i ||| signed)
        ∧ Completes (.shli d a i8) s x (writes fun i => A i <<< plain.toNat)
        ∧ Completes (.shri d a i8) s x (writes fun i => A i >>> plain.toNat)
        ∧ Completes (.sari d a i8) s x (writes fun i => (A i).sshiftRight plain.toNat))
      ∧ (Hinted x none false true false →
        Completes (.ineg d a) s x (writes fun i => if x.run.sat then clamp32 (-(A i).toInt) else -(A i))
        ∧ Completes (.iabs d a) s x (writes fun i =>
          if x.run.sat then clamp32 (A i).toInt.natAbs else if (A i).slt 0 then -(A i) else A i))
      ∧ (Hinted x none false false false →
        Completes (.mov d a) s x (writes A)
        ∧ Completes (.not d a) s x (writes fun i => ~~~(A i))
        ∧ Completes (.popc d a) s x (writes fun i => BitVec.ofNat 32 ((List.range 32).countP (fun k => (A i).getLsbD k)))
        ∧ Completes (.clz d a) s x (writes fun i => (A i).clz)
        ∧ Completes (.brev d a) s x (writes fun i => (A i).reverse)
        ∧ Completes (.sextS8 d a) s x (writes fun i => ((A i).extractLsb' 0 8).signExtend 32)
        ∧ Completes (.sextS16 d a) s x (writes fun i => ((A i).extractLsb' 0 16).signExtend 32)
        ∧ Completes (.zextN8 d a) s x (writes fun i => A i &&& 0xFF)
        ∧ Completes (.zextN16 d a) s x (writes fun i => A i &&& 0xFFFF)))
    ∧ (Usable x (vPair d ++ vPair a) → d.getLsbD 0 = false → a.getLsbD 0 = false → Hinted x none false false false →
        Completes (.mov64 d a) s x (setActive64 x d.toNat (x.arch.getV64 a.toNat) x.arch))
    ∧ (Usable x [vN d] →
      (Hinted x (some 0xFFFF) false false false → Completes (.movi d i16) s x (writes fun _ => wide))
      ∧ (Hinted x none false false false → Completes (.movhi d i16) s x (writes fun i => i16 ++ (D i).extractLsb' 0 16)))

/-- R120, R121, R122: predicates are written in active lanes only. R124: what a vote writes, in terms of the active lanes whose
predicate is 1. -/
def Obligations.PredicateAndVoteResults : Prop :=
  (∀ (s : State) (x : Issue) (c : BitVec 2) (t : BitVec 4) (p q r : BitVec 6) (a b : BitVec 8), Issues s x →
      Hinted x none false false false →
      let A := x.arch.getV a.toNat
      let B := x.arch.getV b.toNat
      let P := fun n : BitVec 6 => x.arch.getP n.toNat
      (Usable x [pN p, vN a, vN b] →
        Completes (.icmpS32 c p a b) s x (setActiveP x p.toNat (fun i =>
            if c = 0 then A i == B i else if c = 1 then A i != B i else if c = 2 then (A i).slt (B i) else (A i).sle (B i)) x.arch)
        ∧ Completes (.icmpN32 c p a b) s x (setActiveP x p.toNat (fun i =>
            if c = 0 then A i == B i else if c = 1 then A i != B i else if c = 2 then (A i).ult (B i) else (A i).ule (B i)) x.arch))
      ∧ (Usable x [pN p, pN q, pN r] → Completes (.plog p q r t) s x (setActiveP x p.toNat (fun i =>
            t.getLsbD (2 * ((P q).getLsbD i).toNat + ((P r).getLsbD i).toNat)) x.arch))
      ∧ (Usable x [vN a, pN p] → Completes (.pmvVp a p) s x (setActive x a.toNat (fun i => if (P p).getLsbD i then 1 else 0) x.arch))
      ∧ (Usable x [pN p, vN a] → Completes (.pmvPv p a) s x (setActiveP x p.toNat (fun i => A i != 0) x.arch))
      ∧ (Usable x (pN p :: sPair q) → q.getLsbD 0 = false →
          Completes (.pmvSp q p) s x (x.arch.setS64 q.toNat (P p))
          ∧ Completes (.pmvPs p q) s x (setActiveP x p.toNat (fun i => (x.arch.getS64 q.toNat).getLsbD i) x.arch)))
  ∧ (∀ (s : State) (x : Issue) (d a : BitVec 6), Issues s x → Hinted x none false false false →
      let ballot : LaneMask := x.active &&& x.arch.getP a.toNat
      (Usable x (pN a :: sPair d) → d.getLsbD 0 = false → Completes (.voteBallot d a) s x (x.arch.setS64 d.toNat ballot))
      ∧ (Usable x [pN a, pN d] →
          Completes (.voteAny d a) s x (setActiveP x d.toNat (fun _ => ballot != 0) x.arch)
          ∧ Completes (.voteAll d a) s x (setActiveP x d.toNat (fun _ => ballot == x.active) x.arch)
          ∧ Completes (.voteUni d a) s x (setActiveP x d.toNat (fun _ => ballot == 0 || ballot == x.active) x.arch))
      ∧ (Usable x (sPair d) → d.getLsbD 0 = false → Completes (.voteActive d) s x (x.arch.setS64 d.toNat x.active))
      ∧ (Usable x [pN a, sN d] → Completes (.voteCount d a) s x (x.arch.setS d.toNat
          (BitVec.ofNat 32 ((List.range 64).countP (fun i => ballot.getLsbD i))))))

/-- R125, R126: a source lane outside 0 to 63 gives the lane's own value, where the code object does not list erratum 514
(R366); an inactive source lane supplies its value; a match compares active lanes. -/
def Obligations.ShuffleMatchResults : Prop :=
  ∀ (s : State) (x : Issue) (d a b : BitVec 8) (n : BitVec 6), Issues s x → Hinted x none false false false →
    let A := x.arch.getV a.toNat
    let writes := fun f : Nat → Word => setActive x d.toNat f x.arch
    (Usable x [vN d, vN a, vN b] → Completes (.shflv d a b) s x (writes fun i => A ((x.arch.getV b.toNat i).extractLsb' 0 6).toNat))
    ∧ (Usable x [vN d, vN a] →
        Completes (.shflIdx d a n) s x (writes fun _ => A n.toNat)
        ∧ (514 ∉ x.e.l.kh.errata → Completes (.shflUp d a n) s x (writes fun i => if n.toNat ≤ i then A (i - n.toNat) else A i))
        ∧ Completes (.shflDown d a n) s x (writes fun i => if i + n.toNat < 64 then A (i + n.toNat) else A i)
        ∧ Completes (.shflXor d a n) s x (writes fun i => if i < 64 then A (i ^^^ n.toNat) else A i))
    ∧ (Usable x (vPair d ++ [vN a]) → d.getLsbD 0 = false → Completes (.matchB32 d a) s x (setActive64 x d.toNat (fun i =>
        activeWhere x (fun j => A j == A i)) x.arch))
    ∧ (Usable x (vPair d ++ vPair a) → d.getLsbD 0 = false → a.getLsbD 0 = false →
        Completes (.matchB64 d a) s x (setActive64 x d.toNat (fun i =>
          activeWhere x (fun j => x.arch.getV64 a.toNat j == x.arch.getV64 a.toNat i)) x.arch))

/-- R130, R131, R132: a uniform destination is written once, whatever the active lanes. -/
def Obligations.UniformResults : Prop :=
  ∀ (s : State) (x : Issue) (d a b : BitVec 6) (v : BitVec 8) (n : BitVec 6) (i16 : BitVec 16), Issues s x →
    let A := x.arch.getS a.toNat
    let B := x.arch.getS b.toNat
    let D := x.arch.getS d.toNat
    let A2 := x.arch.getS64 a.toNat
    let B2 := x.arch.getS64 b.toNat
    let writes := fun z : Word => x.arch.setS d.toNat z
    let bit := fun c : Bool => x.arch.setS d.toNat (if c then 1 else 0)
    let wide : Word := match x.run.limm with
      | none => i16.signExtend 32
      | some p => p.setWidth 16 ++ i16
    let sat := x.run.sat
    (Usable x [sN d, sN a, sN b] →
      (Hinted x none false true false →
        Completes (.uadd d a b) s x (writes (if sat then clamp32 (A.toInt + B.toInt) else A + B))
        ∧ Completes (.usub d a b) s x (writes (if sat then clamp32 (A.toInt - B.toInt) else A - B)))
      ∧ (Hinted x none false false false →
        Completes (.umul d a b) s x (writes (A * B))
        ∧ Completes (.umulhS32 d a b) s x (writes ((A.signExtend 64 * B.signExtend 64).extractLsb' 32 32))
        ∧ Completes (.umulhN32 d a b) s x (writes ((A.setWidth 64 * B.setWidth 64).extractLsb' 32 32))
        ∧ Completes (.uand d a b) s x (writes (A &&& B))
        ∧ Completes (.uor d a b) s x (writes (A ||| B))
        ∧ Completes (.uxor d a b) s x (writes (A ^^^ B))
        ∧ Completes (.ushl d a b) s x (writes (A <<< B.toNat))
        ∧ Completes (.ushr d a b) s x (writes (A >>> B.toNat))
        ∧ Completes (.usar d a b) s x (writes (A.sshiftRight B.toNat))
        ∧ Completes (.uminS32 d a b) s x (writes (if A.slt B then A else B))
        ∧ Completes (.umaxS32 d a b) s x (writes (if A.slt B then B else A))
        ∧ Completes (.uminN32 d a b) s x (writes (if A.ult B then A else B))
        ∧ Completes (.umaxN32 d a b) s x (writes (if A.ult B then B else A))
        ∧ Completes (.usetEq d a b) s x (bit (A == B))
        ∧ Completes (.usetNe d a b) s x (bit (A != B))
        ∧ Completes (.usetLtS32 d a b) s x (bit (A.slt B))
        ∧ Completes (.usetLeS32 d a b) s x (bit (A.sle B))
        ∧ Completes (.usetLtN32 d a b) s x (bit (A.ult B))
        ∧ Completes (.usetLeN32 d a b) s x (bit (A.ule B))))
    ∧ (Usable x [sN d, sN a] → Hinted x none false false false →
        Completes (.umov d a) s x (writes A)
        ∧ Completes (.unot d a) s x (writes (~~~A))
        ∧ Completes (.upopc d a) s x (writes (BitVec.ofNat 32 ((List.range 32).countP (fun k => A.getLsbD k))))
        ∧ Completes (.uclz d a) s x (writes A.clz))
    ∧ (Usable x (sPair d ++ sPair a ++ sPair b) → d.getLsbD 0 = false → a.getLsbD 0 = false → b.getLsbD 0 = false →
        Hinted x none false true false →
        Completes (.uadd64 d a b) s x (x.arch.setS64 d.toNat (if sat then clamp64 (A2.toInt + B2.toInt) else A2 + B2))
        ∧ Completes (.usub64 d a b) s x (x.arch.setS64 d.toNat (if sat then clamp64 (A2.toInt - B2.toInt) else A2 - B2)))
    ∧ (Usable x [sN d] →
        (Hinted x (some 0xFFFF) false false false → Completes (.umovi d i16) s x (writes wide))
        ∧ (Hinted x (some 0xFFFF) false true false →
            Completes (.uaddi d i16) s x (writes (if sat then clamp32 (D.toInt + wide.toInt) else D + wide)))
        ∧ (Hinted x none false false false → Completes (.umovhi d i16) s x (writes (i16 ++ D.extractLsb' 0 16))))
    ∧ (Usable x [vN v, sN a] → Hinted x none false false false →
        Completes (.uvmovVs v a) s x (setActive x v.toNat (fun _ => A) x.arch))
    ∧ (Usable x [sN d, vN v] → Hinted x none false false false →
        Completes (.uvmovSv d v n) s x (writes (x.arch.getV v.toNat n.toNat))
        ∧ Completes (.uvmovFirst d v) s x (writes (match (List.range 64).find? (fun j => x.active.getLsbD j) with
            | some j => x.arch.getV v.toNat j
            | none => 0)))

/-- What the writes of the statements above mean (R7, R109, R110): a write in active lanes gives each of them its value, and
leaves every other lane, every other register and every other class alone. -/
def Obligations.ActiveLanesOnly : Prop :=
  ∀ (x : Issue) (a : Arch) (d : Nat) (f : Nat → Word) (g : Nat → BitVec 64) (q : Nat → Bool) (n i : Nat), i < 64 →
    ((setActive x d f a).getV n i = if n = d ∧ x.active.getLsbD i then f i else a.getV n i)
    ∧ ((setActive64 x d g a).getV n i = if x.active.getLsbD i then
        (if n = d then (g i).extractLsb' 0 32 else if n = d + 1 then (g i).extractLsb' 32 32 else a.getV n i) else a.getV n i)
    ∧ (((setActiveP x d q a).getP n).getLsbD i = if n = d ∧ x.active.getLsbD i then q i else (a.getP n).getLsbD i)
    ∧ (∀ (z : Word), ((a.setS d z).getS n = if n = d then z else a.getS n))
    ∧ (∃ v', setActive x d f a = { a with v := v' }) ∧ (∃ v', setActive64 x d g a = { a with v := v' })
    ∧ (∃ p', setActiveP x d q a = { a with p := p' }) ∧ (∀ (z : Word), ∃ s', a.setS d z = { a with s := s' })

/-- R127, R128, R129: every active lane receives the value of the fixed tree over its set of lanes, or the identity of the
operation where no lane is in the set; the flags of its nodes join its fl. -/
def Obligations.ReductionResults : Prop :=
  ∀ (s : State) (x : Issue) (d a : BitVec 8) (oct : Bool) (k : BitVec 2) (o : BitVec 4), Issues s x → Usable x [vN d, vN a] →
    Hinted x none false false false → k ≠ 3 → o.toNat < 10 → 257 ∉ x.e.l.kh.errata →
    CompletesFlags (.xred d a oct k o) s x false (setActiveFlags x d.toNat (fun i =>
      let inSet := fun j => x.active.getLsbD j && (k == 0 || j < i || (k == 1 && j == i))
      let leaf := fun j => if inSet j then
        some (if o = 8 then x.arch.getV a.toNat j &&& 0xFFFF else x.arch.getV a.toNat j) else none
      let v := laneTree (xredOp x.amr o.toNat) leaf (if oct then 3 else 6) (if oct then 8 * (i / 8) else 0)
      (v.1.getD (xredIdentity o.toNat), v.2)) x.arch)

/-! ### LN instructions (spec/03, 04 and 06) -/

/-- R67, R68: a code that is no NaN is the code of its value, a NaN's value has the canonical code, and the landmark codes of LN16
have the values of the table. R72, R73: the product class on finite values gives the sum, difference, negation or double of the
logs; out of range it overflows with OV or underflows with UN as AMR [3] and [4] choose. R94, R70: the sums that never reach the
tables. R75, R95, R96: every other sum, by its rounding; a sum does not depend on the order of its operands, and x + x is 2x. R97 to
R101, R106: what is read from the tables, and the entries that R97 and R105 print. -/
def Obligations.LnArithmeticRules : Prop :=
  ((∀ (m : LnFmt) (c : Nat), c < 2 ^ m.bits → lnVal m c ≠ .nan → lnCode m (lnVal m c) = c)
    ∧ (∀ (m : LnFmt) (neg : Bool) (l : Int), -(2 ^ (m.log - 1)) ≤ l → l < 2 ^ (m.log - 1) → lnVal m (lnCode m (.fin neg l)) = .fin neg l)
    ∧ lnVal .ln16 0x0000 = .fin false 0 ∧ lnVal .ln16 0x0200 = .fin false 512 ∧ lnVal .ln16 0x3E00 = .fin false (-512)
    ∧ lnVal .ln16 0x4000 = .zero false ∧ lnVal .ln16 0xC000 = .zero true ∧ lnVal .ln16 0x5FFF = .inf false
    ∧ lnCode .ln16 .nan = 0x6000 ∧ lnVal .ln16 0x1FFF = .fin false 8191 ∧ lnVal .ln16 0x2000 = .fin false (-8192))
  ∧ (∀ (m : LnFmt) (k : Rounding) (sa sb : Bool) (la lb : Int),
      let range := fun (neg : Bool) (l : Int) =>
        if 2 ^ (m.log - 1) - 1 < l then (if k.inf then LnVal.inf neg else .fin neg (2 ^ (m.log - 1) - 1), flOV)
        else if l < -(2 ^ (m.log - 1)) then (if k.flush then .zero neg else .fin neg (-(2 ^ (m.log - 1))), flUN)
        else (.fin neg l, 0)
      lnMul m k (.fin sa la) (.fin sb lb) = range (sa != sb) (la + lb)
      ∧ lnDiv m k (.fin sa la) (.fin sb lb) = range (sa != sb) (la - lb)
      ∧ lnRcp m k (.fin sa la) = range sa (-la)
      ∧ lnSqr m k (.fin sa la) = range false (2 * la)
      ∧ lnScale m k lb (.fin sa la) = range sa (la + lb * 2 ^ m.frac)
      ∧ lnMul m k (.zero sa) (.inf sb) = (.nan, flIV) ∧ lnMul m k (.zero sa) (.fin sb lb) = (.zero (sa != sb), 0)
      ∧ lnMul m k (.inf sa) (.fin sb lb) = (.inf (sa != sb), 0)
      ∧ lnDiv m k (.zero sa) (.zero sb) = (.nan, flIV) ∧ lnDiv m k (.inf sa) (.inf sb) = (.nan, flIV)
      ∧ lnDiv m k (.fin sa la) (.zero sb) = (.inf (sa != sb), flDZ) ∧ lnDiv m k (.inf sa) (.zero sb) = (.inf (sa != sb), 0)
      ∧ lnRcp m k (.zero sa) = (.inf sa, flDZ) ∧ lnRcp m k (.inf sa) = (.zero sa, 0))
  ∧ (∀ (m : LnFmt) (k : Rounding) (v : LnVal) (sa sb : Bool) (l : Int), -(2 ^ (m.log - 1)) ≤ l → l < 2 ^ (m.log - 1) →
      lnAdd m k .nan v = (.nan, 0) ∧ lnAdd m k v .nan = (.nan, 0)
      ∧ lnAdd m k (.inf sa) (.inf (!sa)) = (.nan, flIV) ∧ lnAdd m k (.inf sa) (.inf sa) = (.inf sa, 0)
      ∧ lnAdd m k (.inf sa) (.zero sb) = (.inf sa, 0) ∧ lnAdd m k (.zero sb) (.inf sa) = (.inf sa, 0)
      ∧ lnAdd m k (.fin sb l) (.inf sa) = (.inf sa, 0) ∧ lnAdd m k (.inf sa) (.fin sb l) = (.inf sa, 0)
      ∧ lnAdd m k (.zero sa) (.zero sa) = (.zero sa, 0) ∧ lnAdd m k (.zero sa) (.zero (!sa)) = (.zero (k.mode == 3), 0)
      ∧ lnAdd m k (.fin sa l) (.zero sb) = (.fin sa l, 0) ∧ lnAdd m k (.zero sb) (.fin sa l) = (.fin sa l, 0)
      ∧ lnAdd m k (.fin sa l) (.fin (!sa) l) = (.zero (k.mode == 3), 0))
  ∧ (∀ (m : LnFmt) (k : Rounding) (sa sb : Bool) (la lb : Int), k.mode ≤ 4 → -(2 ^ (m.log - 1)) ≤ la → la < 2 ^ (m.log - 1) →
      let range := fun (neg : Bool) (l : Int) =>
        if 2 ^ (m.log - 1) - 1 < l then (if k.inf then LnVal.inf neg else .fin neg (2 ^ (m.log - 1) - 1), flOV)
        else if l < -(2 ^ (m.log - 1)) then (if k.flush then .zero neg else .fin neg (-(2 ^ (m.log - 1))), flUN)
        else (.fin neg l, 0)
      let pack := fun (neg : Bool) (t : Int) (w : Nat) =>
        let lo := t / 2 ^ w
        let phi := (t % 2 ^ w).toNat
        let up := phi ≠ 0 ∧ (k.mode = 0 ∧ (2 ^ w < 2 * phi ∨ (2 * phi = 2 ^ w ∧ lo % 2 = 1)) ∨ (k.mode = 2 ∧ neg = false)
          ∨ (k.mode = 3 ∧ neg = true) ∨ (k.mode = 4 ∧ k.r < phi * 2 ^ (32 - w)))
        range neg (if up then lo + 1 else lo)
      let w := m.guardBits
      let d := (la - lb).toNat
      (∀ (neg : Bool) (t : Int) (v : Nat), v ≤ 32 → roundPack m k neg t v = pack neg t v)
      ∧ (∀ a b, lnAdd m k a b = lnAdd m k b a)
      ∧ lnAdd m k (.fin sa la) (.fin sa la) = range sa (la + 2 ^ m.frac)
      ∧ (lb ≤ la →
        (m.cutoff ≤ d → lnAdd m k (.fin sa la) (.fin sb lb) = (.fin sa la, 0))
        ∧ (d < m.cutoff → sa = sb → lnAdd m k (.fin sa la) (.fin sb lb) = pack sa (la * 2 ^ w + gaussSb m d) w)
        ∧ (d < m.cutoff → sa ≠ sb → 0 < d →
          let r := pack sa (la * 2 ^ w + gaussDb m d) w
          lnAdd m k (.fin sa la) (.fin sb lb) = (r.1, r.2 ||| (if 2 * d < 2 ^ m.frac then flNC else 0)))))
  ∧ (let qi := fun (y : Nat → Int) (j r rr : Nat) =>
        let a1 := 4 * y (2 * j + 1) - 3 * y (2 * j) - y (2 * j + 2)
        let a2 := 2 * y (2 * j) - 4 * y (2 * j + 1) + 2 * y (2 * j + 2)
        (y (2 * j) * 2 ^ (2 * rr) + a1 * r * 2 ^ rr + a2 * r * r) / 2 ^ (2 * rr - 10)
      let line := fun (y : Nat → Int) (j r : Nat) => y j * 32 + (y (j + 1) - y j) * r
      (∀ v, log40 v = qi logEntry (v / 2 ^ 22) (v % 2 ^ 22) 22 ∧ alog40 v = qi alogEntry (v / 2 ^ 22) (v % 2 ^ 22) 22
        ∧ (v ≠ 2 ^ 28 → sin30 v = qi sinEntry (v / 2 ^ 20) (v % 2 ^ 20) 20) ∧ sin30 (2 ^ 28) = 2 ^ 40)
      ∧ (∀ d, gaussSb .ln16 d = line (fun j => sbEntry 16 (32 * j)) (d / 32) (d % 32)
        ∧ gaussSb .ln32 d = qi (fun j => sbEntry 30 (2 * j)) (d / 2 ^ 15) (d % 2 ^ 15) 15
        ∧ (2 ^ 9 ≤ d → gaussDb .ln16 d = line (fun j => dbEntry 16 (512 + 32 * j)) (d / 32 - 16) (d % 32))
        ∧ (2 ^ 22 ≤ d → gaussDb .ln32 d = qi (fun j => dbEntry 30 (512 + 2 * j)) (d / 2 ^ 15 - 128) (d % 2 ^ 15) 15))
      ∧ (∀ d e : Nat, 2 ^ e ≤ d → d < 2 ^ (e + 1) →
        let log := qi logEntry ((d - 2 ^ e) * 2 ^ (30 - e) / 2 ^ 22) ((d - 2 ^ e) * 2 ^ (30 - e) % 2 ^ 22) 22
        (e < 9 → gaussDb .ln16 d
          = (e - 9) * 2 ^ 21 + log / 2 ^ 19 + line (fun j => crEntry 16 (32 * j)) (d / 32) (d % 32))
        ∧ (e < 22 → gaussDb .ln32 d = (e - 22) * 2 ^ 40 + log + qi (fun j => crEntry 30 (16 * j)) (d / 2 ^ 18) (d % 2 ^ 18) 18)))
  ∧ ((List.range 40).map (gaussSb .ln8) =
        [64, 60, 56, 53, 49, 46, 43, 40, 37, 35, 32, 30, 28, 26, 24, 22, 21, 19, 18, 16, 15, 14, 13, 12, 11, 10, 9, 8, 8, 7, 7, 6, 6, 5,
          5, 4, 4, 4, 3, 3]
    ∧ (List.range 39).map (fun k => gaussDb .ln8 (k + 1)) =
        [-230, -170, -136, -113, -97, -83, -73, -64, -57, -50, -45, -40, -36, -33, -29, -27, -24, -22, -20, -18, -16, -15, -14, -12, -11,
          -10, -9, -9, -8, -7, -7, -6, -5, -5, -5, -4, -4, -3, -3]
    ∧ [sbEntry 16 0, sbEntry 16 (32 * 16), sbEntry 16 (32 * 176)] = [65536, 38336, 46]
    ∧ [dbEntry 16 512, dbEntry 16 (512 + 32 * 160)] = [-65536, -46]
    ∧ [crEntry 16 0, crEntry 16 32, crEntry 16 (32 * 16)] = [-34653, -36694, -65536]
    ∧ [sbEntry 30 0, sbEntry 30 (2 * 256), sbEntry 30 (2 * 6144)] = [1073741824, 628098702, 92]
    ∧ [dbEntry 30 512, dbEntry 30 (512 + 2 * 5888)] = [-1073741824, -92]
    ∧ [crEntry 30 0, crEntry 30 (16 * 32)] = [-567758570, -1073741824]
    ∧ [logEntry 0, logEntry 512, alogEntry 0, alogEntry 512, sinEntry 0, sinEntry 512]
      = [0, 1073741824, 1073741824, 2147483648, 0, 1073741824])

/-- R95, R136 to R139, R148: each two-operand LN instruction writes the code of its function of the operands, and its flags join
fl; LADD, LSUB, LMAD and LPOW round in the mode of the target and draw by lane. R148: the values of LPOW, by the cases in their
order. -/
def Obligations.LnTwoOperandResults : Prop :=
  (∀ (s : State) (x : Issue) (d a b : BitVec 8), Issues s x → Usable x [vN d, vN a, vN b] →
    let value := fun (m : LnFmt) (n : BitVec 8) (i : Nat) => lnVal m (x.arch.getV n.toNat i).toNat
    let writes := fun (m : LnFmt) (f : Nat → LnVal × BitVec 9) => setActiveFlags x d.toNat (fun i => lnResult m (f i)) x.arch
    (Hinted x none true false false →
      (∀ i m, (i, m) ∈ [(Instr.laddLn8 d a b, LnFmt.ln8), (.laddLn16 d a b, .ln16), (.laddLn32 d a b, .ln32)] →
        CompletesFlags i s x true (writes m fun l => lnAdd m (x.rounding l 0) (value m a l) (value m b l)))
      ∧ (∀ i m, (i, m) ∈ [(Instr.lsubLn8 d a b, LnFmt.ln8), (.lsubLn16 d a b, .ln16), (.lsubLn32 d a b, .ln32)] →
        CompletesFlags i s x true (writes m fun l => lnAdd m (x.rounding l 0) (value m a l) (value m b l).negate))
      ∧ (∀ i m, (i, m) ∈ [(Instr.lmadLn8 d a b, LnFmt.ln8), (.lmadLn16 d a b, .ln16), (.lmadLn32 d a b, .ln32)] →
        CompletesFlags i s x true (writes m fun l => lnMad m (x.rounding l 0) (value m a l) (value m b l) (value m d l)))
      ∧ CompletesFlags (.lpowLn32 d a b) s x true (writes .ln32 fun l => lnPow (x.rounding l 0) (value .ln32 a l) (value .ln32 b l)))
    ∧ (Hinted x none false false false →
      (∀ i m, (i, m) ∈ [(Instr.lmulLn8 d a b, LnFmt.ln8), (.lmulLn16 d a b, .ln16), (.lmulLn32 d a b, .ln32)] →
        CompletesFlags i s x false (writes m fun l => lnMul m x.plain (value m a l) (value m b l)))
      ∧ (∀ i m, (i, m) ∈ [(Instr.ldivLn16 d a b, LnFmt.ln16), (.ldivLn32 d a b, .ln32)] →
        CompletesFlags i s x false (writes m fun l => lnDiv m x.plain (value m a l) (value m b l)))
      ∧ (∀ i m, (i, m) ∈ [(Instr.lminLn16 d a b, LnFmt.ln16), (.lminLn32 d a b, .ln32)] →
        Completes i s x (writes m fun l => (lnMin m (value m a l) (value m b l), 0)).1)
      ∧ (∀ i m, (i, m) ∈ [(Instr.lmaxLn16 d a b, LnFmt.ln16), (.lmaxLn32 d a b, .ln32)] →
        Completes i s x (writes m fun l => (lnMax m (value m a l) (value m b l), 0)).1)
      ∧ (∀ i m, (i, m) ∈ [(Instr.lscaleLn16 d a b, LnFmt.ln16), (.lscaleLn32 d a b, .ln32)] →
        CompletesFlags i s x false (writes m fun l => lnScale m x.plain (x.arch.getV b.toNat l).toInt (value m a l))))
    ∧ (∀ (c : BitVec 2) (p : BitVec 6), Usable x [pN p] → Hinted x none false false false →
      ∀ i m, (i, m) ∈ [(Instr.lcmpLn16 c p a b, LnFmt.ln16), (.lcmpLn32 c p a b, .ln32)] →
        Completes i s x (setActiveP x p.toNat (fun l => lnHolds m c (value m a l) (value m b l)) x.arch)))
  ∧ (∀ (k : Rounding) (a b : LnVal) (sa sb : Bool) (la lb : Int),
    let one := LnVal.fin false 0
    let odd := lb = 0
    let integer := 0 ≤ lb ∧ lb % 2 ^ 22 = 0
    lnPow k a (.zero sb) = (one, 0)
    ∧ lnPow k one b = (one, 0)
    ∧ ((∀ z, b ≠ .zero z) → lnPow k .nan b = (.nan, 0)) ∧ (a ≠ one → lnPow k a .nan = (.nan, 0))
    ∧ (lnPow k (.fin sa la) (.inf sb) = (if la = 0 then one else if (la < 0 ↔ sb = false) then .zero false else .inf false, 0)
      ∧ lnPow k (.zero sa) (.inf sb) = (if sb then .inf false else .zero false, 0)
      ∧ lnPow k (.inf sa) (.inf sb) = (if sb then .zero false else .inf false, 0))
    ∧ lnPow k (.zero sa) (.fin sb lb) = (if sb then (.inf (sa && decide odd), flDZ) else (.zero (sa && decide odd), 0))
    ∧ lnPow k (.inf sa) (.fin sb lb) = (if sb then .zero (sa && decide odd) else .inf (sa && decide odd), 0)
    ∧ (¬integer → lnPow k (.fin true la) (.fin sb lb) = (.nan, flIV))
    ∧ (LnVal.fin sa la ≠ one → sa = false ∨ integer →
      let y := (lnParts 22 lb).1
      let e := (lnParts 22 lb).2.1
      let mag := shiftInt (la.natAbs * y) (e - 22)
      lnPow k (.fin sa la) (.fin sb lb)
        = lnFinish .ln32 k (sa && decide odd) (if decide (la < 0) != sb then -(mag : Int) else mag))
    ∧ (LnVal.fin sa la ≠ one → -(2 ^ 29) ≤ la → la < 2 ^ 29 → lnPow k (.fin sa la) (.fin false 0) = (.fin sa la, 0)))

/-- R140 to R144, R147, R149: the unary LN operations on the formats that the function byte may name; of LSQRT the value of −0 is +0
where the code object lists erratum 513 (R366). R73, R141 to R144, R146, R147, R149: the values of these operations, with the special
operands and the exact cases. -/
def Obligations.LnUnaryResults : Prop :=
  (∀ (s : State) (x : Issue) (d a : BitVec 8) (f : BitVec 2) (m : LnFmt), Issues s x → Usable x [vN d, vN a] →
    lnFmtOf f.toNat = some m →
    let A := x.arch.getV a.toNat
    let V := fun i => lnVal m (A i).toNat
    let R := fun i => x.rounding i 0
    let writes := fun (f : Nat → Word × BitVec 9) => setActiveFlags x d.toNat f x.arch
    (Hinted x none false false false →
      Completes (.lneg d a f) s x (writes fun i => lnResult m ((V i).negate, 0)).1
      ∧ Completes (.labs d a f) s x (writes fun i => lnResult m (if (V i).isNeg then (V i).negate else V i, 0)).1
      ∧ CompletesFlags (.lrcp d a f) s x false (writes fun i => lnResult m (lnRcp m x.plain (V i)))
      ∧ CompletesFlags (.lsqr d a f) s x false (writes fun i => lnResult m (lnSqr m x.plain (V i)))
      ∧ Completes (.lclass d a f) s x (writes fun i => (BitVec.ofNat 32 (lnClass m (A i).toNat), 0)).1
      ∧ Completes (.lgetl d a f) s x (writes fun i => (BitVec.ofInt 32 (signed m.log (A i).toNat), 0)).1
      ∧ CompletesFlags (.lmkl d a f) s x false (writes fun i => lnResult m (lnMake m x.plain (A i).toInt))
      ∧ (f ≠ 0 → ∀ i k, (i, k) ∈ [(Instr.lunpk0 d a f, 0), (.lunpk1 d a f, 1), (.lunpk2 d a f, 2), (.lunpk3 d a f, 3)] →
        CompletesFlags i s x false (writes fun l =>
          lnResult m (lnConvert .ln8 m x.plain (lnVal .ln8 ((A l).toNat / 2 ^ (8 * k) % 256))))))
    ∧ (Hinted x none true false false →
      CompletesFlags (.lsqrt d a f) s x true (writes fun i => lnResult m (lnSqrt (decide (513 ∈ x.e.l.kh.errata)) m (R i) (V i)))
      ∧ CompletesFlags (.lrsqrt d a f) s x true (writes fun i => lnResult m (lnRsqrt m (R i) (V i)))
      ∧ (f ≠ 0 →
        CompletesFlags (.lexp2 d a f) s x true (writes fun i => lnResult m (lnExp2 m (R i) (V i)))
        ∧ CompletesFlags (.llog2 d a f) s x true (writes fun i => lnResult m (lnLog2 m (R i) (V i)))
        ∧ CompletesFlags (.lexp d a f) s x true (writes fun i => lnResult m (lnExpE m (R i) (V i)))
        ∧ CompletesFlags (.lsint d a f) s x true (writes fun i => lnResult m (lnTurn false m (R i) (V i)))
        ∧ CompletesFlags (.lcost d a f) s x true (writes fun i => lnResult m (lnTurn true m (R i) (V i))))
      ∧ (∀ i dst, (i, dst) ∈ [(Instr.lcvtLn8 d a f, LnFmt.ln8), (.lcvtLn16 d a f, .ln16), (.lcvtLn32 d a f, .ln32)] →
        CompletesFlags i s x true (writes fun l => lnResult dst (lnConvert m dst (R l) (V l))))))
  ∧ (∀ (m : LnFmt) (k : Rounding) (erratum s : Bool) (l : Int), -(2 ^ (m.log - 1)) ≤ l → l < 2 ^ (m.log - 1) →
    let one := LnVal.fin false 0
    let y := (lnParts m.frac l).1
    let e := (lnParts m.frac l).2.1
    let u := (lnParts m.frac l).2.2
    let signed := fun (neg : Bool) (n : Nat) => if neg then -(n : Int) else n
    (e = l / 2 ^ m.frac ∧ u = (l % 2 ^ m.frac).toNat ∧ y = (alog40 (u * 2 ^ (30 - m.frac))).toNat ∧ (u = 0 → y = 2 ^ 40))
    ∧ (∀ (v : Nat) (z : Int), shiftInt v z = if 0 ≤ z then v * 2 ^ z.toNat else v / 2 ^ (-z).toNat)
    ∧ (∀ (v n : Nat) (z : Int), n < 128 → 2 ^ n ≤ v → v < 2 ^ (n + 1) →
      fx2ln v z = (n - z) * 2 ^ 40 + log40 ((v - 2 ^ n) * 2 ^ 30 / 2 ^ n) ∧ (v = 2 ^ n → fx2ln v z = (n - z) * 2 ^ 40))
    ∧ (∀ (neg : Bool) (t : Int), lnFinish m k neg t = match m with
        | .ln8 => roundPack m k neg (t / 2 ^ 5) 32
        | .ln16 => roundPack m k neg t 31
        | .ln32 => roundPack m k neg t 18)
    ∧ (lnSqrt erratum m k .nan = (.nan, 0) ∧ lnSqrt erratum m k (.zero false) = (.zero false, 0)
      ∧ lnSqrt erratum m k (.zero true) = (.zero (!erratum), 0) ∧ lnSqrt erratum m k (.inf false) = (.inf false, 0)
      ∧ lnSqrt erratum m k (.inf true) = (.nan, flIV) ∧ lnSqrt erratum m k (.fin true l) = (.nan, flIV)
      ∧ lnSqrt erratum m k (.fin false l) = roundPack m k false l 1
      ∧ (l % 2 = 0 → lnSqrt erratum m k (.fin false l) = (.fin false (l / 2), 0)))
    ∧ (lnRsqrt m k .nan = (.nan, 0) ∧ lnRsqrt m k (.zero s) = (.inf s, flDZ) ∧ lnRsqrt m k (.inf false) = (.zero false, 0)
      ∧ lnRsqrt m k (.inf true) = (.nan, flIV) ∧ lnRsqrt m k (.fin true l) = (.nan, flIV)
      ∧ lnRsqrt m k (.fin false l) = roundPack m k false (-l) 1
      ∧ (l % 2 = 0 → lnRsqrt m k (.fin false l) = (.fin false (-l / 2), 0)))
    ∧ (∀ f, f = lnExp2 m k ∨ f = lnExpE m k →
      f .nan = (.nan, 0) ∧ f (.zero s) = (one, 0) ∧ f (.inf false) = (.inf false, 0) ∧ f (.inf true) = (.zero false, 0))
    ∧ lnExp2 m k (.fin s l) = lnFinish m k false (signed s (shiftInt y e))
    ∧ lnExpE m k (.fin s l) = lnFinish m k false (signed s (shiftInt y e * 6196328019 / 2 ^ 32))
    ∧ (lnLog2 m k .nan = (.nan, 0) ∧ lnLog2 m k (.zero s) = (.inf true, flDZ) ∧ lnLog2 m k (.inf false) = (.inf false, 0)
      ∧ lnLog2 m k (.inf true) = (.nan, flIV) ∧ lnLog2 m k (.fin true l) = (.nan, flIV) ∧ lnLog2 m k one = (.zero false, 0)
      ∧ (l ≠ 0 → lnLog2 m k (.fin false l) = lnFinish m k (decide (l < 0)) (fx2ln l.natAbs m.frac)))
    ∧ (∀ cos : Bool,
      let q0 := shiftInt y (e - 10) % 2 ^ 30
      let q := if cos then (q0 + 2 ^ 28) % 2 ^ 30 else q0
      let r := q % 2 ^ 28
      let v := (sin30 (if q / 2 ^ 28 = 0 ∨ q / 2 ^ 28 = 2 then r else 2 ^ 28 - r)).toNat
      lnTurn cos m k .nan = (.nan, 0) ∧ lnTurn cos m k (.inf s) = (.nan, flIV)
      ∧ lnTurn cos m k (.zero s) = (if cos then one else .zero s, 0)
      ∧ lnTurn cos m k (.fin s l) = if v = 0 then (.zero false, 0)
          else lnFinish m k (decide (2 ≤ q / 2 ^ 28) != (s && !cos)) (fx2ln v 40))
    ∧ (lnClass m (lnCode m (.inf true)) = 1 ∧ lnClass m (lnCode m (.fin true l)) = 2 ∧ lnClass m (lnCode m (.zero true)) = 4
      ∧ lnClass m (lnCode m (.zero false)) = 8 ∧ lnClass m (lnCode m (.fin false l)) = 16 ∧ lnClass m (lnCode m (.inf false)) = 32
      ∧ (∀ c, c < 2 ^ m.bits → lnVal m c = .nan → lnClass m c = if c = lnCode m .nan then 192 else 64))
    ∧ (lnMake m k l = (.fin false l, 0)
      ∧ (∀ z : Int, 2 ^ (m.log - 1) ≤ z → lnMake m k z = (if k.inf then .inf false else .fin false (2 ^ (m.log - 1) - 1), flOV))
      ∧ (∀ z : Int, z < -(2 ^ (m.log - 1)) → lnMake m k z = (if k.flush then .zero false else .fin false (-(2 ^ (m.log - 1))), flUN)))
    ∧ (∀ dst : LnFmt,
      (∀ v, (∀ n z, v ≠ .fin n z) → lnConvert m dst k v = (v, 0))
      ∧ (m.frac ≤ dst.frac → lnConvert m dst k (.fin s l) = (.fin s (l * 2 ^ (dst.frac - m.frac)), 0))
      ∧ (dst.frac < m.frac →
        let r := roundPack dst k s l (m.frac - dst.frac)
        lnConvert m dst k (.fin s l)
          = (r.1, r.2 ||| (if l % 2 ^ (m.frac - dst.frac) ≠ 0 ∨ r.2 ≠ 0 then flIX else 0)))))

/-- R145, R150 to R156: packing, fixed point and the IEEE formats; a binary64 value stands in an even pair. R151, R152, R154 to R156:
the values, with rounding, limits, NaNs, infinities, zeros and subnormals. -/
def Obligations.LnConversionResults : Prop :=
  (∀ (s : State) (x : Issue) (d a b : BitVec 8) (f : BitVec 2) (sg : Bool) (n : BitVec 5) (e : BitVec 3) (m : LnFmt), Issues s x →
    let A := x.arch.getV a.toNat
    let R := fun i => x.rounding i 0
    (Usable x [vN d, vN a, vN b] → Hinted x none false false false → Completes (.lpack d a b) s x (setActive x d.toNat (fun i =>
        (x.arch.getV d.toNat i).extractLsb' 0 16 ++ (x.arch.getV b.toNat i).extractLsb' 0 8 ++ (A i).extractLsb' 0 8) x.arch))
    ∧ (lnFmtOf f.toNat = some m → Hinted x none true false false →
      (Usable x [vN d, vN a] →
        CompletesFlags (.lfix d a f sg n) s x true (setActiveFlags x d.toNat (fun i =>
          let r := lnFix m (R i) sg n.toNat (lnVal m (A i).toNat)
          (BitVec.ofInt 32 r.1, r.2)) x.arch)
        ∧ CompletesFlags (.lflt d a f sg n) s x true (setActiveFlags x d.toNat (fun i =>
          lnResult m (lnFloat m (R i) (if sg then (A i).toInt else (A i).toNat) n.toNat)) x.arch)
        ∧ (e.toNat < 3 →
          CompletesFlags (.fcvtToLn d a f e) s x true (setActiveFlags x d.toNat (fun i =>
            lnResult m (ieeeToLn (ieeeFmt e.toNat) m (R i) (x.amr.getLsbD 5) (A i).toNat)) x.arch)
          ∧ CompletesFlags (.fcvtToIeee d a f e) s x true (setActiveFlags x d.toNat (fun i =>
            let r := lnToIeee (ieeeFmt e.toNat) m (R i) (x.amr.getLsbD 6) (lnVal m (A i).toNat)
            (BitVec.ofNat 32 r.1, r.2)) x.arch)))
      ∧ (Usable x (vN d :: vPair a) → a.getLsbD 0 = false → CompletesFlags (.fcvtToLn d a f 3) s x true
          (setActiveFlags x d.toNat (fun i =>
            lnResult m (ieeeToLn (ieeeFmt 3) m (R i) (x.amr.getLsbD 5) (x.arch.getV64 a.toNat i).toNat)) x.arch))
      ∧ (Usable x (vN a :: vPair d) → d.getLsbD 0 = false → CompletesFlags (.fcvtToIeee d a f 3) s x true
          (setActiveFlags64 x d.toNat (fun i =>
            let r := lnToIeee (ieeeFmt 3) m (R i) (x.amr.getLsbD 6) (lnVal m (A i).toNat)
            (BitVec.ofNat 64 r.1, r.2)) x.arch))))
  ∧ (∀ (m : LnFmt) (k : Rounding) (s : Bool) (l : Int), k.mode ≤ 4 → -(2 ^ (m.log - 1)) ≤ l → l < 2 ^ (m.log - 1) →
    let y := (lnParts m.frac l).1
    let e := (lnParts m.frac l).2.1
    let u := (lnParts m.frac l).2.2
    let rounded := fun (v : Nat) (z : Int) =>
      let q := if z ≤ 0 then v * 2 ^ (-z).toNat else v / 2 ^ z.toNat
      let rem := if z ≤ 0 then 0 else v % 2 ^ z.toNat
      let up := rem ≠ 0 ∧ (k.mode = 0 ∧ (2 ^ z.toNat < 2 * rem ∨ (2 * rem = 2 ^ z.toNat ∧ q % 2 = 1)) ∨ (k.mode = 2 ∧ s = false)
        ∨ (k.mode = 3 ∧ s = true) ∨ (k.mode = 4 ∧ k.r < rem * 2 ^ 32 / 2 ^ z.toNat))
      ((if up then q + 1 else q), rem)
    (∀ (sg : Bool) (f : Nat),
      let low : Int := if sg then -(2 ^ 31) else 0
      let high : Int := if sg then 2 ^ 31 - 1 else 2 ^ 32 - 1
      let r := rounded y (40 - e - f)
      let v : Int := if s then -(r.1 : Int) else r.1
      lnFix m k sg f (.zero s) = (0, 0) ∧ lnFix m k sg f .nan = (0, flIV)
      ∧ lnFix m k sg f (.inf true) = (low, flIV) ∧ lnFix m k sg f (.inf false) = (high, flIV)
      ∧ lnFix m k sg f (.fin s l) = if v < low then (low, flIV) else if high < v then (high, flIV)
          else (v, if u ≠ 0 ∨ r.2 ≠ 0 then flIX else 0))
    ∧ (∀ v : Nat, v < 2 ^ 128 → (isPow2 v = true ↔ ∃ n, v = 2 ^ n))
    ∧ (∀ (v : Int) (f : Nat),
      let r := lnFinish m k (decide (v < 0)) (fx2ln v.natAbs f)
      lnFloat m k 0 f = (.zero false, 0)
      ∧ (v ≠ 0 → lnFloat m k v f = (r.1, r.2 ||| (if isPow2 v.natAbs = false ∨ r.2 ≠ 0 then flIX else 0))))
    ∧ (∀ t, t ∈ [IeeeFmt.mk 16 11 15, .mk 16 8 127, .mk 32 24 127, .mk 64 53 1023] →
      let top := 2 * t.emax + 1
      let frac := 2 ^ (t.p - 1)
      let sign := fun n : Bool => if n then 2 ^ (t.bits - 1) else 0
      let emin : Int := 1 - t.emax
      (∀ (flush : Bool) (ex fr : Nat), ex ≤ top → fr < frac →
        let r := ieeeToLn t m k flush (sign s + ex * frac + fr)
        let value := fun (v : Nat) (f : Int) =>
          let z := lnFinish m k s (fx2ln v f)
          (z.1, z.2 ||| (if isPow2 v = false ∨ z.2 ≠ 0 then flIX else 0))
        (ex = top → fr ≠ 0 → r = (.nan, flCV ||| (if fr < 2 ^ (t.p - 2) then flIV else 0)))
        ∧ (ex = top → fr = 0 → r = (.inf s, 0))
        ∧ (ex = 0 → fr = 0 ∨ flush = true → r = (.zero s, 0))
        ∧ (ex = 0 → fr ≠ 0 → flush = false → r = value fr (t.p - 1 - emin))
        ∧ (ex ≠ 0 → ex < top → r = value (fr + frac) (t.p - 1 - (ex - t.emax))))
      ∧ (∀ flush : Bool,
        let limit := top * frac
        let y1 := if y = 2 ^ 41 then 2 ^ 40 else y
        let e1 := if y = 2 ^ 41 then e + 1 else e
        let r := rounded y1 (40 - (t.p - 1) + max e1 emin - e1)
        let enc := ((max e1 emin + t.emax - 1) * frac + r.1).toNat
        let flags := if u ≠ 0 ∨ r.2 ≠ 0 then (if e1 < emin then flIX ||| flUN else flIX) else 0
        lnToIeee t m k flush .nan = (limit + 2 ^ (t.p - 2), 0)
        ∧ lnToIeee t m k flush (.inf s) = (sign s + limit, 0) ∧ lnToIeee t m k flush (.zero s) = (sign s, 0)
        ∧ lnToIeee t m k flush (.fin s l) =
          if e1 < emin ∧ flush = true then (sign s, flUN ||| flIX)
          else if limit ≤ enc then (sign s + (if k.inf then limit else limit - 1), flOV ||| flIX)
          else (sign s + enc, flags)))
    ∧ ieeeFmt 0 = ⟨16, 11, 15⟩ ∧ ieeeFmt 1 = ⟨16, 8, 127⟩ ∧ ieeeFmt 2 = ⟨32, 24, 127⟩ ∧ ieeeFmt 3 = ⟨64, 53, 1023⟩)

/-- R157, R158: FLAG reads and rewrites fl in active lanes, and raises nothing. -/
def Obligations.FlagWordResults : Prop :=
  ∀ (s : State) (x : Issue) (a : BitVec 8) (d : BitVec 6), Issues s x → Hinted x none false false false →
    let F := x.arch.getFl
    let mask := fun i => (x.arch.getV a.toNat i).setWidth 16 &&& 0x1FF
    let puts := fun f : Nat → BitVec 16 => (laneList x.active).foldl (fun r i => r.setFl i (f i)) x.arch
    (Usable x [vN a] →
      Completes (.flagGet a) s x (setActive x a.toNat (fun i => (F i).setWidth 32) x.arch)
      ∧ Completes (.flagSet a) s x (puts fun i => F i ||| mask i)
      ∧ Completes (.flagClr a) s x (puts fun i => F i &&& ~~~(mask i))
      ∧ Completes (.flagPut a) s x (puts mask))
    ∧ (Usable x [sN d] → Completes (.flagGor d) s x (x.arch.setS d.toNat
        ((laneList x.active).foldl (fun w i => w ||| (F i).setWidth 32) 0)))
    ∧ (Usable x [pN d, vN a] → Completes (.flagTst d a) s x (setActiveP x d.toNat (fun i => (F i &&& mask i) != 0) x.arch))

/-! ### Tile engine and accumulators (spec/07_tile_engine.md) -/

/-- R161, R185, R186: TMOV copies the rows of the active lanes, TWSET writes a precision word whose reserved bits are zero, and
TWGET reads it. -/
def Obligations.TileRegisterResults : Prop :=
  ∀ (s : State) (x : Issue) (t u b : BitVec 6) (n : BitVec 3), Issues s x → Hinted x none false false false →
    (Usable x [.t t.toNat, .t u.toNat] → t.toNat < 8 → u.toNat < 8 → x.e.g.usesTile t.toNat = false → u.toNat ∉ x.arch.tPoison →
      let a := (laneList x.active).foldl (fun a r => a.setTRow t.toNat r (x.arch.tRow u.toNat r)) x.arch
      Completes (.tmov t u) s x (if x.active = BitVec.allOnes 64 then { a with tPoison := a.tPoison.filter (· != t.toNat) } else a))
    ∧ (Usable x [sN b] → n.toNat < x.e.l.kh.tiles →
      (x.arch.getS b.toNat &&& 0xFFF00C00 = 0 → Completes (.twset n b) s x (x.arch.setTw n.toNat (x.arch.getS b.toNat)))
      ∧ Completes (.twget n b) s x (x.arch.setS b.toNat (x.arch.getTw n.toNat)))

/-- R166, R181, R183, R184, R187: an accumulator with no operation left gives its flags to fl at an accumulator instruction; ACLR
makes it a cleared one of its format, AWR writes eight elements of each active row, AMOV copies it, MWAIT leaves it. R182: an ARD
makes the eight registers and the step counter's register pending, to be read by the engine at delivery, in a launch whose
determinism is off. That the engine reads the accumulator at delivery is the model's reading (log entry 22, DEDUCED). -/
def Obligations.AccumulatorResults : Prop :=
  (∀ (s : State) (x : Issue) (c m : BitVec 3) (q f : BitVec 5), Issues s x → Hinted x none false false false →
      let idle := fun n : BitVec 3 => x.e.g.usesAcc n.toNat = false
      let flags := fun n : BitVec 3 => (x.e.g.acc n.toNat).flags
      let bare := fun ns : List Nat => (retireFlags ns x.e.g).1
      let served := serveArd c.toNat (bare [c.toNat])
      (Usable x [.a c.toNat] → idle c →
        CompletesWith (.aclrLn32 c) s x s (flags c) false (served.setAcc c.toNat { fmt := .chain })
        ∧ CompletesWith (.aclrLn16 c) s x s (flags c) false (served.setAcc c.toNat { fmt := .narrow })
        ∧ CompletesWith (.aclrS32 c f) s x s (flags c) false (served.setAcc c.toNat { fmt := .integer, f := f })
        ∧ CompletesWith (.mwait c) s x s (flags c) false (bare [c.toNat]))
      ∧ (Usable x (quarter q ++ [.a c.toNat]) → idle c → (x.e.g.acc c.toNat).fmt ≠ .none →
        let a := served.acc c.toNat
        let low := fun w : Word => if a.fmt = .narrow then w &&& 0xFFFF else w
        let written := (laneList x.active).foldl (fun a i => (List.range 8).foldl (fun a k =>
          a.setElem i k (low (x.arch.getV (8 * q.toNat + k) i))) a) a
        CompletesWith (.awr c q) s x s (flags c) false
          (served.setAcc c.toNat { written with poison := a.poison && x.active != BitVec.allOnes 64 }))
      ∧ (Usable x [.a c.toNat, .a m.toNat] → idle c → idle m → (x.e.g.acc m.toNat).poison = false →
        let g := serveArd c.toNat (bare [m.toNat, c.toNat])
        CompletesWith (.amov c m) s x s (flags m ++ flags c) false (g.setAcc c.toNat (g.acc m.toNat)))
      ∧ ((∀ n, n < 8 → x.e.g.usesAcc n = false) →
        CompletesWith .mwaitAll s x s ((List.range 8).flatMap (fun n => (x.e.g.acc n).flags)) false (bare (List.range 8))))
  ∧ (∀ (s : State) (x : Issue) (c : BitVec 3) (q : BitVec 5) (d : BitVec 6), Issues s x → Hinted x none false false false →
      Usable x (.a c.toNat :: quarter q ++ [sN d]) → (x.e.g.acc c.toNat).fmt ≠ .none → (x.e.g.acc c.toNat).poison = false →
      x.e.l.lh.mode = 0 →
      CompletesGroup (.ard c q d) s x { x.e.g with
        outstanding := x.e.g.outstanding ++ [{ ard := some (c.toNat, q.toNat, d.toNat, x.active) }]
        arch := { x.arch with pending := (x.arch.pending ++ (quarter q ++ [sN d])).eraseDups } })

/-- R165, R173, R176, R177, R178: a matrix word whose operands and precision are legal enters the matrix queue of its partition
with what it read at issue, as one operation of as many steps as it asks for. That the AMR and the rounding mode are those of the
issue is the model's reading (log entry 42, DEDUCED), and that the side registers are read then its choice (log entry 106, DESIGN
CHOICE). -/
def Obligations.MatrixIssueResults : Prop :=
  ∀ (s : State) (x : Issue) (c : BitVec 3) (a b : BitVec 6) (p : Bool), Issues s x →
    queueFull s x.e.g = false → tilePoisoned x.arch [a, b] = false → xBad a = false → xBad b = false →
    let sa := xSource x.arch a
    let sb := xSource x.arch b
    let checked := fun (z la lb : Nat) (ka kb : List Nat) =>
      sa.check s x.e.accessor z la ka (laneList x.active) = none ∧ sb.check s x.e.accessor z lb kb (bRows x.active p) = none
    let enters := fun (i : Instr) (rounds : Bool) (o : MatrixOp) =>
      CompletesWith i s x { s with nextId := s.nextId + 1 } [] rounds { x.e.g with
        matrix := x.e.g.matrix ++ [{ o with id := s.nextId, word := s.fetched, limm := (x.run.limm.getD 0).setWidth 32 }] }
    (∀ (f : BitVec 3) (st : BitVec 5), f = 0 ∨ f = 2 ∨ f = 3 → (st = 0 ∨ xIsTile a = false ∧ xIsTile b = false ∧ x.mode ≠ 4) →
      Hinted x none true false false → Usable x (xReads a ++ xReads b ++ [.a c.toNat]) →
      lnAccumulator (x.e.g.acc c.toNat) = true → checked (matrixSize f.toNat) 32 32 (List.range (st.toNat + 1)) (List.range (st.toNat + 1)) →
      enters (.lmma c a b f st p) true
        { id := 0, acc := c.toNat, kind := .lmma f.toNat 0 0, a := sa, b := sb, pb := p, mask := x.active,
          mode := x.mode, amr := x.amr, sseq := x.arch.sseq, wordIx := x.wordIx, done := 0, total := st.toNat + 1 })
    ∧ (∀ (st : BitVec 5) (lm : BitVec 20), (st = 0 ∨ xIsTile a = false ∧ xIsTile b = false ∧ x.mode ≠ 4) → x.run.limm = some lm →
      Hinted x (some 0xFFFFF) true false false →
      let ra := lm.toNat % 256
      let rb := lm.toNat / 256 % 256
      Usable x (xReads a ++ xReads b ++ [.a c.toNat, .v ra, .v rb]) →
      lnAccumulator (x.e.g.acc c.toNat) = true → checked 1 32 32 (List.range (st.toNat + 1)) (List.range (st.toNat + 1)) →
      enters (.lmma c a b 1 st p) true
        { id := 0, acc := c.toNat, kind := .lmma 1 (lm.toNat / 65536 % 4) (lm.toNat / 262144 % 4), a := sa, b := sb, pb := p,
          mask := x.active, side := lanes.map (x.arch.getV ra) ++ lanes.map (x.arch.getV rb), ext := 128 ≤ ra || 128 ≤ rb,
          mode := x.mode, amr := x.amr, sseq := x.arch.sseq, wordIx := x.wordIx, done := 0, total := st.toNat + 1 })
    ∧ (∀ (f w : BitVec 3) (n : BitVec 2) (lm : BitVec 20), f = 0 ∨ f = 2 ∨ f = 3 → n ≠ 3 → xIsTile a = false → xIsTile b = false →
      x.mode ≠ 4 → x.run.limm = some lm → lm.toNat < 256 → lm.toNat % 4 = 0 → lm.toNat + 4 * (w.toNat + 1) ≤ 256 →
      Hinted x (some 0xFF) true false false →
      Usable x (xReads a ++ xReads b ++ [.a c.toNat] ++ (List.range (4 * (w.toNat + 1))).map (fun k => .v (lm.toNat + k))) →
      lnAccumulator (x.e.g.acc c.toNat) = true →
      let dense := (w.toNat + 1) * (128 / 2 ^ treeDepth f.toNat)
      checked (matrixSize f.toNat) (16 * 2 ^ n.toNat * matrixSize f.toNat) 32 (List.range (w.toNat + 1)) (List.range dense) →
      enters (.lmms c a b f w n p) true
        { id := 0, acc := c.toNat, kind := .lmms f.toNat (16 * 2 ^ n.toNat), a := sa, b := sb, pb := p,
          mask := x.active, side := (List.range (4 * (w.toNat + 1))).flatMap (fun k => lanes.map (x.arch.getV (lm.toNat + k))),
          ext := 128 < lm.toNat + 4 * (w.toNat + 1), mode := x.mode, amr := x.amr, sseq := x.arch.sseq, wordIx := x.wordIx,
          done := 0, total := dense })
    ∧ (∀ (n : BitVec 3), n.toNat < x.e.l.kh.tiles → Hinted x none false false false → Usable x (xReads a ++ xReads b ++ [.a c.toNat]) →
      let tw := x.arch.getTw n.toNat
      let la := immaK tw * twWa tw / 8
      let lb := immaK tw * twWb tw / 8
      (x.e.g.acc c.toNat).fmt = .integer → twFrac tw ≤ (x.e.g.acc c.toNat).f.toNat →
      (xIsTile a = true → la ≤ 32) → (xIsTile b = true → lb ≤ 32) → checked 1 la lb [0] [0] →
      enters (.imma c a b n p) false
        { id := 0, acc := c.toNat, kind := .imma, a := sa, b := sb, pb := p, mask := x.active, tw := tw,
          done := 0, total := 1 })

/-- R185: TLD reads each active row from the scratch tile and holds it until delivery; TST writes each active row of the tile
register to the scratch tile, ascending. -/
def Obligations.TileLoadStoreResults : Prop :=
  ∀ (s : State) (x : Issue) (t d st : BitVec 6), Issues s x → Hinted x none false false false → x.e.g.wait = .none →
    t.toNat < 8 → xIsTile d = false → Usable x (xReads d ++ [.t t.toNat]) →
    let desc := x.arch.getS64 (2 * (d.toNat % 32))
    let chunks := fun r : Nat => rowChunks desc 1 st.toNat r 32
    let place := fun c : Nat × Nat => handlePlace s x.e.accessor (descHandle desc) c.1 c.2
    checkDesc s x.e.accessor desc 1 32 [st.toNat] (laneList x.active) = none →
    (∀ r c, c ∈ chunks r → x.active.getLsbD r = true → (place c).isSome) →
    (x.e.g.usesTile t.toNat = false →
      let row := fun r : Nat => (chunks r).flatMap (fun c => ((place c).map (fun p => readAny s p c.2)).getD [])
      let bad := (laneList x.active).any (fun r => (chunks r).any (fun c => ((place c).map (fun p => s.poisonedPlace p c.2)).getD false))
      CompletesGroup (.tld t d st) s x (x.e.g.bump.addResult
        { t := (laneList x.active).flatMap (fun r => rowCells t.toNat r (row r)),
          tile := some (t.toNat, bad, x.active == BitVec.allOnes 64) } [.t t.toNat]))
    ∧ (t.toNat ∉ x.arch.tPoison →
      exec (.tst t d st) s = .next (x.closes s ((laneList x.active).foldl (fun s' r =>
        ((chunks r).zip (List.range 2)).foldl (fun s' c =>
          match handlePlace s' x.e.accessor (descHandle desc) c.1.1 c.1.2 with
          | some p => s'.writePlace p (sliceBytes (x.arch.tRow t.toNat r) (16 * c.2) 16) x.tag
          | none => s') s') (s.setGroup x.e.g.bump)) x.e.g.bump x.onward))

/-- R167: a pass of the tile engine does one step of the head operation of an accumulator, which leaves the queue with its last
step. R160, R169: the step counts one and touches no other row. R170 to R173, R176, R177: each element of an active row receives the
tree of its exact products, pairwise in index order, scaled for LB8, added to the old element in the format of the accumulator, with
overflow as R87 gives it; the flags go to the row. R178: an integer element receives the exact sum of its products, saturated with SA.
R411: a poisoned byte poisons the accumulator. -/
def Obligations.TileEnginePassResult : Prop :=
  ∀ (s : State) (e : Env) (o : MatrixOp), s.env? s.event.core s.event.slot = some e → e.g.heads[s.event.num]? = some o →
    let a := e.g.acc o.acc
    let t := matrixStep s e o
    let flagsOf := fun (b : Acc) (i : Nat) => smGet (0 : BitVec 9) i b.flags
    let row := fun (i c : Nat) => if o.pb then 8 * (i / 8) + c else c
    exec .tileEnginePass s = .next (s.setGroup { e.g.setAcc o.acc t with
      matrix := if o.done + 1 < o.total then e.g.matrix.map (fun q => if q.id = o.id then { q with done := q.done + 1 } else q)
        else e.g.matrix.filter (fun q => q.id != o.id) })
    ∧ (t.fmt = a.fmt ∧ t.f = a.f ∧ t.steps = a.steps + 1)
    ∧ (∀ i c, i < 64 → c < 8 → o.mask.getLsbD i = false → t.elem i c = a.elem i c ∧ flagsOf t i = flagsOf a i)
    ∧ (∀ (f : Nat) (lb8 : Option (Nat × Nat)) (left : Nat → List Byte × Bool) (value : Nat → Nat → LnVal), f < 4 →
      let m : LnFmt := if f ≤ 1 then .ln8 else if f = 2 then .ln16 else .ln32
      let tree : LnFmt := if f ≤ 1 then .ln16 else .ln32
      let z := if f ≤ 1 then 1 else if f = 2 then 2 else 4
      let depth := if f ≤ 1 then 5 else if f = 2 then 4 else 3
      let k := 2 ^ depth
      let right := fun i c => operandRow s e o.b z o.done (row i c) 32
      let product := fun i c kk =>
        let p := lnProduct (value i kk) (lnVal m (byteField (right i c).1 (kk * z) z))
        match p.1 with
        | .fin n l =>
          if f = 3 then
            let r := rangeCheck .ln32 { mode := 0, inf := true, flush := true, r := 0 } n l
            (r.1, p.2 ||| r.2)
          else (.fin n (l * 2 ^ (if f ≤ 1 then 6 else 13)), p.2)
        | _ => p
      let pairs := fun (xs : Nat → LnVal × BitVec 9) (j : Nat) =>
        let r := lnAdd tree { mode := 0, inf := !o.amr.getLsbD 3, flush := !o.amr.getLsbD 4, r := 0 } (xs (2 * j)).1 (xs (2 * j + 1)).1
        (r.1, (xs (2 * j)).2 ||| (xs (2 * j + 1)).2 ||| r.2)
      let root := fun i c => Nat.repeat pairs depth (product i c) 0
      let total := fun i c =>
        match lb8 with
        | none => root i c
        | some (sa, sb) =>
          let ea := field (o.side.getD i 0).toNat (8 * sa) 8
          let eb := field (o.side.getD (64 + 8 * (i / 8) + c) 0).toNat (8 * sb) 8
          if ea = 255 ∨ eb = 255 then (LnVal.nan, 0)
          else match (root i c).1 with
            | .fin n l => (.fin n (l + ((ea : Int) + eb - 254) * 2 ^ 9), (root i c).2)
            | _ => root i c
      let wide := fun v : LnVal => match v with
        | .fin n l => LnVal.fin n (if f ≤ 1 then l * 2 ^ 13 else l)
        | w => w
      let thin := fun v : LnVal => match v with
        | .fin n l =>
          let up := 2 ^ 12 < l % 2 ^ 13 ∨ (l % 2 ^ 13 = 2 ^ 12 ∧ l / 2 ^ 13 % 2 = 1)
          LnVal.fin n (if f ≤ 1 then l else if up then l / 2 ^ 13 + 1 else l / 2 ^ 13)
        | w => w
      let rounding := fun (inf : Bool) (i c : Nat) => ({
        mode := o.mode.toNat, inf := inf, flush := !o.amr.getLsbD 4,
        r := if o.mode = 4 then (randWord (e.workId i) o.wordIx i c o.sseq e.l.k0 e.l.k1).toNat else 0 } : Rounding)
      let sum := fun i c =>
        if a.fmt = .chain then lnAdd .ln32 (rounding true i c) (wide (total i c).1) (lnVal .ln32 (a.elem i c).toNat)
        else lnAdd .ln16 (rounding false i c) (thin (total i c).1) (lnVal .ln16 (a.elem i c).toNat)
      let flags := fun i c => (total i c).2 ||| ((sum i c).2 &&& ~~~flOV)
        ||| (if (sum i c).2 &&& flOV = 0 then 0 else if a.fmt = .chain then flAO else flSA)
      (a.fmt = .chain ∨ a.fmt = .narrow) →
      ((∃ sa sb, o.kind = .lmma f sa sb ∧ (lb8 = if f = 1 then some (sa, sb) else none)
          ∧ (∀ i, left i = operandRow s e o.a z o.done i 32)
          ∧ (∀ i kk, value i kk = lnVal m (byteField (left i).1 (kk * z) z)))
        ∨ (∃ n, o.kind = .lmms f n ∧ lb8 = none ∧
          let w := o.done / (128 / k)
          let mark := fun i p => (o.side.getD (64 * (4 * w + p / 32) + i) 0).getLsbD (p % 32)
          let rank := fun i p => ((List.range p).filter (mark i)).length
          (∀ i, left i = operandRow s e o.a z w i (n * z))
          ∧ (∀ i kk, let p := o.done % (128 / k) * k + kk
            value i kk = if mark i p = true ∧ rank i p < n then lnVal m (byteField (left i).1 (rank i p * z) z) else .zero false))) →
      (∀ i, i < 64 → o.mask.getLsbD i = true →
        (∀ c, c < 8 → t.elem i c = BitVec.ofNat 32 (lnCode (if a.fmt = .chain then .ln32 else .ln16) (sum i c).1))
        ∧ flagsOf t i = (List.range 8).foldl (fun fl c => fl ||| flags i c) (flagsOf a i))
      ∧ (t.poison = true ↔ a.poison = true
        ∨ ∃ i c, i < 64 ∧ c < 8 ∧ o.mask.getLsbD i = true ∧ ((left i).2 = true ∨ (right i c).2 = true)))
    ∧ (o.kind = .imma →
      let tw := o.tw.toNat
      let wa := field tw 0 4 + 1
      let wb := field tw 4 4 + 1
      let k := if wa * wb ≤ 16 then 32 * 2 ^ Nat.log2 (16 / (wa * wb)) else 32
      let shift := a.f.toNat - (field tw 12 4 + field tw 16 4)
      let left := fun i => operandRow s e o.a 1 0 i (k * wa / 8)
      let right := fun i c => operandRow s e o.b 1 0 (row i c) (k * wb / 8)
      let number := fun (sg : Bool) (bs : List Byte) (w kk : Nat) =>
        let n := field (leNat bs) (kk * w) w
        if sg then signed w n else (n : Int)
      let sum := fun i c => (a.elem i c).toInt + ((List.range k).map (fun kk =>
        number (o.tw.getLsbD 8) (left i).1 wa kk * number (o.tw.getLsbD 9) (right i c).1 wb kk * 2 ^ shift)).sum
      (∀ i, i < 64 → o.mask.getLsbD i = true →
        (∀ c, c < 8 → t.elem i c = clamp32 (sum i c))
        ∧ flagsOf t i = (List.range 8).foldl (fun fl c =>
            fl ||| (if sum i c < -2147483648 ∨ 2147483647 < sum i c then flSA else 0)) (flagsOf a i))
      ∧ (t.poison = true ↔ a.poison = true
        ∨ ∃ i c, i < 64 ∧ c < 8 ∧ o.mask.getLsbD i = true ∧ ((left i).2 = true ∨ (right i c).2 = true)))

/-! ### Generators and memory (spec/08, 09, 10) -/

/-- R228: a load makes its registers pending and holds, for every active lane, the bytes at its address, lowest first; memory and
every register stay. -/
def Obligations.LoadResults : Prop :=
  ∀ (s : State) (x : Issue) (d : BitVec 8) (a : BitVec 7) (b : BitVec 6) (z : BitVec 2) (place : Nat → Place), Issues s x →
    Hinted x (some 0xFFFFF) false false false → Usable x (dataRegs d z) → oddData d z = false →
    let n := 2 ^ z.toNat
    let done := fun (i : Instr) (addr : Nat → LaneAddr) => Reaches s x .load 16 false n addr place →
      CompletesGroup i s x (x.e.g.bump.addResult
        { v := (laneList x.active).flatMap (fun l => observedCells d.toNat l n (BitVec.ofNat 64 (leNat (readAny s (place l) n)))) }
        (dataRegs d z))
    (Usable x (vB a :: sPair b) → b.getLsbD 0 = false → done (.ldgUniformVector d a b z) (addrUniformVector x a.toNat b.toNat))
    ∧ (Usable x (sPair b) → b.getLsbD 0 = false → done (.ldgUniform d b z) (fun _ => addrUniform x b.toNat))
    ∧ (Usable x [.v a.toNat, .v (a.toNat + 1)] → a.getLsbD 0 = false → done (.ldgVector d a z) (addrVector x a.toNat))
    ∧ (Usable x [vB a, sN b] → done (.ldhVector d a b z) (addrHandleVector x a.toNat b.toNat))
    ∧ (Usable x [sN b] → done (.ldhOffset d b z) (fun _ => addrHandle x b.toNat))

/-- R228, R7, R209: a store writes each active lane's bytes at its address, ascending, lowest byte first; a byte of memory that
no lane stores to reads as before, and one that several lanes store to reads as the highest of them left it. -/
def Obligations.StoreResults : Prop :=
  ∀ (s : State) (x : Issue) (d : BitVec 8) (a : BitVec 7) (b : BitVec 6) (z : BitVec 2) (place : Nat → Place), Issues s x →
    x.e.g.wait = .none → Hinted x (some 0xFFFFF) false false false → Usable x (dataRegs d z) → oddData d z = false →
    let n := 2 ^ z.toNat
    let value := fun l : Nat => if z = 3 then (x.arch.getV64 d.toNat l).toNat else (x.arch.getV d.toNat l).toNat
    let stored := (laneList x.active).foldl (fun t l => t.writePlace (place l) (leBytes n (value l)) x.tag) (s.setGroup x.e.g.bump)
    let done := fun (i : Instr) (addr : Nat → LaneAddr) => Reaches s x .store 16 false n addr place →
      exec i s = .next (x.closes s stored x.e.g.bump x.onward)
      ∧ ∀ tier k, (x.closes s stored x.e.g.bump x.onward).memory.readByte tier k =
          (laneList x.active).foldl (fun y l => match place l with
            | .mem u p _ => if u = tier ∧ p ≤ k ∧ k < p + n then (leBytes n (value l)).getD (k - p) 0 else y
            | _ => y) (s.memory.readByte tier k)
    (Usable x (vB a :: sPair b) → b.getLsbD 0 = false → done (.stgUniformVector d a b z) (addrUniformVector x a.toNat b.toNat))
    ∧ (Usable x (sPair b) → b.getLsbD 0 = false → done (.stgUniform d b z) (fun _ => addrUniform x b.toNat))
    ∧ (Usable x [.v a.toNat, .v (a.toNat + 1)] → a.getLsbD 0 = false → done (.stgVector d a z) (addrVector x a.toNat))
    ∧ (Usable x [vB a, sN b] → done (.sthVector d a b z) (addrHandleVector x a.toNat b.toNat))
    ∧ (Usable x [sN b] → done (.sthOffset d b z) (fun _ => addrHandle x b.toNat))

/-- R230: the value each operation writes, on values of its width; a CAS that fails writes none. R206, R230, R232: one read-modify-
write of a memory place: it reads the old value, writes the new value's bytes there, and leaves every other byte. -/
def Obligations.AtomicOperationRules : Prop :=
  ((∀ (v old cmp : Word) (lane : Nat) (amr : Word),
      let new := fun op : Nat => Rmw.new { op := op, width := 4, operand := v.setWidth 64, cmp := cmp.setWidth 64, lane := lane } amr (old.setWidth 64)
      let is := fun (op : Nat) (w : Word) => new op = (some (w.setWidth 64), 0)
      is 0 v ∧ new 1 = (if old = cmp then some (v.setWidth 64) else none, 0) ∧ is 2 (old + v)
      ∧ is 3 (if old.slt v then old else v) ∧ is 4 (if old.slt v then v else old)
      ∧ is 5 (if old.ult v then old else v) ∧ is 6 (if old.ult v then v else old)
      ∧ is 7 (old &&& v) ∧ is 8 (old ||| v) ∧ is 9 (old ^^^ v)
      ∧ (let r := lnAdd .ln32 (roundAmr amr) (lnVal .ln32 v.toNat) (lnVal .ln32 old.toNat)
         new 10 = (some (BitVec.ofNat 64 (lnCode .ln32 r.1)), r.2)))
    ∧ (∀ (v old cmp : BitVec 64) (lane : Nat) (amr : Word),
      let new := fun op : Nat => Rmw.new { op := op, width := 8, operand := v, cmp := cmp, lane := lane } amr old
      let is := fun (op : Nat) (w : BitVec 64) => new op = (some w, 0)
      is 0 v ∧ new 1 = (if old = cmp then some v else none, 0) ∧ is 2 (old + v)
      ∧ is 3 (if old.slt v then old else v) ∧ is 4 (if old.slt v then v else old)
      ∧ is 5 (if old.ult v then old else v) ∧ is 6 (if old.ult v then v else old)
      ∧ is 7 (old &&& v) ∧ is 8 (old ||| v) ∧ is 9 (old ^^^ v)))
  ∧ (∀ (s : State) (t : Tier) (a ia : Nat) (r : Rmw) (amr : Word) (tag : BitVec 64), r.width = 4 ∨ r.width = 8 →
      let old := BitVec.ofNat 64 (leNat (s.memory.read t a r.width))
      let after := performRmw s (.mem t a ia) r amr tag
      after.2.1 = old ∧ after.2.2 = (r.new amr old).2
      ∧ ((r.new amr old).1 = none → after.1 = s)
      ∧ (∀ v, (r.new amr old).1 = some v → after.1.memory.read t a r.width = leBytes r.width v.toNat)
      ∧ (∀ u k, ¬(u = t ∧ a ≤ k ∧ k < a + r.width) → after.1.memory.readByte u k = s.memory.readByte u k))

/-- R231, R232, R234, R235, R237: an ATOM performs its lanes in ascending order and holds the observed values; a RED enters its
lanes' operands into the fast buffer, and the ninth undrained one drains the others first; ABFL performs what is undrained. The
launch's determinism is off. R220, R236: several undrained entries are drained in the order of lane and issue, each as one
read-modify-write of its operation, where the walk at its issue has put it (log entry 88, DEDUCED). The quota counts the REDs with an
entry since the group's own last flush point (log entry 107, DEDUCED). -/
def Obligations.AtomicReductionResults : Prop :=
  (∀ (t : State) (amr : Word) (e : RedEntry),
    performRed t amr e = (performRmw t e.place
      { op := e.op, width := if e.type % 2 = 1 then 8 else 4, operand := e.operand, cmp := 0, lane := e.lane } amr e.tag).1)
  ∧ ∀ (s : State) (x : Issue), Issues s x → x.e.g.wait = .none → x.e.l.lh.mode = 0 →
    (∀ (d a : BitVec 8) (o : BitVec 4) (t : BitVec 2) (place : Nat → Place), Hinted x (some 0xFFFFF) false false false →
      atomIllegal o t = false → atomPairBad a = false → atomDataBad d o t = false →
      Usable x (vPair a ++ atomData d o t ++ atomDest d t) →
      Reaches s x .atomic o.toNat false (atomBytes t) (atomAddr a t x) place →
      ((x.e.g.outstanding.filter (·.atom)).length < 8 →
        let r := performLanes s x.amr d.toNat x.tag ((laneList x.active).map (fun i => (place i, atomOperands x.arch d o t i)))
        CompletesWith (.atom d a o t) s x r.1 [] false
          (x.e.g.bump.addResult { v := r.2.1, flags := r.2.2, atom := true } (atomDest d t)))
      ∧ (2 ≤ o.toNat → x.e.g.batch = [] →
        let entries : List RedEntry := (laneList x.active).map (fun i =>
          { core := x.core, team := x.e.t.id, place := place i, addr := (atomAddr a t x i).coded, op := o.toNat, type := t.toNat,
            operand := (atomOperands x.arch d o t i).operand, lane := i, issue := x.e.g.redCount, tag := x.tag })
        (x.e.g.redQuota < 8 ∨ x.active = 0 → CompletesGroup (.red d a o t) s x
          { x.e.g.bump with reds := x.e.g.reds ++ entries, redCount := x.e.g.redCount + 1
                            redQuota := if x.active = 0 then x.e.g.redQuota else x.e.g.redQuota + 1 })
        ∧ (8 ≤ x.e.g.redQuota → x.active ≠ 0 → ∀ es, DrainsAs x es → CompletesWith (.red d a o t) s x (x.drained s es) [] false
          { x.e.g.bump with reds := entries, redCount := x.e.g.redCount + 1, redQuota := 1 })))
    ∧ (Hinted x none false false false →
      (x.e.g.reds = [] → x.e.g.batch = [] → CompletesGroup .abfl s x { x.e.g with redQuota := 0 })
      ∧ (∀ es, DrainsAs x es → CompletesWith .abfl s x (x.drained s es) [] false x.emptied))

/-- R215, R216, R238: a fence with nothing to wait for completes at issue; one that names T opens its window, and one that does not
joins the incomplete fences of the group. R243: PREF changes nothing but the registers that have fast-buffer slots. R216 to R218: past
an incomplete fence that names T, register words execute (NOP and IADD stand for them), LDG, LDH, TLD and VFIL read with the bytes of held
stores before memory's and watch what they read, STG, STH, TST, VSPL and ATOM are held, and every other word stalls, as does one of those
that would fault; no word at all issues after 32 words or four rollbacks. That a word which would fault waits for the end of the window is
DEDUCED (log entry 20), as is that QBIND.unbind, which the table of R216 does not name, stalls there (log entry 38, DEDUCED). Which poison
a TLD gives whose bytes a held store covers is the model's choice (log entry 112, DESIGN CHOICE). -/
def Obligations.FenceAndPrefetchResults : Prop :=
  (∀ (s : State) (x : Issue) (set : BitVec 6), Issues s x → Hinted x none false false false →
      let ws := fenceWaits s x.e set
      (ws = [] → CompletesGroup (.fenceX set) s x x.e.g)
      ∧ (ws ≠ [] → set.getLsbD 0 = true → CompletesGroup (.fenceX set) s x { x.e.g with
          fence := some { set := set, waits := ws, snapshot := x.arch, word := s.fetched, tokens := x.e.g.tokens,
                          heldFlags := x.e.g.heldFlags, after := x.e.g.after, bad := x.e.g.bad } })
      ∧ (ws ≠ [] → set.getLsbD 0 = false → CompletesGroup (.fenceX set) s x { x.e.g with soft := [{ set := set, waits := ws, next := s.nextId }] }))
  ∧ (∀ (s : State) (x : Issue) (d a b : BitVec 8), Issues s x → Hinted x (some 0x3FFFF) false false false →
      let ranges := prefRanges d a b x.run
      (∀ r ∈ ranges, r.2.toNat ≤ 32 ∧ (r.2 = 0 → r.1 = 0) ∧ (r.2 ≠ 0 → r.1.toNat + r.2.toNat ≤ min 128 x.e.l.kh.regs)) →
      (ranges.map (fun r => r.2.toNat)).sum ≤ 32 →
      CompletesGroup (.pref d a b) s x { x.e.g with pref := ranges })
  ∧ (∀ (held : List HeldAccess) (p : Place) (k : Nat) (b : Byte), forwarded held p = some (k, b) ↔
      (∃ h, held[k]? = some h ∧ h.byteAt p = some b) ∧ ∀ j h, k < j → held[j]? = some h → h.byteAt p = none)
  ∧ (∀ (p : Place) (l : Nat) (bs : List Byte) (tag : BitVec 64),
      (∀ t u a b i j, (HeldAccess.store (.mem t a i) l bs tag).byteAt (.mem u b j) = if t = u ∧ a ≤ b then bs[b - a]? else none)
      ∧ (∀ t u i j a b, (HeldAccess.store (.loft t i a) l bs tag).byteAt (.loft u j b) = if t = u ∧ i = j ∧ a ≤ b then bs[b - a]? else none)
      ∧ (∀ r d, (HeldAccess.atom p r d tag).byteAt p = none))
  ∧ (∀ (s : State) (x : Issue) (w : FenceWin), IssuesPast s x w →
      let stalls := fun i : Instr => exec i s = .next { s with stalled := true }
      let counted := fun (g : Group) (v : FenceWin) => { g with fence := some { v with issued := w.issued + 1 } }
      let reached := fun (p : Place) (n : Nat) => (List.range n).map (fun k => forwarded w.held (p.add k))
      let bytes := fun (p : Place) (n : Nat) => ((readAny s p n).zip (reached p n)).map (fun y => match y.2 with
        | some (_, v) => v
        | none => y.1)
      let watches := fun (l : Nat) (p : Place) (n : Nat) => (unitsOf p n).map (fun u =>
        ({ unit := u, lane := l, forwarded := ((reached p n).filterMap (fun f => f.map (·.1))).eraseDups, behind := w.held.length } : Watch))
      let watched := fun (ws : List Watch) => { w with watched := (w.watched ++ ws).eraseDups }
      let holds := fun (l : Nat) (p : Place) (bs : List Byte) => match p with
        | .window _ _ _ => []
        | q => [HeldAccess.store q l bs x.tag]
      (∀ (c m : BitVec 3) (a b e : BitVec 6) (d r : BitVec 8) (f n : BitVec 3) (o st q : BitVec 5) (z : BitVec 2) (v : BitVec 7) (p : Bool)
          (op : BitVec 4) (num : BitVec 12),
        (∀ i ∈ [Instr.red d r op z, .abfl, .fenceX a, .qpush op a, .qpop a op, .qtry a op b, .waitmUniformVector d v b z, .waitmUniform d b z,
          .waitmVector d v z, .spawn a b, .tsub a b, .talloc a b p, .tfree a, .exit, .yield, .lockx, .unlockx, .mwaitAll, .mwait c,
          .amov c m, .awr c q, .aclrLn32 c, .aclrLn16 c, .aclrS32 c o, .imma c a b n p, .lmma c a b f st p, .lmms c a b f n z p,
          .qbindUnbind op, .tret, .bar c o, .barl a z c o, .gset a n, .swrite a b e, .trap num, .bkpt num, .qbindInit op a,
          .qbindAttach op a], stalls i))
      ∧ (Hinted x none false false false →
        CompletesGroup .nop s x (counted x.e.g w)
        ∧ ∀ d a b, Usable x [vN d, vN a, vN b] →
          CompletesGroup (.iadd d a b) s x (counted { x.e.g with
            arch := setActive x d.toNat (fun i => x.arch.getV a.toNat i + x.arch.getV b.toNat i) x.arch } w))
      ∧ (∀ (d : BitVec 8) (a : BitVec 7) (b : BitVec 6) (z : BitVec 2) (place : Nat → Place),
        let n := 2 ^ z.toNat
        let value := fun l : Nat => if z = 3 then (x.arch.getV64 d.toNat l).toNat else (x.arch.getV d.toNat l).toNat
        let loads := fun (i : Instr) (addr : Nat → LaneAddr) =>
          (Reaches s x .load 16 false n addr place →
            CompletesGroup i s x (counted (x.e.g.bump.addResult
              { v := (laneList x.active).flatMap (fun l => observedCells d.toNat l n (BitVec.ofNat 64 (leNat (bytes (place l) n))))
                spec := true } (dataRegs d z))
              (watched ((laneList x.active).flatMap (fun l => watches l (place l) n)))))
          ∧ ((∃ l c, l < 64 ∧ x.active.getLsbD l = true ∧ checkLane s x .load 16 false n (addr l) = .error c) → stalls i)
        let stores := fun (i : Instr) (addr : Nat → LaneAddr) =>
          (Reaches s x .store 16 false n addr place → CompletesGroup i s x (counted x.e.g.bump
            { w with held := w.held ++ (laneList x.active).flatMap (fun l => holds l (place l) (leBytes n (value l))) }))
          ∧ ((∃ l c, l < 64 ∧ x.active.getLsbD l = true ∧ checkLane s x .store 16 false n (addr l) = .error c) → stalls i)
        Hinted x (some 0xFFFFF) false false false → Usable x (dataRegs d z) → oddData d z = false →
        (Usable x (vB a :: sPair b) → b.getLsbD 0 = false →
          loads (.ldgUniformVector d a b z) (addrUniformVector x a.toNat b.toNat)
          ∧ stores (.stgUniformVector d a b z) (addrUniformVector x a.toNat b.toNat))
        ∧ (Usable x (sPair b) → b.getLsbD 0 = false →
          loads (.ldgUniform d b z) (fun _ => addrUniform x b.toNat) ∧ stores (.stgUniform d b z) (fun _ => addrUniform x b.toNat))
        ∧ (Usable x [.v a.toNat, .v (a.toNat + 1)] → a.getLsbD 0 = false →
          loads (.ldgVector d a z) (addrVector x a.toNat) ∧ stores (.stgVector d a z) (addrVector x a.toNat))
        ∧ (Usable x [vB a, sN b] →
          loads (.ldhVector d a b z) (addrHandleVector x a.toNat b.toNat)
          ∧ stores (.sthVector d a b z) (addrHandleVector x a.toNat b.toNat))
        ∧ (Usable x [sN b] →
          loads (.ldhOffset d b z) (fun _ => addrHandle x b.toNat) ∧ stores (.sthOffset d b z) (fun _ => addrHandle x b.toNat)))
      ∧ (∀ (d a : BitVec 8) (o : BitVec 4) (t : BitVec 2) (place : Nat → Place), Hinted x (some 0xFFFFF) false false false →
        atomIllegal o t = false → atomPairBad a = false → atomDataBad d o t = false →
        Usable x (vPair a ++ atomData d o t ++ atomDest d t) → (x.e.g.outstanding.filter (·.atom)).length < 8 →
        Reaches s x .atomic o.toNat false (atomBytes t) (atomAddr a t x) place →
        CompletesGroup (.atom d a o t) s x (counted (x.e.g.bump.addResult { held := true, spec := true, atom := true } (atomDest d t))
          { w with held := w.held
              ++ (laneList x.active).map (fun l => HeldAccess.atom (place l) (atomOperands x.arch d o t l) d.toNat x.tag) }))
      ∧ (∀ (t d st : BitVec 6), Hinted x none false false false → t.toNat < 8 → xIsTile d = false → Usable x (xReads d ++ [.t t.toNat]) →
        let desc := x.arch.getS64 (2 * (d.toNat % 32))
        let chunks := fun r : Nat => rowChunks desc 1 st.toNat r 32
        let place := fun c : Nat × Nat => handlePlace s x.e.accessor (descHandle desc) c.1 c.2
        let each := fun {α : Type} (f : Place → Nat → List α) (r : Nat) => (chunks r).flatMap (fun c => ((place c).map (fun p => f p c.2)).getD [])
        let bad := (laneList x.active).any (fun r => (chunks r).any (fun c => ((place c).map (fun p => s.poisonedPlace p c.2)).getD false))
        let held := (laneList x.active).flatMap (fun r => ((chunks r).zip (List.range 2)).flatMap (fun c =>
          ((place c.1).map (fun p => holds r p (sliceBytes (x.arch.tRow t.toNat r) (16 * c.2) 16))).getD []))
        (checkDesc s x.e.accessor desc 1 32 [st.toNat] (laneList x.active) = none →
          (∀ r c, c ∈ chunks r → x.active.getLsbD r = true → (place c).isSome) →
          (x.e.g.usesTile t.toNat = false → CompletesGroup (.tld t d st) s x (counted (x.e.g.bump.addResult
            { t := (laneList x.active).flatMap (fun r => rowCells t.toNat r (each bytes r)),
              tile := some (t.toNat, bad, x.active == BitVec.allOnes 64), spec := true } [.t t.toNat])
            (watched ((laneList x.active).flatMap (fun r => each (watches r) r)))))
          ∧ (t.toNat ∉ x.arch.tPoison → CompletesGroup (.tst t d st) s x (counted x.e.g.bump { w with held := w.held ++ held })))
        ∧ (checkDesc s x.e.accessor desc 1 32 [st.toNat] (laneList x.active) ≠ none → stalls (.tld t d st) ∧ stalls (.tst t d st))
        ∧ (t.toNat ∈ x.arch.tPoison → stalls (.tst t d st)))
      ∧ (∀ (d : BitVec 8) (b : BitVec 6) (h : Bool), Hinted x (some 0xFFFFF) false false false → Usable x (vN d :: spillRegs b h) →
        (h = false → b.getLsbD 0 = false) →
        let at_ := spillAddr b h x
        let record := spillRecord ((List.range 64).map (x.arch.getV d.toNat))
        let reads := fun ps : List (Place × Nat) => ps.flatMap (fun p => bytes p.1 p.2)
        (∀ ps, checkRecord s x.e.accessor .store record.length at_ = .ok ps → CompletesGroup (.vspl d b h) s x (counted x.e.g.bump
          { w with held := w.held ++ ((wholeSectors ps).foldl (fun acc p =>
              (acc.1 ++ holds 64 p.1 (sliceBytes record acc.2 p.2), acc.2 + p.2)) (([] : List HeldAccess), 0)).1 }))
        ∧ (∀ c, checkRecord s x.e.accessor .store record.length at_ = .error c → stalls (.vspl d b h))
        ∧ (∀ c, checkRecord s x.e.accessor .load 16 at_ = .error c → stalls (.vfil d b h))
        ∧ (∀ hs, checkRecord s x.e.accessor .load 16 at_ = .ok hs →
          let length := spillLength (byteField (reads hs) 0 1)
          (length = none → stalls (.vfil d b h))
          ∧ (∀ n c, length = some n → checkRecord s x.e.accessor .load n at_ = .error c → stalls (.vfil d b h))
          ∧ (∀ n ps, length = some n → checkRecord s x.e.accessor .load n at_ = .ok ps →
            CompletesGroup (.vfil d b h) s x (counted (x.e.g.bump.addResult
              { v := (List.range 64).map (fun i => (64 * d.toNat + i, (fillRecord (reads ps)).getD i 0)), spec := true } [vN d])
              (watched (ps.flatMap (fun p => watches 64 p.1 p.2))))))))
  ∧ (∀ (s : State) (x : Issue) (w : FenceWin) (i : Instr), s.issuer = some (x.core, x.slot) → issueOf s x.core x.slot = some x →
      x.slot ≠ 63 → x.e.g.fence = some w → 32 ≤ w.issued ∨ 4 ≤ w.rollbacks → wordless i = false ∨ i = .unassignedMajor →
      exec i s = .next { s with stalled := true })

/-- R239, R241: TALLOC gives the lowest free index of its owner, a tile of zeros and the handle, or 0xFFFF where it cannot be
satisfied; TFREE releases a tile that is held, idle and not bound. The launch's determinism is off. R200, R201: GSET in a
privileged launch of a context without a deterministic launch and without a command that a flush left running installs a valid entry
(log entry 109, DEDUCED); GCFG reads the eight words of a window. R188, R200: what an
installed entry leaves in the window and its range register. R192 to R197: the bytes that a window gives, by element, and the values
of ramp, mask, rotary and hash elements, whatever the AMR holds. A TFREE that drains the REDs through its handle, and waits for what a saved team has
yet to do there, is DEDUCED (log entry 94). -/
def Obligations.TileAndWindowResults : Prop :=
  (∀ (s : State) (x : Issue) (d a : BitVec 6) (barn : Bool), Issues s x → Hinted x none false false false → x.e.l.lh.mode = 0 →
      let shape := x.arch.getS a.toNat
      let rows := shape.toNat / 4096
      let pitch := shape.toNat % 4096
      let granules := (pitch * 16 * rows + 255) / 256
      let mine := if barn then (x.e.l.barn.filter (fun t => t.1 == clusterOf x.core)).map (·.2) else x.e.t.loft
      let declared := if barn then x.e.l.kh.barn else x.e.l.kh.loft
      let fits := rows ≠ 0 ∧ pitch ≠ 0 ∧ granules ≤ (if barn then 65536 else 4096) ∧ (mine.map (·.granules)).sum + granules ≤ declared
      (Usable x [sN a, sN d] →
        let holds := fun h : Nat => x.e.g.bump.addResult { s := [(d.toNat, BitVec.ofNat 32 h)] } [sN d]
        (∀ i, fits → i < (if barn then 1024 else 64) → i ∉ mine.map (·.index) → (∀ j, j < i → j ∈ mine.map (·.index)) →
          let tile : Tile := { index := i, granules := granules, shape := shape, ctx := x.e.l.ctx }
          let t := if barn then s.mapLaunch x.e.l.id (fun l => { l with barn := l.barn ++ [(clusterOf x.core, tile)] })
            else s.mapTeam x.e.t.id (fun u => { u with loft := u.loft ++ [tile] })
          CompletesWith (.talloc d a barn) s x t [] false (holds (i + if barn then 0x4000 else 0)))
        ∧ (¬fits ∨ (∀ i, i < (if barn then 1024 else 64) → i ∈ mine.map (·.index)) →
          CompletesGroup (.talloc d a barn) s x (holds 0xFFFF)))
      ∧ (Usable x [sN a] →
        let h := shape.toNat % 65536
        h < 0x8000 → (∃ t ∈ ownerTiles x.e (0x4000 ≤ h), t.index = h % 0x4000) → handleBusy s x.e h = false → handleBound s x.e h = false →
        let sharers := (handleGroups s x.e h).filter (fun g => (g.reds ++ g.batch).any (fun e => e.place.within x.e h))
        (sharers = [] → CompletesWith (.tfree a) s x (dropTile s x.e h) [] false x.e.g)
        ∧ (∀ s1 g1, drainGroups s x.e.l.id sharers (some (fun e => e.place.within x.e h)) = (s1, true, none) →
          s1.group? x.core x.slot = some g1 →
          exec (.tfree a) s = .next (x.closes s (dropTile s1 x.e h) g1 x.onward))))
  ∧ (∀ (s : State) (x : Issue) (a : BitVec 6) (g : BitVec 3), Issues s x → Hinted x none false false false → a.toNat % 8 = 0 →
      Usable x (octet a) →
      (let entry := (List.range 8).map (fun k => x.arch.getS (a.toNat + k))
       x.e.l.privileged = true → (∀ l ∈ s.launches, l.ctx = x.e.l.ctx → l.lh.mode = 0) →
        (∀ c ∈ s.commands, c.ctx = x.e.l.ctx → c.discard = false) → entryValid s x.e.l.ctx g.toNat entry = true →
        CompletesWith (.gset a g) s x (installWindow s x.e.l.ctx g.toNat entry) [] false x.e.g)
      ∧ Completes (.gcfg a g) s x ((List.range 8).foldl (fun r k =>
          r.setS (a.toNat + k) (smGet 0 (8 * g.toNat + k) (s.context x.e.l.ctx).windows)) x.arch))
  ∧ (∀ (s : State) (c g : Nat) (e : List Word), g < 8 → e.length = 8 →
      let t := installWindow s c g e
      let kind := field (e.getD 3 0).toNat 0 8
      windowEntry t c g = e ∧ (∀ h, h < 8 → h ≠ g → windowEntry t c h = windowEntry s c h)
      ∧ (kind ≠ 0 → entryBase e % 4096 = 0 →
        rangeKind t c (15 - g) = 2 ∧ rangeBase t c (15 - g) = entryBase e ∧ rangeBytes t c (15 - g) = 4096 * (e.getD 2 0).toNat
        ∧ t.sys c (0x120 + (15 - g)) = BitVec.ofNat 64 g)
      ∧ (kind = 0 → rangeKind s c (15 - g) = 2 → rangeKind t c (15 - g) = 0))
  ∧ (∀ (s : State) (c g off n : Nat),
      let e := windowEntry s c g
      let z := max 1 (elementSize (entryKind e) (entryFormat e))
      let bs := readAny s (.window c g off) n
      bs.length = n ∧ ∀ j, j < n → bs[j]? = some (BitVec.ofNat 8 (windowElement e ((off + j) / z) / 2 ^ (8 * ((off + j) % z)))))
  ∧ (∀ (e : List Word) (n : Nat),
      let w := fun k : Nat => e.getD k 0
      let near : Rounding := { mode := 0, inf := true, flush := true, r := 0 }
      let kind := field (w 3).toNat 0 8
      let format := field (w 3).toNat 8 3
      let element := windowElement e n
      (kind = 1 →
        let v := (w 5 ++ w 4 : BitVec 64).toInt + (w 6).toInt * n
        let ln := fun m : LnFmt => if v = 0 then lnCode m (.zero false)
          else lnCode m (lnFinish m near (decide (v < 0)) (fx2ln v.natAbs ((w 7).toNat % 32))).1
        (format = 0 → (element : Int) = v % 2 ^ 32) ∧ (format = 1 → (element : Int) = v % 2 ^ 64)
        ∧ (format = 2 → element = ln .ln16) ∧ (format = 3 → element = ln .ln32))
      ∧ (kind = 2 →
        let rule := field (w 3).toNat 12 2
        let row := (w 5).toInt + (n / (w 4).toNat : Nat)
        let col := (w 6).toInt + (n % (w 4).toNat : Nat)
        let holds := (rule = 0 ∧ col ≤ row) ∨ (rule = 1 ∧ row - (w 7).toNat < col ∧ col ≤ row) ∨ (rule = 2 ∧ col ≤ row + (w 7).toInt)
        rule < 3 → ∀ m, (format, m) ∈ [(0, LnFmt.ln8), (1, .ln16), (2, .ln32)] →
          element = if holds then lnCode m (.fin false 0) else lnCode m (.zero false))
      ∧ (kind = 3 → ∀ m, (format, m) ∈ [(1, LnFmt.ln16), (2, .ln32)] →
        let d := (w 5).toNat
        let p := (w 6).toNat + n / d
        let c := n % d
        let x := -2 * ((c / 2 : Nat) : Int) * (w 4).toInt
        let q := x / d
        let r := x % d
        let lf := if d < 2 * r ∨ (2 * r = d ∧ q % 2 = 1) then q + 1 else q
        let y := (lnParts 22 (lf - 11121181)).1
        let ex := (lnParts 22 (lf - 11121181)).2.1
        let turn := shiftInt (p * y) (ex - 10) % 2 ^ 30
        let a := if c % 2 = 0 then (turn + 2 ^ 28) % 2 ^ 30 else turn
        let sine := (sin30 (if a / 2 ^ 28 % 2 = 0 then a % 2 ^ 28 else 2 ^ 28 - a % 2 ^ 28)).toNat
        element = (if sine = 0 then lnCode m (.zero false) else lnCode m (lnFinish m near (decide (2 ≤ a / 2 ^ 28)) (fx2ln sine 40)).1)
        ∧ (p = 0 → element = lnCode m (if c % 2 = 0 then .fin false 0 else .zero false)))
      ∧ (kind = 4 →
        let round := fun (h : (Word × Word × Word × Word) × Word × Word) =>
          let c := h.1
          let p0 : BitVec 64 := c.1.setWidth 64 * 0xE817FB2D
          let p1 : BitVec 64 := c.2.2.1.setWidth 64 * 0xB5A36C47
          ((p1.extractLsb' 32 32 ^^^ c.2.1 ^^^ h.2.1, p1.extractLsb' 0 32, p0.extractLsb' 32 32 ^^^ c.2.2.2 ^^^ h.2.2, p0.extractLsb' 0 32),
            h.2.1 + 0x7F4A7C15, h.2.2 + 0x58C69B2B)
        let r := (Nat.repeat round 10
          ((BitVec.ofNat 32 (n / 4), BitVec.ofNat 32 (n / 2 ^ 34), w 6, w 7), w 4, w 5)).1
        element = ([r.1, r.2.1, r.2.2.1, r.2.2.2].getD (n % 4) 0).toNat))

/-- R244, R245, R246: VSPL chooses the format of its record by the differences from lane 0's value; the record has the length of
its format byte and gives the 64 values back. VSPL writes the record of all 64 lanes at its address, in pieces of at most 16 bytes of which
the two halves of a memory sector go together, so that poison is written over (R394); VFIL reads the record there and holds its 64 values
until delivery. -/
def Obligations.SpillFillResults : Prop :=
  (∀ vs : List Word, vs.length = 64 →
      let all := fun (f : Int → Bool) => (List.range 64).all (fun i => f (vs.getD i 0 - vs.getD 0 0).toInt)
      byteField (spillRecord vs) 0 1 = (if all (fun d => d == 0) then 1 else if all (fun d => -128 ≤ d && d ≤ 127) then 2
        else if all (fun d => -32768 ≤ d && d ≤ 32767) then 3 else 0)
      ∧ spillLength (byteField (spillRecord vs) 0 1) = some (spillRecord vs).length ∧ fillRecord (spillRecord vs) = vs)
  ∧ (∀ ps : List (Place × Nat),
      let bytes := fun qs : List (Place × Nat) => qs.flatMap (fun p => (List.range p.2).map p.1.add)
      bytes (wholeSectors ps) = bytes ps)
  ∧ (∀ (s : State) (x : Issue) (d : BitVec 8) (b : BitVec 6) (h : Bool) (ps : List (Place × Nat)), Issues s x → x.e.g.wait = .none →
      Hinted x (some 0xFFFFF) false false false → Usable x (vN d :: spillRegs b h) → (h = false → b.getLsbD 0 = false) →
      let at_ := spillAddr b h x
      let record := spillRecord ((List.range 64).map (x.arch.getV d.toNat))
      (checkRecord s x.e.accessor .store record.length at_ = .ok ps →
        exec (.vspl d b h) s = .next (x.closes s ((wholeSectors ps).foldl (fun acc p =>
          (acc.1.writePlace p.1 (sliceBytes record acc.2 p.2) x.tag, acc.2 + p.2)) (s.setGroup x.e.g.bump, 0)).1 x.e.g.bump x.onward))
      ∧ (∀ hs n, checkRecord s x.e.accessor .load 16 at_ = .ok hs →
        spillLength (byteField (hs.flatMap (fun p => readAny s p.1 p.2)) 0 1) = some n →
        checkRecord s x.e.accessor .load n at_ = .ok ps →
        let values := fillRecord (ps.flatMap (fun p => readAny s p.1 p.2))
        CompletesGroup (.vfil d b h) s x (x.e.g.bump.addResult
          { v := (List.range 64).map (fun i => (64 * d.toNat + i, values.getD i 0)) } [vN d])))

/-! ### Queues and waiting (spec/10_memory_instr.md, spec/11_data_on_move.md) -/

/-- R250, R251, R253: a push to a named queue with a free entry writes the entry at the tail, moves the tail and takes one from
the allowance; a pop of a queue with an entry gives the entry at the head; a push to a full queue and a pop of an empty one block
the group at the word, and a QTRY of an empty queue answers 0. That a QTRY of an empty queue makes all three registers pending is
the model's reading (log entry 27, DEDUCED), and that the status stands where it meets a half of the entry its choice (log entry 114,
DESIGN CHOICE). -/
def Obligations.NamedQueueResults : Prop :=
  ∀ (s : State) (x : Issue) (n : BitVec 4) (r b : BitVec 6) (q : Binding) (p : Place), Issues s x →
    Hinted x none false false false → Usable x (sPair r) → r.getLsbD 0 = false → x.e.g.wait = .none → x.e.l.lh.mode = 0 →
    8 ≤ n.toNat → x.e.t.binding n.toNat = some q → storagePlace s x.e.accessor q.handle q.capacity = some p →
    s.poisonedPlace p 16 = false → (queueHeader (s.readPlace p 16)).ok q.capacity = true →
    let h := queueHeader (s.readPlace p 16)
    let entry := fun k : Nat => p.add (16 + 8 * k)
    let blocks := fun (push : Bool) => s.setGroup { x.e.g with wait := .queue push n.toNat r.toNat, waitWord := s.fetched }
    let popped := (s.writePlace p (leBytes 4 ((h.head + 1) % q.capacity)) x.tag).writePlace (p.add 8) (leBytes 4 (h.allowance + 1)) x.tag
    let v := BitVec.ofNat 64 (leNat (s.readPlace (entry h.head) 8))
    let pair := [(r.toNat, v.extractLsb' 0 32), (r.toNat + 1, v.extractLsb' 32 32)]
    (0 < h.allowance → exec (.qpush n r) s = .next (x.closes s
      ((s.writePlace (entry h.tail) (leBytes 8 (x.arch.getS64 r.toNat).toNat) x.tag).writePlace (p.add 4)
        (leBytes 4 ((h.tail + 1) % q.capacity) ++ leBytes 4 (h.allowance - 1)) x.tag) x.e.g.bump x.onward))
    ∧ (h.allowance = 0 → exec (.qpush n r) s = .next (blocks true))
    ∧ (h.allowance < q.capacity → s.poisonedPlace (entry h.head) 8 = false →
      exec (.qpop r n) s = .next (x.closes s popped (x.e.g.bump.addResult { s := pair } (sPair r)) x.onward)
      ∧ (Usable x [sN b] → exec (.qtry r n b) s =
          .next (x.closes s popped (x.e.g.bump.addResult { s := pair ++ [(b.toNat, 1)] } (sPair r ++ [sN b])) x.onward)))
    ∧ (h.allowance = q.capacity →
      exec (.qpop r n) s = .next (blocks false)
      ∧ (Usable x [sN b] → CompletesGroup (.qtry r n b) s x (x.e.g.bump.addResult { s := [(b.toNat, 0)] } (sPair r ++ [sN b]))))

/-- R256 to R258, R278: a push to q0, q1 or q2 that passes the engine's checks appends a command with its descriptor and makes its
token a tracked one; a push to q3 appends a thresher input; a full queue blocks the group at the word. -/
def Obligations.CommandPushResults : Prop :=
  ∀ (s : State) (x : Issue) (n : BitVec 4) (a : BitVec 6), Issues s x → Hinted x none false false false → Usable x (sPair a) →
    a.getLsbD 0 = false → x.e.l.lh.mode = 0 →
    let w := x.arch.getS64 a.toNat
    let k := s.coreAt x.core
    let blocks := s.setGroup { x.e.g with wait := .queue true n.toNat a.toNat, waitWord := s.fetched }
    (n = 3 → w.extractLsb' 0 4 = 0 →
      (k.inputs.length < 32 → exec (.qpush n a) s = .next (x.closes s
        { s.setCore x.core { k with inputs := k.inputs ++
            [{ team := x.e.t.id, group := x.e.g.index, word := w, id := s.nextId, tag := x.tag }] } with nextId := s.nextId + 1 }
        x.e.g.bump x.onward))
      ∧ (32 ≤ k.inputs.length → exec (.qpush n a) s = .next blocks))
    ∧ (n.toNat < 3 →
      let e := engineOf x.core n.toNat
      let regs := (List.range 8).map (fun j => RegRef.s (cmdDesc w + j))
      let desc := (List.range 8).map (fun j => x.arch.getS (cmdDesc w + j))
      Usable x (regs ++ [.s (cmdToken w)]) → cmdDesc w % 8 = 0 → commandCheck s x.e.l.ctx e w desc = none →
      (x.e.g.tokens.filter (·.result.isNone)).length < 16 →
      let c : Command :=
        { id := s.nextId, engine := e, team := x.e.t.id, launch := x.e.l.id, ctx := x.e.l.ctx, core := x.core, slot := x.slot,
          index := x.e.g.index, token := cmdToken w, lanes := x.active, word := w, desc := desc, pc := x.entry.pc,
          instrWord := s.fetched, wordIx := x.wordIx, sseq := x.arch.sseq,
          workId := (x.e.workId ((lowestLane x.active).getD 0)).setWidth 32, tag := x.tag }
      let t : Token := { reg := cmdToken w, cmd := c.id, lanes := x.active, pc := x.entry.pc, word := s.fetched, tag := x.tag, core := x.core }
      let sseq := if roundingCommand e w && commandMode x.amr w == 4 then x.arch.sseq + 1 else x.arch.sseq
      ((s.commands.filter (fun c => c.engine == e)).length < 64 → exec (.qpush n a) s = .next (x.closes s
        { s with commands := s.commands ++ [c], nextId := s.nextId + 1 }
        { x.e.g.bump with tokens := x.e.g.tokens ++ [t], arch := { x.arch with sseq := sseq } } x.onward))
      ∧ (64 ≤ (s.commands.filter (fun c => c.engine == e)).length → exec (.qpush n a) s = .next blocks))

/-- R249: init writes a fresh header and binds, attach binds, unbind removes the binding and strikes the groups of the team that
are blocked on the queue. -/
def Obligations.QueueBindingResults : Prop :=
  ∀ (s : State) (x : Issue) (n : BitVec 4) (a : BitVec 6), Issues s x → Hinted x none false false false → 8 ≤ n.toNat →
    x.e.g.wait = .none →
    let w := (x.arch.getS a.toNat).toNat
    let q : Binding := { q := n.toNat, handle := BitVec.ofNat 16 w, capacity := w / 65536 % 4096 + 1 }
    let bound := s.mapTeam x.e.t.id (fun t => { t with queues := t.queues ++ [q] })
    (Usable x [sN a] → w < 2 ^ 28 → x.e.t.binding n.toNat = none → ∀ p, storagePlace s x.e.accessor q.handle q.capacity = some p →
      exec (.qbindInit n a) s = .next (x.closes s (bound.writePlace p (leBytes 4 0 ++ leBytes 4 0 ++ leBytes 4 q.capacity
        ++ leBytes 2 (q.capacity - 1) ++ leBytes 2 0) x.tag) x.e.g.bump x.onward)
      ∧ exec (.qbindAttach n a) s = .next (x.closes s bound x.e.g x.onward))
    ∧ (x.e.t.binding n.toNat ≠ none →
      let t := s.mapTeam x.e.t.id (fun t => { t with queues := t.queues.filter (fun b => b.q != n.toNat) })
      let blocked := s.groups.filter (fun g => g.team == x.e.t.id && (match g.wait with
        | .queue _ m _ => m == n.toNat
        | _ => false))
      (∀ g ∈ blocked, (g.core, g.slot) ≠ (x.core, x.slot)) →
      exec (.qbindUnbind n) s = .next (x.closes s (blocked.foldl (fun t g => match t.env? g.core g.slot with
        | some e => t.setGroup ({ g with wait := .none }.addAfter [e.waitTrap t 8])
        | none => t) t) x.e.g x.onward))

/-- R254: a WAITM whose lanes all hold their expected values puts its group to sleep at the word with the lines it read; any other
completes at once. That a WAITM with no active lane sleeps is the model's reading (log entry 44, DEDUCED). -/
def Obligations.WaitOnMemoryResults : Prop :=
  ∀ (s : State) (x : Issue) (d : BitVec 8) (a : BitVec 7) (b : BitVec 6) (z : BitVec 2) (place : Nat → Place), Issues s x →
    Hinted x (some 0xFFFFF) false false false → Usable x (dataRegs d z) → oddData d z = false →
    let n := 2 ^ z.toNat
    let expected := fun l : Nat => if z = 3 then (x.arch.getV64 d.toNat l).toNat else (x.arch.getV d.toNat l).toNat
    let same := ∀ l ∈ laneList x.active, leNat (readAny s (place l) n) = expected l
    let lines := ((laneList x.active).flatMap (fun l => unitsOf (place l) n)).eraseDups
    let done := fun (i : Instr) (addr : Nat → LaneAddr) => Reaches s x .load 16 true n addr place →
      (¬ same → CompletesGroup i s x x.e.g.bump)
      ∧ (same → exec i s = .next (s.setGroup { x.e.g.bump with wait := .waitm lines s.tick [], waitWord := s.fetched }))
    (Usable x (vB a :: sPair b) → b.getLsbD 0 = false → done (.waitmUniformVector d a b z) (addrUniformVector x a.toNat b.toNat))
    ∧ (Usable x (sPair b) → b.getLsbD 0 = false → done (.waitmUniform d b z) (fun _ => addrUniform x b.toNat))
    ∧ (Usable x [.v a.toNat, .v (a.toNat + 1)] → a.getLsbD 0 = false → done (.waitmVector d a z) (addrVector x a.toNat))

/-! ### The thresher (spec/11_data_on_move.md) -/

/-- R280, R281: the words that change only the registers, the table, the bit position and the word index of a block, in the thresher
slot of its core; a register operand needs bits 9 to 4 of its field zero. R280: in the thresher slot HNOP does nothing, LIMM is
held for the next word and used up by THR.movi, and a word of an unassigned major, or any other hint, ends the block with status
1 at its word, at the step limit too; a word that is legal there takes the block past the limit. That status 1 names the word behind a
LIMM is the model's choice (log entry 115, DESIGN CHOICE), and so is a bit position that does not wrap (log entry 120, DESIGN CHOICE). -/
def Obligations.ThresherRegisterWords : Prop :=
  (∀ (s : State) (core : Nat) (b : ThrBlock) (d a c : BitVec 4) (i : BitVec 11) (k : BitVec 8) (sg : Bool) (w p : BitVec 5),
      s.issuer = some (core, 63) → (s.coreAt core).block = some b → b.steps < 1048576 → b.limm = none →
      let b0 := { b with steps := b.steps + 1, pc := b.pc + 1, hints := 0 }
      let A := b.reg a
      let becomes := fun (m : Instr) (b1 : ThrBlock) => exec m s = .next (s.setBlock core (some b1))
      let at_ := (A.toNat + k.toNat) % 256
      becomes (.thrSkip a i) { b0 with bit := b.bit + (A.toNat + i.toNat) % 4294967296 }
      ∧ becomes (.thrBfx d a sg w p) (b0.setReg d (
          let f := A.toNat / 2 ^ p.toNat % 2 ^ (w.toNat + 1)
          if sg && decide (2 ^ w.toNat ≤ f) then BitVec.ofInt 32 ((f : Int) - 2 ^ (w.toNat + 1)) else BitVec.ofNat 32 f))
      ∧ becomes (.thrLut d a k) (b0.setReg d (b.entry at_))
      ∧ becomes (.thrTbw d a k) (b0.setEntry at_ (b.reg d))
      ∧ becomes (.thrMovi d i) (b0.setReg d (i.signExtend 32))
      ∧ (i.getLsbD 10 = false ∨ i.extractLsb' 4 6 = 0 →
        let y : Word := if i.getLsbD 10 then b.reg (i.extractLsb' 0 4) else (i.extractLsb' 0 10).signExtend 32
        becomes (.thrAdd d a i) (b0.setReg d (A + y)) ∧ becomes (.thrSub d a i) (b0.setReg d (A - y))
        ∧ becomes (.thrAnd d a i) (b0.setReg d (A &&& y)) ∧ becomes (.thrOr d a i) (b0.setReg d (A ||| y))
        ∧ becomes (.thrXor d a i) (b0.setReg d (A ^^^ y)) ∧ becomes (.thrShl d a i) (b0.setReg d (A <<< y.toNat))
        ∧ becomes (.thrShr d a i) (b0.setReg d (A >>> y.toNat)) ∧ becomes (.thrSar d a i) (b0.setReg d (A.sshiftRight y.toNat)))
      ∧ (c.toNat < 7 → (c = 0 ∨ c = 5 ∨ c = 6 → a = 0) →
        let taken := if c = 0 then True else if c = 1 then A = 0 else if c = 2 then A ≠ 0 else if c = 3 then A.toInt < 0
          else if c = 4 then 0 ≤ A.toInt else if c = 5 then b.sectors * 256 ≤ b.bit else b.emitted = 4096
        (taken → becomes (.thrBr c a i) { b0 with pc := (((b.pc : Int) + i.toInt) % 1073741824).toNat })
        ∧ (¬ taken → becomes (.thrBr c a i) b0)))
  ∧ (∀ (s : State) (core : Nat) (b : ThrBlock) (i : BitVec 20) (d : BitVec 4) (k : BitVec 11),
      s.issuer = some (core, 63) → (s.coreAt core).block = some b → b.steps < 1048576 →
      let b0 := { b with steps := b.steps + 1, pc := b.pc + 1, hints := b.hints + 1 }
      exec .hnop s = .next (s.setBlock core (some b0))
      ∧ exec (.limm i) s = .next (s.setBlock core (some { b0 with limm := some i }))
      ∧ (b.limm = some i → exec (.thrMovi d k) s = .next (s.setBlock core
          (some { b0.setReg d ((i ++ k).signExtend 32) with limm := none, hints := 0 }))))
  ∧ (∀ (s : State) (core : Nat) (b : ThrBlock) (i : BitVec 20) (d : BitVec 4) (k : BitVec 11),
      s.issuer = some (core, 63) → (s.coreAt core).block = some b → b.steps ≤ 1048576 →
      (∀ w, w ∈ [Instr.sat, .placement, .unassignedMajor] → exec w s = .next (endBlock s core b 1 b.pc))
      ∧ (b.limm ≠ none → exec (.thrAdd d d k) s = .next (endBlock s core b 1 b.pc))
      ∧ (b.steps = 1048576 → ∀ w, w ∈ [Instr.hnop, .limm i, .thrMovi d k] →
        exec w s = .next (s.setBlock core (some { b with steps := b.steps + 1 }))))

/-- R280, R281: what the words over the bit stream and the output do; a read past the payload ends the block with status 2, a byte
beyond 4,096 with status 3, a distance that the history does not hold with status 4, a bad operand with status 1 at its word,
and halt with status 0. R281, R271: get takes the next bits of the payload, lowest first, from sectors that are read once and
kept. -/
def Obligations.ThresherStreamWords : Prop :=
  (∀ (s : State) (core : Nat) (b : ThrBlock) (d a : BitVec 4) (n : BitVec 6) (k : BitVec 3) (m : BitVec 8),
      s.issuer = some (core, 63) → (s.coreAt core).block = some b → b.steps < 1048576 → b.limm = none →
      let b0 := { b with steps := b.steps + 1, pc := b.pc + 1, hints := 0 }
      let becomes := fun (j : Instr) (s1 : State) (b1 : ThrBlock) => exec j s = .next (s1.setBlock core (some b1))
      let ends := fun (j : Instr) (s1 : State) (b1 : ThrBlock) (status word : Nat) => exec j s = .next (endBlock s1 core b1 status word)
      let put := fun (s1 : State) (k : Nat) (y : Byte) => s1.writePlace (.loft b.input.team b.tile k) [y] b.input.tag
      (1 ≤ n.toNat → n.toNat ≤ 32 →
        (∀ y b1, getBits s core b0 n.toNat = .ok (y, b1) →
          becomes (.thrGet d n) s { b1.setReg d (BitVec.ofNat 32 y) with bit := b1.bit + n.toNat }
          ∧ becomes (.thrPeek d n) s { b1.setReg d (BitVec.ofNat 32 y) with sector := sectorAtBit s core b0 }
          ∧ (∀ bs, b.sector = some (b.bit / 256, bs) → sectorAtBit s core b0 = b.sector))
        ∧ (b.sectors * 256 < b.bit + n.toNat → ends (.thrGet d n) s b0 2 0 ∧ ends (.thrPeek d n) s b0 2 0))
      ∧ (n = 0 ∨ 32 < n.toNat → ends (.thrGet d n) s b 1 b.pc ∧ ends (.thrPeek d n) s b 1 b.pc)
      ∧ (∀ b1, refillTable s core (m.toNat + 1) (b.reg a).toNat b0 = (b1, none) → becomes (.thrRefill a m) s b1)
      ∧ (1 ≤ k.toNat → k.toNat ≤ 4 → b.emitted + k.toNat ≤ 4096 →
        let ys := (List.range k.toNat).map (fun j => (b.reg a).extractLsb' (8 * j) 8)
        becomes (.thrEmit a k) ((ys.zip (List.range k.toNat)).foldl (fun t y => put t (b.emitted + y.2) y.1) s)
          { b0 with emitted := b.emitted + k.toNat, history := (ys.reverse ++ b.history).take 256 })
      ∧ (1 ≤ k.toNat → k.toNat ≤ 4 → b.emitted = 4096 → ends (.thrEmit a k) s b0 3 0)
      ∧ (let distance := (b.reg d).toNat
        (distance = 0 ∨ 256 < distance ∨ b.emitted < distance → ends (.thrCopy d a) s b0 4 0)
        ∧ (1 ≤ distance → distance ≤ 256 → distance ≤ b.emitted → b.reg a = 0 → becomes (.thrCopy d a) s b0)
        ∧ (1 ≤ distance → distance ≤ 256 → distance ≤ b.emitted → ∀ r,
          copyHistory distance (min 4097 (b.reg a).toNat) { s := s, b := b0 } = r →
          (r.status = none → becomes (.thrCopy d a) r.s r.b) ∧ (∀ c, r.status = some c → ends (.thrCopy d a) r.s r.b c 0))
        ∧ (1 ≤ distance → distance ≤ 256 → distance ≤ b.emitted → b.reg a = 1 → b.emitted < 4096 →
          let y := b.history.getD (distance - 1) 0
          becomes (.thrCopy d a) (put s b.emitted y) { b0 with emitted := b.emitted + 1, history := (y :: b.history).take 256 }))
      ∧ ends .thrHalt s b0 0 0)
  ∧ (∀ (s : State) (core : Nat) (b : ThrBlock) (n k : Nat) (bs : List Byte), b.sector = some (k, bs) → bs.length = 32 →
      256 * k ≤ b.bit → b.bit + n ≤ 256 * (k + 1) → 0 < n → k < b.sectors →
      ∃ y, getBits s core b n = .ok (y, b) ∧ y < 2 ^ n ∧
        ∀ j, j < n → y.testBit j = (bs.getD ((b.bit + j) % 256 / 8) 0).getLsbD ((b.bit + j) % 8))

/-! ### Control words (spec/12_execution.md, spec/13_scheduling_sync.md) -/

/-- R295, R296: the successors of an issue enter the frontier: it stays in ascending key order with no key twice, every lane of a
successor stands at its key, and every lane of another entry stays at its own. -/
def Obligations.SuccessorsEnterFrontier : Prop :=
  ∀ (guard : BitVec 7) (fr : List Entry) (succs : List Succ), fr.Pairwise (fun a b => a.key < b.key) →
    let out := insertSuccs guard fr succs
    out.Pairwise (fun a b => a.key < b.key)
    ∧ ∀ key i, i < 64 →
      ((∃ e ∈ out, e.key = key ∧ e.mask.getLsbD i = true) ↔
        (∃ e ∈ fr, e.key = key ∧ e.mask.getLsbD i = true)
        ∨ (∃ u ∈ succs, u.prio.toNat * 2 ^ 32 + u.pc.toNat = key ∧ u.mask.getLsbD i = true))

/-- R295, R297, R300, R301, R324, R325: where the lanes of a branch, call, jump or return go, with the priorities that BPRI
classes give; a call pushes the next word and the fall-through priority for each active lane, a return pops them. A frontier
of more than 48 entries would fault (R297). -/
def Obligations.BranchResults : Prop :=
  ∀ (s : State) (x : Issue) (p a : BitVec 6) (sense : Bool) (o : BitVec 24) (o16 : BitVec 16), Issues s x →
    let next := x.arch.wordPc x.entry + 4
    let away := fun w : Word => x.arch.wordPc x.entry + 4 * w + (if x.e.l.kh.gen = .n3 then 0 else 4)
    let taken : BitVec 16 := match x.run.bpri with
      | some n => (n.extractLsb' 0 10).setWidth 16 * 64
      | none => x.entry.prio
    let fall : BitVec 16 := match x.run.bpri with
      | some n => (n.extractLsb' 10 10).setWidth 16 * 64
      | none => x.entry.prio
    let rest : Succ := { prio := x.entry.prio, pc := next, mask := x.entry.mask &&& ~~~x.active }
    let frozen := match x.e.g.handler with
      | some h => h.frozen.length
      | none => 0
    let goes := fun (i : Instr) (r : Arch) (succs : List Succ) =>
      (insertSuccs x.entry.guard x.arch.others succs).length + frozen ≤ 48 → exec i s = .next (x.leaves s r succs)
    let pushed := fun (r : Return) => (laneList x.active).foldl (fun a i => a.setReturns i (r :: a.getReturns i)) x.arch
    let popped := (laneList x.active).foldl (fun a i => a.setReturns i (a.getReturns i).tail) x.arch
    let room := ∀ i ∈ laneList x.active, (x.arch.getReturns i).length < 64
    let split := fun (f : Nat → BitVec 16 × BitVec 32) => rest :: gather ((laneList x.active).map (fun i => (i, f i)))
    let T := x.arch.getV a.toNat
    (Hinted x none false false true →
      goes (.bra o) x.arch [rest, { prio := taken, pc := away (o.signExtend 32), mask := x.active, fresh := true }]
      ∧ (room → goes (.call o) (pushed { pc := next, prio := fall })
          [rest, { prio := taken, pc := away (o.signExtend 32), mask := x.active, fresh := true }])
      ∧ (Usable x [pN p] →
        let m := if sense then ~~~(x.arch.getP p.toNat) else x.arch.getP p.toNat
        goes (.brp p sense o16) x.arch [{ prio := fall, pc := next, mask := x.entry.mask &&& ~~~(x.active &&& m) },
          { prio := taken, pc := away (o16.signExtend 32), mask := x.active &&& m, fresh := true }])
      ∧ (Usable x [.v a.toNat] → (∀ i ∈ laneList x.active, (T i).toNat < x.e.l.kh.codeSize ∧ (T i).toNat % 4 = 0) →
        goes (.jmp a) x.arch (split fun i => (taken, T i))
        ∧ (room → goes (.calli a) (pushed { pc := next, prio := x.entry.prio }) (split fun i => (taken, T i)))))
    ∧ (Hinted x none false false false → (∀ i ∈ laneList x.active, x.arch.getReturns i ≠ []) →
      goes .ret popped (split fun i => match x.arch.getReturns i with
        | r :: _ => (r.prio, r.pc)
        | [] => (0, 0)))

/-- R325, R326, R327, R303, R376: NOP only goes on; YIELD makes the group wait; LOCKX grants the extended set zeroed, or waits
while the partner holds it; UNLOCKX gives it up; EXIT ends the active lanes, with the last lane frees the slot, and with the
last lane of a handler goes back to the frozen entries. -/
def Obligations.GroupControlResults : Prop :=
  ∀ (s : State) (x : Issue), Issues s x → Hinted x none false false false →
    let g := x.e.g
    let rest : Succ := { prio := x.entry.prio, pc := x.arch.wordPc x.entry + 4, mask := x.entry.mask &&& ~~~x.active }
    Completes .nop s x x.arch
    ∧ CompletesGroup .yield s x { g with wait := .yield }
    ∧ (g.xset = .none → (∀ h, s.group? x.core (x.slot ^^^ 1) = some h → h.xset ≠ .held) →
      CompletesGroup .lockx s x { g with arch := { x.arch with v := x.arch.v.filter (fun c => c.1 < 8192) }, xset := .held })
    ∧ (∀ h, g.xset = .none → s.group? x.core (x.slot ^^^ 1) = some h → h.xset = .held →
      exec .lockx s = .next (s.setGroup { g with wait := .lockx, waitWord := s.fetched }))
    ∧ (g.xset = .held → (∀ r ∈ x.arch.pending, ∀ n, r = .v n → n < 128) → (∀ o ∈ g.matrix, o.ext = false) →
      let g1 := { g with arch := { x.arch with v := x.arch.v.filter (fun c => c.1 < 8192) }, xset := .none }
      exec .unlockx s = .next (x.closes s ((s.setGroup g1).passX x.core x.slot) g1 x.onward))
    ∧ (g.matrix = [] → g.handler = none → rest.mask ≠ 0 ∨ x.arch.others ≠ [] → exec .exit s = .next (x.leaves s x.arch [rest]))
    ∧ (g.matrix = [] → g.handler = none → rest.mask = 0 → x.arch.others = [] → g.reds = [] → g.batch = [] → g.xset = .none →
        g.tokens = [] → x.e.l.lh.mode = 0 → pushedWork s g = false →
      exec .exit s = .next ((s.dropGroup x.core x.slot).mapTeam x.e.t.id (fun t => { t with exited := g.index :: t.exited })))
    ∧ (∀ h, g.matrix = [] → g.handler = some h → rest.mask = 0 → x.arch.others = [] → h.frozen ≠ [] →
        h.suspended.mask &&& ~~~x.active = 0 → Usable x ((List.range 8).map (fun k => .s (56 + k))) →
      exec .exit s = .next (x.leavesHandler s h h.frozen))

/-- R336, R283, R285: WID gives fields of the work ID, the whole work ID, the team key and the extents. -/
def Obligations.WorkIdResults : Prop :=
  ∀ (s : State) (x : Issue) (d : BitVec 8), Issues s x → Hinted x none false false false →
    let widths := x.e.l.lh.widths
    let field := fun k i => BitVec.ofNat 32 ((x.e.workId i).toNat / 2 ^ (widths.take k).sum % 2 ^ widths.getD k 0)
    (Usable x [vN d] →
      (∀ i k, (i, k) ∈ [(Instr.widF0 d, 0), (.widF1 d, 1), (.widF2 d, 2), (.widF3 d, 3), (.widF4 d, 4), (.widF5 d, 5)] →
        Completes i s x (setActive x d.toNat (field k) x.arch))
      ∧ (∀ i k, (i, k) ∈ [(Instr.widExt0 d, 0), (.widExt1 d, 1), (.widExt2 d, 2), (.widExt3 d, 3), (.widExt4 d, 4), (.widExt5 d, 5)] →
        Completes i s x (setActive x d.toNat (fun _ => BitVec.ofNat 32 (x.e.l.lh.extents.getD k 1)) x.arch)))
    ∧ (Usable x (vPair d) → d.getLsbD 0 = false →
      Completes (.widId d) s x (setActive64 x d.toNat x.e.workId x.arch)
      ∧ Completes (.widKey d) s x (setActive64 x d.toNat (fun i => x.e.workId i >>> widths.headD 6) x.arch))

/-! ### Barriers, spawned threads and submitted tasks -/

/-- R329, R330: an arrival that agrees with the others waits at the word for the release; BARL names the register that gives its
value. -/
def Obligations.BarrierArrivalResults : Prop :=
  ∀ (s : State) (x : Issue) (d : BitVec 6) (o : BitVec 2) (k : BitVec 3) (n : BitVec 5), Issues s x → Hinted x none false false false →
    n.toNat < x.e.l.kh.barriers → k.toNat < 6 → (k ≠ 0 → x.e.l.lh.coresident = true ∧ x.e.t.spawned = false) →
    let arrives := fun (barl : Bool) (op reg : Nat) =>
      let b := x.e.t.barrier n.toNat
      let t := x.e.t.setBarrier { b with arrived := b.arrived ++ [(x.e.g.index, barl, k.toNat, op, reg)] }
      (s.setTeam t).setGroup { x.e.g with wait := .barrier n.toNat, waitWord := s.fetched }
    (clashing s x.e n.toNat false k.toNat 0 = [] → exec (.bar k n) s = .next (arrives false 0 0))
    ∧ (Usable x [sN d] → clashing s x.e n.toNat true k.toNat o.toNat = [] →
      exec (.barl d o k n) s = .next (arrives true o.toNat d.toNat))

/-- R290, R291, R293: a SPAWN with an entry inside the code puts one thread for each active lane, lowest first, into the bins of
its core, and what closes joins the spawn queue. R290, R291: a thread that joins is neither lost nor doubled, open bins keep fewer
than 64 threads and numbers of their own below 16, and a bin closes with the 64th thread of its launch and entry. That the arrival
drains the group's REDs is the model's reading of what it follows (log entry 66, DEDUCED). -/
def Obligations.SpawnResults : Prop :=
  (∀ (s : State) (x : Issue) (a b : BitVec 6), Issues s x → Hinted x none false false false → x.e.l.lh.mode = 0 →
      Usable x [.v a.toNat, .v (a.toNat + 1), sN b] → a.getLsbD 0 = false →
      let entry := x.arch.getS b.toNat
      let k := s.coreAt x.core
      entry.toNat < x.e.l.kh.codeSize → entry.toNat % 4 = 0 →
      let r : Arrival := (laneList x.active).foldl (fun (r : Arrival) i => r.join x.e.l.id entry s.tick (x.arch.getV64 a.toNat i) false)
        { bins := k.bins, order := k.binOrder }
      (x.active = 0 → Completes (.spawn a b) s x x.arch)
      ∧ (x.active ≠ 0 → k.spawnQueue.length + r.closed.length ≤ 4096 → ∀ es, DrainsAs x es → exec (.spawn a b) s = .next (x.closes s
          (((x.drained s es).setCore x.core { k with bins := r.bins, binOrder := r.order, spawnQueue := k.spawnQueue ++ r.closed }).mapLaunch
            x.e.l.id (fun l => { l with spawns := true })) x.emptied.bump x.onward)))
  ∧ (∀ (a : Arrival) (launch : Nat) (entry : BitVec 32) (tick arg : BitVec 64) (loose : Bool),
      (a.bins.map (·.number)).Nodup → (∀ b ∈ a.bins, b.number < 16 ∧ b.threads.length < 64) →
      let r := a.join launch entry tick arg loose
      (r.bins.map (·.number)).Nodup ∧ (∀ b ∈ r.bins, b.number < 16 ∧ b.threads.length < 64)
      ∧ (r.bins.flatMap (·.threads) ++ r.closed.flatMap (·.threads)).Perm
          (arg :: (a.bins.flatMap (·.threads) ++ a.closed.flatMap (·.threads)))
      ∧ (∀ b, a.bins.find? (fun b => b.launch == launch && b.entry == entry) = some b → b.threads.length = 63 →
          r.closed = a.closed ++ [{ launch := b.launch, entry := b.entry, threads := b.threads ++ [arg] }])
      ∧ (a.bins.find? (fun b => b.launch == launch && b.entry == entry) = none → a.bins.length < 16 →
          r.closed = a.closed ∧ ∃ b ∈ r.bins, b.launch = launch ∧ b.entry = entry ∧ b.threads = [arg] ∧ b.opened = tick))

/-- R335, R311: a TSUB of a TCB that the launch may read and write writes 0 and state 1 and queues the task unprivileged, or
writes the refusal code. That the submission drains the group's REDs, and which rights the TCB needs, is the model's reading (log
entry 66, DEDUCED). -/
def Obligations.TaskSubmissionResults : Prop :=
  ∀ (s : State) (x : Issue) (d a : BitVec 6), Issues s x → Hinted x none false false false → Usable x (sN d :: sPair a) →
    a.getLsbD 0 = false → x.e.g.wait = .none →
    let tcb := x.arch.getS64 a.toNat
    let answers := fun c : Nat => { x.emptied with arch := x.arch.setS d.toNat (BitVec.ofNat 32 c) }
    (∀ k, k < 64 → tcbByteAllowed s x.e.accessor (tcb.toNat + k) = true) → ∀ es, DrainsAs x es →
    let s0 := x.drained s es
    (∀ q, acceptTcb s0 x.e.l.ctx tcb = .ok q →
      let s1 := hwWrite s0 x.e.l.ctx (tcb.toNat + 4) [1]
      exec (.tsub d a) s = .next (x.closes s
        { s1 with queues := s1.queues ++ [(q, { ctx := x.e.l.ctx, tcb := tcb, privileged := false })] } (answers 0) x.onward))
    ∧ (∀ c, acceptTcb s0 x.e.l.ctx tcb = .error c →
      exec (.tsub d a) s = .next (x.closes s (s0.setSys x.e.l.ctx 0x138 ((tcb >>> 6 <<< 6) ||| BitVec.ofNat 64 c)) (answers c) x.onward))

/-! ### System registers and traps (spec/13, spec/14 and spec/15) -/

/-- R337, R338, R349: what SREAD gives: the group's own numbers, or the register of the context; 64-bit registers in a pair. A
time read of a recording launch is logged. R349 to R353, R355, R365: an SWRITE of a privileged launch writes the register of its
context where the value is one that the register allows; XLINV and the patch register act in one word. These rest on the model's
readings and choices: the two steps of a patch and what PATCHCTL reads meanwhile (log entries 75 and 102, DEDUCED), an XLINV that
strikes nothing and completes at once (log entry 7, DESIGN CHOICE, and 76, DEDUCED), and the drain of the REDs before a write (log
entry 66, DEDUCED). -/
def Obligations.SystemRegisterResults : Prop :=
  (∀ (s : State) (x : Issue) (d : BitVec 6) (n : BitVec 12), Issues s x → Hinted x none false false false →
      let k := n.toNat
      let wide := k = 3 ∨ k = 4 ∨ (0x100 ≤ k ∧ k ≤ 0x13B) ∨ k = 0x181 ∨ k = 0x183
      sysListed k = true → k ∉ [0x139, 0x185, 0x186] → (0x139 ≤ k → x.e.l.privileged = true) →
      (wide → Usable x (sPair d) ∧ d.getLsbD 0 = false) → (¬ wide → Usable x [sN d]) →
      let value : BitVec 64 :=
        if k = 1 then BitVec.ofNat 64 x.e.l.ctx else if k = 2 then x.arch.sseq.setWidth 64 else if k = 3 then s.tick
        else if k = 4 then x.e.t.watchdog else if k = 5 then BitVec.ofNat 64 x.core else if k = 6 then BitVec.ofNat 64 x.slot
        else if k = 7 then BitVec.ofNat 64 x.e.l.lh.mode
        else if k = 0x187 then (if (s.bar 0x100).toNat % 64 = x.e.l.ctx then 1 else 0)
        else if k = 0x13C ∧ (s.context x.e.l.ctx).patch ≠ none then 1
        else s.sys x.e.l.ctx k
      (x.e.l.lh.mode = 0 ∨ k < 3 ∨ 6 < k →
        (wide → Completes (.sread d n) s x (x.arch.setS64 d.toNat value))
        ∧ (¬ wide → Completes (.sread d n) s x (x.arch.setS d.toNat (value.extractLsb' 0 32))))
      ∧ (x.e.l.lh.mode = 1 → k = 3 → exec (.sread d n) s = .next (x.closes s
          (appendLog s x.e.l { kind := 9, unit := x.e.g.homeCore, check := timeCheck x.e.g 3, chosen := s.tick })
          { x.e.g with arch := x.arch.setS64 d.toNat s.tick } x.onward))
      ∧ (∀ u, x.e.l.lh.mode = 2 → k = 3 → nextEntry x.e.l x.e.g.homeCore = some u → u.kind = 9 → u.check = timeCheck x.e.g 3 →
        exec (.sread d n) s = .next (x.closes s (s.setLaunch { x.e.l with log := consume x.e.g.homeCore x.e.l.log })
          { x.e.g with arch := x.arch.setS64 d.toNat u.chosen } x.onward)))
  ∧ (∀ (s : State) (x : Issue) (h a l : BitVec 6), Issues s x → Hinted x none false false false → x.e.l.privileged = true →
      let n := h.toNat * 64 + l.toNat
      let ctx := x.e.l.ctx
      let narrow := n = 8 ∨ n = 9 ∨ n = 0x13C
      (narrow → Usable x [sN a]) → (¬ narrow → Usable x (sPair a) ∧ a.getLsbD 0 = false) →
      let v : BitVec 64 := if narrow then (x.arch.getS a.toNat).setWidth 64 else x.arch.getS64 a.toNat
      ∀ es, DrainsAs x es →
      let s0 := x.drained s es
      let becomes := fun t : State => exec (.swrite h a l) s = .next (x.closes s t x.emptied x.onward)
      (n = 8 → 256 ≤ v.toNat → v.toNat ≤ 65536 → becomes (s0.setSys ctx 8 v))
      ∧ (n = 9 → becomes (s0.setSys ctx 9 v))
      ∧ (0x100 ≤ n → n < 0x130 → ∀ t, writeRange s0 ctx n v = .ok t → becomes t)
      ∧ (0x130 ≤ n → n < 0x138 → commFormed v = true → commBusy s ctx (n - 0x130) = false → becomes (s0.setSys ctx n v))
      ∧ (n = 0x138 → becomes (s0.setSys ctx n 0))
      ∧ (n = 0x139 → ∀ block, xlinvBlock v = some block → struckByBlock s0 ctx block = [] → becomes s0)
      ∧ (n = 0x13A → becomes (s0.setSys ctx n v))
      ∧ (n = 0x13B → v.toNat % 4 = 0 → becomes (s0.setSys ctx n v))
      ∧ (n = 0x13C → v.toNat < 16384 → (s.context ctx).patch = none → x.e.g.wait = .none → becomes (startPatch s0 ctx (v.toNat + 1)))
      ∧ (n = 0x13C → v.toNat < 16384 → (s.context ctx).patch ≠ none → exec (.swrite h a l) s = .next { s with stalled := true }))

/-- R356, R370, R371, R374, R375: TRAP and BKPT take the group into its handler, to go on behind the word; in a handler, or with
none, the fault ends the task with a record. R376: TRET gives s56 to s63 back and puts the suspended lanes at the address in s59
with their priority, beside the frozen entries; an address outside the code or not of a word is an illegal instruction, which in
the handler ends the task. That the record of a TRAP or a BKPT has flag [4] set is the model's reading (log entry 71, DEDUCED). -/
def Obligations.TrapAndReturnResults : Prop :=
  (∀ (s : State) (x : Issue) (n : BitVec 12) (e : Entry), Issues s x → Hinted x none false false false →
      let next := x.arch.wordPc x.entry + 4
      let ends := fun cls : Nat => endTask (writeRecord s x.e.l
        (x.faultRecord (x.trap s cls n.toNat true next) (if x.e.g.handler = none then 17 else 21)) true) x.e.l.id cls
      (MayTrap x e →
        exec (.trap n) s = .next (x.entersHandler s (x.trap s 13 n.toNat true next) e)
        ∧ ((s.bar 0x1020).getLsbD x.e.l.ctx = false →
          exec (.bkpt n) s = .next (x.entersHandler s (x.trap s 14 n.toNat true next) e)))
      ∧ (x.e.g.handler ≠ none ∨ x.e.l.kh.trap = 0xFFFFFFFF → x.e.l.lh.mode = 0 → x.e.g.outstanding = [] →
        exec (.trap n) s = .next (ends 13)
        ∧ ((s.bar 0x1020).getLsbD x.e.l.ctx = false → exec (.bkpt n) s = .next (ends 14))))
  ∧ (∀ (s : State) (x : Issue) (h : Handler), Issues s x → Hinted x none false false false → x.e.g.handler = some h →
      Usable x ((List.range 8).map (fun k => .s (56 + k))) →
      let p := x.arch.getS 59
      let back : Entry := { prio := h.suspended.prio, pc := p, mask := h.suspended.mask, guard := 63 }
      (p.toNat < x.e.l.kh.codeSize → p.toNat % 4 = 0 →
        exec .tret s = .next (x.leavesHandler s h (if h.suspended.mask = 0 then h.frozen else insertEntry back h.frozen)))
      ∧ (x.e.l.kh.codeSize ≤ p.toNat ∨ p.toNat % 4 ≠ 0 → x.e.l.lh.mode = 0 → x.e.g.outstanding = [] →
        exec .tret s = .next (endTask (writeRecord s x.e.l
          (x.faultRecord (x.trap s 1 0 false x.entry.pc) 5) true) x.e.l.id 1)))

/-! ### Hints, the decoder's checks, and faults (spec/02_encoding.md, spec/03_numbers.md, spec/15_recovery.md) -/

/-- R43, R44, R45: a hint counts in the run and is held for the target; GUARD stays with the entry; a placement hint and HNOP
change nothing; an illegal payload faults at the hint, and the record names the target word. -/
def Obligations.HintResults : Prop :=
  ∀ (s : State) (x : Issue) (i : BitVec 20) (m : BitVec 3) (v : Bool) (p : BitVec 6) (f t : BitVec 10) (e : Entry), Issues s x →
    x.slot ≠ 63 →
    let quiet := x.e.g.outstanding.isEmpty
    let hints := fun (w : Instr) (a : Arch) => exec w s = .next (s.setGroup { x.e.g with
      arch := { a with
        run := { a.run with count := x.run.count + 1 }
        pending := if s.marked && quiet then [] else x.arch.pending }
      wait := if s.marked && !quiet then .parked x.entry.pc s.fetched x.entry.mask else x.e.g.wait })
    let run := fun r : Run => { x.arch with run := r }
    let refused := fun (w : Instr) (cls : Nat) =>
      let u : Trap := { x.trap s cls 0 false x.entry.pc with word := targetWord s x.e.l 256 x.entry.pc.toNat }
      exec w s = .next (x.entersHandler s u e)
    hints .hnop x.arch ∧ hints .placement x.arch
    ∧ hints (.limm i) (run { x.run with limm := some i })
    ∧ (m.toNat < 5 → hints (.rnd m) (run { x.run with rnd := some m }))
    ∧ hints .sat (run { x.run with sat := true })
    ∧ hints (.bpri f t) (run { x.run with bpri := some (f ++ t) })
    ∧ (p.toNat < 48 ∨ p = 63 ∧ v = false → hints (.guard v p) { x.arch with
        frontier := x.arch.frontier.map (fun y => if y.key = x.entry.key then { y with guard := BitVec.ofBool v ++ p } else y) })
    ∧ (MayTrap x e →
      (5 ≤ m.toNat → refused (.rnd m) 1)
      ∧ (p = 63 → v = true → refused (.guard v p) 1)
      ∧ (48 ≤ p.toNat → p ≠ 63 → refused (.guard v p) 2))

/-- R37, R38, R40, R48, R200, R337, R355, R376: a word that the decoder refuses takes the group into its handler with the class of the
first check that fails, and has no effect. The hints that a word does not take are refused at every word of an ordinary slot (R45), every
THR word there, and every word of an unassigned major; the checks of registers, of pairs, of pending registers, of privilege and of what
may stand in a handler are stated for IADD, UADD64, SREAD, SWRITE, GSET and TRET, which stand for the words that name such operands. -/
def Obligations.DecoderCheckResults : Prop :=
  ∀ (s : State) (x : Issue) (e : Entry) (d a b : BitVec 8) (p q r : BitVec 6) (g : BitVec 3) (n : BitVec 12), Issues s x → MayTrap x e →
    x.slot ≠ 63 →
    let traps := fun (i : Instr) (cls : Nat) => exec i s = .next (x.entersHandler s (x.trap s cls 0 false x.entry.pc) e)
    let plain := Hinted x none false false false
    let regs := [vN d, vN a, vN b]
    (∀ i : Instr, wordless i = false → thresherOnly i = false → hintWord i = false →
      x.run.limm ≠ none ∧ takesLimm i = false ∨ x.run.rnd ≠ none ∧ takesRnd i = false ∨ x.run.sat = true ∧ takesSat i = false
        ∨ x.run.bpri ≠ none ∧ takesBpri i = false → traps i 1)
    ∧ (∀ i : Instr, thresherOnly i = true ∨ i = .unassignedMajor → traps i 1)
    ∧ (Hinted x none false true false → (∃ w ∈ regs, x.e.regBad w = true) → traps (.iadd d a b) 2)
    ∧ (Hinted x none false true false → (∃ w ∈ regs, w ∈ x.arch.pending) → traps (.iadd d a b) 2)
    ∧ (Hinted x none false true false → p.getLsbD 0 = true → traps (.uadd64 p q r) 2)
    ∧ (sysListed n.toNat = false → traps (.sread p n) 1)
    ∧ (plain → 0x139 ≤ n.toNat → sysListed n.toNat = true → x.e.l.privileged = false → traps (.sread p n) 3)
    ∧ (plain → sysListed (p.toNat * 64 + r.toNat) = true → x.e.l.privileged = false → traps (.swrite p q r) 3)
    ∧ (plain → x.e.l.privileged = false → traps (.gset p g) 3)
    ∧ traps .tret 1

/-- R84, R86, R370, R371: a word that raises an enabled flag takes effect, its flags join fl, and the group traps behind it with
the enabled flags of all lanes as the code. -/
def Obligations.ArithmeticTrapResults : Prop :=
  ∀ (s : State) (x : Issue) (e : Entry) (d a b : BitVec 8), Issues s x → MayTrap x e → Usable x [vN d, vN a, vN b] →
    Hinted x none false false false →
    ∀ i m, (i, m) ∈ [(Instr.lmulLn8 d a b, LnFmt.ln8), (.lmulLn16 d a b, .ln16), (.lmulLn32 d a b, .ln32)] →
    let value := fun (n : BitVec 8) (l : Nat) => lnVal m (x.arch.getV n.toNat l).toNat
    let r := setActiveFlags x d.toNat (fun l => lnResult m (lnMul m x.plain (value a l) (value b l))) x.arch
    let raised := r.2.filter (fun f => f.2 &&& trapEnables x.amr != 0)
    let code := raised.foldl (fun c f => c ||| (f.2 &&& trapEnables x.amr)) 0
    let lanes := raised.foldl (fun c f => c ||| (1#64 <<< f.1)) 0
    let x1 := { x with e := { x.e with g := { x.e.g with arch := r.1.orFlags r.2 } } }
    raised ≠ [] → exec i s = .next (x1.entersHandler (s.setGroup x1.e.g)
      { x.trap s 12 code.toNat true (x.arch.wordPc x.entry + 4) with mask := lanes } e)

/-- R372: where a fault record has its fields. R313: a task that ends by fault has no team, group, command or launch left, and its
TCB receives state 5 with the class. -/
def Obligations.FaultRecordAndEndOfTask : Prop :=
  (∀ (r : Record) (count tick seq : Nat), r.cls < 256 → r.flags < 256 → r.code < 65536 → r.ctx < 256 → r.slot < 256 → r.core < 65536 →
      r.index < 256 → count < 2 ^ 32 → tick < 2 ^ 64 → seq < 2 ^ 32 →
      let bs := r.bytes count tick seq
      bs.length = 64 ∧ byteField bs 0 1 = r.cls ∧ byteField bs 1 1 = r.flags ∧ byteField bs 2 2 = r.code ∧ byteField bs 4 1 = r.ctx
      ∧ byteField bs 5 1 = r.slot ∧ byteField bs 6 2 = r.core ∧ byteField bs 8 8 = r.key.toNat ∧ byteField bs 0x10 4 = r.pc.toNat
      ∧ byteField bs 0x14 4 = r.word.toNat ∧ byteField bs 0x18 8 = r.mask.toNat ∧ byteField bs 0x20 8 = r.addr.toNat
      ∧ byteField bs 0x28 4 = count ∧ byteField bs 0x2C 1 = r.index ∧ byteField bs 0x2D 3 = 0 ∧ byteField bs 0x30 8 = tick
      ∧ byteField bs 0x38 4 = seq ∧ byteField bs 0x3C 4 = 0)
  ∧ (∀ (s : State) (l : Launch) (cls : Nat), s.launch? l.id = some l →
      let t := endTask s l.id cls
      t.launch? l.id = none ∧ (∀ u ∈ t.teams, u.launch ≠ l.id) ∧ (∀ c ∈ t.commands, c.launch ≠ l.id)
      ∧ (∀ g ∈ t.groups, ∀ u ∈ s.teams, u.launch = l.id → g.team ≠ u.id)
      ∧ t = completionInterrupt (hwWrite (hwWrite (s.dropLaunch l.id) l.ctx (l.tcb.toNat + 0xC) (leBytes 4 cls)) l.ctx (l.tcb.toNat + 4) [5])
          l.ctx l.tcb)

/-! ### Events of the hardware and of the host (spec/95_what_each_step_holds.md) -/

/-- R39, R42, R215 to R217, R298, R327: an arriving result is written and may end its group's park; a fence completes when nothing it
waits for is left: with determinism off the accesses that it holds are then performed in the order in which they issued, each at its
place, and an ATOM's observed values come; but where one of them would roll the group back, none is performed (log entry 20, DEDUCED). A
fence rolls its group back to the word behind it when a watched unit was written, and the switch marker of the fence word has its effect
again; a YIELD ends; the second entry receives an issue. -/
def Obligations.ResultAndFenceEvents : Prop :=
  ∀ (s : State) (e : Env), s.env? s.event.core s.event.slot = some e →
    let g := e.g
    (∀ r, g.outstanding[s.event.num]? = some r → r.held = false → r.ard = none → g.fence = none →
      let g1 := { g with arch := g.arch.deliver r, heldFlags := g.heldFlags ++ r.flags,
                         outstanding := g.outstanding.eraseIdx s.event.num,
                         bad := (g.bad.filter (fun b => !r.covers b) ++ r.bad).eraseDups }
      ((∀ pc w m, g.wait ≠ .parked pc w m) ∨ g1.outstanding ≠ [] → exec .variableLatencyResult s = .next (s.setGroup g1))
      ∧ (∀ pc w m, g.wait = .parked pc w m → g1.outstanding = [] →
        (∀ f ∈ g1.heldFlags, f.2 &&& trapEnables (s.amr e.l.ctx) = 0) →
        exec .variableLatencyResult s = .next (s.setGroup { g1 with
          arch := { (g.arch.deliver r).orFlags g1.heldFlags with pending := [] }, heldFlags := [], wait := .none })))
    ∧ (∀ f ∈ g.soft, (∀ id ∈ f.waits, numberLive s g id = false) →
      exec .fenceCompletion s = .next (s.setGroup { g with soft := g.soft.filter (fun k => k.waits.any (numberLive s g)) }))
    ∧ (∀ w, g.soft = [] → g.fence = some w → w.held = [] → w.rollbackDue = false → (∀ id ∈ w.waits, numberLive s g id = false) →
      (∀ pc v m, g.wait ≠ .parked pc v m) →
      exec .fenceCompletion s = .next (s.setGroup { g with
        fence := none, outstanding := (g.outstanding.filter (fun r => !r.held)).map (fun r => { r with spec := false }) }))
    ∧ (∀ w, g.soft = [] → g.fence = some w → w.rollbackDue = false → w.part = none → (∀ id ∈ w.waits, numberLive s g id = false) →
      (∀ pc v m, g.wait ≠ .parked pc v m) → e.l.lh.mode = 0 → w.held ≠ [] →
      let amr := s.amr e.l.ctx
      let own := fun (lane k : Nat) (atom : Bool) => some ({ core := g.core, slot := g.slot, lane := lane, position := k, atom := atom } : OwnAccess)
      let perform := fun (t : State) (h : HeldAccess × Nat) => match h.1 with
        | .store p lane bs tag => t.writePlace p bs tag (own lane h.2 false)
        | .atom p r _ tag => (performRmw t p r amr tag (own r.lane h.2 true)).1
      let after := fun k => (w.held.zipIdx.take k).foldl perform s
      let observes := fun (h : HeldAccess × Nat) => match h.1 with
        | .store _ _ _ _ => ([], [])
        | .atom p r d tag =>
          let x := performRmw (after h.2) p r amr tag (own r.lane h.2 true)
          (observedCells d r.lane r.width x.2.1, if x.2.2 = 0 then [] else [(r.lane, x.2.2)])
      let t := after w.held.length
      let due := ((t.group? g.core g.slot).bind Group.fence).any (fun v => v.rollbackDue)
      (due = true → exec .fenceCompletion s = .next (s.setGroup { g with fence := some { w with rollbackDue := true } }))
      ∧ (due = false → ∃ rs : List VarResult,
        rs.flatMap (fun r => r.v) = w.held.zipIdx.flatMap (fun h => (observes h).1)
        ∧ rs.flatMap (fun r => r.flags) = w.held.zipIdx.flatMap (fun h => (observes h).2)
        ∧ (∀ r ∈ rs, r = { v := r.v, flags := r.flags, spec := true, atom := true })
        ∧ exec .fenceCompletion s = .next (t.mapGroup g.core g.slot (fun h =>
            let others := rs.foldl (fun os r => os.eraseP (fun o => o.held) ++ [r]) h.outstanding
            { h with fence := none, outstanding := (others.filter (fun r => !r.held)).map (fun r => { r with spec := false }) }))))
    ∧ (∀ w n, g.fence = some w → w.rollbackDue = true → w.snapshot.issuing = some n →
      let fr := insertSuccs n.guard w.snapshot.others [{ prio := n.prio, pc := w.snapshot.wordPc n + 4, mask := n.mask }]
      let back : Group := { g with
        arch := { w.snapshot with frontier := fr, aging := agingAfter w.snapshot fr, aged := false, run := {} }
        tokens := w.tokens
        heldFlags := w.heldFlags
        after := w.after
        bad := g.badBehind w
        wait := .none
        outstanding := g.outstanding.filter (fun r => !r.spec && !r.held)
        fence := some { w with held := [], watched := [], issued := 0, rollbacks := w.rollbacks + 1, rollbackDue := false } }
      let marked := w.word.getLsbD 31
      (marked = false → exec .fenceRollback s = .next (s.setGroup back))
      ∧ (marked = true → back.outstanding ≠ [] →
        exec .fenceRollback s = .next (s.setGroup { back with wait := .parked n.pc w.word n.mask }))
      ∧ (marked = true → back.outstanding = [] → (∀ f ∈ w.heldFlags, f.2 &&& trapEnables (s.amr e.l.ctx) = 0) →
        exec .fenceRollback s = .next (s.setGroup { back with
          arch := { back.arch.orFlags w.heldFlags with pending := [] }, heldFlags := [] })))
    ∧ (g.wait = .yield → exec .yieldExpiry s = .next (s.setGroup { g with wait := .none }))
    ∧ (g.arch.aged = false → g.arch.run.count = 0 → g.arch.aging = 4096 → 2 ≤ g.arch.frontier.length →
      exec .agedIssue s = .next (s.setGroup { g with arch := { g.arch with aged := true } }))

/-- R253, R254, R255, R331, R332, R333, R304: what ends the waits: a queue with room or an entry, a write to an armed line,
1,048,576 ticks asleep, a complete barrier instance with its REDs drained, the slew window of a cluster; and a stalled holder of
the extended set lends it. R389, R391: in replay only a write whose tag the log names wakes the sleeper. That a flag wakes a WAITM early stands for the filter's collisions (log entry 29, DEDUCED), and that
the set is lent at once is the model's choice (log entry 41, DESIGN CHOICE). R332: the participants of a release are taken in the order
of their team keys and group indexes; BARL combines their s(d) by its operation into the value that each of them receives; the generation
of each team grows by one. R333: the clusters leave in ascending order from cluster generation mod 12, the first at once. -/
def Obligations.WaitEndingEvents : Prop :=
  ∀ (s : State),
    (∀ (x : Issue) (n : BitVec 4) (r : BitVec 6) (q : Binding) (p : Place) (g : Group),
      s.group? s.event.core s.event.slot = some g → g.wait = .queue true n.toNat r.toNat → s.stalled = false →
      let s1 := { s.setGroup { g with wait := .none } with issuer := some (g.core, g.slot), fetched := g.waitWord }
      Issues s1 x → Hinted x none false false false → Usable x (sPair r) → r.getLsbD 0 = false → x.e.l.lh.mode = 0 → 8 ≤ n.toNat →
      x.e.t.binding n.toNat = some q → storagePlace s1 x.e.accessor q.handle q.capacity = some p → s1.poisonedPlace p 16 = false →
      let h := queueHeader (s1.readPlace p 16)
      h.ok q.capacity = true → 0 < h.allowance →
      exec .queueUnblock s = .next { x.closes s1
        ((s1.writePlace (p.add (16 + 8 * h.tail)) (leBytes 8 (x.arch.getS64 r.toNat).toNat) x.tag).writePlace (p.add 4)
          (leBytes 4 ((h.tail + 1) % q.capacity) ++ leBytes 4 (h.allowance - 1)) x.tag) x.e.g.bump x.onward with issuer := none })
    ∧ (∀ (x : Issue) (n : BitVec 4) (r : BitVec 6) (g : Group),
      s.group? s.event.core s.event.slot = some g → g.wait = .queue false n.toNat r.toNat → s.stalled = false →
      let s1 := { s.setGroup { g with wait := .none } with issuer := some (g.core, g.slot), fetched := g.waitWord }
      Issues s1 x → Hinted x none false false false → Usable x (sPair r) → r.getLsbD 0 = false → x.e.l.lh.mode = 0 →
      let takes := fun (t : State) (v : BitVec 64) => exec .queueUnblock s = .next { x.closes s1 t
        (x.e.g.bump.addResult { s := [(r.toNat, v.extractLsb' 0 32), (r.toNat + 1, v.extractLsb' 32 32)] } (sPair r)) x.onward
        with issuer := none }
      (∀ (q : Binding) (p : Place), 8 ≤ n.toNat → x.e.t.binding n.toNat = some q →
        storagePlace s1 x.e.accessor q.handle q.capacity = some p → s1.poisonedPlace p 16 = false →
        let h := queueHeader (s1.readPlace p 16)
        h.ok q.capacity = true → h.allowance < q.capacity → s1.poisonedPlace (p.add (16 + 8 * h.head)) 8 = false →
        takes ((s1.writePlace p (leBytes 4 ((h.head + 1) % q.capacity)) x.tag).writePlace (p.add 8) (leBytes 4 (h.allowance + 1)) x.tag)
          (BitVec.ofNat 64 (leNat (s1.readPlace (p.add (16 + 8 * h.head)) 8))))
      ∧ (∀ y, n = 4 → (s.coreAt x.core).results.find? (fun y => y.team == x.e.t.id && y.group == x.e.g.index) = some y →
        takes (s1.setCore x.core { s1.coreAt x.core with results := (s1.coreAt x.core).results.erase y }) y.entry))
    ∧ (∀ e n ls since due, s.env? s.event.core s.event.slot = some e → e.g.wait = .waitm ls since due → WaitsAt e.g n →
      e.l.lh.mode = 0 →
      (due ≠ [] ∨ s.event.flag = true → exec .monitorWake s = .next (s.setGroup (e.g.goesOn n)))
      ∧ (1048576 ≤ (s.tick - since).toNat → exec .waitmTimeout s = .next (s.setGroup (e.g.goesOn n))))
    ∧ (∀ e n u ls since due, s.env? s.event.core s.event.slot = some e → e.g.wait = .waitm ls since due → WaitsAt e.g n →
      e.l.lh.mode = 2 → nextEntry e.l e.g.core = some u → u.kind = 6 → u.check = BitVec.ofNat 32 e.g.slot →
      (due ≠ [] → s.event.flag = false → u.chosen ∉ due → exec .monitorWake s = .refused .notEnabled)
      ∧ (u.chosen ∈ due → exec .monitorWake s = .next ((s.setLaunch { e.l with log := consume e.g.core e.l.log }).setGroup (e.g.goesOn n))))
    ∧ (∀ e n s1, s.env? s.event.core s.event.slot = some e → e.g.wait = .barrier n →
      let b := e.t.barrier n
      let k := ((b.arrived.find? (fun a => a.1 == e.g.index)).map (fun a => a.2.2.1)).getD 0
      let ts := levelSet s e k
      instanceComplete s e n k b.generation = true →
      drainGroups s e.l.id ((participants s ts n k b.generation).map (·.g)) = (s1, true, none) →
      exec .barrierRelease s = .next (release s1 e n b.generation (participants s1 ts n k b.generation)))
    ∧ (∀ ts n k gen, (∀ g ∈ s.groups, g.index < 64) →
      let ps := participants s ts n k gen
      (∀ p, p ∈ ps ↔ ∃ t ∈ ts, ∃ a ∈ (t.barrier n).arrived, (t.barrier n).generation = gen ∧ a.2.2.1 = k
        ∧ s.groups.find? (fun g => g.team == t.id && g.index == a.1) = some p.g
        ∧ p = { key := t.key.toNat, g := p.g, barl := a.2.1, op := a.2.2.2.1, reg := a.2.2.2.2 })
      ∧ ps.Pairwise (fun p q => p.key < q.key ∨ p.key = q.key ∧ p.g.index ≤ q.g.index))
    ∧ (∀ (ps : List Participant) (o : Nat), ps ≠ [] → (∀ p ∈ ps, p.op = o) →
      let vs := ps.map (fun p => p.g.arch.getS p.reg)
      (o = 0 → barlValue ps = vs.sum)
      ∧ (o = 1 → ∀ i, i < 32 → (barlValue ps).getLsbD i = vs.any (fun v => v.getLsbD i))
      ∧ (o = 2 → ∀ i, i < 32 → (barlValue ps).getLsbD i = vs.all (fun v => v.getLsbD i))
      ∧ (o = 3 → barlValue ps ∈ vs ∧ ∀ v ∈ vs, v.toNat ≤ (barlValue ps).toNat))
    ∧ (∀ (ps : List Participant) (gen : Word), (∀ p ∈ ps, p.g.core < 144) →
      let from_ := fun c : Nat => (c + 12 - gen.toNat % 12) % 12
      (departureOrder gen ps).Pairwise (fun c d => from_ c < from_ d)
      ∧ ∀ c, c ∈ departureOrder gen ps ↔ ∃ p ∈ ps, p.g.core / 12 = c)
    ∧ (∀ (e : Env) (n : Nat) (gen : Word) (ps : List Participant),
      (∀ p ∈ ps, (s.env? p.g.core p.g.slot).map (fun f => f.g) = some p.g) →
      ps.Pairwise (fun p q => p.g.core ≠ q.g.core ∨ p.g.slot ≠ q.g.slot) →
      let t := release s e n gen ps
      let cs := departureOrder gen ps
      let ts := (ps.map (fun p => p.g.team)).eraseDups
      let told := fun p : Participant => { p.g with
        arch := if p.barl then p.g.arch.setS p.reg (barlValue ps) else p.g.arch
        bad := if p.barl then p.g.bad.filter (fun r => r != .s p.reg) else p.g.bad
        wait := .departing n }
      (∀ p ∈ ps,
        (cs.head? ≠ some (p.g.core / 12) → t.group? p.g.core p.g.slot = some (told p))
        ∧ (∀ m, cs.head? = some (p.g.core / 12) → WaitsAt (told p) m → t.group? p.g.core p.g.slot = some ((told p).goesOn m)))
      ∧ (∀ g, s.group? g.core g.slot = some g → g.wait ≠ .departing n → (∀ p ∈ ps, p.g.core ≠ g.core ∨ p.g.slot ≠ g.slot) →
        t.group? g.core g.slot = some g)
      ∧ (∀ i, t.team? i = if i ∈ ts then (s.team? i).map (fun u =>
          { u with barriers := { slot := n, generation := gen + 1, arrived := [] } :: u.barriers.filter (fun b => b.slot != n) }) else s.team? i)
      ∧ t.departures = s.departures ++ (if cs.tail = [] then [] else
          [{ launch := e.l.id, slot := n, generation := gen, clusters := cs.tail, next := s.tick + 128, teams := ts }]))
    ∧ (∀ d c cs, s.departures[s.event.num]? = some d → d.clusters = c :: cs → d.next.toNat ≤ s.tick.toNat →
      exec .clusterDeparture s = .next { s with
        groups := s.groups.map (fun g => if g.wait = .departing d.slot ∧ g.team ∈ d.teams ∧ g.core / 12 = c then
          (match s.env? g.core g.slot with
            | some e => g.completeWord (s.amr e.l.ctx)
            | none => g) else g)
        departures := if cs = [] then s.departures.eraseIdx s.event.num
          else s.departures.set s.event.num { d with clusters := cs, next := d.next + 128 } })
    ∧ (∀ g p, s.group? s.event.core s.event.slot = some g → s.env? s.event.core (s.event.slot ^^^ 1) = some p → g.xset = .held →
      lendable g.wait = true → g.outstanding = [] → (∀ o ∈ g.matrix, o.ext = false) →
      let low := fun a : Arch => { a with v := a.v.filter (fun c => c.1 < 8192) }
      let lent := s.setGroup { g with
        lentSave := g.arch.v.filter (fun c => 8192 ≤ c.1), arch := low g.arch, xset := .lent }
      (∀ n, p.g.xset = .none → p.g.wait = .lockx → WaitsAt p.g n →
        exec .extendedSetLending s = .next (lent.setGroup
          ({ p.g with arch := low p.g.arch, xset := .held, bad := p.g.bad.filter (fun r => !RegRef.extended r) }.goesOn n)))
      ∧ (p.g.xset = .lent → p.g.wait = .none →
        exec .extendedSetLending s = .next (lent.setGroup { p.g with
          arch := { p.g.arch with v := p.g.arch.v.filter (fun c => c.1 < 8192) ++ p.g.lentSave }, lentSave := [], xset := .held })))

/-- R89, R214, R278 to R280, R288, R291, R292, R312, R339, R341: bins close by their timer, spawned groups start, the thresher takes
its inputs into blocks and ends them with an entry of q4, teams and launches retire, the successors of a launch lose a predecessor, and a
team that runs too long or can never go on ends its task. The slot of a spawned group, and that a draining, held or revoked launch starts none, are the model's reading (log entry 53, DEDUCED), as is the shape
of a block's tile (log entry 47, DEDUCED). -/
def Obligations.TeamAndThreadEvents : Prop :=
  ∀ (s : State),
    let core := s.event.core
    let k := s.coreAt core
    (∀ b : Bin, k.spawnQueue.length < 4096 → (∀ c ∈ k.bins, ∃ l, s.launch? c.launch = some l ∧ l.lh.mode = 0) →
      (sortBy (fun c : Bin => c.order) k.bins).find? (fun c => (s.launch? c.launch).any (fun l =>
        decide (s.sys l.ctx 8 ≤ s.tick - c.opened))) = some b →
      exec .binTimerExpiry s = .next (s.setCore core { k with
        bins := k.bins.filter (fun c => c.number != b.number)
        spawnQueue := k.spawnQueue ++ [{ launch := b.launch, entry := b.entry, threads := b.threads }] }))
    ∧ (∀ p rest l slot, k.spawnQueue = p :: rest → s.launch? p.launch = some l → lowestIndex 63 (heldSlots s core) = some slot →
      l.held = false → l.draining = false → l.revoked = [] → fitsTeam s core l.kh = true →
      let live : LaneMask := BitVec.ofNat 64 (2 ^ min p.threads.length 64 - 1)
      let team : Team := { id := s.nextId, launch := l.id, key := p.threads.headD 0 >>> l.lh.widths.headD 6, core := core, spawned := true,
                            entry := p.entry, threads := p.threads, slots := [slot] }
      let group : Group :=
        { core := core, slot := slot, team := s.nextId, index := 0, live := live, ids := p.threads, homeCore := core,
          startNumber := l.startCount core slot % 65536, arch := { frontier := [{ prio := 0x8000, pc := p.entry, mask := live, guard := 63 }] } }
      exec .spawnedGroupStart s = .next { s.setCore core { k with spawnQueue := rest } with
        teams := s.teams ++ [team]
        nextId := s.nextId + 1
        launches := s.launches.map (fun m => if m.id == l.id then m.countStart core slot else m)
        groups := s.groups ++ [group] })
    ∧ (∀ b, k.block = none → ∀ bs, k.resuming = b :: bs → s.stopsTeam b.input.team = false →
      exec .thresherInputTake s = .next (s.setCore core { k with block := some b, resuming := bs }))
    ∧ (∀ i t l, k.block = none → k.resuming = [] → k.inputs.head? = some i → s.stopsTeam i.team = false → s.team? i.team = some t →
      s.launch? t.launch = some l → l.lh.mode = 0 →
      (let working := (k.results.filter (fun r => r.team == i.team)).length + (k.resuming.filter (fun b => b.input.team == i.team)).length
       inputFits s k i = true ↔ working < 8 ∧ t.loft.length < 64 ∧ (t.loft.map (fun x => x.granules)).sum + 16 ≤ l.kh.loft)
      ∧ ∀ ix, ix < 64 → ix ∉ t.loft.map (fun x => x.index) → (∀ j, j < ix → j ∈ t.loft.map (fun x => x.index)) → inputFits s k i = true →
        let tile : Tile := { index := ix, granules := 16, shape := 0x10010, ctx := l.ctx }
        let s1 := (s.setCore core { k with inputs := k.inputs.filter (fun j => j.id != i.id) }).mapTeam i.team (fun u =>
          { u with loft := u.loft ++ [tile] })
        let b : ThrBlock := { input := i, pc := 0, bit := 0, steps := 0, tile := ix, payload := 0, sectors := 1 }
        let access := checkVirtual s1 { ctx := l.ctx, launch := l.id, team := i.team, core := core } .load 16 false 16 i.word.toNat 16
        (∀ c, access = .error c → exec .thresherInputTake s = .next (endBlock s1 core b (if c = 17 then 7 else 6) 0))
        ∧ (∀ p, access = .ok p →
          let h := baleHeader (readAny s1 p 16)
          (h.formed = true ∧ h.mode = 3 → exec .thresherInputTake s = .next (s1.setCore core { s1.coreAt core with
            block := some { b with pc := h.param, payload := h.payload, sectors := h.sectors } }))
          ∧ (¬(h.formed = true ∧ h.mode = 3) → exec .thresherInputTake s = .next (endBlock s1 core b 5 0))))
    ∧ (∀ b, k.block = some b → 1048576 < b.steps → exec .thresherStepLimit s = .next (endBlock s core b 8 0))
    ∧ (∀ (b : ThrBlock) (status word : Nat), b.tile < 65536 → b.emitted < 65536 → status < 256 → word < 2 ^ 24 →
      let t := if status = 0 then s else s.mapTeam b.input.team (fun u => { u with loft := u.loft.filter (fun x => x.index != b.tile) })
      ∃ entry : BitVec 64, endBlock s core b status word = t.setCore core { k with
          block := none, results := k.results ++ [{ team := b.input.team, group := b.input.group, entry := entry }] }
        ∧ (entry.extractLsb' 0 16).toNat = (if status = 0 then b.tile else 0xFFFF) ∧ (entry.extractLsb' 16 16).toNat = b.emitted
        ∧ (entry.extractLsb' 32 8).toNat = status ∧ (entry.extractLsb' 40 24).toNat = word)
    ∧ (∀ t l, s.team? s.event.num = some t → s.launch? t.launch = some l →
      (let limit := (s.sys l.ctx 9).toNat
       t.place = .resident → 0 < limit → limit * 1048576 ≤ t.watchdog.toNat → (∃ g ∈ s.groups, g.team = t.id) →
       ∀ u, teamFault s t.id 15 = some u → exec .watchdogFault s = .next u)
      ∧ (queueDeadlocked s t = true → ∀ u, teamFault s t.id 9 = some u → exec .queueDeadlock s = .next u)
      ∧ (let busy := (∃ c ∈ s.commands, c.team = t.id) ∨ (∃ i ∈ (s.coreAt t.core).inputs, i.team = t.id)
          ∨ (∃ b ∈ (s.coreAt t.core).resuming ++ (s.coreAt t.core).block.toList, b.input.team = t.id)
        let blocked := fun e : Env => e.g.wait = .faulted ∨ ∃ push n r b p, e.g.wait = .queue push n r ∧ 8 ≤ n ∧ e.t.binding n = some b
          ∧ b.handle.toNat < 0x4000 ∧ storagePlace s e.accessor b.handle b.capacity = some p ∧ s.poisonedPlace p 16 = false
          ∧ (queueHeader (s.readPlace p 16)).ok b.capacity = true
          ∧ (queueHeader (s.readPlace p 16)).allowance = (if push then 0 else b.capacity)
        (queueDeadlocked s t = true ↔ t.place = .resident ∧ (∃ g ∈ s.groups, g.team = t.id) ∧ ¬busy
          ∧ ∀ g ∈ s.groups, g.team = t.id → g.matrix = [] ∧ ∃ e, s.env? g.core g.slot = some e ∧ blocked e)
        ∧ (teamDone s t = true ↔ t.place = .resident ∧ (∀ i, i < t.slots.length → i ∈ t.exited) ∧ (∀ g ∈ s.groups, g.team ≠ t.id) ∧ ¬busy))
      ∧ (∀ e c, s.groups.filter (fun g => g.team == t.id) = [e.g] → s.env? e.g.core e.g.slot = some e → e.g.wait ≠ .faulted →
        l.lh.mode = 0 → teamFault s t.id c = some (endTask
          ((writeRecord s l (e.record (e.headTrap s c 0) false) true).setGroup { e.g with wait := .faulted }) l.id c))
      ∧ (teamDone s t = true → t.unread = [] → l.lh.mode ≠ 2 →
        exec .teamRetirement s = .next { s.setCore t.core ((s.coreAt t.core).forget [t.id] none) with
          teams := s.teams.filter (fun u => u.id != t.id)
          launches := s.launches.map (fun m => if m.id == l.id then
            { m with retiredTime := m.retiredTime + t.watchdog.toNat, retiredTeams := m.retiredTeams + 1 } else m) }))
    ∧ (∀ l, s.launch? s.event.num = some l →
      (launchDone s l = true ↔ l.unplaced = [] ∧ (∀ t ∈ s.teams, t.launch ≠ l.id) ∧ (∀ c ∈ s.commands, c.launch ≠ l.id)
        ∧ (∀ c ∈ s.cores, (∀ b ∈ c.2.bins, b.launch ≠ l.id) ∧ ∀ p ∈ c.2.spawnQueue, p.launch ≠ l.id)
        ∧ ∀ r ∈ s.requests, r.ctx ≠ l.ctx ∨ r.tcb ≠ l.tcb)
      ∧ (launchDone s l = true →
        let s1 := writeTcb (hwWrite ((writeSignature s l).dropLaunch l.id) l.ctx (l.tcb.toNat + 0x30) (leBytes 8 s.tick.toNat)) l.ctx l.tcb 3 0
        let tcb := (hwRead s1 l.ctx l.tcb.toNat 64).getD []
        let successors := (List.range (byteField tcb 6 2)).map (fun j => (hwRead s1 l.ctx (byteField tcb 0x18 8 + 8 * j) 8).map leNat)
        let r := successors.foldl (decrement l.ctx) (s1, false)
        exec .launchRetirement s = .next (completionInterrupt
          (if r.2 then hwWrite r.1 l.ctx (l.tcb.toNat + 0xC) (leBytes 4 0x0C) else r.1) l.ctx l.tcb))
      ∧ (l.lh.mode = 0 → writeSignature s l = s)
      ∧ (l.lh.mode = 1 ∨ l.lh.mode = 2 → l.traced < 2 ^ 32 →
        let at_ := l.lh.traceBase.toNat + 4096 * l.lh.tracePages - 64
        let entries := if l.lh.mode = 2 then l.log.filter (fun e => e.used) else l.log
        entries.length < 2 ^ 32 →
        ∃ tail : List Byte, writeSignature s l = hwWrite s l.ctx at_ (signature l ++ tail) ∧ tail.length = 32
          ∧ ((byteField tail 0 1).testBit 0 = true ↔ l.lh.mode = 1 ∧ (l.overflowed = true ∨ l.flushed = true))
          ∧ ((byteField tail 0 1).testBit 1 = true ↔ l.lh.mode = 2 ∧ ∃ e ∈ l.log, e.used = false)
          ∧ ((byteField tail 0 1).testBit 2 = true ↔ l.lh.mode = 2 ∧ (hwRead s l.ctx at_ 64).map (fun b => b.take 32) ≠ some (signature l))
          ∧ byteField tail 0 1 < 8 ∧ byteField tail 1 1 = l.lh.mode ∧ byteField tail 2 2 = 0 ∧ byteField tail 4 4 = entries.length
          ∧ byteField tail 8 4 = l.traced ∧ byteField tail 12 20 = 0))
    ∧ (∀ (ctx a : Nat) (seen : Bool),
      decrement ctx (s, seen) none = (s, true)
      ∧ (hwRead s ctx a 12 = none → decrement ctx (s, seen) (some a) = (s, true))
      ∧ ∀ b, hwRead s ctx a 12 = some b →
        let count := byteField b 8 4
        let usable := byteField b 0 4 = 0x54434233 ∧ count ≠ 0 ∧ hwWritable s ctx (a + 8) 4 = true
        let s1 := hwWrite s ctx (a + 8) (leBytes 4 (count - 1))
        (¬usable → decrement ctx (s, seen) (some a) = (s, true))
        ∧ (usable → count ≠ 1 → decrement ctx (s, seen) (some a) = (s1, seen))
        ∧ (usable → count = 1 → decrement ctx (s, seen) (some a) = ((submitTask s1 ctx (BitVec.ofNat 64 a) false).1, seen)))

/-- R256 to R263, R265 to R277: an engine carries out the oldest command of its queue: a command that fails a check writes nothing and
gives its status and address; else the destination holds the copied, converted, expanded, gathered, scattered or reduced data, and the
token word the flags and status. Elements are scattered and added in ascending order, so the highest k stands (R274). The bytes are those
of R266 to R271 and R276: LN and IEEE elements convert as LCVT and FCVT do, a block has the scale of its largest element and its elements
the codes of R268 to R270, an expanded block is the payload, the masked sectors or the running sum of the deltas, and an element is reduced
over the ranks in the order of its chunk. Which poison an expanded byte has is the model's reading of R260. That a command
is carried out in one step is the model's choice (log entry 23, DESIGN CHOICE), as are the data of the other ranks and the elements
that LINK_ERROR finds written, which the event supplies (log entry 11, DESIGN CHOICE), and status 5 before the checks of the addresses
(log entry 116, DESIGN CHOICE); the place of the bad header and of the masks
among the checks of EXPAND (log entry 24), the place of the elements that a collective leaves (log entry 25) and of the scale
bytes in the order of a block format's accesses (log entry 35) are DEDUCED. -/
def Obligations.EngineEvents : Prop :=
  ∀ (s : State) (c : Command),
    let u := c.accessor
    let src := cmdSource c.engine c.word c.desc
    let dst := cmdDest c.engine c.word c.desc
    let n := cmdCount c.desc
    let bound := (descWord c.desc 7).toNat
    let status := fun bs : List (Byte × Bool) => if bs.any (·.2) then 3 else 0
    let fails := fun (f : Failure) => Host.Outcome.next (endCommand s c 0 f.status f.addr)
    let copying := headCommand s (.copy s.event.num) = some c
    let gathering := headCommand s (.gather s.event.num) = some c
    let uniting := headCommand s .collective = some c
    let sf := cmdField c.word 16 4
    let df := cmdField c.word 20 4
    let spans := (List.range n).flatMap (fun i =>
      elementSpans .load src sf (descWord c.desc 5) i ++ elementSpans .store dst df (descWord c.desc 6) i)
    (copying → cmdKind c.word = 0 →
      (∀ f, spanFailure s u spans = some f → exec .copyOrConvert s = fails f)
      ∧ (spanFailure s u spans = none → isBlock sf = false → isBlock df = false → sf ≠ 0 →
        let out := (List.range n).map (convertUnit s c sf df)
        let bytes := out.flatMap (·.data)
        exec .copyOrConvert s = .next (endCommand (writeAll s u c.tag dst bytes) c (out.foldl (fun f r => f ||| r.flags) 0) (status bytes) 0))
      ∧ (spanFailure s u spans = none → sf = 0 →
        let bytes := readStream s u src n
        exec .copyOrConvert s = .next (endCommand (writeAll s u c.tag dst bytes) c 0 (status bytes) 0))
      ∧ (spanFailure s u spans = none → isBlock sf = true ∨ isBlock df = true →
        let r := copyAll s c
        exec .copyOrConvert s = .next (endCommand
          (writeAll (writeAll s u c.tag dst r.data) u c.tag (dst.plus (descWord c.desc 6).toInt) r.scales) c r.flags
          (status (r.data ++ r.scales)) 0)))
    ∧ (copying → cmdKind c.word = 1 →
      let head := fun k : Nat => readSpan s u (src.plus (16 * k : Nat)) 16
      let bale := fun k : Nat => baleHeader (head k).1
      let good := fun k : Nat => (bale k).formed = true ∧ (bale k).mode ≠ 3
      let reads := ∀ k, k < n → headerRead s c k = true
      let touched := (List.range n).flatMap (fun k =>
        [({ kind := .load, addr := src.plus (16 * k : Nat), bytes := 16 } : Span)]
        ++ (if headerRead s c k = true ∧ good k then
            (List.range (bale k).sectors).map (fun j =>
              ({ kind := .load, addr := .va ((bale k).payload + BitVec.ofNat 64 (32 * j)), bytes := 32 } : Span))
          else [])
        ++ byteSpans .store (dst.plus (4096 * k : Nat)) 4096)
      let payload := fun k : Nat => readStream s u (.va (bale k).payload) (32 * (bale k).sectors)
      (∀ k, reads → k < n → ¬good k → (∀ j, j < k → good j) → exec .expand s = .next (endCommand s c 0 4 (src.plus (16 * k : Nat)).coded))
      ∧ (∀ f, (reads → ∀ k, k < n → good k) → spanFailure s u touched = some f → exec .expand s = fails f)
      ∧ ((∀ k, k < n → good k) → spanFailure s u touched = none →
        (∀ k, k < n → maskFits (bale k) (payload k) = false → (∀ j, j < k → maskFits (bale j) (payload j) = true) →
          exec .expand s = .next (endCommand s c 0 4 (src.plus (16 * k : Nat)).coded))
        ∧ ((∀ k, k < n → maskFits (bale k) (payload k) = true) →
          let out := (List.range n).flatMap (fun k => (expandBlock (bale k) (payload k)).map (fun y => (y.1, y.2 || (head k).2)))
          exec .expand s = .next (endCommand (writeAll s u c.tag dst out) c 0 (status out) 0))))
    ∧ (gathering → cmdKind c.word = 0 →
      (∀ f, gatherFailure s c = some f → exec .gather s = fails f)
      ∧ (gatherFailure s c = none →
        let z := gatherBytes c.word
        let out := (List.range n).flatMap (fun k =>
          let i := indexOf s c k
          if i.1 < bound then
            ((readSpan s u (src.plus (z * i.1 : Nat)) z).1.map (fun b => (b, (readSpan s u (src.plus (z * i.1 : Nat)) z).2 || i.2)))
          else List.replicate z (0, i.2))
        exec .gather s = .next (endCommand (writeAll s u c.tag dst out) c 0 (status out) 0)))
    ∧ (gathering → cmdKind c.word = 1 →
      (∀ f, gatherFailure s c = some f → exec .scatter s = fails f)
      ∧ (gatherFailure s c = none →
        let z := gatherBytes c.word
        let hits := (List.range n).filter (fun k => (indexOf s c k).1 < bound)
        let data := fun k : Nat => readSpan s u (src.plus (z * k : Nat)) z
        let bad := fun k : Nat => (data k).2 || (indexOf s c k).2
        let t := hits.foldl (fun t k => writeSpan t u (dst.plus (z * (indexOf s c k).1 : Nat)) (data k).1 (bad k) c.tag) s
        exec .scatter s = .next (endCommand t c 0 (if hits.any bad then 3 else 0) 0)))
    ∧ (gathering → cmdKind c.word = 2 → gatherBytes c.word = 4 →
      (∀ f, c.work = none → gatherFailure s c = some f → exec .scatterAdd s = fails f)
      ∧ (∀ l (place : Nat → Place), gatherFailure s c = none → s.launch? c.launch = some l → l.lh.mode = 0 →
        (∀ k, k < n → (indexOf s c k).1 < bound →
          let at_ := dst.plus (4 * (indexOf s c k).1 : Nat)
          locate s u (scatterKind s c at_) (scatterOp c) 4 4 at_ = .ok (place k)) →
        let hits := (List.range n).filter (fun k => (indexOf s c k).1 < bound)
        let r := hits.foldl (fun (a : State × BitVec 9 × Bool) k =>
          let d := readSpan s u (src.plus (4 * k : Nat)) 4
          let bad := (d.2 || (indexOf s c k).2) || a.1.poisonedPlace (place k) 4
          let w := performRmw a.1 (place k)
            { op := scatterOp c, width := 4, operand := BitVec.ofNat 64 (leNat d.1), cmp := 0, lane := 0 } (s.amr c.ctx) c.tag
          (if bad then w.1.poisonPlace (place k) 4 else w.1, a.2.1 ||| w.2.2, a.2.2 || bad)) (s, 0, false)
        exec .scatterAdd s = .next (endCommand r.1 c r.2.1 (if r.2.2 then 3 else 0) 0)))
    ∧ (uniting →
      let r := fun xs => collectiveOut s c xs
      let element := fun xs k => (leBytes (collectiveBytes c.word) ((r xs).1.getD k 0).toNat).map (fun b => (b, collectivePoison s c k))
      (∀ i k, (i, k) ∈ [(Instr.allReduce, 0), (.reduceScatter, 1), (.allGather, 2), (.broadcast, 3)] → cmdKind c.word = k →
        (s.event.flag = true → exec i s = .next (endCommand s c 0 5 0))
        ∧ (s.event.flag = false → ∀ f, spanFailure s u (collectiveSpans s c) = some f → exec i s = fails f)
        ∧ (s.event.flag = false → spanFailure s u (collectiveSpans s c) = none → ∀ xs, rankElements s c = some xs →
          let out := (List.range (r xs).1.length).flatMap (element xs)
          exec i s = .next (endCommand (writeAll s u c.tag dst out) c (r xs).2 (status out) 0)))
      ∧ (s.event.nums = [] → exec .linkError s = .next (endCommand s c 0 6 dst.coded))
      ∧ (rankElements s c = none ∨ (∃ f, spanFailure s u (collectiveSpans s c) = some f) →
        exec .linkError s = .next (endCommand s c 0 6 dst.coded))
      ∧ (∀ xs, spanFailure s u (collectiveSpans s c) = none → rankElements s c = some xs →
        let t := (s.event.nums.filter (fun k => k < (r xs).1.length)).foldl (fun t k =>
          writeAll t u c.tag (dst.plus (collectiveBytes c.word * k : Nat)) (element xs k)) s
        exec .linkError s = .next (endCommand t c 0 6 dst.coded))
      ∧ (∀ xs, rankElements s c = some xs →
        let comm := collectiveComm s c
        xs.length = commSize comm ∧ ∀ j, j < commSize comm → xs[j]? = some (if j = commRank comm then
          (List.range n).map (fun k => BitVec.ofNat 32 (leNat (readSpan s u (src.plus (collectiveBytes c.word * k : Nat)) (collectiveBytes c.word)).1))
          else s.event.ranks.getD j [])))
    ∧ (∀ xs : List (List Word), xs ≠ [] →
      let ranks := xs.length
      let amr := s.amr c.ctx
      let rnd : Rounding := { mode := 0, inf := !amr.getLsbD 3, flush := !amr.getLsbD 4, r := 0 }
      let wide := cmdField c.word 18 3
      let m : LnFmt := if wide = 1 then .ln16 else .ln32
      let val := fun w : Word => lnVal m w.toNat
      let coded := fun v : LnVal => BitVec.ofNat 32 (lnCode m v)
      let op := fun (a b : Word) => match cmdField c.word 16 2 with
        | 0 => if wide = 3 then (a + b, 0) else (coded (lnAdd m rnd (val a) (val b)).1, (lnAdd m rnd (val a) (val b)).2)
        | 1 => if wide = 3 then (if a.toInt ≤ b.toInt then a else b, 0) else (coded (lnMin m (val a) (val b)), 0)
        | _ => if wide = 3 then (if a.toInt ≤ b.toInt then b else a, 0) else (coded (lnMax m (val a) (val b)), 0)
      let reduced := fun k : Nat =>
        let chunk := k / ((n + ranks - 1) / ranks)
        let x := fun j : Nat => (xs.getD ((chunk + j) % ranks) []).getD k 0
        (List.range (ranks - 1)).foldl (fun (acc : Word × BitVec 9) j => ((op acc.1 (x (j + 2))).1, acc.2 ||| (op acc.1 (x (j + 2))).2)) (x 1, 0)
      let flags := (List.range n).foldl (fun f k => f ||| (reduced k).2) 0
      let rank := commRank (collectiveComm s c)
      (cmdKind c.word = 0 → collectiveOut s c xs = ((List.range n).map (fun k => (reduced k).1), flags))
      ∧ (cmdKind c.word = 1 → n % ranks = 0 → rank < ranks →
        collectiveOut s c xs = ((List.range (n / ranks)).map (fun k => (reduced (n / ranks * rank + k)).1), flags))
      ∧ (cmdKind c.word = 2 → collectiveOut s c xs = (xs.flatMap (fun x => (List.range n).map (fun k => x.getD k 0)), 0))
      ∧ (cmdKind c.word = 3 → collectiveOut s c xs = ((List.range n).map (fun k => (xs.getD (descWord c.desc 5).toNat []).getD k 0), 0)))
    ∧ (∀ (h : BaleHeader) (payload : List (Byte × Bool)), h.formed = true → payload.length = 32 * h.sectors →
      let out := expandBlock h payload
      let bits := leNat (payload.map (fun b => b.1))
      let mask := leNat ((payload.take 16).map (fun b => b.1))
      (h.mode = 0 → out = payload)
      ∧ (h.mode = 1 → maskFits h payload = true →
        let bad := (payload.take 16).any (fun b => b.2)
        out.length = 4096 ∧ ∀ k i, k < 128 → i < 32 → out[32 * k + i]? = if mask.testBit k = true then
          (payload[32 * (1 + ((List.range k).filter (fun j => mask.testBit j)).length) + i]?).map (fun b => (b.1, b.2 || bad)) else some (0, bad))
      ∧ (h.mode = 2 →
        let z := if h.fmt = 2 then 2 else 4
        let w := h.param
        let delta := fun j : Nat => bits / 2 ^ (8 * z + j * w) % 2 ^ w
        let signedDelta := fun j : Nat => if delta j < 2 ^ (w - 1) then (delta j : Int) else delta j - (2 ^ w : Nat)
        out.length = 4096 ∧ ∃ v : Nat → Nat, v 0 = bits % 2 ^ (8 * z) ∧ (∀ j, (v (j + 1) : Int) = (v j + signedDelta j) % 2 ^ (8 * z))
          ∧ ∀ j i, j < 4096 / z → i < z → ∃ bad, out[z * j + i]? = some (BitVec.ofNat 8 (v j / 2 ^ (8 * i)), bad)
            ∧ (bad = true ↔ ∃ k, 8 * k < 8 * z + j * w ∧ (payload[k]?).any (fun b => b.2) = true)))
    ∧ (sf ≠ 0 → isBlock sf = false → isBlock df = false → ∀ i,
      let x := readSpan s u (src.plus (copyBits sf / 8 * i : Nat)) (copyBits sf / 8)
      let v := elemToPlain df (commandRounding s c i) ((s.amr c.ctx).getLsbD 6) 0 (readElem sf ((s.amr c.ctx).getLsbD 5) (leNat x.1))
      convertUnit s c sf df i = { data := (leBytes (copyBits df / 8) v.1).map (fun b => (b, x.2)), scales := [], flags := v.2 })
    ∧ (∀ i l, s.launch? c.launch = some l →
      let amr := s.amr c.ctx
      let mode := if cmdField c.word 24 3 = 7 then amr.toNat % 8 else cmdField c.word 24 3
      let low := (lowestLane c.lanes).getD 0
      commandRounding s c i = { mode := mode, inf := !amr.getLsbD 3, flush := !amr.getLsbD 4, r := if mode = 4 then
        ((counterHash (BitVec.ofNat 32 i) c.sseq (BitVec.ofNat 32 (c.wordIx % 2 ^ 24 + low * 2 ^ 24 + 3 * 2 ^ 30)) c.workId l.k0 l.k1).headD 0).toNat
        else 0 })
    ∧ (∀ (k : Rounding) (fin fout : Bool) (x y code : Nat), k.mode ≤ 4 → code < 2 ^ copyBits x →
      let converted := elemToPlain y k fout 0 (readElem x fin code)
      let ln := [(1, LnFmt.ln8), (2, .ln16), (3, .ln32)]
      let ieee := [(5, 0), (6, 1), (7, 2), (8, 3)]
      (∀ a b, (x, a) ∈ ln → (y, b) ∈ ln →
        converted = (lnCode b (lnConvert a b k (lnVal a code)).1, (lnConvert a b k (lnVal a code)).2))
      ∧ (∀ a t, (x, a) ∈ ln → (y, t) ∈ ieee → converted = lnToIeee (ieeeFmt t) a k fout (lnVal a code))
      ∧ (∀ t b, (x, t) ∈ ieee → (y, b) ∈ ln →
        converted = (lnCode b (ieeeToLn (ieeeFmt t) b k fin code).1, (ieeeToLn (ieeeFmt t) b k fin code).2)))
    ∧ (∀ (f : Nat) (bs : List Byte) (scale : Nat) (flush : Bool), f ∈ [4, 9, 10, 11, 12, 13, 14] →
      (scale = 255 → readBlock f flush bs scale = ((List.range 32).map (fun j => .nan (if j = 0 then flCV else 0)), 0))
      ∧ (scale ≠ 255 → readBlock f flush bs scale = ((List.range 32).map (fun j =>
          readElem f flush (leNat bs / 2 ^ (copyBits f * j) % 2 ^ copyBits f)), (scale : Int) - 127)))
    ∧ (∀ (f : Nat) (emax : Int) (off : Int) (es : List Elem), (f, emax) ∈ [(4, 3), (9, 8), (10, 15), (11, 4), (12, 2), (13, 2), (14, 0)] →
      let isNan := fun e : Elem => ∃ fs, e = .nan fs
      let exponent := fun (e : Elem) (g : Int) => (∃ neg l b, e = .ln neg l b ∧ g = l / 2 ^ b + off)
        ∨ ∃ neg m b, e = .num neg m b ∧ g = (Nat.log2 m : Int) - b + off
      (∀ e ∈ es, ∀ neg m b, e = Elem.num neg m b → 0 < m ∧ m < 2 ^ 128) →
      ((∃ e ∈ es, isNan e) → blockScale f off es = 255)
      ∧ ((∀ e ∈ es, ¬isNan e) →
        ((∀ e ∈ es, ∀ g, ¬exponent e g) → blockScale f off es = 127)
        ∧ ∀ g, (∃ e ∈ es, exponent e g) → (∀ e ∈ es, ∀ h, exponent e h → h ≤ g) →
          (blockScale f off es : Int) = max 0 (min 254 (g - emax + 127))))
    ∧ (∀ (f : Nat) (k : Nat → Rounding) (flush : Bool) (off : Int) (es : List Elem),
      let scale := blockScale f off es
      let one := fun (j : Nat) (e : Elem) => elemToBlock f (k j) flush (off - ((scale : Int) - 127)) e
      (scale = 255 → blockCodes f k flush off es = (es.map (fun _ => if f = 4 then 0x60 else 0), 0))
      ∧ (scale ≠ 255 → (blockCodes f k flush off es).1 = es.zipIdx.map (fun e => (one e.2 e.1).1)
        ∧ (blockCodes f k flush off es).2 = es.zipIdx.foldl (fun fs e => fs ||| (one e.2 e.1).2) 0))
    ∧ (∀ (f : Nat) (codes : List Nat), f ∈ [4, 9, 10, 11, 12, 13, 14] → codes.length = 32 → (∀ v ∈ codes, v < 2 ^ copyBits f) →
      (packBlock f codes).length = 4 * copyBits f
      ∧ ∀ j, j < 32 → codes[j]? = some (leNat (packBlock f codes) / 2 ^ (copyBits f * j) % 2 ^ copyBits f))
    ∧ (∀ (k : Rounding) (flush neg : Bool) (a : LnFmt) (l off : Int), k.mode ≤ 4 → -(2 ^ (a.log - 1)) ≤ l → l < 2 ^ (a.log - 1) →
      let e := Elem.ln neg l a.frac
      let y := (lnParts a.frac l).1
      let ex := (lnParts a.frac l).2.1
      let u := (lnParts a.frac l).2.2
      let rounded := fun (v : Nat) (z : Int) =>
        let q := if z ≤ 0 then v * 2 ^ (-z).toNat else v / 2 ^ z.toNat
        let rem := if z ≤ 0 then 0 else v % 2 ^ z.toNat
        let up := rem ≠ 0 ∧ (k.mode = 0 ∧ (2 ^ z.toNat < 2 * rem ∨ (2 * rem = 2 ^ z.toNat ∧ q % 2 = 1)) ∨ (k.mode = 2 ∧ neg = false)
          ∨ (k.mode = 3 ∧ neg = true) ∨ (k.mode = 4 ∧ k.r < rem * 2 ^ 32 / 2 ^ z.toNat))
        ((if up then q + 1 else q), rem)
      let b := lnFinish .ln8 { k with inf := false } neg (l * (2 ^ (40 - a.frac) : Nat) + off * 2 ^ 40)
      elemToBlock 4 k flush off e = (lnCode .ln8 b.1,
          b.2 ||| (if LnFmt.ln8.frac < a.frac ∧ l % (2 ^ (a.frac - LnFmt.ln8.frac) : Nat) ≠ 0 ∨ b.2 ≠ 0 then flIX else 0))
      ∧ (∀ f p bias largest, (f, p, bias, largest) ∈ [(9, 4, 7, 0x7E), (10, 3, 15, 0x7B), (11, 3, 3, 0x1F), (12, 4, 1, 0x1F), (13, 2, 1, 0x7)] →
        let sign := if neg then 2 ^ (copyBits f - 1) else 0
        let emin : Int := 1 - (bias : Nat)
        let y1 := if y = 2 ^ 41 then 2 ^ 40 else y
        let e1 := (if y = 2 ^ 41 then ex + 1 else ex) + off
        let r := rounded y1 (40 - ((p : Nat) - 1) + max e1 emin - e1)
        let enc := ((max e1 emin + (bias : Nat) - 1) * 2 ^ (p - 1) + r.1).toNat
        elemToBlock f k flush off (.zero neg) = (sign, 0)
        ∧ elemToBlock f k flush off (.inf neg) = (if f = 10 then (sign + 0x7C, 0) else (sign + largest, flOV ||| flIX))
        ∧ elemToBlock f k flush off e =
          if e1 < emin ∧ flush = true then (sign, flUN ||| flIX)
          else if largest + 1 ≤ enc then (sign + (if f = 10 ∧ k.inf = true then 0x7C else largest), flOV ||| flIX)
          else (sign + enc, if u ≠ 0 ∨ r.2 ≠ 0 then (if e1 < emin then flIX ||| flUN else flIX) else 0))
      ∧ (let r := rounded y (40 - ex - 6 - off)
        let v : Int := if neg then -(r.1 : Int) else r.1
        elemToBlock 14 k flush off e = if v < -127 then (129, flOV ||| flIX) else if 127 < v then (127, flOV ||| flIX)
          else ((v % 256).toNat, if u ≠ 0 ∨ r.2 ≠ 0 then flIX else 0)))

/-- R311: a task is accepted exactly when its TCB is aligned, readable and writable in an active context, has the magic, is idle
with no predecessor left, names one of the eight queues, and the queue holds fewer than 4,096 tasks. R310, R311, R314 to R318: an
accepted submission sets state 1 and queues the task, a refused one leaves its code; admission of a head writes state 4 with the
code of the first check that fails, or admits the launch; a dispatch step places the team with the smallest key. That a TCB must
be writable, and the codes of one that is not, are the model's reading (log entry 67, DEDUCED), as is the order of what an
admission does (log entry 86, DEDUCED). R317: what a core needs to fit a team, the core that a fresh team goes to, and the slots of its
groups. -/
def Obligations.LaunchProcessorEvents : Prop :=
  (∀ (s : State) (ctx q : Nat) (tcb : BitVec 64),
      acceptTcb s ctx tcb = .ok q ↔
        ∃ bs hs, (s.sys ctx 0x180).getLsbD 0 = true ∧ tcb.toNat % 64 = 0 ∧ hwWritable s ctx tcb.toNat 64 = true
          ∧ hwRead s ctx tcb.toNat 64 = some bs ∧ byteField bs 0 4 = 0x54434233 ∧ byteField bs 4 1 = 0 ∧ byteField bs 8 4 = 0
          ∧ hwRead s ctx (byteField bs 0x10 8) 8 = some hs ∧ byteField hs 7 1 = q ∧ q < 8
          ∧ (s.queues.countP (fun e => e.1 == q)) < 4096)
  ∧ (∀ (s : State),
      (∀ i p, (i, p) ∈ [(Instr.submit, false), (.psubmit, true)] → s.event.ctx < 64 → s.power = .running →
        let ctx := s.event.ctx
        let tcb := s.event.value
        (∀ q, acceptTcb s ctx tcb = .ok q →
          let t := hwWrite s ctx (tcb.toNat + 4) [1]
          exec i s = .next { t with queues := t.queues ++ [(q, { ctx := ctx, tcb := tcb, privileged := p })] })
        ∧ (∀ c, acceptTcb s ctx tcb = .error c →
          let t := s.setSys ctx 0x138 ((tcb >>> 6 <<< 6) ||| BitVec.ofNat 64 c)
          ((∀ b, readTcb t ctx tcb = some b → byteField b 4 1 ≠ 0) → exec i s = .next t)
          ∧ (∀ b, readTcb t ctx tcb = some b → byteField b 4 1 = 0 →
            exec i s = .next (completionInterrupt (writeTcb t ctx tcb 4 c) ctx tcb))))
      ∧ (∀ q t rest, s.checkpointing = false → q < 8 → s.queues = (q, t) :: rest → (∀ e ∈ rest, e.1 = q) →
        (∀ l ∈ s.launches, l.revoked = []) →
        (∀ c, candidate s q t s.event.nums = .error c →
          exec .admission s = .next (completionInterrupt (writeTcb { s with queues := rest } t.ctx t.tcb 4 c) t.ctx t.tcb))
        ∧ (∀ l, candidate s q t s.event.nums = .ok l → contextWaits s l = false → l.lh.coresident = false →
          exec .admission s = .next (admitLaunch { s with queues := rest } l)))
      ∧ (∀ l k ks core slots, s.launches = [l] → savedTeams s l.id = [] → l.unplaced = k :: ks → l.lh.coresident = false →
        l.revoked = [] → s.stopsLaunch l = false → l.held = false → l.draining = false → freshPlace s l k = some (core, slots) →
        exec .dispatchStep s = .next (installTeam s l k core slots)))
  ∧ (∀ (s : State) (q : Nat) (t : Task) (refused : List Nat) (l : Launch), candidate s q t refused = .ok l →
      l.unplaced.Pairwise (fun a b => a < b))
  ∧ (∀ (keys : List Nat) (k : Nat), keys.Pairwise (fun a b => a ≤ b) →
      (keys.erase k).Pairwise (fun a b => a ≤ b) ∧ (insertBy id k keys).Pairwise (fun a b => a ≤ b))
  ∧ (∀ (s : State) (l : Launch) (c : Nat),
      let here := (s.teams ++ s.ghosts).filter (fun t => t.core == c && t.place == .resident)
      let taken := fun f : KernelHeader → Nat => (here.filterMap (fun t => (s.launch? t.launch).map (fun m => f m.kh))).sum
      (fitsCore s l c = true ↔ taken (·.loft) + l.kh.loft ≤ 4096 ∧ taken (·.barriers) + l.kh.barriers ≤ 32
        ∧ (c / 12 ∈ l.clusters ∨ ((s.launches.filter (fun m => m.clusters.contains (c / 12))).map (·.kh.barn)).sum + l.kh.barn ≤ 65536))
      ∧ (∀ k, k ∈ freeSlots s c ↔ k < 63 ∧ ∀ g ∈ s.groups, g.core = c → g.slot ≠ k)
      ∧ (∀ free, chooseSlots 0 free = some [])
      ∧ (∀ n free, (∀ k ∈ free, k < 63) →
        let count := fun p => free.countP (fun k => k / 16 == p)
        (free = [] → chooseSlots (n + 1) free = none)
        ∧ ∀ k ∈ free, (∀ p, p < 4 → count p ≤ count (k / 16)) → (∀ p, p < k / 16 → count p < count (k / 16)) →
          (∀ j ∈ free, j / 16 = k / 16 → k ≤ j) →
          chooseSlots (n + 1) free = (chooseSlots n (free.filter (fun j => j != k))).map (fun ks => k :: ks)))
  ∧ (∀ (s : State) (l : Launch) (key : Nat), l.trace.find? (fun e => e.1 == key) = none →
      let nth := fun k => (s.nextCore + k) % 144
      let slotsAt := fun c => chooseSlots l.groupCount (freeSlots s c)
      ∀ core slots, freshPlace s l key = some (core, slots) ↔
        ∃ k, k < 144 ∧ core = nth k ∧ fitsCore s l core = true ∧ slotsAt core = some slots
          ∧ ∀ j, j < k → ¬(fitsCore s l (nth j) = true ∧ (slotsAt (nth j)).isSome = true))

/-- R362, R363, R365, R377 to R385, R413: a request that names no admitted launch is refused; save, drain and flush end with their
PREDONE word; PRERESUME releases holds; an invalidation stops the launches it strikes, and a revoked launch is granted its leases
again or ends; a patch that may not be made leaves 2 in PATCHCTL. The REDs of struck launches in mode 0 take their places before the
completion is sent (log entry 88, DEDUCED). Requests that end on their own, and the started commands that
the event names, are the model's choice (log entry 57, DESIGN CHOICE), and so is where an area lies in the pool (log entry 56, DESIGN CHOICE). R378:
the method that is chosen. R379, R383 to R385: what a group is when it is saved, the fields of the areas, and what leaves the core. R380:
a resumed team is as it was saved. The flush of spawned teams (log entry 31), when a team is
quiet (log entry 30) and the two steps of a patch (log entries 75 and 102) are DEDUCED; the host's translations come with the
event (log entry 61, DESIGN CHOICE). -/
def Obligations.PreemptionAndLeaseEvents : Prop :=
  ∀ (s : State),
    let n := s.event.num
    let ends := fun (t : State) (w : BitVec 64) => { t.setBar 0x1010 w with requests := t.requests.eraseIdx n }
    let stops := fun (struck : List (Nat × List Nat)) (l : Launch) =>
      { l with revoking := (l.revoking ++ (struck.filter (fun x => x.1 == l.id)).flatMap (fun x => x.2)).eraseDups }
    (∀ r, s.requests[n]? = some r →
      let word := fun l => predone s r l
      let ofMethod := fun m => r.method = m
      (requestLaunch s r = none →
        (∀ i m, (i, m) ∈ [(Instr.preemptChosen, 0), (.preemptSave, 1), (.preemptDrain, 2), (.preemptFlush, 3)] → ofMethod m →
          exec i s = .next (ends s 0x101)))
      ∧ (∀ l, requestLaunch s r = some l →
        (ofMethod 0 → exec .preemptChosen s = .next { s with requests := s.requests.set n { r with method := chooseMethod s r l } })
        ∧ (ofMethod 1 → launchQuiet s l.id = true →
          (∀ t, saveLaunch s l.id r.hold = some t → exec .preemptSave s = .next (ends t (word l)))
          ∧ (saveLaunch s l.id r.hold = none → exec .preemptSave s = .next (ends s 0x301)))
        ∧ (ofMethod 2 →
          (residentTeams s l.id = [] → exec .preemptDrain s = .next
            (ends (s.mapLaunch l.id (fun m => { m with draining := false, held := m.held || r.hold })) (word l)))
          ∧ (residentTeams s l.id ≠ [] → l.draining = false →
            exec .preemptDrain s = .next (s.mapLaunch l.id (fun m => { m with draining := true }))))
        ∧ (ofMethod 3 → l.lh.mode ≠ 2 →
          (l.kh.restartable = false → exec .preemptFlush s = .next (ends s 0x201))
          ∧ (l.kh.restartable = true → exec .preemptFlush s = .next (ends
              (((if l.lh.coresident = true then s.teams.filter (fun t => t.launch == l.id) else residentTeams s l.id).foldl
                (flushTeam s.event.nums) (markFlushed s l.id)).mapLaunch l.id (fun m => { m with held := m.held || r.hold })) (word l))))
        ∧ (ofMethod 3 → l.lh.mode = 2 → exec .preemptFlush s = .next (launchFault (ends s (word l)) l.id 16 3))))
    ∧ (let named := (s.launches.filter (fun l => l.tcb == s.event.value)).map (·.id)
      exec .preresume s = .next { s with
        launches := s.launches.map (fun l => if l.tcb == s.event.value then { l with held := false } else l)
        teams := s.teams.map (fun t => if named.contains t.launch then { t with hold := false } else t)
        requests := s.requests.map (fun r => if r.tcb == s.event.value && r.method == 2 then { r with hold := false } else r) })
    ∧ (∀ l, s.launch? n = some l → l.revoking = [] → l.revoked ≠ [] →
      let back := ((leaseRegions s l).zipIdx.filter (fun r => l.revoked.contains r.2)).all (fun r =>
        (decide (l.lh.leases.length ≤ r.2) || inOneRange s l.ctx r.1) && regionResident s l.ctx s.event.nums r.1)
      (back = true → exec .leaseRegrant s = .next (s.mapLaunch l.id (fun m => { m with revoked := [] })))
      ∧ (back = false → exec .leaseRegrant s = .next (launchFault s l.id 4 0)))
    ∧ (∀ l, s.launch? n = some l → launchQuiet s l.id = true →
      let own := l.revoking.filter (fun k => !s.link.pending.any (fun v => v.struck.any (fun x => x.1 == l.id && x.2.contains k)))
      own ≠ [] → exec .leaseRegrant s = .next (revoke s (l.id, own)))
    ∧ (s.event.flag = false →
      let hit := struckByPages s s.event.nums.head? s.event.addr.toNat n
      let moved := s.event.pages.take n
      exec .atsInvalidationRequest s = .next { s with
        launches := s.launches.map (stops hit)
        link := { s.link with pending := s.link.pending ++ [{
          addr := s.event.addr, management := false, pasid := s.event.nums.head?, num := n, struck := hit
          pages := (moved.zip (List.range moved.length)).map (fun p => (s.event.nums.head?, s.event.addr.toNat / 4096 + p.2, p.1)) }] } })
    ∧ (∀ v rest, s.event.flag = true → s.link.pending = v :: rest → v.management = false →
      let fresh := freshStrikes s v
      let hits := hitLeases s v
      let s0 := hits.foldl drainStruck s
      (fresh ≠ [] → exec .atsInvalidationRequest s = .next { s with
        launches := s.launches.map (stops fresh)
        link := { s.link with pending := { v with struck := v.struck ++ fresh } :: rest } })
      ∧ (fresh = [] → strickenQuiet s hits = true → exec .atsInvalidationRequest s = .next (hits.foldl revoke
        { s0 with link := { s0.link with
          pending := rest, translations := v.pages ++ s0.link.translations, invalidations := s0.link.invalidations ++ [v.addr] } })))
    ∧ (∀ block, s.event.flag = false → s.event.ctx < 64 → s.power = .running → xlinvBlock s.event.value = some block →
      let hit := struckByBlock s s.event.ctx block
      exec .xlinv s = .next { s.setBar 0x108 0 with
        launches := s.launches.map (stops hit)
        link := { s.link with pending := s.link.pending ++ [{ addr := s.event.value, management := true, ctx := s.event.ctx, struck := hit }] } })
    ∧ (s.event.ctx < 64 → s.power = .running → s.event.value.toNat % 4294967296 < 16384 →
      let c := s.event.ctx
      let words := s.event.value.toNat % 4294967296 + 1
      let target := (s.sys c 0x13B).toNat
      let busy := fun j : Option PatchJob => s.setContext c { s.context c with patch := j }
      (s.event.flag = false → (s.context c).patch = none →
        (patchObject s c (target, 4 * words) = none → exec .patch s = .next (s.setSys c 0x13C 2))
        ∧ (∀ code bs, patchObject s c (target, 4 * words) = some code → readPatch s c (s.sys c 0x13A).toNat (4 * words) = some bs →
          (patchPinned s c code.1 = true → exec .patch s = .next (s.setSys c 0x13C 2))
          ∧ (patchPinned s c code.1 = false →
            let t := busy (some { target := target, kernel := code.1, code := code.2, bytes := bs })
            exec .patch s = .next { t with groups := t.groups.map (stopAtTarget t c) })))
      ∧ (∀ j, (s.context c).patch = some j →
        (s.event.flag = false → exec .patch s = .next ((s.setBar 0x110
          (BitVec.ofNat 64 (0x13C + c * 4096 + 6 * 1048576 + 9223372036854775808))).setContext c
            { s.context c with patch := some { j with refused := true } }))
        ∧ (s.event.flag = true →
          let t := rewriteDigest (writeText s c j.target j.bytes) c (j.kernel, j.code)
          exec .patch s = .next ((t.setContext c { t.context c with patch := none }).setSys c 0x13C (if j.refused then 2 else 0)))))
    ∧ (∀ (r : Request) (l : Launch),
      let ts := s.teams.filter (fun t => t.launch == l.id && t.place == .resident)
      let time := fun t : Team => t.watchdog.toNat
      let u := max 1 l.retiredTeams
      let saveBytes := fun t : Team =>
        4096 + 256 * l.kh.loft + t.slots.length * (4096 + 272 * l.kh.regs + 2048 * (l.kh.tiles + l.kh.accs) + 64 * l.kh.tlm)
      let saving := fun t : Team => 4096 + (saveBytes t + 255) / 256
      let left := fun t : Team => l.retiredTime - u * time t
      let dispatched := ((s.teams.filter (fun t => t.launch == l.id)).map time).sum + l.retiredTime
      let lost := fun t : Team => if l.lh.mode = 2 then dispatched else time t
      let available := fun m => (m = 2 ∧ l.retiredTeams ≠ 0) ∨ (m = 1 ∧ poolFull s ts l = false)
        ∨ (m = 3 ∧ (l.kh.restartable = true ∨ l.lh.mode = 2))
      let latency := fun m => if m = 2 then (ts.map left).foldl max 0 else if m = 1 then u * (ts.map saving).foldl max 0 else u * 1024
      let cost := fun m => if m = 2 then (ts.map left).sum else if m = 1 then u * (2 * (ts.map saving).sum)
        else u * (ts.map (fun t => 1024 + lost t)).sum
      let place := fun m => if m = 2 then 0 else if m = 1 then 1 else 2
      let b := if r.bound = 0 then l.lh.bound else r.bound
      let meets := fun m => available m ∧ (b = 0 ∨ latency m ≤ u * b)
      (∀ m, meets m → (∀ k, meets k → cost m < cost k ∨ (cost m = cost k ∧ place m ≤ place k)) → chooseMethod s r l = m)
      ∧ ((∀ k, ¬meets k) → ∀ m, available m →
        (∀ k, available k → latency m < latency k ∨ (latency m = latency k ∧ place m ≤ place k)) → chooseMethod s r l = m)
      ∧ ((∀ k, ¬available k) → chooseMethod s r l = 2))
    ∧ (∀ n a, (∀ v ∈ usedAreas s, 3008000000000 ≤ v.1) → freeArea s n = some a →
      3008000000000 ≤ a ∧ a + n ≤ 3072000000000 ∧ a % 4096 = 0 ∧ ∀ v ∈ usedAreas s, a + n ≤ v.1 ∨ v.1 + v.2 ≤ a)
    ∧ (∀ (t : Team) (l : Launch) (hold : Bool) (area : Nat), s.team? t.id = some t → s.launch? t.launch = some l → l.lh.mode = 0 →
      freeArea s (saveBytes l.kh t.slots.length) = some area →
      s.groups.Pairwise (fun g h => ¬(g.core = h.core ∧ g.slot = h.slot)) →
      (∀ g ∈ s.groups, g.team = t.id → g.outstanding = [] ∧ g.fence = none ∧ g.wait = .none ∧ g.reds = [] ∧ g.batch = []) →
      saveTeam s t.id hold = some (storeTeam { s with groups := s.groups.map (fun g =>
        if g.team = t.id then { g with arch := { g.arch with run := {} } } else g) } t l hold area))
    ∧ (∀ (g : Group) (amr : Word), g.outstanding = [] → g.fence = none →
      let anew := fun h : Group => { h with arch := { h.arch with run := {} } }
      (∀ k, g.wait = .barrier k → g.forSave amr = g)
      ∧ (∀ ls since due, g.wait = .waitm ls since due → g.forSave amr = anew (g.completeWord amr))
      ∧ (∀ push n reg, g.wait = .queue push n reg → g.forSave amr = anew { g with wait := .none }))
    ∧ (∀ (g : Group) (w : FenceWin) (amr : Word), g.outstanding = [] → g.fence = some w → w.completing = false →
      g.forSave amr = { g with
        arch := { w.snapshot with run := {} }, tokens := w.tokens, heldFlags := w.heldFlags, after := w.after, bad := g.badBehind w
        wait := .none, fence := none })
    ∧ (∀ (t : Team) (l : Launch) (hold : Bool) (area : Nat), s.team? t.id = some t →
      let gs := s.groups.filter (fun g => g.team == t.id)
      let x := threshed (s.coreAt t.core) t.id
      let u := storeTeam s t l hold area
      let word := fun at_ off size v : Nat => u.memory.read .granary (at_ + off) size = leBytes size v
      u.team? t.id = some { t with place := .saved gs x.1 x.2.1 x.2.2 area, hold := hold, stopping := false }
      ∧ ((∀ g ∈ gs, g.xset ≠ .held) →
        u.groups = s.groups.filter (fun g => !gs.any (fun h => h.core == g.core && h.slot == g.slot)))
      ∧ (word area 0 4 0x53544733 ∧ word area 4 1 t.slots.length ∧ word area 5 1 (if hold then 1 else 0) ∧ word area 6 2 t.core
        ∧ word area 8 8 t.key.toNat ∧ word area 0x10 8 l.tcb.toNat ∧ word area 0x18 8 t.watchdog.toNat ∧ word area 0x30 4 l.kh.loft
        ∧ ∀ k, k < 16 → word area (0x20 + k) 1 (t.slots.getD k 0xFF))
      ∧ ∀ g ∈ gs, (∀ h ∈ gs, h ≠ g → h.index ≠ g.index ∧ ∀ p ∈ groupPieces h l, p.1 + p.2.length ≤ groupAreaBytes l.kh) →
        let own := area + (4096 + 256 * l.kh.loft + 4095) / 4096 * 4096 + g.index * ((0x26100 + 64 * l.kh.tlm + 255) / 256 * 256)
        word own 0 4 0x53564733 ∧ word own 4 1 g.slot ∧ word own 5 1 g.index ∧ word own 8 4 g.arch.sseq.toNat
        ∧ word own 0xC 4 g.request.toNat ∧ word own 0x10 2 g.arch.aging ∧ word own 0x1C 2 g.homeCore ∧ word own 0x1E 2 g.startNumber
        ∧ (l.kh.regs ≤ 128 → ∀ n, n < l.kh.regs →
          let bytes := spillRecord (lanes.map (fun i => g.arch.getV n i))
          u.memory.read .granary (own + 0x11100 + 272 * n) bytes.length = bytes))
    ∧ (∀ (t : Team) (l : Launch) (gs : List Group) (block : Option ThrBlock) (inputs : List ThrInput) (results : List ThrResult) (area : Nat),
      s.team? t.id = some t → s.launch? t.launch = some l → t.place = .saved gs block inputs results area → s.memory.granaryPoison = [] →
      (∀ g ∈ s.groups, g.team ≠ t.id) → gs.Pairwise (fun g h => g.slot ≠ h.slot) →
      (∀ g ∈ gs, g.team = t.id ∧ g.xset = .none ∧ g.reds = [] ∧ g.batch = []) → (∀ x ∈ t.loft, x.poison = []) →
      let all := (List.range 144).map (fun k => (s.nextCore + k) % 144)
      let order := if l.lh.mode ≠ 0 then [t.core] else if l.kh.barn = 0 then all else all.filter (fun c => c / 12 == t.core / 12)
      let fits := fun c => fitsCore s l c && gs.all (fun g => (freeSlots s c).contains g.slot)
      (order.find? fits = none → placeSaved s t.id = none)
      ∧ ∀ c, order.find? fits = some c → ∃ u, placeSaved s t.id = some u
        ∧ u.groups = s.groups ++ gs.map (fun g => { g with core := c })
        ∧ u.team? t.id = some { t with place := .resident, hold := false, core := c }
        ∧ u.nextCore = (c + 1) % 144
        ∧ (let k := s.coreAt c
          u.coreAt c = { k with
            inputs := k.inputs ++ inputs, resuming := k.resuming ++ block.toList, results := k.results ++ results })
        ∧ (l.kh.tlm = 0 → u.memory = s.memory))

/-- R346 to R353, R393: the host's writes to the registers of a context and of the device, in a running device; a refused one is
discarded and recorded in MGERR; and its accesses through BAR4. The reasons in MGERR (log entry 73), the cleared PREDONE (log
entry 74) and the rights of BAR4 (log entry 77) are DEDUCED; independent requests (log entry 57) and the registers whose offsets
overlap (log entry 50) are the model's choice, DESIGN CHOICE. -/
def Obligations.HostRegisterEvents : Prop :=
  ∀ (s : State), s.power = .running →
    let c := s.event.ctx
    let n := s.event.num
    let v := s.event.value
    let becomes := fun (i : Instr) (t : State) => exec i s = .next t
    let refused := fun (number reason : Nat) =>
      s.setBar 0x110 (BitVec.ofNat 64 (number % 4096 + c % 64 * 4096 + reason * 1048576 + 9223372036854775808))
    (c < 64 → s.contextActive c = false →
      let r := activationReason s c
      becomes .ctxstateActivate (s.setSys c 0x180 (if r = 0 then 1 else BitVec.ofNat 64 (256 * r))))
    ∧ (c < 64 → s.contextActive c = true →
      becomes .ctxstateFree (if contextBusy s c then s.setSys c 0x180 0x401 else s.setContext c {}))
    ∧ (c < 64 → n < 8 → commBusy s c n = false →
      becomes .commWrite (if commFormed v then s.setSys c (0x130 + n) v else refused (0x130 + n) 1))
    ∧ (c < 64 → 0x100 ≤ n → n < 0x130 →
      (∀ t, writeRange s c n v = .ok t → becomes .rangeRegisterWrite t)
      ∧ (∀ d, writeRange s c n v = .error d → becomes .rangeRegisterWrite (refused n d.reason)))
    ∧ (c < 64 → becomes .substatClear (s.setSys c 0x138 0))
    ∧ becomes .mgerrClear (s.setBar 0x110 0) ∧ becomes .errcntClear (s.setBar (0x4000 + 8 * n) 0)
    ∧ (s.event.addr = 0x100 → becomes .registerWrite (s.setBar 0x100 (v &&& 63)))
    ∧ (s.event.addr = 0x1020 → becomes .registerWrite (s.setBar 0x1020 v))
    ∧ (s.event.addr = 0x1008 →
      let p := (s.bar 0x1000).toNat
      let r : Request :=
        { tcb := BitVec.ofNat 64 (p / 64 * 64), ctx := v.toNat % 64, method := p % 4, hold := p / 4 % 2 == 1,
          bound := v.toNat / 4294967296, start := s.tick }
      becomes .registerWrite { (s.setBar 0x1008 (v &&& 0xFFFFFFFF0000003F)).setBar 0x1010 0 with requests := s.requests ++ [r] })
    ∧ (∀ k, k < 64 → s.event.addr.toNat = 0x100000 + 4096 * k + 8 * 9 →
      becomes .registerWrite (s.setSys k 9 (v &&& 0xFFFFFFFF)))
    ∧ (let a := s.event.addr.toNat
      let ctx := (s.bar 0x100).toNat % 64
      s.event.flag = false → a + n ≤ 4398046511104 → ∀ f : Nat → Leaf, (∀ k, k < n → windowLeaf s ctx (a + k) false = some (f k)) →
      becomes .bar4Access { s with link := { s.link with
        readAbort := false
        readPoison := (List.range n).any (fun k => s.memory.poisoned (f k).tier (f k).phys 1)
        readData := BitVec.ofNat 64 (leNat ((List.range n).map (fun k => s.memory.readByte (f k).tier (f k).phys))) } })
    ∧ (let a := s.event.addr.toNat
      let ctx := (s.bar 0x100).toNat % 64
      s.event.flag = true → a + s.event.bytes.length ≤ 4398046511104 → ∀ f : Nat → Leaf,
      (∀ k, k < s.event.bytes.length → windowLeaf s ctx (a + k) true = some (f k)) →
      let t := (sectorsOf a s.event.bytes).foldl (fun t p =>
        t.writePlace (.mem (f (p.1 - a)).tier (f (p.1 - a)).phys p.1) p.2) s
      becomes .bar4Access { t with link := { t.link with readAbort := false } })
    ∧ (∀ k, k < 64 → readBar2 s (4096 * k + 8) = s.sys k 0x138)
    ∧ (∀ o, o % 4096 ≠ 8 → readBar2 s o = 0)

/-- R367, R368, R395, R396: a reset keeps memory, flash, fuses and what lies outside and runs the boot ROM; an image is installed
when its checks pass; the mailbox answers of attestation; a checkpoint starts, and ends when every team is saved; a restore takes
back an image whose digests are right. The order of the install checks and FUSE_RAISE (log entry 78), what counts as loaded for a
measurement (log entry 79), the reasons of a checkpoint (log entry 81), the layout of chunk 0 (log entry 51) and the teams that
stand behind an image (log entry 105) are DEDUCED; the busy mailboxes (log entry 104) and the empty memory after power-on (log
entry 4) are the model's choice, DESIGN CHOICE. -/
def Obligations.TrustAndCheckpointEvents : Prop :=
  ∀ (s : State),
    let r := restart s
    let starts := fun (j : MailboxJob) (status : Nat) =>
      { s with link := { s.link with jobs := s.link.jobs ++ [j] } }.setBar status 1
    let ends := fun j : MailboxJob => { s with link := { s.link with jobs := s.link.jobs.filter (fun k => k != j) } }
    (exec .deviceReset s = .next r ∧ r.groups = [] ∧ r.teams = [] ∧ r.launches = [] ∧ r.queues = [] ∧ r.contexts = [] ∧ r.commands = []
      ∧ r.bar0 = [] ∧ r.tick = 0 ∧ r.memory = s.memory ∧ r.flash = s.flash ∧ r.fusedMinimum = s.fusedMinimum
      ∧ (imageReason s.fusedMinimum s.flash ≠ 0 → r.power = .recovery))
    ∧ exec .powerOn s = .next { r with memory := { host := s.memory.host, hostPoison := s.memory.hostPoison } }
    ∧ (s.power ≠ .shutdown → .install ∉ s.link.jobs →
      (anyActive s = true → exec .firmwareInstall s = .next (s.setBar 0x2018 0x603))
      ∧ (anyActive s = false → exec .firmwareInstall s = .next (starts .install 0x2018)))
    ∧ (s.power ≠ .shutdown → .install ∈ s.link.jobs →
      let s1 := ends .install
      (anyActive s = true → exec .firmwareInstall s = .next (s1.setBar 0x2018 0x603))
      ∧ (anyActive s = false → s.event.flag = true → exec .firmwareInstall s = .next (s1.setBar 0x2018 0x403))
      ∧ (∀ img, anyActive s = false → s.event.flag = false →
          fetchHost s (s.bar 0x2000).toNat (s.bar 0x2008).toNat 4096 = some img →
        (imageReason s.fusedMinimum img = 0 → exec .firmwareInstall s = .next ((restart { s1 with flash := img }).setBar 0x2018 2))
        ∧ (imageReason s.fusedMinimum img ≠ 0 → exec .firmwareInstall s = .next
          (s1.setBar 0x2018 (BitVec.ofNat 64 (3 + 256 * imageReason s.fusedMinimum img))))))
    ∧ (s.power = .running →
      exec .fuseRaise s = .next { s with fusedMinimum := BitVec.ofNat 32 (max s.fusedMinimum.toNat (byteField s.flash 8 4)) }
      ∧ (.report ∉ s.link.jobs → .chain ∉ s.link.jobs →
        exec .attestationReport s = .next (starts .report 0x3020) ∧ exec .certificateChain s = .next (starts .chain 0x3020))
      ∧ (let out := (s.bar 0x3008).toNat
        let room := (s.bar 0x3010).toNat
        (.report ∈ s.link.jobs →
          let s1 := ends .report
          (s.event.flag = true → exec .attestationReport s = .next (s1.setBar 0x3020 0x203))
          ∧ (∀ request, s.event.flag = false → fetchHost s (s.bar 0x3000).toNat 64 64 = some request →
            let bs := report s1 request
            (room < bs.length → exec .attestationReport s = .next (s1.setBar 0x3020 0x103))
            ∧ (bs.length ≤ room → exec .attestationReport s = .next ((s1.writePlace (.mem .host out out) bs).setBar
              0x3020 (BitVec.ofNat 64 (2 + bs.length * 4294967296))))))
        ∧ (.chain ∈ s.link.jobs →
          let s1 := ends .chain
          let bs := Config.certificateChain
          (s.event.flag = true → exec .certificateChain s = .next (s1.setBar 0x3020 0x203))
          ∧ (s.event.flag = false → room < bs.length → exec .certificateChain s = .next (s1.setBar 0x3020 0x103))
          ∧ (s.event.flag = false → bs.length ≤ room → exec .certificateChain s = .next ((s1.writePlace (.mem .host out out) bs).setBar
              0x3020 (BitVec.ofNat 64 (2 + bs.length * 4294967296))))))
      ∧ (s.event.flag = false → s.checkpointing = false →
        (imageChunks ≤ ((targetList s).map (·.gib)).sum →
          exec .checkpoint s = .next ({ s with checkpointStart := s.tick }.setBar 0x1110 1))
        ∧ (((targetList s).map (·.gib)).sum < imageChunks →
          exec .checkpoint s = .next (endCheckpoint { s with checkpointStart := s.tick } 3 1)))
      ∧ (s.checkpointing = false →
        let cells := readImage s (targetList s)
        let field := fun o n => leNat ((List.range n).map (fun k => smGet (0 : Byte) (o + k) cells))
        let s1 := { s with checkpointStart := s.tick }
        let own := field 0 4 = 0x434B5A33 ∧ field 8 16 = Config.serial.toNat
        (anyActive s = true ∨ ¬ own → exec .checkpointRestore s = .next (endCheckpoint s1 3 0))
        ∧ (anyActive s = false → own →
          (digestTable cells ≠ heldDigests cells → exec .checkpointRestore s = .next (endCheckpoint s1 3 2))
          ∧ (digestTable cells = heldDigests cells → ∃ t, exec .checkpointRestore s = .next (endCheckpoint t 2 0)
            ∧ t.memory = restoredMemory s.memory cells
            ∧ t.queues = (List.range (field 0x140000 8)).map (fun k => (field (0x140010 + 16 * k) 1,
              { ctx := field (0x140011 + 16 * k) 1, tcb := BitVec.ofNat 64 (field (0x140018 + 16 * k) 8),
                privileged := field (0x140012 + 16 * k) 1 == 1 }))
            ∧ (∀ c n, c < 64 → n ∈ restoredNumbers → t.sys c n = BitVec.ofNat 64 (field (0x100000 + 4096 * c + 8 * n) 8))
            ∧ (∀ i, s.images.find? (fun i => i.started.toNat == field 0x38 8) = some i → t.launches = i.launches ∧ t.teams = i.teams)))))
    ∧ (∀ t, s.event.flag = true → s.checkpointing = true → (∀ l ∈ s.launches, launchQuiet s l.id = true) → saveEvery s = some t →
      exec .checkpoint s = .next (endCheckpoint { writeImage t (targetList t) with images :=
        { started := t.checkpointStart, contexts := t.contexts, launches := t.launches, teams := t.teams } :: t.images } 2 0))

/-- R108, R342, R343, R369, R370, R386, R393, R394, R397: errors count, poison or end tasks; an uncorrectable table error is the machine
check of the group that reads the table, and is held where the word, or the tile engine's operation, that reads it has issued past an
incomplete fence (R218; log entry 108, DEDUCED); a timing error replayed fewer than 16 times, a scrub and a droop change nothing that can be read;
token bids and heat change grants; at 110 degrees the device stops. The event that carries the count of replays is log entry 80, DESIGN
CHOICE. -/
def Obligations.ErrorAndPowerEvents : Prop :=
  ∀ (s : State),
    let n := s.event.num
    let hot := s.event.value.toNat
    (n < 16 → exec .timingErrorReplay s = .next s)
    ∧ (∀ e, s.env? s.event.core s.event.slot = some e → 16 ≤ n → e.g.fence = none → e.g.soft = [] → e.l.lh.mode = 0 →
      e.g.outstanding = [] → ∀ u, e.g.arch.issuing = some u →
      let f : Trap := { cls := 17, code := 4, pc := u.pc, word := targetWord s e.l 256 u.pc.toNat, entry := u.mask }
      exec .timingErrorReplay s = .next (endTask (writeRecord s e.l (e.record f false) true) e.l.id 17))
    ∧ exec .correctedError s = .next (s.setBar (0x4000 + 8 * n) (s.bar (0x4000 + 8 * n) + 1))
    ∧ (∀ t k, s.event.site = some (.mem t k) → ∃ u, exec .uncorrectableError s = .next u ∧ u.memory.poisoned t (32 * k) 1 = true
        ∧ ∀ t' a, u.memory.readByte t' a = s.memory.readByte t' a)
    ∧ (∀ core slot r g, s.event.site = some (.reg core slot r) → s.group? core slot = some g →
      exec .uncorrectableError s = .next (s.setGroup { g with bad := r :: g.bad.filter (· != r) }))
    ∧ (∀ core slot e u, s.event.site = some (.table core slot) → s.env? core slot = some e → e.g.arch.issuing = some u →
      let f : Trap :=
        { cls := 17, code := 3, pc := u.pc, word := targetWord s e.l 256 u.pc.toNat, entry := u.mask, inner := e.g.handler.isSome }
      let ends := exec .uncorrectableError s = .next (endTask (writeRecord s e.l (e.record f false) true) e.l.id 17)
      let holds := fun w : Option FenceWin => exec .uncorrectableError s = .next (s.setGroup { e.g with after := f :: e.g.after, fence := w })
      (s.event.flag = false → e.l.lh.mode = 0 → e.g.fence = none → e.g.soft = [] → ends)
      ∧ (s.event.flag = false → e.g.fence ≠ none ∨ e.g.soft ≠ [] → holds e.g.fence)
      ∧ (∀ o, s.event.flag = true → e.g.heads[n]? = some o →
        ((∀ k ∈ e.g.soft, o.id < k.next) → e.l.lh.mode = 0 → ends)
        ∧ ((∃ k ∈ e.g.soft, k.next ≤ o.id) → holds (e.g.fence.map (fun w => { w with after := f :: w.after })))))
    ∧ (∀ link, s.event.site = some (.unit link) → s.launches = [] → exec .uncorrectableError s = .next s)
    ∧ exec .scrub s = .next s ∧ exec .droop s = .next s
    ∧ (s.nextBid.toNat ≤ s.tick.toNat → ∃ u, exec .powerTokenBid s = .next u ∧ u.nextBid = s.nextBid + 10000
        ∧ u.memory = s.memory ∧ u.groups = s.groups ∧ ∀ k, k < 12 → 64 ≤ smGet 64 k u.grants ∧ (k ∈ s.throttled → smGet 64 k u.grants = 64))
    ∧ (n < 12 → 1600 ≤ hot → n ∉ s.throttled → exec .thermalThrottle s =
        .next { s with throttled := n :: s.throttled, grants := smSet 64 n 64 s.grants })
    ∧ (n < 12 → hot < 1520 → n ∈ s.throttled → exec .thermalThrottle s = .next { s with throttled := s.throttled.filter (fun c => c != n) })
    ∧ (1760 ≤ hot → exec .thermalShutdown s = .next { s with
        groups := [], teams := [], launches := [], queues := [], cores := [], commands := [], ghosts := [], requests := [],
        departures := [], power := .shutdown, link := { s.link with aer := s.link.aer + 1 } })

/-! ### The machine as a whole -/

/-- R15, R161, R340, R347, R348, R349: after reset nothing is resident, every listed register reads its reset value, no context is active and
nothing is pending. The zero of memory is the model's choice (log entry 4, DESIGN CHOICE), and that the image in flash runs is log entry 3, DESIGN CHOICE. -/
def Obligations.ResetState : Prop :=
  let s := State.reset
  s.groups = [] ∧ s.teams = [] ∧ s.launches = [] ∧ s.queues = [] ∧ s.commands = [] ∧ s.requests = [] ∧ s.issuer = none ∧ s.power = .running
  ∧ (∀ c n, s.sys c n = if n = 8 then 4096 else 0) ∧ (∀ c, s.contextActive c = false) ∧ (∀ o, s.bar o = 0) ∧ s.tick = 0
  ∧ (∀ t a, s.memory.readByte t a = 0) ∧ (∀ t a n, s.memory.poisoned t a n = false)
  ∧ (∀ a n, Arch.getS {} n = 0 ∧ Arch.getV {} n a = 0 ∧ Arch.getP {} n = 0 ∧ Arch.getFl {} a = 0 ∧ Arch.getTw {} n = 0x377)

/-- R30, R47: words written out from the encoding tables decode to the instructions they stand for. -/
def Obligations.DecodedWords : Prop :=
  decodeTableWord 32 0x01030102 = some (.iadd 3 1 2)
  ∧ decodeTableWord 32 0x1F830201 = some (.icmpS32 2 3 2 1)
  ∧ decodeTableWord 32 0x7F300000 = some .sat
  ∧ decodeTableWord 32 0x70008008 = some (.thrGet 1 8)

/-- R294, R308: when a group's slot may issue and the word at its PC decodes, its issue attempt is exec of that instruction with the
slot as issuer and the word as fetched; a step that makes the attempt moves the slot pointers and copies the spilled records into the
control areas around it. Which slot a step takes is the model's schedule (log entry 1, DESIGN CHOICE), and when the copies are made is
log entry 59, DEDUCED. -/
def Obligations.StepRunsDecodedInstruction : Prop :=
  ∀ (s : State) (core slot : Nat) (x : Issue) (w : Word) (i : Instr), issueOf s core slot = some x → settleDue x.e.g = false →
    x.e.g.wait = .none → trapWaits x.e.g = false → x.e.g.xset ≠ .lent → s.stops x.e.t x.e.l = false → agedReady x.e.g = false →
    patchHolds s x.e.l (x.arch.wordPc x.entry).toNat = false →
    fetchAt s x.e.l (x.arch.wordPc x.entry).toNat = .word w → decodeGen x.e.l.kh.gen w = .ok i →
    attempt exec s core slot = exec i { s with issuer := some (core, slot), fetched := w }
    ∧ (s.groups = [x.e.g] → s.cores = [] → s.agenda = [] → s.power = .running → s.turn = false → slot ≠ 63 → core = x.e.g.core →
      slot = x.e.g.slot → (∀ f, x.e.g.fence = some f → f.rollbackDue = false) →
      ∀ s0, passTime s0 = s → ∀ t, exec i { s with issuer := some (core, slot), fetched := w } = .next t → t.stalled = false →
      step s0 = .next (keepControl s { movePointer t core slot with turn := true }))

/-- The state after reset holds its memories in their canonical form. -/
def Obligations.ResetIsCanonical : Prop := Canonical State.reset

/-- Every step keeps the canonical form of the memories. -/
def Obligations.StepKeepsMemoryCanonical : Prop := ∀ (s t : State), Canonical s → step s = .next t → Canonical t

/-- R30 to R36, R45: every row but the events and the unassigned major has a word; for every well-formed instruction, with any operands and any switch marker, decoding its encoded word gives the
instruction back. -/
def Obligations.DecodeOfEncode : Prop :=
  (∀ (i : Instr) (m : Bool), wordless i = false → (encode m i).isSome = true)
  ∧ ∀ (i : Instr) (m : Bool) (w : BitVec 32), i.wellFormed = true → encode m i = some w → decodeWord w = .ok i

/-! ### Translation and the checks of an access (spec/10_memory_instr.md, spec/14_isolation.md) -/

/-- R23, R350: the intermediate address that the range registers give, from their words. R351: which writes of a range register take
effect, what they change in the translation, and how the others are refused. R361: what a lease holds. R306: the control areas of
groups, whose bytes no access reaches (log entry 133, DEDUCED). R357, R358: the walk to a leaf of
each size, its rights, and a host page's translation by ATS (log entry 61, DESIGN CHOICE); a leaf outside its tier or in the save pool is
invalid (log entry 15, DEDUCED), as is a 4 KiB entry with S64 set (log entry 60, DEDUCED); a poisoned entry is read as its bytes (log
entry 62, DEDUCED), and each access walks the tables as they stand (log entry 7, DESIGN CHOICE). R219, R227: the checks of an access in their order, and the one fault of a load, a store, an ATOM or a
RED whose lanes fail them: its class, lanes, address and list, the lanes that complete, and where the fault goes. -/
def Obligations.TranslationAndAccessChecks : Prop :=
  (∀ (s : State) (c va : Nat),
    let word := fun n : Nat => (s.sys c n).toNat
    let base := fun k : Nat => word (0x100 + k) / 4096 * 4096
    let size := fun k : Nat => word (0x110 + k) % 2 ^ 40 * 4096
    let first := fun k : Nat => word (0x120 + k) / 4096 % 2 ^ 40 * 4096
    let holds := fun k : Nat => (word (0x100 + k) % 4 = 1 ∨ word (0x100 + k) % 4 = 2) ∧ base k ≤ va ∧ va < base k + size k
    (∀ k, k < 16 → holds k → (∀ j, j < k → ¬holds j) →
      findRange s c va = some k ∧ toIa s c va = if word (0x100 + k) % 4 = 1 then some (first k + (va - base k)) else none)
    ∧ ((∀ k, k < 16 → ¬holds k) → findRange s c va = none ∧ toIa s c va = none)
    ∧ (∀ id ia, inLease s id c ia = true ↔ ∃ l, s.launch? id = some l ∧
        ∃ k e, l.lh.leases[k]? = some e ∧ k ∉ l.revoked ∧ ∃ b, toIa s c e.1.toNat = some b ∧ b ≤ ia ∧ ia < b + 4096 * e.2)
    ∧ (∀ g t l k, g ∈ s.groups → s.team? g.team = some t → s.launch? t.launch = some l → l.ctx = c → k < 16 → rangeKind s c k = 1 →
      let stride := (s.sys c 0x184).toNat / 9072 * 4096
      let area := (s.sys c 0x183).toNat + (63 * g.core + g.slot) * stride + 64 * l.kh.tlm
      64 * l.kh.tlm + 61952 ≤ stride → (∀ a, area ≤ a → a < area + 61952 → findRange s c a = some k) →
      ∀ a, area ≤ a → a < area + 61952 → inControlArea s c (rangeIa s c k + (a - rangeBase s c k)) = true))
  ∧ (∀ (s : State) (c k : Nat) (v : BitVec 64), k < 16 →
    let x := v.toNat
    let kind := rangeKind s c k
    let base := x / 4096 * 4096
    let bytes := rangeBytes s c k
    let formed := x / 4 % 2 ^ 10 = 0 ∧ 1 ≤ bytes ∧ base + bytes ≤ 2 ^ 64 ∧ rangeIa s c k + bytes ≤ 2 ^ 52
      ∧ (s.sys c (0x120 + k)).toNat % 8 = 0
    let free := ∀ j, j < 16 → j ≠ k → rangeKind s c j = 1 ∨ rangeKind s c j = 2 →
      base + bytes ≤ rangeBase s c j ∨ rangeBase s c j + rangeBytes s c j ≤ base
    let takes := fun (n : Nat) (p : State → Prop) => writeRange s c n v = .ok (s.setSys c n v) ∧ p (s.setSys c n v)
    let refuses := fun (n cls reason : Nat) => writeRange s c n v = .error ⟨cls, reason⟩
    (kind = 2 → refuses (0x100 + k) 3 3 ∧ refuses (0x110 + k) 3 3 ∧ refuses (0x120 + k) 3 3)
    ∧ (kind ≠ 2 → rangePinned s c k = true → refuses (0x100 + k) 3 2 ∧ refuses (0x110 + k) 3 2 ∧ refuses (0x120 + k) 3 2)
    ∧ (kind ≠ 2 → rangePinned s c k = false →
      (x % 4 = 1 → formed → free → takes (0x100 + k) fun t =>
        (∀ va, base ≤ va → va < base + bytes → toIa t c va = some (rangeIa s c k + (va - base)))
        ∧ (∀ va, va < base ∨ base + bytes ≤ va → toIa t c va = toIa (s.setSys c (0x100 + k) 0) c va)
        ∧ (∀ d va, d ≠ c → toIa t d va = toIa s d va))
      ∧ (x % 4 = 1 → formed → ¬free → refuses (0x100 + k) 4 1)
      ∧ (x % 4 = 1 → ¬formed → refuses (0x100 + k) 3 1)
      ∧ (x % 4 = 0 → x / 4 % 2 ^ 10 = 0 → takes (0x100 + k) fun t =>
        (∀ va, findRange s c va ≠ some k → toIa t c va = toIa s c va) ∧ (∀ d va, d ≠ c → toIa t d va = toIa s d va))
      ∧ (x % 4 = 0 → x / 4 % 2 ^ 10 ≠ 0 → refuses (0x100 + k) 3 1)
      ∧ (x % 4 = 2 → refuses (0x100 + k) 3 3) ∧ (x % 4 = 3 → refuses (0x100 + k) 3 1)
      ∧ (kind ≠ 0 → refuses (0x110 + k) 3 1 ∧ refuses (0x120 + k) 3 1)
      ∧ (kind = 0 →
        (1 ≤ x → x < 2 ^ 40 → takes (0x110 + k) fun t => ∀ d va, toIa t d va = toIa s d va)
        ∧ (x = 0 ∨ 2 ^ 40 ≤ x → refuses (0x110 + k) 3 1)
        ∧ (x / 8 % 2 ^ 9 = 0 → x < 2 ^ 52 → takes (0x120 + k) fun t => ∀ d va, toIa t d va = toIa s d va)
        ∧ (x / 8 % 2 ^ 9 ≠ 0 ∨ 2 ^ 52 ≤ x → refuses (0x120 + k) 3 1))))
  ∧ (∀ (s : State) (c ia : Nat),
    let entry := fun t k : Nat => leNat (s.memory.read .gddr (t + 8 * k) 8)
    let next := fun e : Nat => e / 4096 * 4096
    let table := fun e : Nat => e % 4096 = 1 ∧ e < 2 ^ 52 ∧ next e + 4096 ≤ Config.gddrBytes
    let leaf := fun (e k s64 : Nat) => e % 4 = 3 ∧ e / 2 ^ 9 % 2 = s64 ∧ e / 2 ^ 10 % 4 = 0 ∧ e < 2 ^ 52 ∧ next e % 2 ^ k = 0
      ∧ (e / 32 % 4 = 0 ∧ next e + 2 ^ k ≤ Config.gddrBytes ∨ e / 32 % 4 = 1 ∧ next e + 2 ^ k ≤ Config.savePoolBase ∨ e / 32 % 4 = 2)
    let e3 := entry (s.sys c 0x181).toNat (ia / 2 ^ 39 % 2 ^ 13)
    let e2 := entry (next e3) (ia / 2 ^ 30 % 512)
    let e1 := entry (next e2) (ia / 2 ^ 21 % 512)
    let big := entry (next e1) (ia / 2 ^ 16 % 32 * 16)
    let e0 := entry (next e1) (ia / 2 ^ 12 % 512)
    let pasid := if (s.sys c 0x182).getLsbD 31 then some ((s.sys c 0x182).toNat % 2 ^ 20) else none
    let ends := fun (e k s64 : Nat) =>
      let page := next e + ia % 2 ^ k
      (¬leaf e k s64 → walk s c ia = none)
      ∧ (leaf e k s64 → ∃ f, walk s c ia = some f ∧ f.rd = e.testBit 2 ∧ f.wr = e.testBit 3 ∧ f.ex = e.testBit 4
        ∧ f.placement = e / 2 ^ 7 % 4
        ∧ (e / 32 % 4 = 0 → f.tier = .gddr ∧ f.phys = page) ∧ (e / 32 % 4 = 1 → f.tier = .granary ∧ f.phys = page)
        ∧ (e / 32 % 4 = 2 → f.tier = .host ∧ f.phys = 4096 * hostPageOf s pasid (page / 4096) + page % 4096))
    (¬table e3 → walk s c ia = none)
    ∧ (table e3 →
      (e2 % 4 = 3 → ends e2 30 0)
      ∧ (e2 % 4 ≠ 3 → ¬table e2 → walk s c ia = none)
      ∧ (table e2 →
        (e1 % 4 = 3 → ends e1 21 0)
        ∧ (e1 % 4 ≠ 3 → ¬table e1 → walk s c ia = none)
        ∧ (table e1 → (big.testBit 9 = true → ends big 16 1) ∧ (big.testBit 9 = false → ends e0 12 0)))))
  ∧ (∀ (f : Leaf) (op : Nat),
    (leafPermits f .load op = f.rd ∧ leafPermits f .store op = (f.wr && !f.ex))
    ∧ (leafPermits f .atomic op = true ↔ f.rd = true ∧ f.wr = true ∧ f.ex = false ∧
      if f.tier = .host then f.placement = 0 ∨ ((f.placement = 1 ∨ f.placement = 2) ∧ op ≤ 2) else f.placement ≤ 1))
  ∧ (∀ (s : State) (u : Accessor) (k : AccessKind) (op : Nat) (waits : Bool) (align va n : Nat),
    let check := checkVirtual s u k op waits align va n
    (findRange s u.ctx va = none → check = .error 4)
    ∧ (∀ r, findRange s u.ctx va = some r →
      let g := (s.sys u.ctx (0x120 + r)).toNat % 8
      let refuses := k = .atomic ∨ waits = true ∨ (k = .store ∧ (windowWord s u.ctx g 3).getLsbD 11 = true)
      let ia := rangeIa s u.ctx r + (va - rangeBase s u.ctx r)
      (va % align ≠ 0 → check = .error 5)
      ∧ (va % align = 0 →
        (rangeKind s u.ctx r = 2 → check = if refuses then .error 6 else .ok (.window u.ctx g (va - rangeBase s u.ctx r)))
        ∧ (rangeKind s u.ctx r = 1 →
          (inLease s u.launch u.ctx ia = false ∨ inControlArea s u.ctx ia = true ∨ walk s u.ctx ia = none → check = .error 4)
          ∧ (∀ f, inLease s u.launch u.ctx ia = true → inControlArea s u.ctx ia = false → walk s u.ctx ia = some f →
            (leafPermits f k op = false ∨ (waits = true ∧ f.tier = .host ∧ f.placement ≠ 0) → check = .error 4)
            ∧ (leafPermits f k op = true → (waits = true → f.tier = .host → f.placement = 0) →
              check = if k ≠ .store ∧ s.memory.poisoned f.tier f.phys n = true then .error 17 else .ok (.mem f.tier f.phys ia)))))))
  ∧ (∀ (s : State) (u : Accessor) (k : AccessKind) (align h n : Nat) (off : Int), h < 65536 →
    let check := checkHandle s u k align h off n
    let owned := fun (t : Option Tile) (p : Place) =>
      (∀ x, t = some x → 0 ≤ off → off + n ≤ 256 * x.granules → x.ctx = u.ctx →
        check = if off % align ≠ 0 then .error 5 else if k ≠ .store ∧ x.poisoned off.toNat n = true then .error 17 else .ok p)
      ∧ ((∀ x, t = some x → off < 0 ∨ 256 * x.granules < off + n ∨ x.ctx ≠ u.ctx) → check = .error 4)
    (h < 16384 → owned (s.loftTile? u.team h) (.loft u.team h off.toNat))
    ∧ (16384 ≤ h → h < 32768 →
      owned (s.barnTile? u.launch (clusterOf u.core) (h % 16384)) (.barn u.launch (clusterOf u.core) (h % 16384) off.toNat))
    ∧ (32768 ≤ h → check = .error 4))
  ∧ (∀ (s : State) (x : Issue) (d : BitVec 8) (a : BitVec 7) (b : BitVec 6) (z : BitVec 2) (e : Entry), Issues s x → MayTrap x e →
    x.e.g.wait = .none → Hinted x (some 0xFFFFF) false false false → Usable x (dataRegs d z) → oddData d z = false →
    let n := 2 ^ z.toNat
    let value := fun l : Nat => if z = 3 then (x.arch.getV64 d.toNat l).toNat else (x.arch.getV d.toNat l).toNat
    let class? := fun fails : List (Nat × Nat × BitVec 64) => [17, 4, 6, 5].find? (fun c => fails.any (fun f => f.2.1 == c))
    let loads := fun (i : Instr) (addr : Nat → LaneAddr) =>
      let good := x.passes s .load 16 n addr
      let fails := x.failures s .load 16 n addr
      ∀ c, class? fails = some c →
        let f := x.laneTrap s c fails (!good.isEmpty)
        let g := x.e.g.bump.addResult
          { v := good.flatMap (fun p => observedCells d.toNat p.1 n (BitVec.ofNat 64 (leNat (readAny s p.2 n)))) } (dataRegs d z)
        let word := if good.isEmpty then s.fetched &&& 0x7FFFFFFF else s.fetched
        (c = 5 ∨ c = 6 ∨ word.getLsbD 31 = true →
          exec i s = .next (s.setGroup { g with after := f :: g.after, wait := .parked x.entry.pc word x.entry.mask }))
        ∧ (c = 4 ∨ c = 17 → word.getLsbD 31 = false →
          exec i s = .next (endTask (writeRecord (s.setGroup g) x.e.l (x.faultRecord f (if f.took then 16 else 0)) true) x.e.l.id c))
    let stores := fun (i : Instr) (addr : Nat → LaneAddr) =>
      let good := x.passes s .store 16 n addr
      let fails := x.failures s .store 16 n addr
      let stored := good.foldl (fun t p => t.writePlace p.2 (leBytes n (value p.1)) x.tag) (s.setGroup x.e.g.bump)
      ∀ c e1, class? fails = some c → stored.env? x.core x.slot = some e1 →
        let y := { x with e := e1 }
        let f := y.laneTrap s c fails (!good.isEmpty)
        (c = 5 ∨ c = 6 → exec i s = .next (y.entersHandler (stored.setGroup e1.g) f e))
        ∧ (c = 4 ∨ c = 17 → exec i s
          = .next (endTask (writeRecord (stored.setGroup e1.g) e1.l (y.faultRecord f (if f.took then 16 else 0)) true) e1.l.id c))
    (Usable x (vB a :: sPair b) → b.getLsbD 0 = false →
      loads (.ldgUniformVector d a b z) (addrUniformVector x a.toNat b.toNat)
      ∧ stores (.stgUniformVector d a b z) (addrUniformVector x a.toNat b.toNat))
    ∧ (Usable x (sPair b) → b.getLsbD 0 = false →
      loads (.ldgUniform d b z) (fun _ => addrUniform x b.toNat) ∧ stores (.stgUniform d b z) (fun _ => addrUniform x b.toNat))
    ∧ (Usable x [.v a.toNat, .v (a.toNat + 1)] → a.getLsbD 0 = false →
      loads (.ldgVector d a z) (addrVector x a.toNat) ∧ stores (.stgVector d a z) (addrVector x a.toNat))
    ∧ (Usable x [vB a, sN b] →
      loads (.ldhVector d a b z) (addrHandleVector x a.toNat b.toNat) ∧ stores (.sthVector d a b z) (addrHandleVector x a.toNat b.toNat))
    ∧ (Usable x [sN b] →
      loads (.ldhOffset d b z) (fun _ => addrHandle x b.toNat) ∧ stores (.sthOffset d b z) (fun _ => addrHandle x b.toNat))
    ∧ (∀ (a : BitVec 8) (o : BitVec 4) (t : BitVec 2) (c : Nat), atomIllegal o t = false → atomPairBad a = false →
      atomDataBad d o t = false → Usable x (vPair a ++ atomData d o t ++ atomDest d t) →
      let good := x.passes s .atomic o.toNat (atomBytes t) (atomAddr a t x)
      let fails := x.failures s .atomic o.toNat (atomBytes t) (atomAddr a t x)
      let f := x.laneTrap s c fails (!good.isEmpty)
      class? fails = some c →
      2 ≤ o.toNat → x.e.g.redQuota < 8 ∨ good.isEmpty = true → x.e.g.batch = [] →
      let entries : List RedEntry := good.map (fun p =>
        { core := x.core, team := x.e.t.id, place := p.2, addr := (atomAddr a t x p.1).coded, op := o.toNat, type := t.toNat,
          operand := (atomOperands x.arch d o t p.1).operand, lane := p.1, issue := x.e.g.redCount, tag := x.tag })
      let g := { x.e.g.bump with reds := x.e.g.reds ++ entries, redCount := x.e.g.redCount + 1
                                 redQuota := if good.isEmpty then x.e.g.redQuota else x.e.g.redQuota + 1 }
      (c = 5 ∨ c = 6 → exec (.red d a o t) s = .next ({ x with e := { x.e with g := g } }.entersHandler (s.setGroup g) f e))
      ∧ (c = 4 ∨ c = 17 → exec (.red d a o t) s
        = .next (endTask (writeRecord (s.setGroup g) x.e.l (x.faultRecord f (if f.took then 16 else 0)) true) x.e.l.id c)))
    ∧ (∀ (a : BitVec 8) (o : BitVec 4) (t : BitVec 2) (c : Nat) (e1 : Env), atomIllegal o t = false → atomPairBad a = false →
      atomDataBad d o t = false → Usable x (vPair a ++ atomData d o t ++ atomDest d t) →
      let good := x.passes s .atomic o.toNat (atomBytes t) (atomAddr a t x)
      let fails := x.failures s .atomic o.toNat (atomBytes t) (atomAddr a t x)
      let r := performLanes s x.amr d.toNat x.tag (good.map (fun p => (p.2, atomOperands x.arch d o t p.1)))
      class? fails = some c → r.1.env? x.core x.slot = some e1 →
      let f := x.laneTrap s c fails (!good.isEmpty)
      let g := e1.g.bump.addResult { v := r.2.1, flags := r.2.2, atom := true } (atomDest d t)
      let word := if good.isEmpty then s.fetched &&& 0x7FFFFFFF else s.fetched
      (c = 5 ∨ c = 6 ∨ word.getLsbD 31 = true →
        exec (.atom d a o t) s = .next (r.1.setGroup { g with after := f :: g.after, wait := .parked x.entry.pc word x.entry.mask }))
      ∧ (c = 4 ∨ c = 17 → word.getLsbD 31 = false →
        exec (.atom d a o t) s = .next (endTask (writeRecord (r.1.setGroup g) e1.l
          ({ x with e := e1 }.faultRecord f (if f.took then 16 else 0)) true) e1.l.id c))))
end

