-- ==== Sys2Proof/Laws/Dispatch.lean ====
section
/-! SUPPORT. exec of each constructor is its meaning. -/

namespace Sys2Proof.Machine

theorem exec_iadd (d : BitVec 8) (a : BitVec 8) (b : BitVec 8) (s : State) : exec (.iadd d a b) s = execIadd d a b s := rfl
theorem exec_isub (d : BitVec 8) (a : BitVec 8) (b : BitVec 8) (s : State) : exec (.isub d a b) s = execIsub d a b s := rfl
theorem exec_imul (d : BitVec 8) (a : BitVec 8) (b : BitVec 8) (s : State) : exec (.imul d a b) s = execImul d a b s := rfl
theorem exec_imulhS32 (d : BitVec 8) (a : BitVec 8) (b : BitVec 8) (s : State) : exec (.imulhS32 d a b) s = execImulhS32 d a b s := rfl
theorem exec_imulhN32 (d : BitVec 8) (a : BitVec 8) (b : BitVec 8) (s : State) : exec (.imulhN32 d a b) s = execImulhN32 d a b s := rfl
theorem exec_imad (d : BitVec 8) (a : BitVec 8) (b : BitVec 8) (s : State) : exec (.imad d a b) s = execImad d a b s := rfl
theorem exec_iminS32 (d : BitVec 8) (a : BitVec 8) (b : BitVec 8) (s : State) : exec (.iminS32 d a b) s = execIminS32 d a b s := rfl
theorem exec_imaxS32 (d : BitVec 8) (a : BitVec 8) (b : BitVec 8) (s : State) : exec (.imaxS32 d a b) s = execImaxS32 d a b s := rfl
theorem exec_iminN32 (d : BitVec 8) (a : BitVec 8) (b : BitVec 8) (s : State) : exec (.iminN32 d a b) s = execIminN32 d a b s := rfl
theorem exec_imaxN32 (d : BitVec 8) (a : BitVec 8) (b : BitVec 8) (s : State) : exec (.imaxN32 d a b) s = execImaxN32 d a b s := rfl
theorem exec_and (d : BitVec 8) (a : BitVec 8) (b : BitVec 8) (s : State) : exec (.and d a b) s = execAnd d a b s := rfl
theorem exec_or (d : BitVec 8) (a : BitVec 8) (b : BitVec 8) (s : State) : exec (.or d a b) s = execOr d a b s := rfl
theorem exec_xor (d : BitVec 8) (a : BitVec 8) (b : BitVec 8) (s : State) : exec (.xor d a b) s = execXor d a b s := rfl
theorem exec_shl (d : BitVec 8) (a : BitVec 8) (b : BitVec 8) (s : State) : exec (.shl d a b) s = execShl d a b s := rfl
theorem exec_shr (d : BitVec 8) (a : BitVec 8) (b : BitVec 8) (s : State) : exec (.shr d a b) s = execShr d a b s := rfl
theorem exec_sar (d : BitVec 8) (a : BitVec 8) (b : BitVec 8) (s : State) : exec (.sar d a b) s = execSar d a b s := rfl
theorem exec_iadd64 (d : BitVec 8) (a : BitVec 8) (b : BitVec 8) (s : State) : exec (.iadd64 d a b) s = execIadd64 d a b s := rfl
theorem exec_isub64 (d : BitVec 8) (a : BitVec 8) (b : BitVec 8) (s : State) : exec (.isub64 d a b) s = execIsub64 d a b s := rfl
theorem exec_bfeS32 (d : BitVec 8) (a : BitVec 8) (b : BitVec 8) (s : State) : exec (.bfeS32 d a b) s = execBfeS32 d a b s := rfl
theorem exec_bfeN32 (d : BitVec 8) (a : BitVec 8) (b : BitVec 8) (s : State) : exec (.bfeN32 d a b) s = execBfeN32 d a b s := rfl
theorem exec_bfi (d : BitVec 8) (a : BitVec 8) (b : BitVec 8) (s : State) : exec (.bfi d a b) s = execBfi d a b s := rfl
theorem exec_iaddi (d : BitVec 8) (a : BitVec 8) (i : BitVec 8) (s : State) : exec (.iaddi d a i) s = execIaddi d a i s := rfl
theorem exec_andi (d : BitVec 8) (a : BitVec 8) (i : BitVec 8) (s : State) : exec (.andi d a i) s = execAndi d a i s := rfl
theorem exec_ori (d : BitVec 8) (a : BitVec 8) (i : BitVec 8) (s : State) : exec (.ori d a i) s = execOri d a i s := rfl
theorem exec_shli (d : BitVec 8) (a : BitVec 8) (i : BitVec 8) (s : State) : exec (.shli d a i) s = execShli d a i s := rfl
theorem exec_shri (d : BitVec 8) (a : BitVec 8) (i : BitVec 8) (s : State) : exec (.shri d a i) s = execShri d a i s := rfl
theorem exec_sari (d : BitVec 8) (a : BitVec 8) (i : BitVec 8) (s : State) : exec (.sari d a i) s = execSari d a i s := rfl
theorem exec_mov (d : BitVec 8) (a : BitVec 8) (s : State) : exec (.mov d a) s = execMov d a s := rfl
theorem exec_not (d : BitVec 8) (a : BitVec 8) (s : State) : exec (.not d a) s = execNot d a s := rfl
theorem exec_ineg (d : BitVec 8) (a : BitVec 8) (s : State) : exec (.ineg d a) s = execIneg d a s := rfl
theorem exec_iabs (d : BitVec 8) (a : BitVec 8) (s : State) : exec (.iabs d a) s = execIabs d a s := rfl
theorem exec_popc (d : BitVec 8) (a : BitVec 8) (s : State) : exec (.popc d a) s = execPopc d a s := rfl
theorem exec_clz (d : BitVec 8) (a : BitVec 8) (s : State) : exec (.clz d a) s = execClz d a s := rfl
theorem exec_brev (d : BitVec 8) (a : BitVec 8) (s : State) : exec (.brev d a) s = execBrev d a s := rfl
theorem exec_sextS8 (d : BitVec 8) (a : BitVec 8) (s : State) : exec (.sextS8 d a) s = execSextS8 d a s := rfl
theorem exec_sextS16 (d : BitVec 8) (a : BitVec 8) (s : State) : exec (.sextS16 d a) s = execSextS16 d a s := rfl
theorem exec_zextN8 (d : BitVec 8) (a : BitVec 8) (s : State) : exec (.zextN8 d a) s = execZextN8 d a s := rfl
theorem exec_zextN16 (d : BitVec 8) (a : BitVec 8) (s : State) : exec (.zextN16 d a) s = execZextN16 d a s := rfl
theorem exec_mov64 (d : BitVec 8) (a : BitVec 8) (s : State) : exec (.mov64 d a) s = execMov64 d a s := rfl
theorem exec_movi (d : BitVec 8) (i : BitVec 16) (s : State) : exec (.movi d i) s = execMovi d i s := rfl
theorem exec_movhi (d : BitVec 8) (i : BitVec 16) (s : State) : exec (.movhi d i) s = execMovhi d i s := rfl
theorem exec_icmpS32 (c : BitVec 2) (p : BitVec 6) (a : BitVec 8) (b : BitVec 8) (s : State) : exec (.icmpS32 c p a b) s = execIcmpS32 c p a b s := rfl
theorem exec_icmpN32 (c : BitVec 2) (p : BitVec 6) (a : BitVec 8) (b : BitVec 8) (s : State) : exec (.icmpN32 c p a b) s = execIcmpN32 c p a b s := rfl
theorem exec_plog (d : BitVec 6) (a : BitVec 6) (b : BitVec 6) (t : BitVec 4) (s : State) : exec (.plog d a b t) s = execPlog d a b t s := rfl
theorem exec_pmvVp (d : BitVec 8) (a : BitVec 6) (s : State) : exec (.pmvVp d a) s = execPmvVp d a s := rfl
theorem exec_pmvPv (d : BitVec 6) (a : BitVec 8) (s : State) : exec (.pmvPv d a) s = execPmvPv d a s := rfl
theorem exec_pmvSp (d : BitVec 6) (a : BitVec 6) (s : State) : exec (.pmvSp d a) s = execPmvSp d a s := rfl
theorem exec_pmvPs (d : BitVec 6) (a : BitVec 6) (s : State) : exec (.pmvPs d a) s = execPmvPs d a s := rfl
theorem exec_voteBallot (d : BitVec 6) (a : BitVec 6) (s : State) : exec (.voteBallot d a) s = execVoteBallot d a s := rfl
theorem exec_voteAny (d : BitVec 6) (a : BitVec 6) (s : State) : exec (.voteAny d a) s = execVoteAny d a s := rfl
theorem exec_voteAll (d : BitVec 6) (a : BitVec 6) (s : State) : exec (.voteAll d a) s = execVoteAll d a s := rfl
theorem exec_voteUni (d : BitVec 6) (a : BitVec 6) (s : State) : exec (.voteUni d a) s = execVoteUni d a s := rfl
theorem exec_voteActive (d : BitVec 6) (s : State) : exec (.voteActive d) s = execVoteActive d s := rfl
theorem exec_voteCount (d : BitVec 6) (a : BitVec 6) (s : State) : exec (.voteCount d a) s = execVoteCount d a s := rfl
theorem exec_shflIdx (d : BitVec 8) (a : BitVec 8) (n : BitVec 6) (s : State) : exec (.shflIdx d a n) s = execShflIdx d a n s := rfl
theorem exec_shflUp (d : BitVec 8) (a : BitVec 8) (n : BitVec 6) (s : State) : exec (.shflUp d a n) s = execShflUp d a n s := rfl
theorem exec_shflDown (d : BitVec 8) (a : BitVec 8) (n : BitVec 6) (s : State) : exec (.shflDown d a n) s = execShflDown d a n s := rfl
theorem exec_shflXor (d : BitVec 8) (a : BitVec 8) (n : BitVec 6) (s : State) : exec (.shflXor d a n) s = execShflXor d a n s := rfl
theorem exec_shflv (d : BitVec 8) (a : BitVec 8) (b : BitVec 8) (s : State) : exec (.shflv d a b) s = execShflv d a b s := rfl
theorem exec_matchB32 (d : BitVec 8) (a : BitVec 8) (s : State) : exec (.matchB32 d a) s = execMatchB32 d a s := rfl
theorem exec_matchB64 (d : BitVec 8) (a : BitVec 8) (s : State) : exec (.matchB64 d a) s = execMatchB64 d a s := rfl
theorem exec_xred (d : BitVec 8) (a : BitVec 8) (sx : Bool) (k : BitVec 2) (o : BitVec 4) (s : State) : exec (.xred d a sx k o) s = execXred d a sx k o s := rfl
theorem exec_uadd (d : BitVec 6) (a : BitVec 6) (b : BitVec 6) (s : State) : exec (.uadd d a b) s = execUadd d a b s := rfl
theorem exec_usub (d : BitVec 6) (a : BitVec 6) (b : BitVec 6) (s : State) : exec (.usub d a b) s = execUsub d a b s := rfl
theorem exec_umul (d : BitVec 6) (a : BitVec 6) (b : BitVec 6) (s : State) : exec (.umul d a b) s = execUmul d a b s := rfl
theorem exec_umulhS32 (d : BitVec 6) (a : BitVec 6) (b : BitVec 6) (s : State) : exec (.umulhS32 d a b) s = execUmulhS32 d a b s := rfl
theorem exec_umulhN32 (d : BitVec 6) (a : BitVec 6) (b : BitVec 6) (s : State) : exec (.umulhN32 d a b) s = execUmulhN32 d a b s := rfl
theorem exec_uand (d : BitVec 6) (a : BitVec 6) (b : BitVec 6) (s : State) : exec (.uand d a b) s = execUand d a b s := rfl
theorem exec_uor (d : BitVec 6) (a : BitVec 6) (b : BitVec 6) (s : State) : exec (.uor d a b) s = execUor d a b s := rfl
theorem exec_uxor (d : BitVec 6) (a : BitVec 6) (b : BitVec 6) (s : State) : exec (.uxor d a b) s = execUxor d a b s := rfl
theorem exec_ushl (d : BitVec 6) (a : BitVec 6) (b : BitVec 6) (s : State) : exec (.ushl d a b) s = execUshl d a b s := rfl
theorem exec_ushr (d : BitVec 6) (a : BitVec 6) (b : BitVec 6) (s : State) : exec (.ushr d a b) s = execUshr d a b s := rfl
theorem exec_usar (d : BitVec 6) (a : BitVec 6) (b : BitVec 6) (s : State) : exec (.usar d a b) s = execUsar d a b s := rfl
theorem exec_uminS32 (d : BitVec 6) (a : BitVec 6) (b : BitVec 6) (s : State) : exec (.uminS32 d a b) s = execUminS32 d a b s := rfl
theorem exec_umaxS32 (d : BitVec 6) (a : BitVec 6) (b : BitVec 6) (s : State) : exec (.umaxS32 d a b) s = execUmaxS32 d a b s := rfl
theorem exec_uminN32 (d : BitVec 6) (a : BitVec 6) (b : BitVec 6) (s : State) : exec (.uminN32 d a b) s = execUminN32 d a b s := rfl
theorem exec_umaxN32 (d : BitVec 6) (a : BitVec 6) (b : BitVec 6) (s : State) : exec (.umaxN32 d a b) s = execUmaxN32 d a b s := rfl
theorem exec_umov (d : BitVec 6) (a : BitVec 6) (s : State) : exec (.umov d a) s = execUmov d a s := rfl
theorem exec_unot (d : BitVec 6) (a : BitVec 6) (s : State) : exec (.unot d a) s = execUnot d a s := rfl
theorem exec_usetEq (d : BitVec 6) (a : BitVec 6) (b : BitVec 6) (s : State) : exec (.usetEq d a b) s = execUsetEq d a b s := rfl
theorem exec_usetNe (d : BitVec 6) (a : BitVec 6) (b : BitVec 6) (s : State) : exec (.usetNe d a b) s = execUsetNe d a b s := rfl
theorem exec_usetLtS32 (d : BitVec 6) (a : BitVec 6) (b : BitVec 6) (s : State) : exec (.usetLtS32 d a b) s = execUsetLtS32 d a b s := rfl
theorem exec_usetLeS32 (d : BitVec 6) (a : BitVec 6) (b : BitVec 6) (s : State) : exec (.usetLeS32 d a b) s = execUsetLeS32 d a b s := rfl
theorem exec_usetLtN32 (d : BitVec 6) (a : BitVec 6) (b : BitVec 6) (s : State) : exec (.usetLtN32 d a b) s = execUsetLtN32 d a b s := rfl
theorem exec_usetLeN32 (d : BitVec 6) (a : BitVec 6) (b : BitVec 6) (s : State) : exec (.usetLeN32 d a b) s = execUsetLeN32 d a b s := rfl
theorem exec_uadd64 (d : BitVec 6) (a : BitVec 6) (b : BitVec 6) (s : State) : exec (.uadd64 d a b) s = execUadd64 d a b s := rfl
theorem exec_usub64 (d : BitVec 6) (a : BitVec 6) (b : BitVec 6) (s : State) : exec (.usub64 d a b) s = execUsub64 d a b s := rfl
theorem exec_upopc (d : BitVec 6) (a : BitVec 6) (s : State) : exec (.upopc d a) s = execUpopc d a s := rfl
theorem exec_uclz (d : BitVec 6) (a : BitVec 6) (s : State) : exec (.uclz d a) s = execUclz d a s := rfl
theorem exec_umovi (d : BitVec 6) (i : BitVec 16) (s : State) : exec (.umovi d i) s = execUmovi d i s := rfl
theorem exec_uaddi (d : BitVec 6) (i : BitVec 16) (s : State) : exec (.uaddi d i) s = execUaddi d i s := rfl
theorem exec_umovhi (d : BitVec 6) (i : BitVec 16) (s : State) : exec (.umovhi d i) s = execUmovhi d i s := rfl
theorem exec_uvmovVs (d : BitVec 8) (a : BitVec 6) (s : State) : exec (.uvmovVs d a) s = execUvmovVs d a s := rfl
theorem exec_uvmovSv (d : BitVec 6) (a : BitVec 8) (n : BitVec 6) (s : State) : exec (.uvmovSv d a n) s = execUvmovSv d a n s := rfl
theorem exec_uvmovFirst (d : BitVec 6) (a : BitVec 8) (s : State) : exec (.uvmovFirst d a) s = execUvmovFirst d a s := rfl
theorem exec_laddLn8 (d : BitVec 8) (a : BitVec 8) (b : BitVec 8) (s : State) : exec (.laddLn8 d a b) s = execLaddLn8 d a b s := rfl
theorem exec_laddLn16 (d : BitVec 8) (a : BitVec 8) (b : BitVec 8) (s : State) : exec (.laddLn16 d a b) s = execLaddLn16 d a b s := rfl
theorem exec_laddLn32 (d : BitVec 8) (a : BitVec 8) (b : BitVec 8) (s : State) : exec (.laddLn32 d a b) s = execLaddLn32 d a b s := rfl
theorem exec_lsubLn8 (d : BitVec 8) (a : BitVec 8) (b : BitVec 8) (s : State) : exec (.lsubLn8 d a b) s = execLsubLn8 d a b s := rfl
theorem exec_lsubLn16 (d : BitVec 8) (a : BitVec 8) (b : BitVec 8) (s : State) : exec (.lsubLn16 d a b) s = execLsubLn16 d a b s := rfl
theorem exec_lsubLn32 (d : BitVec 8) (a : BitVec 8) (b : BitVec 8) (s : State) : exec (.lsubLn32 d a b) s = execLsubLn32 d a b s := rfl
theorem exec_lmulLn8 (d : BitVec 8) (a : BitVec 8) (b : BitVec 8) (s : State) : exec (.lmulLn8 d a b) s = execLmulLn8 d a b s := rfl
theorem exec_lmulLn16 (d : BitVec 8) (a : BitVec 8) (b : BitVec 8) (s : State) : exec (.lmulLn16 d a b) s = execLmulLn16 d a b s := rfl
theorem exec_lmulLn32 (d : BitVec 8) (a : BitVec 8) (b : BitVec 8) (s : State) : exec (.lmulLn32 d a b) s = execLmulLn32 d a b s := rfl
theorem exec_lmadLn8 (d : BitVec 8) (a : BitVec 8) (b : BitVec 8) (s : State) : exec (.lmadLn8 d a b) s = execLmadLn8 d a b s := rfl
theorem exec_lmadLn16 (d : BitVec 8) (a : BitVec 8) (b : BitVec 8) (s : State) : exec (.lmadLn16 d a b) s = execLmadLn16 d a b s := rfl
theorem exec_lmadLn32 (d : BitVec 8) (a : BitVec 8) (b : BitVec 8) (s : State) : exec (.lmadLn32 d a b) s = execLmadLn32 d a b s := rfl
theorem exec_ldivLn16 (d : BitVec 8) (a : BitVec 8) (b : BitVec 8) (s : State) : exec (.ldivLn16 d a b) s = execLdivLn16 d a b s := rfl
theorem exec_ldivLn32 (d : BitVec 8) (a : BitVec 8) (b : BitVec 8) (s : State) : exec (.ldivLn32 d a b) s = execLdivLn32 d a b s := rfl
theorem exec_lminLn16 (d : BitVec 8) (a : BitVec 8) (b : BitVec 8) (s : State) : exec (.lminLn16 d a b) s = execLminLn16 d a b s := rfl
theorem exec_lminLn32 (d : BitVec 8) (a : BitVec 8) (b : BitVec 8) (s : State) : exec (.lminLn32 d a b) s = execLminLn32 d a b s := rfl
theorem exec_lmaxLn16 (d : BitVec 8) (a : BitVec 8) (b : BitVec 8) (s : State) : exec (.lmaxLn16 d a b) s = execLmaxLn16 d a b s := rfl
theorem exec_lmaxLn32 (d : BitVec 8) (a : BitVec 8) (b : BitVec 8) (s : State) : exec (.lmaxLn32 d a b) s = execLmaxLn32 d a b s := rfl
theorem exec_lpowLn32 (d : BitVec 8) (a : BitVec 8) (b : BitVec 8) (s : State) : exec (.lpowLn32 d a b) s = execLpowLn32 d a b s := rfl
theorem exec_lscaleLn16 (d : BitVec 8) (a : BitVec 8) (b : BitVec 8) (s : State) : exec (.lscaleLn16 d a b) s = execLscaleLn16 d a b s := rfl
theorem exec_lscaleLn32 (d : BitVec 8) (a : BitVec 8) (b : BitVec 8) (s : State) : exec (.lscaleLn32 d a b) s = execLscaleLn32 d a b s := rfl
theorem exec_lcmpLn16 (c : BitVec 2) (p : BitVec 6) (a : BitVec 8) (b : BitVec 8) (s : State) : exec (.lcmpLn16 c p a b) s = execLcmpLn16 c p a b s := rfl
theorem exec_lcmpLn32 (c : BitVec 2) (p : BitVec 6) (a : BitVec 8) (b : BitVec 8) (s : State) : exec (.lcmpLn32 c p a b) s = execLcmpLn32 c p a b s := rfl
theorem exec_lneg (d : BitVec 8) (a : BitVec 8) (f : BitVec 2) (s : State) : exec (.lneg d a f) s = execLneg d a f s := rfl
theorem exec_labs (d : BitVec 8) (a : BitVec 8) (f : BitVec 2) (s : State) : exec (.labs d a f) s = execLabs d a f s := rfl
theorem exec_lrcp (d : BitVec 8) (a : BitVec 8) (f : BitVec 2) (s : State) : exec (.lrcp d a f) s = execLrcp d a f s := rfl
theorem exec_lsqr (d : BitVec 8) (a : BitVec 8) (f : BitVec 2) (s : State) : exec (.lsqr d a f) s = execLsqr d a f s := rfl
theorem exec_lsqrt (d : BitVec 8) (a : BitVec 8) (f : BitVec 2) (s : State) : exec (.lsqrt d a f) s = execLsqrt d a f s := rfl
theorem exec_lrsqrt (d : BitVec 8) (a : BitVec 8) (f : BitVec 2) (s : State) : exec (.lrsqrt d a f) s = execLrsqrt d a f s := rfl
theorem exec_lexp2 (d : BitVec 8) (a : BitVec 8) (f : BitVec 2) (s : State) : exec (.lexp2 d a f) s = execLexp2 d a f s := rfl
theorem exec_llog2 (d : BitVec 8) (a : BitVec 8) (f : BitVec 2) (s : State) : exec (.llog2 d a f) s = execLlog2 d a f s := rfl
theorem exec_lexp (d : BitVec 8) (a : BitVec 8) (f : BitVec 2) (s : State) : exec (.lexp d a f) s = execLexp d a f s := rfl
theorem exec_lsint (d : BitVec 8) (a : BitVec 8) (f : BitVec 2) (s : State) : exec (.lsint d a f) s = execLsint d a f s := rfl
theorem exec_lcost (d : BitVec 8) (a : BitVec 8) (f : BitVec 2) (s : State) : exec (.lcost d a f) s = execLcost d a f s := rfl
theorem exec_lclass (d : BitVec 8) (a : BitVec 8) (f : BitVec 2) (s : State) : exec (.lclass d a f) s = execLclass d a f s := rfl
theorem exec_lcvtLn8 (d : BitVec 8) (a : BitVec 8) (sx : BitVec 2) (s : State) : exec (.lcvtLn8 d a sx) s = execLcvtLn8 d a sx s := rfl
theorem exec_lcvtLn16 (d : BitVec 8) (a : BitVec 8) (sx : BitVec 2) (s : State) : exec (.lcvtLn16 d a sx) s = execLcvtLn16 d a sx s := rfl
theorem exec_lcvtLn32 (d : BitVec 8) (a : BitVec 8) (sx : BitVec 2) (s : State) : exec (.lcvtLn32 d a sx) s = execLcvtLn32 d a sx s := rfl
theorem exec_lgetl (d : BitVec 8) (a : BitVec 8) (f : BitVec 2) (s : State) : exec (.lgetl d a f) s = execLgetl d a f s := rfl
theorem exec_lmkl (d : BitVec 8) (a : BitVec 8) (f : BitVec 2) (s : State) : exec (.lmkl d a f) s = execLmkl d a f s := rfl
theorem exec_lunpk0 (d : BitVec 8) (a : BitVec 8) (f : BitVec 2) (s : State) : exec (.lunpk0 d a f) s = execLunpk0 d a f s := rfl
theorem exec_lunpk1 (d : BitVec 8) (a : BitVec 8) (f : BitVec 2) (s : State) : exec (.lunpk1 d a f) s = execLunpk1 d a f s := rfl
theorem exec_lunpk2 (d : BitVec 8) (a : BitVec 8) (f : BitVec 2) (s : State) : exec (.lunpk2 d a f) s = execLunpk2 d a f s := rfl
theorem exec_lunpk3 (d : BitVec 8) (a : BitVec 8) (f : BitVec 2) (s : State) : exec (.lunpk3 d a f) s = execLunpk3 d a f s := rfl
theorem exec_lfix (d : BitVec 8) (a : BitVec 8) (f : BitVec 2) (sx : Bool) (n : BitVec 5) (s : State) : exec (.lfix d a f sx n) s = execLfix d a f sx n s := rfl
theorem exec_lflt (d : BitVec 8) (a : BitVec 8) (f : BitVec 2) (sx : Bool) (n : BitVec 5) (s : State) : exec (.lflt d a f sx n) s = execLflt d a f sx n s := rfl
theorem exec_fcvtToLn (d : BitVec 8) (a : BitVec 8) (l : BitVec 2) (e : BitVec 3) (s : State) : exec (.fcvtToLn d a l e) s = execFcvtToLn d a l e s := rfl
theorem exec_fcvtToIeee (d : BitVec 8) (a : BitVec 8) (l : BitVec 2) (e : BitVec 3) (s : State) : exec (.fcvtToIeee d a l e) s = execFcvtToIeee d a l e s := rfl
theorem exec_lpack (d : BitVec 8) (a : BitVec 8) (b : BitVec 8) (s : State) : exec (.lpack d a b) s = execLpack d a b s := rfl
theorem exec_flagGet (d : BitVec 8) (s : State) : exec (.flagGet d) s = execFlagGet d s := rfl
theorem exec_flagSet (a : BitVec 8) (s : State) : exec (.flagSet a) s = execFlagSet a s := rfl
theorem exec_flagClr (a : BitVec 8) (s : State) : exec (.flagClr a) s = execFlagClr a s := rfl
theorem exec_flagPut (a : BitVec 8) (s : State) : exec (.flagPut a) s = execFlagPut a s := rfl
theorem exec_flagGor (d : BitVec 6) (s : State) : exec (.flagGor d) s = execFlagGor d s := rfl
theorem exec_flagTst (d : BitVec 6) (a : BitVec 8) (s : State) : exec (.flagTst d a) s = execFlagTst d a s := rfl
theorem exec_lmma (c : BitVec 3) (a : BitVec 6) (b : BitVec 6) (f : BitVec 3) (sx : BitVec 5) (p : Bool) (s : State) : exec (.lmma c a b f sx p) s = execLmma c a b f sx p s := rfl
theorem exec_lmms (c : BitVec 3) (a : BitVec 6) (b : BitVec 6) (f : BitVec 3) (w : BitVec 3) (n : BitVec 2) (p : Bool) (s : State) : exec (.lmms c a b f w n p) s = execLmms c a b f w n p s := rfl
theorem exec_imma (c : BitVec 3) (a : BitVec 6) (b : BitVec 6) (n : BitVec 3) (p : Bool) (s : State) : exec (.imma c a b n p) s = execImma c a b n p s := rfl
theorem exec_aclrLn32 (c : BitVec 3) (s : State) : exec (.aclrLn32 c) s = execAclrLn32 c s := rfl
theorem exec_aclrLn16 (c : BitVec 3) (s : State) : exec (.aclrLn16 c) s = execAclrLn16 c s := rfl
theorem exec_aclrS32 (c : BitVec 3) (f : BitVec 5) (s : State) : exec (.aclrS32 c f) s = execAclrS32 c f s := rfl
theorem exec_ard (c : BitVec 3) (q : BitVec 5) (d : BitVec 6) (s : State) : exec (.ard c q d) s = execArd c q d s := rfl
theorem exec_awr (c : BitVec 3) (q : BitVec 5) (s : State) : exec (.awr c q) s = execAwr c q s := rfl
theorem exec_amov (c : BitVec 3) (sx : BitVec 3) (s : State) : exec (.amov c sx) s = execAmov c sx s := rfl
theorem exec_tld (t : BitVec 6) (d : BitVec 6) (sx : BitVec 6) (s : State) : exec (.tld t d sx) s = execTld t d sx s := rfl
theorem exec_tst (t : BitVec 6) (d : BitVec 6) (sx : BitVec 6) (s : State) : exec (.tst t d sx) s = execTst t d sx s := rfl
theorem exec_tmov (t : BitVec 6) (u : BitVec 6) (s : State) : exec (.tmov t u) s = execTmov t u s := rfl
theorem exec_twset (n : BitVec 3) (b : BitVec 6) (s : State) : exec (.twset n b) s = execTwset n b s := rfl
theorem exec_twget (n : BitVec 3) (b : BitVec 6) (s : State) : exec (.twget n b) s = execTwget n b s := rfl
theorem exec_mwait (c : BitVec 3) (s : State) : exec (.mwait c) s = execMwait c s := rfl
theorem exec_gset (a : BitVec 6) (g : BitVec 3) (s : State) : exec (.gset a g) s = execGset a g s := rfl
theorem exec_gcfg (d : BitVec 6) (g : BitVec 3) (s : State) : exec (.gcfg d g) s = execGcfg d g s := rfl
theorem exec_ldgUniformVector (d : BitVec 8) (a : BitVec 7) (b : BitVec 6) (z : BitVec 2) (s : State) : exec (.ldgUniformVector d a b z) s = execLdgUniformVector d a b z s := rfl
theorem exec_ldgUniform (d : BitVec 8) (b : BitVec 6) (z : BitVec 2) (s : State) : exec (.ldgUniform d b z) s = execLdgUniform d b z s := rfl
theorem exec_ldgVector (d : BitVec 8) (a : BitVec 7) (z : BitVec 2) (s : State) : exec (.ldgVector d a z) s = execLdgVector d a z s := rfl
theorem exec_stgUniformVector (d : BitVec 8) (a : BitVec 7) (b : BitVec 6) (z : BitVec 2) (s : State) : exec (.stgUniformVector d a b z) s = execStgUniformVector d a b z s := rfl
theorem exec_stgUniform (d : BitVec 8) (b : BitVec 6) (z : BitVec 2) (s : State) : exec (.stgUniform d b z) s = execStgUniform d b z s := rfl
theorem exec_stgVector (d : BitVec 8) (a : BitVec 7) (z : BitVec 2) (s : State) : exec (.stgVector d a z) s = execStgVector d a z s := rfl
theorem exec_ldhVector (d : BitVec 8) (a : BitVec 7) (b : BitVec 6) (z : BitVec 2) (s : State) : exec (.ldhVector d a b z) s = execLdhVector d a b z s := rfl
theorem exec_ldhOffset (d : BitVec 8) (b : BitVec 6) (z : BitVec 2) (s : State) : exec (.ldhOffset d b z) s = execLdhOffset d b z s := rfl
theorem exec_sthVector (d : BitVec 8) (a : BitVec 7) (b : BitVec 6) (z : BitVec 2) (s : State) : exec (.sthVector d a b z) s = execSthVector d a b z s := rfl
theorem exec_sthOffset (d : BitVec 8) (b : BitVec 6) (z : BitVec 2) (s : State) : exec (.sthOffset d b z) s = execSthOffset d b z s := rfl
theorem exec_atom (d : BitVec 8) (a : BitVec 8) (o : BitVec 4) (t : BitVec 2) (s : State) : exec (.atom d a o t) s = execAtom d a o t s := rfl
theorem exec_red (d : BitVec 8) (a : BitVec 8) (o : BitVec 4) (t : BitVec 2) (s : State) : exec (.red d a o t) s = execRed d a o t s := rfl
theorem exec_fenceX (sx : BitVec 6) (s : State) : exec (.fenceX sx) s = execFenceX sx s := rfl
theorem exec_talloc (d : BitVec 6) (a : BitVec 6) (l : Bool) (s : State) : exec (.talloc d a l) s = execTalloc d a l s := rfl
theorem exec_tfree (a : BitVec 6) (s : State) : exec (.tfree a) s = execTfree a s := rfl
theorem exec_pref (d : BitVec 8) (a : BitVec 8) (b : BitVec 8) (s : State) : exec (.pref d a b) s = execPref d a b s := rfl
theorem exec_vspl (d : BitVec 8) (b : BitVec 6) (sx : Bool) (s : State) : exec (.vspl d b sx) s = execVspl d b sx s := rfl
theorem exec_vfil (d : BitVec 8) (b : BitVec 6) (sx : Bool) (s : State) : exec (.vfil d b sx) s = execVfil d b sx s := rfl
theorem exec_qpush (n : BitVec 4) (a : BitVec 6) (s : State) : exec (.qpush n a) s = execQpush n a s := rfl
theorem exec_qpop (d : BitVec 6) (n : BitVec 4) (s : State) : exec (.qpop d n) s = execQpop d n s := rfl
theorem exec_qtry (d : BitVec 6) (n : BitVec 4) (b : BitVec 6) (s : State) : exec (.qtry d n b) s = execQtry d n b s := rfl
theorem exec_thrGet (d : BitVec 4) (n : BitVec 6) (s : State) : exec (.thrGet d n) s = execThrGet d n s := rfl
theorem exec_thrPeek (d : BitVec 4) (n : BitVec 6) (s : State) : exec (.thrPeek d n) s = execThrPeek d n s := rfl
theorem exec_thrSkip (a : BitVec 4) (n : BitVec 11) (s : State) : exec (.thrSkip a n) s = execThrSkip a n s := rfl
theorem exec_thrBfx (d : BitVec 4) (a : BitVec 4) (sx : Bool) (w : BitVec 5) (p : BitVec 5) (s : State) : exec (.thrBfx d a sx w p) s = execThrBfx d a sx w p s := rfl
theorem exec_thrLut (d : BitVec 4) (a : BitVec 4) (k : BitVec 8) (s : State) : exec (.thrLut d a k) s = execThrLut d a k s := rfl
theorem exec_thrTbw (d : BitVec 4) (a : BitVec 4) (k : BitVec 8) (s : State) : exec (.thrTbw d a k) s = execThrTbw d a k s := rfl
theorem exec_thrRefill (a : BitVec 4) (n : BitVec 8) (s : State) : exec (.thrRefill a n) s = execThrRefill a n s := rfl
theorem exec_thrMovi (d : BitVec 4) (i : BitVec 11) (s : State) : exec (.thrMovi d i) s = execThrMovi d i s := rfl
theorem exec_thrAdd (d : BitVec 4) (a : BitVec 4) (i : BitVec 11) (s : State) : exec (.thrAdd d a i) s = execThrAdd d a i s := rfl
theorem exec_thrSub (d : BitVec 4) (a : BitVec 4) (i : BitVec 11) (s : State) : exec (.thrSub d a i) s = execThrSub d a i s := rfl
theorem exec_thrAnd (d : BitVec 4) (a : BitVec 4) (i : BitVec 11) (s : State) : exec (.thrAnd d a i) s = execThrAnd d a i s := rfl
theorem exec_thrOr (d : BitVec 4) (a : BitVec 4) (i : BitVec 11) (s : State) : exec (.thrOr d a i) s = execThrOr d a i s := rfl
theorem exec_thrXor (d : BitVec 4) (a : BitVec 4) (i : BitVec 11) (s : State) : exec (.thrXor d a i) s = execThrXor d a i s := rfl
theorem exec_thrShl (d : BitVec 4) (a : BitVec 4) (i : BitVec 11) (s : State) : exec (.thrShl d a i) s = execThrShl d a i s := rfl
theorem exec_thrShr (d : BitVec 4) (a : BitVec 4) (i : BitVec 11) (s : State) : exec (.thrShr d a i) s = execThrShr d a i s := rfl
theorem exec_thrSar (d : BitVec 4) (a : BitVec 4) (i : BitVec 11) (s : State) : exec (.thrSar d a i) s = execThrSar d a i s := rfl
theorem exec_thrEmit (a : BitVec 4) (n : BitVec 3) (s : State) : exec (.thrEmit a n) s = execThrEmit a n s := rfl
theorem exec_thrCopy (d : BitVec 4) (a : BitVec 4) (s : State) : exec (.thrCopy d a) s = execThrCopy d a s := rfl
theorem exec_thrBr (c : BitVec 4) (a : BitVec 4) (i : BitVec 11) (s : State) : exec (.thrBr c a i) s = execThrBr c a i s := rfl
theorem exec_qbindInit (n : BitVec 4) (a : BitVec 6) (s : State) : exec (.qbindInit n a) s = execQbindInit n a s := rfl
theorem exec_qbindAttach (n : BitVec 4) (a : BitVec 6) (s : State) : exec (.qbindAttach n a) s = execQbindAttach n a s := rfl
theorem exec_qbindUnbind (n : BitVec 4) (s : State) : exec (.qbindUnbind n) s = execQbindUnbind n s := rfl
theorem exec_waitmUniformVector (d : BitVec 8) (a : BitVec 7) (b : BitVec 6) (z : BitVec 2) (s : State) : exec (.waitmUniformVector d a b z) s = execWaitmUniformVector d a b z s := rfl
theorem exec_waitmUniform (d : BitVec 8) (b : BitVec 6) (z : BitVec 2) (s : State) : exec (.waitmUniform d b z) s = execWaitmUniform d b z s := rfl
theorem exec_waitmVector (d : BitVec 8) (a : BitVec 7) (z : BitVec 2) (s : State) : exec (.waitmVector d a z) s = execWaitmVector d a z s := rfl
theorem exec_bra (o : BitVec 24) (s : State) : exec (.bra o) s = execBra o s := rfl
theorem exec_brp (p : BitVec 6) (sx : Bool) (o : BitVec 16) (s : State) : exec (.brp p sx o) s = execBrp p sx o s := rfl
theorem exec_call (o : BitVec 24) (s : State) : exec (.call o) s = execCall o s := rfl
theorem exec_jmp (a : BitVec 6) (s : State) : exec (.jmp a) s = execJmp a s := rfl
theorem exec_calli (a : BitVec 6) (s : State) : exec (.calli a) s = execCalli a s := rfl
theorem exec_spawn (a : BitVec 6) (b : BitVec 6) (s : State) : exec (.spawn a b) s = execSpawn a b s := rfl
theorem exec_bar (l : BitVec 3) (sx : BitVec 5) (s : State) : exec (.bar l sx) s = execBar l sx s := rfl
theorem exec_barl (d : BitVec 6) (o : BitVec 2) (l : BitVec 3) (sx : BitVec 5) (s : State) : exec (.barl d o l sx) s = execBarl d o l sx s := rfl
theorem exec_tsub (d : BitVec 6) (a : BitVec 6) (s : State) : exec (.tsub d a) s = execTsub d a s := rfl
theorem exec_widF0 (d : BitVec 8) (s : State) : exec (.widF0 d) s = execWidF0 d s := rfl
theorem exec_widF1 (d : BitVec 8) (s : State) : exec (.widF1 d) s = execWidF1 d s := rfl
theorem exec_widF2 (d : BitVec 8) (s : State) : exec (.widF2 d) s = execWidF2 d s := rfl
theorem exec_widF3 (d : BitVec 8) (s : State) : exec (.widF3 d) s = execWidF3 d s := rfl
theorem exec_widF4 (d : BitVec 8) (s : State) : exec (.widF4 d) s = execWidF4 d s := rfl
theorem exec_widF5 (d : BitVec 8) (s : State) : exec (.widF5 d) s = execWidF5 d s := rfl
theorem exec_widId (d : BitVec 8) (s : State) : exec (.widId d) s = execWidId d s := rfl
theorem exec_widKey (d : BitVec 8) (s : State) : exec (.widKey d) s = execWidKey d s := rfl
theorem exec_widExt0 (d : BitVec 8) (s : State) : exec (.widExt0 d) s = execWidExt0 d s := rfl
theorem exec_widExt1 (d : BitVec 8) (s : State) : exec (.widExt1 d) s = execWidExt1 d s := rfl
theorem exec_widExt2 (d : BitVec 8) (s : State) : exec (.widExt2 d) s = execWidExt2 d s := rfl
theorem exec_widExt3 (d : BitVec 8) (s : State) : exec (.widExt3 d) s = execWidExt3 d s := rfl
theorem exec_widExt4 (d : BitVec 8) (s : State) : exec (.widExt4 d) s = execWidExt4 d s := rfl
theorem exec_widExt5 (d : BitVec 8) (s : State) : exec (.widExt5 d) s = execWidExt5 d s := rfl
theorem exec_sread (d : BitVec 6) (n : BitVec 12) (s : State) : exec (.sread d n) s = execSread d n s := rfl
theorem exec_swrite (h : BitVec 6) (a : BitVec 6) (l : BitVec 6) (s : State) : exec (.swrite h a l) s = execSwrite h a l s := rfl
theorem exec_trap (n : BitVec 12) (s : State) : exec (.trap n) s = execTrap n s := rfl
theorem exec_bkpt (n : BitVec 12) (s : State) : exec (.bkpt n) s = execBkpt n s := rfl
theorem exec_limm (i : BitVec 20) (s : State) : exec (.limm i) s = execLimm i s := rfl
theorem exec_rnd (r : BitVec 3) (s : State) : exec (.rnd r) s = execRnd r s := rfl
theorem exec_guard (v : Bool) (p : BitVec 6) (s : State) : exec (.guard v p) s = execGuard v p s := rfl
theorem exec_bpri (f : BitVec 10) (t : BitVec 10) (s : State) : exec (.bpri f t) s = execBpri f t s := rfl
theorem exec_mwaitAll (s : State) : exec (.mwaitAll) s = execMwaitAll s := rfl
theorem exec_abfl (s : State) : exec (.abfl) s = execAbfl s := rfl
theorem exec_thrHalt (s : State) : exec (.thrHalt) s = execThrHalt s := rfl
theorem exec_nop (s : State) : exec (.nop) s = execNop s := rfl
theorem exec_ret (s : State) : exec (.ret) s = execRet s := rfl
theorem exec_exit (s : State) : exec (.exit) s = execExit s := rfl
theorem exec_yield (s : State) : exec (.yield) s = execYield s := rfl
theorem exec_lockx (s : State) : exec (.lockx) s = execLockx s := rfl
theorem exec_unlockx (s : State) : exec (.unlockx) s = execUnlockx s := rfl
theorem exec_tret (s : State) : exec (.tret) s = execTret s := rfl
theorem exec_hnop (s : State) : exec (.hnop) s = execHnop s := rfl
theorem exec_sat (s : State) : exec (.sat) s = execSat s := rfl
theorem exec_placement (s : State) : exec (.placement) s = execPlacement s := rfl
theorem exec_variableLatencyResult (s : State) : exec (.variableLatencyResult) s = execVariableLatencyResult s := rfl
theorem exec_fenceCompletion (s : State) : exec (.fenceCompletion) s = execFenceCompletion s := rfl
theorem exec_fenceRollback (s : State) : exec (.fenceRollback) s = execFenceRollback s := rfl
theorem exec_tileEnginePass (s : State) : exec (.tileEnginePass) s = execTileEnginePass s := rfl
theorem exec_queueUnblock (s : State) : exec (.queueUnblock) s = execQueueUnblock s := rfl
theorem exec_monitorWake (s : State) : exec (.monitorWake) s = execMonitorWake s := rfl
theorem exec_waitmTimeout (s : State) : exec (.waitmTimeout) s = execWaitmTimeout s := rfl
theorem exec_barrierRelease (s : State) : exec (.barrierRelease) s = execBarrierRelease s := rfl
theorem exec_clusterDeparture (s : State) : exec (.clusterDeparture) s = execClusterDeparture s := rfl
theorem exec_extendedSetLending (s : State) : exec (.extendedSetLending) s = execExtendedSetLending s := rfl
theorem exec_agedIssue (s : State) : exec (.agedIssue) s = execAgedIssue s := rfl
theorem exec_yieldExpiry (s : State) : exec (.yieldExpiry) s = execYieldExpiry s := rfl
theorem exec_binTimerExpiry (s : State) : exec (.binTimerExpiry) s = execBinTimerExpiry s := rfl
theorem exec_spawnedGroupStart (s : State) : exec (.spawnedGroupStart) s = execSpawnedGroupStart s := rfl
theorem exec_watchdogFault (s : State) : exec (.watchdogFault) s = execWatchdogFault s := rfl
theorem exec_queueDeadlock (s : State) : exec (.queueDeadlock) s = execQueueDeadlock s := rfl
theorem exec_copyOrConvert (s : State) : exec (.copyOrConvert) s = execCopyOrConvert s := rfl
theorem exec_expand (s : State) : exec (.expand) s = execExpand s := rfl
theorem exec_gather (s : State) : exec (.gather) s = execGather s := rfl
theorem exec_scatter (s : State) : exec (.scatter) s = execScatter s := rfl
theorem exec_scatterAdd (s : State) : exec (.scatterAdd) s = execScatterAdd s := rfl
theorem exec_allReduce (s : State) : exec (.allReduce) s = execAllReduce s := rfl
theorem exec_reduceScatter (s : State) : exec (.reduceScatter) s = execReduceScatter s := rfl
theorem exec_allGather (s : State) : exec (.allGather) s = execAllGather s := rfl
theorem exec_broadcast (s : State) : exec (.broadcast) s = execBroadcast s := rfl
theorem exec_linkError (s : State) : exec (.linkError) s = execLinkError s := rfl
theorem exec_thresherInputTake (s : State) : exec (.thresherInputTake) s = execThresherInputTake s := rfl
theorem exec_thresherStepLimit (s : State) : exec (.thresherStepLimit) s = execThresherStepLimit s := rfl
theorem exec_submit (s : State) : exec (.submit) s = execSubmit s := rfl
theorem exec_psubmit (s : State) : exec (.psubmit) s = execPsubmit s := rfl
theorem exec_admission (s : State) : exec (.admission) s = execAdmission s := rfl
theorem exec_dispatchStep (s : State) : exec (.dispatchStep) s = execDispatchStep s := rfl
theorem exec_teamRetirement (s : State) : exec (.teamRetirement) s = execTeamRetirement s := rfl
theorem exec_launchRetirement (s : State) : exec (.launchRetirement) s = execLaunchRetirement s := rfl
theorem exec_preemptChosen (s : State) : exec (.preemptChosen) s = execPreemptChosen s := rfl
theorem exec_preemptSave (s : State) : exec (.preemptSave) s = execPreemptSave s := rfl
theorem exec_preemptDrain (s : State) : exec (.preemptDrain) s = execPreemptDrain s := rfl
theorem exec_preemptFlush (s : State) : exec (.preemptFlush) s = execPreemptFlush s := rfl
theorem exec_preresume (s : State) : exec (.preresume) s = execPreresume s := rfl
theorem exec_atsInvalidationRequest (s : State) : exec (.atsInvalidationRequest) s = execAtsInvalidationRequest s := rfl
theorem exec_leaseRegrant (s : State) : exec (.leaseRegrant) s = execLeaseRegrant s := rfl
theorem exec_xlinv (s : State) : exec (.xlinv) s = execXlinv s := rfl
theorem exec_patch (s : State) : exec (.patch) s = execPatch s := rfl
theorem exec_ctxstateActivate (s : State) : exec (.ctxstateActivate) s = execCtxstateActivate s := rfl
theorem exec_ctxstateFree (s : State) : exec (.ctxstateFree) s = execCtxstateFree s := rfl
theorem exec_commWrite (s : State) : exec (.commWrite) s = execCommWrite s := rfl
theorem exec_rangeRegisterWrite (s : State) : exec (.rangeRegisterWrite) s = execRangeRegisterWrite s := rfl
theorem exec_substatClear (s : State) : exec (.substatClear) s = execSubstatClear s := rfl
theorem exec_mgerrClear (s : State) : exec (.mgerrClear) s = execMgerrClear s := rfl
theorem exec_errcntClear (s : State) : exec (.errcntClear) s = execErrcntClear s := rfl
theorem exec_registerWrite (s : State) : exec (.registerWrite) s = execRegisterWrite s := rfl
theorem exec_firmwareInstall (s : State) : exec (.firmwareInstall) s = execFirmwareInstall s := rfl
theorem exec_fuseRaise (s : State) : exec (.fuseRaise) s = execFuseRaise s := rfl
theorem exec_attestationReport (s : State) : exec (.attestationReport) s = execAttestationReport s := rfl
theorem exec_certificateChain (s : State) : exec (.certificateChain) s = execCertificateChain s := rfl
theorem exec_checkpoint (s : State) : exec (.checkpoint) s = execCheckpoint s := rfl
theorem exec_checkpointRestore (s : State) : exec (.checkpointRestore) s = execCheckpointRestore s := rfl
theorem exec_bar4Access (s : State) : exec (.bar4Access) s = execBar4Access s := rfl
theorem exec_powerOn (s : State) : exec (.powerOn) s = execPowerOn s := rfl
theorem exec_timingErrorReplay (s : State) : exec (.timingErrorReplay) s = execTimingErrorReplay s := rfl
theorem exec_correctedError (s : State) : exec (.correctedError) s = execCorrectedError s := rfl
theorem exec_uncorrectableError (s : State) : exec (.uncorrectableError) s = execUncorrectableError s := rfl
theorem exec_scrub (s : State) : exec (.scrub) s = execScrub s := rfl
theorem exec_powerTokenBid (s : State) : exec (.powerTokenBid) s = execPowerTokenBid s := rfl
theorem exec_droop (s : State) : exec (.droop) s = execDroop s := rfl
theorem exec_thermalThrottle (s : State) : exec (.thermalThrottle) s = execThermalThrottle s := rfl
theorem exec_thermalShutdown (s : State) : exec (.thermalShutdown) s = execThermalShutdown s := rfl
theorem exec_unassignedMajor (s : State) : exec (.unassignedMajor) s = execUnassignedMajor s := rfl
theorem exec_deviceReset (s : State) : exec (.deviceReset) s = execDeviceReset s := rfl

end Sys2Proof.Machine
end

