-- ==== Sys2Proof/Laws/Maps.lean ====
section
/-! SUPPORT. Sparse maps: a read after a write, and the canonical form. -/

namespace Sys2Proof.Machine

variable {α : Type} [DecidableEq α]

omit [DecidableEq α] in
theorem smGet_smErase (d : α) (k j : Nat) (m : SMap α) : smGet d j (smErase k m) = if j = k then d else smGet d j m := by
  induction m with
  | nil => simp [smErase, smGet]
  | cons e m ih =>
    simp only [smErase] at ih ⊢
    by_cases h : e.1 = k
    · rw [List.filter_cons_of_neg (by simpa using h), ih]
      by_cases hj : j = k
      · simp [hj]
      · simp [hj, smGet, h, Ne.symm hj]
    · rw [List.filter_cons_of_pos (by simpa using h)]
      simp only [smGet]
      by_cases hj : j = k
      · subst hj; simp only [h, if_false]; simpa using ih
      · rw [ih]; simp [hj]

omit [DecidableEq α] in
theorem smGet_smPut (d : α) (k j : Nat) (x : α) (m : SMap α) :
    smGet d j (smPut k x m) = if j = k then x else smGet d j m := by
  induction m with
  | nil => simp [smPut, smGet, eq_comm]
  | cons e m ih =>
    by_cases h1 : k < e.1
    · by_cases hj : j = k
      · subst hj; simp [smPut, smGet, h1]
      · simp [smPut, smGet, h1, Ne.symm hj, hj]
    · by_cases h2 : k = e.1
      · by_cases hj : j = k
        · subst hj; simp [smPut, smGet, ← h2]
        · simp [smPut, smGet, ← h2, Ne.symm hj, hj]
      · simp only [smPut, h1, h2, if_false, smGet, ih]
        by_cases hj : j = k
        · subst hj; simp [Ne.symm h2]
        · simp [hj]

/-- A read after a write at the same key gives the value written; every other key reads as before. -/
theorem smGet_smSet (d : α) (k j : Nat) (x : α) (m : SMap α) :
    smGet d j (smSet d k x m) = if j = k then x else smGet d j m := by
  unfold smSet
  by_cases h : x = d
  · simp [h, smGet_smErase]
  · simp [h, smGet_smPut]

@[simp] theorem smGet_smSet_same (d : α) (k : Nat) (x : α) (m : SMap α) : smGet d k (smSet d k x m) = x := by
  simp [smGet_smSet]

theorem smGet_smSet_other (d : α) (k j : Nat) (x : α) (m : SMap α) (h : j ≠ k) : smGet d j (smSet d k x m) = smGet d j m := by
  simp [smGet_smSet, h]

/-- The canonical form, entry by entry: no entry is the default, and the keys rise strictly. -/
theorem smCanonical_cons (d : α) (e : Nat × α) (m : SMap α) :
    smCanonical d (e :: m) = true ↔ e.2 ≠ d ∧ (∀ k ∈ m, e.1 < k.1) ∧ smCanonical d m = true := by
  induction m generalizing e with
  | nil => simp [smCanonical]
  | cons k m ih =>
    rw [smCanonical]
    simp only [Bool.and_eq_true, decide_eq_true_eq, List.mem_cons, forall_eq_or_imp]
    constructor
    · rintro ⟨⟨h1, h2⟩, h3⟩
      obtain ⟨-, h5, -⟩ := (ih k).1 h3
      exact ⟨h1, ⟨h2, fun q hq => Nat.lt_trans h2 (h5 q hq)⟩, h3⟩
    · rintro ⟨h1, ⟨h2, -⟩, h3⟩
      exact ⟨⟨h1, h2⟩, h3⟩

/-- Removing entries keeps the canonical form. -/
theorem smCanonical_filter (d : α) (f : Nat × α → Bool) (m : SMap α) (h : smCanonical d m = true) :
    smCanonical d (m.filter f) = true := by
  induction m with
  | nil => rfl
  | cons e m ih =>
    obtain ⟨h1, h2, h3⟩ := (smCanonical_cons d e m).1 h
    by_cases hf : f e
    · rw [List.filter_cons_of_pos hf, smCanonical_cons]
      exact ⟨h1, fun k hk => h2 k (List.mem_filter.1 hk).1, ih h3⟩
    · rw [List.filter_cons_of_neg hf]; exact ih h3

omit [DecidableEq α] in
theorem smPut_keys (k : Nat) (x : α) (m : SMap α) (e : Nat × α) (h : e ∈ smPut k x m) : e.1 = k ∨ e ∈ m := by
  induction m with
  | nil => simp [smPut] at h; simp [h]
  | cons y m ih =>
    simp only [smPut] at h
    split at h
    · rcases List.mem_cons.1 h with rfl | h
      · simp
      · exact .inr h
    · split at h
      · rcases List.mem_cons.1 h with rfl | h
        · simp
        · exact .inr (List.mem_cons_of_mem _ h)
      · rcases List.mem_cons.1 h with rfl | h
        · exact .inr List.mem_cons_self
        · exact (ih h).imp id (List.mem_cons_of_mem _)

theorem smCanonical_smPut (d : α) (k : Nat) (x : α) (m : SMap α) (hx : x ≠ d) (h : smCanonical d m = true) :
    smCanonical d (smPut k x m) = true := by
  induction m with
  | nil => simp [smPut, smCanonical, hx]
  | cons e m ih =>
    obtain ⟨h1, h2, h3⟩ := (smCanonical_cons d e m).1 h
    simp only [smPut]
    split
    · next hk =>
      rw [smCanonical_cons]
      refine ⟨hx, ?_, h⟩
      intro q hq
      rcases List.mem_cons.1 hq with rfl | hq
      · exact hk
      · exact Nat.lt_trans hk (h2 q hq)
    · split
      · next hk => rw [smCanonical_cons]; exact ⟨hx, fun q hq => hk ▸ h2 q hq, h3⟩
      · next hk hn =>
        rw [smCanonical_cons]
        refine ⟨h1, ?_, ih h3⟩
        intro q hq
        rcases smPut_keys k x m q hq with hq | hq
        · simp only [hq]; omega
        · exact h2 q hq

/-- A write keeps the canonical form. -/
theorem smCanonical_smSet (d : α) (k : Nat) (x : α) (m : SMap α) (h : smCanonical d m = true) :
    smCanonical d (smSet d k x m) = true := by
  unfold smSet
  split
  · exact smCanonical_filter d _ m h
  · next hx => exact smCanonical_smPut d k x m hx h

/-- Two canonical maps that read the same everywhere are equal. -/
theorem smCanonical_ext (d : α) (m n : SMap α) (hm : smCanonical d m = true) (hn : smCanonical d n = true)
    (h : ∀ k, smGet d k m = smGet d k n) : m = n := by
  have low : ∀ (c : SMap α) (j : Nat), smCanonical d c = true → (∀ q ∈ c, j < q.1) → smGet d j c = d := by
    intro c j hc hj
    induction c with
    | nil => rfl
    | cons e c ih =>
      have := hj e List.mem_cons_self
      rw [smGet, if_neg (by omega)]
      exact ih ((smCanonical_cons d e c).1 hc).2.2 (fun q hq => hj q (List.mem_cons_of_mem _ hq))
  induction m generalizing n with
  | nil =>
    cases n with
    | nil => rfl
    | cons e n =>
      have := h e.1
      simp only [smGet, if_true] at this
      exact absurd this.symm ((smCanonical_cons d e n).1 hn).1
  | cons e m ih =>
    obtain ⟨a1, a2, a3⟩ := (smCanonical_cons d e m).1 hm
    cases n with
    | nil => have := h e.1; simp only [smGet, if_true] at this; exact absurd this a1
    | cons f n =>
      obtain ⟨b1, b2, b3⟩ := (smCanonical_cons d f n).1 hn
      have hk : e.1 = f.1 := by
        rcases Nat.lt_trichotomy e.1 f.1 with hl | hl | hl
        · have := h e.1
          simp only [smGet, if_true] at this
          rw [if_neg (by omega), low n e.1 b3 (fun q hq => Nat.lt_trans hl (b2 q hq))] at this
          exact absurd this a1
        · exact hl
        · have := h f.1
          simp only [smGet, if_true] at this
          rw [if_neg (by omega), low m f.1 a3 (fun q hq => Nat.lt_trans hl (a2 q hq))] at this
          exact absurd this.symm b1
      have hv : e.2 = f.2 := by have := h e.1; simpa [smGet, hk] using this
      have ht : m = n := by
        apply ih n a3 b3
        intro k
        have hk' := h k
        simp only [smGet, ← hk] at hk'
        by_cases he : e.1 = k
        · subst he; rw [low m e.1 a3 a2, low n e.1 b3 (fun q hq => hk ▸ b2 q hq)]
        · simpa [he] using hk'
      rw [ht, Prod.ext hk hv]

end Sys2Proof.Machine
end

