-- ==== Sys2Proof/Laws/State.lean ====
section
/-! SUPPORT. One equation per field and update of State, Arch and Group, so that no proof unfolds a record update. -/

namespace Sys2Proof.Machine

/-! ### State.setGroup -/

@[simp] theorem State.setGroup_teams (s : State) (g : Group) : (s.setGroup g).teams = s.teams := rfl
@[simp] theorem State.setGroup_launches (s : State) (g : Group) : (s.setGroup g).launches = s.launches := rfl
@[simp] theorem State.setGroup_queues (s : State) (g : Group) : (s.setGroup g).queues = s.queues := rfl
@[simp] theorem State.setGroup_contexts (s : State) (g : Group) : (s.setGroup g).contexts = s.contexts := rfl
@[simp] theorem State.setGroup_cores (s : State) (g : Group) : (s.setGroup g).cores = s.cores := rfl
@[simp] theorem State.setGroup_memory (s : State) (g : Group) : (s.setGroup g).memory = s.memory := rfl
@[simp] theorem State.setGroup_commands (s : State) (g : Group) : (s.setGroup g).commands = s.commands := rfl
@[simp] theorem State.setGroup_ghosts (s : State) (g : Group) : (s.setGroup g).ghosts = s.ghosts := rfl
@[simp] theorem State.setGroup_requests (s : State) (g : Group) : (s.setGroup g).requests = s.requests := rfl
@[simp] theorem State.setGroup_departures (s : State) (g : Group) : (s.setGroup g).departures = s.departures := rfl
@[simp] theorem State.setGroup_grants (s : State) (g : Group) : (s.setGroup g).grants = s.grants := rfl
@[simp] theorem State.setGroup_throttled (s : State) (g : Group) : (s.setGroup g).throttled = s.throttled := rfl
@[simp] theorem State.setGroup_bar0 (s : State) (g : Group) : (s.setGroup g).bar0 = s.bar0 := rfl
@[simp] theorem State.setGroup_nextCore (s : State) (g : Group) : (s.setGroup g).nextCore = s.nextCore := rfl
@[simp] theorem State.setGroup_tick (s : State) (g : Group) : (s.setGroup g).tick = s.tick := rfl
@[simp] theorem State.setGroup_power (s : State) (g : Group) : (s.setGroup g).power = s.power := rfl
@[simp] theorem State.setGroup_fusedMinimum (s : State) (g : Group) : (s.setGroup g).fusedMinimum = s.fusedMinimum := rfl
@[simp] theorem State.setGroup_flash (s : State) (g : Group) : (s.setGroup g).flash = s.flash := rfl
@[simp] theorem State.setGroup_link (s : State) (g : Group) : (s.setGroup g).link = s.link := rfl
@[simp] theorem State.setGroup_peers (s : State) (g : Group) : (s.setGroup g).peers = s.peers := rfl
@[simp] theorem State.setGroup_images (s : State) (g : Group) : (s.setGroup g).images = s.images := rfl
@[simp] theorem State.setGroup_checkpointStart (s : State) (g : Group) : (s.setGroup g).checkpointStart = s.checkpointStart := rfl
@[simp] theorem State.setGroup_nextBid (s : State) (g : Group) : (s.setGroup g).nextBid = s.nextBid := rfl
@[simp] theorem State.setGroup_nextId (s : State) (g : Group) : (s.setGroup g).nextId = s.nextId := rfl
@[simp] theorem State.setGroup_agenda (s : State) (g : Group) : (s.setGroup g).agenda = s.agenda := rfl
@[simp] theorem State.setGroup_event (s : State) (g : Group) : (s.setGroup g).event = s.event := rfl
@[simp] theorem State.setGroup_issuer (s : State) (g : Group) : (s.setGroup g).issuer = s.issuer := rfl
@[simp] theorem State.setGroup_fetched (s : State) (g : Group) : (s.setGroup g).fetched = s.fetched := rfl
@[simp] theorem State.setGroup_stalled (s : State) (g : Group) : (s.setGroup g).stalled = s.stalled := rfl
@[simp] theorem State.setGroup_turn (s : State) (g : Group) : (s.setGroup g).turn = s.turn := rfl
@[simp] theorem State.setGroup_lastPartition (s : State) (g : Group) : (s.setGroup g).lastPartition = s.lastPartition := rfl
@[simp] theorem State.setGroup_freeIx (s : State) (g : Group) : (s.setGroup g).freeIx = s.freeIx := rfl

/-! ### State.dropGroup -/

@[simp] theorem State.dropGroup_teams (s : State) (c k : Nat) : (s.dropGroup c k).teams = s.teams := rfl
@[simp] theorem State.dropGroup_launches (s : State) (c k : Nat) : (s.dropGroup c k).launches = s.launches := rfl
@[simp] theorem State.dropGroup_queues (s : State) (c k : Nat) : (s.dropGroup c k).queues = s.queues := rfl
@[simp] theorem State.dropGroup_contexts (s : State) (c k : Nat) : (s.dropGroup c k).contexts = s.contexts := rfl
@[simp] theorem State.dropGroup_cores (s : State) (c k : Nat) : (s.dropGroup c k).cores = s.cores := rfl
@[simp] theorem State.dropGroup_memory (s : State) (c k : Nat) : (s.dropGroup c k).memory = s.memory := rfl
@[simp] theorem State.dropGroup_commands (s : State) (c k : Nat) : (s.dropGroup c k).commands = s.commands := rfl
@[simp] theorem State.dropGroup_ghosts (s : State) (c k : Nat) : (s.dropGroup c k).ghosts = s.ghosts := rfl
@[simp] theorem State.dropGroup_requests (s : State) (c k : Nat) : (s.dropGroup c k).requests = s.requests := rfl
@[simp] theorem State.dropGroup_departures (s : State) (c k : Nat) : (s.dropGroup c k).departures = s.departures := rfl
@[simp] theorem State.dropGroup_grants (s : State) (c k : Nat) : (s.dropGroup c k).grants = s.grants := rfl
@[simp] theorem State.dropGroup_throttled (s : State) (c k : Nat) : (s.dropGroup c k).throttled = s.throttled := rfl
@[simp] theorem State.dropGroup_bar0 (s : State) (c k : Nat) : (s.dropGroup c k).bar0 = s.bar0 := rfl
@[simp] theorem State.dropGroup_nextCore (s : State) (c k : Nat) : (s.dropGroup c k).nextCore = s.nextCore := rfl
@[simp] theorem State.dropGroup_tick (s : State) (c k : Nat) : (s.dropGroup c k).tick = s.tick := rfl
@[simp] theorem State.dropGroup_power (s : State) (c k : Nat) : (s.dropGroup c k).power = s.power := rfl
@[simp] theorem State.dropGroup_fusedMinimum (s : State) (c k : Nat) : (s.dropGroup c k).fusedMinimum = s.fusedMinimum := rfl
@[simp] theorem State.dropGroup_flash (s : State) (c k : Nat) : (s.dropGroup c k).flash = s.flash := rfl
@[simp] theorem State.dropGroup_link (s : State) (c k : Nat) : (s.dropGroup c k).link = s.link := rfl
@[simp] theorem State.dropGroup_peers (s : State) (c k : Nat) : (s.dropGroup c k).peers = s.peers := rfl
@[simp] theorem State.dropGroup_images (s : State) (c k : Nat) : (s.dropGroup c k).images = s.images := rfl
@[simp] theorem State.dropGroup_checkpointStart (s : State) (c k : Nat) : (s.dropGroup c k).checkpointStart = s.checkpointStart := rfl
@[simp] theorem State.dropGroup_nextBid (s : State) (c k : Nat) : (s.dropGroup c k).nextBid = s.nextBid := rfl
@[simp] theorem State.dropGroup_nextId (s : State) (c k : Nat) : (s.dropGroup c k).nextId = s.nextId := rfl
@[simp] theorem State.dropGroup_agenda (s : State) (c k : Nat) : (s.dropGroup c k).agenda = s.agenda := rfl
@[simp] theorem State.dropGroup_event (s : State) (c k : Nat) : (s.dropGroup c k).event = s.event := rfl
@[simp] theorem State.dropGroup_issuer (s : State) (c k : Nat) : (s.dropGroup c k).issuer = s.issuer := rfl
@[simp] theorem State.dropGroup_fetched (s : State) (c k : Nat) : (s.dropGroup c k).fetched = s.fetched := rfl
@[simp] theorem State.dropGroup_stalled (s : State) (c k : Nat) : (s.dropGroup c k).stalled = s.stalled := rfl
@[simp] theorem State.dropGroup_turn (s : State) (c k : Nat) : (s.dropGroup c k).turn = s.turn := rfl
@[simp] theorem State.dropGroup_lastPartition (s : State) (c k : Nat) : (s.dropGroup c k).lastPartition = s.lastPartition := rfl
@[simp] theorem State.dropGroup_freeIx (s : State) (c k : Nat) : (s.dropGroup c k).freeIx = s.freeIx := rfl

/-! ### State.setTeam -/

@[simp] theorem State.setTeam_groups (s : State) (u : Team) : (s.setTeam u).groups = s.groups := rfl
@[simp] theorem State.setTeam_launches (s : State) (u : Team) : (s.setTeam u).launches = s.launches := rfl
@[simp] theorem State.setTeam_queues (s : State) (u : Team) : (s.setTeam u).queues = s.queues := rfl
@[simp] theorem State.setTeam_contexts (s : State) (u : Team) : (s.setTeam u).contexts = s.contexts := rfl
@[simp] theorem State.setTeam_cores (s : State) (u : Team) : (s.setTeam u).cores = s.cores := rfl
@[simp] theorem State.setTeam_memory (s : State) (u : Team) : (s.setTeam u).memory = s.memory := rfl
@[simp] theorem State.setTeam_commands (s : State) (u : Team) : (s.setTeam u).commands = s.commands := rfl
@[simp] theorem State.setTeam_ghosts (s : State) (u : Team) : (s.setTeam u).ghosts = s.ghosts := rfl
@[simp] theorem State.setTeam_requests (s : State) (u : Team) : (s.setTeam u).requests = s.requests := rfl
@[simp] theorem State.setTeam_departures (s : State) (u : Team) : (s.setTeam u).departures = s.departures := rfl
@[simp] theorem State.setTeam_grants (s : State) (u : Team) : (s.setTeam u).grants = s.grants := rfl
@[simp] theorem State.setTeam_throttled (s : State) (u : Team) : (s.setTeam u).throttled = s.throttled := rfl
@[simp] theorem State.setTeam_bar0 (s : State) (u : Team) : (s.setTeam u).bar0 = s.bar0 := rfl
@[simp] theorem State.setTeam_nextCore (s : State) (u : Team) : (s.setTeam u).nextCore = s.nextCore := rfl
@[simp] theorem State.setTeam_tick (s : State) (u : Team) : (s.setTeam u).tick = s.tick := rfl
@[simp] theorem State.setTeam_power (s : State) (u : Team) : (s.setTeam u).power = s.power := rfl
@[simp] theorem State.setTeam_fusedMinimum (s : State) (u : Team) : (s.setTeam u).fusedMinimum = s.fusedMinimum := rfl
@[simp] theorem State.setTeam_flash (s : State) (u : Team) : (s.setTeam u).flash = s.flash := rfl
@[simp] theorem State.setTeam_link (s : State) (u : Team) : (s.setTeam u).link = s.link := rfl
@[simp] theorem State.setTeam_peers (s : State) (u : Team) : (s.setTeam u).peers = s.peers := rfl
@[simp] theorem State.setTeam_images (s : State) (u : Team) : (s.setTeam u).images = s.images := rfl
@[simp] theorem State.setTeam_checkpointStart (s : State) (u : Team) : (s.setTeam u).checkpointStart = s.checkpointStart := rfl
@[simp] theorem State.setTeam_nextBid (s : State) (u : Team) : (s.setTeam u).nextBid = s.nextBid := rfl
@[simp] theorem State.setTeam_nextId (s : State) (u : Team) : (s.setTeam u).nextId = s.nextId := rfl
@[simp] theorem State.setTeam_agenda (s : State) (u : Team) : (s.setTeam u).agenda = s.agenda := rfl
@[simp] theorem State.setTeam_event (s : State) (u : Team) : (s.setTeam u).event = s.event := rfl
@[simp] theorem State.setTeam_issuer (s : State) (u : Team) : (s.setTeam u).issuer = s.issuer := rfl
@[simp] theorem State.setTeam_fetched (s : State) (u : Team) : (s.setTeam u).fetched = s.fetched := rfl
@[simp] theorem State.setTeam_stalled (s : State) (u : Team) : (s.setTeam u).stalled = s.stalled := rfl
@[simp] theorem State.setTeam_turn (s : State) (u : Team) : (s.setTeam u).turn = s.turn := rfl
@[simp] theorem State.setTeam_lastPartition (s : State) (u : Team) : (s.setTeam u).lastPartition = s.lastPartition := rfl
@[simp] theorem State.setTeam_freeIx (s : State) (u : Team) : (s.setTeam u).freeIx = s.freeIx := rfl

/-! ### State.setLaunch -/

@[simp] theorem State.setLaunch_groups (s : State) (l : Launch) : (s.setLaunch l).groups = s.groups := rfl
@[simp] theorem State.setLaunch_teams (s : State) (l : Launch) : (s.setLaunch l).teams = s.teams := rfl
@[simp] theorem State.setLaunch_queues (s : State) (l : Launch) : (s.setLaunch l).queues = s.queues := rfl
@[simp] theorem State.setLaunch_contexts (s : State) (l : Launch) : (s.setLaunch l).contexts = s.contexts := rfl
@[simp] theorem State.setLaunch_cores (s : State) (l : Launch) : (s.setLaunch l).cores = s.cores := rfl
@[simp] theorem State.setLaunch_memory (s : State) (l : Launch) : (s.setLaunch l).memory = s.memory := rfl
@[simp] theorem State.setLaunch_commands (s : State) (l : Launch) : (s.setLaunch l).commands = s.commands := rfl
@[simp] theorem State.setLaunch_ghosts (s : State) (l : Launch) : (s.setLaunch l).ghosts = s.ghosts := rfl
@[simp] theorem State.setLaunch_requests (s : State) (l : Launch) : (s.setLaunch l).requests = s.requests := rfl
@[simp] theorem State.setLaunch_departures (s : State) (l : Launch) : (s.setLaunch l).departures = s.departures := rfl
@[simp] theorem State.setLaunch_grants (s : State) (l : Launch) : (s.setLaunch l).grants = s.grants := rfl
@[simp] theorem State.setLaunch_throttled (s : State) (l : Launch) : (s.setLaunch l).throttled = s.throttled := rfl
@[simp] theorem State.setLaunch_bar0 (s : State) (l : Launch) : (s.setLaunch l).bar0 = s.bar0 := rfl
@[simp] theorem State.setLaunch_nextCore (s : State) (l : Launch) : (s.setLaunch l).nextCore = s.nextCore := rfl
@[simp] theorem State.setLaunch_tick (s : State) (l : Launch) : (s.setLaunch l).tick = s.tick := rfl
@[simp] theorem State.setLaunch_power (s : State) (l : Launch) : (s.setLaunch l).power = s.power := rfl
@[simp] theorem State.setLaunch_fusedMinimum (s : State) (l : Launch) : (s.setLaunch l).fusedMinimum = s.fusedMinimum := rfl
@[simp] theorem State.setLaunch_flash (s : State) (l : Launch) : (s.setLaunch l).flash = s.flash := rfl
@[simp] theorem State.setLaunch_link (s : State) (l : Launch) : (s.setLaunch l).link = s.link := rfl
@[simp] theorem State.setLaunch_peers (s : State) (l : Launch) : (s.setLaunch l).peers = s.peers := rfl
@[simp] theorem State.setLaunch_images (s : State) (l : Launch) : (s.setLaunch l).images = s.images := rfl
@[simp] theorem State.setLaunch_checkpointStart (s : State) (l : Launch) : (s.setLaunch l).checkpointStart = s.checkpointStart := rfl
@[simp] theorem State.setLaunch_nextBid (s : State) (l : Launch) : (s.setLaunch l).nextBid = s.nextBid := rfl
@[simp] theorem State.setLaunch_nextId (s : State) (l : Launch) : (s.setLaunch l).nextId = s.nextId := rfl
@[simp] theorem State.setLaunch_agenda (s : State) (l : Launch) : (s.setLaunch l).agenda = s.agenda := rfl
@[simp] theorem State.setLaunch_event (s : State) (l : Launch) : (s.setLaunch l).event = s.event := rfl
@[simp] theorem State.setLaunch_issuer (s : State) (l : Launch) : (s.setLaunch l).issuer = s.issuer := rfl
@[simp] theorem State.setLaunch_fetched (s : State) (l : Launch) : (s.setLaunch l).fetched = s.fetched := rfl
@[simp] theorem State.setLaunch_stalled (s : State) (l : Launch) : (s.setLaunch l).stalled = s.stalled := rfl
@[simp] theorem State.setLaunch_turn (s : State) (l : Launch) : (s.setLaunch l).turn = s.turn := rfl
@[simp] theorem State.setLaunch_lastPartition (s : State) (l : Launch) : (s.setLaunch l).lastPartition = s.lastPartition := rfl
@[simp] theorem State.setLaunch_freeIx (s : State) (l : Launch) : (s.setLaunch l).freeIx = s.freeIx := rfl

/-! ### State.mapLaunch -/

@[simp] theorem State.mapLaunch_groups (s : State) (n : Nat) (f : Launch → Launch) : (s.mapLaunch n f).groups = s.groups := rfl
@[simp] theorem State.mapLaunch_teams (s : State) (n : Nat) (f : Launch → Launch) : (s.mapLaunch n f).teams = s.teams := rfl
@[simp] theorem State.mapLaunch_queues (s : State) (n : Nat) (f : Launch → Launch) : (s.mapLaunch n f).queues = s.queues := rfl
@[simp] theorem State.mapLaunch_contexts (s : State) (n : Nat) (f : Launch → Launch) : (s.mapLaunch n f).contexts = s.contexts := rfl
@[simp] theorem State.mapLaunch_cores (s : State) (n : Nat) (f : Launch → Launch) : (s.mapLaunch n f).cores = s.cores := rfl
@[simp] theorem State.mapLaunch_memory (s : State) (n : Nat) (f : Launch → Launch) : (s.mapLaunch n f).memory = s.memory := rfl
@[simp] theorem State.mapLaunch_commands (s : State) (n : Nat) (f : Launch → Launch) : (s.mapLaunch n f).commands = s.commands := rfl
@[simp] theorem State.mapLaunch_ghosts (s : State) (n : Nat) (f : Launch → Launch) : (s.mapLaunch n f).ghosts = s.ghosts := rfl
@[simp] theorem State.mapLaunch_requests (s : State) (n : Nat) (f : Launch → Launch) : (s.mapLaunch n f).requests = s.requests := rfl
@[simp] theorem State.mapLaunch_departures (s : State) (n : Nat) (f : Launch → Launch) : (s.mapLaunch n f).departures = s.departures := rfl
@[simp] theorem State.mapLaunch_grants (s : State) (n : Nat) (f : Launch → Launch) : (s.mapLaunch n f).grants = s.grants := rfl
@[simp] theorem State.mapLaunch_throttled (s : State) (n : Nat) (f : Launch → Launch) : (s.mapLaunch n f).throttled = s.throttled := rfl
@[simp] theorem State.mapLaunch_bar0 (s : State) (n : Nat) (f : Launch → Launch) : (s.mapLaunch n f).bar0 = s.bar0 := rfl
@[simp] theorem State.mapLaunch_nextCore (s : State) (n : Nat) (f : Launch → Launch) : (s.mapLaunch n f).nextCore = s.nextCore := rfl
@[simp] theorem State.mapLaunch_tick (s : State) (n : Nat) (f : Launch → Launch) : (s.mapLaunch n f).tick = s.tick := rfl
@[simp] theorem State.mapLaunch_power (s : State) (n : Nat) (f : Launch → Launch) : (s.mapLaunch n f).power = s.power := rfl
@[simp] theorem State.mapLaunch_fusedMinimum (s : State) (n : Nat) (f : Launch → Launch) : (s.mapLaunch n f).fusedMinimum = s.fusedMinimum := rfl
@[simp] theorem State.mapLaunch_flash (s : State) (n : Nat) (f : Launch → Launch) : (s.mapLaunch n f).flash = s.flash := rfl
@[simp] theorem State.mapLaunch_link (s : State) (n : Nat) (f : Launch → Launch) : (s.mapLaunch n f).link = s.link := rfl
@[simp] theorem State.mapLaunch_peers (s : State) (n : Nat) (f : Launch → Launch) : (s.mapLaunch n f).peers = s.peers := rfl
@[simp] theorem State.mapLaunch_images (s : State) (n : Nat) (f : Launch → Launch) : (s.mapLaunch n f).images = s.images := rfl
@[simp] theorem State.mapLaunch_checkpointStart (s : State) (n : Nat) (f : Launch → Launch) : (s.mapLaunch n f).checkpointStart = s.checkpointStart := rfl
@[simp] theorem State.mapLaunch_nextBid (s : State) (n : Nat) (f : Launch → Launch) : (s.mapLaunch n f).nextBid = s.nextBid := rfl
@[simp] theorem State.mapLaunch_nextId (s : State) (n : Nat) (f : Launch → Launch) : (s.mapLaunch n f).nextId = s.nextId := rfl
@[simp] theorem State.mapLaunch_agenda (s : State) (n : Nat) (f : Launch → Launch) : (s.mapLaunch n f).agenda = s.agenda := rfl
@[simp] theorem State.mapLaunch_event (s : State) (n : Nat) (f : Launch → Launch) : (s.mapLaunch n f).event = s.event := rfl
@[simp] theorem State.mapLaunch_issuer (s : State) (n : Nat) (f : Launch → Launch) : (s.mapLaunch n f).issuer = s.issuer := rfl
@[simp] theorem State.mapLaunch_fetched (s : State) (n : Nat) (f : Launch → Launch) : (s.mapLaunch n f).fetched = s.fetched := rfl
@[simp] theorem State.mapLaunch_stalled (s : State) (n : Nat) (f : Launch → Launch) : (s.mapLaunch n f).stalled = s.stalled := rfl
@[simp] theorem State.mapLaunch_turn (s : State) (n : Nat) (f : Launch → Launch) : (s.mapLaunch n f).turn = s.turn := rfl
@[simp] theorem State.mapLaunch_lastPartition (s : State) (n : Nat) (f : Launch → Launch) : (s.mapLaunch n f).lastPartition = s.lastPartition := rfl
@[simp] theorem State.mapLaunch_freeIx (s : State) (n : Nat) (f : Launch → Launch) : (s.mapLaunch n f).freeIx = s.freeIx := rfl

/-! ### State.mapTeam -/

@[simp] theorem State.mapTeam_groups (s : State) (n : Nat) (f : Team → Team) : (s.mapTeam n f).groups = s.groups := rfl
@[simp] theorem State.mapTeam_launches (s : State) (n : Nat) (f : Team → Team) : (s.mapTeam n f).launches = s.launches := rfl
@[simp] theorem State.mapTeam_queues (s : State) (n : Nat) (f : Team → Team) : (s.mapTeam n f).queues = s.queues := rfl
@[simp] theorem State.mapTeam_contexts (s : State) (n : Nat) (f : Team → Team) : (s.mapTeam n f).contexts = s.contexts := rfl
@[simp] theorem State.mapTeam_cores (s : State) (n : Nat) (f : Team → Team) : (s.mapTeam n f).cores = s.cores := rfl
@[simp] theorem State.mapTeam_memory (s : State) (n : Nat) (f : Team → Team) : (s.mapTeam n f).memory = s.memory := rfl
@[simp] theorem State.mapTeam_commands (s : State) (n : Nat) (f : Team → Team) : (s.mapTeam n f).commands = s.commands := rfl
@[simp] theorem State.mapTeam_ghosts (s : State) (n : Nat) (f : Team → Team) : (s.mapTeam n f).ghosts = s.ghosts := rfl
@[simp] theorem State.mapTeam_requests (s : State) (n : Nat) (f : Team → Team) : (s.mapTeam n f).requests = s.requests := rfl
@[simp] theorem State.mapTeam_departures (s : State) (n : Nat) (f : Team → Team) : (s.mapTeam n f).departures = s.departures := rfl
@[simp] theorem State.mapTeam_grants (s : State) (n : Nat) (f : Team → Team) : (s.mapTeam n f).grants = s.grants := rfl
@[simp] theorem State.mapTeam_throttled (s : State) (n : Nat) (f : Team → Team) : (s.mapTeam n f).throttled = s.throttled := rfl
@[simp] theorem State.mapTeam_bar0 (s : State) (n : Nat) (f : Team → Team) : (s.mapTeam n f).bar0 = s.bar0 := rfl
@[simp] theorem State.mapTeam_nextCore (s : State) (n : Nat) (f : Team → Team) : (s.mapTeam n f).nextCore = s.nextCore := rfl
@[simp] theorem State.mapTeam_tick (s : State) (n : Nat) (f : Team → Team) : (s.mapTeam n f).tick = s.tick := rfl
@[simp] theorem State.mapTeam_power (s : State) (n : Nat) (f : Team → Team) : (s.mapTeam n f).power = s.power := rfl
@[simp] theorem State.mapTeam_fusedMinimum (s : State) (n : Nat) (f : Team → Team) : (s.mapTeam n f).fusedMinimum = s.fusedMinimum := rfl
@[simp] theorem State.mapTeam_flash (s : State) (n : Nat) (f : Team → Team) : (s.mapTeam n f).flash = s.flash := rfl
@[simp] theorem State.mapTeam_link (s : State) (n : Nat) (f : Team → Team) : (s.mapTeam n f).link = s.link := rfl
@[simp] theorem State.mapTeam_peers (s : State) (n : Nat) (f : Team → Team) : (s.mapTeam n f).peers = s.peers := rfl
@[simp] theorem State.mapTeam_images (s : State) (n : Nat) (f : Team → Team) : (s.mapTeam n f).images = s.images := rfl
@[simp] theorem State.mapTeam_checkpointStart (s : State) (n : Nat) (f : Team → Team) : (s.mapTeam n f).checkpointStart = s.checkpointStart := rfl
@[simp] theorem State.mapTeam_nextBid (s : State) (n : Nat) (f : Team → Team) : (s.mapTeam n f).nextBid = s.nextBid := rfl
@[simp] theorem State.mapTeam_nextId (s : State) (n : Nat) (f : Team → Team) : (s.mapTeam n f).nextId = s.nextId := rfl
@[simp] theorem State.mapTeam_agenda (s : State) (n : Nat) (f : Team → Team) : (s.mapTeam n f).agenda = s.agenda := rfl
@[simp] theorem State.mapTeam_event (s : State) (n : Nat) (f : Team → Team) : (s.mapTeam n f).event = s.event := rfl
@[simp] theorem State.mapTeam_issuer (s : State) (n : Nat) (f : Team → Team) : (s.mapTeam n f).issuer = s.issuer := rfl
@[simp] theorem State.mapTeam_fetched (s : State) (n : Nat) (f : Team → Team) : (s.mapTeam n f).fetched = s.fetched := rfl
@[simp] theorem State.mapTeam_stalled (s : State) (n : Nat) (f : Team → Team) : (s.mapTeam n f).stalled = s.stalled := rfl
@[simp] theorem State.mapTeam_turn (s : State) (n : Nat) (f : Team → Team) : (s.mapTeam n f).turn = s.turn := rfl
@[simp] theorem State.mapTeam_lastPartition (s : State) (n : Nat) (f : Team → Team) : (s.mapTeam n f).lastPartition = s.lastPartition := rfl
@[simp] theorem State.mapTeam_freeIx (s : State) (n : Nat) (f : Team → Team) : (s.mapTeam n f).freeIx = s.freeIx := rfl

/-! ### State.setCore -/

@[simp] theorem State.setCore_groups (s : State) (k : Nat) (c : Core) : (s.setCore k c).groups = s.groups := rfl
@[simp] theorem State.setCore_teams (s : State) (k : Nat) (c : Core) : (s.setCore k c).teams = s.teams := rfl
@[simp] theorem State.setCore_launches (s : State) (k : Nat) (c : Core) : (s.setCore k c).launches = s.launches := rfl
@[simp] theorem State.setCore_queues (s : State) (k : Nat) (c : Core) : (s.setCore k c).queues = s.queues := rfl
@[simp] theorem State.setCore_contexts (s : State) (k : Nat) (c : Core) : (s.setCore k c).contexts = s.contexts := rfl
@[simp] theorem State.setCore_memory (s : State) (k : Nat) (c : Core) : (s.setCore k c).memory = s.memory := rfl
@[simp] theorem State.setCore_commands (s : State) (k : Nat) (c : Core) : (s.setCore k c).commands = s.commands := rfl
@[simp] theorem State.setCore_ghosts (s : State) (k : Nat) (c : Core) : (s.setCore k c).ghosts = s.ghosts := rfl
@[simp] theorem State.setCore_requests (s : State) (k : Nat) (c : Core) : (s.setCore k c).requests = s.requests := rfl
@[simp] theorem State.setCore_departures (s : State) (k : Nat) (c : Core) : (s.setCore k c).departures = s.departures := rfl
@[simp] theorem State.setCore_grants (s : State) (k : Nat) (c : Core) : (s.setCore k c).grants = s.grants := rfl
@[simp] theorem State.setCore_throttled (s : State) (k : Nat) (c : Core) : (s.setCore k c).throttled = s.throttled := rfl
@[simp] theorem State.setCore_bar0 (s : State) (k : Nat) (c : Core) : (s.setCore k c).bar0 = s.bar0 := rfl
@[simp] theorem State.setCore_nextCore (s : State) (k : Nat) (c : Core) : (s.setCore k c).nextCore = s.nextCore := rfl
@[simp] theorem State.setCore_tick (s : State) (k : Nat) (c : Core) : (s.setCore k c).tick = s.tick := rfl
@[simp] theorem State.setCore_power (s : State) (k : Nat) (c : Core) : (s.setCore k c).power = s.power := rfl
@[simp] theorem State.setCore_fusedMinimum (s : State) (k : Nat) (c : Core) : (s.setCore k c).fusedMinimum = s.fusedMinimum := rfl
@[simp] theorem State.setCore_flash (s : State) (k : Nat) (c : Core) : (s.setCore k c).flash = s.flash := rfl
@[simp] theorem State.setCore_link (s : State) (k : Nat) (c : Core) : (s.setCore k c).link = s.link := rfl
@[simp] theorem State.setCore_peers (s : State) (k : Nat) (c : Core) : (s.setCore k c).peers = s.peers := rfl
@[simp] theorem State.setCore_images (s : State) (k : Nat) (c : Core) : (s.setCore k c).images = s.images := rfl
@[simp] theorem State.setCore_checkpointStart (s : State) (k : Nat) (c : Core) : (s.setCore k c).checkpointStart = s.checkpointStart := rfl
@[simp] theorem State.setCore_nextBid (s : State) (k : Nat) (c : Core) : (s.setCore k c).nextBid = s.nextBid := rfl
@[simp] theorem State.setCore_nextId (s : State) (k : Nat) (c : Core) : (s.setCore k c).nextId = s.nextId := rfl
@[simp] theorem State.setCore_agenda (s : State) (k : Nat) (c : Core) : (s.setCore k c).agenda = s.agenda := rfl
@[simp] theorem State.setCore_event (s : State) (k : Nat) (c : Core) : (s.setCore k c).event = s.event := rfl
@[simp] theorem State.setCore_issuer (s : State) (k : Nat) (c : Core) : (s.setCore k c).issuer = s.issuer := rfl
@[simp] theorem State.setCore_fetched (s : State) (k : Nat) (c : Core) : (s.setCore k c).fetched = s.fetched := rfl
@[simp] theorem State.setCore_stalled (s : State) (k : Nat) (c : Core) : (s.setCore k c).stalled = s.stalled := rfl
@[simp] theorem State.setCore_turn (s : State) (k : Nat) (c : Core) : (s.setCore k c).turn = s.turn := rfl
@[simp] theorem State.setCore_lastPartition (s : State) (k : Nat) (c : Core) : (s.setCore k c).lastPartition = s.lastPartition := rfl
@[simp] theorem State.setCore_freeIx (s : State) (k : Nat) (c : Core) : (s.setCore k c).freeIx = s.freeIx := rfl

/-! ### State.setContext -/

@[simp] theorem State.setContext_groups (s : State) (c : Nat) (y : Context) : (s.setContext c y).groups = s.groups := rfl
@[simp] theorem State.setContext_teams (s : State) (c : Nat) (y : Context) : (s.setContext c y).teams = s.teams := rfl
@[simp] theorem State.setContext_launches (s : State) (c : Nat) (y : Context) : (s.setContext c y).launches = s.launches := rfl
@[simp] theorem State.setContext_queues (s : State) (c : Nat) (y : Context) : (s.setContext c y).queues = s.queues := rfl
@[simp] theorem State.setContext_cores (s : State) (c : Nat) (y : Context) : (s.setContext c y).cores = s.cores := rfl
@[simp] theorem State.setContext_memory (s : State) (c : Nat) (y : Context) : (s.setContext c y).memory = s.memory := rfl
@[simp] theorem State.setContext_commands (s : State) (c : Nat) (y : Context) : (s.setContext c y).commands = s.commands := rfl
@[simp] theorem State.setContext_ghosts (s : State) (c : Nat) (y : Context) : (s.setContext c y).ghosts = s.ghosts := rfl
@[simp] theorem State.setContext_requests (s : State) (c : Nat) (y : Context) : (s.setContext c y).requests = s.requests := rfl
@[simp] theorem State.setContext_departures (s : State) (c : Nat) (y : Context) : (s.setContext c y).departures = s.departures := rfl
@[simp] theorem State.setContext_grants (s : State) (c : Nat) (y : Context) : (s.setContext c y).grants = s.grants := rfl
@[simp] theorem State.setContext_throttled (s : State) (c : Nat) (y : Context) : (s.setContext c y).throttled = s.throttled := rfl
@[simp] theorem State.setContext_bar0 (s : State) (c : Nat) (y : Context) : (s.setContext c y).bar0 = s.bar0 := rfl
@[simp] theorem State.setContext_nextCore (s : State) (c : Nat) (y : Context) : (s.setContext c y).nextCore = s.nextCore := rfl
@[simp] theorem State.setContext_tick (s : State) (c : Nat) (y : Context) : (s.setContext c y).tick = s.tick := rfl
@[simp] theorem State.setContext_power (s : State) (c : Nat) (y : Context) : (s.setContext c y).power = s.power := rfl
@[simp] theorem State.setContext_fusedMinimum (s : State) (c : Nat) (y : Context) : (s.setContext c y).fusedMinimum = s.fusedMinimum := rfl
@[simp] theorem State.setContext_flash (s : State) (c : Nat) (y : Context) : (s.setContext c y).flash = s.flash := rfl
@[simp] theorem State.setContext_link (s : State) (c : Nat) (y : Context) : (s.setContext c y).link = s.link := rfl
@[simp] theorem State.setContext_peers (s : State) (c : Nat) (y : Context) : (s.setContext c y).peers = s.peers := rfl
@[simp] theorem State.setContext_images (s : State) (c : Nat) (y : Context) : (s.setContext c y).images = s.images := rfl
@[simp] theorem State.setContext_checkpointStart (s : State) (c : Nat) (y : Context) : (s.setContext c y).checkpointStart = s.checkpointStart := rfl
@[simp] theorem State.setContext_nextBid (s : State) (c : Nat) (y : Context) : (s.setContext c y).nextBid = s.nextBid := rfl
@[simp] theorem State.setContext_nextId (s : State) (c : Nat) (y : Context) : (s.setContext c y).nextId = s.nextId := rfl
@[simp] theorem State.setContext_agenda (s : State) (c : Nat) (y : Context) : (s.setContext c y).agenda = s.agenda := rfl
@[simp] theorem State.setContext_event (s : State) (c : Nat) (y : Context) : (s.setContext c y).event = s.event := rfl
@[simp] theorem State.setContext_issuer (s : State) (c : Nat) (y : Context) : (s.setContext c y).issuer = s.issuer := rfl
@[simp] theorem State.setContext_fetched (s : State) (c : Nat) (y : Context) : (s.setContext c y).fetched = s.fetched := rfl
@[simp] theorem State.setContext_stalled (s : State) (c : Nat) (y : Context) : (s.setContext c y).stalled = s.stalled := rfl
@[simp] theorem State.setContext_turn (s : State) (c : Nat) (y : Context) : (s.setContext c y).turn = s.turn := rfl
@[simp] theorem State.setContext_lastPartition (s : State) (c : Nat) (y : Context) : (s.setContext c y).lastPartition = s.lastPartition := rfl
@[simp] theorem State.setContext_freeIx (s : State) (c : Nat) (y : Context) : (s.setContext c y).freeIx = s.freeIx := rfl

/-! ### State.setSys -/

@[simp] theorem State.setSys_groups (s : State) (c n : Nat) (y : BitVec 64) : (s.setSys c n y).groups = s.groups := rfl
@[simp] theorem State.setSys_teams (s : State) (c n : Nat) (y : BitVec 64) : (s.setSys c n y).teams = s.teams := rfl
@[simp] theorem State.setSys_launches (s : State) (c n : Nat) (y : BitVec 64) : (s.setSys c n y).launches = s.launches := rfl
@[simp] theorem State.setSys_queues (s : State) (c n : Nat) (y : BitVec 64) : (s.setSys c n y).queues = s.queues := rfl
@[simp] theorem State.setSys_cores (s : State) (c n : Nat) (y : BitVec 64) : (s.setSys c n y).cores = s.cores := rfl
@[simp] theorem State.setSys_memory (s : State) (c n : Nat) (y : BitVec 64) : (s.setSys c n y).memory = s.memory := rfl
@[simp] theorem State.setSys_commands (s : State) (c n : Nat) (y : BitVec 64) : (s.setSys c n y).commands = s.commands := rfl
@[simp] theorem State.setSys_ghosts (s : State) (c n : Nat) (y : BitVec 64) : (s.setSys c n y).ghosts = s.ghosts := rfl
@[simp] theorem State.setSys_requests (s : State) (c n : Nat) (y : BitVec 64) : (s.setSys c n y).requests = s.requests := rfl
@[simp] theorem State.setSys_departures (s : State) (c n : Nat) (y : BitVec 64) : (s.setSys c n y).departures = s.departures := rfl
@[simp] theorem State.setSys_grants (s : State) (c n : Nat) (y : BitVec 64) : (s.setSys c n y).grants = s.grants := rfl
@[simp] theorem State.setSys_throttled (s : State) (c n : Nat) (y : BitVec 64) : (s.setSys c n y).throttled = s.throttled := rfl
@[simp] theorem State.setSys_bar0 (s : State) (c n : Nat) (y : BitVec 64) : (s.setSys c n y).bar0 = s.bar0 := rfl
@[simp] theorem State.setSys_nextCore (s : State) (c n : Nat) (y : BitVec 64) : (s.setSys c n y).nextCore = s.nextCore := rfl
@[simp] theorem State.setSys_tick (s : State) (c n : Nat) (y : BitVec 64) : (s.setSys c n y).tick = s.tick := rfl
@[simp] theorem State.setSys_power (s : State) (c n : Nat) (y : BitVec 64) : (s.setSys c n y).power = s.power := rfl
@[simp] theorem State.setSys_fusedMinimum (s : State) (c n : Nat) (y : BitVec 64) : (s.setSys c n y).fusedMinimum = s.fusedMinimum := rfl
@[simp] theorem State.setSys_flash (s : State) (c n : Nat) (y : BitVec 64) : (s.setSys c n y).flash = s.flash := rfl
@[simp] theorem State.setSys_link (s : State) (c n : Nat) (y : BitVec 64) : (s.setSys c n y).link = s.link := rfl
@[simp] theorem State.setSys_peers (s : State) (c n : Nat) (y : BitVec 64) : (s.setSys c n y).peers = s.peers := rfl
@[simp] theorem State.setSys_images (s : State) (c n : Nat) (y : BitVec 64) : (s.setSys c n y).images = s.images := rfl
@[simp] theorem State.setSys_checkpointStart (s : State) (c n : Nat) (y : BitVec 64) : (s.setSys c n y).checkpointStart = s.checkpointStart := rfl
@[simp] theorem State.setSys_nextBid (s : State) (c n : Nat) (y : BitVec 64) : (s.setSys c n y).nextBid = s.nextBid := rfl
@[simp] theorem State.setSys_nextId (s : State) (c n : Nat) (y : BitVec 64) : (s.setSys c n y).nextId = s.nextId := rfl
@[simp] theorem State.setSys_agenda (s : State) (c n : Nat) (y : BitVec 64) : (s.setSys c n y).agenda = s.agenda := rfl
@[simp] theorem State.setSys_event (s : State) (c n : Nat) (y : BitVec 64) : (s.setSys c n y).event = s.event := rfl
@[simp] theorem State.setSys_issuer (s : State) (c n : Nat) (y : BitVec 64) : (s.setSys c n y).issuer = s.issuer := rfl
@[simp] theorem State.setSys_fetched (s : State) (c n : Nat) (y : BitVec 64) : (s.setSys c n y).fetched = s.fetched := rfl
@[simp] theorem State.setSys_stalled (s : State) (c n : Nat) (y : BitVec 64) : (s.setSys c n y).stalled = s.stalled := rfl
@[simp] theorem State.setSys_turn (s : State) (c n : Nat) (y : BitVec 64) : (s.setSys c n y).turn = s.turn := rfl
@[simp] theorem State.setSys_lastPartition (s : State) (c n : Nat) (y : BitVec 64) : (s.setSys c n y).lastPartition = s.lastPartition := rfl
@[simp] theorem State.setSys_freeIx (s : State) (c n : Nat) (y : BitVec 64) : (s.setSys c n y).freeIx = s.freeIx := rfl

/-! ### State.setBar -/

@[simp] theorem State.setBar_groups (s : State) (o : Nat) (y : BitVec 64) : (s.setBar o y).groups = s.groups := rfl
@[simp] theorem State.setBar_teams (s : State) (o : Nat) (y : BitVec 64) : (s.setBar o y).teams = s.teams := rfl
@[simp] theorem State.setBar_launches (s : State) (o : Nat) (y : BitVec 64) : (s.setBar o y).launches = s.launches := rfl
@[simp] theorem State.setBar_queues (s : State) (o : Nat) (y : BitVec 64) : (s.setBar o y).queues = s.queues := rfl
@[simp] theorem State.setBar_contexts (s : State) (o : Nat) (y : BitVec 64) : (s.setBar o y).contexts = s.contexts := rfl
@[simp] theorem State.setBar_cores (s : State) (o : Nat) (y : BitVec 64) : (s.setBar o y).cores = s.cores := rfl
@[simp] theorem State.setBar_memory (s : State) (o : Nat) (y : BitVec 64) : (s.setBar o y).memory = s.memory := rfl
@[simp] theorem State.setBar_commands (s : State) (o : Nat) (y : BitVec 64) : (s.setBar o y).commands = s.commands := rfl
@[simp] theorem State.setBar_ghosts (s : State) (o : Nat) (y : BitVec 64) : (s.setBar o y).ghosts = s.ghosts := rfl
@[simp] theorem State.setBar_requests (s : State) (o : Nat) (y : BitVec 64) : (s.setBar o y).requests = s.requests := rfl
@[simp] theorem State.setBar_departures (s : State) (o : Nat) (y : BitVec 64) : (s.setBar o y).departures = s.departures := rfl
@[simp] theorem State.setBar_grants (s : State) (o : Nat) (y : BitVec 64) : (s.setBar o y).grants = s.grants := rfl
@[simp] theorem State.setBar_throttled (s : State) (o : Nat) (y : BitVec 64) : (s.setBar o y).throttled = s.throttled := rfl
@[simp] theorem State.setBar_nextCore (s : State) (o : Nat) (y : BitVec 64) : (s.setBar o y).nextCore = s.nextCore := rfl
@[simp] theorem State.setBar_tick (s : State) (o : Nat) (y : BitVec 64) : (s.setBar o y).tick = s.tick := rfl
@[simp] theorem State.setBar_power (s : State) (o : Nat) (y : BitVec 64) : (s.setBar o y).power = s.power := rfl
@[simp] theorem State.setBar_fusedMinimum (s : State) (o : Nat) (y : BitVec 64) : (s.setBar o y).fusedMinimum = s.fusedMinimum := rfl
@[simp] theorem State.setBar_flash (s : State) (o : Nat) (y : BitVec 64) : (s.setBar o y).flash = s.flash := rfl
@[simp] theorem State.setBar_link (s : State) (o : Nat) (y : BitVec 64) : (s.setBar o y).link = s.link := rfl
@[simp] theorem State.setBar_peers (s : State) (o : Nat) (y : BitVec 64) : (s.setBar o y).peers = s.peers := rfl
@[simp] theorem State.setBar_images (s : State) (o : Nat) (y : BitVec 64) : (s.setBar o y).images = s.images := rfl
@[simp] theorem State.setBar_checkpointStart (s : State) (o : Nat) (y : BitVec 64) : (s.setBar o y).checkpointStart = s.checkpointStart := rfl
@[simp] theorem State.setBar_nextBid (s : State) (o : Nat) (y : BitVec 64) : (s.setBar o y).nextBid = s.nextBid := rfl
@[simp] theorem State.setBar_nextId (s : State) (o : Nat) (y : BitVec 64) : (s.setBar o y).nextId = s.nextId := rfl
@[simp] theorem State.setBar_agenda (s : State) (o : Nat) (y : BitVec 64) : (s.setBar o y).agenda = s.agenda := rfl
@[simp] theorem State.setBar_event (s : State) (o : Nat) (y : BitVec 64) : (s.setBar o y).event = s.event := rfl
@[simp] theorem State.setBar_issuer (s : State) (o : Nat) (y : BitVec 64) : (s.setBar o y).issuer = s.issuer := rfl
@[simp] theorem State.setBar_fetched (s : State) (o : Nat) (y : BitVec 64) : (s.setBar o y).fetched = s.fetched := rfl
@[simp] theorem State.setBar_stalled (s : State) (o : Nat) (y : BitVec 64) : (s.setBar o y).stalled = s.stalled := rfl
@[simp] theorem State.setBar_turn (s : State) (o : Nat) (y : BitVec 64) : (s.setBar o y).turn = s.turn := rfl
@[simp] theorem State.setBar_lastPartition (s : State) (o : Nat) (y : BitVec 64) : (s.setBar o y).lastPartition = s.lastPartition := rfl
@[simp] theorem State.setBar_freeIx (s : State) (o : Nat) (y : BitVec 64) : (s.setBar o y).freeIx = s.freeIx := rfl

/-! ### State.notify -/

@[simp] theorem State.notify_teams (s : State) (us : List Unit128) (tag : BitVec 64) (own : Option OwnAccess) : (s.notify us tag own).teams = s.teams := rfl
@[simp] theorem State.notify_launches (s : State) (us : List Unit128) (tag : BitVec 64) (own : Option OwnAccess) : (s.notify us tag own).launches = s.launches := rfl
@[simp] theorem State.notify_queues (s : State) (us : List Unit128) (tag : BitVec 64) (own : Option OwnAccess) : (s.notify us tag own).queues = s.queues := rfl
@[simp] theorem State.notify_contexts (s : State) (us : List Unit128) (tag : BitVec 64) (own : Option OwnAccess) : (s.notify us tag own).contexts = s.contexts := rfl
@[simp] theorem State.notify_cores (s : State) (us : List Unit128) (tag : BitVec 64) (own : Option OwnAccess) : (s.notify us tag own).cores = s.cores := rfl
@[simp] theorem State.notify_memory (s : State) (us : List Unit128) (tag : BitVec 64) (own : Option OwnAccess) : (s.notify us tag own).memory = s.memory := rfl
@[simp] theorem State.notify_commands (s : State) (us : List Unit128) (tag : BitVec 64) (own : Option OwnAccess) : (s.notify us tag own).commands = s.commands := rfl
@[simp] theorem State.notify_ghosts (s : State) (us : List Unit128) (tag : BitVec 64) (own : Option OwnAccess) : (s.notify us tag own).ghosts = s.ghosts := rfl
@[simp] theorem State.notify_requests (s : State) (us : List Unit128) (tag : BitVec 64) (own : Option OwnAccess) : (s.notify us tag own).requests = s.requests := rfl
@[simp] theorem State.notify_departures (s : State) (us : List Unit128) (tag : BitVec 64) (own : Option OwnAccess) : (s.notify us tag own).departures = s.departures := rfl
@[simp] theorem State.notify_grants (s : State) (us : List Unit128) (tag : BitVec 64) (own : Option OwnAccess) : (s.notify us tag own).grants = s.grants := rfl
@[simp] theorem State.notify_throttled (s : State) (us : List Unit128) (tag : BitVec 64) (own : Option OwnAccess) : (s.notify us tag own).throttled = s.throttled := rfl
@[simp] theorem State.notify_bar0 (s : State) (us : List Unit128) (tag : BitVec 64) (own : Option OwnAccess) : (s.notify us tag own).bar0 = s.bar0 := rfl
@[simp] theorem State.notify_nextCore (s : State) (us : List Unit128) (tag : BitVec 64) (own : Option OwnAccess) : (s.notify us tag own).nextCore = s.nextCore := rfl
@[simp] theorem State.notify_tick (s : State) (us : List Unit128) (tag : BitVec 64) (own : Option OwnAccess) : (s.notify us tag own).tick = s.tick := rfl
@[simp] theorem State.notify_power (s : State) (us : List Unit128) (tag : BitVec 64) (own : Option OwnAccess) : (s.notify us tag own).power = s.power := rfl
@[simp] theorem State.notify_fusedMinimum (s : State) (us : List Unit128) (tag : BitVec 64) (own : Option OwnAccess) : (s.notify us tag own).fusedMinimum = s.fusedMinimum := rfl
@[simp] theorem State.notify_flash (s : State) (us : List Unit128) (tag : BitVec 64) (own : Option OwnAccess) : (s.notify us tag own).flash = s.flash := rfl
@[simp] theorem State.notify_link (s : State) (us : List Unit128) (tag : BitVec 64) (own : Option OwnAccess) : (s.notify us tag own).link = s.link := rfl
@[simp] theorem State.notify_peers (s : State) (us : List Unit128) (tag : BitVec 64) (own : Option OwnAccess) : (s.notify us tag own).peers = s.peers := rfl
@[simp] theorem State.notify_images (s : State) (us : List Unit128) (tag : BitVec 64) (own : Option OwnAccess) : (s.notify us tag own).images = s.images := rfl
@[simp] theorem State.notify_checkpointStart (s : State) (us : List Unit128) (tag : BitVec 64) (own : Option OwnAccess) : (s.notify us tag own).checkpointStart = s.checkpointStart := rfl
@[simp] theorem State.notify_nextBid (s : State) (us : List Unit128) (tag : BitVec 64) (own : Option OwnAccess) : (s.notify us tag own).nextBid = s.nextBid := rfl
@[simp] theorem State.notify_nextId (s : State) (us : List Unit128) (tag : BitVec 64) (own : Option OwnAccess) : (s.notify us tag own).nextId = s.nextId := rfl
@[simp] theorem State.notify_agenda (s : State) (us : List Unit128) (tag : BitVec 64) (own : Option OwnAccess) : (s.notify us tag own).agenda = s.agenda := rfl
@[simp] theorem State.notify_event (s : State) (us : List Unit128) (tag : BitVec 64) (own : Option OwnAccess) : (s.notify us tag own).event = s.event := rfl
@[simp] theorem State.notify_issuer (s : State) (us : List Unit128) (tag : BitVec 64) (own : Option OwnAccess) : (s.notify us tag own).issuer = s.issuer := rfl
@[simp] theorem State.notify_fetched (s : State) (us : List Unit128) (tag : BitVec 64) (own : Option OwnAccess) : (s.notify us tag own).fetched = s.fetched := rfl
@[simp] theorem State.notify_stalled (s : State) (us : List Unit128) (tag : BitVec 64) (own : Option OwnAccess) : (s.notify us tag own).stalled = s.stalled := rfl
@[simp] theorem State.notify_turn (s : State) (us : List Unit128) (tag : BitVec 64) (own : Option OwnAccess) : (s.notify us tag own).turn = s.turn := rfl
@[simp] theorem State.notify_lastPartition (s : State) (us : List Unit128) (tag : BitVec 64) (own : Option OwnAccess) : (s.notify us tag own).lastPartition = s.lastPartition := rfl
@[simp] theorem State.notify_freeIx (s : State) (us : List Unit128) (tag : BitVec 64) (own : Option OwnAccess) : (s.notify us tag own).freeIx = s.freeIx := rfl

/-! ### Arch.setV -/

@[simp] theorem Arch.setV_s (a : Arch) (n i : Nat) (y : Word) : (a.setV n i y).s = a.s := rfl
@[simp] theorem Arch.setV_p (a : Arch) (n i : Nat) (y : Word) : (a.setV n i y).p = a.p := rfl
@[simp] theorem Arch.setV_fl (a : Arch) (n i : Nat) (y : Word) : (a.setV n i y).fl = a.fl := rfl
@[simp] theorem Arch.setV_t (a : Arch) (n i : Nat) (y : Word) : (a.setV n i y).t = a.t := rfl
@[simp] theorem Arch.setV_tw (a : Arch) (n i : Nat) (y : Word) : (a.setV n i y).tw = a.tw := rfl
@[simp] theorem Arch.setV_sseq (a : Arch) (n i : Nat) (y : Word) : (a.setV n i y).sseq = a.sseq := rfl
@[simp] theorem Arch.setV_frontier (a : Arch) (n i : Nat) (y : Word) : (a.setV n i y).frontier = a.frontier := rfl
@[simp] theorem Arch.setV_aging (a : Arch) (n i : Nat) (y : Word) : (a.setV n i y).aging = a.aging := rfl
@[simp] theorem Arch.setV_aged (a : Arch) (n i : Nat) (y : Word) : (a.setV n i y).aged = a.aged := rfl
@[simp] theorem Arch.setV_run (a : Arch) (n i : Nat) (y : Word) : (a.setV n i y).run = a.run := rfl
@[simp] theorem Arch.setV_returns (a : Arch) (n i : Nat) (y : Word) : (a.setV n i y).returns = a.returns := rfl
@[simp] theorem Arch.setV_pending (a : Arch) (n i : Nat) (y : Word) : (a.setV n i y).pending = a.pending := rfl
@[simp] theorem Arch.setV_tPoison (a : Arch) (n i : Nat) (y : Word) : (a.setV n i y).tPoison = a.tPoison := rfl

/-! ### Arch.setS -/

@[simp] theorem Arch.setS_v (a : Arch) (n : Nat) (y : Word) : (a.setS n y).v = a.v := rfl
@[simp] theorem Arch.setS_p (a : Arch) (n : Nat) (y : Word) : (a.setS n y).p = a.p := rfl
@[simp] theorem Arch.setS_fl (a : Arch) (n : Nat) (y : Word) : (a.setS n y).fl = a.fl := rfl
@[simp] theorem Arch.setS_t (a : Arch) (n : Nat) (y : Word) : (a.setS n y).t = a.t := rfl
@[simp] theorem Arch.setS_tw (a : Arch) (n : Nat) (y : Word) : (a.setS n y).tw = a.tw := rfl
@[simp] theorem Arch.setS_sseq (a : Arch) (n : Nat) (y : Word) : (a.setS n y).sseq = a.sseq := rfl
@[simp] theorem Arch.setS_frontier (a : Arch) (n : Nat) (y : Word) : (a.setS n y).frontier = a.frontier := rfl
@[simp] theorem Arch.setS_aging (a : Arch) (n : Nat) (y : Word) : (a.setS n y).aging = a.aging := rfl
@[simp] theorem Arch.setS_aged (a : Arch) (n : Nat) (y : Word) : (a.setS n y).aged = a.aged := rfl
@[simp] theorem Arch.setS_run (a : Arch) (n : Nat) (y : Word) : (a.setS n y).run = a.run := rfl
@[simp] theorem Arch.setS_returns (a : Arch) (n : Nat) (y : Word) : (a.setS n y).returns = a.returns := rfl
@[simp] theorem Arch.setS_pending (a : Arch) (n : Nat) (y : Word) : (a.setS n y).pending = a.pending := rfl
@[simp] theorem Arch.setS_tPoison (a : Arch) (n : Nat) (y : Word) : (a.setS n y).tPoison = a.tPoison := rfl

/-! ### Arch.setP -/

@[simp] theorem Arch.setP_v (a : Arch) (n : Nat) (y : LaneMask) : (a.setP n y).v = a.v := rfl
@[simp] theorem Arch.setP_s (a : Arch) (n : Nat) (y : LaneMask) : (a.setP n y).s = a.s := rfl
@[simp] theorem Arch.setP_fl (a : Arch) (n : Nat) (y : LaneMask) : (a.setP n y).fl = a.fl := rfl
@[simp] theorem Arch.setP_t (a : Arch) (n : Nat) (y : LaneMask) : (a.setP n y).t = a.t := rfl
@[simp] theorem Arch.setP_tw (a : Arch) (n : Nat) (y : LaneMask) : (a.setP n y).tw = a.tw := rfl
@[simp] theorem Arch.setP_sseq (a : Arch) (n : Nat) (y : LaneMask) : (a.setP n y).sseq = a.sseq := rfl
@[simp] theorem Arch.setP_frontier (a : Arch) (n : Nat) (y : LaneMask) : (a.setP n y).frontier = a.frontier := rfl
@[simp] theorem Arch.setP_aging (a : Arch) (n : Nat) (y : LaneMask) : (a.setP n y).aging = a.aging := rfl
@[simp] theorem Arch.setP_aged (a : Arch) (n : Nat) (y : LaneMask) : (a.setP n y).aged = a.aged := rfl
@[simp] theorem Arch.setP_run (a : Arch) (n : Nat) (y : LaneMask) : (a.setP n y).run = a.run := rfl
@[simp] theorem Arch.setP_returns (a : Arch) (n : Nat) (y : LaneMask) : (a.setP n y).returns = a.returns := rfl
@[simp] theorem Arch.setP_pending (a : Arch) (n : Nat) (y : LaneMask) : (a.setP n y).pending = a.pending := rfl
@[simp] theorem Arch.setP_tPoison (a : Arch) (n : Nat) (y : LaneMask) : (a.setP n y).tPoison = a.tPoison := rfl

/-! ### Arch.setFl -/

@[simp] theorem Arch.setFl_v (a : Arch) (i : Nat) (y : BitVec 16) : (a.setFl i y).v = a.v := rfl
@[simp] theorem Arch.setFl_s (a : Arch) (i : Nat) (y : BitVec 16) : (a.setFl i y).s = a.s := rfl
@[simp] theorem Arch.setFl_p (a : Arch) (i : Nat) (y : BitVec 16) : (a.setFl i y).p = a.p := rfl
@[simp] theorem Arch.setFl_t (a : Arch) (i : Nat) (y : BitVec 16) : (a.setFl i y).t = a.t := rfl
@[simp] theorem Arch.setFl_tw (a : Arch) (i : Nat) (y : BitVec 16) : (a.setFl i y).tw = a.tw := rfl
@[simp] theorem Arch.setFl_sseq (a : Arch) (i : Nat) (y : BitVec 16) : (a.setFl i y).sseq = a.sseq := rfl
@[simp] theorem Arch.setFl_frontier (a : Arch) (i : Nat) (y : BitVec 16) : (a.setFl i y).frontier = a.frontier := rfl
@[simp] theorem Arch.setFl_aging (a : Arch) (i : Nat) (y : BitVec 16) : (a.setFl i y).aging = a.aging := rfl
@[simp] theorem Arch.setFl_aged (a : Arch) (i : Nat) (y : BitVec 16) : (a.setFl i y).aged = a.aged := rfl
@[simp] theorem Arch.setFl_run (a : Arch) (i : Nat) (y : BitVec 16) : (a.setFl i y).run = a.run := rfl
@[simp] theorem Arch.setFl_returns (a : Arch) (i : Nat) (y : BitVec 16) : (a.setFl i y).returns = a.returns := rfl
@[simp] theorem Arch.setFl_pending (a : Arch) (i : Nat) (y : BitVec 16) : (a.setFl i y).pending = a.pending := rfl
@[simp] theorem Arch.setFl_tPoison (a : Arch) (i : Nat) (y : BitVec 16) : (a.setFl i y).tPoison = a.tPoison := rfl

/-! ### Arch.setTw -/

@[simp] theorem Arch.setTw_v (a : Arch) (n : Nat) (y : Word) : (a.setTw n y).v = a.v := rfl
@[simp] theorem Arch.setTw_s (a : Arch) (n : Nat) (y : Word) : (a.setTw n y).s = a.s := rfl
@[simp] theorem Arch.setTw_p (a : Arch) (n : Nat) (y : Word) : (a.setTw n y).p = a.p := rfl
@[simp] theorem Arch.setTw_fl (a : Arch) (n : Nat) (y : Word) : (a.setTw n y).fl = a.fl := rfl
@[simp] theorem Arch.setTw_t (a : Arch) (n : Nat) (y : Word) : (a.setTw n y).t = a.t := rfl
@[simp] theorem Arch.setTw_sseq (a : Arch) (n : Nat) (y : Word) : (a.setTw n y).sseq = a.sseq := rfl
@[simp] theorem Arch.setTw_frontier (a : Arch) (n : Nat) (y : Word) : (a.setTw n y).frontier = a.frontier := rfl
@[simp] theorem Arch.setTw_aging (a : Arch) (n : Nat) (y : Word) : (a.setTw n y).aging = a.aging := rfl
@[simp] theorem Arch.setTw_aged (a : Arch) (n : Nat) (y : Word) : (a.setTw n y).aged = a.aged := rfl
@[simp] theorem Arch.setTw_run (a : Arch) (n : Nat) (y : Word) : (a.setTw n y).run = a.run := rfl
@[simp] theorem Arch.setTw_returns (a : Arch) (n : Nat) (y : Word) : (a.setTw n y).returns = a.returns := rfl
@[simp] theorem Arch.setTw_pending (a : Arch) (n : Nat) (y : Word) : (a.setTw n y).pending = a.pending := rfl
@[simp] theorem Arch.setTw_tPoison (a : Arch) (n : Nat) (y : Word) : (a.setTw n y).tPoison = a.tPoison := rfl

/-! ### Arch.setReturns -/

@[simp] theorem Arch.setReturns_v (a : Arch) (i : Nat) (y : List Return) : (a.setReturns i y).v = a.v := rfl
@[simp] theorem Arch.setReturns_s (a : Arch) (i : Nat) (y : List Return) : (a.setReturns i y).s = a.s := rfl
@[simp] theorem Arch.setReturns_p (a : Arch) (i : Nat) (y : List Return) : (a.setReturns i y).p = a.p := rfl
@[simp] theorem Arch.setReturns_fl (a : Arch) (i : Nat) (y : List Return) : (a.setReturns i y).fl = a.fl := rfl
@[simp] theorem Arch.setReturns_t (a : Arch) (i : Nat) (y : List Return) : (a.setReturns i y).t = a.t := rfl
@[simp] theorem Arch.setReturns_tw (a : Arch) (i : Nat) (y : List Return) : (a.setReturns i y).tw = a.tw := rfl
@[simp] theorem Arch.setReturns_sseq (a : Arch) (i : Nat) (y : List Return) : (a.setReturns i y).sseq = a.sseq := rfl
@[simp] theorem Arch.setReturns_frontier (a : Arch) (i : Nat) (y : List Return) : (a.setReturns i y).frontier = a.frontier := rfl
@[simp] theorem Arch.setReturns_aging (a : Arch) (i : Nat) (y : List Return) : (a.setReturns i y).aging = a.aging := rfl
@[simp] theorem Arch.setReturns_aged (a : Arch) (i : Nat) (y : List Return) : (a.setReturns i y).aged = a.aged := rfl
@[simp] theorem Arch.setReturns_run (a : Arch) (i : Nat) (y : List Return) : (a.setReturns i y).run = a.run := rfl
@[simp] theorem Arch.setReturns_pending (a : Arch) (i : Nat) (y : List Return) : (a.setReturns i y).pending = a.pending := rfl
@[simp] theorem Arch.setReturns_tPoison (a : Arch) (i : Nat) (y : List Return) : (a.setReturns i y).tPoison = a.tPoison := rfl

/-! ### Arch.setV64 -/

@[simp] theorem Arch.setV64_s (a : Arch) (n i : Nat) (y : BitVec 64) : (a.setV64 n i y).s = a.s := rfl
@[simp] theorem Arch.setV64_p (a : Arch) (n i : Nat) (y : BitVec 64) : (a.setV64 n i y).p = a.p := rfl
@[simp] theorem Arch.setV64_fl (a : Arch) (n i : Nat) (y : BitVec 64) : (a.setV64 n i y).fl = a.fl := rfl
@[simp] theorem Arch.setV64_t (a : Arch) (n i : Nat) (y : BitVec 64) : (a.setV64 n i y).t = a.t := rfl
@[simp] theorem Arch.setV64_tw (a : Arch) (n i : Nat) (y : BitVec 64) : (a.setV64 n i y).tw = a.tw := rfl
@[simp] theorem Arch.setV64_sseq (a : Arch) (n i : Nat) (y : BitVec 64) : (a.setV64 n i y).sseq = a.sseq := rfl
@[simp] theorem Arch.setV64_frontier (a : Arch) (n i : Nat) (y : BitVec 64) : (a.setV64 n i y).frontier = a.frontier := rfl
@[simp] theorem Arch.setV64_aging (a : Arch) (n i : Nat) (y : BitVec 64) : (a.setV64 n i y).aging = a.aging := rfl
@[simp] theorem Arch.setV64_aged (a : Arch) (n i : Nat) (y : BitVec 64) : (a.setV64 n i y).aged = a.aged := rfl
@[simp] theorem Arch.setV64_run (a : Arch) (n i : Nat) (y : BitVec 64) : (a.setV64 n i y).run = a.run := rfl
@[simp] theorem Arch.setV64_returns (a : Arch) (n i : Nat) (y : BitVec 64) : (a.setV64 n i y).returns = a.returns := rfl
@[simp] theorem Arch.setV64_pending (a : Arch) (n i : Nat) (y : BitVec 64) : (a.setV64 n i y).pending = a.pending := rfl
@[simp] theorem Arch.setV64_tPoison (a : Arch) (n i : Nat) (y : BitVec 64) : (a.setV64 n i y).tPoison = a.tPoison := rfl

/-! ### Arch.setS64 -/

@[simp] theorem Arch.setS64_v (a : Arch) (n : Nat) (y : BitVec 64) : (a.setS64 n y).v = a.v := rfl
@[simp] theorem Arch.setS64_p (a : Arch) (n : Nat) (y : BitVec 64) : (a.setS64 n y).p = a.p := rfl
@[simp] theorem Arch.setS64_fl (a : Arch) (n : Nat) (y : BitVec 64) : (a.setS64 n y).fl = a.fl := rfl
@[simp] theorem Arch.setS64_t (a : Arch) (n : Nat) (y : BitVec 64) : (a.setS64 n y).t = a.t := rfl
@[simp] theorem Arch.setS64_tw (a : Arch) (n : Nat) (y : BitVec 64) : (a.setS64 n y).tw = a.tw := rfl
@[simp] theorem Arch.setS64_sseq (a : Arch) (n : Nat) (y : BitVec 64) : (a.setS64 n y).sseq = a.sseq := rfl
@[simp] theorem Arch.setS64_frontier (a : Arch) (n : Nat) (y : BitVec 64) : (a.setS64 n y).frontier = a.frontier := rfl
@[simp] theorem Arch.setS64_aging (a : Arch) (n : Nat) (y : BitVec 64) : (a.setS64 n y).aging = a.aging := rfl
@[simp] theorem Arch.setS64_aged (a : Arch) (n : Nat) (y : BitVec 64) : (a.setS64 n y).aged = a.aged := rfl
@[simp] theorem Arch.setS64_run (a : Arch) (n : Nat) (y : BitVec 64) : (a.setS64 n y).run = a.run := rfl
@[simp] theorem Arch.setS64_returns (a : Arch) (n : Nat) (y : BitVec 64) : (a.setS64 n y).returns = a.returns := rfl
@[simp] theorem Arch.setS64_pending (a : Arch) (n : Nat) (y : BitVec 64) : (a.setS64 n y).pending = a.pending := rfl
@[simp] theorem Arch.setS64_tPoison (a : Arch) (n : Nat) (y : BitVec 64) : (a.setS64 n y).tPoison = a.tPoison := rfl

/-! ### Arch.setTRow -/

@[simp] theorem Arch.setTRow_v (a : Arch) (n r : Nat) (y : List Byte) : (a.setTRow n r y).v = a.v := rfl
@[simp] theorem Arch.setTRow_s (a : Arch) (n r : Nat) (y : List Byte) : (a.setTRow n r y).s = a.s := rfl
@[simp] theorem Arch.setTRow_p (a : Arch) (n r : Nat) (y : List Byte) : (a.setTRow n r y).p = a.p := rfl
@[simp] theorem Arch.setTRow_fl (a : Arch) (n r : Nat) (y : List Byte) : (a.setTRow n r y).fl = a.fl := rfl
@[simp] theorem Arch.setTRow_tw (a : Arch) (n r : Nat) (y : List Byte) : (a.setTRow n r y).tw = a.tw := rfl
@[simp] theorem Arch.setTRow_sseq (a : Arch) (n r : Nat) (y : List Byte) : (a.setTRow n r y).sseq = a.sseq := rfl
@[simp] theorem Arch.setTRow_frontier (a : Arch) (n r : Nat) (y : List Byte) : (a.setTRow n r y).frontier = a.frontier := rfl
@[simp] theorem Arch.setTRow_aging (a : Arch) (n r : Nat) (y : List Byte) : (a.setTRow n r y).aging = a.aging := rfl
@[simp] theorem Arch.setTRow_aged (a : Arch) (n r : Nat) (y : List Byte) : (a.setTRow n r y).aged = a.aged := rfl
@[simp] theorem Arch.setTRow_run (a : Arch) (n r : Nat) (y : List Byte) : (a.setTRow n r y).run = a.run := rfl
@[simp] theorem Arch.setTRow_returns (a : Arch) (n r : Nat) (y : List Byte) : (a.setTRow n r y).returns = a.returns := rfl
@[simp] theorem Arch.setTRow_pending (a : Arch) (n r : Nat) (y : List Byte) : (a.setTRow n r y).pending = a.pending := rfl
@[simp] theorem Arch.setTRow_tPoison (a : Arch) (n r : Nat) (y : List Byte) : (a.setTRow n r y).tPoison = a.tPoison := rfl

/-! ### Group.setAcc -/

@[simp] theorem Group.setAcc_core (g : Group) (n : Nat) (y : Acc) : (g.setAcc n y).core = g.core := rfl
@[simp] theorem Group.setAcc_slot (g : Group) (n : Nat) (y : Acc) : (g.setAcc n y).slot = g.slot := rfl
@[simp] theorem Group.setAcc_team (g : Group) (n : Nat) (y : Acc) : (g.setAcc n y).team = g.team := rfl
@[simp] theorem Group.setAcc_index (g : Group) (n : Nat) (y : Acc) : (g.setAcc n y).index = g.index := rfl
@[simp] theorem Group.setAcc_live (g : Group) (n : Nat) (y : Acc) : (g.setAcc n y).live = g.live := rfl
@[simp] theorem Group.setAcc_ids (g : Group) (n : Nat) (y : Acc) : (g.setAcc n y).ids = g.ids := rfl
@[simp] theorem Group.setAcc_homeCore (g : Group) (n : Nat) (y : Acc) : (g.setAcc n y).homeCore = g.homeCore := rfl
@[simp] theorem Group.setAcc_startNumber (g : Group) (n : Nat) (y : Acc) : (g.setAcc n y).startNumber = g.startNumber := rfl
@[simp] theorem Group.setAcc_arch (g : Group) (n : Nat) (y : Acc) : (g.setAcc n y).arch = g.arch := rfl
@[simp] theorem Group.setAcc_matrix (g : Group) (n : Nat) (y : Acc) : (g.setAcc n y).matrix = g.matrix := rfl
@[simp] theorem Group.setAcc_tokens (g : Group) (n : Nat) (y : Acc) : (g.setAcc n y).tokens = g.tokens := rfl
@[simp] theorem Group.setAcc_reds (g : Group) (n : Nat) (y : Acc) : (g.setAcc n y).reds = g.reds := rfl
@[simp] theorem Group.setAcc_batch (g : Group) (n : Nat) (y : Acc) : (g.setAcc n y).batch = g.batch := rfl
@[simp] theorem Group.setAcc_outstanding (g : Group) (n : Nat) (y : Acc) : (g.setAcc n y).outstanding = g.outstanding := rfl
@[simp] theorem Group.setAcc_heldFlags (g : Group) (n : Nat) (y : Acc) : (g.setAcc n y).heldFlags = g.heldFlags := rfl
@[simp] theorem Group.setAcc_wait (g : Group) (n : Nat) (y : Acc) : (g.setAcc n y).wait = g.wait := rfl
@[simp] theorem Group.setAcc_waitWord (g : Group) (n : Nat) (y : Acc) : (g.setAcc n y).waitWord = g.waitWord := rfl
@[simp] theorem Group.setAcc_after (g : Group) (n : Nat) (y : Acc) : (g.setAcc n y).after = g.after := rfl
@[simp] theorem Group.setAcc_fence (g : Group) (n : Nat) (y : Acc) : (g.setAcc n y).fence = g.fence := rfl
@[simp] theorem Group.setAcc_soft (g : Group) (n : Nat) (y : Acc) : (g.setAcc n y).soft = g.soft := rfl
@[simp] theorem Group.setAcc_handler (g : Group) (n : Nat) (y : Acc) : (g.setAcc n y).handler = g.handler := rfl
@[simp] theorem Group.setAcc_xset (g : Group) (n : Nat) (y : Acc) : (g.setAcc n y).xset = g.xset := rfl
@[simp] theorem Group.setAcc_lentSave (g : Group) (n : Nat) (y : Acc) : (g.setAcc n y).lentSave = g.lentSave := rfl
@[simp] theorem Group.setAcc_pref (g : Group) (n : Nat) (y : Acc) : (g.setAcc n y).pref = g.pref := rfl
@[simp] theorem Group.setAcc_request (g : Group) (n : Nat) (y : Acc) : (g.setAcc n y).request = g.request := rfl
@[simp] theorem Group.setAcc_redCount (g : Group) (n : Nat) (y : Acc) : (g.setAcc n y).redCount = g.redCount := rfl
@[simp] theorem Group.setAcc_redQuota (g : Group) (n : Nat) (y : Acc) : (g.setAcc n y).redQuota = g.redQuota := rfl
@[simp] theorem Group.setAcc_bad (g : Group) (n : Nat) (y : Acc) : (g.setAcc n y).bad = g.bad := rfl
@[simp] theorem Group.setAcc_begun (g : Group) (n : Nat) (y : Acc) : (g.setAcc n y).begun = g.begun := rfl

/-! ### Group.mend -/

@[simp] theorem Group.mend_core (g : Group) (p : RegRef → Bool) : (g.mend p).core = g.core := rfl
@[simp] theorem Group.mend_slot (g : Group) (p : RegRef → Bool) : (g.mend p).slot = g.slot := rfl
@[simp] theorem Group.mend_team (g : Group) (p : RegRef → Bool) : (g.mend p).team = g.team := rfl
@[simp] theorem Group.mend_index (g : Group) (p : RegRef → Bool) : (g.mend p).index = g.index := rfl
@[simp] theorem Group.mend_live (g : Group) (p : RegRef → Bool) : (g.mend p).live = g.live := rfl
@[simp] theorem Group.mend_ids (g : Group) (p : RegRef → Bool) : (g.mend p).ids = g.ids := rfl
@[simp] theorem Group.mend_homeCore (g : Group) (p : RegRef → Bool) : (g.mend p).homeCore = g.homeCore := rfl
@[simp] theorem Group.mend_startNumber (g : Group) (p : RegRef → Bool) : (g.mend p).startNumber = g.startNumber := rfl
@[simp] theorem Group.mend_arch (g : Group) (p : RegRef → Bool) : (g.mend p).arch = g.arch := rfl
@[simp] theorem Group.mend_accs (g : Group) (p : RegRef → Bool) : (g.mend p).accs = g.accs := rfl
@[simp] theorem Group.mend_matrix (g : Group) (p : RegRef → Bool) : (g.mend p).matrix = g.matrix := rfl
@[simp] theorem Group.mend_tokens (g : Group) (p : RegRef → Bool) : (g.mend p).tokens = g.tokens := rfl
@[simp] theorem Group.mend_reds (g : Group) (p : RegRef → Bool) : (g.mend p).reds = g.reds := rfl
@[simp] theorem Group.mend_batch (g : Group) (p : RegRef → Bool) : (g.mend p).batch = g.batch := rfl
@[simp] theorem Group.mend_outstanding (g : Group) (p : RegRef → Bool) : (g.mend p).outstanding = g.outstanding := rfl
@[simp] theorem Group.mend_heldFlags (g : Group) (p : RegRef → Bool) : (g.mend p).heldFlags = g.heldFlags := rfl
@[simp] theorem Group.mend_wait (g : Group) (p : RegRef → Bool) : (g.mend p).wait = g.wait := rfl
@[simp] theorem Group.mend_waitWord (g : Group) (p : RegRef → Bool) : (g.mend p).waitWord = g.waitWord := rfl
@[simp] theorem Group.mend_after (g : Group) (p : RegRef → Bool) : (g.mend p).after = g.after := rfl
@[simp] theorem Group.mend_fence (g : Group) (p : RegRef → Bool) : (g.mend p).fence = g.fence := rfl
@[simp] theorem Group.mend_soft (g : Group) (p : RegRef → Bool) : (g.mend p).soft = g.soft := rfl
@[simp] theorem Group.mend_handler (g : Group) (p : RegRef → Bool) : (g.mend p).handler = g.handler := rfl
@[simp] theorem Group.mend_xset (g : Group) (p : RegRef → Bool) : (g.mend p).xset = g.xset := rfl
@[simp] theorem Group.mend_lentSave (g : Group) (p : RegRef → Bool) : (g.mend p).lentSave = g.lentSave := rfl
@[simp] theorem Group.mend_pref (g : Group) (p : RegRef → Bool) : (g.mend p).pref = g.pref := rfl
@[simp] theorem Group.mend_request (g : Group) (p : RegRef → Bool) : (g.mend p).request = g.request := rfl
@[simp] theorem Group.mend_redCount (g : Group) (p : RegRef → Bool) : (g.mend p).redCount = g.redCount := rfl
@[simp] theorem Group.mend_redQuota (g : Group) (p : RegRef → Bool) : (g.mend p).redQuota = g.redQuota := rfl
@[simp] theorem Group.mend_begun (g : Group) (p : RegRef → Bool) : (g.mend p).begun = g.begun := rfl
@[simp] theorem Group.mend_bad (g : Group) (p : RegRef → Bool) : (g.mend p).bad = g.bad.filter (fun r => !p r) := rfl

/-- A group without a register in error has none to mend (R394). -/
theorem Group.mend_none (g : Group) (p : RegRef → Bool) (h : g.bad = []) : g.mend p = g := by
  obtain ⟨⟩ := g; simp only at h; subst h; rfl

/-! ### Group.giveEntries and Group.takeEntries -/

@[simp] theorem Group.giveEntries_core (o : Option (RedEntry → Bool)) (g : Group) : (g.giveEntries o).core = g.core := by cases o <;> rfl
@[simp] theorem Group.takeEntries_core (o : Option (RedEntry → Bool)) (g k : Group) (l : List RedEntry) : (g.takeEntries o l k).core = k.core := rfl
@[simp] theorem Group.giveEntries_slot (o : Option (RedEntry → Bool)) (g : Group) : (g.giveEntries o).slot = g.slot := by cases o <;> rfl
@[simp] theorem Group.takeEntries_slot (o : Option (RedEntry → Bool)) (g k : Group) (l : List RedEntry) : (g.takeEntries o l k).slot = k.slot := rfl
@[simp] theorem Group.giveEntries_team (o : Option (RedEntry → Bool)) (g : Group) : (g.giveEntries o).team = g.team := by cases o <;> rfl
@[simp] theorem Group.takeEntries_team (o : Option (RedEntry → Bool)) (g k : Group) (l : List RedEntry) : (g.takeEntries o l k).team = k.team := rfl
@[simp] theorem Group.giveEntries_index (o : Option (RedEntry → Bool)) (g : Group) : (g.giveEntries o).index = g.index := by cases o <;> rfl
@[simp] theorem Group.takeEntries_index (o : Option (RedEntry → Bool)) (g k : Group) (l : List RedEntry) : (g.takeEntries o l k).index = k.index := rfl
@[simp] theorem Group.giveEntries_live (o : Option (RedEntry → Bool)) (g : Group) : (g.giveEntries o).live = g.live := by cases o <;> rfl
@[simp] theorem Group.takeEntries_live (o : Option (RedEntry → Bool)) (g k : Group) (l : List RedEntry) : (g.takeEntries o l k).live = k.live := rfl
@[simp] theorem Group.giveEntries_ids (o : Option (RedEntry → Bool)) (g : Group) : (g.giveEntries o).ids = g.ids := by cases o <;> rfl
@[simp] theorem Group.takeEntries_ids (o : Option (RedEntry → Bool)) (g k : Group) (l : List RedEntry) : (g.takeEntries o l k).ids = k.ids := rfl
@[simp] theorem Group.giveEntries_homeCore (o : Option (RedEntry → Bool)) (g : Group) : (g.giveEntries o).homeCore = g.homeCore := by cases o <;> rfl
@[simp] theorem Group.takeEntries_homeCore (o : Option (RedEntry → Bool)) (g k : Group) (l : List RedEntry) : (g.takeEntries o l k).homeCore = k.homeCore := rfl
@[simp] theorem Group.giveEntries_startNumber (o : Option (RedEntry → Bool)) (g : Group) : (g.giveEntries o).startNumber = g.startNumber := by cases o <;> rfl
@[simp] theorem Group.takeEntries_startNumber (o : Option (RedEntry → Bool)) (g k : Group) (l : List RedEntry) : (g.takeEntries o l k).startNumber = k.startNumber := rfl
@[simp] theorem Group.giveEntries_arch (o : Option (RedEntry → Bool)) (g : Group) : (g.giveEntries o).arch = g.arch := by cases o <;> rfl
@[simp] theorem Group.takeEntries_arch (o : Option (RedEntry → Bool)) (g k : Group) (l : List RedEntry) : (g.takeEntries o l k).arch = k.arch := rfl
@[simp] theorem Group.giveEntries_accs (o : Option (RedEntry → Bool)) (g : Group) : (g.giveEntries o).accs = g.accs := by cases o <;> rfl
@[simp] theorem Group.takeEntries_accs (o : Option (RedEntry → Bool)) (g k : Group) (l : List RedEntry) : (g.takeEntries o l k).accs = k.accs := rfl
@[simp] theorem Group.giveEntries_matrix (o : Option (RedEntry → Bool)) (g : Group) : (g.giveEntries o).matrix = g.matrix := by cases o <;> rfl
@[simp] theorem Group.takeEntries_matrix (o : Option (RedEntry → Bool)) (g k : Group) (l : List RedEntry) : (g.takeEntries o l k).matrix = k.matrix := rfl
@[simp] theorem Group.giveEntries_tokens (o : Option (RedEntry → Bool)) (g : Group) : (g.giveEntries o).tokens = g.tokens := by cases o <;> rfl
@[simp] theorem Group.takeEntries_tokens (o : Option (RedEntry → Bool)) (g k : Group) (l : List RedEntry) : (g.takeEntries o l k).tokens = k.tokens := rfl
@[simp] theorem Group.giveEntries_outstanding (o : Option (RedEntry → Bool)) (g : Group) : (g.giveEntries o).outstanding = g.outstanding := by cases o <;> rfl
@[simp] theorem Group.takeEntries_outstanding (o : Option (RedEntry → Bool)) (g k : Group) (l : List RedEntry) : (g.takeEntries o l k).outstanding = k.outstanding := rfl
@[simp] theorem Group.giveEntries_heldFlags (o : Option (RedEntry → Bool)) (g : Group) : (g.giveEntries o).heldFlags = g.heldFlags := by cases o <;> rfl
@[simp] theorem Group.takeEntries_heldFlags (o : Option (RedEntry → Bool)) (g k : Group) (l : List RedEntry) : (g.takeEntries o l k).heldFlags = k.heldFlags := rfl
@[simp] theorem Group.giveEntries_wait (o : Option (RedEntry → Bool)) (g : Group) : (g.giveEntries o).wait = g.wait := by cases o <;> rfl
@[simp] theorem Group.takeEntries_wait (o : Option (RedEntry → Bool)) (g k : Group) (l : List RedEntry) : (g.takeEntries o l k).wait = k.wait := rfl
@[simp] theorem Group.giveEntries_waitWord (o : Option (RedEntry → Bool)) (g : Group) : (g.giveEntries o).waitWord = g.waitWord := by cases o <;> rfl
@[simp] theorem Group.takeEntries_waitWord (o : Option (RedEntry → Bool)) (g k : Group) (l : List RedEntry) : (g.takeEntries o l k).waitWord = k.waitWord := rfl
@[simp] theorem Group.giveEntries_after (o : Option (RedEntry → Bool)) (g : Group) : (g.giveEntries o).after = g.after := by cases o <;> rfl
@[simp] theorem Group.takeEntries_after (o : Option (RedEntry → Bool)) (g k : Group) (l : List RedEntry) : (g.takeEntries o l k).after = k.after := rfl
@[simp] theorem Group.giveEntries_fence (o : Option (RedEntry → Bool)) (g : Group) : (g.giveEntries o).fence = g.fence := by cases o <;> rfl
@[simp] theorem Group.takeEntries_fence (o : Option (RedEntry → Bool)) (g k : Group) (l : List RedEntry) : (g.takeEntries o l k).fence = k.fence := rfl
@[simp] theorem Group.giveEntries_soft (o : Option (RedEntry → Bool)) (g : Group) : (g.giveEntries o).soft = g.soft := by cases o <;> rfl
@[simp] theorem Group.takeEntries_soft (o : Option (RedEntry → Bool)) (g k : Group) (l : List RedEntry) : (g.takeEntries o l k).soft = k.soft := rfl
@[simp] theorem Group.giveEntries_handler (o : Option (RedEntry → Bool)) (g : Group) : (g.giveEntries o).handler = g.handler := by cases o <;> rfl
@[simp] theorem Group.takeEntries_handler (o : Option (RedEntry → Bool)) (g k : Group) (l : List RedEntry) : (g.takeEntries o l k).handler = k.handler := rfl
@[simp] theorem Group.giveEntries_xset (o : Option (RedEntry → Bool)) (g : Group) : (g.giveEntries o).xset = g.xset := by cases o <;> rfl
@[simp] theorem Group.takeEntries_xset (o : Option (RedEntry → Bool)) (g k : Group) (l : List RedEntry) : (g.takeEntries o l k).xset = k.xset := rfl
@[simp] theorem Group.giveEntries_lentSave (o : Option (RedEntry → Bool)) (g : Group) : (g.giveEntries o).lentSave = g.lentSave := by cases o <;> rfl
@[simp] theorem Group.takeEntries_lentSave (o : Option (RedEntry → Bool)) (g k : Group) (l : List RedEntry) : (g.takeEntries o l k).lentSave = k.lentSave := rfl
@[simp] theorem Group.giveEntries_pref (o : Option (RedEntry → Bool)) (g : Group) : (g.giveEntries o).pref = g.pref := by cases o <;> rfl
@[simp] theorem Group.takeEntries_pref (o : Option (RedEntry → Bool)) (g k : Group) (l : List RedEntry) : (g.takeEntries o l k).pref = k.pref := rfl
@[simp] theorem Group.giveEntries_request (o : Option (RedEntry → Bool)) (g : Group) : (g.giveEntries o).request = g.request := by cases o <;> rfl
@[simp] theorem Group.takeEntries_request (o : Option (RedEntry → Bool)) (g k : Group) (l : List RedEntry) : (g.takeEntries o l k).request = k.request := rfl
@[simp] theorem Group.giveEntries_redCount (o : Option (RedEntry → Bool)) (g : Group) : (g.giveEntries o).redCount = g.redCount := by cases o <;> rfl
@[simp] theorem Group.takeEntries_redCount (o : Option (RedEntry → Bool)) (g k : Group) (l : List RedEntry) : (g.takeEntries o l k).redCount = k.redCount := rfl
@[simp] theorem Group.takeEntries_redQuota (o : Option (RedEntry → Bool)) (g k : Group) (l : List RedEntry) : (g.takeEntries o l k).redQuota = k.redQuota := rfl
@[simp] theorem Group.giveEntries_bad (o : Option (RedEntry → Bool)) (g : Group) : (g.giveEntries o).bad = g.bad := by cases o <;> rfl
@[simp] theorem Group.takeEntries_bad (o : Option (RedEntry → Bool)) (g k : Group) (l : List RedEntry) : (g.takeEntries o l k).bad = k.bad := rfl
@[simp] theorem Group.giveEntries_begun (o : Option (RedEntry → Bool)) (g : Group) : (g.giveEntries o).begun = g.begun := by cases o <;> rfl
@[simp] theorem Group.takeEntries_begun (o : Option (RedEntry → Bool)) (g k : Group) (l : List RedEntry) : (g.takeEntries o l k).begun = k.begun := rfl
@[simp] theorem Group.giveEntries_some_redQuota (p : RedEntry → Bool) (g : Group) : (g.giveEntries (some p)).redQuota = g.redQuota := rfl
@[simp] theorem Group.giveEntries_none_redQuota (g : Group) : (g.giveEntries none).redQuota = 0 := rfl

end Sys2Proof.Machine
end

