-- ==== Sys2Proof/Laws/Issue.lean ====
section
/-! SUPPORT. What an issue does: the group it finds, the checks it passes, and the state in which it leaves the machine. -/

namespace Sys2Proof.Machine

/-! ### Groups in their slots -/

theorem State.group?_slot {s : State} {c k : Nat} {g : Group} (h : s.group? c k = some g) : g.core = c ∧ g.slot = k := by
  have := List.find?_some h
  simpa using this

theorem find_replace (g : Group) (l : List Group) (g0 : Group) (h0 : g0 ∈ l) (hc : g0.core = g.core) (hs : g0.slot = g.slot) :
    (l.map (fun h => if h.core == g.core && h.slot == g.slot then g else h)).find?
      (fun h => h.core == g.core && h.slot == g.slot) = some g := by
  induction l with
  | nil => exact absurd h0 List.not_mem_nil
  | cons a l ih =>
    simp only [List.map_cons]
    by_cases ha : a.core = g.core ∧ a.slot = g.slot
    · simp [ha.1, ha.2]
    · rw [List.find?_cons]
      have hb : (a.core == g.core && a.slot == g.slot) = false := by simpa using ha
      simp only [hb]
      rcases List.mem_cons.1 h0 with rfl | h0
      · exact absurd ⟨hc, hs⟩ ha
      · simp only [hb, Bool.false_eq_true, if_false]
        exact ih h0

/-- A group put into an occupied slot is found there. -/
theorem State.group?_setGroup {s : State} {g g0 : Group} (h : s.group? g.core g.slot = some g0) :
    (s.setGroup g).group? g.core g.slot = some g := by
  have hm := List.mem_of_find?_eq_some h
  have hs := State.group?_slot h
  exact find_replace g s.groups g0 hm hs.1 hs.2

/-- Every other slot holds what it held. -/
theorem State.group?_setGroup_other {s : State} {g : Group} {c k : Nat} (h : ¬(c = g.core ∧ k = g.slot)) :
    (s.setGroup g).group? c k = s.group? c k := by
  simp only [State.group?, State.setGroup]
  induction s.groups with
  | nil => rfl
  | cons a l ih =>
    simp only [List.map_cons, List.find?_cons, ih]
    by_cases ha : a.core = g.core ∧ a.slot = g.slot
    · have hn : ¬(g.core = c ∧ g.slot = k) := fun hh => h ⟨hh.1.symm, hh.2.symm⟩
      have : (g.core == c && g.slot == k) = false := by simpa using hn
      simp [ha.1, ha.2, this]
    · have : (a.core == g.core && a.slot == g.slot) = false := by simpa using ha
      simp [this]

/-- The last group put into a slot counts. -/
theorem State.setGroup_setGroup (s : State) (g h : Group) (hc : g.core = h.core) (hs : g.slot = h.slot) :
    (s.setGroup g).setGroup h = s.setGroup h := by
  simp only [State.setGroup, List.map_map]
  congr 1
  apply List.map_congr_left
  intro a _
  simp only [Function.comp]
  by_cases ha : a.core = h.core ∧ a.slot = h.slot
  · simp [ha.1, ha.2, hc, hs]
  · have : (a.core == h.core && a.slot == h.slot) = false := by simpa using ha
    simp [hc, hs, this]

/-! ### The issue -/

theorem issueOf_spec {s : State} {c k : Nat} {x : Issue} (h : issueOf s c k = some x) :
    x.core = c ∧ x.slot = k ∧ s.env? c k = some x.e ∧ x.e.g.arch.issuing = some x.entry ∧ x.active = x.arch.active x.entry
      ∧ x.amr = s.amr x.e.l.ctx ∧ x.mode = roundMode x.run x.amr := by
  simp only [issueOf, Option.bind_eq_some_iff, Option.map_eq_some_iff] at h
  obtain ⟨e, he, n, hn, rfl⟩ := h
  exact ⟨rfl, rfl, he, hn, rfl, rfl, rfl⟩

theorem State.env?_spec {s : State} {c k : Nat} {e : Env} (h : s.env? c k = some e) :
    s.group? c k = some e.g ∧ s.team? e.g.team = some e.t ∧ s.launch? e.t.launch = some e.l := by
  simp only [State.env?, Option.bind_eq_some_iff, Option.map_eq_some_iff] at h
  obtain ⟨g, hg, t, ht, l, hl, rfl⟩ := h
  exact ⟨hg, ht, hl⟩

/-- The issuing group is the one in the issuing slot. -/
theorem Issues.group {s : State} {x : Issue} (h : Issues s x) :
    s.group? x.core x.slot = some x.e.g ∧ x.e.g.core = x.core ∧ x.e.g.slot = x.slot := by
  obtain ⟨-, -, he, -⟩ := issueOf_spec h.issue
  have hg := (State.env?_spec he).1
  exact ⟨hg, (State.group?_slot hg).1, (State.group?_slot hg).2⟩

/-- A word of an issuing group always gives a next state. -/
theorem issue_next {s : State} {x : Issue} (h : Issues s x) (u : Use) (body : Issue → State → Res) :
    issue u body s = .next (issueStep u x body s) := by
  simp only [issue, h.issuer, h.issue]

/-- What an issue can do: fail a check of the decoder, wait, meet an error in a register, or run its body, after which it
waits, faults, is closed, ends its task by a replay fault or has made progress. -/
theorem issueStep_cases (u : Use) (x : Issue) (body : Issue → State → Res) (s : State) :
    (∃ c, decodeFault u x = some c ∧ issueStep u x body s = raise x s s { cls := c })
    ∨ issueStep u x body s = stallState s
    ∨ (readsBad u x = true ∧ issueStep u x body s = raise x s s { cls := 17, code := 2 })
    ∨ issueStep u x body s = afterBody u x s (body x s) := by
  unfold issueStep
  split
  · next c hc => exact .inl ⟨c, hc, rfl⟩
  · split
    · exact .inr (.inl rfl)
    · split
      · next hb => exact .inr (.inr (.inl ⟨hb, rfl⟩))
      · exact .inr (.inr (.inr rfl))

/-- A word that passes every check runs its body. -/
theorem issueStep_body {s : State} {x : Issue} (h : Issues s x) (u : Use) (body : Issue → State → Res)
    (hd : decodeFault u x = none) (ht : u.tokens x = []) :
    issueStep u x body s = afterBody u x s (body x s) := by
  have hf : fenceStall u x = false := by simp [fenceStall, h.soft, h.fence]
  have hb : readsBad u x = false := by simp [readsBad, h.bad]
  simp [issueStep, hd, ht, hf, hb]

/-- No check of the decoder fails (R38): the hints are the target's, and the registers may be named. -/
theorem decodeFault_none {u : Use} {x : Issue} {rs : List RegRef} (hr : Usable x rs) {limm : Option (BitVec 20)}
    (hh : Hinted x limm u.rnd u.sat u.bpri) (hl : ∀ k, limm = some k → u.limm = true ∧ u.limmMask = k)
    (h1 : u.illegal = false) (h2 : u.illegalIn x = false) (h3 : u.forbidden = false)
    (h4 : u.privileged = true → x.e.l.privileged = true) (h5 : u.badReg = false) (h6 : u.badIn x = false)
    (hs : ∀ r ∈ u.regs x, r ∈ rs) :
    decodeFault u x = none := by
  have hi : u.hintIllegal x.run = false := by
    have g2 : (x.run.rnd.isSome && !u.rnd) = false := by
      cases hc : x.run.rnd with
      | none => rfl
      | some p => simp [hh.rnd (by simp [hc])]
    have g3 : (x.run.sat && !u.sat) = false := by
      cases hc : x.run.sat with
      | false => rfl
      | true => simp [hh.sat hc]
    have g4 : (x.run.bpri.isSome && !u.bpri) = false := by
      cases hc : x.run.bpri with
      | none => rfl
      | some p => simp [hh.bpri (by simp [hc])]
    simp only [Use.hintIllegal, g2, g3, g4, Bool.or_false]
    cases hc : x.run.limm with
    | none => rfl
    | some p =>
      obtain ⟨k, hk, hz⟩ := hh.limm p hc
      obtain ⟨q1, q2⟩ := hl k hk
      simp [q1, q2, hz]
  have hp : (u.privileged && !x.e.l.privileged) = false := by
    cases hc : u.privileged with
    | false => rfl
    | true => simp [h4 hc]
  have b1 : (u.regs x).any x.e.regBad = false := by
    rw [List.any_eq_false]
    intro r hm
    simp [(hr r (hs r hm)).1]
  have b2 : (u.regs x).any (fun r => x.arch.pending.contains r) = false := by
    rw [List.any_eq_false]
    intro r hm
    simpa using (hr r (hs r hm)).2.1
  simp only [decodeFault, h1, hi, h2, h3, hp, h5, h6, b1, b2]; rfl

/-- The word reads or writes no tracked token. -/
theorem tokens_none {u : Use} {x : Issue} {rs : List RegRef} (hr : Usable x rs)
    (hs : ∀ r ∈ u.regs x, r ∈ rs) : u.tokens x = [] := by
  simp only [Use.tokens, List.filter_eq_nil_iff]
  intro t ht hc
  have : RegRef.s t.reg ∈ rs := by
    apply hs
    simp only [Use.regs, Bool.or_eq_true, Bool.and_eq_true, List.contains_iff_mem, List.mem_append] at hc ⊢
    grind
  exact (hr _ this).2.2 t ht rfl

/-! ### Flags -/

theorem enabledFlags_none {amr : Word} {fs : List (Nat × BitVec 9)} (h : ∀ f ∈ fs, f.2 &&& trapEnables amr = 0) :
    enabledFlags amr fs = (0, 0) := by
  have : ∀ (l : List (Nat × BitVec 9)) (r : LaneMask × BitVec 9), (∀ f ∈ l, f.2 &&& trapEnables amr = 0) →
      l.foldl (fun r f => let y := f.2 &&& trapEnables amr; if y = 0 then r else (r.1 ||| (1#64 <<< f.1), r.2 ||| y)) r = r := by
    intro l
    induction l with
    | nil => intros; rfl
    | cons f l ih =>
      intro r hl
      simp only [List.foldl_cons, hl f List.mem_cons_self, if_true]
      exact ih r (fun g hg => hl g (List.mem_cons_of_mem _ hg))
  exact this fs _ h

theorem arithmeticTrap_none {x : Issue} {fs : List (Nat × BitVec 9)} (h : Untrapped x fs) : arithmeticTrap x.amr fs = none := by
  simp [arithmeticTrap, enabledFlags_none h]

@[simp] theorem Arch.orFlags_nil (a : Arch) : a.orFlags [] = a := rfl

/-! ### The marker and the close of an issue -/

/-- A marked word parks a group with results outstanding, and else empties its pending set (R39, R42). -/
theorem Group.marker_eq (g : Group) (amr : Word) (pc : BitVec 32) (word : Word) (mask : LaneMask)
    (h : word.getLsbD 31 = true → g.heldFlags = []) :
    g.marker amr pc word mask = { g with
      arch := { g.arch with pending := if word.getLsbD 31 && g.outstanding.isEmpty then [] else g.arch.pending }
      wait := if word.getLsbD 31 && !g.outstanding.isEmpty then .parked pc word mask else g.wait } := by
  cases hw : word.getLsbD 31 with
  | false => simp only [Group.marker, hw, Bool.not_false, if_true, Bool.false_and, Bool.false_eq_true, if_false]
  | true =>
    have hf := h hw
    cases ho : g.outstanding.isEmpty with
    | false => simp only [Group.marker, hw, ho, Bool.not_true, Bool.not_false, Bool.false_eq_true, if_false, Bool.and_false, Bool.and_true, if_true]
    | true =>
      obtain ⟨core, slot, team, index, live, ids, hc, sn, arch, accs, matrix, tokens, reds, batch, outs, held, wait, ww, after,
        fence, soft, handler, xset, ls, pref, req, rc, bad, begun⟩ := g
      simp only at hf ho ⊢
      subst hf
      cases wait <;> simp only [Group.marker, hw, ho, Group.park, Group.emptyPending, enabledFlags, List.foldl_nil, true_or, if_true,
        Arch.orFlags, Bool.not_true, Bool.false_eq_true, if_false, Bool.and_true, Bool.and_false]

/-- The close of a word that is done, raises no fault and traps no flag. -/
theorem finish_done {u : Use} {x : Issue} {s : State} {d : Done} {g : Group} (hg : d.s.group? x.core x.slot = some g)
    (ht : u.tokens x = []) (hs : d.stay = false) (hf : d.fault = none) (hu : Untrapped x d.flags)
    (hh : s.fetched.getLsbD 31 = true → g.heldFlags = []) (he : x.e.g.fence = none) (hb : g.bad = []) :
    finish u x s d = x.closes s d.s { g with
      arch := let a := g.arch.orFlags d.flags
              if (u.rounds || d.rounds) && x.mode = 4 then { a with sseq := a.sseq + 1 } else a } (d.succs.getD x.onward) := by
  have hft : g.tokens.filter (fun _ => true) = g.tokens := List.filter_eq_self.2 (fun _ _ => rfl)
  simp only [finish, hg, ht, List.flatMap_nil, List.append_nil, List.filterMap_nil, List.map_nil,
    arithmeticTrap_none hu, Option.map_none, Option.toList_none, hs, hf, Bool.false_eq_true, if_false, List.any_nil, Bool.not_false, hft,
    Group.mend_none g _ hb]
  rw [Group.marker_eq _ _ _ _ _ (by
    simp only [Group.retireWord, he, Option.isSome_none, Bool.false_eq_true, if_false]; exact hh)]
  simp only [Group.retireWord, he, Option.isSome_none, Bool.false_eq_true, if_false, Issue.closes, Issue.onward, State.marked,
    Arch.advance, Arch.frontierAfter, Arch.fallThrough]
  rfl

/-- A word that changes only registers of its group: it completes as its meaning says. -/
theorem issueArch_completes {s : State} {x : Issue} (h : Issues s x) {u : Use} {f : Issue → Arch → Arch × List (Nat × BitVec 9)}
    (hd : decodeFault u x = none) (ht : u.tokens x = []) (hu : Untrapped x (f x x.arch).2) :
    issueArch u f s = .next (x.leaves s (let a := (f x x.arch).1.orFlags (f x x.arch).2
      if u.rounds && x.mode = 4 then { a with sseq := a.sseq + 1 } else a) x.onward) := by
  obtain ⟨hg, hc, hk⟩ := h.group
  rw [issueArch, issue_next h, issueStep_body h _ _ hd ht]
  simp only [archBody, afterBody]
  have hg' : (s.setGroup { x.e.g with arch := (f x x.arch).1 }).group? x.core x.slot = some { x.e.g with arch := (f x x.arch).1 } := by
    have := State.group?_setGroup (s := s) (g := { x.e.g with arch := (f x x.arch).1 }) (g0 := x.e.g) (by simpa [hc, hk] using hg)
    simpa [hc, hk] using this
  rw [finish_done hg' ht rfl rfl hu (by simpa using h.held) h.fence (by simpa using h.bad)]
  simp only [Issue.leaves, Issue.closes, Bool.or_false, Option.getD_none]
  exact congrArg _ (State.setGroup_setGroup _ _ _ rfl rfl)

end Sys2Proof.Machine
end

