-- ==== Sys2Proof/Laws/Shapes.lean ====
section
/-! SUPPORT. The shapes of the integer instructions complete: one lemma per shape. -/

namespace Sys2Proof.Machine

theorem mem_laneList {m : LaneMask} {i : Nat} (h : i ∈ laneList m) : i < 64 ∧ m.getLsbD i = true := by
  simpa [laneList, lanes] using h

theorem foldl_congr_mem {α β : Type} {f g : β → α → β} (l : List α) (b : β) (h : ∀ b, ∀ y ∈ l, f b y = g b y) :
    l.foldl f b = l.foldl g b := by
  induction l generalizing b with
  | nil => rfl
  | cons y l ih =>
    rw [List.foldl_cons, List.foldl_cons, h b y List.mem_cons_self]
    exact ih _ (fun b z hz => h b z (List.mem_cons_of_mem _ hz))

/-- Only the values at the lanes 0 to 63 count. -/
theorem setActive_lanes {x : Issue} {d : Nat} {f g : Nat → Word} {a : Arch} (h : ∀ i, i < 64 → f i = g i) :
    setActive x d f a = setActive x d g a := foldl_congr_mem _ _ (fun _ i hi => by rw [h i (mem_laneList hi).1])

theorem setActive_congr {x : Issue} {d : Nat} {f g : Nat → Word} {a : Arch} (h : ∀ i, f i = g i) :
    setActive x d f a = setActive x d g a := by rw [funext h]

theorem setActive64_congr {x : Issue} {d : Nat} {f g : Nat → BitVec 64} {a : Arch} (h : ∀ i, f i = g i) :
    setActive64 x d f a = setActive64 x d g a := by rw [funext h]

theorem setActiveP_congr {x : Issue} {p : Nat} {f g : Nat → Bool} {a : Arch} (h : ∀ i, f i = g i) :
    setActiveP x p f a = setActiveP x p g a := by rw [funext h]

/-- No LIMM is asked of a target that takes none. -/
theorem limm_none (u : Use) : ∀ k : BitVec 20, (none : Option (BitVec 20)) = some k → u.limm = true ∧ u.limmMask = k := by
  intro k hk; cases hk

/-- A word that passes the checks by its registers and hints, and changes only registers of its group without a flag. -/
theorem issueArch_regs {s : State} {x : Issue} (h : Issues s x) {u : Use} {f : Issue → Arch → Arch × List (Nat × BitVec 9)}
    {rs : List RegRef} (hr : Usable x rs) {limm : Option (BitVec 20)} (hh : Hinted x limm u.rnd u.sat u.bpri)
    (hl : ∀ k, limm = some k → u.limm = true ∧ u.limmMask = k) (h1 : u.illegal = false) (h2 : u.illegalIn x = false)
    (h3 : u.forbidden = false) (h4 : u.privileged = true → x.e.l.privileged = true) (h5 : u.badReg = false) (h6 : u.badIn x = false)
    (hs : ∀ r ∈ u.regs x, r ∈ rs) (h7 : u.rounds = false)
    (h8 : (f x x.arch).2 = []) : issueArch u f s = .next (x.leaves s (f x x.arch).1 x.onward) := by
  rw [issueArch_completes h (decodeFault_none hr hh hl h1 h2 h3 h4 h5 h6 hs) (tokens_none hr hs)
    (by intro g hg; rw [h8] at hg; exact absurd hg List.not_mem_nil)]
  simp only [h7, h8, Arch.orFlags_nil, Bool.false_and, Bool.false_eq_true, if_false]

theorem vec3_completes {s : State} {x : Issue} (h : Issues s x) {sat old : Bool} {d a b : BitVec 8}
    {f : Bool → Word → Word → Word → Word} (hr : Usable x [vN d, vN a, vN b]) (hh : Hinted x none false sat false) :
    vec3 sat old d a b f s = .next (x.leaves s (setActive x d.toNat
      (fun i => f x.run.sat (x.arch.getV d.toNat i) (x.arch.getV a.toNat i) (x.arch.getV b.toNat i)) x.arch) x.onward) := by
  refine issueArch_regs h hr hh (limm_none _) rfl rfl rfl (fun hp => nomatch hp) rfl rfl ?_ rfl rfl
  intro r; cases old <;> simp [Use.regs] <;> rintro (h | h | h | h) <;> simp [h]

theorem vec3Pair_completes {s : State} {x : Issue} (h : Issues s x) {d a b : BitVec 8} {f : Bool → BitVec 64 → BitVec 64 → BitVec 64}
    (hr : Usable x (vPair d ++ vPair a ++ vPair b)) (hh : Hinted x none false true false)
    (hd : d.getLsbD 0 = false) (ha : a.getLsbD 0 = false) (hb : b.getLsbD 0 = false) :
    vec3Pair d a b f s = .next (x.leaves s (setActive64 x d.toNat
      (fun i => f x.run.sat (x.arch.getV64 a.toNat i) (x.arch.getV64 b.toNat i)) x.arch) x.onward) := by
  refine issueArch_regs h hr hh (limm_none _) rfl rfl rfl (fun hp => nomatch hp) ?_ rfl ?_ rfl rfl
  · simp only [oddV, hd, ha, hb]; rfl
  · intro r; grind [Use.regs]

theorem vecImm_completes {s : State} {x : Issue} (h : Issues s x) {sat sg : Bool} {d a i : BitVec 8} {f : Bool → Word → Word → Word}
    (hr : Usable x [vN d, vN a]) (hh : Hinted x (some 0xFFFFF) false sat false) :
    vecImm sat sg d a i f s = .next (x.leaves s (setActive x d.toNat
      (fun l => f x.run.sat (x.arch.getV a.toNat l) (immI x.run sg i)) x.arch) x.onward) := by
  refine issueArch_regs h hr hh ?_ rfl rfl rfl (fun hp => nomatch hp) rfl rfl ?_ rfl rfl
  · intro k hk; cases hk; exact ⟨rfl, rfl⟩
  · intro r; grind [Use.regs]

theorem vec1_completes {s : State} {x : Issue} (h : Issues s x) {sat : Bool} {d a : BitVec 8} {f : Bool → Word → Word}
    (hr : Usable x [vN d, vN a]) (hh : Hinted x none false sat false) :
    vec1 sat d a f s = .next (x.leaves s (setActive x d.toNat (fun i => f x.run.sat (x.arch.getV a.toNat i)) x.arch) x.onward) := by
  refine issueArch_regs h hr hh (limm_none _) rfl rfl rfl (fun hp => nomatch hp) rfl rfl ?_ rfl rfl
  intro r; grind [Use.regs]

theorem compare_completes {s : State} {x : Issue} (h : Issues s x) {c : BitVec 2} {p : BitVec 6} {a b : BitVec 8} {f : Word → Int}
    (hr : Usable x [pN p, vN a, vN b]) (hh : Hinted x none false false false) :
    compare c p a b f s = .next (x.leaves s (setActiveP x p.toNat
      (fun i => holds c (f (x.arch.getV a.toNat i)) (f (x.arch.getV b.toNat i))) x.arch) x.onward) := by
  refine issueArch_regs h hr hh (limm_none _) rfl rfl rfl (fun hp => nomatch hp) rfl rfl ?_ rfl rfl
  intro r; grind [Use.regs]

theorem uni2_completes {s : State} {x : Issue} (h : Issues s x) {sat : Bool} {d a b : BitVec 6} {f : Bool → Word → Word → Word}
    (hr : Usable x [sN d, sN a, sN b]) (hh : Hinted x none false sat false) :
    uni2 sat d a b f s = .next (x.leaves s (x.arch.setS d.toNat
      (f x.run.sat (x.arch.getS a.toNat) (x.arch.getS b.toNat))) x.onward) := by
  refine issueArch_regs h hr hh (limm_none _) rfl rfl rfl (fun hp => nomatch hp) rfl rfl ?_ rfl rfl
  intro r; grind [Use.regs]

theorem uni1_completes {s : State} {x : Issue} (h : Issues s x) {d a : BitVec 6} {f : Word → Word}
    (hr : Usable x [sN d, sN a]) (hh : Hinted x none false false false) :
    uni1 d a f s = .next (x.leaves s (x.arch.setS d.toNat (f (x.arch.getS a.toNat))) x.onward) := by
  refine issueArch_regs h hr hh (limm_none _) rfl rfl rfl (fun hp => nomatch hp) rfl rfl ?_ rfl rfl
  intro r; grind [Use.regs]

theorem uni2Pair_completes {s : State} {x : Issue} (h : Issues s x) {d a b : BitVec 6} {f : Bool → BitVec 64 → BitVec 64 → BitVec 64}
    (hr : Usable x (sPair d ++ sPair a ++ sPair b)) (hh : Hinted x none false true false)
    (hd : d.getLsbD 0 = false) (ha : a.getLsbD 0 = false) (hb : b.getLsbD 0 = false) :
    uni2Pair d a b f s = .next (x.leaves s (x.arch.setS64 d.toNat
      (f x.run.sat (x.arch.getS64 a.toNat) (x.arch.getS64 b.toNat))) x.onward) := by
  refine issueArch_regs h hr hh (limm_none _) rfl rfl rfl (fun hp => nomatch hp) ?_ rfl ?_ rfl rfl
  · simp only [oddS, hd, ha, hb]; rfl
  · intro r; grind [Use.regs]

theorem votePredicate_completes {s : State} {x : Issue} (h : Issues s x) {d a : BitVec 6} {f : LaneMask → LaneMask → Bool}
    (hr : Usable x [pN a, pN d]) (hh : Hinted x none false false false) :
    votePredicate d a f s = .next (x.leaves s (setActiveP x d.toNat (fun _ => f x.active (ballot x x.arch a)) x.arch) x.onward) := by
  refine issueArch_regs h hr hh (limm_none _) rfl rfl rfl (fun hp => nomatch hp) rfl rfl ?_ rfl rfl
  intro r; grind [Use.regs]

theorem shuffle_completes {s : State} {x : Issue} (h : Issues s x) {up : Bool} {d a : BitVec 8} {src : Nat → Int}
    (hr : Usable x [vN d, vN a]) (hh : Hinted x none false false false) :
    shuffle up d a src s = .next (x.leaves s (setActive x d.toNat (fun i =>
      if 0 ≤ src i ∧ src i < 64 then x.arch.getV a.toNat (src i).toNat
      else if up && x.e.l.kh.errata.contains 514 then 0 else x.arch.getV a.toNat i) x.arch) x.onward) := by
  refine issueArch_regs h hr hh (limm_none _) rfl rfl rfl (fun hp => nomatch hp) rfl rfl ?_ rfl rfl
  intro r; grind [Use.regs]

end Sys2Proof.Machine
end

