-- ==== Sys2Proof/Laws/IntegerOps.lean ====
section
/-! SUPPORT. The integer operations in the words of R113 to R118: one equation per operation. -/

namespace Sys2Proof.Machine

theorem narrow32_eq (t : Bool) (z : Int) : narrow 32 t z = if t then clamp32 z else BitVec.ofInt 32 z := by
  cases t <;> simp [narrow, clampInt, clamp32]

theorem narrow64_eq (t : Bool) (z : Int) : narrow 64 t z = if t then clamp64 z else BitVec.ofInt 64 z := by
  cases t <;> simp [narrow, clampInt, clamp64]

theorem opAdd_eq (t : Bool) (a b : Word) : opAdd t a b = if t then clamp32 (a.toInt + b.toInt) else a + b := by
  simp [opAdd, narrow32_eq, BitVec.ofInt_add]

theorem opSub_eq (t : Bool) (a b : Word) : opSub t a b = if t then clamp32 (a.toInt - b.toInt) else a - b := by
  have h : BitVec.ofInt 32 (a.toInt - b.toInt) = a - b := by
    apply BitVec.eq_of_toInt_eq; simp [BitVec.toInt_sub]
  simp [opSub, narrow32_eq, h]

theorem opMul_eq (t : Bool) (a b : Word) : opMul t a b = if t then clamp32 (a.toInt * b.toInt) else a * b := by
  simp [opMul, narrow32_eq, BitVec.ofInt_mul]

theorem opMad_eq (t : Bool) (d a b : Word) : opMad t d a b = if t then clamp32 (d.toInt + a.toInt * b.toInt) else d + a * b := by
  simp [opMad, narrow32_eq, BitVec.ofInt_mul, BitVec.ofInt_add]

theorem opMulHS_eq (a b : Word) : opMulHS a b = (a.signExtend 64 * b.signExtend 64).extractLsb' 32 32 := by
  apply BitVec.eq_of_toNat_eq
  have h : ((a.signExtend 64 * b.signExtend 64).toInt) = a.toInt * b.toInt := by
    rw [BitVec.toInt_mul, BitVec.toInt_signExtend_of_le (by omega), BitVec.toInt_signExtend_of_le (by omega)]
    have h1 := BitVec.two_mul_toInt_lt (x := a); have h2 := BitVec.le_two_mul_toInt (x := a)
    have h3 := BitVec.two_mul_toInt_lt (x := b); have h4 := BitVec.le_two_mul_toInt (x := b)
    have u : a.toInt * b.toInt ≤ 2^62 := by nlinarith
    have l : -2^62 ≤ a.toInt * b.toInt := by nlinarith
    rw [Int.bmod_eq_of_le] <;> norm_num at * <;> omega
  rw [opMulHS, BitVec.extractLsb'_toNat, ← h, Nat.shiftRight_eq_div_pow, BitVec.toNat_ofInt]
  have := BitVec.toInt_eq_toNat_cond (a.signExtend 64 * b.signExtend 64)
  have := (a.signExtend 64 * b.signExtend 64).isLt
  split at * <;> omega

theorem opMulHN_eq (a b : Word) : opMulHN a b = (a.setWidth 64 * b.setWidth 64).extractLsb' 32 32 := by
  apply BitVec.eq_of_toNat_eq
  have h1 := a.isLt; have h2 := b.isLt
  have : a.toNat * b.toNat < 2^64 := by nlinarith
  rw [opMulHN, BitVec.extractLsb'_toNat, BitVec.toNat_mul, BitVec.toNat_setWidth, BitVec.toNat_setWidth, Nat.shiftRight_eq_div_pow,
    BitVec.toNat_ofNat, Nat.mod_eq_of_lt (show a.toNat < 2 ^ 64 by omega), Nat.mod_eq_of_lt (show b.toNat < 2 ^ 64 by omega),
    Nat.mod_eq_of_lt this]

theorem opMinS_eq (a b : Word) : opMinS a b = if a.slt b then a else b := by
  simp only [opMinS, BitVec.slt, decide_eq_true_eq]
  split <;> split
  · rfl
  · exact BitVec.eq_of_toInt_eq (by omega)
  · exfalso; omega
  · rfl

theorem opMaxS_eq (a b : Word) : opMaxS a b = if a.slt b then b else a := by
  simp only [opMaxS, BitVec.slt, decide_eq_true_eq]
  split <;> split
  · rfl
  · exact BitVec.eq_of_toInt_eq (by omega)
  · exfalso; omega
  · rfl

theorem opMinN_eq (a b : Word) : opMinN a b = if a.ult b then a else b := by
  simp only [opMinN, BitVec.ult, decide_eq_true_eq]
  split <;> split
  · rfl
  · exact BitVec.eq_of_toNat_eq (by omega)
  · exfalso; omega
  · rfl

theorem opMaxN_eq (a b : Word) : opMaxN a b = if a.ult b then b else a := by
  simp only [opMaxN, BitVec.ult, decide_eq_true_eq]
  split <;> split
  · rfl
  · exact BitVec.eq_of_toNat_eq (by omega)
  · exfalso; omega
  · rfl

theorem opShl_eq (a : Word) (n : Nat) : opShl a n = a <<< n := by
  simp only [opShl]; split
  · next h => apply BitVec.eq_of_getLsbD_eq; intro i hi; simp; omega
  · rfl

theorem opShr_eq (a : Word) (n : Nat) : opShr a n = a >>> n := by
  simp only [opShr]; split
  · next h => apply BitVec.eq_of_getLsbD_eq; intro i hi; simp; exact BitVec.getLsbD_of_ge _ _ (by omega)
  · rfl

theorem opSar_eq (a : Word) (n : Nat) : opSar a n = a.sshiftRight n := by
  simp only [opSar]
  rcases Nat.lt_or_ge n 32 with h | h
  · rw [Nat.min_eq_left (by omega)]
  · rw [Nat.min_eq_right (by omega)]
    apply BitVec.eq_of_getLsbD_eq; intro i hi
    simp only [BitVec.getLsbD_sshiftRight]
    have h1 : ¬ 32 ≤ i := by omega
    simp only [h1, decide_false, Bool.not_false, Bool.true_and]
    rw [if_neg (show ¬ n + i < 32 by omega)]
    split
    · have : i = 0 := by omega
      subst this; simp [BitVec.msb_eq_getLsbD_last]
    · rfl

theorem opAdd64_eq (t : Bool) (a b : BitVec 64) : opAdd64 t a b = if t then clamp64 (a.toInt + b.toInt) else a + b := by
  simp [opAdd64, narrow64_eq, BitVec.ofInt_add]

theorem opSub64_eq (t : Bool) (a b : BitVec 64) : opSub64 t a b = if t then clamp64 (a.toInt - b.toInt) else a - b := by
  have h : BitVec.ofInt 64 (a.toInt - b.toInt) = a - b := by
    apply BitVec.eq_of_toInt_eq; simp [BitVec.toInt_sub]
  simp [opSub64, narrow64_eq, h]

theorem opPopc_eq (a : Word) : opPopc a = BitVec.ofNat 32 ((List.range 32).countP (fun k => a.getLsbD k)) := by
  have key : ∀ n y, popCount n y = (List.range n).countP (fun k => y.testBit k) := by
    intro n
    induction n with
    | zero => intro y; rfl
    | succ n ih =>
      intro y
      rw [popCount, ih, List.range_succ_eq_map, List.countP_cons, List.countP_map]
      have h0 : (if y.testBit 0 = true then 1 else 0) = y % 2 := by
        rw [Nat.testBit_zero]; rcases Nat.mod_two_eq_zero_or_one y with h | h <;> simp [h]
      rw [h0, Nat.add_comm]
      congr 1
      apply List.countP_congr
      intro k _
      simp [Nat.testBit_succ]
  rw [opPopc, key]; rfl

theorem opBrev_eq (a : Word) : opBrev a = a.reverse := by
  have key : ∀ n y i, (bitReverse n y).testBit i = (decide (i < n) && y.testBit (n - 1 - i)) := by
    intro n
    induction n with
    | zero => intro y i; simp [bitReverse]
    | succ n ih =>
      intro y i
      have hlt : bitReverse n (y / 2) < 2 ^ n := by
        apply Nat.lt_pow_two_of_testBit
        intro j hj; rw [ih]; simp; omega
      rw [bitReverse, Nat.mul_comm, Nat.testBit_two_pow_mul_add _ hlt]
      by_cases hi : i < n
      · rw [if_pos hi, ih, ← Nat.testBit_succ]
        simp only [hi, decide_true, Bool.true_and, show i < n + 1 by omega]
        congr 1; omega
      · rw [if_neg hi]
        by_cases hn : i = n
        · subst hn
          simp only [Nat.sub_self, Nat.lt_succ_self, decide_true, Bool.true_and, Nat.add_sub_cancel, Nat.testBit_zero, Nat.mod_mod]
        · have : ¬ i < n + 1 := by omega
          simp only [this, decide_false, Bool.false_and]
          apply Nat.testBit_lt_two_pow
          calc y % 2 < 2 := Nat.mod_lt _ (by omega)
            _ = 2 ^ 1 := rfl
            _ ≤ 2 ^ (i - n) := Nat.pow_le_pow_right (by omega) (by omega)
  apply BitVec.eq_of_getLsbD_eq
  intro i hi
  rw [opBrev, BitVec.getLsbD_ofNat, key, BitVec.getLsbD_reverse, BitVec.getMsbD]
  simp only [hi, decide_true, Bool.true_and]; rfl

theorem opClz_eq (a : Word) : opClz a = a.clz := by
  have key : ∀ n y, y < 2 ^ n → bitLength n y = if y = 0 then 0 else Nat.log2 y + 1 := by
    intro n
    induction n with
    | zero => intro y hy; simp [bitLength]; omega
    | succ n ih =>
      intro y hy
      rw [bitLength]
      split
      · rfl
      · rw [ih _ (by omega), Nat.log2_def y]
        by_cases h2 : 2 ≤ y
        · rw [if_pos h2, if_neg (by omega)]; omega
        · rw [if_neg h2, if_pos (by omega)]
  have hb := a.isLt
  rw [opClz, key 32 a.toNat hb]
  apply BitVec.eq_of_toNat_eq
  by_cases h : a = 0#32
  · subst h; rfl
  · have hn : a.toNat ≠ 0 := fun hh => h (BitVec.eq_of_toNat_eq hh)
    rw [if_neg hn]
    have h1 := BitVec.two_pow_sub_clz_le_toNat_of_ne_zero (w := 32) (x := a) (by omega) h
    have h2 := BitVec.toNat_lt_two_pow_sub_clz (w := 32) (x := a)
    have h3 : a.clz < 32 := (BitVec.clz_lt_iff_ne_zero (w := 32)).2 h
    have h4 : a.clz.toNat < 32 := h3
    have h5 : a.toNat.log2 = 31 - a.clz.toNat := by
      rw [Nat.log2_eq_iff hn]
      exact ⟨h1, by rwa [show 31 - a.clz.toNat + 1 = 32 - a.clz.toNat by omega]⟩
    rw [h5, BitVec.toNat_ofNat]
    omega

theorem opNeg_eq (t : Bool) (a : Word) : narrow 32 t (-a.toInt) = if t then clamp32 (-a.toInt) else -a := by
  have h : BitVec.ofInt 32 (-a.toInt) = -a := by apply BitVec.eq_of_toInt_eq; simp [BitVec.toInt_neg]
  simp [narrow32_eq, h]

theorem opAbs_eq (t : Bool) (a : Word) :
    narrow 32 t (a.toInt.natAbs : Int) = if t then clamp32 a.toInt.natAbs else if a.slt 0 then -a else a := by
  have h : BitVec.ofInt 32 (a.toInt.natAbs : Int) = if a.slt 0 then -a else a := by
    simp only [BitVec.slt, decide_eq_true_eq]
    split
    · next h =>
      have h' : a.toInt < 0 := h
      rw [show (a.toInt.natAbs : Int) = -a.toInt by omega]
      apply BitVec.eq_of_toInt_eq; simp [BitVec.toInt_neg]
    · next h =>
      have h' : ¬ a.toInt < 0 := h
      rw [show (a.toInt.natAbs : Int) = a.toInt by omega]
      simp
  rw [narrow32_eq, h]

theorem opBfeN_eq (a c : Word) : opBfe false false a c =
    BitVec.ofNat 32 (a.toNat / 2 ^ (c.toNat % 256) % 2 ^ (min (c.toNat / 256 % 256) 32)) := by
  have hp : field c.toNat 0 8 = c.toNat % 256 := by simp [field]
  have hw : field c.toNat 8 8 = c.toNat / 256 % 256 := by simp [field]
  simp only [opBfe, hp, hw, Bool.false_and, Bool.false_eq_true, if_false]
  split
  · next h => simp [h, Nat.mod_one]
  · have : ((a.toNat : Int) / ((2 ^ (c.toNat % 256) : Nat) : Int) % ((2 ^ (min (c.toNat / 256 % 256) 32) : Nat) : Int)) =
        ((a.toNat / 2 ^ (c.toNat % 256) % 2 ^ (min (c.toNat / 256 % 256) 32) : Nat) : Int) := by norm_cast
    rw [this, Int.toNat_natCast]

theorem opBfeS_eq (a c : Word) : opBfe true false a c =
    (let wid := min (c.toNat / 256 % 256) 32
     let f : Int := a.toInt / 2 ^ (c.toNat % 256) % 2 ^ wid
     if wid = 0 then 0 else if f < 2 ^ (wid - 1) then BitVec.ofInt 32 f else BitVec.ofInt 32 (f - 2 ^ wid)) := by
  have hp : field c.toNat 0 8 = c.toNat % 256 := by simp [field]
  have hw : field c.toNat 8 8 = c.toNat / 256 % 256 := by simp [field]
  simp only [opBfe, hp, hw, Bool.and_false, Bool.false_and, Bool.false_eq_true, if_false, if_true]
  generalize min (c.toNat / 256 % 256) 32 = w
  split
  · rfl
  · have hpos : (0 : Int) < 2 ^ w := by positivity
    have h0 := Int.emod_nonneg (a.toInt / 2 ^ (c.toNat % 256)) (ne_of_gt hpos)
    have h1 := Int.emod_lt_of_pos (a.toInt / 2 ^ (c.toNat % 256)) hpos
    push_cast
    generalize a.toInt / 2 ^ (c.toNat % 256) % 2 ^ w = f at *
    lift f to Nat using h0
    have h2 : f < 2 ^ w := by exact_mod_cast h1
    rw [Int.toNat_natCast, signed, Nat.mod_eq_of_lt h2]
    by_cases h3 : f < 2 ^ (w - 1)
    · rw [if_pos h3, if_pos (by exact_mod_cast h3)]
    · rw [if_neg h3, if_neg (by exact_mod_cast h3)]; push_cast; rfl

theorem opBfi_eq (d a c : Word) : opBfi d a c =
    (let m : Word := BitVec.ofNat 32 ((2 ^ (min (c.toNat / 256 % 256) 32) - 1) * 2 ^ (c.toNat % 256))
     (d &&& ~~~m) ||| (a <<< (c.toNat % 256) &&& m)) := by
  have hp : field c.toNat 0 8 = c.toNat % 256 := by simp [field]
  have hw : field c.toNat 8 8 = c.toNat / 256 % 256 := by simp [field]
  have hs : ∀ n : Nat, (BitVec.ofNat 32 (a.toNat * 2 ^ n)) = a <<< n := by
    intro n; apply BitVec.eq_of_toNat_eq; rw [BitVec.toNat_ofNat, BitVec.toNat_shiftLeft, Nat.shiftLeft_eq]
  simp only [opBfi, hp, hw, hs]

theorem laneCount_eq (m : LaneMask) : laneCount m = (List.range 64).countP (fun i => m.getLsbD i) := by
  rw [laneCount, laneList, lanes, List.countP_eq_length_filter]

end Sys2Proof.Machine
end

