-- ==== Sys2Proof/Laws/Memory.lean ====
section
/-! SUPPORT. Memory: a read after a write, what a write leaves alone, and the canonical form that every write keeps. -/

namespace Sys2Proof.Machine

/-! ### Bytes put at rising keys -/

theorem smGet_putCells (c : SMap Byte) (a k : Nat) (bs : List Byte) :
    smGet 0 k (putCells c a bs) = if a ≤ k ∧ k < a + bs.length then bs.getD (k - a) 0 else smGet 0 k c := by
  induction bs generalizing c a with
  | nil => rw [putCells, if_neg (by simp only [List.length_nil]; omega)]
  | cons b bs ih =>
    rw [putCells, ih, smGet_smSet]
    by_cases h : k = a
    · subst h; rw [if_neg (by omega)]; simp
    · by_cases h1 : a + 1 ≤ k ∧ k < a + 1 + bs.length
      · obtain ⟨n, rfl⟩ : ∃ n, k = a + 1 + n := ⟨k - (a + 1), by omega⟩
        simp only [h1, and_self, if_true, List.length_cons]
        rw [if_pos ⟨by omega, by omega⟩, show a + 1 + n - a = n + 1 by omega, show a + 1 + n - (a + 1) = n by omega]
        simp
      · rw [if_neg h1, if_neg h, if_neg]
        simp only [List.length_cons]; omega

theorem smCanonical_putCells (c : SMap Byte) (a : Nat) (bs : List Byte) (h : smCanonical (0 : Byte) c = true) :
    smCanonical (0 : Byte) (putCells c a bs) = true := by
  induction bs generalizing c a with
  | nil => exact h
  | cons b bs ih => exact ih _ _ (smCanonical_smSet _ _ _ _ h)

/-! ### Tiers -/

@[simp] theorem Memory.cells_setPoison (m : Memory) (t u : Tier) (p : List Nat) : (m.setPoison t p).cells u = m.cells u := by
  cases t <;> cases u <;> rfl

@[simp] theorem Memory.poison_setCells (m : Memory) (t u : Tier) (c : List Host.Cell) : (m.setCells t c).poison u = m.poison u := by
  cases t <;> cases u <;> rfl

theorem Memory.cells_setCells (m : Memory) (t u : Tier) (c : List Host.Cell) :
    (m.setCells t c).cells u = if u = t then c else m.cells u := by
  cases t <;> cases u <;> rfl

theorem Memory.poison_setPoison (m : Memory) (t u : Tier) (p : List Nat) :
    (m.setPoison t p).poison u = if u = t then p else m.poison u := by
  cases t <;> cases u <;> rfl

/-- The canonical form, tier by tier. -/
theorem Memory.wf_iff (m : Memory) : m.wf = true ↔ ∀ t, smCanonical (0 : Byte) (m.cells t) = true := by
  constructor
  · intro h t
    simp only [Memory.wf, Bool.and_eq_true] at h
    cases t
    · exact h.1.1
    · exact h.1.2
    · exact h.2
  · intro h
    simp only [Memory.wf, Bool.and_eq_true]
    exact ⟨⟨h .gddr, h .granary⟩, h .host⟩

theorem Memory.wf_setCells (m : Memory) (t : Tier) (c : List Host.Cell) (hm : m.wf = true) (hc : smCanonical (0 : Byte) c = true) :
    (m.setCells t c).wf = true := by
  rw [Memory.wf_iff] at *
  intro u
  rw [Memory.cells_setCells]
  split
  · exact hc
  · exact hm u

theorem Memory.wf_setPoison (m : Memory) (t : Tier) (p : List Nat) : (m.setPoison t p).wf = m.wf := by cases t <;> rfl

/-- A write keeps the canonical form. -/
theorem Memory.wf_write (m : Memory) (t : Tier) (a : Nat) (bs : List Byte) (h : m.wf = true) : (m.write t a bs).wf = true := by
  rw [Memory.write, Memory.wf_setPoison]
  exact Memory.wf_setCells _ _ _ h (smCanonical_putCells _ _ _ ((Memory.wf_iff m).1 h t))

/-- A byte read after a write: the byte written there, and every other byte of every tier as before. -/
theorem Memory.readByte_write (m : Memory) (t u : Tier) (a k : Nat) (bs : List Byte) :
    (m.write t a bs).readByte u k = if u = t ∧ a ≤ k ∧ k < a + bs.length then bs.getD (k - a) 0 else m.readByte u k := by
  simp only [Memory.write, Memory.readByte, Memory.cells_setPoison, Memory.cells_setCells]
  by_cases h : u = t
  · subst h; rw [if_pos rfl, smGet_putCells]; simp
  · simp [h]

/-- A read of the bytes just written gives them. -/
theorem Memory.read_write_same (m : Memory) (t : Tier) (a : Nat) (bs : List Byte) : (m.write t a bs).read t a bs.length = bs := by
  apply List.ext_getElem
  · simp [Memory.read]
  · intro i h1 h2
    simp only [Memory.read, List.getElem_map, List.getElem_range, Memory.readByte_write]
    simp [List.getD_eq_getElem?_getD, h2]

/-! ### Places -/

/-- What a write at a place does to the memories. -/
theorem State.putPlace_memory (s : State) (p : Place) (bs : List Byte) :
    (s.putPlace p bs).memory = match p with
      | .mem t a _ => s.memory.write t a bs
      | _ => s.memory := by
  cases p <;> simp only [State.putPlace]
  · split
    · simp only [State.setLoftTile]; split <;> simp
    · rfl
  · split
    · simp only [State.setBarnTile]; split <;> simp
    · rfl

theorem State.writePlace_memory (s : State) (p : Place) (bs : List Byte) (tag : BitVec 64) (own : Option OwnAccess) :
    (s.writePlace p bs tag own).memory = if bs.isEmpty then s.memory else (s.putPlace p bs).memory := by
  unfold State.writePlace; split <;> simp

/-- A write at a place keeps the canonical form of the memories. -/
theorem State.writePlace_wf (s : State) (p : Place) (bs : List Byte) (tag : BitVec 64) (own : Option OwnAccess)
    (h : s.memory.wf = true) : (s.writePlace p bs tag own).memory.wf = true := by
  rw [State.writePlace_memory]
  split
  · exact h
  · rw [State.putPlace_memory]
    split
    · exact Memory.wf_write _ _ _ _ h
    · exact h

theorem State.poisonPlace_wf (s : State) (p : Place) (n : Nat) (h : s.memory.wf = true) : (s.poisonPlace p n).memory.wf = true := by
  cases p <;> simp only [State.poisonPlace]
  · rw [Memory.wf_setPoison]; exact h
  · split
    · simp only [State.setLoftTile]; split <;> simpa using h
    · exact h
  · split
    · simp only [State.setBarnTile]; split <;> simpa using h
    · exact h
  · exact h

/-- The peers' bytes are not memory of the module: a write at a place leaves them. -/
@[simp] theorem State.writePlace_peers (s : State) (p : Place) (bs : List Byte) (tag : BitVec 64) (own : Option OwnAccess) :
    (s.writePlace p bs tag own).peers = s.peers := by
  unfold State.writePlace State.putPlace State.setLoftTile State.setBarnTile
  split
  · rfl
  · cases p <;> simp only [State.notify_peers]
    · split
      · split <;> simp
      · rfl
    · split
      · split <;> simp
      · rfl

/-- A write of one sector keeps the canonical form. -/
theorem hwWriteAt_wf (s : State) (c : Nat) (p : Nat × List Byte) (h : s.memory.wf = true) : (hwWriteAt s c p).memory.wf = true := by
  simp only [hwWriteAt]
  split
  · split
    · split
      · exact State.writePlace_wf _ _ _ _ _ h
      · exact h
    · exact h
  · exact h

@[simp] theorem hwWriteAt_peers (s : State) (c : Nat) (p : Nat × List Byte) : (hwWriteAt s c p).peers = s.peers := by
  simp only [hwWriteAt]
  split
  · split
    · split <;> simp
    · rfl
  · rfl

/-- The hardware's own write keeps the canonical form. -/
theorem hwWrite_wf (s : State) (c va : Nat) (bs : List Byte) (h : s.memory.wf = true) : (hwWrite s c va bs).memory.wf = true := by
  simp only [hwWrite]
  induction sectorsOf va bs generalizing s with
  | nil => exact h
  | cons p ps ih => exact ih _ (hwWriteAt_wf _ _ _ h)

@[simp] theorem hwWrite_peers (s : State) (c va : Nat) (bs : List Byte) : (hwWrite s c va bs).peers = s.peers := by
  simp only [hwWrite]
  induction sectorsOf va bs generalizing s with
  | nil => rfl
  | cons p ps ih => rw [List.foldl_cons, ih, hwWriteAt_peers]

end Sys2Proof.Machine
end

