-- ==== Sys2Proof/Laws/PerInstr.lean ====
section
/-! SUPPORT. For every constructor of Instr: its word decodes to it (R30, R47; spec/02_encoding.md). -/

namespace Sys2Proof.Laws.RoundTrip

/-- The word that encode gives a well-formed instruction decodes to that instruction, whatever its operands and its marker. -/
def Statement (i : Instr) : Prop :=
  i.wellFormed = true → ∀ (m : Bool) (w : BitVec 32), encode m i = some w → decodeWord w = .ok i

theorem part_7_8_8_8_at24_7 (u : BitVec 1) (s0 : BitVec 7) (s1 : BitVec 8) (s2 : BitVec 8) (s3 : BitVec 8) : (u ++ s0 ++ s1 ++ s2 ++ s3).extractLsb' 24 7 = s0 := by
  simp only [BitVec.extractLsb'_append_eq_ite]; simp

theorem part_8_8_8_at16_8 (u : BitVec 8) (s0 : BitVec 8) (s1 : BitVec 8) (s2 : BitVec 8) : (u ++ s0 ++ s1 ++ s2).extractLsb' 16 8 = s0 := by
  simp only [BitVec.extractLsb'_append_eq_ite]; simp

theorem part_8_8_at8_8 (u : BitVec 16) (s0 : BitVec 8) (s1 : BitVec 8) : (u ++ s0 ++ s1).extractLsb' 8 8 = s0 := by
  simp only [BitVec.extractLsb'_append_eq_ite]; simp

theorem part_8_at0_8 (u : BitVec 24) (s0 : BitVec 8) : (u ++ s0).extractLsb' 0 8 = s0 := by
  simp only [BitVec.extractLsb'_append_eq_ite]; simp

theorem part_7_8_16_at24_7 (u : BitVec 1) (s0 : BitVec 7) (s1 : BitVec 8) (s2 : BitVec 16) : (u ++ s0 ++ s1 ++ s2).extractLsb' 24 7 = s0 := by
  simp only [BitVec.extractLsb'_append_eq_ite]; simp

theorem part_8_16_at16_8 (u : BitVec 8) (s0 : BitVec 8) (s1 : BitVec 16) : (u ++ s0 ++ s1).extractLsb' 16 8 = s0 := by
  simp only [BitVec.extractLsb'_append_eq_ite]; simp

theorem part_16_at0_16 (u : BitVec 16) (s0 : BitVec 16) : (u ++ s0).extractLsb' 0 16 = s0 := by
  simp only [BitVec.extractLsb'_append_eq_ite]; simp

theorem part_7_2_6_8_8_at24_7 (u : BitVec 1) (s0 : BitVec 7) (s1 : BitVec 2) (s2 : BitVec 6) (s3 : BitVec 8) (s4 : BitVec 8) : (u ++ s0 ++ s1 ++ s2 ++ s3 ++ s4).extractLsb' 24 7 = s0 := by
  simp only [BitVec.extractLsb'_append_eq_ite]; simp

theorem part_2_6_8_8_at22_2 (u : BitVec 8) (s0 : BitVec 2) (s1 : BitVec 6) (s2 : BitVec 8) (s3 : BitVec 8) : (u ++ s0 ++ s1 ++ s2 ++ s3).extractLsb' 22 2 = s0 := by
  simp only [BitVec.extractLsb'_append_eq_ite]; simp

theorem part_6_8_8_at16_6 (u : BitVec 10) (s0 : BitVec 6) (s1 : BitVec 8) (s2 : BitVec 8) : (u ++ s0 ++ s1 ++ s2).extractLsb' 16 6 = s0 := by
  simp only [BitVec.extractLsb'_append_eq_ite]; simp

theorem part_7_6_6_6_2_4_at24_7 (u : BitVec 1) (s0 : BitVec 7) (s1 : BitVec 6) (s2 : BitVec 6) (s3 : BitVec 6) (s4 : BitVec 2) (s5 : BitVec 4) : (u ++ s0 ++ s1 ++ s2 ++ s3 ++ s4 ++ s5).extractLsb' 24 7 = s0 := by
  simp only [BitVec.extractLsb'_append_eq_ite]; simp

theorem part_6_6_6_2_4_at18_6 (u : BitVec 8) (s0 : BitVec 6) (s1 : BitVec 6) (s2 : BitVec 6) (s3 : BitVec 2) (s4 : BitVec 4) : (u ++ s0 ++ s1 ++ s2 ++ s3 ++ s4).extractLsb' 18 6 = s0 := by
  simp only [BitVec.extractLsb'_append_eq_ite]; simp

theorem part_6_6_2_4_at12_6 (u : BitVec 14) (s0 : BitVec 6) (s1 : BitVec 6) (s2 : BitVec 2) (s3 : BitVec 4) : (u ++ s0 ++ s1 ++ s2 ++ s3).extractLsb' 12 6 = s0 := by
  simp only [BitVec.extractLsb'_append_eq_ite]; simp

theorem part_6_2_4_at6_6 (u : BitVec 20) (s0 : BitVec 6) (s1 : BitVec 2) (s2 : BitVec 4) : (u ++ s0 ++ s1 ++ s2).extractLsb' 6 6 = s0 := by
  simp only [BitVec.extractLsb'_append_eq_ite]; simp

theorem part_4_at0_4 (u : BitVec 28) (s0 : BitVec 4) : (u ++ s0).extractLsb' 0 4 = s0 := by
  simp only [BitVec.extractLsb'_append_eq_ite]; simp

theorem part_2_4_at4_2 (u : BitVec 26) (s0 : BitVec 2) (s1 : BitVec 4) : (u ++ s0 ++ s1).extractLsb' 4 2 = s0 := by
  simp only [BitVec.extractLsb'_append_eq_ite]; simp

theorem part_7_8_2_6_8_at24_7 (u : BitVec 1) (s0 : BitVec 7) (s1 : BitVec 8) (s2 : BitVec 2) (s3 : BitVec 6) (s4 : BitVec 8) : (u ++ s0 ++ s1 ++ s2 ++ s3 ++ s4).extractLsb' 24 7 = s0 := by
  simp only [BitVec.extractLsb'_append_eq_ite]; simp

theorem part_8_2_6_8_at16_8 (u : BitVec 8) (s0 : BitVec 8) (s1 : BitVec 2) (s2 : BitVec 6) (s3 : BitVec 8) : (u ++ s0 ++ s1 ++ s2 ++ s3).extractLsb' 16 8 = s0 := by
  simp only [BitVec.extractLsb'_append_eq_ite]; simp

theorem part_6_8_at8_6 (u : BitVec 18) (s0 : BitVec 6) (s1 : BitVec 8) : (u ++ s0 ++ s1).extractLsb' 8 6 = s0 := by
  simp only [BitVec.extractLsb'_append_eq_ite]; simp

theorem part_2_6_8_at14_2 (u : BitVec 16) (s0 : BitVec 2) (s1 : BitVec 6) (s2 : BitVec 8) : (u ++ s0 ++ s1 ++ s2).extractLsb' 14 2 = s0 := by
  simp only [BitVec.extractLsb'_append_eq_ite]; simp

theorem part_9_6_8_8_at24_7 (u : BitVec 1) (s0 : BitVec 9) (s1 : BitVec 6) (s2 : BitVec 8) (s3 : BitVec 8) : (u ++ s0 ++ s1 ++ s2 ++ s3).extractLsb' 24 7 = s0.extractLsb' 2 7 := by
  simp only [BitVec.extractLsb'_append_eq_ite]; simp

theorem part_9_6_8_8_at22_2 (u : BitVec 1) (s0 : BitVec 9) (s1 : BitVec 6) (s2 : BitVec 8) (s3 : BitVec 8) : (u ++ s0 ++ s1 ++ s2 ++ s3).extractLsb' 22 2 = s0.extractLsb' 0 2 := by
  simp only [BitVec.extractLsb'_append_eq_ite]; simp

theorem part_9_6_2_6_8_at24_7 (u : BitVec 1) (s0 : BitVec 9) (s1 : BitVec 6) (s2 : BitVec 2) (s3 : BitVec 6) (s4 : BitVec 8) : (u ++ s0 ++ s1 ++ s2 ++ s3 ++ s4).extractLsb' 24 7 = s0.extractLsb' 2 7 := by
  simp only [BitVec.extractLsb'_append_eq_ite]; simp

theorem part_6_2_6_8_at16_6 (u : BitVec 10) (s0 : BitVec 6) (s1 : BitVec 2) (s2 : BitVec 6) (s3 : BitVec 8) : (u ++ s0 ++ s1 ++ s2 ++ s3).extractLsb' 16 6 = s0 := by
  simp only [BitVec.extractLsb'_append_eq_ite]; simp

theorem part_9_6_2_6_8_at22_2 (u : BitVec 1) (s0 : BitVec 9) (s1 : BitVec 6) (s2 : BitVec 2) (s3 : BitVec 6) (s4 : BitVec 8) : (u ++ s0 ++ s1 ++ s2 ++ s3 ++ s4).extractLsb' 22 2 = s0.extractLsb' 0 2 := by
  simp only [BitVec.extractLsb'_append_eq_ite]; simp

theorem part_7_6_6_12_at24_7 (u : BitVec 1) (s0 : BitVec 7) (s1 : BitVec 6) (s2 : BitVec 6) (s3 : BitVec 12) : (u ++ s0 ++ s1 ++ s2 ++ s3).extractLsb' 24 7 = s0 := by
  simp only [BitVec.extractLsb'_append_eq_ite]; simp

theorem part_6_6_12_at18_6 (u : BitVec 8) (s0 : BitVec 6) (s1 : BitVec 6) (s2 : BitVec 12) : (u ++ s0 ++ s1 ++ s2).extractLsb' 18 6 = s0 := by
  simp only [BitVec.extractLsb'_append_eq_ite]; simp

theorem part_6_12_at12_6 (u : BitVec 14) (s0 : BitVec 6) (s1 : BitVec 12) : (u ++ s0 ++ s1).extractLsb' 12 6 = s0 := by
  simp only [BitVec.extractLsb'_append_eq_ite]; simp

theorem part_12_at0_12 (u : BitVec 20) (s0 : BitVec 12) : (u ++ s0).extractLsb' 0 12 = s0 := by
  simp only [BitVec.extractLsb'_append_eq_ite]; simp

theorem part_7_6_18_at24_7 (u : BitVec 1) (s0 : BitVec 7) (s1 : BitVec 6) (s2 : BitVec 18) : (u ++ s0 ++ s1 ++ s2).extractLsb' 24 7 = s0 := by
  simp only [BitVec.extractLsb'_append_eq_ite]; simp

theorem part_6_18_at18_6 (u : BitVec 8) (s0 : BitVec 6) (s1 : BitVec 18) : (u ++ s0 ++ s1).extractLsb' 18 6 = s0 := by
  simp only [BitVec.extractLsb'_append_eq_ite]; simp

theorem part_18_at0_12 (u : BitVec 14) (s0 : BitVec 18) : (u ++ s0).extractLsb' 0 12 = s0.extractLsb' 0 12 := by
  simp only [BitVec.extractLsb'_append_eq_ite]; simp

theorem part_18_at12_6 (u : BitVec 14) (s0 : BitVec 18) : (u ++ s0).extractLsb' 12 6 = s0.extractLsb' 12 6 := by
  simp only [BitVec.extractLsb'_append_eq_ite]; simp

theorem part_7_8_8_2_6_at24_7 (u : BitVec 1) (s0 : BitVec 7) (s1 : BitVec 8) (s2 : BitVec 8) (s3 : BitVec 2) (s4 : BitVec 6) : (u ++ s0 ++ s1 ++ s2 ++ s3 ++ s4).extractLsb' 24 7 = s0 := by
  simp only [BitVec.extractLsb'_append_eq_ite]; simp

theorem part_8_8_2_6_at16_8 (u : BitVec 8) (s0 : BitVec 8) (s1 : BitVec 8) (s2 : BitVec 2) (s3 : BitVec 6) : (u ++ s0 ++ s1 ++ s2 ++ s3).extractLsb' 16 8 = s0 := by
  simp only [BitVec.extractLsb'_append_eq_ite]; simp

theorem part_8_2_6_at8_8 (u : BitVec 16) (s0 : BitVec 8) (s1 : BitVec 2) (s2 : BitVec 6) : (u ++ s0 ++ s1 ++ s2).extractLsb' 8 8 = s0 := by
  simp only [BitVec.extractLsb'_append_eq_ite]; simp

theorem part_6_at0_6 (u : BitVec 26) (s0 : BitVec 6) : (u ++ s0).extractLsb' 0 6 = s0 := by
  simp only [BitVec.extractLsb'_append_eq_ite]; simp

theorem part_2_6_at6_2 (u : BitVec 24) (s0 : BitVec 2) (s1 : BitVec 6) : (u ++ s0 ++ s1).extractLsb' 6 2 = s0 := by
  simp only [BitVec.extractLsb'_append_eq_ite]; simp

theorem part_7_8_8_1_1_2_4_at24_7 (u : BitVec 1) (s0 : BitVec 7) (s1 : BitVec 8) (s2 : BitVec 8) (s3 : BitVec 1) (s4 : BitVec 1) (s5 : BitVec 2) (s6 : BitVec 4) : (u ++ s0 ++ s1 ++ s2 ++ s3 ++ s4 ++ s5 ++ s6).extractLsb' 24 7 = s0 := by
  simp only [BitVec.extractLsb'_append_eq_ite]; simp

theorem part_8_8_1_1_2_4_at16_8 (u : BitVec 8) (s0 : BitVec 8) (s1 : BitVec 8) (s2 : BitVec 1) (s3 : BitVec 1) (s4 : BitVec 2) (s5 : BitVec 4) : (u ++ s0 ++ s1 ++ s2 ++ s3 ++ s4 ++ s5).extractLsb' 16 8 = s0 := by
  simp only [BitVec.extractLsb'_append_eq_ite]; simp

theorem part_8_1_1_2_4_at8_8 (u : BitVec 16) (s0 : BitVec 8) (s1 : BitVec 1) (s2 : BitVec 1) (s3 : BitVec 2) (s4 : BitVec 4) : (u ++ s0 ++ s1 ++ s2 ++ s3 ++ s4).extractLsb' 8 8 = s0 := by
  simp only [BitVec.extractLsb'_append_eq_ite]; simp

theorem bit_1_2_4_at6 (u : BitVec 25) (s0 : Bool) (s1 : BitVec 2) (s2 : BitVec 4) : (u ++ BitVec.ofBool s0 ++ s1 ++ s2)[6] = s0 := by
  rw [← BitVec.getLsbD_eq_getElem]; simp only [BitVec.getLsbD_append, BitVec.getLsbD_ofBool]; simp

theorem part_1_1_2_4_at7_1 (u : BitVec 24) (s0 : BitVec 1) (s1 : BitVec 1) (s2 : BitVec 2) (s3 : BitVec 4) : (u ++ s0 ++ s1 ++ s2 ++ s3).extractLsb' 7 1 = s0 := by
  simp only [BitVec.extractLsb'_append_eq_ite]; simp

theorem part_7_6_6_6_6_at24_7 (u : BitVec 1) (s0 : BitVec 7) (s1 : BitVec 6) (s2 : BitVec 6) (s3 : BitVec 6) (s4 : BitVec 6) : (u ++ s0 ++ s1 ++ s2 ++ s3 ++ s4).extractLsb' 24 7 = s0 := by
  simp only [BitVec.extractLsb'_append_eq_ite]; simp

theorem part_6_6_6_6_at18_6 (u : BitVec 8) (s0 : BitVec 6) (s1 : BitVec 6) (s2 : BitVec 6) (s3 : BitVec 6) : (u ++ s0 ++ s1 ++ s2 ++ s3).extractLsb' 18 6 = s0 := by
  simp only [BitVec.extractLsb'_append_eq_ite]; simp

theorem part_6_6_6_at12_6 (u : BitVec 14) (s0 : BitVec 6) (s1 : BitVec 6) (s2 : BitVec 6) : (u ++ s0 ++ s1 ++ s2).extractLsb' 12 6 = s0 := by
  simp only [BitVec.extractLsb'_append_eq_ite]; simp

theorem part_6_6_at6_6 (u : BitVec 20) (s0 : BitVec 6) (s1 : BitVec 6) : (u ++ s0 ++ s1).extractLsb' 6 6 = s0 := by
  simp only [BitVec.extractLsb'_append_eq_ite]; simp

theorem part_12_at0_6 (u : BitVec 20) (s0 : BitVec 12) : (u ++ s0).extractLsb' 0 6 = s0.extractLsb' 0 6 := by
  simp only [BitVec.extractLsb'_append_eq_ite]; simp

theorem part_12_at6_6 (u : BitVec 20) (s0 : BitVec 12) : (u ++ s0).extractLsb' 6 6 = s0.extractLsb' 6 6 := by
  simp only [BitVec.extractLsb'_append_eq_ite]; simp

theorem part_9_6_16_at24_7 (u : BitVec 1) (s0 : BitVec 9) (s1 : BitVec 6) (s2 : BitVec 16) : (u ++ s0 ++ s1 ++ s2).extractLsb' 24 7 = s0.extractLsb' 2 7 := by
  simp only [BitVec.extractLsb'_append_eq_ite]; simp

theorem part_6_16_at16_6 (u : BitVec 10) (s0 : BitVec 6) (s1 : BitVec 16) : (u ++ s0 ++ s1).extractLsb' 16 6 = s0 := by
  simp only [BitVec.extractLsb'_append_eq_ite]; simp

theorem part_9_6_16_at22_2 (u : BitVec 1) (s0 : BitVec 9) (s1 : BitVec 6) (s2 : BitVec 16) : (u ++ s0 ++ s1 ++ s2).extractLsb' 22 2 = s0.extractLsb' 0 2 := by
  simp only [BitVec.extractLsb'_append_eq_ite]; simp

theorem part_8_at6_2 (u : BitVec 24) (s0 : BitVec 8) : (u ++ s0).extractLsb' 6 2 = s0.extractLsb' 6 2 := by
  simp only [BitVec.extractLsb'_append_eq_ite]; simp

theorem part_8_at0_6 (u : BitVec 24) (s0 : BitVec 8) : (u ++ s0).extractLsb' 0 6 = s0.extractLsb' 0 6 := by
  simp only [BitVec.extractLsb'_append_eq_ite]; simp

theorem part_9_6_8_2_6_at24_7 (u : BitVec 1) (s0 : BitVec 9) (s1 : BitVec 6) (s2 : BitVec 8) (s3 : BitVec 2) (s4 : BitVec 6) : (u ++ s0 ++ s1 ++ s2 ++ s3 ++ s4).extractLsb' 24 7 = s0.extractLsb' 2 7 := by
  simp only [BitVec.extractLsb'_append_eq_ite]; simp

theorem part_6_8_2_6_at16_6 (u : BitVec 10) (s0 : BitVec 6) (s1 : BitVec 8) (s2 : BitVec 2) (s3 : BitVec 6) : (u ++ s0 ++ s1 ++ s2 ++ s3).extractLsb' 16 6 = s0 := by
  simp only [BitVec.extractLsb'_append_eq_ite]; simp

theorem part_9_6_8_2_6_at22_2 (u : BitVec 1) (s0 : BitVec 9) (s1 : BitVec 6) (s2 : BitVec 8) (s3 : BitVec 2) (s4 : BitVec 6) : (u ++ s0 ++ s1 ++ s2 ++ s3 ++ s4).extractLsb' 22 2 = s0.extractLsb' 0 2 := by
  simp only [BitVec.extractLsb'_append_eq_ite]; simp

theorem part_7_8_8_6_2_at24_7 (u : BitVec 1) (s0 : BitVec 7) (s1 : BitVec 8) (s2 : BitVec 8) (s3 : BitVec 6) (s4 : BitVec 2) : (u ++ s0 ++ s1 ++ s2 ++ s3 ++ s4).extractLsb' 24 7 = s0 := by
  simp only [BitVec.extractLsb'_append_eq_ite]; simp

theorem part_8_8_6_2_at16_8 (u : BitVec 8) (s0 : BitVec 8) (s1 : BitVec 8) (s2 : BitVec 6) (s3 : BitVec 2) : (u ++ s0 ++ s1 ++ s2 ++ s3).extractLsb' 16 8 = s0 := by
  simp only [BitVec.extractLsb'_append_eq_ite]; simp

theorem part_8_6_2_at8_8 (u : BitVec 16) (s0 : BitVec 8) (s1 : BitVec 6) (s2 : BitVec 2) : (u ++ s0 ++ s1 ++ s2).extractLsb' 8 8 = s0 := by
  simp only [BitVec.extractLsb'_append_eq_ite]; simp

theorem part_2_at0_2 (u : BitVec 30) (s0 : BitVec 2) : (u ++ s0).extractLsb' 0 2 = s0 := by
  simp only [BitVec.extractLsb'_append_eq_ite]; simp

theorem part_6_2_at2_6 (u : BitVec 24) (s0 : BitVec 6) (s1 : BitVec 2) : (u ++ s0 ++ s1).extractLsb' 2 6 = s0 := by
  simp only [BitVec.extractLsb'_append_eq_ite]; simp

theorem part_7_8_8_2_1_5_at24_7 (u : BitVec 1) (s0 : BitVec 7) (s1 : BitVec 8) (s2 : BitVec 8) (s3 : BitVec 2) (s4 : BitVec 1) (s5 : BitVec 5) : (u ++ s0 ++ s1 ++ s2 ++ s3 ++ s4 ++ s5).extractLsb' 24 7 = s0 := by
  simp only [BitVec.extractLsb'_append_eq_ite]; simp

theorem part_8_8_2_1_5_at16_8 (u : BitVec 8) (s0 : BitVec 8) (s1 : BitVec 8) (s2 : BitVec 2) (s3 : BitVec 1) (s4 : BitVec 5) : (u ++ s0 ++ s1 ++ s2 ++ s3 ++ s4).extractLsb' 16 8 = s0 := by
  simp only [BitVec.extractLsb'_append_eq_ite]; simp

theorem part_8_2_1_5_at8_8 (u : BitVec 16) (s0 : BitVec 8) (s1 : BitVec 2) (s2 : BitVec 1) (s3 : BitVec 5) : (u ++ s0 ++ s1 ++ s2 ++ s3).extractLsb' 8 8 = s0 := by
  simp only [BitVec.extractLsb'_append_eq_ite]; simp

theorem part_2_1_5_at6_2 (u : BitVec 24) (s0 : BitVec 2) (s1 : BitVec 1) (s2 : BitVec 5) : (u ++ s0 ++ s1 ++ s2).extractLsb' 6 2 = s0 := by
  simp only [BitVec.extractLsb'_append_eq_ite]; simp

theorem bit_1_5_at5 (u : BitVec 26) (s0 : Bool) (s1 : BitVec 5) : (u ++ BitVec.ofBool s0 ++ s1)[5] = s0 := by
  rw [← BitVec.getLsbD_eq_getElem]; simp only [BitVec.getLsbD_append, BitVec.getLsbD_ofBool]; simp

theorem part_5_at0_5 (u : BitVec 27) (s0 : BitVec 5) : (u ++ s0).extractLsb' 0 5 = s0 := by
  simp only [BitVec.extractLsb'_append_eq_ite]; simp

theorem part_7_8_8_1_2_3_2_at24_7 (u : BitVec 1) (s0 : BitVec 7) (s1 : BitVec 8) (s2 : BitVec 8) (s3 : BitVec 1) (s4 : BitVec 2) (s5 : BitVec 3) (s6 : BitVec 2) : (u ++ s0 ++ s1 ++ s2 ++ s3 ++ s4 ++ s5 ++ s6).extractLsb' 24 7 = s0 := by
  simp only [BitVec.extractLsb'_append_eq_ite]; simp

theorem part_8_8_1_2_3_2_at16_8 (u : BitVec 8) (s0 : BitVec 8) (s1 : BitVec 8) (s2 : BitVec 1) (s3 : BitVec 2) (s4 : BitVec 3) (s5 : BitVec 2) : (u ++ s0 ++ s1 ++ s2 ++ s3 ++ s4 ++ s5).extractLsb' 16 8 = s0 := by
  simp only [BitVec.extractLsb'_append_eq_ite]; simp

theorem part_8_1_2_3_2_at8_8 (u : BitVec 16) (s0 : BitVec 8) (s1 : BitVec 1) (s2 : BitVec 2) (s3 : BitVec 3) (s4 : BitVec 2) : (u ++ s0 ++ s1 ++ s2 ++ s3 ++ s4).extractLsb' 8 8 = s0 := by
  simp only [BitVec.extractLsb'_append_eq_ite]; simp

theorem part_2_3_2_at5_2 (u : BitVec 25) (s0 : BitVec 2) (s1 : BitVec 3) (s2 : BitVec 2) : (u ++ s0 ++ s1 ++ s2).extractLsb' 5 2 = s0 := by
  simp only [BitVec.extractLsb'_append_eq_ite]; simp

theorem part_3_2_at2_3 (u : BitVec 27) (s0 : BitVec 3) (s1 : BitVec 2) : (u ++ s0 ++ s1).extractLsb' 2 3 = s0 := by
  simp only [BitVec.extractLsb'_append_eq_ite]; simp

theorem part_1_2_3_2_at7_1 (u : BitVec 24) (s0 : BitVec 1) (s1 : BitVec 2) (s2 : BitVec 3) (s3 : BitVec 2) : (u ++ s0 ++ s1 ++ s2 ++ s3).extractLsb' 7 1 = s0 := by
  simp only [BitVec.extractLsb'_append_eq_ite]; simp

theorem part_16_at8_8 (u : BitVec 16) (s0 : BitVec 16) : (u ++ s0).extractLsb' 8 8 = s0.extractLsb' 8 8 := by
  simp only [BitVec.extractLsb'_append_eq_ite]; simp

theorem part_16_at0_8 (u : BitVec 16) (s0 : BitVec 16) : (u ++ s0).extractLsb' 0 8 = s0.extractLsb' 0 8 := by
  simp only [BitVec.extractLsb'_append_eq_ite]; simp

theorem part_15_8_8_at24_7 (u : BitVec 1) (s0 : BitVec 15) (s1 : BitVec 8) (s2 : BitVec 8) : (u ++ s0 ++ s1 ++ s2).extractLsb' 24 7 = s0.extractLsb' 8 7 := by
  simp only [BitVec.extractLsb'_append_eq_ite]; simp

theorem part_15_8_8_at22_2 (u : BitVec 1) (s0 : BitVec 15) (s1 : BitVec 8) (s2 : BitVec 8) : (u ++ s0 ++ s1 ++ s2).extractLsb' 22 2 = s0.extractLsb' 6 2 := by
  simp only [BitVec.extractLsb'_append_eq_ite]; simp

theorem part_15_8_8_at16_6 (u : BitVec 1) (s0 : BitVec 15) (s1 : BitVec 8) (s2 : BitVec 8) : (u ++ s0 ++ s1 ++ s2).extractLsb' 16 6 = s0.extractLsb' 0 6 := by
  simp only [BitVec.extractLsb'_append_eq_ite]; simp

theorem part_7_3_6_6_3_5_1_at24_7 (u : BitVec 1) (s0 : BitVec 7) (s1 : BitVec 3) (s2 : BitVec 6) (s3 : BitVec 6) (s4 : BitVec 3) (s5 : BitVec 5) (s6 : BitVec 1) : (u ++ s0 ++ s1 ++ s2 ++ s3 ++ s4 ++ s5 ++ s6).extractLsb' 24 7 = s0 := by
  simp only [BitVec.extractLsb'_append_eq_ite]; simp

theorem part_3_6_6_3_5_1_at21_3 (u : BitVec 8) (s0 : BitVec 3) (s1 : BitVec 6) (s2 : BitVec 6) (s3 : BitVec 3) (s4 : BitVec 5) (s5 : BitVec 1) : (u ++ s0 ++ s1 ++ s2 ++ s3 ++ s4 ++ s5).extractLsb' 21 3 = s0 := by
  simp only [BitVec.extractLsb'_append_eq_ite]; simp

theorem part_6_6_3_5_1_at15_6 (u : BitVec 11) (s0 : BitVec 6) (s1 : BitVec 6) (s2 : BitVec 3) (s3 : BitVec 5) (s4 : BitVec 1) : (u ++ s0 ++ s1 ++ s2 ++ s3 ++ s4).extractLsb' 15 6 = s0 := by
  simp only [BitVec.extractLsb'_append_eq_ite]; simp

theorem part_6_3_5_1_at9_6 (u : BitVec 17) (s0 : BitVec 6) (s1 : BitVec 3) (s2 : BitVec 5) (s3 : BitVec 1) : (u ++ s0 ++ s1 ++ s2 ++ s3).extractLsb' 9 6 = s0 := by
  simp only [BitVec.extractLsb'_append_eq_ite]; simp

theorem part_3_5_1_at6_3 (u : BitVec 23) (s0 : BitVec 3) (s1 : BitVec 5) (s2 : BitVec 1) : (u ++ s0 ++ s1 ++ s2).extractLsb' 6 3 = s0 := by
  simp only [BitVec.extractLsb'_append_eq_ite]; simp

theorem part_5_1_at1_5 (u : BitVec 26) (s0 : BitVec 5) (s1 : BitVec 1) : (u ++ s0 ++ s1).extractLsb' 1 5 = s0 := by
  simp only [BitVec.extractLsb'_append_eq_ite]; simp

theorem bit_1_at0 (u : BitVec 31) (s0 : Bool)  : (u ++ BitVec.ofBool s0)[0] = s0 := by
  rw [← BitVec.getLsbD_eq_getElem]; simp only [BitVec.getLsbD_append, BitVec.getLsbD_ofBool]; simp

theorem part_7_3_6_6_3_3_2_1_at24_7 (u : BitVec 1) (s0 : BitVec 7) (s1 : BitVec 3) (s2 : BitVec 6) (s3 : BitVec 6) (s4 : BitVec 3) (s5 : BitVec 3) (s6 : BitVec 2) (s7 : BitVec 1) : (u ++ s0 ++ s1 ++ s2 ++ s3 ++ s4 ++ s5 ++ s6 ++ s7).extractLsb' 24 7 = s0 := by
  simp only [BitVec.extractLsb'_append_eq_ite]; simp

theorem part_3_6_6_3_3_2_1_at21_3 (u : BitVec 8) (s0 : BitVec 3) (s1 : BitVec 6) (s2 : BitVec 6) (s3 : BitVec 3) (s4 : BitVec 3) (s5 : BitVec 2) (s6 : BitVec 1) : (u ++ s0 ++ s1 ++ s2 ++ s3 ++ s4 ++ s5 ++ s6).extractLsb' 21 3 = s0 := by
  simp only [BitVec.extractLsb'_append_eq_ite]; simp

theorem part_6_6_3_3_2_1_at15_6 (u : BitVec 11) (s0 : BitVec 6) (s1 : BitVec 6) (s2 : BitVec 3) (s3 : BitVec 3) (s4 : BitVec 2) (s5 : BitVec 1) : (u ++ s0 ++ s1 ++ s2 ++ s3 ++ s4 ++ s5).extractLsb' 15 6 = s0 := by
  simp only [BitVec.extractLsb'_append_eq_ite]; simp

theorem part_6_3_3_2_1_at9_6 (u : BitVec 17) (s0 : BitVec 6) (s1 : BitVec 3) (s2 : BitVec 3) (s3 : BitVec 2) (s4 : BitVec 1) : (u ++ s0 ++ s1 ++ s2 ++ s3 ++ s4).extractLsb' 9 6 = s0 := by
  simp only [BitVec.extractLsb'_append_eq_ite]; simp

theorem part_3_3_2_1_at6_3 (u : BitVec 23) (s0 : BitVec 3) (s1 : BitVec 3) (s2 : BitVec 2) (s3 : BitVec 1) : (u ++ s0 ++ s1 ++ s2 ++ s3).extractLsb' 6 3 = s0 := by
  simp only [BitVec.extractLsb'_append_eq_ite]; simp

theorem part_3_2_1_at3_3 (u : BitVec 26) (s0 : BitVec 3) (s1 : BitVec 2) (s2 : BitVec 1) : (u ++ s0 ++ s1 ++ s2).extractLsb' 3 3 = s0 := by
  simp only [BitVec.extractLsb'_append_eq_ite]; simp

theorem part_2_1_at1_2 (u : BitVec 29) (s0 : BitVec 2) (s1 : BitVec 1) : (u ++ s0 ++ s1).extractLsb' 1 2 = s0 := by
  simp only [BitVec.extractLsb'_append_eq_ite]; simp

theorem part_7_3_21_at24_7 (u : BitVec 1) (s0 : BitVec 7) (s1 : BitVec 3) (s2 : BitVec 21) : (u ++ s0 ++ s1 ++ s2).extractLsb' 24 7 = s0 := by
  simp only [BitVec.extractLsb'_append_eq_ite]; simp

theorem part_3_21_at21_3 (u : BitVec 8) (s0 : BitVec 3) (s1 : BitVec 21) : (u ++ s0 ++ s1).extractLsb' 21 3 = s0 := by
  simp only [BitVec.extractLsb'_append_eq_ite]; simp

theorem part_21_at5_16 (u : BitVec 11) (s0 : BitVec 21) : (u ++ s0).extractLsb' 5 16 = s0.extractLsb' 5 16 := by
  simp only [BitVec.extractLsb'_append_eq_ite]; simp

theorem part_21_at0_5 (u : BitVec 11) (s0 : BitVec 21) : (u ++ s0).extractLsb' 0 5 = s0.extractLsb' 0 5 := by
  simp only [BitVec.extractLsb'_append_eq_ite]; simp

theorem part_7_3_16_5_at24_7 (u : BitVec 1) (s0 : BitVec 7) (s1 : BitVec 3) (s2 : BitVec 16) (s3 : BitVec 5) : (u ++ s0 ++ s1 ++ s2 ++ s3).extractLsb' 24 7 = s0 := by
  simp only [BitVec.extractLsb'_append_eq_ite]; simp

theorem part_3_16_5_at21_3 (u : BitVec 8) (s0 : BitVec 3) (s1 : BitVec 16) (s2 : BitVec 5) : (u ++ s0 ++ s1 ++ s2).extractLsb' 21 3 = s0 := by
  simp only [BitVec.extractLsb'_append_eq_ite]; simp

theorem part_16_5_at5_16 (u : BitVec 11) (s0 : BitVec 16) (s1 : BitVec 5) : (u ++ s0 ++ s1).extractLsb' 5 16 = s0 := by
  simp only [BitVec.extractLsb'_append_eq_ite]; simp

theorem part_7_3_1_5_6_9_at24_7 (u : BitVec 1) (s0 : BitVec 7) (s1 : BitVec 3) (s2 : BitVec 1) (s3 : BitVec 5) (s4 : BitVec 6) (s5 : BitVec 9) : (u ++ s0 ++ s1 ++ s2 ++ s3 ++ s4 ++ s5).extractLsb' 24 7 = s0 := by
  simp only [BitVec.extractLsb'_append_eq_ite]; simp

theorem part_3_1_5_6_9_at21_3 (u : BitVec 8) (s0 : BitVec 3) (s1 : BitVec 1) (s2 : BitVec 5) (s3 : BitVec 6) (s4 : BitVec 9) : (u ++ s0 ++ s1 ++ s2 ++ s3 ++ s4).extractLsb' 21 3 = s0 := by
  simp only [BitVec.extractLsb'_append_eq_ite]; simp

theorem part_5_6_9_at15_5 (u : BitVec 12) (s0 : BitVec 5) (s1 : BitVec 6) (s2 : BitVec 9) : (u ++ s0 ++ s1 ++ s2).extractLsb' 15 5 = s0 := by
  simp only [BitVec.extractLsb'_append_eq_ite]; simp

theorem part_6_9_at9_6 (u : BitVec 17) (s0 : BitVec 6) (s1 : BitVec 9) : (u ++ s0 ++ s1).extractLsb' 9 6 = s0 := by
  simp only [BitVec.extractLsb'_append_eq_ite]; simp

theorem part_1_5_6_9_at20_1 (u : BitVec 11) (s0 : BitVec 1) (s1 : BitVec 5) (s2 : BitVec 6) (s3 : BitVec 9) : (u ++ s0 ++ s1 ++ s2 ++ s3).extractLsb' 20 1 = s0 := by
  simp only [BitVec.extractLsb'_append_eq_ite]; simp

theorem part_9_at0_9 (u : BitVec 23) (s0 : BitVec 9) : (u ++ s0).extractLsb' 0 9 = s0 := by
  simp only [BitVec.extractLsb'_append_eq_ite]; simp

theorem part_7_3_1_5_15_at24_7 (u : BitVec 1) (s0 : BitVec 7) (s1 : BitVec 3) (s2 : BitVec 1) (s3 : BitVec 5) (s4 : BitVec 15) : (u ++ s0 ++ s1 ++ s2 ++ s3 ++ s4).extractLsb' 24 7 = s0 := by
  simp only [BitVec.extractLsb'_append_eq_ite]; simp

theorem part_3_1_5_15_at21_3 (u : BitVec 8) (s0 : BitVec 3) (s1 : BitVec 1) (s2 : BitVec 5) (s3 : BitVec 15) : (u ++ s0 ++ s1 ++ s2 ++ s3).extractLsb' 21 3 = s0 := by
  simp only [BitVec.extractLsb'_append_eq_ite]; simp

theorem part_5_15_at15_5 (u : BitVec 12) (s0 : BitVec 5) (s1 : BitVec 15) : (u ++ s0 ++ s1).extractLsb' 15 5 = s0 := by
  simp only [BitVec.extractLsb'_append_eq_ite]; simp

theorem part_1_5_15_at20_1 (u : BitVec 11) (s0 : BitVec 1) (s1 : BitVec 5) (s2 : BitVec 15) : (u ++ s0 ++ s1 ++ s2).extractLsb' 20 1 = s0 := by
  simp only [BitVec.extractLsb'_append_eq_ite]; simp

theorem part_15_at0_15 (u : BitVec 17) (s0 : BitVec 15) : (u ++ s0).extractLsb' 0 15 = s0 := by
  simp only [BitVec.extractLsb'_append_eq_ite]; simp

theorem part_7_3_3_3_15_at24_7 (u : BitVec 1) (s0 : BitVec 7) (s1 : BitVec 3) (s2 : BitVec 3) (s3 : BitVec 3) (s4 : BitVec 15) : (u ++ s0 ++ s1 ++ s2 ++ s3 ++ s4).extractLsb' 24 7 = s0 := by
  simp only [BitVec.extractLsb'_append_eq_ite]; simp

theorem part_3_3_3_15_at21_3 (u : BitVec 8) (s0 : BitVec 3) (s1 : BitVec 3) (s2 : BitVec 3) (s3 : BitVec 15) : (u ++ s0 ++ s1 ++ s2 ++ s3).extractLsb' 21 3 = s0 := by
  simp only [BitVec.extractLsb'_append_eq_ite]; simp

theorem part_3_15_at15_3 (u : BitVec 14) (s0 : BitVec 3) (s1 : BitVec 15) : (u ++ s0 ++ s1).extractLsb' 15 3 = s0 := by
  simp only [BitVec.extractLsb'_append_eq_ite]; simp

theorem part_3_3_15_at18_3 (u : BitVec 11) (s0 : BitVec 3) (s1 : BitVec 3) (s2 : BitVec 15) : (u ++ s0 ++ s1 ++ s2).extractLsb' 18 3 = s0 := by
  simp only [BitVec.extractLsb'_append_eq_ite]; simp

theorem part_10_6_6_3_6_at24_7 (u : BitVec 1) (s0 : BitVec 10) (s1 : BitVec 6) (s2 : BitVec 6) (s3 : BitVec 3) (s4 : BitVec 6) : (u ++ s0 ++ s1 ++ s2 ++ s3 ++ s4).extractLsb' 24 7 = s0.extractLsb' 3 7 := by
  simp only [BitVec.extractLsb'_append_eq_ite]; simp

theorem part_6_6_3_6_at15_6 (u : BitVec 11) (s0 : BitVec 6) (s1 : BitVec 6) (s2 : BitVec 3) (s3 : BitVec 6) : (u ++ s0 ++ s1 ++ s2 ++ s3).extractLsb' 15 6 = s0 := by
  simp only [BitVec.extractLsb'_append_eq_ite]; simp

theorem part_6_3_6_at9_6 (u : BitVec 17) (s0 : BitVec 6) (s1 : BitVec 3) (s2 : BitVec 6) : (u ++ s0 ++ s1 ++ s2).extractLsb' 9 6 = s0 := by
  simp only [BitVec.extractLsb'_append_eq_ite]; simp

theorem part_10_6_6_3_6_at21_3 (u : BitVec 1) (s0 : BitVec 10) (s1 : BitVec 6) (s2 : BitVec 6) (s3 : BitVec 3) (s4 : BitVec 6) : (u ++ s0 ++ s1 ++ s2 ++ s3 ++ s4).extractLsb' 21 3 = s0.extractLsb' 0 3 := by
  simp only [BitVec.extractLsb'_append_eq_ite]; simp

theorem part_3_6_at6_3 (u : BitVec 23) (s0 : BitVec 3) (s1 : BitVec 6) : (u ++ s0 ++ s1).extractLsb' 6 3 = s0 := by
  simp only [BitVec.extractLsb'_append_eq_ite]; simp

theorem part_10_6_6_9_at24_7 (u : BitVec 1) (s0 : BitVec 10) (s1 : BitVec 6) (s2 : BitVec 6) (s3 : BitVec 9) : (u ++ s0 ++ s1 ++ s2 ++ s3).extractLsb' 24 7 = s0.extractLsb' 3 7 := by
  simp only [BitVec.extractLsb'_append_eq_ite]; simp

theorem part_6_6_9_at15_6 (u : BitVec 11) (s0 : BitVec 6) (s1 : BitVec 6) (s2 : BitVec 9) : (u ++ s0 ++ s1 ++ s2).extractLsb' 15 6 = s0 := by
  simp only [BitVec.extractLsb'_append_eq_ite]; simp

theorem part_10_6_6_9_at21_3 (u : BitVec 1) (s0 : BitVec 10) (s1 : BitVec 6) (s2 : BitVec 6) (s3 : BitVec 9) : (u ++ s0 ++ s1 ++ s2 ++ s3).extractLsb' 21 3 = s0.extractLsb' 0 3 := by
  simp only [BitVec.extractLsb'_append_eq_ite]; simp

theorem part_13_3_6_9_at24_7 (u : BitVec 1) (s0 : BitVec 13) (s1 : BitVec 3) (s2 : BitVec 6) (s3 : BitVec 9) : (u ++ s0 ++ s1 ++ s2 ++ s3).extractLsb' 24 7 = s0.extractLsb' 6 7 := by
  simp only [BitVec.extractLsb'_append_eq_ite]; simp

theorem part_3_6_9_at15_3 (u : BitVec 14) (s0 : BitVec 3) (s1 : BitVec 6) (s2 : BitVec 9) : (u ++ s0 ++ s1 ++ s2).extractLsb' 15 3 = s0 := by
  simp only [BitVec.extractLsb'_append_eq_ite]; simp

theorem part_13_3_6_9_at18_6 (u : BitVec 1) (s0 : BitVec 13) (s1 : BitVec 3) (s2 : BitVec 6) (s3 : BitVec 9) : (u ++ s0 ++ s1 ++ s2 ++ s3).extractLsb' 18 6 = s0.extractLsb' 0 6 := by
  simp only [BitVec.extractLsb'_append_eq_ite]; simp

theorem part_21_at0_21 (u : BitVec 11) (s0 : BitVec 21) : (u ++ s0).extractLsb' 0 21 = s0 := by
  simp only [BitVec.extractLsb'_append_eq_ite]; simp

theorem part_13_6_9_3_at24_7 (u : BitVec 1) (s0 : BitVec 13) (s1 : BitVec 6) (s2 : BitVec 9) (s3 : BitVec 3) : (u ++ s0 ++ s1 ++ s2 ++ s3).extractLsb' 24 7 = s0.extractLsb' 6 7 := by
  simp only [BitVec.extractLsb'_append_eq_ite]; simp

theorem part_6_9_3_at12_6 (u : BitVec 14) (s0 : BitVec 6) (s1 : BitVec 9) (s2 : BitVec 3) : (u ++ s0 ++ s1 ++ s2).extractLsb' 12 6 = s0 := by
  simp only [BitVec.extractLsb'_append_eq_ite]; simp

theorem part_3_at0_3 (u : BitVec 29) (s0 : BitVec 3) : (u ++ s0).extractLsb' 0 3 = s0 := by
  simp only [BitVec.extractLsb'_append_eq_ite]; simp

theorem part_13_6_9_3_at18_6 (u : BitVec 1) (s0 : BitVec 13) (s1 : BitVec 6) (s2 : BitVec 9) (s3 : BitVec 3) : (u ++ s0 ++ s1 ++ s2 ++ s3).extractLsb' 18 6 = s0.extractLsb' 0 6 := by
  simp only [BitVec.extractLsb'_append_eq_ite]; simp

theorem part_9_3_at3_9 (u : BitVec 20) (s0 : BitVec 9) (s1 : BitVec 3) : (u ++ s0 ++ s1).extractLsb' 3 9 = s0 := by
  simp only [BitVec.extractLsb'_append_eq_ite]; simp

theorem part_7_6_15_3_at24_7 (u : BitVec 1) (s0 : BitVec 7) (s1 : BitVec 6) (s2 : BitVec 15) (s3 : BitVec 3) : (u ++ s0 ++ s1 ++ s2 ++ s3).extractLsb' 24 7 = s0 := by
  simp only [BitVec.extractLsb'_append_eq_ite]; simp

theorem part_6_15_3_at18_6 (u : BitVec 8) (s0 : BitVec 6) (s1 : BitVec 15) (s2 : BitVec 3) : (u ++ s0 ++ s1 ++ s2).extractLsb' 18 6 = s0 := by
  simp only [BitVec.extractLsb'_append_eq_ite]; simp

theorem part_15_3_at3_15 (u : BitVec 14) (s0 : BitVec 15) (s1 : BitVec 3) : (u ++ s0 ++ s1).extractLsb' 3 15 = s0 := by
  simp only [BitVec.extractLsb'_append_eq_ite]; simp

theorem part_7_8_1_7_6_2_at24_7 (u : BitVec 1) (s0 : BitVec 7) (s1 : BitVec 8) (s2 : BitVec 1) (s3 : BitVec 7) (s4 : BitVec 6) (s5 : BitVec 2) : (u ++ s0 ++ s1 ++ s2 ++ s3 ++ s4 ++ s5).extractLsb' 24 7 = s0 := by
  simp only [BitVec.extractLsb'_append_eq_ite]; simp

theorem part_8_1_7_6_2_at16_8 (u : BitVec 8) (s0 : BitVec 8) (s1 : BitVec 1) (s2 : BitVec 7) (s3 : BitVec 6) (s4 : BitVec 2) : (u ++ s0 ++ s1 ++ s2 ++ s3 ++ s4).extractLsb' 16 8 = s0 := by
  simp only [BitVec.extractLsb'_append_eq_ite]; simp

theorem part_7_6_2_at8_7 (u : BitVec 17) (s0 : BitVec 7) (s1 : BitVec 6) (s2 : BitVec 2) : (u ++ s0 ++ s1 ++ s2).extractLsb' 8 7 = s0 := by
  simp only [BitVec.extractLsb'_append_eq_ite]; simp

theorem part_1_7_6_2_at15_1 (u : BitVec 16) (s0 : BitVec 1) (s1 : BitVec 7) (s2 : BitVec 6) (s3 : BitVec 2) : (u ++ s0 ++ s1 ++ s2 ++ s3).extractLsb' 15 1 = s0 := by
  simp only [BitVec.extractLsb'_append_eq_ite]; simp

theorem part_8_6_2_at15_1 (u : BitVec 16) (s0 : BitVec 8) (s1 : BitVec 6) (s2 : BitVec 2) : (u ++ s0 ++ s1 ++ s2).extractLsb' 15 1 = s0.extractLsb' 7 1 := by
  simp only [BitVec.extractLsb'_append_eq_ite]; simp

theorem part_8_6_2_at8_7 (u : BitVec 16) (s0 : BitVec 8) (s1 : BitVec 6) (s2 : BitVec 2) : (u ++ s0 ++ s1 ++ s2).extractLsb' 8 7 = s0.extractLsb' 0 7 := by
  simp only [BitVec.extractLsb'_append_eq_ite]; simp

theorem part_7_8_8_4_2_2_at24_7 (u : BitVec 1) (s0 : BitVec 7) (s1 : BitVec 8) (s2 : BitVec 8) (s3 : BitVec 4) (s4 : BitVec 2) (s5 : BitVec 2) : (u ++ s0 ++ s1 ++ s2 ++ s3 ++ s4 ++ s5).extractLsb' 24 7 = s0 := by
  simp only [BitVec.extractLsb'_append_eq_ite]; simp

theorem part_8_8_4_2_2_at16_8 (u : BitVec 8) (s0 : BitVec 8) (s1 : BitVec 8) (s2 : BitVec 4) (s3 : BitVec 2) (s4 : BitVec 2) : (u ++ s0 ++ s1 ++ s2 ++ s3 ++ s4).extractLsb' 16 8 = s0 := by
  simp only [BitVec.extractLsb'_append_eq_ite]; simp

theorem part_8_4_2_2_at8_8 (u : BitVec 16) (s0 : BitVec 8) (s1 : BitVec 4) (s2 : BitVec 2) (s3 : BitVec 2) : (u ++ s0 ++ s1 ++ s2 ++ s3).extractLsb' 8 8 = s0 := by
  simp only [BitVec.extractLsb'_append_eq_ite]; simp

theorem part_4_2_2_at4_4 (u : BitVec 24) (s0 : BitVec 4) (s1 : BitVec 2) (s2 : BitVec 2) : (u ++ s0 ++ s1 ++ s2).extractLsb' 4 4 = s0 := by
  simp only [BitVec.extractLsb'_append_eq_ite]; simp

theorem part_2_2_at2_2 (u : BitVec 28) (s0 : BitVec 2) (s1 : BitVec 2) : (u ++ s0 ++ s1).extractLsb' 2 2 = s0 := by
  simp only [BitVec.extractLsb'_append_eq_ite]; simp

theorem part_25_6_at24_7 (u : BitVec 1) (s0 : BitVec 25) (s1 : BitVec 6) : (u ++ s0 ++ s1).extractLsb' 24 7 = s0.extractLsb' 18 7 := by
  simp only [BitVec.extractLsb'_append_eq_ite]; simp

theorem part_25_6_at6_18 (u : BitVec 1) (s0 : BitVec 25) (s1 : BitVec 6) : (u ++ s0 ++ s1).extractLsb' 6 18 = s0.extractLsb' 0 18 := by
  simp only [BitVec.extractLsb'_append_eq_ite]; simp

theorem part_7_6_6_11_1_at24_7 (u : BitVec 1) (s0 : BitVec 7) (s1 : BitVec 6) (s2 : BitVec 6) (s3 : BitVec 11) (s4 : BitVec 1) : (u ++ s0 ++ s1 ++ s2 ++ s3 ++ s4).extractLsb' 24 7 = s0 := by
  simp only [BitVec.extractLsb'_append_eq_ite]; simp

theorem part_6_6_11_1_at18_6 (u : BitVec 8) (s0 : BitVec 6) (s1 : BitVec 6) (s2 : BitVec 11) (s3 : BitVec 1) : (u ++ s0 ++ s1 ++ s2 ++ s3).extractLsb' 18 6 = s0 := by
  simp only [BitVec.extractLsb'_append_eq_ite]; simp

theorem part_6_11_1_at12_6 (u : BitVec 14) (s0 : BitVec 6) (s1 : BitVec 11) (s2 : BitVec 1) : (u ++ s0 ++ s1 ++ s2).extractLsb' 12 6 = s0 := by
  simp only [BitVec.extractLsb'_append_eq_ite]; simp

theorem part_11_1_at1_11 (u : BitVec 20) (s0 : BitVec 11) (s1 : BitVec 1) : (u ++ s0 ++ s1).extractLsb' 1 11 = s0 := by
  simp only [BitVec.extractLsb'_append_eq_ite]; simp

theorem part_13_6_12_at24_7 (u : BitVec 1) (s0 : BitVec 13) (s1 : BitVec 6) (s2 : BitVec 12) : (u ++ s0 ++ s1 ++ s2).extractLsb' 24 7 = s0.extractLsb' 6 7 := by
  simp only [BitVec.extractLsb'_append_eq_ite]; simp

theorem part_13_6_12_at18_6 (u : BitVec 1) (s0 : BitVec 13) (s1 : BitVec 6) (s2 : BitVec 12) : (u ++ s0 ++ s1 ++ s2).extractLsb' 18 6 = s0.extractLsb' 0 6 := by
  simp only [BitVec.extractLsb'_append_eq_ite]; simp

theorem part_7_8_8_6_1_1_at24_7 (u : BitVec 1) (s0 : BitVec 7) (s1 : BitVec 8) (s2 : BitVec 8) (s3 : BitVec 6) (s4 : BitVec 1) (s5 : BitVec 1) : (u ++ s0 ++ s1 ++ s2 ++ s3 ++ s4 ++ s5).extractLsb' 24 7 = s0 := by
  simp only [BitVec.extractLsb'_append_eq_ite]; simp

theorem part_8_8_6_1_1_at16_8 (u : BitVec 8) (s0 : BitVec 8) (s1 : BitVec 8) (s2 : BitVec 6) (s3 : BitVec 1) (s4 : BitVec 1) : (u ++ s0 ++ s1 ++ s2 ++ s3 ++ s4).extractLsb' 16 8 = s0 := by
  simp only [BitVec.extractLsb'_append_eq_ite]; simp

theorem part_6_1_1_at2_6 (u : BitVec 24) (s0 : BitVec 6) (s1 : BitVec 1) (s2 : BitVec 1) : (u ++ s0 ++ s1 ++ s2).extractLsb' 2 6 = s0 := by
  simp only [BitVec.extractLsb'_append_eq_ite]; simp

theorem part_8_6_1_1_at8_8 (u : BitVec 16) (s0 : BitVec 8) (s1 : BitVec 6) (s2 : BitVec 1) (s3 : BitVec 1) : (u ++ s0 ++ s1 ++ s2 ++ s3).extractLsb' 8 8 = s0 := by
  simp only [BitVec.extractLsb'_append_eq_ite]; simp

theorem part_1_1_at1_1 (u : BitVec 30) (s0 : BitVec 1) (s1 : BitVec 1) : (u ++ s0 ++ s1).extractLsb' 1 1 = s0 := by
  simp only [BitVec.extractLsb'_append_eq_ite]; simp

theorem part_9_4_6_12_at24_7 (u : BitVec 1) (s0 : BitVec 9) (s1 : BitVec 4) (s2 : BitVec 6) (s3 : BitVec 12) : (u ++ s0 ++ s1 ++ s2 ++ s3).extractLsb' 24 7 = s0.extractLsb' 2 7 := by
  simp only [BitVec.extractLsb'_append_eq_ite]; simp

theorem part_4_6_12_at18_4 (u : BitVec 10) (s0 : BitVec 4) (s1 : BitVec 6) (s2 : BitVec 12) : (u ++ s0 ++ s1 ++ s2).extractLsb' 18 4 = s0 := by
  simp only [BitVec.extractLsb'_append_eq_ite]; simp

theorem part_9_4_6_12_at22_2 (u : BitVec 1) (s0 : BitVec 9) (s1 : BitVec 4) (s2 : BitVec 6) (s3 : BitVec 12) : (u ++ s0 ++ s1 ++ s2 ++ s3).extractLsb' 22 2 = s0.extractLsb' 0 2 := by
  simp only [BitVec.extractLsb'_append_eq_ite]; simp

theorem part_7_6_2_4_12_at24_7 (u : BitVec 1) (s0 : BitVec 7) (s1 : BitVec 6) (s2 : BitVec 2) (s3 : BitVec 4) (s4 : BitVec 12) : (u ++ s0 ++ s1 ++ s2 ++ s3 ++ s4).extractLsb' 24 7 = s0 := by
  simp only [BitVec.extractLsb'_append_eq_ite]; simp

theorem part_6_2_4_12_at18_6 (u : BitVec 8) (s0 : BitVec 6) (s1 : BitVec 2) (s2 : BitVec 4) (s3 : BitVec 12) : (u ++ s0 ++ s1 ++ s2 ++ s3).extractLsb' 18 6 = s0 := by
  simp only [BitVec.extractLsb'_append_eq_ite]; simp

theorem part_4_12_at12_4 (u : BitVec 16) (s0 : BitVec 4) (s1 : BitVec 12) : (u ++ s0 ++ s1).extractLsb' 12 4 = s0 := by
  simp only [BitVec.extractLsb'_append_eq_ite]; simp

theorem part_2_4_12_at16_2 (u : BitVec 14) (s0 : BitVec 2) (s1 : BitVec 4) (s2 : BitVec 12) : (u ++ s0 ++ s1 ++ s2).extractLsb' 16 2 = s0 := by
  simp only [BitVec.extractLsb'_append_eq_ite]; simp

theorem part_7_6_2_4_6_6_at24_7 (u : BitVec 1) (s0 : BitVec 7) (s1 : BitVec 6) (s2 : BitVec 2) (s3 : BitVec 4) (s4 : BitVec 6) (s5 : BitVec 6) : (u ++ s0 ++ s1 ++ s2 ++ s3 ++ s4 ++ s5).extractLsb' 24 7 = s0 := by
  simp only [BitVec.extractLsb'_append_eq_ite]; simp

theorem part_6_2_4_6_6_at18_6 (u : BitVec 8) (s0 : BitVec 6) (s1 : BitVec 2) (s2 : BitVec 4) (s3 : BitVec 6) (s4 : BitVec 6) : (u ++ s0 ++ s1 ++ s2 ++ s3 ++ s4).extractLsb' 18 6 = s0 := by
  simp only [BitVec.extractLsb'_append_eq_ite]; simp

theorem part_4_6_6_at12_4 (u : BitVec 16) (s0 : BitVec 4) (s1 : BitVec 6) (s2 : BitVec 6) : (u ++ s0 ++ s1 ++ s2).extractLsb' 12 4 = s0 := by
  simp only [BitVec.extractLsb'_append_eq_ite]; simp

theorem part_2_4_6_6_at16_2 (u : BitVec 14) (s0 : BitVec 2) (s1 : BitVec 4) (s2 : BitVec 6) (s3 : BitVec 6) : (u ++ s0 ++ s1 ++ s2 ++ s3).extractLsb' 16 2 = s0 := by
  simp only [BitVec.extractLsb'_append_eq_ite]; simp

theorem part_12_4_9_6_at24_7 (u : BitVec 1) (s0 : BitVec 12) (s1 : BitVec 4) (s2 : BitVec 9) (s3 : BitVec 6) : (u ++ s0 ++ s1 ++ s2 ++ s3).extractLsb' 24 7 = s0.extractLsb' 5 7 := by
  simp only [BitVec.extractLsb'_append_eq_ite]; simp

theorem part_4_9_6_at15_4 (u : BitVec 13) (s0 : BitVec 4) (s1 : BitVec 9) (s2 : BitVec 6) : (u ++ s0 ++ s1 ++ s2).extractLsb' 15 4 = s0 := by
  simp only [BitVec.extractLsb'_append_eq_ite]; simp

theorem part_12_4_9_6_at19_5 (u : BitVec 1) (s0 : BitVec 12) (s1 : BitVec 4) (s2 : BitVec 9) (s3 : BitVec 6) : (u ++ s0 ++ s1 ++ s2 ++ s3).extractLsb' 19 5 = s0.extractLsb' 0 5 := by
  simp only [BitVec.extractLsb'_append_eq_ite]; simp

theorem part_9_6_at11_4 (u : BitVec 17) (s0 : BitVec 9) (s1 : BitVec 6) : (u ++ s0 ++ s1).extractLsb' 11 4 = s0.extractLsb' 5 4 := by
  simp only [BitVec.extractLsb'_append_eq_ite]; simp

theorem part_9_6_at10_1 (u : BitVec 17) (s0 : BitVec 9) (s1 : BitVec 6) : (u ++ s0 ++ s1).extractLsb' 10 1 = s0.extractLsb' 4 1 := by
  simp only [BitVec.extractLsb'_append_eq_ite]; simp

theorem part_9_6_at8_2 (u : BitVec 17) (s0 : BitVec 9) (s1 : BitVec 6) : (u ++ s0 ++ s1).extractLsb' 8 2 = s0.extractLsb' 2 2 := by
  simp only [BitVec.extractLsb'_append_eq_ite]; simp

theorem part_9_6_at6_2 (u : BitVec 17) (s0 : BitVec 9) (s1 : BitVec 6) : (u ++ s0 ++ s1).extractLsb' 6 2 = s0.extractLsb' 0 2 := by
  simp only [BitVec.extractLsb'_append_eq_ite]; simp

theorem part_16_4_11_at24_7 (u : BitVec 1) (s0 : BitVec 16) (s1 : BitVec 4) (s2 : BitVec 11) : (u ++ s0 ++ s1 ++ s2).extractLsb' 24 7 = s0.extractLsb' 9 7 := by
  simp only [BitVec.extractLsb'_append_eq_ite]; simp

theorem part_4_11_at11_4 (u : BitVec 17) (s0 : BitVec 4) (s1 : BitVec 11) : (u ++ s0 ++ s1).extractLsb' 11 4 = s0 := by
  simp only [BitVec.extractLsb'_append_eq_ite]; simp

theorem part_11_at0_11 (u : BitVec 21) (s0 : BitVec 11) : (u ++ s0).extractLsb' 0 11 = s0 := by
  simp only [BitVec.extractLsb'_append_eq_ite]; simp

theorem part_16_4_11_at19_5 (u : BitVec 1) (s0 : BitVec 16) (s1 : BitVec 4) (s2 : BitVec 11) : (u ++ s0 ++ s1 ++ s2).extractLsb' 19 5 = s0.extractLsb' 4 5 := by
  simp only [BitVec.extractLsb'_append_eq_ite]; simp

theorem part_16_4_11_at15_4 (u : BitVec 1) (s0 : BitVec 16) (s1 : BitVec 4) (s2 : BitVec 11) : (u ++ s0 ++ s1 ++ s2).extractLsb' 15 4 = s0.extractLsb' 0 4 := by
  simp only [BitVec.extractLsb'_append_eq_ite]; simp

theorem part_12_4_4_1_5_5_at24_7 (u : BitVec 1) (s0 : BitVec 12) (s1 : BitVec 4) (s2 : BitVec 4) (s3 : BitVec 1) (s4 : BitVec 5) (s5 : BitVec 5) : (u ++ s0 ++ s1 ++ s2 ++ s3 ++ s4 ++ s5).extractLsb' 24 7 = s0.extractLsb' 5 7 := by
  simp only [BitVec.extractLsb'_append_eq_ite]; simp

theorem part_4_4_1_5_5_at15_4 (u : BitVec 13) (s0 : BitVec 4) (s1 : BitVec 4) (s2 : BitVec 1) (s3 : BitVec 5) (s4 : BitVec 5) : (u ++ s0 ++ s1 ++ s2 ++ s3 ++ s4).extractLsb' 15 4 = s0 := by
  simp only [BitVec.extractLsb'_append_eq_ite]; simp

theorem part_4_1_5_5_at11_4 (u : BitVec 17) (s0 : BitVec 4) (s1 : BitVec 1) (s2 : BitVec 5) (s3 : BitVec 5) : (u ++ s0 ++ s1 ++ s2 ++ s3).extractLsb' 11 4 = s0 := by
  simp only [BitVec.extractLsb'_append_eq_ite]; simp

theorem bit_1_5_5_at10 (u : BitVec 21) (s0 : Bool) (s1 : BitVec 5) (s2 : BitVec 5) : (u ++ BitVec.ofBool s0 ++ s1 ++ s2)[10] = s0 := by
  rw [← BitVec.getLsbD_eq_getElem]; simp only [BitVec.getLsbD_append, BitVec.getLsbD_ofBool]; simp

theorem part_5_5_at5_5 (u : BitVec 22) (s0 : BitVec 5) (s1 : BitVec 5) : (u ++ s0 ++ s1).extractLsb' 5 5 = s0 := by
  simp only [BitVec.extractLsb'_append_eq_ite]; simp

theorem part_12_4_4_1_5_5_at19_5 (u : BitVec 1) (s0 : BitVec 12) (s1 : BitVec 4) (s2 : BitVec 4) (s3 : BitVec 1) (s4 : BitVec 5) (s5 : BitVec 5) : (u ++ s0 ++ s1 ++ s2 ++ s3 ++ s4 ++ s5).extractLsb' 19 5 = s0.extractLsb' 0 5 := by
  simp only [BitVec.extractLsb'_append_eq_ite]; simp

theorem part_12_4_4_3_8_at24_7 (u : BitVec 1) (s0 : BitVec 12) (s1 : BitVec 4) (s2 : BitVec 4) (s3 : BitVec 3) (s4 : BitVec 8) : (u ++ s0 ++ s1 ++ s2 ++ s3 ++ s4).extractLsb' 24 7 = s0.extractLsb' 5 7 := by
  simp only [BitVec.extractLsb'_append_eq_ite]; simp

theorem part_4_4_3_8_at15_4 (u : BitVec 13) (s0 : BitVec 4) (s1 : BitVec 4) (s2 : BitVec 3) (s3 : BitVec 8) : (u ++ s0 ++ s1 ++ s2 ++ s3).extractLsb' 15 4 = s0 := by
  simp only [BitVec.extractLsb'_append_eq_ite]; simp

theorem part_4_3_8_at11_4 (u : BitVec 17) (s0 : BitVec 4) (s1 : BitVec 3) (s2 : BitVec 8) : (u ++ s0 ++ s1 ++ s2).extractLsb' 11 4 = s0 := by
  simp only [BitVec.extractLsb'_append_eq_ite]; simp

theorem part_12_4_4_3_8_at19_5 (u : BitVec 1) (s0 : BitVec 12) (s1 : BitVec 4) (s2 : BitVec 4) (s3 : BitVec 3) (s4 : BitVec 8) : (u ++ s0 ++ s1 ++ s2 ++ s3 ++ s4).extractLsb' 19 5 = s0.extractLsb' 0 5 := by
  simp only [BitVec.extractLsb'_append_eq_ite]; simp

theorem part_3_8_at10_1 (u : BitVec 21) (s0 : BitVec 3) (s1 : BitVec 8) : (u ++ s0 ++ s1).extractLsb' 10 1 = s0.extractLsb' 2 1 := by
  simp only [BitVec.extractLsb'_append_eq_ite]; simp

theorem part_3_8_at8_2 (u : BitVec 21) (s0 : BitVec 3) (s1 : BitVec 8) : (u ++ s0 ++ s1).extractLsb' 8 2 = s0.extractLsb' 0 2 := by
  simp only [BitVec.extractLsb'_append_eq_ite]; simp

theorem part_16_4_3_8_at24_7 (u : BitVec 1) (s0 : BitVec 16) (s1 : BitVec 4) (s2 : BitVec 3) (s3 : BitVec 8) : (u ++ s0 ++ s1 ++ s2 ++ s3).extractLsb' 24 7 = s0.extractLsb' 9 7 := by
  simp only [BitVec.extractLsb'_append_eq_ite]; simp

theorem part_16_4_3_8_at19_5 (u : BitVec 1) (s0 : BitVec 16) (s1 : BitVec 4) (s2 : BitVec 3) (s3 : BitVec 8) : (u ++ s0 ++ s1 ++ s2 ++ s3).extractLsb' 19 5 = s0.extractLsb' 4 5 := by
  simp only [BitVec.extractLsb'_append_eq_ite]; simp

theorem part_16_4_3_8_at15_4 (u : BitVec 1) (s0 : BitVec 16) (s1 : BitVec 4) (s2 : BitVec 3) (s3 : BitVec 8) : (u ++ s0 ++ s1 ++ s2 ++ s3).extractLsb' 15 4 = s0.extractLsb' 0 4 := by
  simp only [BitVec.extractLsb'_append_eq_ite]; simp

theorem part_12_4_4_11_at24_7 (u : BitVec 1) (s0 : BitVec 12) (s1 : BitVec 4) (s2 : BitVec 4) (s3 : BitVec 11) : (u ++ s0 ++ s1 ++ s2 ++ s3).extractLsb' 24 7 = s0.extractLsb' 5 7 := by
  simp only [BitVec.extractLsb'_append_eq_ite]; simp

theorem part_4_4_11_at15_4 (u : BitVec 13) (s0 : BitVec 4) (s1 : BitVec 4) (s2 : BitVec 11) : (u ++ s0 ++ s1 ++ s2).extractLsb' 15 4 = s0 := by
  simp only [BitVec.extractLsb'_append_eq_ite]; simp

theorem part_12_4_4_11_at19_5 (u : BitVec 1) (s0 : BitVec 12) (s1 : BitVec 4) (s2 : BitVec 4) (s3 : BitVec 11) : (u ++ s0 ++ s1 ++ s2 ++ s3).extractLsb' 19 5 = s0.extractLsb' 0 5 := by
  simp only [BitVec.extractLsb'_append_eq_ite]; simp

theorem part_16_4_8_3_at24_7 (u : BitVec 1) (s0 : BitVec 16) (s1 : BitVec 4) (s2 : BitVec 8) (s3 : BitVec 3) : (u ++ s0 ++ s1 ++ s2 ++ s3).extractLsb' 24 7 = s0.extractLsb' 9 7 := by
  simp only [BitVec.extractLsb'_append_eq_ite]; simp

theorem part_4_8_3_at11_4 (u : BitVec 17) (s0 : BitVec 4) (s1 : BitVec 8) (s2 : BitVec 3) : (u ++ s0 ++ s1 ++ s2).extractLsb' 11 4 = s0 := by
  simp only [BitVec.extractLsb'_append_eq_ite]; simp

theorem part_16_4_8_3_at19_5 (u : BitVec 1) (s0 : BitVec 16) (s1 : BitVec 4) (s2 : BitVec 8) (s3 : BitVec 3) : (u ++ s0 ++ s1 ++ s2 ++ s3).extractLsb' 19 5 = s0.extractLsb' 4 5 := by
  simp only [BitVec.extractLsb'_append_eq_ite]; simp

theorem part_8_3_at10_1 (u : BitVec 21) (s0 : BitVec 8) (s1 : BitVec 3) : (u ++ s0 ++ s1).extractLsb' 10 1 = s0.extractLsb' 7 1 := by
  simp only [BitVec.extractLsb'_append_eq_ite]; simp

theorem part_8_3_at8_2 (u : BitVec 21) (s0 : BitVec 8) (s1 : BitVec 3) : (u ++ s0 ++ s1).extractLsb' 8 2 = s0.extractLsb' 5 2 := by
  simp only [BitVec.extractLsb'_append_eq_ite]; simp

theorem part_8_3_at6_2 (u : BitVec 21) (s0 : BitVec 8) (s1 : BitVec 3) : (u ++ s0 ++ s1).extractLsb' 6 2 = s0.extractLsb' 3 2 := by
  simp only [BitVec.extractLsb'_append_eq_ite]; simp

theorem part_16_4_8_3_at15_4 (u : BitVec 1) (s0 : BitVec 16) (s1 : BitVec 4) (s2 : BitVec 8) (s3 : BitVec 3) : (u ++ s0 ++ s1 ++ s2 ++ s3).extractLsb' 15 4 = s0.extractLsb' 0 4 := by
  simp only [BitVec.extractLsb'_append_eq_ite]; simp

theorem part_8_3_at5_1 (u : BitVec 21) (s0 : BitVec 8) (s1 : BitVec 3) : (u ++ s0 ++ s1).extractLsb' 5 1 = s0.extractLsb' 2 1 := by
  simp only [BitVec.extractLsb'_append_eq_ite]; simp

theorem part_8_3_at3_2 (u : BitVec 21) (s0 : BitVec 8) (s1 : BitVec 3) : (u ++ s0 ++ s1).extractLsb' 3 2 = s0.extractLsb' 0 2 := by
  simp only [BitVec.extractLsb'_append_eq_ite]; simp

theorem part_11_at10_1 (u : BitVec 21) (s0 : BitVec 11) : (u ++ s0).extractLsb' 10 1 = s0.extractLsb' 10 1 := by
  simp only [BitVec.extractLsb'_append_eq_ite]; simp

theorem part_11_at8_2 (u : BitVec 21) (s0 : BitVec 11) : (u ++ s0).extractLsb' 8 2 = s0.extractLsb' 8 2 := by
  simp only [BitVec.extractLsb'_append_eq_ite]; simp

theorem part_11_at6_2 (u : BitVec 21) (s0 : BitVec 11) : (u ++ s0).extractLsb' 6 2 = s0.extractLsb' 6 2 := by
  simp only [BitVec.extractLsb'_append_eq_ite]; simp

theorem part_11_at5_1 (u : BitVec 21) (s0 : BitVec 11) : (u ++ s0).extractLsb' 5 1 = s0.extractLsb' 5 1 := by
  simp only [BitVec.extractLsb'_append_eq_ite]; simp

theorem part_11_at3_2 (u : BitVec 21) (s0 : BitVec 11) : (u ++ s0).extractLsb' 3 2 = s0.extractLsb' 3 2 := by
  simp only [BitVec.extractLsb'_append_eq_ite]; simp

theorem part_11_at0_3 (u : BitVec 21) (s0 : BitVec 11) : (u ++ s0).extractLsb' 0 3 = s0.extractLsb' 0 3 := by
  simp only [BitVec.extractLsb'_append_eq_ite]; simp

theorem part_9_4_18_at24_7 (u : BitVec 1) (s0 : BitVec 9) (s1 : BitVec 4) (s2 : BitVec 18) : (u ++ s0 ++ s1 ++ s2).extractLsb' 24 7 = s0.extractLsb' 2 7 := by
  simp only [BitVec.extractLsb'_append_eq_ite]; simp

theorem part_4_18_at18_4 (u : BitVec 10) (s0 : BitVec 4) (s1 : BitVec 18) : (u ++ s0 ++ s1).extractLsb' 18 4 = s0 := by
  simp only [BitVec.extractLsb'_append_eq_ite]; simp

theorem part_9_4_18_at22_2 (u : BitVec 1) (s0 : BitVec 9) (s1 : BitVec 4) (s2 : BitVec 18) : (u ++ s0 ++ s1 ++ s2).extractLsb' 22 2 = s0.extractLsb' 0 2 := by
  simp only [BitVec.extractLsb'_append_eq_ite]; simp

theorem part_7_24_at24_7 (u : BitVec 1) (s0 : BitVec 7) (s1 : BitVec 24) : (u ++ s0 ++ s1).extractLsb' 24 7 = s0 := by
  simp only [BitVec.extractLsb'_append_eq_ite]; simp

theorem part_24_at0_24 (u : BitVec 8) (s0 : BitVec 24) : (u ++ s0).extractLsb' 0 24 = s0 := by
  simp only [BitVec.extractLsb'_append_eq_ite]; simp

theorem part_7_6_1_1_16_at24_7 (u : BitVec 1) (s0 : BitVec 7) (s1 : BitVec 6) (s2 : BitVec 1) (s3 : BitVec 1) (s4 : BitVec 16) : (u ++ s0 ++ s1 ++ s2 ++ s3 ++ s4).extractLsb' 24 7 = s0 := by
  simp only [BitVec.extractLsb'_append_eq_ite]; simp

theorem part_6_1_1_16_at18_6 (u : BitVec 8) (s0 : BitVec 6) (s1 : BitVec 1) (s2 : BitVec 1) (s3 : BitVec 16) : (u ++ s0 ++ s1 ++ s2 ++ s3).extractLsb' 18 6 = s0 := by
  simp only [BitVec.extractLsb'_append_eq_ite]; simp

theorem bit_1_1_16_at17 (u : BitVec 14) (s0 : Bool) (s1 : BitVec 1) (s2 : BitVec 16) : (u ++ BitVec.ofBool s0 ++ s1 ++ s2)[17] = s0 := by
  rw [← BitVec.getLsbD_eq_getElem]; simp only [BitVec.getLsbD_append, BitVec.getLsbD_ofBool]; simp

theorem part_1_16_at16_1 (u : BitVec 15) (s0 : BitVec 1) (s1 : BitVec 16) : (u ++ s0 ++ s1).extractLsb' 16 1 = s0 := by
  simp only [BitVec.extractLsb'_append_eq_ite]; simp

theorem part_13_6_6_6_at24_7 (u : BitVec 1) (s0 : BitVec 13) (s1 : BitVec 6) (s2 : BitVec 6) (s3 : BitVec 6) : (u ++ s0 ++ s1 ++ s2 ++ s3).extractLsb' 24 7 = s0.extractLsb' 6 7 := by
  simp only [BitVec.extractLsb'_append_eq_ite]; simp

theorem part_13_6_6_6_at18_6 (u : BitVec 1) (s0 : BitVec 13) (s1 : BitVec 6) (s2 : BitVec 6) (s3 : BitVec 6) : (u ++ s0 ++ s1 ++ s2 ++ s3).extractLsb' 18 6 = s0.extractLsb' 0 6 := by
  simp only [BitVec.extractLsb'_append_eq_ite]; simp

theorem part_23_3_5_at24_7 (u : BitVec 1) (s0 : BitVec 23) (s1 : BitVec 3) (s2 : BitVec 5) : (u ++ s0 ++ s1 ++ s2).extractLsb' 24 7 = s0.extractLsb' 16 7 := by
  simp only [BitVec.extractLsb'_append_eq_ite]; simp

theorem part_3_5_at5_3 (u : BitVec 24) (s0 : BitVec 3) (s1 : BitVec 5) : (u ++ s0 ++ s1).extractLsb' 5 3 = s0 := by
  simp only [BitVec.extractLsb'_append_eq_ite]; simp

theorem part_23_3_5_at8_16 (u : BitVec 1) (s0 : BitVec 23) (s1 : BitVec 3) (s2 : BitVec 5) : (u ++ s0 ++ s1 ++ s2).extractLsb' 8 16 = s0.extractLsb' 0 16 := by
  simp only [BitVec.extractLsb'_append_eq_ite]; simp

theorem part_9_6_6_2_3_5_at24_7 (u : BitVec 1) (s0 : BitVec 9) (s1 : BitVec 6) (s2 : BitVec 6) (s3 : BitVec 2) (s4 : BitVec 3) (s5 : BitVec 5) : (u ++ s0 ++ s1 ++ s2 ++ s3 ++ s4 ++ s5).extractLsb' 24 7 = s0.extractLsb' 2 7 := by
  simp only [BitVec.extractLsb'_append_eq_ite]; simp

theorem part_6_6_2_3_5_at16_6 (u : BitVec 10) (s0 : BitVec 6) (s1 : BitVec 6) (s2 : BitVec 2) (s3 : BitVec 3) (s4 : BitVec 5) : (u ++ s0 ++ s1 ++ s2 ++ s3 ++ s4).extractLsb' 16 6 = s0 := by
  simp only [BitVec.extractLsb'_append_eq_ite]; simp

theorem part_2_3_5_at8_2 (u : BitVec 22) (s0 : BitVec 2) (s1 : BitVec 3) (s2 : BitVec 5) : (u ++ s0 ++ s1 ++ s2).extractLsb' 8 2 = s0 := by
  simp only [BitVec.extractLsb'_append_eq_ite]; simp

theorem part_9_6_6_2_3_5_at22_2 (u : BitVec 1) (s0 : BitVec 9) (s1 : BitVec 6) (s2 : BitVec 6) (s3 : BitVec 2) (s4 : BitVec 3) (s5 : BitVec 5) : (u ++ s0 ++ s1 ++ s2 ++ s3 ++ s4 ++ s5).extractLsb' 22 2 = s0.extractLsb' 0 2 := by
  simp only [BitVec.extractLsb'_append_eq_ite]; simp

theorem part_6_2_3_5_at10_6 (u : BitVec 16) (s0 : BitVec 6) (s1 : BitVec 2) (s2 : BitVec 3) (s3 : BitVec 5) : (u ++ s0 ++ s1 ++ s2 ++ s3).extractLsb' 10 6 = s0 := by
  simp only [BitVec.extractLsb'_append_eq_ite]; simp

theorem part_13_12_6_at24_7 (u : BitVec 1) (s0 : BitVec 13) (s1 : BitVec 12) (s2 : BitVec 6) : (u ++ s0 ++ s1 ++ s2).extractLsb' 24 7 = s0.extractLsb' 6 7 := by
  simp only [BitVec.extractLsb'_append_eq_ite]; simp

theorem part_12_6_at6_12 (u : BitVec 14) (s0 : BitVec 12) (s1 : BitVec 6) : (u ++ s0 ++ s1).extractLsb' 6 12 = s0 := by
  simp only [BitVec.extractLsb'_append_eq_ite]; simp

theorem part_13_12_6_at18_6 (u : BitVec 1) (s0 : BitVec 13) (s1 : BitVec 12) (s2 : BitVec 6) : (u ++ s0 ++ s1 ++ s2).extractLsb' 18 6 = s0.extractLsb' 0 6 := by
  simp only [BitVec.extractLsb'_append_eq_ite]; simp

theorem part_11_20_at24_7 (u : BitVec 1) (s0 : BitVec 11) (s1 : BitVec 20) : (u ++ s0 ++ s1).extractLsb' 24 7 = s0.extractLsb' 4 7 := by
  simp only [BitVec.extractLsb'_append_eq_ite]; simp

theorem part_20_at0_20 (u : BitVec 12) (s0 : BitVec 20) : (u ++ s0).extractLsb' 0 20 = s0 := by
  simp only [BitVec.extractLsb'_append_eq_ite]; simp

theorem part_11_20_at20_4 (u : BitVec 1) (s0 : BitVec 11) (s1 : BitVec 20) : (u ++ s0 ++ s1).extractLsb' 20 4 = s0.extractLsb' 0 4 := by
  simp only [BitVec.extractLsb'_append_eq_ite]; simp

theorem part_28_3_at24_7 (u : BitVec 1) (s0 : BitVec 28) (s1 : BitVec 3) : (u ++ s0 ++ s1).extractLsb' 24 7 = s0.extractLsb' 21 7 := by
  simp only [BitVec.extractLsb'_append_eq_ite]; simp

theorem part_28_3_at20_4 (u : BitVec 1) (s0 : BitVec 28) (s1 : BitVec 3) : (u ++ s0 ++ s1).extractLsb' 20 4 = s0.extractLsb' 17 4 := by
  simp only [BitVec.extractLsb'_append_eq_ite]; simp

theorem part_28_3_at10_10 (u : BitVec 1) (s0 : BitVec 28) (s1 : BitVec 3) : (u ++ s0 ++ s1).extractLsb' 10 10 = s0.extractLsb' 7 10 := by
  simp only [BitVec.extractLsb'_append_eq_ite]; simp

theorem part_28_3_at7_3 (u : BitVec 1) (s0 : BitVec 28) (s1 : BitVec 3) : (u ++ s0 ++ s1).extractLsb' 7 3 = s0.extractLsb' 4 3 := by
  simp only [BitVec.extractLsb'_append_eq_ite]; simp

theorem part_28_3_at6_1 (u : BitVec 1) (s0 : BitVec 28) (s1 : BitVec 3) : (u ++ s0 ++ s1).extractLsb' 6 1 = s0.extractLsb' 3 1 := by
  simp only [BitVec.extractLsb'_append_eq_ite]; simp

theorem part_28_3_at3_3 (u : BitVec 1) (s0 : BitVec 28) (s1 : BitVec 3) : (u ++ s0 ++ s1).extractLsb' 3 3 = s0.extractLsb' 0 3 := by
  simp only [BitVec.extractLsb'_append_eq_ite]; simp

theorem part_24_1_6_at24_7 (u : BitVec 1) (s0 : BitVec 24) (s1 : BitVec 1) (s2 : BitVec 6) : (u ++ s0 ++ s1 ++ s2).extractLsb' 24 7 = s0.extractLsb' 17 7 := by
  simp only [BitVec.extractLsb'_append_eq_ite]; simp

theorem bit_1_6_at6 (u : BitVec 25) (s0 : Bool) (s1 : BitVec 6) : (u ++ BitVec.ofBool s0 ++ s1)[6] = s0 := by
  rw [← BitVec.getLsbD_eq_getElem]; simp only [BitVec.getLsbD_append, BitVec.getLsbD_ofBool]; simp

theorem part_24_1_6_at20_4 (u : BitVec 1) (s0 : BitVec 24) (s1 : BitVec 1) (s2 : BitVec 6) : (u ++ s0 ++ s1 ++ s2).extractLsb' 20 4 = s0.extractLsb' 13 4 := by
  simp only [BitVec.extractLsb'_append_eq_ite]; simp

theorem part_24_1_6_at10_10 (u : BitVec 1) (s0 : BitVec 24) (s1 : BitVec 1) (s2 : BitVec 6) : (u ++ s0 ++ s1 ++ s2).extractLsb' 10 10 = s0.extractLsb' 3 10 := by
  simp only [BitVec.extractLsb'_append_eq_ite]; simp

theorem part_24_1_6_at7_3 (u : BitVec 1) (s0 : BitVec 24) (s1 : BitVec 1) (s2 : BitVec 6) : (u ++ s0 ++ s1 ++ s2).extractLsb' 7 3 = s0.extractLsb' 0 3 := by
  simp only [BitVec.extractLsb'_append_eq_ite]; simp

theorem part_11_10_10_at24_7 (u : BitVec 1) (s0 : BitVec 11) (s1 : BitVec 10) (s2 : BitVec 10) : (u ++ s0 ++ s1 ++ s2).extractLsb' 24 7 = s0.extractLsb' 4 7 := by
  simp only [BitVec.extractLsb'_append_eq_ite]; simp

theorem part_10_10_at10_10 (u : BitVec 12) (s0 : BitVec 10) (s1 : BitVec 10) : (u ++ s0 ++ s1).extractLsb' 10 10 = s0 := by
  simp only [BitVec.extractLsb'_append_eq_ite]; simp

theorem part_10_at0_10 (u : BitVec 22) (s0 : BitVec 10) : (u ++ s0).extractLsb' 0 10 = s0 := by
  simp only [BitVec.extractLsb'_append_eq_ite]; simp

theorem part_11_10_10_at20_4 (u : BitVec 1) (s0 : BitVec 11) (s1 : BitVec 10) (s2 : BitVec 10) : (u ++ s0 ++ s1 ++ s2).extractLsb' 20 4 = s0.extractLsb' 0 4 := by
  simp only [BitVec.extractLsb'_append_eq_ite]; simp

theorem part_31_at24_7 (u : BitVec 1) (s0 : BitVec 31) : (u ++ s0).extractLsb' 24 7 = s0.extractLsb' 24 7 := by
  simp only [BitVec.extractLsb'_append_eq_ite]; simp

theorem part_31_at0_21 (u : BitVec 1) (s0 : BitVec 31) : (u ++ s0).extractLsb' 0 21 = s0.extractLsb' 0 21 := by
  simp only [BitVec.extractLsb'_append_eq_ite]; simp

theorem part_31_at21_3 (u : BitVec 1) (s0 : BitVec 31) : (u ++ s0).extractLsb' 21 3 = s0.extractLsb' 21 3 := by
  simp only [BitVec.extractLsb'_append_eq_ite]; simp

theorem part_31_at0_24 (u : BitVec 1) (s0 : BitVec 31) : (u ++ s0).extractLsb' 0 24 = s0.extractLsb' 0 24 := by
  simp only [BitVec.extractLsb'_append_eq_ite]; simp

theorem part_31_at19_5 (u : BitVec 1) (s0 : BitVec 31) : (u ++ s0).extractLsb' 19 5 = s0.extractLsb' 19 5 := by
  simp only [BitVec.extractLsb'_append_eq_ite]; simp

theorem part_31_at11_4 (u : BitVec 1) (s0 : BitVec 31) : (u ++ s0).extractLsb' 11 4 = s0.extractLsb' 11 4 := by
  simp only [BitVec.extractLsb'_append_eq_ite]; simp

theorem part_31_at10_1 (u : BitVec 1) (s0 : BitVec 31) : (u ++ s0).extractLsb' 10 1 = s0.extractLsb' 10 1 := by
  simp only [BitVec.extractLsb'_append_eq_ite]; simp

theorem part_31_at8_2 (u : BitVec 1) (s0 : BitVec 31) : (u ++ s0).extractLsb' 8 2 = s0.extractLsb' 8 2 := by
  simp only [BitVec.extractLsb'_append_eq_ite]; simp

theorem part_31_at6_2 (u : BitVec 1) (s0 : BitVec 31) : (u ++ s0).extractLsb' 6 2 = s0.extractLsb' 6 2 := by
  simp only [BitVec.extractLsb'_append_eq_ite]; simp

theorem part_31_at15_4 (u : BitVec 1) (s0 : BitVec 31) : (u ++ s0).extractLsb' 15 4 = s0.extractLsb' 15 4 := by
  simp only [BitVec.extractLsb'_append_eq_ite]; simp

theorem part_31_at5_1 (u : BitVec 1) (s0 : BitVec 31) : (u ++ s0).extractLsb' 5 1 = s0.extractLsb' 5 1 := by
  simp only [BitVec.extractLsb'_append_eq_ite]; simp

theorem part_31_at3_2 (u : BitVec 1) (s0 : BitVec 31) : (u ++ s0).extractLsb' 3 2 = s0.extractLsb' 3 2 := by
  simp only [BitVec.extractLsb'_append_eq_ite]; simp

theorem part_31_at0_3 (u : BitVec 1) (s0 : BitVec 31) : (u ++ s0).extractLsb' 0 3 = s0.extractLsb' 0 3 := by
  simp only [BitVec.extractLsb'_append_eq_ite]; simp

theorem part_31_at18_6 (u : BitVec 1) (s0 : BitVec 31) : (u ++ s0).extractLsb' 18 6 = s0.extractLsb' 18 6 := by
  simp only [BitVec.extractLsb'_append_eq_ite]; simp

theorem part_31_at12_6 (u : BitVec 1) (s0 : BitVec 31) : (u ++ s0).extractLsb' 12 6 = s0.extractLsb' 12 6 := by
  simp only [BitVec.extractLsb'_append_eq_ite]; simp

theorem part_31_at0_12 (u : BitVec 1) (s0 : BitVec 31) : (u ++ s0).extractLsb' 0 12 = s0.extractLsb' 0 12 := by
  simp only [BitVec.extractLsb'_append_eq_ite]; simp

theorem part_31_at0_6 (u : BitVec 1) (s0 : BitVec 31) : (u ++ s0).extractLsb' 0 6 = s0.extractLsb' 0 6 := by
  simp only [BitVec.extractLsb'_append_eq_ite]; simp

theorem part_31_at6_6 (u : BitVec 1) (s0 : BitVec 31) : (u ++ s0).extractLsb' 6 6 = s0.extractLsb' 6 6 := by
  simp only [BitVec.extractLsb'_append_eq_ite]; simp

theorem part_31_at20_4 (u : BitVec 1) (s0 : BitVec 31) : (u ++ s0).extractLsb' 20 4 = s0.extractLsb' 20 4 := by
  simp only [BitVec.extractLsb'_append_eq_ite]; simp

theorem part_31_at10_10 (u : BitVec 1) (s0 : BitVec 31) : (u ++ s0).extractLsb' 10 10 = s0.extractLsb' 10 10 := by
  simp only [BitVec.extractLsb'_append_eq_ite]; simp

theorem part_31_at7_3 (u : BitVec 1) (s0 : BitVec 31) : (u ++ s0).extractLsb' 7 3 = s0.extractLsb' 7 3 := by
  simp only [BitVec.extractLsb'_append_eq_ite]; simp

theorem part_31_at6_1 (u : BitVec 1) (s0 : BitVec 31) : (u ++ s0).extractLsb' 6 1 = s0.extractLsb' 6 1 := by
  simp only [BitVec.extractLsb'_append_eq_ite]; simp

theorem part_31_at3_3 (u : BitVec 1) (s0 : BitVec 31) : (u ++ s0).extractLsb' 3 3 = s0.extractLsb' 3 3 := by
  simp only [BitVec.extractLsb'_append_eq_ite]; simp

theorem iadd (d : BitVec 8) (a : BitVec 8) (b : BitVec 8) : Statement (.iadd d a b) := by
  intro hw m w h; cases h
  simp [decodeWord, part_7_8_8_8_at24_7]
  simp [decodeRow0, part_8_8_8_at16_8, part_8_8_at8_8, part_8_at0_8]

theorem isub (d : BitVec 8) (a : BitVec 8) (b : BitVec 8) : Statement (.isub d a b) := by
  intro hw m w h; cases h
  simp [decodeWord, part_7_8_8_8_at24_7]
  simp [decodeRow0, part_8_8_8_at16_8, part_8_8_at8_8, part_8_at0_8]

theorem imul (d : BitVec 8) (a : BitVec 8) (b : BitVec 8) : Statement (.imul d a b) := by
  intro hw m w h; cases h
  simp [decodeWord, part_7_8_8_8_at24_7]
  simp [decodeRow0, part_8_8_8_at16_8, part_8_8_at8_8, part_8_at0_8]

theorem imulhS32 (d : BitVec 8) (a : BitVec 8) (b : BitVec 8) : Statement (.imulhS32 d a b) := by
  intro hw m w h; cases h
  simp [decodeWord, part_7_8_8_8_at24_7]
  simp [decodeRow0, part_8_8_8_at16_8, part_8_8_at8_8, part_8_at0_8]

theorem imulhN32 (d : BitVec 8) (a : BitVec 8) (b : BitVec 8) : Statement (.imulhN32 d a b) := by
  intro hw m w h; cases h
  simp [decodeWord, part_7_8_8_8_at24_7]
  simp [decodeRow0, part_8_8_8_at16_8, part_8_8_at8_8, part_8_at0_8]

theorem imad (d : BitVec 8) (a : BitVec 8) (b : BitVec 8) : Statement (.imad d a b) := by
  intro hw m w h; cases h
  simp [decodeWord, part_7_8_8_8_at24_7]
  simp [decodeRow0, part_8_8_8_at16_8, part_8_8_at8_8, part_8_at0_8]

theorem iminS32 (d : BitVec 8) (a : BitVec 8) (b : BitVec 8) : Statement (.iminS32 d a b) := by
  intro hw m w h; cases h
  simp [decodeWord, part_7_8_8_8_at24_7]
  simp [decodeRow0, part_8_8_8_at16_8, part_8_8_at8_8, part_8_at0_8]

theorem imaxS32 (d : BitVec 8) (a : BitVec 8) (b : BitVec 8) : Statement (.imaxS32 d a b) := by
  intro hw m w h; cases h
  simp [decodeWord, part_7_8_8_8_at24_7]
  simp [decodeRow0, part_8_8_8_at16_8, part_8_8_at8_8, part_8_at0_8]

theorem iminN32 (d : BitVec 8) (a : BitVec 8) (b : BitVec 8) : Statement (.iminN32 d a b) := by
  intro hw m w h; cases h
  simp [decodeWord, part_7_8_8_8_at24_7]
  simp [decodeRow0, part_8_8_8_at16_8, part_8_8_at8_8, part_8_at0_8]

theorem imaxN32 (d : BitVec 8) (a : BitVec 8) (b : BitVec 8) : Statement (.imaxN32 d a b) := by
  intro hw m w h; cases h
  simp [decodeWord, part_7_8_8_8_at24_7]
  simp [decodeRow0, part_8_8_8_at16_8, part_8_8_at8_8, part_8_at0_8]

theorem and (d : BitVec 8) (a : BitVec 8) (b : BitVec 8) : Statement (.and d a b) := by
  intro hw m w h; cases h
  simp [decodeWord, part_7_8_8_8_at24_7]
  simp [decodeRow0, part_8_8_8_at16_8, part_8_8_at8_8, part_8_at0_8]

theorem or (d : BitVec 8) (a : BitVec 8) (b : BitVec 8) : Statement (.or d a b) := by
  intro hw m w h; cases h
  simp [decodeWord, part_7_8_8_8_at24_7]
  simp [decodeRow0, part_8_8_8_at16_8, part_8_8_at8_8, part_8_at0_8]

theorem xor (d : BitVec 8) (a : BitVec 8) (b : BitVec 8) : Statement (.xor d a b) := by
  intro hw m w h; cases h
  simp [decodeWord, part_7_8_8_8_at24_7]
  simp [decodeRow0, part_8_8_8_at16_8, part_8_8_at8_8, part_8_at0_8]

theorem shl (d : BitVec 8) (a : BitVec 8) (b : BitVec 8) : Statement (.shl d a b) := by
  intro hw m w h; cases h
  simp [decodeWord, part_7_8_8_8_at24_7]
  simp [decodeRow0, part_8_8_8_at16_8, part_8_8_at8_8, part_8_at0_8]

theorem shr (d : BitVec 8) (a : BitVec 8) (b : BitVec 8) : Statement (.shr d a b) := by
  intro hw m w h; cases h
  simp [decodeWord, part_7_8_8_8_at24_7]
  simp [decodeRow0, part_8_8_8_at16_8, part_8_8_at8_8, part_8_at0_8]

theorem sar (d : BitVec 8) (a : BitVec 8) (b : BitVec 8) : Statement (.sar d a b) := by
  intro hw m w h; cases h
  simp [decodeWord, part_7_8_8_8_at24_7]
  simp [decodeRow1, part_8_8_8_at16_8, part_8_8_at8_8, part_8_at0_8]

theorem iadd64 (d : BitVec 8) (a : BitVec 8) (b : BitVec 8) : Statement (.iadd64 d a b) := by
  intro hw m w h; cases h
  simp [decodeWord, part_7_8_8_8_at24_7]
  simp [decodeRow1, part_8_8_8_at16_8, part_8_8_at8_8, part_8_at0_8]

theorem isub64 (d : BitVec 8) (a : BitVec 8) (b : BitVec 8) : Statement (.isub64 d a b) := by
  intro hw m w h; cases h
  simp [decodeWord, part_7_8_8_8_at24_7]
  simp [decodeRow1, part_8_8_8_at16_8, part_8_8_at8_8, part_8_at0_8]

theorem bfeS32 (d : BitVec 8) (a : BitVec 8) (b : BitVec 8) : Statement (.bfeS32 d a b) := by
  intro hw m w h; cases h
  simp [decodeWord, part_7_8_8_8_at24_7]
  simp [decodeRow1, part_8_8_8_at16_8, part_8_8_at8_8, part_8_at0_8]

theorem bfeN32 (d : BitVec 8) (a : BitVec 8) (b : BitVec 8) : Statement (.bfeN32 d a b) := by
  intro hw m w h; cases h
  simp [decodeWord, part_7_8_8_8_at24_7]
  simp [decodeRow1, part_8_8_8_at16_8, part_8_8_at8_8, part_8_at0_8]

theorem bfi (d : BitVec 8) (a : BitVec 8) (b : BitVec 8) : Statement (.bfi d a b) := by
  intro hw m w h; cases h
  simp [decodeWord, part_7_8_8_8_at24_7]
  simp [decodeRow1, part_8_8_8_at16_8, part_8_8_at8_8, part_8_at0_8]

theorem iaddi (d : BitVec 8) (a : BitVec 8) (i : BitVec 8) : Statement (.iaddi d a i) := by
  intro hw m w h; cases h
  simp [decodeWord, part_7_8_8_8_at24_7]
  simp [decodeRow1, part_8_8_8_at16_8, part_8_8_at8_8, part_8_at0_8]

theorem andi (d : BitVec 8) (a : BitVec 8) (i : BitVec 8) : Statement (.andi d a i) := by
  intro hw m w h; cases h
  simp [decodeWord, part_7_8_8_8_at24_7]
  simp [decodeRow1, part_8_8_8_at16_8, part_8_8_at8_8, part_8_at0_8]

theorem ori (d : BitVec 8) (a : BitVec 8) (i : BitVec 8) : Statement (.ori d a i) := by
  intro hw m w h; cases h
  simp [decodeWord, part_7_8_8_8_at24_7]
  simp [decodeRow1, part_8_8_8_at16_8, part_8_8_at8_8, part_8_at0_8]

theorem shli (d : BitVec 8) (a : BitVec 8) (i : BitVec 8) : Statement (.shli d a i) := by
  intro hw m w h; cases h
  simp [decodeWord, part_7_8_8_8_at24_7]
  simp [decodeRow1, part_8_8_8_at16_8, part_8_8_at8_8, part_8_at0_8]

theorem shri (d : BitVec 8) (a : BitVec 8) (i : BitVec 8) : Statement (.shri d a i) := by
  intro hw m w h; cases h
  simp [decodeWord, part_7_8_8_8_at24_7]
  simp [decodeRow1, part_8_8_8_at16_8, part_8_8_at8_8, part_8_at0_8]

theorem sari (d : BitVec 8) (a : BitVec 8) (i : BitVec 8) : Statement (.sari d a i) := by
  intro hw m w h; cases h
  simp [decodeWord, part_7_8_8_8_at24_7]
  simp [decodeRow1, part_8_8_8_at16_8, part_8_8_at8_8, part_8_at0_8]

theorem mov (d : BitVec 8) (a : BitVec 8) : Statement (.mov d a) := by
  intro hw m w h; cases h
  simp [decodeWord, part_7_8_8_8_at24_7]
  simp [decodeRow1, part_8_8_8_at16_8, part_8_8_at8_8, part_8_at0_8]

theorem not (d : BitVec 8) (a : BitVec 8) : Statement (.not d a) := by
  intro hw m w h; cases h
  simp [decodeWord, part_7_8_8_8_at24_7]
  simp [decodeRow1, part_8_8_8_at16_8, part_8_8_at8_8, part_8_at0_8]

theorem ineg (d : BitVec 8) (a : BitVec 8) : Statement (.ineg d a) := by
  intro hw m w h; cases h
  simp [decodeWord, part_7_8_8_8_at24_7]
  simp [decodeRow1, part_8_8_8_at16_8, part_8_8_at8_8, part_8_at0_8]

theorem iabs (d : BitVec 8) (a : BitVec 8) : Statement (.iabs d a) := by
  intro hw m w h; cases h
  simp [decodeWord, part_7_8_8_8_at24_7]
  simp [decodeRow1, part_8_8_8_at16_8, part_8_8_at8_8, part_8_at0_8]

theorem popc (d : BitVec 8) (a : BitVec 8) : Statement (.popc d a) := by
  intro hw m w h; cases h
  simp [decodeWord, part_7_8_8_8_at24_7]
  simp [decodeRow1, part_8_8_8_at16_8, part_8_8_at8_8, part_8_at0_8]

theorem clz (d : BitVec 8) (a : BitVec 8) : Statement (.clz d a) := by
  intro hw m w h; cases h
  simp [decodeWord, part_7_8_8_8_at24_7]
  simp [decodeRow1, part_8_8_8_at16_8, part_8_8_at8_8, part_8_at0_8]

theorem brev (d : BitVec 8) (a : BitVec 8) : Statement (.brev d a) := by
  intro hw m w h; cases h
  simp [decodeWord, part_7_8_8_8_at24_7]
  simp [decodeRow1, part_8_8_8_at16_8, part_8_8_at8_8, part_8_at0_8]

theorem sextS8 (d : BitVec 8) (a : BitVec 8) : Statement (.sextS8 d a) := by
  intro hw m w h; cases h
  simp [decodeWord, part_7_8_8_8_at24_7]
  simp [decodeRow1, part_8_8_8_at16_8, part_8_8_at8_8, part_8_at0_8]

theorem sextS16 (d : BitVec 8) (a : BitVec 8) : Statement (.sextS16 d a) := by
  intro hw m w h; cases h
  simp [decodeWord, part_7_8_8_8_at24_7]
  simp [decodeRow1, part_8_8_8_at16_8, part_8_8_at8_8, part_8_at0_8]

theorem zextN8 (d : BitVec 8) (a : BitVec 8) : Statement (.zextN8 d a) := by
  intro hw m w h; cases h
  simp [decodeWord, part_7_8_8_8_at24_7]
  simp [decodeRow1, part_8_8_8_at16_8, part_8_8_at8_8, part_8_at0_8]

theorem zextN16 (d : BitVec 8) (a : BitVec 8) : Statement (.zextN16 d a) := by
  intro hw m w h; cases h
  simp [decodeWord, part_7_8_8_8_at24_7]
  simp [decodeRow1, part_8_8_8_at16_8, part_8_8_at8_8, part_8_at0_8]

theorem mov64 (d : BitVec 8) (a : BitVec 8) : Statement (.mov64 d a) := by
  intro hw m w h; cases h
  simp [decodeWord, part_7_8_8_8_at24_7]
  simp [decodeRow1, part_8_8_8_at16_8, part_8_8_at8_8, part_8_at0_8]

theorem movi (d : BitVec 8) (i : BitVec 16) : Statement (.movi d i) := by
  intro hw m w h; cases h
  simp [decodeWord, part_7_8_16_at24_7]
  simp [decodeRow1, part_8_16_at16_8, part_16_at0_16]

theorem movhi (d : BitVec 8) (i : BitVec 16) : Statement (.movhi d i) := by
  intro hw m w h; cases h
  simp [decodeWord, part_7_8_16_at24_7]
  simp [decodeRow1, part_8_16_at16_8, part_16_at0_16]

theorem icmpS32 (c : BitVec 2) (p : BitVec 6) (a : BitVec 8) (b : BitVec 8) : Statement (.icmpS32 c p a b) := by
  intro hw m w h; cases h
  simp [decodeWord, part_7_2_6_8_8_at24_7]
  simp [decodeRow1, part_2_6_8_8_at22_2, part_6_8_8_at16_6, part_8_8_at8_8, part_8_at0_8]

theorem icmpN32 (c : BitVec 2) (p : BitVec 6) (a : BitVec 8) (b : BitVec 8) : Statement (.icmpN32 c p a b) := by
  intro hw m w h; cases h
  simp [decodeWord, part_7_2_6_8_8_at24_7]
  simp [decodeRow2, part_2_6_8_8_at22_2, part_6_8_8_at16_6, part_8_8_at8_8, part_8_at0_8]

theorem plog (d : BitVec 6) (a : BitVec 6) (b : BitVec 6) (t : BitVec 4) : Statement (.plog d a b t) := by
  intro hw m w h; cases h
  simp [decodeWord, part_7_6_6_6_2_4_at24_7]
  simp [decodeRow2, part_6_6_6_2_4_at18_6, part_6_6_2_4_at12_6, part_6_2_4_at6_6, part_4_at0_4, part_2_4_at4_2]

theorem pmvVp (d : BitVec 8) (a : BitVec 6) : Statement (.pmvVp d a) := by
  intro hw m w h; cases h
  simp [decodeWord, part_7_8_2_6_8_at24_7]
  simp [decodeRow2, part_8_2_6_8_at16_8, part_6_8_at8_6, part_2_6_8_at14_2, part_8_at0_8]

theorem pmvPv (d : BitVec 6) (a : BitVec 8) : Statement (.pmvPv d a) := by
  intro hw m w h; cases h
  simp [decodeWord, part_9_6_8_8_at24_7]
  simp [decodeRow2, part_6_8_8_at16_6, part_8_8_at8_8, part_8_at0_8, part_9_6_8_8_at22_2]

theorem pmvSp (d : BitVec 6) (a : BitVec 6) : Statement (.pmvSp d a) := by
  intro hw m w h; cases h
  simp [decodeWord, part_9_6_2_6_8_at24_7]
  simp [decodeRow2, part_6_2_6_8_at16_6, part_6_8_at8_6, part_2_6_8_at14_2, part_8_at0_8, part_9_6_2_6_8_at22_2]

theorem pmvPs (d : BitVec 6) (a : BitVec 6) : Statement (.pmvPs d a) := by
  intro hw m w h; cases h
  simp [decodeWord, part_9_6_2_6_8_at24_7]
  simp [decodeRow2, part_6_2_6_8_at16_6, part_6_8_at8_6, part_2_6_8_at14_2, part_8_at0_8, part_9_6_2_6_8_at22_2]

theorem voteBallot (d : BitVec 6) (a : BitVec 6) : Statement (.voteBallot d a) := by
  intro hw m w h; cases h
  simp [decodeWord, part_7_6_6_12_at24_7]
  simp [decodeRow2, part_6_6_12_at18_6, part_6_12_at12_6, part_12_at0_12]

theorem voteAny (d : BitVec 6) (a : BitVec 6) : Statement (.voteAny d a) := by
  intro hw m w h; cases h
  simp [decodeWord, part_7_6_6_12_at24_7]
  simp [decodeRow2, part_6_6_12_at18_6, part_6_12_at12_6, part_12_at0_12]

theorem voteAll (d : BitVec 6) (a : BitVec 6) : Statement (.voteAll d a) := by
  intro hw m w h; cases h
  simp [decodeWord, part_7_6_6_12_at24_7]
  simp [decodeRow2, part_6_6_12_at18_6, part_6_12_at12_6, part_12_at0_12]

theorem voteUni (d : BitVec 6) (a : BitVec 6) : Statement (.voteUni d a) := by
  intro hw m w h; cases h
  simp [decodeWord, part_7_6_6_12_at24_7]
  simp [decodeRow2, part_6_6_12_at18_6, part_6_12_at12_6, part_12_at0_12]

theorem voteActive (d : BitVec 6) : Statement (.voteActive d) := by
  intro hw m w h; cases h
  simp [decodeWord, part_7_6_18_at24_7]
  simp [decodeRow2, part_6_18_at18_6, part_18_at0_12, part_18_at12_6]

theorem voteCount (d : BitVec 6) (a : BitVec 6) : Statement (.voteCount d a) := by
  intro hw m w h; cases h
  simp [decodeWord, part_7_6_6_12_at24_7]
  simp [decodeRow2, part_6_6_12_at18_6, part_6_12_at12_6, part_12_at0_12]

theorem shflIdx (d : BitVec 8) (a : BitVec 8) (n : BitVec 6) : Statement (.shflIdx d a n) := by
  intro hw m w h; cases h
  simp [decodeWord, part_7_8_8_2_6_at24_7]
  simp [decodeRow2, part_8_8_2_6_at16_8, part_8_2_6_at8_8, part_6_at0_6, part_2_6_at6_2]

theorem shflUp (d : BitVec 8) (a : BitVec 8) (n : BitVec 6) : Statement (.shflUp d a n) := by
  intro hw m w h; cases h
  simp [decodeWord, part_7_8_8_2_6_at24_7]
  simp [decodeRow2, part_8_8_2_6_at16_8, part_8_2_6_at8_8, part_6_at0_6, part_2_6_at6_2]

theorem shflDown (d : BitVec 8) (a : BitVec 8) (n : BitVec 6) : Statement (.shflDown d a n) := by
  intro hw m w h; cases h
  simp [decodeWord, part_7_8_8_2_6_at24_7]
  simp [decodeRow2, part_8_8_2_6_at16_8, part_8_2_6_at8_8, part_6_at0_6, part_2_6_at6_2]

theorem shflXor (d : BitVec 8) (a : BitVec 8) (n : BitVec 6) : Statement (.shflXor d a n) := by
  intro hw m w h; cases h
  simp [decodeWord, part_7_8_8_2_6_at24_7]
  simp [decodeRow2, part_8_8_2_6_at16_8, part_8_2_6_at8_8, part_6_at0_6, part_2_6_at6_2]

theorem shflv (d : BitVec 8) (a : BitVec 8) (b : BitVec 8) : Statement (.shflv d a b) := by
  intro hw m w h; cases h
  simp [decodeWord, part_7_8_8_8_at24_7]
  simp [decodeRow2, part_8_8_8_at16_8, part_8_8_at8_8, part_8_at0_8]

theorem matchB32 (d : BitVec 8) (a : BitVec 8) : Statement (.matchB32 d a) := by
  intro hw m w h; cases h
  simp [decodeWord, part_7_8_8_8_at24_7]
  simp [decodeRow2, part_8_8_8_at16_8, part_8_8_at8_8, part_8_at0_8]

theorem matchB64 (d : BitVec 8) (a : BitVec 8) : Statement (.matchB64 d a) := by
  intro hw m w h; cases h
  simp [decodeWord, part_7_8_8_8_at24_7]
  simp [decodeRow2, part_8_8_8_at16_8, part_8_8_at8_8, part_8_at0_8]

theorem xred (d : BitVec 8) (a : BitVec 8) (s : Bool) (k : BitVec 2) (o : BitVec 4) : Statement (.xred d a s k o) := by
  intro hw m w h; cases h
  simp [decodeWord, part_7_8_8_1_1_2_4_at24_7]
  simp [decodeRow2, part_8_8_1_1_2_4_at16_8, part_8_1_1_2_4_at8_8, bit_1_2_4_at6, part_2_4_at4_2, part_4_at0_4, part_1_1_2_4_at7_1]

theorem uadd (d : BitVec 6) (a : BitVec 6) (b : BitVec 6) : Statement (.uadd d a b) := by
  intro hw m w h; cases h
  simp [decodeWord, part_7_6_6_6_6_at24_7]
  simp [decodeRow2, part_6_6_6_6_at18_6, part_6_6_6_at12_6, part_6_6_at6_6, part_6_at0_6]

theorem usub (d : BitVec 6) (a : BitVec 6) (b : BitVec 6) : Statement (.usub d a b) := by
  intro hw m w h; cases h
  simp [decodeWord, part_7_6_6_6_6_at24_7]
  simp [decodeRow2, part_6_6_6_6_at18_6, part_6_6_6_at12_6, part_6_6_at6_6, part_6_at0_6]

theorem umul (d : BitVec 6) (a : BitVec 6) (b : BitVec 6) : Statement (.umul d a b) := by
  intro hw m w h; cases h
  simp [decodeWord, part_7_6_6_6_6_at24_7]
  simp [decodeRow2, part_6_6_6_6_at18_6, part_6_6_6_at12_6, part_6_6_at6_6, part_6_at0_6]

theorem umulhS32 (d : BitVec 6) (a : BitVec 6) (b : BitVec 6) : Statement (.umulhS32 d a b) := by
  intro hw m w h; cases h
  simp [decodeWord, part_7_6_6_6_6_at24_7]
  simp [decodeRow2, part_6_6_6_6_at18_6, part_6_6_6_at12_6, part_6_6_at6_6, part_6_at0_6]

theorem umulhN32 (d : BitVec 6) (a : BitVec 6) (b : BitVec 6) : Statement (.umulhN32 d a b) := by
  intro hw m w h; cases h
  simp [decodeWord, part_7_6_6_6_6_at24_7]
  simp [decodeRow2, part_6_6_6_6_at18_6, part_6_6_6_at12_6, part_6_6_at6_6, part_6_at0_6]

theorem uand (d : BitVec 6) (a : BitVec 6) (b : BitVec 6) : Statement (.uand d a b) := by
  intro hw m w h; cases h
  simp [decodeWord, part_7_6_6_6_6_at24_7]
  simp [decodeRow2, part_6_6_6_6_at18_6, part_6_6_6_at12_6, part_6_6_at6_6, part_6_at0_6]

theorem uor (d : BitVec 6) (a : BitVec 6) (b : BitVec 6) : Statement (.uor d a b) := by
  intro hw m w h; cases h
  simp [decodeWord, part_7_6_6_6_6_at24_7]
  simp [decodeRow2, part_6_6_6_6_at18_6, part_6_6_6_at12_6, part_6_6_at6_6, part_6_at0_6]

theorem uxor (d : BitVec 6) (a : BitVec 6) (b : BitVec 6) : Statement (.uxor d a b) := by
  intro hw m w h; cases h
  simp [decodeWord, part_7_6_6_6_6_at24_7]
  simp [decodeRow2, part_6_6_6_6_at18_6, part_6_6_6_at12_6, part_6_6_at6_6, part_6_at0_6]

theorem ushl (d : BitVec 6) (a : BitVec 6) (b : BitVec 6) : Statement (.ushl d a b) := by
  intro hw m w h; cases h
  simp [decodeWord, part_7_6_6_6_6_at24_7]
  simp [decodeRow2, part_6_6_6_6_at18_6, part_6_6_6_at12_6, part_6_6_at6_6, part_6_at0_6]

theorem ushr (d : BitVec 6) (a : BitVec 6) (b : BitVec 6) : Statement (.ushr d a b) := by
  intro hw m w h; cases h
  simp [decodeWord, part_7_6_6_6_6_at24_7]
  simp [decodeRow2, part_6_6_6_6_at18_6, part_6_6_6_at12_6, part_6_6_at6_6, part_6_at0_6]

theorem usar (d : BitVec 6) (a : BitVec 6) (b : BitVec 6) : Statement (.usar d a b) := by
  intro hw m w h; cases h
  simp [decodeWord, part_7_6_6_6_6_at24_7]
  simp [decodeRow2, part_6_6_6_6_at18_6, part_6_6_6_at12_6, part_6_6_at6_6, part_6_at0_6]

theorem uminS32 (d : BitVec 6) (a : BitVec 6) (b : BitVec 6) : Statement (.uminS32 d a b) := by
  intro hw m w h; cases h
  simp [decodeWord, part_7_6_6_6_6_at24_7]
  simp [decodeRow2, part_6_6_6_6_at18_6, part_6_6_6_at12_6, part_6_6_at6_6, part_6_at0_6]

theorem umaxS32 (d : BitVec 6) (a : BitVec 6) (b : BitVec 6) : Statement (.umaxS32 d a b) := by
  intro hw m w h; cases h
  simp [decodeWord, part_7_6_6_6_6_at24_7]
  simp [decodeRow2, part_6_6_6_6_at18_6, part_6_6_6_at12_6, part_6_6_at6_6, part_6_at0_6]

theorem uminN32 (d : BitVec 6) (a : BitVec 6) (b : BitVec 6) : Statement (.uminN32 d a b) := by
  intro hw m w h; cases h
  simp [decodeWord, part_7_6_6_6_6_at24_7]
  simp [decodeRow2, part_6_6_6_6_at18_6, part_6_6_6_at12_6, part_6_6_at6_6, part_6_at0_6]

theorem umaxN32 (d : BitVec 6) (a : BitVec 6) (b : BitVec 6) : Statement (.umaxN32 d a b) := by
  intro hw m w h; cases h
  simp [decodeWord, part_7_6_6_6_6_at24_7]
  simp [decodeRow2, part_6_6_6_6_at18_6, part_6_6_6_at12_6, part_6_6_at6_6, part_6_at0_6]

theorem umov (d : BitVec 6) (a : BitVec 6) : Statement (.umov d a) := by
  intro hw m w h; cases h
  simp [decodeWord, part_7_6_6_12_at24_7]
  simp [decodeRow2, part_6_6_12_at18_6, part_6_12_at12_6, part_12_at0_6, part_12_at6_6]

theorem unot (d : BitVec 6) (a : BitVec 6) : Statement (.unot d a) := by
  intro hw m w h; cases h
  simp [decodeWord, part_7_6_6_12_at24_7]
  simp [decodeRow2, part_6_6_12_at18_6, part_6_12_at12_6, part_12_at0_6, part_12_at6_6]

theorem usetEq (d : BitVec 6) (a : BitVec 6) (b : BitVec 6) : Statement (.usetEq d a b) := by
  intro hw m w h; cases h
  simp [decodeWord, part_7_6_6_6_6_at24_7]
  simp [decodeRow2, part_6_6_6_6_at18_6, part_6_6_6_at12_6, part_6_6_at6_6, part_6_at0_6]

theorem usetNe (d : BitVec 6) (a : BitVec 6) (b : BitVec 6) : Statement (.usetNe d a b) := by
  intro hw m w h; cases h
  simp [decodeWord, part_7_6_6_6_6_at24_7]
  simp [decodeRow2, part_6_6_6_6_at18_6, part_6_6_6_at12_6, part_6_6_at6_6, part_6_at0_6]

theorem usetLtS32 (d : BitVec 6) (a : BitVec 6) (b : BitVec 6) : Statement (.usetLtS32 d a b) := by
  intro hw m w h; cases h
  simp [decodeWord, part_7_6_6_6_6_at24_7]
  simp [decodeRow2, part_6_6_6_6_at18_6, part_6_6_6_at12_6, part_6_6_at6_6, part_6_at0_6]

theorem usetLeS32 (d : BitVec 6) (a : BitVec 6) (b : BitVec 6) : Statement (.usetLeS32 d a b) := by
  intro hw m w h; cases h
  simp [decodeWord, part_7_6_6_6_6_at24_7]
  simp [decodeRow2, part_6_6_6_6_at18_6, part_6_6_6_at12_6, part_6_6_at6_6, part_6_at0_6]

theorem usetLtN32 (d : BitVec 6) (a : BitVec 6) (b : BitVec 6) : Statement (.usetLtN32 d a b) := by
  intro hw m w h; cases h
  simp [decodeWord, part_7_6_6_6_6_at24_7]
  simp [decodeRow2, part_6_6_6_6_at18_6, part_6_6_6_at12_6, part_6_6_at6_6, part_6_at0_6]

theorem usetLeN32 (d : BitVec 6) (a : BitVec 6) (b : BitVec 6) : Statement (.usetLeN32 d a b) := by
  intro hw m w h; cases h
  simp [decodeWord, part_7_6_6_6_6_at24_7]
  simp [decodeRow2, part_6_6_6_6_at18_6, part_6_6_6_at12_6, part_6_6_at6_6, part_6_at0_6]

theorem uadd64 (d : BitVec 6) (a : BitVec 6) (b : BitVec 6) : Statement (.uadd64 d a b) := by
  intro hw m w h; cases h
  simp [decodeWord, part_7_6_6_6_6_at24_7]
  simp [decodeRow2, part_6_6_6_6_at18_6, part_6_6_6_at12_6, part_6_6_at6_6, part_6_at0_6]

theorem usub64 (d : BitVec 6) (a : BitVec 6) (b : BitVec 6) : Statement (.usub64 d a b) := by
  intro hw m w h; cases h
  simp [decodeWord, part_7_6_6_6_6_at24_7]
  simp [decodeRow2, part_6_6_6_6_at18_6, part_6_6_6_at12_6, part_6_6_at6_6, part_6_at0_6]

theorem upopc (d : BitVec 6) (a : BitVec 6) : Statement (.upopc d a) := by
  intro hw m w h; cases h
  simp [decodeWord, part_7_6_6_12_at24_7]
  simp [decodeRow2, part_6_6_12_at18_6, part_6_12_at12_6, part_12_at0_6, part_12_at6_6]

theorem uclz (d : BitVec 6) (a : BitVec 6) : Statement (.uclz d a) := by
  intro hw m w h; cases h
  simp [decodeWord, part_7_6_6_12_at24_7]
  simp [decodeRow2, part_6_6_12_at18_6, part_6_12_at12_6, part_12_at0_6, part_12_at6_6]

theorem umovi (d : BitVec 6) (i : BitVec 16) : Statement (.umovi d i) := by
  intro hw m w h; cases h
  simp [decodeWord, part_9_6_16_at24_7]
  simp [decodeRow2, part_6_16_at16_6, part_16_at0_16, part_9_6_16_at22_2]

theorem uaddi (d : BitVec 6) (i : BitVec 16) : Statement (.uaddi d i) := by
  intro hw m w h; cases h
  simp [decodeWord, part_9_6_16_at24_7]
  simp [decodeRow2, part_6_16_at16_6, part_16_at0_16, part_9_6_16_at22_2]

theorem umovhi (d : BitVec 6) (i : BitVec 16) : Statement (.umovhi d i) := by
  intro hw m w h; cases h
  simp [decodeWord, part_9_6_16_at24_7]
  simp [decodeRow2, part_6_16_at16_6, part_16_at0_16, part_9_6_16_at22_2]

theorem uvmovVs (d : BitVec 8) (a : BitVec 6) : Statement (.uvmovVs d a) := by
  intro hw m w h; cases h
  simp [decodeWord, part_7_8_2_6_8_at24_7]
  simp [decodeRow2, part_8_2_6_8_at16_8, part_6_8_at8_6, part_2_6_8_at14_2, part_8_at6_2, part_8_at0_6]

theorem uvmovSv (d : BitVec 6) (a : BitVec 8) (n : BitVec 6) : Statement (.uvmovSv d a n) := by
  intro hw m w h; cases h
  simp [decodeWord, part_9_6_8_2_6_at24_7]
  simp [decodeRow2, part_6_8_2_6_at16_6, part_8_2_6_at8_8, part_6_at0_6, part_2_6_at6_2, part_9_6_8_2_6_at22_2]

theorem uvmovFirst (d : BitVec 6) (a : BitVec 8) : Statement (.uvmovFirst d a) := by
  intro hw m w h; cases h
  simp [decodeWord, part_9_6_8_8_at24_7]
  simp [decodeRow2, part_6_8_8_at16_6, part_8_8_at8_8, part_8_at6_2, part_8_at0_6, part_9_6_8_8_at22_2]

theorem laddLn8 (d : BitVec 8) (a : BitVec 8) (b : BitVec 8) : Statement (.laddLn8 d a b) := by
  intro hw m w h; cases h
  simp [decodeWord, part_7_8_8_8_at24_7]
  simp [decodeRow3, part_8_8_8_at16_8, part_8_8_at8_8, part_8_at0_8]

theorem laddLn16 (d : BitVec 8) (a : BitVec 8) (b : BitVec 8) : Statement (.laddLn16 d a b) := by
  intro hw m w h; cases h
  simp [decodeWord, part_7_8_8_8_at24_7]
  simp [decodeRow3, part_8_8_8_at16_8, part_8_8_at8_8, part_8_at0_8]

theorem laddLn32 (d : BitVec 8) (a : BitVec 8) (b : BitVec 8) : Statement (.laddLn32 d a b) := by
  intro hw m w h; cases h
  simp [decodeWord, part_7_8_8_8_at24_7]
  simp [decodeRow3, part_8_8_8_at16_8, part_8_8_at8_8, part_8_at0_8]

theorem lsubLn8 (d : BitVec 8) (a : BitVec 8) (b : BitVec 8) : Statement (.lsubLn8 d a b) := by
  intro hw m w h; cases h
  simp [decodeWord, part_7_8_8_8_at24_7]
  simp [decodeRow3, part_8_8_8_at16_8, part_8_8_at8_8, part_8_at0_8]

theorem lsubLn16 (d : BitVec 8) (a : BitVec 8) (b : BitVec 8) : Statement (.lsubLn16 d a b) := by
  intro hw m w h; cases h
  simp [decodeWord, part_7_8_8_8_at24_7]
  simp [decodeRow3, part_8_8_8_at16_8, part_8_8_at8_8, part_8_at0_8]

theorem lsubLn32 (d : BitVec 8) (a : BitVec 8) (b : BitVec 8) : Statement (.lsubLn32 d a b) := by
  intro hw m w h; cases h
  simp [decodeWord, part_7_8_8_8_at24_7]
  simp [decodeRow3, part_8_8_8_at16_8, part_8_8_at8_8, part_8_at0_8]

theorem lmulLn8 (d : BitVec 8) (a : BitVec 8) (b : BitVec 8) : Statement (.lmulLn8 d a b) := by
  intro hw m w h; cases h
  simp [decodeWord, part_7_8_8_8_at24_7]
  simp [decodeRow3, part_8_8_8_at16_8, part_8_8_at8_8, part_8_at0_8]

theorem lmulLn16 (d : BitVec 8) (a : BitVec 8) (b : BitVec 8) : Statement (.lmulLn16 d a b) := by
  intro hw m w h; cases h
  simp [decodeWord, part_7_8_8_8_at24_7]
  simp [decodeRow3, part_8_8_8_at16_8, part_8_8_at8_8, part_8_at0_8]

theorem lmulLn32 (d : BitVec 8) (a : BitVec 8) (b : BitVec 8) : Statement (.lmulLn32 d a b) := by
  intro hw m w h; cases h
  simp [decodeWord, part_7_8_8_8_at24_7]
  simp [decodeRow3, part_8_8_8_at16_8, part_8_8_at8_8, part_8_at0_8]

theorem lmadLn8 (d : BitVec 8) (a : BitVec 8) (b : BitVec 8) : Statement (.lmadLn8 d a b) := by
  intro hw m w h; cases h
  simp [decodeWord, part_7_8_8_8_at24_7]
  simp [decodeRow3, part_8_8_8_at16_8, part_8_8_at8_8, part_8_at0_8]

theorem lmadLn16 (d : BitVec 8) (a : BitVec 8) (b : BitVec 8) : Statement (.lmadLn16 d a b) := by
  intro hw m w h; cases h
  simp [decodeWord, part_7_8_8_8_at24_7]
  simp [decodeRow3, part_8_8_8_at16_8, part_8_8_at8_8, part_8_at0_8]

theorem lmadLn32 (d : BitVec 8) (a : BitVec 8) (b : BitVec 8) : Statement (.lmadLn32 d a b) := by
  intro hw m w h; cases h
  simp [decodeWord, part_7_8_8_8_at24_7]
  simp [decodeRow3, part_8_8_8_at16_8, part_8_8_at8_8, part_8_at0_8]

theorem ldivLn16 (d : BitVec 8) (a : BitVec 8) (b : BitVec 8) : Statement (.ldivLn16 d a b) := by
  intro hw m w h; cases h
  simp [decodeWord, part_7_8_8_8_at24_7]
  simp [decodeRow3, part_8_8_8_at16_8, part_8_8_at8_8, part_8_at0_8]

theorem ldivLn32 (d : BitVec 8) (a : BitVec 8) (b : BitVec 8) : Statement (.ldivLn32 d a b) := by
  intro hw m w h; cases h
  simp [decodeWord, part_7_8_8_8_at24_7]
  simp [decodeRow3, part_8_8_8_at16_8, part_8_8_at8_8, part_8_at0_8]

theorem lminLn16 (d : BitVec 8) (a : BitVec 8) (b : BitVec 8) : Statement (.lminLn16 d a b) := by
  intro hw m w h; cases h
  simp [decodeWord, part_7_8_8_8_at24_7]
  simp [decodeRow3, part_8_8_8_at16_8, part_8_8_at8_8, part_8_at0_8]

theorem lminLn32 (d : BitVec 8) (a : BitVec 8) (b : BitVec 8) : Statement (.lminLn32 d a b) := by
  intro hw m w h; cases h
  simp [decodeWord, part_7_8_8_8_at24_7]
  simp [decodeRow3, part_8_8_8_at16_8, part_8_8_at8_8, part_8_at0_8]

theorem lmaxLn16 (d : BitVec 8) (a : BitVec 8) (b : BitVec 8) : Statement (.lmaxLn16 d a b) := by
  intro hw m w h; cases h
  simp [decodeWord, part_7_8_8_8_at24_7]
  simp [decodeRow4, part_8_8_8_at16_8, part_8_8_at8_8, part_8_at0_8]

theorem lmaxLn32 (d : BitVec 8) (a : BitVec 8) (b : BitVec 8) : Statement (.lmaxLn32 d a b) := by
  intro hw m w h; cases h
  simp [decodeWord, part_7_8_8_8_at24_7]
  simp [decodeRow4, part_8_8_8_at16_8, part_8_8_at8_8, part_8_at0_8]

theorem lpowLn32 (d : BitVec 8) (a : BitVec 8) (b : BitVec 8) : Statement (.lpowLn32 d a b) := by
  intro hw m w h; cases h
  simp [decodeWord, part_7_8_8_8_at24_7]
  simp [decodeRow4, part_8_8_8_at16_8, part_8_8_at8_8, part_8_at0_8]

theorem lscaleLn16 (d : BitVec 8) (a : BitVec 8) (b : BitVec 8) : Statement (.lscaleLn16 d a b) := by
  intro hw m w h; cases h
  simp [decodeWord, part_7_8_8_8_at24_7]
  simp [decodeRow4, part_8_8_8_at16_8, part_8_8_at8_8, part_8_at0_8]

theorem lscaleLn32 (d : BitVec 8) (a : BitVec 8) (b : BitVec 8) : Statement (.lscaleLn32 d a b) := by
  intro hw m w h; cases h
  simp [decodeWord, part_7_8_8_8_at24_7]
  simp [decodeRow4, part_8_8_8_at16_8, part_8_8_at8_8, part_8_at0_8]

theorem lcmpLn16 (c : BitVec 2) (p : BitVec 6) (a : BitVec 8) (b : BitVec 8) : Statement (.lcmpLn16 c p a b) := by
  intro hw m w h; cases h
  simp [decodeWord, part_7_2_6_8_8_at24_7]
  simp [decodeRow4, part_2_6_8_8_at22_2, part_6_8_8_at16_6, part_8_8_at8_8, part_8_at0_8]

theorem lcmpLn32 (c : BitVec 2) (p : BitVec 6) (a : BitVec 8) (b : BitVec 8) : Statement (.lcmpLn32 c p a b) := by
  intro hw m w h; cases h
  simp [decodeWord, part_7_2_6_8_8_at24_7]
  simp [decodeRow4, part_2_6_8_8_at22_2, part_6_8_8_at16_6, part_8_8_at8_8, part_8_at0_8]

theorem lneg (d : BitVec 8) (a : BitVec 8) (f : BitVec 2) : Statement (.lneg d a f) := by
  intro hw m w h; cases h
  simp [decodeWord, part_7_8_8_6_2_at24_7]
  simp [decodeRow4, part_8_8_6_2_at16_8, part_8_6_2_at8_8, part_2_at0_2, part_6_2_at2_6]

theorem labs (d : BitVec 8) (a : BitVec 8) (f : BitVec 2) : Statement (.labs d a f) := by
  intro hw m w h; cases h
  simp [decodeWord, part_7_8_8_6_2_at24_7]
  simp [decodeRow4, part_8_8_6_2_at16_8, part_8_6_2_at8_8, part_2_at0_2, part_6_2_at2_6]

theorem lrcp (d : BitVec 8) (a : BitVec 8) (f : BitVec 2) : Statement (.lrcp d a f) := by
  intro hw m w h; cases h
  simp [decodeWord, part_7_8_8_6_2_at24_7]
  simp [decodeRow4, part_8_8_6_2_at16_8, part_8_6_2_at8_8, part_2_at0_2, part_6_2_at2_6]

theorem lsqr (d : BitVec 8) (a : BitVec 8) (f : BitVec 2) : Statement (.lsqr d a f) := by
  intro hw m w h; cases h
  simp [decodeWord, part_7_8_8_6_2_at24_7]
  simp [decodeRow4, part_8_8_6_2_at16_8, part_8_6_2_at8_8, part_2_at0_2, part_6_2_at2_6]

theorem lsqrt (d : BitVec 8) (a : BitVec 8) (f : BitVec 2) : Statement (.lsqrt d a f) := by
  intro hw m w h; cases h
  simp [decodeWord, part_7_8_8_6_2_at24_7]
  simp [decodeRow4, part_8_8_6_2_at16_8, part_8_6_2_at8_8, part_2_at0_2, part_6_2_at2_6]

theorem lrsqrt (d : BitVec 8) (a : BitVec 8) (f : BitVec 2) : Statement (.lrsqrt d a f) := by
  intro hw m w h; cases h
  simp [decodeWord, part_7_8_8_6_2_at24_7]
  simp [decodeRow4, part_8_8_6_2_at16_8, part_8_6_2_at8_8, part_2_at0_2, part_6_2_at2_6]

theorem lexp2 (d : BitVec 8) (a : BitVec 8) (f : BitVec 2) : Statement (.lexp2 d a f) := by
  intro hw m w h; cases h
  simp [decodeWord, part_7_8_8_6_2_at24_7]
  simp [decodeRow4, part_8_8_6_2_at16_8, part_8_6_2_at8_8, part_2_at0_2, part_6_2_at2_6]

theorem llog2 (d : BitVec 8) (a : BitVec 8) (f : BitVec 2) : Statement (.llog2 d a f) := by
  intro hw m w h; cases h
  simp [decodeWord, part_7_8_8_6_2_at24_7]
  simp [decodeRow4, part_8_8_6_2_at16_8, part_8_6_2_at8_8, part_2_at0_2, part_6_2_at2_6]

theorem lexp (d : BitVec 8) (a : BitVec 8) (f : BitVec 2) : Statement (.lexp d a f) := by
  intro hw m w h; cases h
  simp [decodeWord, part_7_8_8_6_2_at24_7]
  simp [decodeRow4, part_8_8_6_2_at16_8, part_8_6_2_at8_8, part_2_at0_2, part_6_2_at2_6]

theorem lsint (d : BitVec 8) (a : BitVec 8) (f : BitVec 2) : Statement (.lsint d a f) := by
  intro hw m w h; cases h
  simp [decodeWord, part_7_8_8_6_2_at24_7]
  simp [decodeRow4, part_8_8_6_2_at16_8, part_8_6_2_at8_8, part_2_at0_2, part_6_2_at2_6]

theorem lcost (d : BitVec 8) (a : BitVec 8) (f : BitVec 2) : Statement (.lcost d a f) := by
  intro hw m w h; cases h
  simp [decodeWord, part_7_8_8_6_2_at24_7]
  simp [decodeRow4, part_8_8_6_2_at16_8, part_8_6_2_at8_8, part_2_at0_2, part_6_2_at2_6]

theorem lclass (d : BitVec 8) (a : BitVec 8) (f : BitVec 2) : Statement (.lclass d a f) := by
  intro hw m w h; cases h
  simp [decodeWord, part_7_8_8_6_2_at24_7]
  simp [decodeRow4, part_8_8_6_2_at16_8, part_8_6_2_at8_8, part_2_at0_2, part_6_2_at2_6]

theorem lcvtLn8 (d : BitVec 8) (a : BitVec 8) (s : BitVec 2) : Statement (.lcvtLn8 d a s) := by
  intro hw m w h; cases h
  simp [decodeWord, part_7_8_8_6_2_at24_7]
  simp [decodeRow4, part_8_8_6_2_at16_8, part_8_6_2_at8_8, part_2_at0_2, part_6_2_at2_6]

theorem lcvtLn16 (d : BitVec 8) (a : BitVec 8) (s : BitVec 2) : Statement (.lcvtLn16 d a s) := by
  intro hw m w h; cases h
  simp [decodeWord, part_7_8_8_6_2_at24_7]
  simp [decodeRow4, part_8_8_6_2_at16_8, part_8_6_2_at8_8, part_2_at0_2, part_6_2_at2_6]

theorem lcvtLn32 (d : BitVec 8) (a : BitVec 8) (s : BitVec 2) : Statement (.lcvtLn32 d a s) := by
  intro hw m w h; cases h
  simp [decodeWord, part_7_8_8_6_2_at24_7]
  simp [decodeRow4, part_8_8_6_2_at16_8, part_8_6_2_at8_8, part_2_at0_2, part_6_2_at2_6]

theorem lgetl (d : BitVec 8) (a : BitVec 8) (f : BitVec 2) : Statement (.lgetl d a f) := by
  intro hw m w h; cases h
  simp [decodeWord, part_7_8_8_6_2_at24_7]
  simp [decodeRow4, part_8_8_6_2_at16_8, part_8_6_2_at8_8, part_2_at0_2, part_6_2_at2_6]

theorem lmkl (d : BitVec 8) (a : BitVec 8) (f : BitVec 2) : Statement (.lmkl d a f) := by
  intro hw m w h; cases h
  simp [decodeWord, part_7_8_8_6_2_at24_7]
  simp [decodeRow4, part_8_8_6_2_at16_8, part_8_6_2_at8_8, part_2_at0_2, part_6_2_at2_6]

theorem lunpk0 (d : BitVec 8) (a : BitVec 8) (f : BitVec 2) : Statement (.lunpk0 d a f) := by
  intro hw m w h; cases h
  simp [decodeWord, part_7_8_8_6_2_at24_7]
  simp [decodeRow4, part_8_8_6_2_at16_8, part_8_6_2_at8_8, part_2_at0_2, part_6_2_at2_6]

theorem lunpk1 (d : BitVec 8) (a : BitVec 8) (f : BitVec 2) : Statement (.lunpk1 d a f) := by
  intro hw m w h; cases h
  simp [decodeWord, part_7_8_8_6_2_at24_7]
  simp [decodeRow4, part_8_8_6_2_at16_8, part_8_6_2_at8_8, part_2_at0_2, part_6_2_at2_6]

theorem lunpk2 (d : BitVec 8) (a : BitVec 8) (f : BitVec 2) : Statement (.lunpk2 d a f) := by
  intro hw m w h; cases h
  simp [decodeWord, part_7_8_8_6_2_at24_7]
  simp [decodeRow4, part_8_8_6_2_at16_8, part_8_6_2_at8_8, part_2_at0_2, part_6_2_at2_6]

theorem lunpk3 (d : BitVec 8) (a : BitVec 8) (f : BitVec 2) : Statement (.lunpk3 d a f) := by
  intro hw m w h; cases h
  simp [decodeWord, part_7_8_8_6_2_at24_7]
  simp [decodeRow4, part_8_8_6_2_at16_8, part_8_6_2_at8_8, part_2_at0_2, part_6_2_at2_6]

theorem lfix (d : BitVec 8) (a : BitVec 8) (f : BitVec 2) (s : Bool) (n : BitVec 5) : Statement (.lfix d a f s n) := by
  intro hw m w h; cases h
  simp [decodeWord, part_7_8_8_2_1_5_at24_7]
  simp [decodeRow4, part_8_8_2_1_5_at16_8, part_8_2_1_5_at8_8, part_2_1_5_at6_2, bit_1_5_at5, part_5_at0_5]

theorem lflt (d : BitVec 8) (a : BitVec 8) (f : BitVec 2) (s : Bool) (n : BitVec 5) : Statement (.lflt d a f s n) := by
  intro hw m w h; cases h
  simp [decodeWord, part_7_8_8_2_1_5_at24_7]
  simp [decodeRow4, part_8_8_2_1_5_at16_8, part_8_2_1_5_at8_8, part_2_1_5_at6_2, bit_1_5_at5, part_5_at0_5]

theorem fcvtToLn (d : BitVec 8) (a : BitVec 8) (l : BitVec 2) (e : BitVec 3) : Statement (.fcvtToLn d a l e) := by
  intro hw m w h; cases h
  simp [decodeWord, part_7_8_8_1_2_3_2_at24_7]
  simp [decodeRow4, part_8_8_1_2_3_2_at16_8, part_8_1_2_3_2_at8_8, part_2_3_2_at5_2, part_3_2_at2_3, part_1_2_3_2_at7_1, part_2_at0_2]

theorem fcvtToIeee (d : BitVec 8) (a : BitVec 8) (l : BitVec 2) (e : BitVec 3) : Statement (.fcvtToIeee d a l e) := by
  intro hw m w h; cases h
  simp [decodeWord, part_7_8_8_1_2_3_2_at24_7]
  simp [decodeRow4, part_8_8_1_2_3_2_at16_8, part_8_1_2_3_2_at8_8, part_2_3_2_at5_2, part_3_2_at2_3, part_1_2_3_2_at7_1, part_2_at0_2]

theorem lpack (d : BitVec 8) (a : BitVec 8) (b : BitVec 8) : Statement (.lpack d a b) := by
  intro hw m w h; cases h
  simp [decodeWord, part_7_8_8_8_at24_7]
  simp [decodeRow4, part_8_8_8_at16_8, part_8_8_at8_8, part_8_at0_8]

theorem flagGet (d : BitVec 8) : Statement (.flagGet d) := by
  intro hw m w h; cases h
  simp [decodeWord, part_7_8_16_at24_7]
  simp [decodeRow4, part_8_16_at16_8, part_16_at8_8, part_16_at0_8]

theorem flagSet (a : BitVec 8) : Statement (.flagSet a) := by
  intro hw m w h; cases h
  simp [decodeWord, part_15_8_8_at24_7]
  simp [decodeRow4, part_8_8_at8_8, part_8_at0_8, part_15_8_8_at22_2, part_15_8_8_at16_6]

theorem flagClr (a : BitVec 8) : Statement (.flagClr a) := by
  intro hw m w h; cases h
  simp [decodeWord, part_15_8_8_at24_7]
  simp [decodeRow4, part_8_8_at8_8, part_8_at0_8, part_15_8_8_at22_2, part_15_8_8_at16_6]

theorem flagPut (a : BitVec 8) : Statement (.flagPut a) := by
  intro hw m w h; cases h
  simp [decodeWord, part_15_8_8_at24_7]
  simp [decodeRow4, part_8_8_at8_8, part_8_at0_8, part_15_8_8_at22_2, part_15_8_8_at16_6]

theorem flagGor (d : BitVec 6) : Statement (.flagGor d) := by
  intro hw m w h; cases h
  simp [decodeWord, part_9_6_16_at24_7]
  simp [decodeRow4, part_6_16_at16_6, part_16_at8_8, part_16_at0_8, part_9_6_16_at22_2]

theorem flagTst (d : BitVec 6) (a : BitVec 8) : Statement (.flagTst d a) := by
  intro hw m w h; cases h
  simp [decodeWord, part_9_6_8_8_at24_7]
  simp [decodeRow4, part_6_8_8_at16_6, part_8_8_at8_8, part_8_at0_8, part_9_6_8_8_at22_2]

theorem lmma (c : BitVec 3) (a : BitVec 6) (b : BitVec 6) (f : BitVec 3) (s : BitVec 5) (p : Bool) : Statement (.lmma c a b f s p) := by
  intro hw m w h; cases h
  simp [decodeWord, part_7_3_6_6_3_5_1_at24_7]
  simp [decodeRow5, part_3_6_6_3_5_1_at21_3, part_6_6_3_5_1_at15_6, part_6_3_5_1_at9_6, part_3_5_1_at6_3, part_5_1_at1_5, bit_1_at0]

theorem lmms (c : BitVec 3) (a : BitVec 6) (b : BitVec 6) (f : BitVec 3) (w : BitVec 3) (n : BitVec 2) (p : Bool) : Statement (.lmms c a b f w n p) := by
  intro hw m w h; cases h
  simp [decodeWord, part_7_3_6_6_3_3_2_1_at24_7]
  simp [decodeRow5, part_3_6_6_3_3_2_1_at21_3, part_6_6_3_3_2_1_at15_6, part_6_3_3_2_1_at9_6, part_3_3_2_1_at6_3, part_3_2_1_at3_3, part_2_1_at1_2, bit_1_at0]

theorem imma (c : BitVec 3) (a : BitVec 6) (b : BitVec 6) (n : BitVec 3) (p : Bool) : Statement (.imma c a b n p) := by
  intro hw m w h; cases h
  simp [decodeWord, part_7_3_6_6_3_3_2_1_at24_7]
  simp [decodeRow5, part_3_6_6_3_3_2_1_at21_3, part_6_6_3_3_2_1_at15_6, part_6_3_3_2_1_at9_6, part_3_2_1_at3_3, bit_1_at0, part_3_3_2_1_at6_3, part_2_1_at1_2]

theorem aclrLn32 (c : BitVec 3) : Statement (.aclrLn32 c) := by
  intro hw m w h; cases h
  simp [decodeWord, part_7_3_21_at24_7]
  simp [decodeRow5, part_3_21_at21_3, part_21_at5_16, part_21_at0_5]

theorem aclrLn16 (c : BitVec 3) : Statement (.aclrLn16 c) := by
  intro hw m w h; cases h
  simp [decodeWord, part_7_3_21_at24_7]
  simp [decodeRow5, part_3_21_at21_3, part_21_at5_16, part_21_at0_5]

theorem aclrS32 (c : BitVec 3) (f : BitVec 5) : Statement (.aclrS32 c f) := by
  intro hw m w h; cases h
  simp [decodeWord, part_7_3_16_5_at24_7]
  simp [decodeRow5, part_3_16_5_at21_3, part_5_at0_5, part_16_5_at5_16]

theorem ard (c : BitVec 3) (q : BitVec 5) (d : BitVec 6) : Statement (.ard c q d) := by
  intro hw m w h; cases h
  simp [decodeWord, part_7_3_1_5_6_9_at24_7]
  simp [decodeRow5, part_3_1_5_6_9_at21_3, part_5_6_9_at15_5, part_6_9_at9_6, part_1_5_6_9_at20_1, part_9_at0_9]

theorem awr (c : BitVec 3) (q : BitVec 5) : Statement (.awr c q) := by
  intro hw m w h; cases h
  simp [decodeWord, part_7_3_1_5_15_at24_7]
  simp [decodeRow5, part_3_1_5_15_at21_3, part_5_15_at15_5, part_1_5_15_at20_1, part_15_at0_15]

theorem amov (c : BitVec 3) (s : BitVec 3) : Statement (.amov c s) := by
  intro hw m w h; cases h
  simp [decodeWord, part_7_3_3_3_15_at24_7]
  simp [decodeRow5, part_3_3_3_15_at21_3, part_3_15_at15_3, part_3_3_15_at18_3, part_15_at0_15]

theorem tld (t : BitVec 6) (d : BitVec 6) (s : BitVec 6) : Statement (.tld t d s) := by
  intro hw m w h; cases h
  simp [decodeWord, part_10_6_6_3_6_at24_7]
  simp [decodeRow5, part_6_6_3_6_at15_6, part_6_3_6_at9_6, part_6_at0_6, part_10_6_6_3_6_at21_3, part_3_6_at6_3]

theorem tst (t : BitVec 6) (d : BitVec 6) (s : BitVec 6) : Statement (.tst t d s) := by
  intro hw m w h; cases h
  simp [decodeWord, part_10_6_6_3_6_at24_7]
  simp [decodeRow5, part_6_6_3_6_at15_6, part_6_3_6_at9_6, part_6_at0_6, part_10_6_6_3_6_at21_3, part_3_6_at6_3]

theorem tmov (t : BitVec 6) (u : BitVec 6) : Statement (.tmov t u) := by
  intro hw m w h; cases h
  simp [decodeWord, part_10_6_6_9_at24_7]
  simp [decodeRow5, part_6_6_9_at15_6, part_6_9_at9_6, part_10_6_6_9_at21_3, part_9_at0_9]

theorem twset (n : BitVec 3) (b : BitVec 6) : Statement (.twset n b) := by
  intro hw m w h; cases h
  simp [decodeWord, part_13_3_6_9_at24_7]
  simp [decodeRow5, part_3_6_9_at15_3, part_6_9_at9_6, part_13_3_6_9_at18_6, part_9_at0_9]

theorem twget (n : BitVec 3) (b : BitVec 6) : Statement (.twget n b) := by
  intro hw m w h; cases h
  simp [decodeWord, part_13_3_6_9_at24_7]
  simp [decodeRow5, part_3_6_9_at15_3, part_6_9_at9_6, part_13_3_6_9_at18_6, part_9_at0_9]

theorem mwait (c : BitVec 3) : Statement (.mwait c) := by
  intro hw m w h; cases h
  simp [decodeWord, part_7_3_21_at24_7]
  simp [decodeRow5, part_3_21_at21_3, part_21_at0_21]

theorem gset (a : BitVec 6) (g : BitVec 3) : Statement (.gset a g) := by
  intro hw m w h; cases h
  simp [decodeWord, part_13_6_9_3_at24_7]
  simp [decodeRow5, part_6_9_3_at12_6, part_3_at0_3, part_13_6_9_3_at18_6, part_9_3_at3_9]

theorem gcfg (d : BitVec 6) (g : BitVec 3) : Statement (.gcfg d g) := by
  intro hw m w h; cases h
  simp [decodeWord, part_7_6_15_3_at24_7]
  simp [decodeRow5, part_6_15_3_at18_6, part_3_at0_3, part_15_3_at3_15]

theorem ldgUniformVector (d : BitVec 8) (a : BitVec 7) (b : BitVec 6) (z : BitVec 2) : Statement (.ldgUniformVector d a b z) := by
  intro hw m w h; cases h
  simp [decodeWord, part_7_8_1_7_6_2_at24_7]
  simpa [decodeRow6, part_8_1_7_6_2_at16_8, part_7_6_2_at8_7, part_6_2_at2_6, part_2_at0_2, part_1_7_6_2_at15_1] using (show (b != 63) = true from hw)

theorem ldgUniform (d : BitVec 8) (b : BitVec 6) (z : BitVec 2) : Statement (.ldgUniform d b z) := by
  intro hw m w h; cases h
  simp [decodeWord, part_7_8_8_6_2_at24_7]
  simp [decodeRow6, part_8_8_6_2_at16_8, part_6_2_at2_6, part_2_at0_2, part_8_6_2_at15_1, part_8_6_2_at8_7]

theorem ldgVector (d : BitVec 8) (a : BitVec 7) (z : BitVec 2) : Statement (.ldgVector d a z) := by
  intro hw m w h; cases h
  simp [decodeWord, part_7_8_1_7_6_2_at24_7]
  simp [decodeRow6, part_8_1_7_6_2_at16_8, part_7_6_2_at8_7, part_2_at0_2, part_1_7_6_2_at15_1, part_6_2_at2_6]

theorem stgUniformVector (d : BitVec 8) (a : BitVec 7) (b : BitVec 6) (z : BitVec 2) : Statement (.stgUniformVector d a b z) := by
  intro hw m w h; cases h
  simp [decodeWord, part_7_8_1_7_6_2_at24_7]
  simpa [decodeRow6, part_8_1_7_6_2_at16_8, part_7_6_2_at8_7, part_6_2_at2_6, part_2_at0_2, part_1_7_6_2_at15_1] using (show (b != 63) = true from hw)

theorem stgUniform (d : BitVec 8) (b : BitVec 6) (z : BitVec 2) : Statement (.stgUniform d b z) := by
  intro hw m w h; cases h
  simp [decodeWord, part_7_8_8_6_2_at24_7]
  simp [decodeRow6, part_8_8_6_2_at16_8, part_6_2_at2_6, part_2_at0_2, part_8_6_2_at15_1, part_8_6_2_at8_7]

theorem stgVector (d : BitVec 8) (a : BitVec 7) (z : BitVec 2) : Statement (.stgVector d a z) := by
  intro hw m w h; cases h
  simp [decodeWord, part_7_8_1_7_6_2_at24_7]
  simp [decodeRow6, part_8_1_7_6_2_at16_8, part_7_6_2_at8_7, part_2_at0_2, part_1_7_6_2_at15_1, part_6_2_at2_6]

theorem ldhVector (d : BitVec 8) (a : BitVec 7) (b : BitVec 6) (z : BitVec 2) : Statement (.ldhVector d a b z) := by
  intro hw m w h; cases h
  simp [decodeWord, part_7_8_1_7_6_2_at24_7]
  simp [decodeRow6, part_8_1_7_6_2_at16_8, part_7_6_2_at8_7, part_6_2_at2_6, part_2_at0_2, part_1_7_6_2_at15_1]

theorem ldhOffset (d : BitVec 8) (b : BitVec 6) (z : BitVec 2) : Statement (.ldhOffset d b z) := by
  intro hw m w h; cases h
  simp [decodeWord, part_7_8_8_6_2_at24_7]
  simp [decodeRow6, part_8_8_6_2_at16_8, part_6_2_at2_6, part_2_at0_2, part_8_6_2_at15_1, part_8_6_2_at8_7]

theorem sthVector (d : BitVec 8) (a : BitVec 7) (b : BitVec 6) (z : BitVec 2) : Statement (.sthVector d a b z) := by
  intro hw m w h; cases h
  simp [decodeWord, part_7_8_1_7_6_2_at24_7]
  simp [decodeRow6, part_8_1_7_6_2_at16_8, part_7_6_2_at8_7, part_6_2_at2_6, part_2_at0_2, part_1_7_6_2_at15_1]

theorem sthOffset (d : BitVec 8) (b : BitVec 6) (z : BitVec 2) : Statement (.sthOffset d b z) := by
  intro hw m w h; cases h
  simp [decodeWord, part_7_8_8_6_2_at24_7]
  simp [decodeRow6, part_8_8_6_2_at16_8, part_6_2_at2_6, part_2_at0_2, part_8_6_2_at15_1, part_8_6_2_at8_7]

theorem atom (d : BitVec 8) (a : BitVec 8) (o : BitVec 4) (t : BitVec 2) : Statement (.atom d a o t) := by
  intro hw m w h; cases h
  simp [decodeWord, part_7_8_8_4_2_2_at24_7]
  simp [decodeRow6, part_8_8_4_2_2_at16_8, part_8_4_2_2_at8_8, part_4_2_2_at4_4, part_2_2_at2_2, part_2_at0_2]

theorem red (d : BitVec 8) (a : BitVec 8) (o : BitVec 4) (t : BitVec 2) : Statement (.red d a o t) := by
  intro hw m w h; cases h
  simp [decodeWord, part_7_8_8_4_2_2_at24_7]
  simp [decodeRow6, part_8_8_4_2_2_at16_8, part_8_4_2_2_at8_8, part_4_2_2_at4_4, part_2_2_at2_2, part_2_at0_2]

theorem fenceX (s : BitVec 6) : Statement (.fenceX s) := by
  intro hw m w h; cases h
  simp [decodeWord, part_25_6_at24_7]
  simp [decodeRow6, part_6_at0_6, part_25_6_at6_18]

theorem talloc (d : BitVec 6) (a : BitVec 6) (l : Bool) : Statement (.talloc d a l) := by
  intro hw m w h; cases h
  simp [decodeWord, part_7_6_6_11_1_at24_7]
  simp [decodeRow6, part_6_6_11_1_at18_6, part_6_11_1_at12_6, bit_1_at0, part_11_1_at1_11]

theorem tfree (a : BitVec 6) : Statement (.tfree a) := by
  intro hw m w h; cases h
  simp [decodeWord, part_13_6_12_at24_7]
  simp [decodeRow6, part_6_12_at12_6, part_13_6_12_at18_6, part_12_at0_12]

theorem pref (d : BitVec 8) (a : BitVec 8) (b : BitVec 8) : Statement (.pref d a b) := by
  intro hw m w h; cases h
  simp [decodeWord, part_7_8_8_8_at24_7]
  simp [decodeRow6, part_8_8_8_at16_8, part_8_8_at8_8, part_8_at0_8]

theorem vspl (d : BitVec 8) (b : BitVec 6) (s : Bool) : Statement (.vspl d b s) := by
  intro hw m w h; cases h
  simp [decodeWord, part_7_8_8_6_1_1_at24_7]
  simp [decodeRow6, part_8_8_6_1_1_at16_8, part_6_1_1_at2_6, bit_1_at0, part_8_6_1_1_at8_8, part_1_1_at1_1]

theorem vfil (d : BitVec 8) (b : BitVec 6) (s : Bool) : Statement (.vfil d b s) := by
  intro hw m w h; cases h
  simp [decodeWord, part_7_8_8_6_1_1_at24_7]
  simp [decodeRow6, part_8_8_6_1_1_at16_8, part_6_1_1_at2_6, bit_1_at0, part_8_6_1_1_at8_8, part_1_1_at1_1]

theorem qpush (n : BitVec 4) (a : BitVec 6) : Statement (.qpush n a) := by
  intro hw m w h; cases h
  simp [decodeWord, part_9_4_6_12_at24_7]
  simp [decodeRow6, part_4_6_12_at18_4, part_6_12_at12_6, part_9_4_6_12_at22_2, part_12_at0_12]

theorem qpop (d : BitVec 6) (n : BitVec 4) : Statement (.qpop d n) := by
  intro hw m w h; cases h
  simp [decodeWord, part_7_6_2_4_12_at24_7]
  simp [decodeRow6, part_6_2_4_12_at18_6, part_4_12_at12_4, part_2_4_12_at16_2, part_12_at0_12]

theorem qtry (d : BitVec 6) (n : BitVec 4) (b : BitVec 6) : Statement (.qtry d n b) := by
  intro hw m w h; cases h
  simp [decodeWord, part_7_6_2_4_6_6_at24_7]
  simp [decodeRow6, part_6_2_4_6_6_at18_6, part_4_6_6_at12_4, part_6_6_at6_6, part_2_4_6_6_at16_2, part_6_at0_6]

theorem thrGet (d : BitVec 4) (n : BitVec 6) : Statement (.thrGet d n) := by
  intro hw m w h; cases h
  simp [decodeWord, part_12_4_9_6_at24_7]
  simp [decodeRow7, part_4_9_6_at15_4, part_6_at0_6, part_12_4_9_6_at19_5, part_9_6_at11_4, part_9_6_at10_1, part_9_6_at8_2, part_9_6_at6_2]

theorem thrPeek (d : BitVec 4) (n : BitVec 6) : Statement (.thrPeek d n) := by
  intro hw m w h; cases h
  simp [decodeWord, part_12_4_9_6_at24_7]
  simp [decodeRow7, part_4_9_6_at15_4, part_6_at0_6, part_12_4_9_6_at19_5, part_9_6_at11_4, part_9_6_at10_1, part_9_6_at8_2, part_9_6_at6_2]

theorem thrSkip (a : BitVec 4) (n : BitVec 11) : Statement (.thrSkip a n) := by
  intro hw m w h; cases h
  simp [decodeWord, part_16_4_11_at24_7]
  simp [decodeRow7, part_4_11_at11_4, part_11_at0_11, part_16_4_11_at19_5, part_16_4_11_at15_4]

theorem thrBfx (d : BitVec 4) (a : BitVec 4) (s : Bool) (w : BitVec 5) (p : BitVec 5) : Statement (.thrBfx d a s w p) := by
  intro hw m w h; cases h
  simp [decodeWord, part_12_4_4_1_5_5_at24_7]
  simp [decodeRow7, part_4_4_1_5_5_at15_4, part_4_1_5_5_at11_4, bit_1_5_5_at10, part_5_5_at5_5, part_5_at0_5, part_12_4_4_1_5_5_at19_5]

theorem thrLut (d : BitVec 4) (a : BitVec 4) (k : BitVec 8) : Statement (.thrLut d a k) := by
  intro hw m w h; cases h
  simp [decodeWord, part_12_4_4_3_8_at24_7]
  simp [decodeRow7, part_4_4_3_8_at15_4, part_4_3_8_at11_4, part_8_at0_8, part_12_4_4_3_8_at19_5, part_3_8_at10_1, part_3_8_at8_2]

theorem thrTbw (d : BitVec 4) (a : BitVec 4) (k : BitVec 8) : Statement (.thrTbw d a k) := by
  intro hw m w h; cases h
  simp [decodeWord, part_12_4_4_3_8_at24_7]
  simp [decodeRow7, part_4_4_3_8_at15_4, part_4_3_8_at11_4, part_8_at0_8, part_12_4_4_3_8_at19_5, part_3_8_at10_1, part_3_8_at8_2]

theorem thrRefill (a : BitVec 4) (n : BitVec 8) : Statement (.thrRefill a n) := by
  intro hw m w h; cases h
  simp [decodeWord, part_16_4_3_8_at24_7]
  simp [decodeRow7, part_4_3_8_at11_4, part_8_at0_8, part_16_4_3_8_at19_5, part_3_8_at10_1, part_3_8_at8_2, part_16_4_3_8_at15_4]

theorem thrMovi (d : BitVec 4) (i : BitVec 11) : Statement (.thrMovi d i) := by
  intro hw m w h; cases h
  simp [decodeWord, part_12_4_4_11_at24_7]
  simp [decodeRow7, part_4_4_11_at15_4, part_11_at0_11, part_12_4_4_11_at19_5, part_4_11_at11_4]

theorem thrAdd (d : BitVec 4) (a : BitVec 4) (i : BitVec 11) : Statement (.thrAdd d a i) := by
  intro hw m w h; cases h
  simp [decodeWord, part_12_4_4_11_at24_7]
  simp [decodeRow7, part_4_4_11_at15_4, part_4_11_at11_4, part_11_at0_11, part_12_4_4_11_at19_5]

theorem thrSub (d : BitVec 4) (a : BitVec 4) (i : BitVec 11) : Statement (.thrSub d a i) := by
  intro hw m w h; cases h
  simp [decodeWord, part_12_4_4_11_at24_7]
  simp [decodeRow7, part_4_4_11_at15_4, part_4_11_at11_4, part_11_at0_11, part_12_4_4_11_at19_5]

theorem thrAnd (d : BitVec 4) (a : BitVec 4) (i : BitVec 11) : Statement (.thrAnd d a i) := by
  intro hw m w h; cases h
  simp [decodeWord, part_12_4_4_11_at24_7]
  simp [decodeRow7, part_4_4_11_at15_4, part_4_11_at11_4, part_11_at0_11, part_12_4_4_11_at19_5]

theorem thrOr (d : BitVec 4) (a : BitVec 4) (i : BitVec 11) : Statement (.thrOr d a i) := by
  intro hw m w h; cases h
  simp [decodeWord, part_12_4_4_11_at24_7]
  simp [decodeRow7, part_4_4_11_at15_4, part_4_11_at11_4, part_11_at0_11, part_12_4_4_11_at19_5]

theorem thrXor (d : BitVec 4) (a : BitVec 4) (i : BitVec 11) : Statement (.thrXor d a i) := by
  intro hw m w h; cases h
  simp [decodeWord, part_12_4_4_11_at24_7]
  simp [decodeRow7, part_4_4_11_at15_4, part_4_11_at11_4, part_11_at0_11, part_12_4_4_11_at19_5]

theorem thrShl (d : BitVec 4) (a : BitVec 4) (i : BitVec 11) : Statement (.thrShl d a i) := by
  intro hw m w h; cases h
  simp [decodeWord, part_12_4_4_11_at24_7]
  simp [decodeRow7, part_4_4_11_at15_4, part_4_11_at11_4, part_11_at0_11, part_12_4_4_11_at19_5]

theorem thrShr (d : BitVec 4) (a : BitVec 4) (i : BitVec 11) : Statement (.thrShr d a i) := by
  intro hw m w h; cases h
  simp [decodeWord, part_12_4_4_11_at24_7]
  simp [decodeRow7, part_4_4_11_at15_4, part_4_11_at11_4, part_11_at0_11, part_12_4_4_11_at19_5]

theorem thrSar (d : BitVec 4) (a : BitVec 4) (i : BitVec 11) : Statement (.thrSar d a i) := by
  intro hw m w h; cases h
  simp [decodeWord, part_12_4_4_11_at24_7]
  simp [decodeRow7, part_4_4_11_at15_4, part_4_11_at11_4, part_11_at0_11, part_12_4_4_11_at19_5]

theorem thrEmit (a : BitVec 4) (n : BitVec 3) : Statement (.thrEmit a n) := by
  intro hw m w h; cases h
  simp [decodeWord, part_16_4_8_3_at24_7]
  simp [decodeRow7, part_4_8_3_at11_4, part_3_at0_3, part_16_4_8_3_at19_5, part_8_3_at10_1, part_8_3_at8_2, part_8_3_at6_2, part_16_4_8_3_at15_4, part_8_3_at5_1, part_8_3_at3_2]

theorem thrCopy (d : BitVec 4) (a : BitVec 4) : Statement (.thrCopy d a) := by
  intro hw m w h; cases h
  simp [decodeWord, part_12_4_4_11_at24_7]
  simp [decodeRow7, part_4_4_11_at15_4, part_4_11_at11_4, part_12_4_4_11_at19_5, part_11_at10_1, part_11_at8_2, part_11_at6_2, part_11_at5_1, part_11_at3_2, part_11_at0_3]

theorem thrBr (c : BitVec 4) (a : BitVec 4) (i : BitVec 11) : Statement (.thrBr c a i) := by
  intro hw m w h; cases h
  simp [decodeWord, part_12_4_4_11_at24_7]
  simp [decodeRow7, part_4_4_11_at15_4, part_4_11_at11_4, part_11_at0_11, part_12_4_4_11_at19_5]

theorem qbindInit (n : BitVec 4) (a : BitVec 6) : Statement (.qbindInit n a) := by
  intro hw m w h; cases h
  simp [decodeWord, part_9_4_6_12_at24_7]
  simp [decodeRow7, part_4_6_12_at18_4, part_6_12_at12_6, part_9_4_6_12_at22_2, part_12_at0_12]

theorem qbindAttach (n : BitVec 4) (a : BitVec 6) : Statement (.qbindAttach n a) := by
  intro hw m w h; cases h
  simp [decodeWord, part_9_4_6_12_at24_7]
  simp [decodeRow7, part_4_6_12_at18_4, part_6_12_at12_6, part_9_4_6_12_at22_2, part_12_at0_12]

theorem qbindUnbind (n : BitVec 4) : Statement (.qbindUnbind n) := by
  intro hw m w h; cases h
  simp [decodeWord, part_9_4_18_at24_7]
  simp [decodeRow7, part_4_18_at18_4, part_9_4_18_at22_2, part_18_at0_12, part_18_at12_6]

theorem waitmUniformVector (d : BitVec 8) (a : BitVec 7) (b : BitVec 6) (z : BitVec 2) : Statement (.waitmUniformVector d a b z) := by
  intro hw m w h; cases h
  simp [decodeWord, part_7_8_1_7_6_2_at24_7]
  simpa [decodeRow7, part_8_1_7_6_2_at16_8, part_7_6_2_at8_7, part_6_2_at2_6, part_2_at0_2, part_1_7_6_2_at15_1] using (show (b != 63) = true from hw)

theorem waitmUniform (d : BitVec 8) (b : BitVec 6) (z : BitVec 2) : Statement (.waitmUniform d b z) := by
  intro hw m w h; cases h
  simp [decodeWord, part_7_8_8_6_2_at24_7]
  simp [decodeRow7, part_8_8_6_2_at16_8, part_6_2_at2_6, part_2_at0_2, part_8_6_2_at15_1, part_8_6_2_at8_7]

theorem waitmVector (d : BitVec 8) (a : BitVec 7) (z : BitVec 2) : Statement (.waitmVector d a z) := by
  intro hw m w h; cases h
  simp [decodeWord, part_7_8_1_7_6_2_at24_7]
  simp [decodeRow7, part_8_1_7_6_2_at16_8, part_7_6_2_at8_7, part_2_at0_2, part_1_7_6_2_at15_1, part_6_2_at2_6]

theorem bra (o : BitVec 24) : Statement (.bra o) := by
  intro hw m w h; cases h
  simp [decodeWord, part_7_24_at24_7]
  simp [decodeRow7, part_24_at0_24]

theorem brp (p : BitVec 6) (s : Bool) (o : BitVec 16) : Statement (.brp p s o) := by
  intro hw m w h; cases h
  simp [decodeWord, part_7_6_1_1_16_at24_7]
  simp [decodeRow7, part_6_1_1_16_at18_6, bit_1_1_16_at17, part_16_at0_16, part_1_16_at16_1]

theorem call (o : BitVec 24) : Statement (.call o) := by
  intro hw m w h; cases h
  simp [decodeWord, part_7_24_at24_7]
  simp [decodeRow7, part_24_at0_24]

theorem jmp (a : BitVec 6) : Statement (.jmp a) := by
  intro hw m w h; cases h
  simp [decodeWord, part_13_6_12_at24_7]
  simp [decodeRow7, part_6_12_at12_6, part_13_6_12_at18_6, part_12_at0_12]

theorem calli (a : BitVec 6) : Statement (.calli a) := by
  intro hw m w h; cases h
  simp [decodeWord, part_13_6_12_at24_7]
  simp [decodeRow7, part_6_12_at12_6, part_13_6_12_at18_6, part_12_at0_12]

theorem spawn (a : BitVec 6) (b : BitVec 6) : Statement (.spawn a b) := by
  intro hw m w h; cases h
  simp [decodeWord, part_13_6_6_6_at24_7]
  simp [decodeRow7, part_6_6_6_at12_6, part_6_6_at6_6, part_13_6_6_6_at18_6, part_6_at0_6]

theorem bar (l : BitVec 3) (s : BitVec 5) : Statement (.bar l s) := by
  intro hw m w h; cases h
  simp [decodeWord, part_23_3_5_at24_7]
  simp [decodeRow7, part_3_5_at5_3, part_5_at0_5, part_23_3_5_at8_16]

theorem barl (d : BitVec 6) (o : BitVec 2) (l : BitVec 3) (s : BitVec 5) : Statement (.barl d o l s) := by
  intro hw m w h; cases h
  simp [decodeWord, part_9_6_6_2_3_5_at24_7]
  simp [decodeRow7, part_6_6_2_3_5_at16_6, part_2_3_5_at8_2, part_3_5_at5_3, part_5_at0_5, part_9_6_6_2_3_5_at22_2, part_6_2_3_5_at10_6]

theorem tsub (d : BitVec 6) (a : BitVec 6) : Statement (.tsub d a) := by
  intro hw m w h; cases h
  simp [decodeWord, part_7_6_6_12_at24_7]
  simp [decodeRow7, part_6_6_12_at18_6, part_6_12_at12_6, part_12_at0_12]

theorem widF0 (d : BitVec 8) : Statement (.widF0 d) := by
  intro hw m w h; cases h
  simp [decodeWord, part_7_8_16_at24_7]
  simp [decodeRow7, part_8_16_at16_8, part_16_at0_16]

theorem widF1 (d : BitVec 8) : Statement (.widF1 d) := by
  intro hw m w h; cases h
  simp [decodeWord, part_7_8_16_at24_7]
  simp [decodeRow7, part_8_16_at16_8, part_16_at0_16]

theorem widF2 (d : BitVec 8) : Statement (.widF2 d) := by
  intro hw m w h; cases h
  simp [decodeWord, part_7_8_16_at24_7]
  simp [decodeRow7, part_8_16_at16_8, part_16_at0_16]

theorem widF3 (d : BitVec 8) : Statement (.widF3 d) := by
  intro hw m w h; cases h
  simp [decodeWord, part_7_8_16_at24_7]
  simp [decodeRow7, part_8_16_at16_8, part_16_at0_16]

theorem widF4 (d : BitVec 8) : Statement (.widF4 d) := by
  intro hw m w h; cases h
  simp [decodeWord, part_7_8_16_at24_7]
  simp [decodeRow7, part_8_16_at16_8, part_16_at0_16]

theorem widF5 (d : BitVec 8) : Statement (.widF5 d) := by
  intro hw m w h; cases h
  simp [decodeWord, part_7_8_16_at24_7]
  simp [decodeRow7, part_8_16_at16_8, part_16_at0_16]

theorem widId (d : BitVec 8) : Statement (.widId d) := by
  intro hw m w h; cases h
  simp [decodeWord, part_7_8_16_at24_7]
  simp [decodeRow7, part_8_16_at16_8, part_16_at0_16]

theorem widKey (d : BitVec 8) : Statement (.widKey d) := by
  intro hw m w h; cases h
  simp [decodeWord, part_7_8_16_at24_7]
  simp [decodeRow7, part_8_16_at16_8, part_16_at0_16]

theorem widExt0 (d : BitVec 8) : Statement (.widExt0 d) := by
  intro hw m w h; cases h
  simp [decodeWord, part_7_8_16_at24_7]
  simp [decodeRow7, part_8_16_at16_8, part_16_at0_16]

theorem widExt1 (d : BitVec 8) : Statement (.widExt1 d) := by
  intro hw m w h; cases h
  simp [decodeWord, part_7_8_16_at24_7]
  simp [decodeRow7, part_8_16_at16_8, part_16_at0_16]

theorem widExt2 (d : BitVec 8) : Statement (.widExt2 d) := by
  intro hw m w h; cases h
  simp [decodeWord, part_7_8_16_at24_7]
  simp [decodeRow7, part_8_16_at16_8, part_16_at0_16]

theorem widExt3 (d : BitVec 8) : Statement (.widExt3 d) := by
  intro hw m w h; cases h
  simp [decodeWord, part_7_8_16_at24_7]
  simp [decodeRow7, part_8_16_at16_8, part_16_at0_16]

theorem widExt4 (d : BitVec 8) : Statement (.widExt4 d) := by
  intro hw m w h; cases h
  simp [decodeWord, part_7_8_16_at24_7]
  simp [decodeRow7, part_8_16_at16_8, part_16_at0_16]

theorem widExt5 (d : BitVec 8) : Statement (.widExt5 d) := by
  intro hw m w h; cases h
  simp [decodeWord, part_7_8_16_at24_7]
  simp [decodeRow7, part_8_16_at16_8, part_16_at0_16]

theorem sread (d : BitVec 6) (n : BitVec 12) : Statement (.sread d n) := by
  intro hw m w h; cases h
  simp [decodeWord, part_7_6_6_12_at24_7]
  simp [decodeRow7, part_6_6_12_at18_6, part_12_at0_12, part_6_12_at12_6]

theorem swrite (h : BitVec 6) (a : BitVec 6) (l : BitVec 6) : Statement (.swrite h a l) := by
  intro hw m w h; cases h
  simp [decodeWord, part_7_6_6_6_6_at24_7]
  simp [decodeRow7, part_6_6_6_6_at18_6, part_6_6_6_at12_6, part_6_6_at6_6, part_6_at0_6]

theorem trap (n : BitVec 12) : Statement (.trap n) := by
  intro hw m w h; cases h
  simp [decodeWord, part_13_12_6_at24_7]
  simp [decodeRow7, part_12_6_at6_12, part_6_at0_6, part_13_12_6_at18_6]

theorem bkpt (n : BitVec 12) : Statement (.bkpt n) := by
  intro hw m w h; cases h
  simp [decodeWord, part_13_12_6_at24_7]
  simp [decodeRow7, part_12_6_at6_12, part_6_at0_6, part_13_12_6_at18_6]

theorem limm (i : BitVec 20) : Statement (.limm i) := by
  intro hw m w h; cases h
  simp [decodeWord, part_11_20_at24_7]
  simp [decodeRow7, part_20_at0_20, part_11_20_at20_4]

theorem rnd (r : BitVec 3) : Statement (.rnd r) := by
  intro hw m w h; cases h
  simp [decodeWord, part_28_3_at24_7]
  simp [decodeRow7, part_3_at0_3, part_28_3_at20_4, part_28_3_at10_10, part_28_3_at7_3, part_28_3_at6_1, part_28_3_at3_3]

theorem guard (v : Bool) (p : BitVec 6) : Statement (.guard v p) := by
  intro hw m w h; cases h
  simp [decodeWord, part_24_1_6_at24_7]
  simp [decodeRow7, bit_1_6_at6, part_6_at0_6, part_24_1_6_at20_4, part_24_1_6_at10_10, part_24_1_6_at7_3]

theorem bpri (f : BitVec 10) (t : BitVec 10) : Statement (.bpri f t) := by
  intro hw m w h; cases h
  simp [decodeWord, part_11_10_10_at24_7]
  simp [decodeRow7, part_10_10_at10_10, part_10_at0_10, part_11_10_10_at20_4]

theorem mwaitAll : Statement (.mwaitAll) := by
  intro hw m w h; cases h
  simp [decodeWord, part_31_at24_7]
  simp [decodeRow5, part_31_at0_21, part_31_at21_3]

theorem abfl : Statement (.abfl) := by
  intro hw m w h; cases h
  simp [decodeWord, part_31_at24_7]
  simp [decodeRow6, part_31_at0_24]

theorem thrHalt : Statement (.thrHalt) := by
  intro hw m w h; cases h
  simp [decodeWord, part_31_at24_7]
  simp [decodeRow7, part_31_at19_5, part_31_at11_4, part_31_at10_1, part_31_at8_2, part_31_at6_2, part_31_at15_4, part_31_at5_1, part_31_at3_2, part_31_at0_3]

theorem nop : Statement (.nop) := by
  intro hw m w h; cases h
  simp [decodeWord, part_31_at24_7]
  simp [decodeRow7, part_31_at18_6, part_31_at12_6, part_31_at0_12]

theorem ret : Statement (.ret) := by
  intro hw m w h; cases h
  simp [decodeWord, part_31_at24_7]
  simp [decodeRow7, part_31_at18_6, part_31_at12_6, part_31_at0_12]

theorem exit : Statement (.exit) := by
  intro hw m w h; cases h
  simp [decodeWord, part_31_at24_7]
  simp [decodeRow7, part_31_at18_6, part_31_at12_6, part_31_at0_12]

theorem yield : Statement (.yield) := by
  intro hw m w h; cases h
  simp [decodeWord, part_31_at24_7]
  simp [decodeRow7, part_31_at18_6, part_31_at12_6, part_31_at0_12]

theorem lockx : Statement (.lockx) := by
  intro hw m w h; cases h
  simp [decodeWord, part_31_at24_7]
  simp [decodeRow7, part_31_at18_6, part_31_at12_6, part_31_at0_12]

theorem unlockx : Statement (.unlockx) := by
  intro hw m w h; cases h
  simp [decodeWord, part_31_at24_7]
  simp [decodeRow7, part_31_at18_6, part_31_at12_6, part_31_at0_12]

theorem tret : Statement (.tret) := by
  intro hw m w h; cases h
  simp [decodeWord, part_31_at24_7]
  simp [decodeRow7, part_31_at0_6, part_31_at18_6, part_31_at12_6, part_31_at6_6]

theorem hnop : Statement (.hnop) := by
  intro hw m w h; cases h
  simp [decodeWord, part_31_at24_7]
  simp [decodeRow7, part_31_at20_4]

theorem sat : Statement (.sat) := by
  intro hw m w h; cases h
  simp [decodeWord, part_31_at24_7]
  simp [decodeRow7, part_31_at20_4, part_31_at10_10, part_31_at7_3, part_31_at6_1, part_31_at3_3, part_31_at0_3]

theorem placement : Statement (.placement) := by
  intro hw m w h; cases h
  simp [decodeWord, part_31_at24_7]
  simp [decodeRow7, part_31_at20_4, part_31_at10_10, part_31_at7_3, part_31_at6_1, part_31_at3_3, part_31_at0_3]

theorem variableLatencyResult : Statement .variableLatencyResult := by intro _ m w h; cases h

theorem fenceCompletion : Statement .fenceCompletion := by intro _ m w h; cases h

theorem fenceRollback : Statement .fenceRollback := by intro _ m w h; cases h

theorem tileEnginePass : Statement .tileEnginePass := by intro _ m w h; cases h

theorem queueUnblock : Statement .queueUnblock := by intro _ m w h; cases h

theorem monitorWake : Statement .monitorWake := by intro _ m w h; cases h

theorem waitmTimeout : Statement .waitmTimeout := by intro _ m w h; cases h

theorem barrierRelease : Statement .barrierRelease := by intro _ m w h; cases h

theorem clusterDeparture : Statement .clusterDeparture := by intro _ m w h; cases h

theorem extendedSetLending : Statement .extendedSetLending := by intro _ m w h; cases h

theorem agedIssue : Statement .agedIssue := by intro _ m w h; cases h

theorem yieldExpiry : Statement .yieldExpiry := by intro _ m w h; cases h

theorem binTimerExpiry : Statement .binTimerExpiry := by intro _ m w h; cases h

theorem spawnedGroupStart : Statement .spawnedGroupStart := by intro _ m w h; cases h

theorem watchdogFault : Statement .watchdogFault := by intro _ m w h; cases h

theorem queueDeadlock : Statement .queueDeadlock := by intro _ m w h; cases h

theorem copyOrConvert : Statement .copyOrConvert := by intro _ m w h; cases h

theorem expand : Statement .expand := by intro _ m w h; cases h

theorem gather : Statement .gather := by intro _ m w h; cases h

theorem scatter : Statement .scatter := by intro _ m w h; cases h

theorem scatterAdd : Statement .scatterAdd := by intro _ m w h; cases h

theorem allReduce : Statement .allReduce := by intro _ m w h; cases h

theorem reduceScatter : Statement .reduceScatter := by intro _ m w h; cases h

theorem allGather : Statement .allGather := by intro _ m w h; cases h

theorem broadcast : Statement .broadcast := by intro _ m w h; cases h

theorem linkError : Statement .linkError := by intro _ m w h; cases h

theorem thresherInputTake : Statement .thresherInputTake := by intro _ m w h; cases h

theorem thresherStepLimit : Statement .thresherStepLimit := by intro _ m w h; cases h

theorem submit : Statement .submit := by intro _ m w h; cases h

theorem psubmit : Statement .psubmit := by intro _ m w h; cases h

theorem admission : Statement .admission := by intro _ m w h; cases h

theorem dispatchStep : Statement .dispatchStep := by intro _ m w h; cases h

theorem teamRetirement : Statement .teamRetirement := by intro _ m w h; cases h

theorem launchRetirement : Statement .launchRetirement := by intro _ m w h; cases h

theorem preemptChosen : Statement .preemptChosen := by intro _ m w h; cases h

theorem preemptSave : Statement .preemptSave := by intro _ m w h; cases h

theorem preemptDrain : Statement .preemptDrain := by intro _ m w h; cases h

theorem preemptFlush : Statement .preemptFlush := by intro _ m w h; cases h

theorem preresume : Statement .preresume := by intro _ m w h; cases h

theorem atsInvalidationRequest : Statement .atsInvalidationRequest := by intro _ m w h; cases h

theorem leaseRegrant : Statement .leaseRegrant := by intro _ m w h; cases h

theorem xlinv : Statement .xlinv := by intro _ m w h; cases h

theorem patch : Statement .patch := by intro _ m w h; cases h

theorem ctxstateActivate : Statement .ctxstateActivate := by intro _ m w h; cases h

theorem ctxstateFree : Statement .ctxstateFree := by intro _ m w h; cases h

theorem commWrite : Statement .commWrite := by intro _ m w h; cases h

theorem rangeRegisterWrite : Statement .rangeRegisterWrite := by intro _ m w h; cases h

theorem substatClear : Statement .substatClear := by intro _ m w h; cases h

theorem mgerrClear : Statement .mgerrClear := by intro _ m w h; cases h

theorem errcntClear : Statement .errcntClear := by intro _ m w h; cases h

theorem registerWrite : Statement .registerWrite := by intro _ m w h; cases h

theorem firmwareInstall : Statement .firmwareInstall := by intro _ m w h; cases h

theorem fuseRaise : Statement .fuseRaise := by intro _ m w h; cases h

theorem attestationReport : Statement .attestationReport := by intro _ m w h; cases h

theorem certificateChain : Statement .certificateChain := by intro _ m w h; cases h

theorem checkpoint : Statement .checkpoint := by intro _ m w h; cases h

theorem checkpointRestore : Statement .checkpointRestore := by intro _ m w h; cases h

theorem bar4Access : Statement .bar4Access := by intro _ m w h; cases h

theorem powerOn : Statement .powerOn := by intro _ m w h; cases h

theorem timingErrorReplay : Statement .timingErrorReplay := by intro _ m w h; cases h

theorem correctedError : Statement .correctedError := by intro _ m w h; cases h

theorem uncorrectableError : Statement .uncorrectableError := by intro _ m w h; cases h

theorem scrub : Statement .scrub := by intro _ m w h; cases h

theorem powerTokenBid : Statement .powerTokenBid := by intro _ m w h; cases h

theorem droop : Statement .droop := by intro _ m w h; cases h

theorem thermalThrottle : Statement .thermalThrottle := by intro _ m w h; cases h

theorem thermalShutdown : Statement .thermalShutdown := by intro _ m w h; cases h

theorem unassignedMajor : Statement .unassignedMajor := by intro _ m w h; cases h

theorem deviceReset : Statement .deviceReset := by intro _ m w h; cases h

end Sys2Proof.Laws.RoundTrip
end

