-- ==== Sys2Proof/Laws/Words.lean ====
section
/-! SUPPORT. What every word does whatever its meaning: exec of a word is one issue, one hint or one THR word, and these lemmas say what that
shared operation does behind a full fence window and where a hint is refused. -/

namespace Sys2Proof.Machine

theorem inThresher_ordinary {s : State} {core slot : Nat} (hi : s.issuer = some (core, slot)) (h : slot ≠ 63) : inThresher s = false := by
  simp [inThresher, hi, Config.thresherSlot, h]

/-- A window that has taken its 32 words or rolled back four times takes no further word (R216, R217). -/
theorem fenceStall_full (u : Use) {x : Issue} {w : FenceWin} (hf : x.e.g.fence = some w) (h : 32 ≤ w.issued ∨ 4 ≤ w.rollbacks) :
    fenceStall u x = true := by
  rcases h with h | h <;> simp [fenceStall, hf, h]

theorem issue_full (u : Use) (body : Issue → State → Res) {s : State} {x : Issue} {w : FenceWin} (hi : s.issuer = some (x.core, x.slot))
    (hx : issueOf s x.core x.slot = some x) (hf : x.e.g.fence = some w) (h : 32 ≤ w.issued ∨ 4 ≤ w.rollbacks) :
    issue u body s = .next (stallState s) := by
  unfold issue
  rw [hi]
  simp only [hx, issueStep]
  split
  · simp [raise, Group.fenced, hf]
  · simp [fenceStall_full u hf h]

theorem issueHint_full (cls : Nat) (f : Issue → Arch → Arch) {s : State} {x : Issue} {w : FenceWin}
    (hi : s.issuer = some (x.core, x.slot)) (hx : issueOf s x.core x.slot = some x) (hf : x.e.g.fence = some w)
    (h : 32 ≤ w.issued ∨ 4 ≤ w.rollbacks) : issueHint cls f s = .next (stallState s) := by
  unfold issueHint
  rw [hi]
  simp only [hx, fenceStall_full {} hf h, ite_true]

/-- A THR word is illegal in an ordinary slot (R37). -/
theorem issueThr_ordinary (hint limm bad : Bool) (f : Nat → State → ThrBlock → Threshed) {s : State} {core slot : Nat}
    (hi : s.issuer = some (core, slot)) (h : slot ≠ 63) :
    issueThr hint limm bad f s = issue { illegal := true } (fun _ _ => .stall) s := by
  unfold issueThr
  rw [hi]
  simp [Config.thresherSlot, h]

/-- A word that the decoder refuses at its first check raises an illegal instruction (R38). -/
theorem issue_illegal (u : Use) (body : Issue → State → Res) {s : State} {x : Issue} (hi : s.issuer = some (x.core, x.slot))
    (hx : issueOf s x.core x.slot = some x) (h : (u.illegal || u.hintIllegal x.run || u.illegalIn x) = true) :
    issue u body s = .next (raise x s s { cls := 1 }) := by
  unfold issue
  rw [hi]
  simp [hx, issueStep, decodeFault, h]

/-- Every word of an ordinary slot but a hint is one issue, whose hints are those of R45 for that word. -/
theorem word_issue (i : Instr) (hw : wordless i = false) (ht : thresherOnly i = false) (hh : hintWord i = false) :
    ∃ u body, (∀ s, exec i s = issue u body s) ∧ u.limm = takesLimm i ∧ u.rnd = takesRnd i ∧ u.sat = takesSat i ∧ u.bpri = takesBpri i := by
  cases i <;> first
    | exact ⟨_, _, fun _ => rfl, rfl, rfl, rfl, rfl⟩
    | exact absurd (show true = false from hw) Bool.noConfusion
    | exact absurd (show true = false from ht) Bool.noConfusion
    | exact absurd (show true = false from hh) Bool.noConfusion

/-- Every THR word is one thresher issue: what each of those gives, the word gives. -/
theorem word_issueThr (i : Instr) (ht : thresherOnly i = true) (s : State) (r : Host.Outcome State Fault Refusal)
    (h : ∀ hint limm bad f, issueThr hint limm bad f s = r) : exec i s = r := by
  cases i <;> first
    | exact absurd (show false = true from ht) Bool.noConfusion
    | (dsimp only [exec, execThrGet, execThrPeek, execThrSkip, execThrBfx, execThrLut, execThrTbw, execThrRefill, execThrMovi, execThrAdd,
        execThrSub, execThrAnd, execThrOr, execThrXor, execThrShl, execThrShr, execThrSar, execThrEmit, execThrCopy, execThrBr, execThrHalt,
        takeBits, thrAlu, issueThrPure]; exact h _ _ _ _)

/-- Every hint is one hint issue in an ordinary slot. -/
theorem word_hint (i : Instr) (hh : hintWord i = true) : ∃ cls f, ∀ s, inThresher s = false → exec i s = issueHint cls f s := by
  cases i <;> first
    | exact absurd (show false = true from hh) Bool.noConfusion
    | exact ⟨_, _, fun s h => if_neg (by simp [h])⟩
    | exact ⟨_, _, fun s h => show hintOr _ _ s = _ from if_neg (by simp [h])⟩

/-- A hint that a word does not take is illegal, whatever else the word names (R45). -/
theorem hintIllegal_of_refused (u : Use) (r : Run) (h : r.limm ≠ none ∧ u.limm = false ∨ r.rnd ≠ none ∧ u.rnd = false
    ∨ r.sat = true ∧ u.sat = false ∨ r.bpri ≠ none ∧ u.bpri = false) : u.hintIllegal r = true := by
  rcases h with ⟨h, k⟩ | ⟨h, k⟩ | ⟨h, k⟩ | ⟨h, k⟩
  · cases hl : r.limm <;> simp_all [Use.hintIllegal]
  · simp [Use.hintIllegal, k, Option.isSome_iff_ne_none.2 h]
  · simp [Use.hintIllegal, h, k]
  · simp [Use.hintIllegal, k, Option.isSome_iff_ne_none.2 h]

end Sys2Proof.Machine
end

