-- ==== Sys2Proof/Tests/Slice0.lean ====
section
/-! SUPPORT. Tests of the model: ill-formed terms, words written out from the spec's encodings, results that the spec works out, and
for every statement of Certificates/Slice0/Obligations.lean a state and operands that meet its hypotheses. -/

set_option Elab.async false

namespace Sys2Proof.Tests

open Sys2Proof Sys2Proof.Machine

/-! ### Ill-formed terms: one for each check of WellFormed.lean -/

/-- Every term is refused. -/
def illFormed (xs : List Instr) : Bool := xs.all (fun i => !i.wellFormed)

theorem test_illFormed_reductions : illFormed [.xred 1 2 false 3 0, .xred 1 2 false 0 10] = true := by decide

theorem test_illFormed_formats : illFormed [.lneg 1 2 3, .labs 1 2 3, .lrcp 1 2 3, .lsqr 1 2 3, .lsqrt 1 2 3, .lrsqrt 1 2 3, .lclass 1 2 3,
    .lcvtLn8 1 2 3, .lcvtLn16 1 2 3, .lcvtLn32 1 2 3, .lgetl 1 2 3, .lmkl 1 2 3, .lfix 1 2 3 true 4, .lflt 1 2 3 true 4,
    .fcvtToLn 1 2 3 0, .fcvtToLn 1 2 0 4, .fcvtToIeee 1 2 3 0, .fcvtToIeee 1 2 0 4] = true := by decide

theorem test_illFormed_wideFormats : illFormed [.lexp2 1 2 0, .lexp2 1 2 3, .llog2 1 2 0, .lexp 1 2 0, .lsint 1 2 0, .lcost 1 2 0,
    .lunpk0 1 2 0, .lunpk1 1 2 0, .lunpk2 1 2 0, .lunpk3 1 2 3] = true := by decide

theorem test_illFormed_tiles : illFormed [.lmma 0 8 0 0 0 false, .lmma 0 0 8 0 0 false, .lmma 0 0 1 4 0 false, .lmma 0 0 1 0 1 false,
    .lmms 0 1 33 0 0 0 false, .lmms 0 33 1 0 0 0 false, .lmms 0 33 34 1 0 0 false, .lmms 0 33 34 0 0 3 false, .imma 0 8 0 0 false,
    .tld 8 33 0, .tld 1 1 0, .tst 8 33 0, .tst 1 1 0, .tmov 8 0, .tmov 0 8] = true := by decide

theorem test_illFormed_memory : illFormed [.ldgUniformVector 1 2 63 2, .ldgUniform 1 63 2, .stgUniformVector 1 2 63 2, .stgUniform 1 63 2,
    .waitmUniformVector 1 2 63 2, .waitmUniform 1 63 2, .atom 1 2 10 1, .atom 1 2 11 0, .red 1 2 1 0, .red 1 2 10 3] = true := by decide

theorem test_illFormed_thresher : illFormed [.thrGet 1 0, .thrGet 1 33, .thrPeek 1 0, .thrAdd 1 2 0x410, .thrSub 1 2 0x7FF, .thrAnd 1 2 0x410,
    .thrOr 1 2 0x410, .thrXor 1 2 0x410, .thrShl 1 2 0x410, .thrShr 1 2 0x410, .thrSar 1 2 0x410, .thrEmit 1 0, .thrEmit 1 5,
    .thrBr 7 0 0, .thrBr 0 1 0, .thrBr 5 1 0, .thrBr 6 1 0] = true := by decide

theorem test_illFormed_system : illFormed [.bar 6 0, .barl 1 0 6 0, .sread 1 0x00A, .sread 1 0x13D, .sread 1 0x188, .swrite 0 1 10,
    .rnd 5, .guard true 63] = true := by decide

/-! ### Words: the worked encodings of the spec, then one word for every row with an encoding -/

/-- Every word decodes to its instruction. -/
def decodes (xs : List (Nat × Instr)) : Bool := xs.all (fun x => decodeTableWord 32 x.1 == some x.2)

/-- Formats bit by bit (R30, R33 to R36): M, major, and the fields of the V, I, C, U, M and B formats. -/
theorem test_decode_formats : decodes [
    (0b0_0000001_00000011_00000001_00000010, .iadd 3 1 2),
    (0b1_0000001_00000011_00000001_00000010, .iadd 3 1 2),
    (0b0_0011101_00010100_1000011010100000, .movi 20 0x86A0),
    (0b0_0011111_10_000011_00000010_00000001, .icmpS32 2 3 2 1),
    (0b0_0100001_000101_000001_000010_001000, .plog 5 1 2 8),
    (0b0_1100000_00001000_0_0000110_000100_10, .ldgUniformVector 8 6 4 2),
    (0b0_1110011_111111111111111111110100, .bra 0xFFFFF4),
    (0b0_1111111_0001_00000000000100000000, .limm 0x100)] = true := by decide +kernel

/-- R64, R65: words of the first two generations. -/
theorem test_decode_generations : (decodeGen .n1 0x31030102).toOption = some (.lsubLn16 3 1 2)
    ∧ (decodeGen .n3 0x31030102).toOption = some (.laddLn16 3 1 2) ∧ (decodeGen .n2 0x7F500001).toOption = some .hnop := by
  decide +kernel

/-- The tables of worked encodings in spec/02, 05 and 06. -/
theorem test_decode_worked_arithmetic : decodes [
    (0x7F300000, .sat), (0x7F100100, .limm 0x100), (0x7F200001, .rnd 1), (0x7F400045, .guard true 5), (0x7F40003F, .guard false 63),
    (0x7F000000, .hnop), (0x160202FF, .iaddi 2 2 255), (0x73FFFFF4, .bra 0xFFFFF4), (0x1D070000, .movi 7 0), (0x06040506, .imad 4 5 6),
    (0x1A020204, .shri 2 2 4), (0x17090900, .andi 9 9 0), (0x1F830201, .icmpS32 2 3 2 1), (0x21141088, .plog 5 1 2 8),
    (0x23182005, .voteCount 6 2), (0x240405C1, .shflXor 4 5 1), (0x270A0B58, .xred 10 11 true 1 8), (0x28083100, .uadd 2 3 4),
    (0x31030102, .laddLn16 3 1 2), (0x32030102, .laddLn32 3 1 2), (0x3A040506, .lmadLn16 4 5 6), (0x47070811, .lsqrt 7 8 1),
    (0x47020336, .lcvtLn16 2 3 2), (0x4709014D, .lunpk2 9 1 1), (0x47020342, .lmkl 2 3 2), (0x46820405, .lcmpLn32 2 2 4 5),
    (0x48050660, .lfix 5 6 1 true 0), (0x490506A8, .lflt 5 6 2 true 8), (0x4A010228, .fcvtToLn 1 2 1 2), (0x4A0406CC, .fcvtToIeee 4 6 2 3),
    (0x4B010405, .lpack 1 4 5), (0x4C030004, .flagGor 3)] = true := by decide +kernel

/-- The tables of worked encodings in spec/07, 08, 10 and 11. -/
theorem test_decode_worked_memory : decodes [
    (0x50000200, .lmma 0 0 1 0 0 false), (0x50514687, .lmma 2 0x22 0x23 2 3 true), (0x50200240, .lmma 1 0 1 1 0 false),
    (0x51124A0A, .lmms 0 0x24 0x25 0 1 1 false), (0x52614D10, .imma 3 2 0x26 2 false), (0x53600108, .aclrS32 3 8), (0x530000C0, .aclrLn32 0),
    (0xD4011200, .ard 0 2 9), (0x55218000, .awr 1 3), (0x56428000, .amov 2 5), (0xD700C400, .tld 1 0x22 0), (0x5800C403, .tst 1 0x22 3),
    (0x59018200, .tmov 3 1), (0x5A010E00, .twset 2 7), (0x5B010A00, .twget 2 5), (0x5C400000, .mwait 2), (0x5C000001, .mwaitAll),
    (0x5D008002, .gset 8 2), (0xE0080612, .ldgUniformVector 8 6 4 2), (0x600106FE, .ldgVector 1 6 2), (0x62030609, .ldhVector 3 6 2 1),
    (0x61088013, .stgUniform 8 4 3), (0x640A0420, .atom 10 4 2 0), (0x64020410, .atom 2 4 1 0), (0x650204A8, .red 2 4 10 2), (0x66000000, .abfl),
    (0x67000005, .fenceX 5), (0x680C4001, .talloc 3 4 true), (0x69003000, .tfree 3), (0x6A001400, .pref 0 20 0), (0x6B288018, .vspl 40 6 false),
    (0x6D206000, .qpush 8 6), (0x6E288000, .qpop 10 8), (0x6F288300, .qtry 10 8 12), (0x71204000, .qbindInit 8 4),
    (0x72050612, .waitmUniformVector 5 6 4 2), (0x70008008, .thrGet 1 8), (0x70908808, .thrBr 1 1 8), (0x70010008, .thrGet 2 8),
    (0x70801001, .thrEmit 2 1), (0x70488801, .thrSub 1 1 1)] = true := by decide +kernel

theorem test_decode_unassigned : decodes [(0x00000000, .unassignedMajor), (0x7E000000, .unassignedMajor)] = true := by decide +kernel

/-- R31: a reserved bit of an assigned major. -/
theorem test_decode_reserved : decodeTableWord 32 0x66000001 = none := by decide +kernel

theorem test_decode_majors_00 : decodes [
    (0x01CEC9F2, .iadd 0xce 0xc9 0xf2),
    (0x02CEC9F2, .isub 0xce 0xc9 0xf2),
    (0x03CEC9F2, .imul 0xce 0xc9 0xf2),
    (0x04CEC9F2, .imulhS32 0xce 0xc9 0xf2),
    (0x05CEC9F2, .imulhN32 0xce 0xc9 0xf2),
    (0x06CEC9F2, .imad 0xce 0xc9 0xf2),
    (0x07CEC9F2, .iminS32 0xce 0xc9 0xf2),
    (0x08CEC9F2, .imaxS32 0xce 0xc9 0xf2),
    (0x09CEC9F2, .iminN32 0xce 0xc9 0xf2),
    (0x0ACEC9F2, .imaxN32 0xce 0xc9 0xf2),
    (0x0BCEC9F2, .and 0xce 0xc9 0xf2),
    (0x0CCEC9F2, .or 0xce 0xc9 0xf2),
    (0x0DCEC9F2, .xor 0xce 0xc9 0xf2),
    (0x0ECEC9F2, .shl 0xce 0xc9 0xf2),
    (0x0FCEC9F2, .shr 0xce 0xc9 0xf2)] = true := by decide +kernel

theorem test_decode_majors_10a : decodes [
    (0x10CEC9F2, .sar 0xce 0xc9 0xf2),
    (0x11CEC9F2, .iadd64 0xce 0xc9 0xf2),
    (0x12CEC9F2, .isub64 0xce 0xc9 0xf2),
    (0x13CEC9F2, .bfeS32 0xce 0xc9 0xf2),
    (0x14CEC9F2, .bfeN32 0xce 0xc9 0xf2),
    (0x15CEC9F2, .bfi 0xce 0xc9 0xf2),
    (0x16CEC9F2, .iaddi 0xce 0xc9 0xf2),
    (0x17CEC9F2, .andi 0xce 0xc9 0xf2),
    (0x18CEC9F2, .ori 0xce 0xc9 0xf2),
    (0x19CEC9F2, .shli 0xce 0xc9 0xf2),
    (0x1ACEC9F2, .shri 0xce 0xc9 0xf2),
    (0x1BCEC9F2, .sari 0xce 0xc9 0xf2),
    (0x1CCEC900, .mov 0xce 0xc9),
    (0x1CCEC901, .not 0xce 0xc9),
    (0x1CCEC902, .ineg 0xce 0xc9),
    (0x1CCEC903, .iabs 0xce 0xc9),
    (0x1CCEC904, .popc 0xce 0xc9),
    (0x1CCEC905, .clz 0xce 0xc9),
    (0x1CCEC906, .brev 0xce 0xc9),
    (0x1CCEC907, .sextS8 0xce 0xc9),
    (0x1CCEC908, .sextS16 0xce 0xc9),
    (0x1CCEC909, .zextN8 0xce 0xc9),
    (0x1CCEC90A, .zextN16 0xce 0xc9),
    (0x1CCEC90B, .mov64 0xce 0xc9)] = true := by decide +kernel

theorem test_decode_majors_10b : decodes [
    (0x1DCE46C9, .movi 0xce 0x46c9),
    (0x1ECE46C9, .movhi 0xce 0x46c9),
    (0x1F89F240, .icmpS32 2 9 0xf2 0x40)] = true := by decide +kernel

theorem test_decode_majors_20a : decodes [
    (0x2089F240, .icmpN32 2 9 0xf2 0x40),
    (0x21389C8F, .plog 0xe 9 0x32 0xf),
    (0x22CE0900, .pmvVp 0xce 9),
    (0x220EC901, .pmvPv 0xe 0xc9),
    (0x220E0902, .pmvSp 0xe 9),
    (0x220E0903, .pmvPs 0xe 9),
    (0x23389000, .voteBallot 0xe 9),
    (0x23389001, .voteAny 0xe 9),
    (0x23389002, .voteAll 0xe 9),
    (0x23389003, .voteUni 0xe 9),
    (0x23380004, .voteActive 0xe),
    (0x23389005, .voteCount 0xe 9),
    (0x24CEC932, .shflIdx 0xce 0xc9 0x32),
    (0x24CEC972, .shflUp 0xce 0xc9 0x32),
    (0x24CEC9B2, .shflDown 0xce 0xc9 0x32),
    (0x24CEC9F2, .shflXor 0xce 0xc9 0x32),
    (0x25CEC9F2, .shflv 0xce 0xc9 0xf2),
    (0x26CEC900, .matchB32 0xce 0xc9),
    (0x26CEC901, .matchB64 0xce 0xc9),
    (0x27CEC974, .xred 0xce 0xc9 true 3 4),
    (0x28389C80, .uadd 0xe 9 0x32),
    (0x28389C81, .usub 0xe 9 0x32),
    (0x28389C82, .umul 0xe 9 0x32),
    (0x28389C83, .umulhS32 0xe 9 0x32)] = true := by decide +kernel

theorem test_decode_majors_20b : decodes [
    (0x28389C84, .umulhN32 0xe 9 0x32),
    (0x28389C85, .uand 0xe 9 0x32),
    (0x28389C86, .uor 0xe 9 0x32),
    (0x28389C87, .uxor 0xe 9 0x32),
    (0x28389C88, .ushl 0xe 9 0x32),
    (0x28389C89, .ushr 0xe 9 0x32),
    (0x28389C8A, .usar 0xe 9 0x32),
    (0x28389C8B, .uminS32 0xe 9 0x32),
    (0x28389C8C, .umaxS32 0xe 9 0x32),
    (0x28389C8D, .uminN32 0xe 9 0x32),
    (0x28389C8E, .umaxN32 0xe 9 0x32),
    (0x2838900F, .umov 0xe 9),
    (0x28389010, .unot 0xe 9),
    (0x28389C91, .usetEq 0xe 9 0x32),
    (0x28389C92, .usetNe 0xe 9 0x32),
    (0x28389C93, .usetLtS32 0xe 9 0x32),
    (0x28389C94, .usetLeS32 0xe 9 0x32),
    (0x28389C95, .usetLtN32 0xe 9 0x32),
    (0x28389C96, .usetLeN32 0xe 9 0x32),
    (0x28389C97, .uadd64 0xe 9 0x32),
    (0x28389C98, .usub64 0xe 9 0x32),
    (0x28389019, .upopc 0xe 9),
    (0x2838901A, .uclz 0xe 9),
    (0x290E46C9, .umovi 0xe 0x46c9)] = true := by decide +kernel

theorem test_decode_majors_20c : decodes [
    (0x2A0E46C9, .uaddi 0xe 0x46c9),
    (0x2B0E46C9, .umovhi 0xe 0x46c9),
    (0x2CCE0900, .uvmovVs 0xce 9),
    (0x2C0EC972, .uvmovSv 0xe 0xc9 0x32),
    (0x2C0EC980, .uvmovFirst 0xe 0xc9)] = true := by decide +kernel

theorem test_decode_majors_30 : decodes [
    (0x30CEC9F2, .laddLn8 0xce 0xc9 0xf2),
    (0x31CEC9F2, .laddLn16 0xce 0xc9 0xf2),
    (0x32CEC9F2, .laddLn32 0xce 0xc9 0xf2),
    (0x33CEC9F2, .lsubLn8 0xce 0xc9 0xf2),
    (0x34CEC9F2, .lsubLn16 0xce 0xc9 0xf2),
    (0x35CEC9F2, .lsubLn32 0xce 0xc9 0xf2),
    (0x36CEC9F2, .lmulLn8 0xce 0xc9 0xf2),
    (0x37CEC9F2, .lmulLn16 0xce 0xc9 0xf2),
    (0x38CEC9F2, .lmulLn32 0xce 0xc9 0xf2),
    (0x39CEC9F2, .lmadLn8 0xce 0xc9 0xf2),
    (0x3ACEC9F2, .lmadLn16 0xce 0xc9 0xf2),
    (0x3BCEC9F2, .lmadLn32 0xce 0xc9 0xf2),
    (0x3CCEC9F2, .ldivLn16 0xce 0xc9 0xf2),
    (0x3DCEC9F2, .ldivLn32 0xce 0xc9 0xf2),
    (0x3ECEC9F2, .lminLn16 0xce 0xc9 0xf2),
    (0x3FCEC9F2, .lminLn32 0xce 0xc9 0xf2)] = true := by decide +kernel

theorem test_decode_majors_40a : decodes [
    (0x40CEC9F2, .lmaxLn16 0xce 0xc9 0xf2),
    (0x41CEC9F2, .lmaxLn32 0xce 0xc9 0xf2),
    (0x42CEC9F2, .lpowLn32 0xce 0xc9 0xf2),
    (0x43CEC9F2, .lscaleLn16 0xce 0xc9 0xf2),
    (0x44CEC9F2, .lscaleLn32 0xce 0xc9 0xf2),
    (0x4589F240, .lcmpLn16 2 9 0xf2 0x40),
    (0x4689F240, .lcmpLn32 2 9 0xf2 0x40),
    (0x47CEC902, .lneg 0xce 0xc9 2),
    (0x47CEC906, .labs 0xce 0xc9 2),
    (0x47CEC90A, .lrcp 0xce 0xc9 2),
    (0x47CEC90E, .lsqr 0xce 0xc9 2),
    (0x47CEC912, .lsqrt 0xce 0xc9 2),
    (0x47CEC916, .lrsqrt 0xce 0xc9 2),
    (0x47CEC91A, .lexp2 0xce 0xc9 2),
    (0x47CEC91E, .llog2 0xce 0xc9 2),
    (0x47CEC922, .lexp 0xce 0xc9 2),
    (0x47CEC926, .lsint 0xce 0xc9 2),
    (0x47CEC92A, .lcost 0xce 0xc9 2),
    (0x47CEC92E, .lclass 0xce 0xc9 2),
    (0x47CEC932, .lcvtLn8 0xce 0xc9 2),
    (0x47CEC936, .lcvtLn16 0xce 0xc9 2),
    (0x47CEC93A, .lcvtLn32 0xce 0xc9 2),
    (0x47CEC93E, .lgetl 0xce 0xc9 2),
    (0x47CEC942, .lmkl 0xce 0xc9 2)] = true := by decide +kernel

theorem test_decode_majors_40b : decodes [
    (0x47CEC946, .lunpk0 0xce 0xc9 2),
    (0x47CEC94A, .lunpk1 0xce 0xc9 2),
    (0x47CEC94E, .lunpk2 0xce 0xc9 2),
    (0x47CEC952, .lunpk3 0xce 0xc9 2),
    (0x48CEC9B4, .lfix 0xce 0xc9 2 true 0x14),
    (0x49CEC9B4, .lflt 0xce 0xc9 2 true 0x14),
    (0x4ACEC95C, .fcvtToLn 0xce 0xc9 2 7),
    (0x4ACEC9DC, .fcvtToIeee 0xce 0xc9 2 7),
    (0x4BCEC9F2, .lpack 0xce 0xc9 0xf2),
    (0x4CCE0000, .flagGet 0xce),
    (0x4C00CE01, .flagSet 0xce),
    (0x4C00CE02, .flagClr 0xce),
    (0x4C00CE03, .flagPut 0xce),
    (0x4C0E0004, .flagGor 0xe),
    (0x4C0EC905, .flagTst 0xe 0xc9)] = true := by decide +kernel

theorem test_decode_majors_50 : decodes [
    (0x50C4E5E9, .lmma 6 9 0x32 7 0x14 true),
    (0x51C4E5E7, .lmms 6 9 0x32 7 4 3 true),
    (0x52C4E539, .imma 6 9 0x32 7 true),
    (0x53C000C0, .aclrLn32 6),
    (0x53C00080, .aclrLn16 6),
    (0x53C00109, .aclrS32 6 9),
    (0x54C4E400, .ard 6 9 0x32),
    (0x55C48000, .awr 6 9),
    (0x56C08000, .amov 6 1),
    (0x57071232, .tld 0xe 9 0x32),
    (0x58071232, .tst 0xe 9 0x32),
    (0x59071200, .tmov 0xe 9),
    (0x5A031200, .twset 6 9),
    (0x5B031200, .twget 6 9),
    (0x5CC00000, .mwait 6),
    (0x5D00E001, .gset 0xe 1),
    (0x5E380001, .gcfg 0xe 1),
    (0x5C000001, .mwaitAll)] = true := by decide +kernel

theorem test_decode_majors_60 : decodes [
    (0x60CE49CB, .ldgUniformVector 0xce 0x49 0x32 3),
    (0x60CE8026, .ldgUniform 0xce 9 2),
    (0x60CE49FE, .ldgVector 0xce 0x49 2),
    (0x61CE49CB, .stgUniformVector 0xce 0x49 0x32 3),
    (0x61CE8026, .stgUniform 0xce 9 2),
    (0x61CE49FE, .stgVector 0xce 0x49 2),
    (0x62CE49CB, .ldhVector 0xce 0x49 0x32 3),
    (0x62CE8026, .ldhOffset 0xce 9 2),
    (0x63CE49CB, .sthVector 0xce 0x49 0x32 3),
    (0x63CE8026, .sthOffset 0xce 9 2),
    (0x64CEC92C, .atom 0xce 0xc9 2 3),
    (0x65CEC92C, .red 0xce 0xc9 2 3),
    (0x6700000E, .fenceX 0xe),
    (0x68389001, .talloc 0xe 9 true),
    (0x6900E000, .tfree 0xe),
    (0x6ACEC9F2, .pref 0xce 0xc9 0xf2),
    (0x6BCE8025, .vspl 0xce 9 true),
    (0x6CCE8025, .vfil 0xce 9 true),
    (0x6D389000, .qpush 0xe 9),
    (0x6E389000, .qpop 0xe 9),
    (0x6F389C80, .qtry 0xe 9 0x32),
    (0x66000000, .abfl)] = true := by decide +kernel

theorem test_decode_majors_70a : decodes [
    (0x70070009, .thrGet 0xe 9),
    (0x700F0009, .thrPeek 0xe 9),
    (0x701076C9, .thrSkip 0xe 0x6c9),
    (0x701F4FF4, .thrBfx 0xe 9 true 0x1f 0x14),
    (0x702748F2, .thrLut 0xe 9 0xf2),
    (0x702F48F2, .thrTbw 0xe 9 0xf2),
    (0x703070C9, .thrRefill 0xe 0xc9),
    (0x703F06C9, .thrMovi 0xe 0x6c9),
    (0x704748F2, .thrAdd 0xe 9 0xf2),
    (0x704F48F2, .thrSub 0xe 9 0xf2),
    (0x705748F2, .thrAnd 0xe 9 0xf2),
    (0x705F48F2, .thrOr 0xe 9 0xf2),
    (0x706748F2, .thrXor 0xe 9 0xf2),
    (0x706F48F2, .thrShl 0xe 9 0xf2),
    (0x707748F2, .thrShr 0xe 9 0xf2),
    (0x707F48F2, .thrSar 0xe 9 0xf2),
    (0x70807001, .thrEmit 0xe 1),
    (0x708F4800, .thrCopy 0xe 9),
    (0x709748F2, .thrBr 0xe 9 0xf2),
    (0x71389000, .qbindInit 0xe 9),
    (0x71389001, .qbindAttach 0xe 9),
    (0x71380002, .qbindUnbind 0xe),
    (0x72CE49CB, .waitmUniformVector 0xce 0x49 0x32 3),
    (0x72CE8026, .waitmUniform 0xce 9 2)] = true := by decide +kernel

theorem test_decode_majors_70b : decodes [
    (0x72CE49FE, .waitmVector 0xce 0x49 2),
    (0x735A35CE, .bra 0x5a35ce),
    (0x743A68F2, .brp 0xe true 0x68f2),
    (0x755A35CE, .call 0x5a35ce),
    (0x7600E001, .jmp 0xe),
    (0x7600E002, .calli 0xe),
    (0x7700E240, .spawn 0xe 9),
    (0x780000C9, .bar 6 9),
    (0x790E015F, .barl 0xe 1 2 0x1f),
    (0x7A389000, .tsub 0xe 9),
    (0x7BCE0000, .widF0 0xce),
    (0x7BCE0001, .widF1 0xce),
    (0x7BCE0002, .widF2 0xce),
    (0x7BCE0003, .widF3 0xce),
    (0x7BCE0004, .widF4 0xce),
    (0x7BCE0005, .widF5 0xce),
    (0x7BCE0006, .widId 0xce),
    (0x7BCE0007, .widKey 0xce),
    (0x7BCE0008, .widExt0 0xce),
    (0x7BCE0009, .widExt1 0xce),
    (0x7BCE000A, .widExt2 0xce),
    (0x7BCE000B, .widExt3 0xce),
    (0x7BCE000C, .widExt4 0xce),
    (0x7BCE000D, .widExt5 0xce)] = true := by decide +kernel

theorem test_decode_majors_70c : decodes [
    (0x7C3806C9, .sread 0xe 0x6c9),
    (0x7D389C80, .swrite 0xe 9 0x32),
    (0x7D017381, .trap 0x5ce),
    (0x7D017382, .bkpt 0x5ce),
    (0x7F1A35CE, .limm 0xa35ce),
    (0x7F200006, .rnd 6),
    (0x7F400049, .guard true 9),
    (0x7F573AC9, .bpri 0x1ce 0x2c9),
    (0x70980000, .thrHalt),
    (0x76000000, .nop),
    (0x76000003, .ret),
    (0x76000004, .exit),
    (0x76000005, .yield),
    (0x76000006, .lockx),
    (0x76000007, .unlockx),
    (0x7D000003, .tret),
    (0x7F000000, .hnop),
    (0x7F300000, .sat),
    (0x7F600000, .placement)] = true := by decide +kernel


/-! ### Machines to test with -/

/-- Registers from numbers. -/
def words (xs : List (Nat × Nat)) : SMap Word := xs.foldl (fun m p => smSet (0 : Word) p.1 (BitVec.ofNat 32 p.2) m) []

/-- The lanes of a vector register from lane 0 on. -/
def lanesOf (n : Nat) (xs : List Nat) : List (Nat × Nat) := (xs.zip (List.range xs.length)).map (fun p => (64 * n + p.2, p.1))

/-- Lanes 0 and 1 at the word, lane 3 further on; v4 and s16 hold addresses in the launch's leases, v2 handle offsets. -/
def testArch : Arch :=
  { v := words (lanesOf 1 [5, 0xFFFFFFFF, 3, 9] ++ lanesOf 2 [0, 4, 8, 40] ++ lanesOf 4 [0x40001000, 0x40001008] ++ lanesOf 7 [8, 4]
      ++ lanesOf 8 [0x1FFF, 0x200] ++ lanesOf 9 [0x1FFF, 0x100])
    s := words [(4, 0x40001000), (6, 77), (16, 0x40001000), (20, 4)]
    p := [(1, 0b1001), (2, 0b0011)]
    frontier := [{ prio := 0x8000, pc := 0, mask := 0b0011, guard := 63 }, { prio := 0x9000, pc := 16, mask := 0b1000, guard := 3 }] }

def testGroup (a : Arch) : Group := { placedGroup with live := 0b1011, arch := a }

/-- A launch with a trap handler at 0x20 and a lease over eight pages. -/
def testLaunch : Launch :=
  { placedLaunch with kh := { placedKernel with trap := 0x20 }, lh := { placedHeader with leases := [(0x40001000, 8)] } }

def testEntry : Entry := { prio := 0x8000, pc := 0, mask := 0b0011, guard := 63 }

/-- A machine whose issuing slot holds the group g of the launch l. -/
def machine (g : Group) (l : Launch) : State :=
  { placeWords State.reset 32 0 with groups := [g], launches := [l], issuer := some (0, 0), fetched := 0x01030102 }

/-- The machine with registers a. -/
def machineOf (a : Arch) : State := machine (testGroup a) testLaunch

def testState : State := machineOf testArch

/-- The issue of the machine. -/
def issueAt (s : State) : Issue :=
  (issueOf s 0 0).getD ⟨0, 0, ⟨testGroup testArch, placedTeam, testLaunch⟩, testEntry, 0, 0, 0⟩

/-- The group of the machine with its team and launch. -/
def envAt (s : State) : Env := (s.env? 0 0).getD ⟨testGroup testArch, placedTeam, testLaunch⟩

/-- A Loft tile of 64 granules: 64 rows of 32 words. -/
def testTile (bs : SMap Byte) : Tile := { index := 0, granules := 64, shape := 0x40020, ctx := 0, bytes := bs }

/-- The machine with a tile that handle 0 names. -/
def tileMachine (a : Arch) : State := { machineOf a with teams := [{ placedTeam with loft := [testTile []] }] }

/-! ### The hypotheses of the statements as checks that the kernel evaluates -/

def issuesCheck (s : State) : Bool :=
  s.issuer == some (0, 0) && (issueOf s 0 0).isSome && (issueAt s).core == 0 && (issueAt s).slot == 0 && (issueAt s).e.g.fence.isNone
  && (issueAt s).e.g.soft.isEmpty && (issueAt s).e.g.bad.isEmpty && (issueAt s).e.g.heldFlags.isEmpty

theorem issues_of {s : State} (h : issuesCheck s = true) : Issues s (issueAt s) := by
  simp only [issuesCheck, Bool.and_eq_true, beq_iff_eq, Option.isNone_iff_eq_none, List.isEmpty_iff] at h
  obtain ⟨⟨⟨⟨⟨⟨⟨h1, h2⟩, h3⟩, h4⟩, h5⟩, h6⟩, h7⟩, h8⟩ := h
  refine ⟨by rw [h3, h4]; exact h1, ?_, h5, h6, h7, fun _ => h8⟩
  rw [h3, h4]
  obtain ⟨x, hx⟩ := Option.isSome_iff_exists.mp h2
  simp [issueAt, hx]

def hintedCheck (x : Issue) (limm : Option (BitVec 20)) (rnd sat bpri : Bool) : Bool :=
  (match x.run.limm with
    | none => true
    | some p => (match limm with
      | none => false
      | some k => p &&& ~~~k == 0))
  && (x.run.rnd.isNone || rnd) && (!x.run.sat || sat) && (x.run.bpri.isNone || bpri)

theorem hinted_of {x : Issue} {limm : Option (BitVec 20)} {rnd sat bpri : Bool} (h : hintedCheck x limm rnd sat bpri = true) :
    Hinted x limm rnd sat bpri := by
  simp only [hintedCheck, Bool.and_eq_true, Bool.or_eq_true, Option.isNone_iff_eq_none, Bool.not_eq_true'] at h
  obtain ⟨⟨⟨h1, h2⟩, h3⟩, h4⟩ := h
  refine ⟨fun p hp => ?_, fun hr => by simpa [hr] using h2, fun hs => by simpa [hs] using h3, fun hb => by simpa [hb] using h4⟩
  rw [hp] at h1
  cases limm with
  | none => simp at h1
  | some k => exact ⟨k, rfl, by simpa using h1⟩

def usableCheck (x : Issue) (rs : List RegRef) : Bool :=
  rs.all (fun r => !x.e.regBad r && !x.arch.pending.contains r && x.e.g.tokens.all (fun t => !(r == .s t.reg)))

theorem usable_of {x : Issue} {rs : List RegRef} (h : usableCheck x rs = true) : Usable x rs := by
  simp only [usableCheck, List.all_eq_true, Bool.and_eq_true, Bool.not_eq_true', beq_eq_false_iff_ne, List.contains_eq_mem,
    decide_eq_false_iff_not] at h
  exact fun r hr => ⟨(h r hr).1.1, (h r hr).1.2, fun t ht => (h r hr).2 t ht⟩

/-- Where each active lane goes. -/
def placeOf (s : State) (k : AccessKind) (op : Nat) (waits : Bool) (n : Nat) (addr : Nat → LaneAddr) (i : Nat) : Place :=
  match checkLane s (issueAt s) k op waits n (addr i) with
  | .ok p => p
  | .error _ => .mem .gddr 0 0

def reachesCheck (s : State) (k : AccessKind) (op : Nat) (waits : Bool) (n : Nat) (addr : Nat → LaneAddr) : Bool :=
  (List.range 64).all (fun i => !(issueAt s).active.getLsbD i || (checkLane s (issueAt s) k op waits n (addr i)).toOption.isSome)

theorem reaches_of {s : State} {k : AccessKind} {op : Nat} {waits : Bool} {n : Nat} {addr : Nat → LaneAddr}
    (h : reachesCheck s k op waits n addr = true) : Reaches s (issueAt s) k op waits n addr (placeOf s k op waits n addr) := by
  intro i hi ha
  simp only [reachesCheck, List.all_eq_true, List.mem_range, Bool.or_eq_true, Bool.not_eq_true'] at h
  have h1 := h i hi
  rw [ha] at h1
  cases hc : checkLane s (issueAt s) k op waits n (addr i) with
  | ok p => simp [placeOf, hc]
  | error e => rw [hc] at h1; simp [Except.toOption] at h1

def trapCheck (x : Issue) (e : Entry) : Bool :=
  x.e.l.lh.mode == 0 && x.e.g.outstanding.isEmpty && x.arch.frontier.find? (fun y => y.mask &&& x.entry.mask != 0) == some e
  && x.e.g.handler.isNone && x.e.l.kh.trap != 0xFFFFFFFF

theorem mayTrap_of {x : Issue} {e : Entry} (h : trapCheck x e = true) : MayTrap x e := by
  simp only [trapCheck, Bool.and_eq_true, beq_iff_eq, Option.isNone_iff_eq_none, List.isEmpty_iff, bne_iff_ne] at h
  exact ⟨h.1.1.1.1, h.1.1.1.2, h.1.1.2, h.1.2, h.2⟩

/-! ### Hypotheses met: instructions that change registers -/

/-- The machine inside a run with hints. -/
def hintState (r : Run) : State := machineOf { testArch with run := r }

theorem test_hypotheses_IntegerVectorResults : Issues testState (issueAt testState) ∧ Usable (issueAt testState) [vN 0, vN 127, vN 2]
    ∧ Hinted (issueAt testState) none false true false ∧ Hinted (issueAt testState) none false false false :=
  ⟨issues_of (by decide +kernel), usable_of (by decide +kernel), hinted_of (by decide +kernel), hinted_of (by decide +kernel)⟩

/-- The same under a SAT hint. -/
theorem test_hypotheses_saturation : Issues (hintState { count := 1, sat := true }) (issueAt (hintState { count := 1, sat := true }))
    ∧ Hinted (issueAt (hintState { count := 1, sat := true })) none false true false ∧ (issueAt (hintState { count := 1, sat := true })).run.sat = true :=
  ⟨issues_of (by decide +kernel), hinted_of (by decide +kernel), by decide +kernel⟩

theorem test_hypotheses_IntegerPairAndFieldResults : Issues testState (issueAt testState)
    ∧ (Usable (issueAt testState) (vPair 126 ++ vPair 0 ++ vPair 2) ∧ (126 : BitVec 8).getLsbD 0 = false ∧ (0 : BitVec 8).getLsbD 0 = false
      ∧ (2 : BitVec 8).getLsbD 0 = false ∧ Hinted (issueAt testState) none false true false)
    ∧ (Usable (issueAt testState) [vN 127, vN 1, vN 2] ∧ Hinted (issueAt testState) none false false false ∧ 258 ∉ (issueAt testState).e.l.kh.errata) :=
  ⟨issues_of (by decide +kernel), ⟨usable_of (by decide +kernel), by decide, by decide, by decide, hinted_of (by decide +kernel)⟩,
    usable_of (by decide +kernel), hinted_of (by decide +kernel), by decide +kernel⟩

theorem test_hypotheses_ImmediateUnaryMoveResults :
    (Issues testState (issueAt testState) ∧ Usable (issueAt testState) [vN 127, vN 0] ∧ Hinted (issueAt testState) none false false false
      ∧ Usable (issueAt testState) (vPair 126 ++ vPair 0) ∧ (126 : BitVec 8).getLsbD 0 = false ∧ (0 : BitVec 8).getLsbD 0 = false
      ∧ Hinted (issueAt testState) none false true false ∧ Usable (issueAt testState) [vN 127])
    ∧ (Issues (hintState { count := 1, limm := some 0xFFFFF }) (issueAt (hintState { count := 1, limm := some 0xFFFFF }))
      ∧ Hinted (issueAt (hintState { count := 1, limm := some 0xFFFFF })) (some 0xFFFFF) false true false
      ∧ Hinted (issueAt (hintState { count := 1, limm := some 0xFFFFF })) (some 0xFFFFF) false false false)
    ∧ Hinted (issueAt (hintState { count := 1, limm := some 0xFFFF })) (some 0xFFFF) false false false :=
  ⟨⟨issues_of (by decide +kernel), usable_of (by decide +kernel), hinted_of (by decide +kernel), usable_of (by decide +kernel), by decide, by decide,
      hinted_of (by decide +kernel), usable_of (by decide +kernel)⟩,
    ⟨issues_of (by decide +kernel), hinted_of (by decide +kernel), hinted_of (by decide +kernel)⟩, hinted_of (by decide +kernel)⟩

theorem test_hypotheses_PredicateAndVoteResults : Issues testState (issueAt testState) ∧ Hinted (issueAt testState) none false false false
    ∧ Usable (issueAt testState) [pN 47, vN 1, vN 127] ∧ Usable (issueAt testState) [pN 47, pN 0, pN 1] ∧ Usable (issueAt testState) [vN 127, pN 47]
    ∧ Usable (issueAt testState) (pN 47 :: sPair 62) ∧ (62 : BitVec 6).getLsbD 0 = false ∧ Usable (issueAt testState) [pN 1, pN 2]
    ∧ Usable (issueAt testState) (sPair 62) ∧ Usable (issueAt testState) [pN 1, sN 63] :=
  ⟨issues_of (by decide +kernel), hinted_of (by decide +kernel), usable_of (by decide +kernel), usable_of (by decide +kernel),
    usable_of (by decide +kernel), usable_of (by decide +kernel), by decide, usable_of (by decide +kernel), usable_of (by decide +kernel),
    usable_of (by decide +kernel)⟩

theorem test_hypotheses_ShuffleMatchResults : Issues testState (issueAt testState) ∧ Hinted (issueAt testState) none false false false
    ∧ Usable (issueAt testState) [vN 127, vN 1, vN 2] ∧ 514 ∉ (issueAt testState).e.l.kh.errata ∧ Usable (issueAt testState) (vPair 126 ++ [vN 1])
    ∧ Usable (issueAt testState) (vPair 126 ++ vPair 2) ∧ (126 : BitVec 8).getLsbD 0 = false ∧ (2 : BitVec 8).getLsbD 0 = false :=
  ⟨issues_of (by decide +kernel), hinted_of (by decide +kernel), usable_of (by decide +kernel), by decide +kernel, usable_of (by decide +kernel),
    usable_of (by decide +kernel), by decide, by decide⟩

theorem test_hypotheses_UniformResults : Issues testState (issueAt testState) ∧ Usable (issueAt testState) [sN 63, sN 0, sN 1]
    ∧ Hinted (issueAt testState) none false true false ∧ Hinted (issueAt testState) none false false false
    ∧ Usable (issueAt testState) (sPair 62 ++ sPair 0 ++ sPair 2) ∧ (62 : BitVec 6).getLsbD 0 = false
    ∧ Hinted (issueAt (hintState { count := 1, limm := some 0xFFFF })) (some 0xFFFF) false true false
    ∧ Usable (issueAt testState) [vN 127, sN 63] ∧ Usable (issueAt testState) [sN 63, vN 127] :=
  ⟨issues_of (by decide +kernel), usable_of (by decide +kernel), hinted_of (by decide +kernel), hinted_of (by decide +kernel),
    usable_of (by decide +kernel), by decide, hinted_of (by decide +kernel), usable_of (by decide +kernel), usable_of (by decide +kernel)⟩

/-- ActiveLanesOnly asks for a lane below 64. -/
theorem test_hypotheses_ActiveLanesOnly : (63 : Nat) < 64 := by decide

theorem test_hypotheses_ReductionResults : Issues testState (issueAt testState) ∧ Usable (issueAt testState) [vN 127, vN 1]
    ∧ Hinted (issueAt testState) none false false false ∧ (2 : BitVec 2) ≠ 3 ∧ (9 : BitVec 4).toNat < 10 ∧ 257 ∉ (issueAt testState).e.l.kh.errata :=
  ⟨issues_of (by decide +kernel), usable_of (by decide +kernel), hinted_of (by decide +kernel), by decide, by decide, by decide +kernel⟩

/-! ### Hypotheses met: LN instructions -/

theorem test_hypotheses_LnArithmeticRules : (0xFFFF < 2 ^ LnFmt.ln16.bits ∧ lnVal .ln16 0x1FFF ≠ .nan)
    ∧ (-(2 ^ (LnFmt.ln16.log - 1)) ≤ (-8192 : Int) ∧ (-8192 : Int) < 2 ^ (LnFmt.ln16.log - 1))
    ∧ (-(2 ^ (LnFmt.ln32.log - 1)) ≤ (536870911 : Int) ∧ (536870911 : Int) < 2 ^ (LnFmt.ln32.log - 1)) := by decide +kernel

theorem test_hypotheses_LnTwoOperandResults : Issues testState (issueAt testState) ∧ Usable (issueAt testState) [vN 127, vN 8, vN 9]
    ∧ Hinted (issueAt testState) none true false false ∧ Hinted (issueAt testState) none false false false ∧ Usable (issueAt testState) [pN 47]
    ∧ Untrapped (issueAt testState) [(0, 0x1FF)] ∧ Hinted (issueAt (hintState { count := 1, rnd := some 4 })) none true false false :=
  ⟨issues_of (by decide +kernel), usable_of (by decide +kernel), hinted_of (by decide +kernel), hinted_of (by decide +kernel),
    usable_of (by decide +kernel), by simp only [Untrapped, List.forall_mem_singleton]; decide +kernel, hinted_of (by decide +kernel)⟩

theorem test_hypotheses_LnUnaryResults : Issues testState (issueAt testState) ∧ Usable (issueAt testState) [vN 127, vN 8]
    ∧ lnFmtOf (2 : BitVec 2).toNat = some .ln32 ∧ (2 : BitVec 2) ≠ 0 ∧ Hinted (issueAt testState) none false false false
    ∧ Hinted (issueAt testState) none true false false ∧ 513 ∉ (issueAt testState).e.l.kh.errata :=
  ⟨issues_of (by decide +kernel), usable_of (by decide +kernel), by decide, by decide, hinted_of (by decide +kernel), hinted_of (by decide +kernel),
    by decide +kernel⟩

theorem test_hypotheses_LnConversionResults : Issues testState (issueAt testState) ∧ Usable (issueAt testState) [vN 127, vN 8, vN 9]
    ∧ Hinted (issueAt testState) none false false false ∧ lnFmtOf (0 : BitVec 2).toNat = some .ln8 ∧ Hinted (issueAt testState) none true false false
    ∧ Usable (issueAt testState) [vN 127, vN 8] ∧ (2 : BitVec 3).toNat < 3 ∧ Usable (issueAt testState) (vN 127 :: vPair 8)
    ∧ (8 : BitVec 8).getLsbD 0 = false ∧ Usable (issueAt testState) (vN 127 :: vPair 126) ∧ (126 : BitVec 8).getLsbD 0 = false :=
  ⟨issues_of (by decide +kernel), usable_of (by decide +kernel), hinted_of (by decide +kernel), by decide, hinted_of (by decide +kernel),
    usable_of (by decide +kernel), by decide, usable_of (by decide +kernel), by decide, usable_of (by decide +kernel), by decide⟩

theorem test_hypotheses_FlagWordResults : Issues testState (issueAt testState) ∧ Hinted (issueAt testState) none false false false
    ∧ Usable (issueAt testState) [vN 127] ∧ Usable (issueAt testState) [sN 63] ∧ Usable (issueAt testState) [pN 47, vN 127] :=
  ⟨issues_of (by decide +kernel), hinted_of (by decide +kernel), usable_of (by decide +kernel), usable_of (by decide +kernel), usable_of (by decide +kernel)⟩

/-! ### Hypotheses met: tiles and accumulators -/

/-- The machine with a chain in a1, flags in a2, and an integer accumulator in a3. -/
def accState : State :=
  machine { testGroup testArch with accs := [(1, { fmt := .chain, elems := [(0, 5)] }), (2, { fmt := .narrow, flags := [(0, 3)] }),
    (3, { fmt := .integer, f := 20 })] } testLaunch

theorem test_hypotheses_TileRegisterResults : Issues testState (issueAt testState) ∧ Hinted (issueAt testState) none false false false
    ∧ (Usable (issueAt testState) [.t (7 : BitVec 6).toNat, .t (0 : BitVec 6).toNat] ∧ (7 : BitVec 6).toNat < 8 ∧ (0 : BitVec 6).toNat < 8
      ∧ (issueAt testState).e.g.usesTile 7 = false ∧ 0 ∉ (issueAt testState).arch.tPoison)
    ∧ (Usable (issueAt testState) [sN 20] ∧ (7 : BitVec 3).toNat < (issueAt testState).e.l.kh.tiles
      ∧ (issueAt testState).arch.getS 20 &&& 0xFFF00C00 = 0) :=
  ⟨issues_of (by decide +kernel), hinted_of (by decide +kernel),
    ⟨usable_of (by decide +kernel), by decide, by decide, by decide +kernel, by decide +kernel⟩,
    usable_of (by decide +kernel), by decide +kernel, by decide +kernel⟩

theorem test_hypotheses_AccumulatorResults : Issues accState (issueAt accState) ∧ Hinted (issueAt accState) none false false false
    ∧ (Usable (issueAt accState) [.a 7] ∧ (issueAt accState).e.g.usesAcc 7 = false)
    ∧ (Usable (issueAt accState) (quarter 15 ++ [.a 2]) ∧ (issueAt accState).e.g.usesAcc 2 = false ∧ ((issueAt accState).e.g.acc 2).fmt ≠ .none)
    ∧ (Usable (issueAt accState) [.a 7, .a 2] ∧ ((issueAt accState).e.g.acc 2).poison = false)
    ∧ (∀ n, n < 8 → (issueAt accState).e.g.usesAcc n = false) ∧ Untrapped (issueAt accState) ((issueAt accState).e.g.acc 2).flags
    ∧ (Usable (issueAt accState) (.a 1 :: quarter 15 ++ [sN 63]) ∧ ((issueAt accState).e.g.acc 1).fmt ≠ .none
      ∧ ((issueAt accState).e.g.acc 1).poison = false ∧ (issueAt accState).e.l.lh.mode = 0) :=
  ⟨issues_of (by decide +kernel), hinted_of (by decide +kernel), ⟨usable_of (by decide +kernel), by decide +kernel⟩,
    ⟨usable_of (by decide +kernel), by decide +kernel, by decide +kernel⟩, ⟨usable_of (by decide +kernel), by decide +kernel⟩,
    by decide +kernel, by unfold Untrapped; decide +kernel,
    usable_of (by decide +kernel), by decide +kernel, by decide +kernel, by decide +kernel⟩

/-- The accumulators with scratch descriptors in s4 and s6, over tile 0, and a LIMM. -/
def matrixState (limm : Option (BitVec 20)) : State :=
  { machine { (issueAt accState).e.g with arch := { testArch with s := words [(4, 0), (5, 1), (6, 0), (7, 1)], run := { count := 1, limm := limm } } }
      testLaunch with teams := [{ placedTeam with loft := [testTile []] }] }

theorem test_hypotheses_MatrixIssueResults :
    (Issues accState (issueAt accState) ∧ queueFull accState (issueAt accState).e.g = false ∧ tilePoisoned (issueAt accState).arch [2, 3] = false
      ∧ xBad 2 = false ∧ xBad 3 = false ∧ Hinted (issueAt accState) none true false false ∧ Usable (issueAt accState) (xReads 2 ++ xReads 3 ++ [.a 1])
      ∧ lnAccumulator ((issueAt accState).e.g.acc 1) = true
      ∧ ((xSource (issueAt accState).arch 2).check accState (issueAt accState).e.accessor 2 32 [0] (laneList (issueAt accState).active)).isNone
      ∧ ((xSource (issueAt accState).arch 3).check accState (issueAt accState).e.accessor 2 32 [0] (bRows (issueAt accState).active true)).isNone)
    ∧ (Issues (matrixState none) (issueAt (matrixState none)) ∧ xIsTile 34 = false ∧ (issueAt (matrixState none)).mode ≠ 4
      ∧ ((xSource (issueAt (matrixState none)).arch 34).check (matrixState none) (issueAt (matrixState none)).e.accessor 2 32 (List.range 32)
        (laneList (issueAt (matrixState none)).active)).isNone)
    ∧ (Issues (matrixState (some 0xF0201)) (issueAt (matrixState (some 0xF0201)))
      ∧ Hinted (issueAt (matrixState (some 0xF0201))) (some 0xFFFFF) true false false
      ∧ Usable (issueAt (matrixState (some 0xF0201))) (xReads 2 ++ xReads 3 ++ [.a 1, .v 1, .v 2]))
    ∧ (Hinted (issueAt (matrixState (some 0x7C))) (some 0xFF) true false false
      ∧ Usable (issueAt (matrixState (some 0x7C))) (xReads 34 ++ xReads 35 ++ [.a 1] ++ (List.range 4).map (fun k => .v (124 + k)))
      ∧ ((xSource (issueAt (matrixState (some 0x7C))).arch 34).check (matrixState (some 0x7C)) (issueAt (matrixState (some 0x7C))).e.accessor 4 64 [0]
        (laneList (issueAt (matrixState (some 0x7C))).active)).isNone
      ∧ ((xSource (issueAt (matrixState (some 0x7C))).arch 35).check (matrixState (some 0x7C)) (issueAt (matrixState (some 0x7C))).e.accessor 4 32
        (List.range (128 / 2 ^ treeDepth 3)) (bRows (issueAt (matrixState (some 0x7C))).active false)).isNone)
    ∧ ((7 : BitVec 3).toNat < (issueAt accState).e.l.kh.tiles ∧ Usable (issueAt accState) (xReads 2 ++ xReads 3 ++ [.a 3])
      ∧ ((issueAt accState).e.g.acc 3).fmt = .integer ∧ twFrac ((issueAt accState).arch.getTw 7) ≤ ((issueAt accState).e.g.acc 3).f.toNat
      ∧ immaK ((issueAt accState).arch.getTw 7) * twWa ((issueAt accState).arch.getTw 7) / 8 ≤ 32
      ∧ immaK ((issueAt accState).arch.getTw 7) * twWb ((issueAt accState).arch.getTw 7) / 8 ≤ 32) := by
  refine ⟨⟨issues_of (by decide +kernel), by decide +kernel, by decide +kernel, by decide, by decide, hinted_of (by decide +kernel),
    usable_of (by decide +kernel), by decide +kernel, by decide +kernel, by decide +kernel⟩,
    ⟨issues_of (by decide +kernel), by decide, by decide +kernel, by decide +kernel⟩,
    ⟨issues_of (by decide +kernel), hinted_of (by decide +kernel), usable_of (by decide +kernel)⟩,
    ⟨hinted_of (by decide +kernel), usable_of (by decide +kernel), by decide +kernel, by decide +kernel⟩,
    by decide +kernel, usable_of (by decide +kernel), by decide +kernel, by decide +kernel, by decide +kernel, by decide +kernel⟩

/-- Row r of a scratch operand at step 0, as TLD and TST name it. -/
theorem test_hypotheses_TileLoadStoreResults : Issues (matrixState none) (issueAt (matrixState none))
    ∧ Hinted (issueAt (matrixState none)) none false false false ∧ (issueAt (matrixState none)).e.g.wait = .none ∧ (7 : BitVec 6).toNat < 8
    ∧ xIsTile 34 = false ∧ Usable (issueAt (matrixState none)) (xReads 34 ++ [.t 7])
    ∧ (checkDesc (matrixState none) (issueAt (matrixState none)).e.accessor ((issueAt (matrixState none)).arch.getS64 4) 1 32 [0]
      (laneList (issueAt (matrixState none)).active)).isNone
    ∧ (laneList (issueAt (matrixState none)).active).all (fun r => (rowChunks ((issueAt (matrixState none)).arch.getS64 4) 1 0 r 32).all (fun c =>
        (handlePlace (matrixState none) (issueAt (matrixState none)).e.accessor 0 c.1 c.2).isSome))
    ∧ (issueAt (matrixState none)).e.g.usesTile 7 = false ∧ 7 ∉ (issueAt (matrixState none)).arch.tPoison :=
  ⟨issues_of (by decide +kernel), hinted_of (by decide +kernel), by decide +kernel, by decide, by decide, usable_of (by decide +kernel),
    by decide +kernel, by decide +kernel, by decide +kernel, by decide +kernel⟩

/-- The tile engine has two steps of an LMMA before it. -/
def passState : State :=
  machine { (issueAt accState).e.g with matrix := [{ id := 9, acc := 1, kind := .lmma 2 0 0, a := .tile 1, b := .tile 2, pb := false, mask := 3, done := 0, total := 2 }] }
    testLaunch

theorem test_hypotheses_TileEnginePassResult : ∃ e o, passState.env? passState.event.core passState.event.slot = some e
    ∧ e.g.heads[passState.event.num]? = some o ∧ o.done + 1 < o.total := ⟨_, _, rfl, rfl, by decide⟩


/-! ### Hypotheses met: memory -/

/-- The machine with a tile at handle 0, which s5 names. -/
def handleState : State := tileMachine { testArch with s := words [(4, 0x40001000), (20, 4)] }

theorem test_hypotheses_LoadResults : Issues testState (issueAt testState) ∧ Hinted (issueAt testState) (some 0xFFFFF) false false false
    ∧ Usable (issueAt testState) (dataRegs 10 3) ∧ oddData 10 3 = false
    ∧ (Usable (issueAt testState) (vB 7 :: sPair 16)
      ∧ Reaches testState (issueAt testState) .load 16 false 4 (addrUniformVector (issueAt testState) 7 16)
        (placeOf testState .load 16 false 4 (addrUniformVector (issueAt testState) 7 16)))
    ∧ (Usable (issueAt testState) (sPair 16) ∧ Reaches testState (issueAt testState) .load 16 false 8 (fun _ => addrUniform (issueAt testState) 16)
        (placeOf testState .load 16 false 8 (fun _ => addrUniform (issueAt testState) 16)))
    ∧ (Usable (issueAt testState) [.v 4, .v 5] ∧ Reaches testState (issueAt testState) .load 16 false 8 (addrVector (issueAt testState) 4)
        (placeOf testState .load 16 false 8 (addrVector (issueAt testState) 4)))
    ∧ (Issues handleState (issueAt handleState) ∧ Usable (issueAt handleState) [vB 2, sN 6]
      ∧ Reaches handleState (issueAt handleState) .load 16 false 4 (addrHandleVector (issueAt handleState) 2 6)
        (placeOf handleState .load 16 false 4 (addrHandleVector (issueAt handleState) 2 6)))
    ∧ (Usable (issueAt handleState) [sN 5] ∧ Reaches handleState (issueAt handleState) .load 16 false 1 (fun _ => addrHandle (issueAt handleState) 5)
        (placeOf handleState .load 16 false 1 (fun _ => addrHandle (issueAt handleState) 5))) :=
  ⟨issues_of (by decide +kernel), hinted_of (by decide +kernel), usable_of (by decide +kernel), by decide,
    ⟨usable_of (by decide +kernel), reaches_of (by decide +kernel)⟩, ⟨usable_of (by decide +kernel), reaches_of (by decide +kernel)⟩,
    ⟨usable_of (by decide +kernel), reaches_of (by decide +kernel)⟩,
    ⟨issues_of (by decide +kernel), usable_of (by decide +kernel), reaches_of (by decide +kernel)⟩,
    ⟨usable_of (by decide +kernel), reaches_of (by decide +kernel)⟩⟩

theorem test_hypotheses_StoreResults : Issues testState (issueAt testState) ∧ (issueAt testState).e.g.wait = .none
    ∧ Hinted (issueAt testState) (some 0xFFFFF) false false false ∧ Usable (issueAt testState) (dataRegs 10 3) ∧ oddData 10 3 = false
    ∧ Reaches testState (issueAt testState) .store 16 false 4 (addrUniformVector (issueAt testState) 7 16)
        (placeOf testState .store 16 false 4 (addrUniformVector (issueAt testState) 7 16))
    ∧ Reaches testState (issueAt testState) .store 16 false 8 (fun _ => addrUniform (issueAt testState) 16)
        (placeOf testState .store 16 false 8 (fun _ => addrUniform (issueAt testState) 16))
    ∧ Reaches testState (issueAt testState) .store 16 false 8 (addrVector (issueAt testState) 4)
        (placeOf testState .store 16 false 8 (addrVector (issueAt testState) 4))
    ∧ (Issues handleState (issueAt handleState) ∧ Reaches handleState (issueAt handleState) .store 16 false 4
        (addrHandleVector (issueAt handleState) 2 6) (placeOf handleState .store 16 false 4 (addrHandleVector (issueAt handleState) 2 6)))
    ∧ Reaches handleState (issueAt handleState) .store 16 false 1 (fun _ => addrHandle (issueAt handleState) 5)
        (placeOf handleState .store 16 false 1 (fun _ => addrHandle (issueAt handleState) 5)) :=
  ⟨issues_of (by decide +kernel), by decide +kernel, hinted_of (by decide +kernel), usable_of (by decide +kernel), by decide,
    reaches_of (by decide +kernel), reaches_of (by decide +kernel), reaches_of (by decide +kernel),
    ⟨issues_of (by decide +kernel), reaches_of (by decide +kernel)⟩, reaches_of (by decide +kernel)⟩

theorem test_hypotheses_AtomicOperationRules : (({ op := 1, width := 8, operand := 7, cmp := 0, lane := 0 } : Rmw).new 0 0).1 = some 7
    ∧ (({ op := 1, width := 4, operand := 7, cmp := 1, lane := 0 } : Rmw).new 0 0).1 = none := by decide +kernel

/-- The group holds one undrained RED. -/
def testRed : RedEntry :=
  { core := 0, team := placedTeam.id, place := .mem .gddr 0x40001000 0x40001000, addr := 0x40001000, op := 2, type := 0, operand := 5, lane := 0, issue := 0, tag := 7 }

def redState : State := machine { testGroup testArch with reds := [testRed] } testLaunch

theorem test_hypotheses_AtomicReductionResults : (Issues testState (issueAt testState) ∧ (issueAt testState).e.g.wait = .none
      ∧ (issueAt testState).e.l.lh.mode = 0 ∧ Hinted (issueAt testState) (some 0xFFFFF) false false false
      ∧ atomIllegal 2 0 = false ∧ atomPairBad 4 = false ∧ atomDataBad 20 2 0 = false
      ∧ Usable (issueAt testState) (vPair 4 ++ atomData 20 2 0 ++ atomDest 20 0)
      ∧ Reaches testState (issueAt testState) .atomic 2 false (atomBytes 0) (atomAddr 4 0 (issueAt testState))
        (placeOf testState .atomic 2 false (atomBytes 0) (atomAddr 4 0 (issueAt testState)))
      ∧ ((issueAt testState).e.g.outstanding.filter (·.atom)).length < 8 ∧ (issueAt testState).e.g.redQuota < 8
      ∧ (issueAt testState).e.g.batch = [] ∧ (issueAt testState).e.g.reds = [] ∧ Hinted (issueAt testState) none false false false)
    ∧ (Issues redState (issueAt redState) ∧ Hinted (issueAt redState) none false false false ∧ (issueAt redState).e.g.batch = []
      ∧ (issueAt redState).e.g.reds = [testRed]) :=
  ⟨⟨issues_of (by decide +kernel), by decide +kernel, by decide +kernel, hinted_of (by decide +kernel), by decide, by decide, by decide,
    usable_of (by decide +kernel), reaches_of (by decide +kernel), by decide +kernel, by decide +kernel, by decide +kernel, by decide +kernel,
    hinted_of (by decide +kernel)⟩, issues_of (by decide +kernel), hinted_of (by decide +kernel), by decide +kernel, by decide +kernel⟩

/-- The group has a matrix operation under way, so that a fence of the tile engine's class waits. -/
def busyState : State :=
  machine { testGroup testArch with
    accs := [(1, { fmt := .integer, f := 20 })]
    matrix := [{ id := 9, acc := 1, kind := .imma, a := .tile 1, b := .tile 2, pb := false, mask := 3, done := 0, total := 1 }] } testLaunch

theorem ranges_of {rs : List (BitVec 8 × BitVec 6)} {n : Nat}
    (h : rs.all (fun r => decide (r.2.toNat ≤ 32) && (r.2 != 0 || r.1 == 0) && (r.2 == 0 || decide (r.1.toNat + r.2.toNat ≤ n))) = true) :
    ∀ r ∈ rs, r.2.toNat ≤ 32 ∧ (r.2 = 0 → r.1 = 0) ∧ (r.2 ≠ 0 → r.1.toNat + r.2.toNat ≤ n) := by
  intro r hr
  have k := List.all_eq_true.mp h r hr
  simp only [Bool.and_eq_true, decide_eq_true_eq, Bool.or_eq_true, bne_iff_ne, ne_eq, beq_iff_eq] at k
  exact ⟨k.1.1, fun z => k.1.2.resolve_left (fun w => w z), fun z => k.2.resolve_left z⟩

theorem test_hypotheses_FenceAndPrefetchResults :
    (Issues testState (issueAt testState) ∧ Hinted (issueAt testState) none false false false ∧ fenceWaits testState (issueAt testState).e 63 = [])
    ∧ (Issues busyState (issueAt busyState) ∧ Hinted (issueAt busyState) none false false false
      ∧ fenceWaits busyState (issueAt busyState).e 63 ≠ [] ∧ (63 : BitVec 6).getLsbD 0 = true
      ∧ fenceWaits busyState (issueAt busyState).e 62 ≠ [] ∧ (62 : BitVec 6).getLsbD 0 = false)
    ∧ (Hinted (issueAt testState) (some 0x3FFFF) false false false
      ∧ (∀ r ∈ prefRanges 4 16 0 (issueAt testState).run, r.2.toNat ≤ 32 ∧ (r.2 = 0 → r.1 = 0)
        ∧ (r.2 ≠ 0 → r.1.toNat + r.2.toNat ≤ min 128 (issueAt testState).e.l.kh.regs))
      ∧ ((prefRanges 4 16 0 (issueAt testState).run).map (fun r => r.2.toNat)).sum ≤ 32)
    ∧ (let x := issueAt (machineOf { testArch with run := { count := 1, limm := some 0x3F0FF } })
      Hinted x (some 0x3FFFF) false false false
      ∧ Hinted (issueAt (machineOf { testArch with run := { count := 1, limm := some 0x08010 } })) (some 0x3FFFF) false false false) :=
  ⟨⟨issues_of (by decide +kernel), hinted_of (by decide +kernel), by decide +kernel⟩,
    ⟨issues_of (by decide +kernel), hinted_of (by decide +kernel), by decide +kernel, by decide, by decide +kernel, by decide⟩,
    ⟨hinted_of (by decide +kernel), ranges_of (by decide +kernel), by decide +kernel⟩,
    hinted_of (by decide +kernel), hinted_of (by decide +kernel)⟩

/-- The machine with scalar registers, tiles, and named queues. -/
def scalarMachine (rs : List (Nat × Nat)) (tiles : List Tile) (qs : List Binding) : State :=
  { machineOf { testArch with s := words rs } with teams := [{ placedTeam with loft := tiles, queues := qs }] }

/-- A launch of two kernels' worth of Loft and Barn, with a held tile of index 0. -/
def allocState (shape : Nat) : State := scalarMachine [(4, shape)] [testTile []] []

theorem test_hypotheses_TileAndWindowResults :
    (Issues (allocState 0x10010) (issueAt (allocState 0x10010)) ∧ Hinted (issueAt (allocState 0x10010)) none false false false
      ∧ (issueAt (allocState 0x10010)).e.l.lh.mode = 0 ∧ Usable (issueAt (allocState 0x10010)) [sN 4, sN 63]
      ∧ ((0x10010 : Nat) / 4096 ≠ 0 ∧ (0x10010 : Nat) % 4096 ≠ 0 ∧ ((0x10010 % 4096) * 16 * (0x10010 / 4096) + 255) / 256 ≤ 4096
        ∧ (((issueAt (allocState 0x10010)).e.t.loft.map (·.granules)).sum + ((0x10010 % 4096) * 16 * (0x10010 / 4096) + 255) / 256
          ≤ (issueAt (allocState 0x10010)).e.l.kh.loft)
        ∧ (1 : Nat) ∉ (issueAt (allocState 0x10010)).e.t.loft.map (·.index)
        ∧ ∀ j, j < 1 → j ∈ (issueAt (allocState 0x10010)).e.t.loft.map (·.index)))
    ∧ (Usable (issueAt (allocState 0)) [sN 4, sN 63] ∧ (issueAt (allocState 0)).arch.getS 4 = 0)
    ∧ (Usable (issueAt (allocState 0)) [sN 4] ∧ (∃ t ∈ ownerTiles (issueAt (allocState 0)).e false, t.index = 0)
      ∧ handleBusy (allocState 0) (issueAt (allocState 0)).e 0 = false ∧ handleBound (allocState 0) (issueAt (allocState 0)).e 0 = false)
    ∧ (let s := scalarMachine [(24, 0xD0000000), (26, 2), (27, 1), (28, 5), (30, 1)] [] []
      let x := issueAt s
      Issues s x ∧ Hinted x none false false false ∧ (24 : BitVec 6).toNat % 8 = 0 ∧ Usable x (octet 24) ∧ x.e.l.privileged = true
      ∧ (∀ l ∈ s.launches, l.ctx = x.e.l.ctx → l.lh.mode = 0) ∧ (∀ c ∈ s.commands, c.ctx = x.e.l.ctx → c.discard = false)
      ∧ entryValid s x.e.l.ctx 7 ((List.range 8).map (fun k => x.arch.getS (24 + k))) = true) :=
  ⟨⟨issues_of (by decide +kernel), hinted_of (by decide +kernel), by decide +kernel, usable_of (by decide +kernel), by decide +kernel⟩,
    ⟨usable_of (by decide +kernel), by decide +kernel⟩,
    ⟨usable_of (by decide +kernel), by decide +kernel, by decide +kernel, by decide +kernel⟩,
    issues_of (by decide +kernel), hinted_of (by decide +kernel), by decide, usable_of (by decide +kernel), by decide +kernel, by decide +kernel,
    by decide +kernel, by decide +kernel⟩

/-- Memory that holds the bytes. -/
def withBytes (s : State) (a : Nat) (bs : List Byte) : State := { s with memory := s.memory.write .gddr a bs }

/-- The record of sixty-four equal values of v1's machine at the address in s16 (format 1). -/
def fillState : State := withBytes testState 0x40001000 (spillRecord (List.replicate 64 9))

/-- The places of a record. -/
def recordPlaces (s : State) (k : AccessKind) (n : Nat) : List (Place × Nat) :=
  match checkRecord s (issueAt s).e.accessor k n (spillAddr 16 false (issueAt s)) with
  | .ok ps => ps
  | .error _ => []

theorem test_hypotheses_SpillFillResults : (List.replicate 64 (9 : Word)).length = 64
    ∧ (Issues fillState (issueAt fillState) ∧ (issueAt fillState).e.g.wait = .none ∧ Hinted (issueAt fillState) (some 0xFFFFF) false false false
      ∧ Usable (issueAt fillState) (vN 1 :: spillRegs 16 false) ∧ (16 : BitVec 6).getLsbD 0 = false)
    ∧ (checkRecord fillState (issueAt fillState).e.accessor .store
        (spillRecord ((List.range 64).map ((issueAt fillState).arch.getV 1))).length (spillAddr 16 false (issueAt fillState))).toOption.isSome
    ∧ ((checkRecord fillState (issueAt fillState).e.accessor .load 16 (spillAddr 16 false (issueAt fillState))).toOption.isSome
      ∧ spillLength (byteField ((recordPlaces fillState .load 16).flatMap (fun p => readAny fillState p.1 p.2)) 0 1) = some 20
      ∧ (checkRecord fillState (issueAt fillState).e.accessor .load 20 (spillAddr 16 false (issueAt fillState))).toOption.isSome)
    ∧ (let x := issueAt handleState
      Usable x (vN 1 :: spillRegs 5 true)
      ∧ (checkRecord handleState x.e.accessor .store (spillRecord ((List.range 64).map (x.arch.getV 1))).length (spillAddr 5 true x)).toOption.isSome) :=
  ⟨by decide, ⟨issues_of (by decide +kernel), by decide +kernel, hinted_of (by decide +kernel), usable_of (by decide +kernel), by decide⟩,
    by decide +kernel, ⟨by decide +kernel, by decide +kernel, by decide +kernel⟩, usable_of (by decide +kernel), by decide +kernel⟩

/-! ### Hypotheses met: queues and waiting -/

/-- The machine with a named queue q8 of four entries in tile 0. -/
def queueState (head tail allowance : Nat) : State :=
  scalarMachine [(6, 77)] [testTile ([(0, head), (4, tail), (8, allowance), (12, 3)].foldl (fun m b => smSet 0 b.1 (BitVec.ofNat 8 b.2) m) [])]
    [{ q := 8, handle := 0, capacity := 4 }]

def queuePlace (s : State) : Place := (storagePlace s (issueAt s).e.accessor 0 4).getD (.mem .gddr 0 0)

/-- What NamedQueueResults asks of a machine, but for the allowance and the entry at the head. -/
def queueCheck (s : State) : Bool :=
  let x := issueAt s
  issuesCheck s && hintedCheck x none false false false && usableCheck x (sPair 6) && x.e.g.wait == .none && x.e.l.lh.mode == 0
  && x.e.t.binding 8 == some { q := 8, handle := 0, capacity := 4 } && storagePlace s x.e.accessor 0 4 == some (queuePlace s)
  && !s.poisonedPlace (queuePlace s) 16 && (queueHeader (s.readPlace (queuePlace s) 16)).ok 4

theorem queue_of {s : State} (h : queueCheck s = true) : Issues s (issueAt s) ∧ Hinted (issueAt s) none false false false
    ∧ Usable (issueAt s) (sPair 6) ∧ (6 : BitVec 6).getLsbD 0 = false ∧ (issueAt s).e.g.wait = .none ∧ (issueAt s).e.l.lh.mode = 0
    ∧ 8 ≤ (8 : BitVec 4).toNat ∧ (issueAt s).e.t.binding 8 = some { q := 8, handle := 0, capacity := 4 }
    ∧ storagePlace s (issueAt s).e.accessor 0 4 = some (queuePlace s) ∧ s.poisonedPlace (queuePlace s) 16 = false
    ∧ (queueHeader (s.readPlace (queuePlace s) 16)).ok 4 = true := by
  simp only [queueCheck, Bool.and_eq_true, beq_iff_eq, Bool.not_eq_true'] at h
  obtain ⟨⟨⟨⟨⟨⟨⟨⟨h1, h2⟩, h3⟩, h4⟩, h5⟩, h6⟩, h7⟩, h8⟩, h9⟩ := h
  exact ⟨issues_of h1, hinted_of h2, usable_of h3, by decide, h4, h5, by decide, h6, h7, h8, h9⟩

/-- A queue with two of four entries taken, a full one, and an empty one. -/
theorem test_hypotheses_NamedQueueResults : (queueCheck (queueState 1 3 2) = true ∧ queueCheck (queueState 1 1 0) = true ∧ queueCheck (queueState 3 3 4) = true)
    ∧ (Issues (queueState 1 3 2) (issueAt (queueState 1 3 2)) ∧ 0 < (queueHeader ((queueState 1 3 2).readPlace (queuePlace (queueState 1 3 2)) 16)).allowance
      ∧ (queueHeader ((queueState 1 3 2).readPlace (queuePlace (queueState 1 3 2)) 16)).allowance < 4
      ∧ (queueState 1 3 2).poisonedPlace ((queuePlace (queueState 1 3 2)).add 24) 8 = false ∧ Usable (issueAt (queueState 1 3 2)) [sN 20])
    ∧ (queueHeader ((queueState 1 1 0).readPlace (queuePlace (queueState 1 1 0)) 16)).allowance = 0
    ∧ (queueHeader ((queueState 3 3 4).readPlace (queuePlace (queueState 3 3 4)) 16)).allowance = 4 :=
  ⟨by decide +kernel, ⟨(queue_of (by decide +kernel)).1, by decide +kernel, by decide +kernel, by decide +kernel, usable_of (by decide +kernel)⟩,
    by decide +kernel, by decide +kernel⟩

/-- The command word of token s20 and descriptor s24 to s31. -/
def cmdWord (fields : Nat) : Nat := 20 + 24 * 64 + fields

/-- The machine with the command word in s4 and a copy descriptor. -/
def pushState (fields : Nat) (commands : List Command) : State :=
  { scalarMachine [(4, cmdWord fields), (24, 0x40001000), (26, 0x40002000), (28, 8)] [] [] with commands := commands }

/-- The machine with a thresher input word in s4. -/
def inputState (inputs : List ThrInput) : State :=
  { scalarMachine [(4, 0x40001000)] [] [] with cores := [(0, { inputs := inputs })] }

/-- A command of the copy engine. -/
def testCommand (id : Nat) : Command :=
  { id := id, engine := .copy 0, team := 1, launch := 1, ctx := 0, core := 0, slot := 0, index := 0, token := 20, lanes := 3, word := BitVec.ofNat 64 (cmdWord 0),
    desc := [0x40001000, 0, 0x40002000, 0, 8, 0, 0, 0], pc := 0, instrWord := 0x77, wordIx := 0, sseq := 0, workId := 0, tag := 9 }

def pushCheck (s : State) (q : Nat) : Bool :=
  let x := issueAt s
  let w := x.arch.getS64 4
  issuesCheck s && hintedCheck x none false false false && usableCheck x (sPair 4) && x.e.l.lh.mode == 0
  && usableCheck x ((List.range 8).map (fun j => RegRef.s (cmdDesc w + j)) ++ [.s (cmdToken w)]) && cmdDesc w % 8 == 0
  && (commandCheck s x.e.l.ctx (engineOf x.core q) w ((List.range 8).map (fun j => x.arch.getS (cmdDesc w + j)))).isNone
  && decide ((x.e.g.tokens.filter (·.result.isNone)).length < 16)

/-- A copy, a gather, a collective of communicator 0, and a copy whose queue holds 64 commands; q3 with room and full. -/
theorem test_hypotheses_CommandPushResults : pushCheck (pushState 0 []) 0 = true ∧ pushCheck (pushState (2 * 65536) []) 1 = true
    ∧ pushCheck ((pushState (2 * 2 ^ 18) []).setSys 0 0x130 0x40001000) 2 = true ∧ pushCheck (pushState 0 ((List.range 64).map testCommand)) 0 = true
    ∧ ((pushState 0 ((List.range 64).map testCommand)).commands.filter (fun c => c.engine == .copy 0)).length = 64
    ∧ (issuesCheck (inputState []) = true ∧ hintedCheck (issueAt (inputState [])) none false false false = true
      ∧ usableCheck (issueAt (inputState [])) (sPair 4) = true ∧ ((issueAt (inputState [])).arch.getS64 4).extractLsb' 0 4 = 0)
    ∧ issuesCheck (inputState (List.replicate 32 { team := 1, group := 0, word := 0, id := 0, tag := 0 })) = true
    ∧ ((inputState (List.replicate 32 { team := 1, group := 0, word := 0, id := 0, tag := 0 })).coreAt 0).inputs.length = 32 := by
  decide +kernel

/-- The issuing group's team has q8 bound, on which the group in slot 2 is blocked. -/
def unbindState : State :=
  { queueState 1 1 0 with
    groups := [testGroup testArch, { testGroup testArch with slot := 2, index := 1, wait := .queue true 8 6 },
      { testGroup testArch with slot := 4, index := 2, wait := .queue true 9 6 }] }

theorem test_hypotheses_QueueBindingResults :
    (let s := scalarMachine [(4, 0x30000)] [testTile []] []
      let x := issueAt s
      Issues s x ∧ Hinted x none false false false ∧ 8 ≤ (15 : BitVec 4).toNat ∧ x.e.g.wait = .none ∧ Usable x [sN 4]
      ∧ (x.arch.getS 4).toNat < 2 ^ 28 ∧ x.e.t.binding 15 = none ∧ (storagePlace s x.e.accessor 0 4).isSome)
    ∧ (Issues unbindState (issueAt unbindState) ∧ Hinted (issueAt unbindState) none false false false ∧ (issueAt unbindState).e.g.wait = .none
      ∧ (issueAt unbindState).e.t.binding 8 ≠ none ∧ (unbindState.groups.filter (fun g => g.wait == .queue true 8 6)).map (·.slot) = [2]) :=
  ⟨⟨issues_of (by decide +kernel), hinted_of (by decide +kernel), by decide, by decide +kernel, usable_of (by decide +kernel), by decide +kernel,
    by decide +kernel, by decide +kernel⟩,
    issues_of (by decide +kernel), hinted_of (by decide +kernel), by decide +kernel, by decide +kernel, by decide +kernel⟩

/-- Memory of zeros is what v10 expects and not what v1 does. -/
theorem test_hypotheses_WaitOnMemoryResults : Issues testState (issueAt testState) ∧ Hinted (issueAt testState) (some 0xFFFFF) false false false
    ∧ Usable (issueAt testState) (dataRegs 10 2) ∧ oddData 10 2 = false
    ∧ (Usable (issueAt testState) (vB 7 :: sPair 16)
      ∧ Reaches testState (issueAt testState) .load 16 true 4 (addrUniformVector (issueAt testState) 7 16)
        (placeOf testState .load 16 true 4 (addrUniformVector (issueAt testState) 7 16))
      ∧ ∀ l ∈ laneList (issueAt testState).active,
        leNat (readAny testState (placeOf testState .load 16 true 4 (addrUniformVector (issueAt testState) 7 16) l) 4)
          = ((issueAt testState).arch.getV 10 l).toNat)
    ∧ ((issueAt testState).arch.getV 1 0 ≠ 0 ∧ 0 ∈ laneList (issueAt testState).active)
    ∧ (Reaches testState (issueAt testState) .load 16 true 4 (fun _ => addrUniform (issueAt testState) 16)
        (placeOf testState .load 16 true 4 (fun _ => addrUniform (issueAt testState) 16)))
    ∧ (Usable (issueAt testState) [.v 4, .v 5] ∧ Reaches testState (issueAt testState) .load 16 true 4 (addrVector (issueAt testState) 4)
        (placeOf testState .load 16 true 4 (addrVector (issueAt testState) 4))) :=
  ⟨issues_of (by decide +kernel), hinted_of (by decide +kernel), usable_of (by decide +kernel), by decide,
    ⟨usable_of (by decide +kernel), reaches_of (by decide +kernel), by decide +kernel⟩, by decide +kernel, reaches_of (by decide +kernel),
    usable_of (by decide +kernel), reaches_of (by decide +kernel)⟩

/-! ### Hypotheses met: the thresher -/

/-- A block at word 5 that has put out four bytes. -/
def testBlock : ThrBlock :=
  { placedBlock with
    pc := 5, bit := 250, h := words [(1, 0xFFFFFFFE), (2, 7), (3, 3), (4, 1)], table := words [(9, 77)]
    history := [1, 2, 3, 4], emitted := 4, sectors := 4, payload := 0x40001000 }

def thrState (b : ThrBlock) : State :=
  { placeWords State.reset 32 0x70000000 with launches := [testLaunch], cores := [(0, { block := some b })], issuer := some (0, 63) }

theorem test_hypotheses_ThresherRegisterWords : (thrState testBlock).issuer = some (0, 63) ∧ ((thrState testBlock).coreAt 0).block = some testBlock
    ∧ testBlock.steps < 1048576 ∧ testBlock.limm = none ∧ ((0x3FF : BitVec 11).getLsbD 10 = false ∧ (0x40F : BitVec 11).extractLsb' 4 6 = 0)
    ∧ ((thrState { testBlock with limm := some 0x12345 }).coreAt 0).block = some { testBlock with limm := some 0x12345 }
    ∧ ((thrState { testBlock with steps := 1048576 }).coreAt 0).block = some { testBlock with steps := 1048576 } := by decide +kernel

/-- Bits are there for a get of 9 and, at the last bits, not; a refill of two bytes; copies of distance 1 and 4, and of 0 and 5. -/
theorem test_hypotheses_ThresherStreamWords :
    (getBits (thrState testBlock) 0 testBlock 9).isOk = true ∧ ({ testBlock with bit := 1020 } : ThrBlock).sectors * 256 < 1020 + 9
    ∧ (refillTable (thrState testBlock) 0 2 1 testBlock).2 = none
    ∧ testBlock.emitted + 4 ≤ 4096 ∧ ({ testBlock with emitted := 4096 } : ThrBlock).emitted = 4096
    ∧ ((testBlock.reg 4).toNat = 1 ∧ (testBlock.reg 2).toNat = 7 ∧ testBlock.emitted < 7 ∧ testBlock.reg 0 = 0)
    ∧ (copyHistory 1 7 { s := thrState testBlock, b := testBlock }).status = none
    ∧ (copyHistory 1 4097 { s := thrState testBlock, b := { testBlock with emitted := 4090 } }).status.isSome
    ∧ ({ testBlock with sector := some (0, List.replicate 32 0), bit := 240 } : ThrBlock).bit + 16 ≤ 256 * (0 + 1) := by decide +kernel

/-! ### Hypotheses met: control -/

theorem test_hypotheses_SuccessorsEnterFrontier : testArch.frontier.Pairwise (fun a b => a.key < b.key) := by decide

/-- Lanes 0 and 1 hold code addresses in v5 and return stacks; run counts a BPRI hint. -/
def branchState (bpri : Option (BitVec 20)) : State :=
  machineOf { testArch with
    v := words (lanesOf 5 [8, 12])
    returns := [(0, [{ pc := 8, prio := 3 }]), (1, [{ pc := 12, prio := 3 }, { pc := 16, prio := 4 }])]
    run := if bpri.isSome then { count := 1, bpri := bpri } else {} }

theorem test_hypotheses_BranchResults : (Issues (branchState (some 0x12345)) (issueAt (branchState (some 0x12345)))
      ∧ Hinted (issueAt (branchState (some 0x12345))) none false false true ∧ Usable (issueAt (branchState (some 0x12345))) [pN 47]
      ∧ Usable (issueAt (branchState (some 0x12345))) [.v 5]
      ∧ (∀ i ∈ laneList (issueAt (branchState (some 0x12345))).active,
        ((issueAt (branchState (some 0x12345))).arch.getV 5 i).toNat < (issueAt (branchState (some 0x12345))).e.l.kh.codeSize
        ∧ ((issueAt (branchState (some 0x12345))).arch.getV 5 i).toNat % 4 = 0)
      ∧ ∀ i ∈ laneList (issueAt (branchState (some 0x12345))).active, ((issueAt (branchState (some 0x12345))).arch.getReturns i).length < 64)
    ∧ (Issues (branchState none) (issueAt (branchState none)) ∧ Hinted (issueAt (branchState none)) none false false false
      ∧ ∀ i ∈ laneList (issueAt (branchState none)).active, (issueAt (branchState none)).arch.getReturns i ≠ [])
    ∧ (insertSuccs (issueAt (branchState none)).entry.guard (issueAt (branchState none)).arch.others
        [{ prio := 0x8000, pc := 4, mask := 1 }, { prio := 0x8000, pc := 8, mask := 2, fresh := true }]).length + 0 ≤ 48 :=
  ⟨⟨issues_of (by decide +kernel), hinted_of (by decide +kernel), usable_of (by decide +kernel), usable_of (by decide +kernel),
      by decide +kernel, by decide +kernel⟩,
    ⟨issues_of (by decide +kernel), hinted_of (by decide +kernel), by decide +kernel⟩, by decide +kernel⟩

/-- A group with the extended set mine beside a partner with the set theirs. -/
def pairState (mine theirs : XSet) : State :=
  { testState with groups := [{ testGroup testArch with xset := mine }, { testGroup testArch with slot := 1, index := 1, xset := theirs }] }

/-- A group of one entry, in a handler or not. -/
def lastState (h : Option Handler) : State := machine { testGroup { testArch with frontier := [testEntry] } with handler := h } testLaunch

def testHandler : Handler :=
  { suspended := { prio := 0x8000, pc := 4, mask := 3, guard := 63 }, frozen := [{ prio := 0x9000, pc := 16, mask := 8, guard := 3 }],
    shadow := [1, 2, 3, 4, 5, 6, 7, 8] }

theorem test_hypotheses_GroupControlResults :
    (Issues (pairState .none .none) (issueAt (pairState .none .none)) ∧ Hinted (issueAt (pairState .none .none)) none false false false
      ∧ (issueAt (pairState .none .none)).e.g.xset = .none ∧ ∀ h, (pairState .none .none).group? 0 1 = some h → h.xset ≠ .held)
    ∧ (Issues (pairState .none .held) (issueAt (pairState .none .held)) ∧ (issueAt (pairState .none .held)).e.g.xset = .none
      ∧ ((pairState .none .held).group? 0 1).map (·.xset) = some .held)
    ∧ (Issues (pairState .held .none) (issueAt (pairState .held .none)) ∧ (issueAt (pairState .held .none)).e.g.xset = .held
      ∧ (issueAt (pairState .held .none)).arch.pending = [] ∧ ∀ o ∈ (issueAt (pairState .held .none)).e.g.matrix, o.ext = false)
    ∧ ((issueAt testState).e.g.matrix = [] ∧ (issueAt testState).e.g.handler = none ∧ (issueAt testState).arch.others ≠ [])
    ∧ (Issues (lastState none) (issueAt (lastState none)) ∧ Hinted (issueAt (lastState none)) none false false false
      ∧ (issueAt (lastState none)).e.g.matrix = [] ∧ (issueAt (lastState none)).e.g.handler = none
      ∧ (issueAt (lastState none)).entry.mask &&& ~~~(issueAt (lastState none)).active = 0 ∧ (issueAt (lastState none)).arch.others = []
      ∧ (issueAt (lastState none)).e.g.reds = [] ∧ (issueAt (lastState none)).e.g.batch = [] ∧ (issueAt (lastState none)).e.g.xset = .none
      ∧ (issueAt (lastState none)).e.g.tokens = [] ∧ (issueAt (lastState none)).e.l.lh.mode = 0
      ∧ pushedWork (lastState none) (issueAt (lastState none)).e.g = false)
    ∧ (Issues (lastState (some testHandler)) (issueAt (lastState (some testHandler)))
      ∧ (issueAt (lastState (some testHandler))).e.g.handler = some testHandler ∧ testHandler.frozen ≠ []
      ∧ testHandler.suspended.mask &&& ~~~(issueAt (lastState (some testHandler))).active = 0
      ∧ (issueAt (lastState (some testHandler))).arch.others = []) :=
  ⟨⟨issues_of (by decide +kernel), hinted_of (by decide +kernel), by decide +kernel, fun h hh => by
      rw [show (pairState .none .none).group? 0 1 = some { testGroup testArch with slot := 1, index := 1 } from by decide +kernel] at hh
      cases hh; decide⟩,
    ⟨issues_of (by decide +kernel), by decide +kernel, by decide +kernel⟩,
    ⟨issues_of (by decide +kernel), by decide +kernel, by decide +kernel, by decide +kernel⟩, by decide +kernel,
    ⟨issues_of (by decide +kernel), hinted_of (by decide +kernel), by decide +kernel⟩,
    issues_of (by decide +kernel), by decide +kernel⟩

theorem test_hypotheses_WorkIdResults : Issues testState (issueAt testState) ∧ Hinted (issueAt testState) none false false false
    ∧ Usable (issueAt testState) [vN 127] ∧ Usable (issueAt testState) (vPair 126) ∧ (126 : BitVec 8).getLsbD 0 = false :=
  ⟨issues_of (by decide +kernel), hinted_of (by decide +kernel), usable_of (by decide +kernel), usable_of (by decide +kernel), by decide⟩

/-- A launch with two barriers, co-resident or not. -/
def barrierState (co : Bool) : State :=
  machine (testGroup testArch) { testLaunch with kh := { testLaunch.kh with barriers := 2 }, lh := { testLaunch.lh with coresident := co } }

/-- A team barrier at the last slot, and a device barrier of a co-resident launch. -/
theorem test_hypotheses_BarrierArrivalResults :
    (Issues (barrierState false) (issueAt (barrierState false)) ∧ Hinted (issueAt (barrierState false)) none false false false
      ∧ (1 : BitVec 5).toNat < (issueAt (barrierState false)).e.l.kh.barriers
      ∧ clashing (barrierState false) (issueAt (barrierState false)).e 1 false 0 0 = []
      ∧ Usable (issueAt (barrierState false)) [sN 63] ∧ clashing (barrierState false) (issueAt (barrierState false)).e 1 true 0 3 = [])
    ∧ (Issues (barrierState true) (issueAt (barrierState true)) ∧ Hinted (issueAt (barrierState true)) none false false false
      ∧ (5 : BitVec 3).toNat < 6 ∧ (issueAt (barrierState true)).e.l.lh.coresident = true ∧ (issueAt (barrierState true)).e.t.spawned = false
      ∧ clashing (barrierState true) (issueAt (barrierState true)).e 1 false 5 0 = []) :=
  ⟨⟨issues_of (by decide +kernel), hinted_of (by decide +kernel), by decide +kernel, by decide +kernel, usable_of (by decide +kernel), by decide +kernel⟩,
    issues_of (by decide +kernel), hinted_of (by decide +kernel), by decide +kernel⟩

/-- Bins of 63 and of 6 threads. -/
def testArrival : Arrival :=
  { bins := [{ number := 0, launch := 1, entry := 4, threads := List.replicate 63 5, opened := 0, order := 0 },
      { number := 3, launch := 2, entry := 4, threads := List.replicate 6 5, opened := 0, order := 1 }]
    order := 2 }

theorem test_hypotheses_SpawnResults :
    (Issues testState (issueAt testState) ∧ Hinted (issueAt testState) none false false false ∧ (issueAt testState).e.l.lh.mode = 0
      ∧ Usable (issueAt testState) [.v 2, .v 3, sN 20] ∧ (2 : BitVec 6).getLsbD 0 = false
      ∧ ((issueAt testState).arch.getS 20).toNat < (issueAt testState).e.l.kh.codeSize ∧ ((issueAt testState).arch.getS 20).toNat % 4 = 0
      ∧ (issueAt testState).active ≠ 0 ∧ (testState.coreAt 0).spawnQueue.length + 2 ≤ 4096)
    ∧ (let x := issueAt (machineOf { testArch with frontier := [{ prio := 0x8000, pc := 0, mask := 0b1000, guard := 2 }] })
      x.active = 0 ∧ x.entry.mask ≠ 0)
    ∧ ((testArrival.bins.map (·.number)).Nodup ∧ (∀ b ∈ testArrival.bins, b.number < 16 ∧ b.threads.length < 64)
      ∧ (testArrival.bins.find? (fun b => b.launch == 1 && b.entry == 4)).map (·.threads.length) = some 63
      ∧ testArrival.bins.find? (fun b => b.launch == 1 && b.entry == 8) = none ∧ testArrival.bins.length < 16) :=
  ⟨⟨issues_of (by decide +kernel), hinted_of (by decide +kernel), by decide +kernel, usable_of (by decide +kernel), by decide +kernel⟩,
    by decide +kernel, by decide +kernel⟩

/-- The answer of a check, compared as data. -/
def answer (x : Except Nat Nat) : Nat × Nat := match x with
  | .ok n => (0, n)
  | .error c => (1, c)

theorem answers_ok {x : Except Nat Nat} {n : Nat} (h : answer x = (0, n)) : x = .ok n := by
  cases x <;> simp [answer] at h; rw [h]

theorem answers_error {x : Except Nat Nat} {c : Nat} (h : answer x = (1, c)) : x = .error c := by
  cases x <;> simp [answer] at h; rw [h]

/-- A TCB with the magic, no predecessor and a launch header at 0x40001100, at the address in s16. -/
def taskState : State := withBytes testState 0x40001000 (leBytes 8 0x54434233 ++ leBytes 8 0 ++ leBytes 8 0x40001100)

/-- An idle TCB is accepted; zeros are refused. -/
theorem test_hypotheses_TaskSubmissionResults :
    (Issues taskState (issueAt taskState) ∧ Hinted (issueAt taskState) none false false false ∧ Usable (issueAt taskState) (sN 63 :: sPair 16)
      ∧ (16 : BitVec 6).getLsbD 0 = false ∧ (issueAt taskState).e.g.wait = .none
      ∧ (∀ k, k < 64 → tcbByteAllowed taskState (issueAt taskState).e.accessor (((issueAt taskState).arch.getS64 16).toNat + k) = true)
      ∧ acceptTcb taskState 0 ((issueAt taskState).arch.getS64 16) = .ok 0)
    ∧ (Issues testState (issueAt testState) ∧ acceptTcb testState 0 ((issueAt testState).arch.getS64 16) = .error 1) :=
  ⟨⟨issues_of (by decide +kernel), hinted_of (by decide +kernel), usable_of (by decide +kernel), by decide, by decide +kernel, by decide +kernel,
      answers_ok (by decide +kernel)⟩, issues_of (by decide +kernel), answers_error (by decide +kernel)⟩

/-! ### Hypotheses met: system registers, traps and checks -/

/-- The machine in a determinism mode, whose log region is its lease. -/
def modeState (mode : Nat) : State :=
  machine (testGroup testArch) { testLaunch with lh := { testLaunch.lh with mode := mode, logBase := 0x40001000, logPages := 8 } }

/-- A replaying machine whose log's next entry of core 0 is a read of the time. -/
def replayState : State :=
  let s := modeState 2
  { s with launches := s.launches.map (fun l =>
      { l with log := [{ unit := 0, kind := 9, check := timeCheck (testGroup testArch) 3, chosen := 77 }] }) }

/-- The privileged launch writes the value in s4 and s5. -/
def writeState (lo hi : Nat) : State := scalarMachine [(4, lo), (5, hi)] [] []

theorem test_hypotheses_SystemRegisterResults :
    (Issues testState (issueAt testState) ∧ Hinted (issueAt testState) none false false false
      ∧ (sysListed 0x187 = true ∧ sysListed 0 = true ∧ sysListed 3 = true ∧ 0x187 ∉ [0x139, 0x185, 0x186]) ∧ (issueAt testState).e.l.privileged = true
      ∧ Usable (issueAt testState) (sPair 62) ∧ (62 : BitVec 6).getLsbD 0 = false ∧ Usable (issueAt testState) [sN 63]
      ∧ (issueAt testState).e.l.lh.mode = 0)
    ∧ (Issues (modeState 1) (issueAt (modeState 1)) ∧ (issueAt (modeState 1)).e.l.lh.mode = 1)
    ∧ (Issues replayState (issueAt replayState) ∧ (issueAt replayState).e.l.lh.mode = 2
      ∧ (nextEntry (issueAt replayState).e.l (issueAt replayState).e.g.homeCore).map (fun u => (u.kind, u.check))
        = some (9, timeCheck (issueAt replayState).e.g 3))
    ∧ (Issues (writeState 300 0) (issueAt (writeState 300 0)) ∧ Hinted (issueAt (writeState 300 0)) none false false false
      ∧ Usable (issueAt (writeState 300 0)) [sN 4] ∧ Usable (issueAt (writeState 300 0)) (sPair 4)
      ∧ 256 ≤ ((issueAt (writeState 300 0)).arch.getS 4).toNat ∧ ((issueAt (writeState 300 0)).arch.getS 4).toNat ≤ 65536
      ∧ ((issueAt (writeState 300 0)).arch.getS64 4).toNat % 4 = 0 ∧ (issueAt (writeState 300 0)).e.g.wait = .none
      ∧ (issueAt (writeState 300 0)).run.count = 0)
    ∧ (writeRange (writeState 0x5000 0) 0 0x12F 0x5000).toOption.isSome
    ∧ (commFormed 0x1000 = true ∧ commBusy (writeState 0x1000 0) 0 7 = false)
    ∧ ((xlinvBlock 0x50003000).isSome ∧ (∀ b, xlinvBlock 0x50003000 = some b → struckByBlock (writeState 0x50003000 0) 0 b = [])) :=
  ⟨⟨issues_of (by decide +kernel), hinted_of (by decide +kernel), by decide +kernel, by decide +kernel, usable_of (by decide +kernel), by decide,
      usable_of (by decide +kernel), by decide +kernel⟩,
    ⟨issues_of (by decide +kernel), by decide +kernel⟩, ⟨issues_of (by decide +kernel), by decide +kernel, by decide +kernel⟩,
    ⟨issues_of (by decide +kernel), hinted_of (by decide +kernel), usable_of (by decide +kernel), usable_of (by decide +kernel), by decide +kernel⟩,
    by decide +kernel, by decide +kernel, by decide +kernel, fun b hb => by
      rw [show xlinvBlock 0x50003000 = some (0x50003000, 4096) from by decide +kernel] at hb
      cases hb; decide +kernel⟩

/-- The handler's group, whose s59 holds an address. -/
def handlerState (pc : Nat) : State :=
  machine { testGroup { testArch with frontier := [testEntry], s := words [(59, pc), (60, 4)] } with handler := some testHandler } testLaunch

/-- A launch with no handler. -/
def bareState : State := machine (testGroup testArch) { testLaunch with kh := { testLaunch.kh with trap := 0xFFFFFFFF } }

theorem test_hypotheses_TrapAndReturnResults :
    (Issues testState (issueAt testState) ∧ Hinted (issueAt testState) none false false false ∧ MayTrap (issueAt testState) testEntry
      ∧ (testState.bar 0x1020).getLsbD (issueAt testState).e.l.ctx = false)
    ∧ (Issues bareState (issueAt bareState) ∧ (issueAt bareState).e.l.kh.trap = 0xFFFFFFFF ∧ (issueAt bareState).e.l.lh.mode = 0
      ∧ (issueAt bareState).e.g.outstanding = [])
    ∧ (Issues (handlerState 4) (issueAt (handlerState 4)) ∧ Hinted (issueAt (handlerState 4)) none false false false
      ∧ (issueAt (handlerState 4)).e.g.handler = some testHandler ∧ ((issueAt (handlerState 4)).arch.getS 59).toNat < (issueAt (handlerState 4)).e.l.kh.codeSize
      ∧ ((issueAt (handlerState 4)).arch.getS 59).toNat % 4 = 0)
    ∧ (Issues (handlerState 64) (issueAt (handlerState 64)) ∧ (issueAt (handlerState 64)).e.g.handler = some testHandler
      ∧ (issueAt (handlerState 64)).e.l.kh.codeSize ≤ ((issueAt (handlerState 64)).arch.getS 59).toNat ∧ (issueAt (handlerState 64)).e.l.lh.mode = 0
      ∧ (issueAt (handlerState 64)).e.g.outstanding = []) :=
  ⟨⟨issues_of (by decide +kernel), hinted_of (by decide +kernel), mayTrap_of (by decide +kernel), by decide +kernel⟩,
    ⟨issues_of (by decide +kernel), by decide +kernel⟩,
    ⟨issues_of (by decide +kernel), hinted_of (by decide +kernel), by decide +kernel⟩, issues_of (by decide +kernel), by decide +kernel⟩

theorem test_hypotheses_HintResults : Issues testState (issueAt testState) ∧ (issueAt testState).slot ≠ 63 ∧ (4 : BitVec 3).toNat < 5
    ∧ 5 ≤ (5 : BitVec 3).toNat ∧ (47 : BitVec 6).toNat < 48 ∧ 48 ≤ (62 : BitVec 6).toNat ∧ (62 : BitVec 6) ≠ 63
    ∧ MayTrap (issueAt testState) testEntry :=
  ⟨issues_of (by decide +kernel), by decide +kernel, by decide, by decide, by decide, by decide, by decide, mayTrap_of (by decide +kernel)⟩

/-- v3 is awaited, the launch is not privileged, and the run holds a LIMM and a SAT. -/
def checkState (r : Run) : State :=
  machine (testGroup { testArch with pending := [.v 3], run := r }) { testLaunch with privileged := false }

theorem test_hypotheses_DecoderCheckResults :
    (Issues (checkState { count := 2, sat := true, limm := some 3 }) (issueAt (checkState { count := 2, sat := true, limm := some 3 }))
      ∧ MayTrap (issueAt (checkState { count := 2, sat := true, limm := some 3 })) testEntry
      ∧ (issueAt (checkState { count := 2, sat := true, limm := some 3 })).slot ≠ 63
      ∧ (issueAt (checkState { count := 2, sat := true, limm := some 3 })).run.limm ≠ none
      ∧ (issueAt (checkState { count := 2, sat := true, limm := some 3 })).run.sat = true)
    ∧ (Issues (checkState {}) (issueAt (checkState {})) ∧ MayTrap (issueAt (checkState {})) testEntry
      ∧ Hinted (issueAt (checkState {})) none false true false ∧ Hinted (issueAt (checkState {})) none false false false
      ∧ (issueAt (checkState {})).e.regBad (vN 128) = true ∧ vN 3 ∈ (issueAt (checkState {})).arch.pending
      ∧ (1 : BitVec 6).getLsbD 0 = true ∧ sysListed 0x00A = false ∧ (sysListed 0x139 = true ∧ sysListed 0x13C = true)
      ∧ (issueAt (checkState {})).e.l.privileged = false) :=
  ⟨⟨issues_of (by decide +kernel), mayTrap_of (by decide +kernel), by decide +kernel⟩,
    issues_of (by decide +kernel), mayTrap_of (by decide +kernel), hinted_of (by decide +kernel), hinted_of (by decide +kernel), by decide +kernel⟩

/-- All traps are enabled; 0x1FFF times 0x1FFF overflows. -/
def flagState : State := testState.setSys 0 0 0x0300FF00

theorem test_hypotheses_ArithmeticTrapResults : Issues flagState (issueAt flagState) ∧ MayTrap (issueAt flagState) testEntry
    ∧ Usable (issueAt flagState) [vN 127, vN 8, vN 9] ∧ Hinted (issueAt flagState) none false false false
    ∧ (setActiveFlags (issueAt flagState) 127 (fun l => lnResult .ln16 (lnMul .ln16 (issueAt flagState).plain
        (lnVal .ln16 ((issueAt flagState).arch.getV 8 l).toNat) (lnVal .ln16 ((issueAt flagState).arch.getV 9 l).toNat)))
        (issueAt flagState).arch).2.filter (fun f => f.2 &&& trapEnables (issueAt flagState).amr != 0) ≠ [] :=
  ⟨issues_of (by decide +kernel), mayTrap_of (by decide +kernel), usable_of (by decide +kernel), hinted_of (by decide +kernel), by decide +kernel⟩

theorem test_hypotheses_FaultRecordAndEndOfTask :
    (((issueAt testState).faultRecord ((issueAt testState).trap testState 13 77 true 4) 17).cls = 13
      ∧ ((issueAt testState).faultRecord ((issueAt testState).trap testState 13 77 true 4) 17).code = 77
      ∧ ((issueAt testState).faultRecord ((issueAt testState).trap testState 13 77 true 4) 17).core = 0
      ∧ ((issueAt testState).faultRecord ((issueAt testState).trap testState 13 77 true 4) 17).flags = 17)
    ∧ (testState.launch? 1).isSome := by decide +kernel

/-! ### Hypotheses met: events -/

/-- The machine whose first group is g, for an event about it. -/
def eventState (g : Group) : State := { machine g testLaunch with issuer := none }

def parkedGroup : Group :=
  { testGroup { testArch with pending := [.v 3] } with wait := .parked 0 0x80000000 3, outstanding := [{ v := [(5, 7)], flags := [(0, 3)] }] }

def fenceGroup (due : Bool) : Group :=
  { testGroup testArch with
    fence := some { set := 5, waits := [77], snapshot := testArch, word := 0x12, rollbackDue := due }
    outstanding := [{ v := [(5, 7)], spec := true }, { v := [(6, 7)] }] }

def softGroup : Group := { testGroup testArch with soft := [{ set := 2, waits := [77] }, { set := 4, waits := [1] }] }

def agingGroup : Group := testGroup { testArch with aging := 4096 }

theorem test_hypotheses_ResultAndFenceEvents :
    ((eventState parkedGroup).env? 0 0).isSome
    ∧ (parkedGroup.outstanding[0]? = some { v := [(5, 7)], flags := [(0, 3)] } ∧ parkedGroup.fence = none
      ∧ (parkedGroup.outstanding.eraseIdx 0) = [] ∧ ∀ f ∈ ([(0, 3)] : List (Nat × BitVec 9)), f.2 &&& trapEnables ((eventState parkedGroup).amr 0) = 0)
    ∧ (((eventState softGroup).env? 0 0).isSome ∧ ({ set := 2, waits := [77] } : SoftFence) ∈ softGroup.soft ∧ numberLive (eventState softGroup) softGroup 77 = false)
    ∧ (((eventState (fenceGroup false)).env? 0 0).isSome ∧ (fenceGroup false).soft = [] ∧ (fenceGroup false).wait = .none
      ∧ numberLive (eventState (fenceGroup false)) (fenceGroup false) 77 = false)
    ∧ (((eventState (fenceGroup true)).env? 0 0).isSome ∧ testArch.issuing = some testEntry ∧ (0x12 : Word).getLsbD 31 = false)
    ∧ ((eventState { testGroup testArch with wait := .yield }).env? 0 0).isSome
    ∧ (((eventState agingGroup).env? 0 0).isSome ∧ agingGroup.arch.aged = false ∧ agingGroup.arch.run.count = 0 ∧ agingGroup.arch.aging = 4096
      ∧ 2 ≤ agingGroup.arch.frontier.length) := by decide +kernel

def heldRmw (lane : Nat) : Rmw := { op := 2, width := 4, operand := 5, cmp := 0, lane := lane }

/-- A group behind a fence with a held store, two lanes of a held ATOM and the units that it watches. -/
def heldGroup (watched : List Watch) : Group :=
  { testGroup testArch with
    fence := some { set := 5, waits := [77], snapshot := testArch, word := 0x80000012, watched := watched, held :=
      [.store (.mem .gddr 0x40001000 0x40001000) 0 [1, 2, 3, 4] 9, .atom (.mem .gddr 0x40001000 0x40001000) (heldRmw 0) 20 8,
       .atom (.mem .gddr 0x40001004 0x40001004) (heldRmw 1) 20 8] }
    outstanding := [{ v := [(5, 7)], spec := true }, { held := true, spec := true, atom := true }] }

/-- A read of lane 3 behind the store of the place where lane 1 of the ATOM writes. -/
def heldWatch : Watch := { unit := .line .gddr (0x40001004 / 128), lane := 3, forwarded := [], behind := 1 }

theorem test_hypotheses_fence_completion :
    [[], [heldWatch]].all (fun ks => (eventState (heldGroup ks)).env? 0 0 |>.any (fun e => e.g.soft == [] && e.g.wait == .none && e.l.lh.mode == 0
      && e.g.fence.any (fun w => !w.rollbackDue && w.part.isNone && w.held.length == 3))) = true
    ∧ numberLive (eventState (heldGroup [])) (heldGroup []) 77 = false
    ∧ ((0x80000012 : Word).getLsbD 31 = true ∧ (heldGroup []).outstanding.filter (fun r => !r.spec && !r.held) = []
      ∧ (fenceGroup true).outstanding.filter (fun r => !r.spec && !r.held) ≠ []) := by decide +kernel

/-- A held store and then the lanes of a held ATOM take their places in the order of their issue (R216): lane 0 observes what the store
left. A watched unit that lane 1 writes rolls the group back instead (R217). -/
theorem test_held_accesses :
    (match exec .fenceCompletion (eventState (heldGroup [])) with
      | .next t => t.groups.map (fun g => g.outstanding.map (fun r => r.v)) == [[[(5, 7)], [(1280, 0x04030201), (1281, 0)]]]
        && t.memory.read .gddr 0x40001000 8 == [6, 2, 3, 4, 5, 0, 0, 0]
      | _ => false) = true
    ∧ (match exec .fenceCompletion (eventState (heldGroup [heldWatch])) with
      | .next t => t.groups.map (fun g => g.fence.map (fun w => w.rollbackDue)) == [some true] && t.memory.read .gddr 0x40001000 1 == [0]
      | _ => false) = true := by decide +kernel

/-- The group is blocked on a push to the queue of queueState. -/
def blockedGroup : Group := { testGroup { testArch with s := words [(6, 77)] } with wait := .queue true 8 6, waitWord := 0x55 }

def blockedState (allowance : Nat) : State := { queueState 1 3 allowance with groups := [blockedGroup], issuer := none }

/-- The same with the blocked push issued again. -/
def resumedState (allowance : Nat) : State :=
  { (blockedState allowance).setGroup { blockedGroup with wait := .none } with issuer := some (0, 0), fetched := 0x55 }

def sleepGroup (due : List (BitVec 64)) : Group := { testGroup testArch with wait := .waitm [.line .gddr 5] 0 due, waitWord := 0x80000000 }

def barrierGroup : Group := { testGroup testArch with wait := .barrier 2, waitWord := 0x55 }

/-- The only group of the team has arrived at barrier 2. -/
def arrivedState : State := { eventState barrierGroup with teams := [{ placedTeam with barriers := [{ slot := 2, arrived := [(0, false, 0, 0, 0)] }] }] }

/-- Two groups of a pair, the first holding the extended set at a barrier. -/
def lendingState (w : Wait) (x : XSet) : State :=
  { eventState { barrierGroup with xset := .held } with
    groups := [{ barrierGroup with xset := .held },
      { testGroup testArch with slot := 1, index := 1, xset := x, wait := w, waitWord := 0x55, lentSave := [(64 * 129, 3)] }] }

/-- A sleeper in replay whose core's next entry names the write of tag 7. -/
def replayedWake : State :=
  let s := eventState (sleepGroup [7])
  { s with launches := s.launches.map (fun l =>
      { l with lh := { l.lh with mode := 2 }, log := [{ unit := 0, kind := 6, check := 0, chosen := 7 }] }) }

/-- What issues in the second slot of lendingState. -/
def partnerEnv (s : State) : Env := (s.env? 0 1).getD ⟨testGroup testArch, placedTeam, testLaunch⟩

theorem test_hypotheses_WaitEndingEvents :
    ((blockedState 2).group? 0 0 = some blockedGroup ∧ (blockedState 2).stalled = false ∧ queueCheck (resumedState 2) = true
      ∧ 0 < (queueHeader ((resumedState 2).readPlace (queuePlace (resumedState 2)) 16)).allowance)
    ∧ (((eventState (sleepGroup [7])).env? 0 0).isSome ∧ (sleepGroup [7]).arch.issuing = some testEntry
      ∧ (sleepGroup [7]).outstanding = [] ∧ (sleepGroup [7]).heldFlags = [] ∧ ([7] : List (BitVec 64)) ≠ []
      ∧ 1048576 ≤ (({ eventState (sleepGroup []) with tick := 1048576 } : State).tick - 0).toNat)
    ∧ ((arrivedState.env? 0 0).isSome ∧ instanceComplete arrivedState (envAt arrivedState) 2 0 0 = true
      ∧ (drainGroups arrivedState 1 ((participants arrivedState (levelSet arrivedState (envAt arrivedState) 0) 2 0 0).map (·.g))).2 = (true, none))
    ∧ (({ eventState (testGroup testArch) with departures := [{ launch := 1, slot := 2, generation := 0, clusters := [0, 1], next := 0, teams := [1] }] } :
        State).departures[0]?).map (fun d => (d.clusters, d.next)) = some ([0, 1], 0)
    ∧ (((lendingState .lockx .none).group? 0 0 = some { barrierGroup with xset := .held } ∧ lendable barrierGroup.wait = true
        ∧ barrierGroup.outstanding = [] ∧ barrierGroup.matrix = [])
      ∧ ((lendingState .lockx .none).env? 0 1).isSome
      ∧ ((partnerEnv (lendingState .lockx .none)).g.xset = .none ∧ (partnerEnv (lendingState .lockx .none)).g.wait = .lockx
        ∧ (partnerEnv (lendingState .lockx .none)).g.arch.issuing = some testEntry)
      ∧ ((lendingState .none .lent).env? 0 1).isSome
      ∧ ((partnerEnv (lendingState .none .lent)).g.xset = .lent ∧ (partnerEnv (lendingState .none .lent)).g.wait = .none)) := by decide +kernel

/-- Two teams at a BARL of level 1 with the registers s5 and s6, one on cluster 0 and one on cluster 1; the higher team key stands first. -/
def jointState (gen : Word) : State :=
  let bar (reg : Nat) : Barrier := { slot := 2, generation := gen, arrived := [(0, true, 1, 3, reg)] }
  let g (k i : Nat) : Group := { barrierGroup with core := k, team := i, homeCore := k, arch := { testArch with s := words [(5, 40 + k), (6, 90)] } }
  { eventState (g 0 1) with
    groups := [g 0 1, g 12 2]
    teams := [{ placedTeam with key := 9, barriers := [bar 5] }, { placedTeam with id := 2, key := 4, core := 12, barriers := [bar 6] }] }

def jointParticipants (gen : Word) : List Participant := participants (jointState gen) (jointState gen).teams 2 1 gen

theorem test_hypotheses_release :
    ((jointParticipants 1).map (fun p => (p.key, p.g.core, p.barl, p.op, p.reg)) = [(4, 12, true, 3, 6), (9, 0, true, 3, 5)]
      ∧ barlValue (jointParticipants 1) = 90
      ∧ ((jointParticipants 1).all (fun p => ((jointState 1).env? p.g.core p.g.slot).map (fun f => f.g) == some p.g)) = true)
    ∧ (departureOrder 1 (jointParticipants 1) = [1, 0] ∧ departureOrder 24 (jointParticipants 24) = [0, 1])
    ∧ (barrierGroup.arch.issuing = some testEntry ∧ barrierGroup.waitWord.getLsbD 31 = false) := by decide +kernel

/-- The release at generation 1: cluster 1 leaves at once, both groups have the maximum, both generations are 2 (R332, R333). -/
theorem test_release :
    let t := release (jointState 1) (envAt (jointState 1)) 2 1 (jointParticipants 1)
    t.groups.map (fun g => (g.wait == .departing 2, g.arch.getS 5, g.arch.getS 6)) = [(true, 90, 90), (false, 52, 90)]
    ∧ t.teams.map (fun u => u.barriers) = [[{ slot := 2, generation := 2 }], [{ slot := 2, generation := 2 }]]
    ∧ t.departures.map (fun d => (d.clusters, d.teams)) = [([0], [2, 1])] := by decide +kernel

theorem test_hypotheses_replayed_wake :
    (replayedWake.env? 0 0).map (fun e => (e.l.lh.mode, (nextEntry e.l 0).map (fun u => (u.kind, u.check, u.chosen)))) = some (2, some (6, 0, 7))
    ∧ (7 : BitVec 64) ∉ [(8 : BitVec 64)] ∧ replayedWake.event.flag = false := by decide +kernel

/-- A core with a bin, a spawned group to start, a thresher input or a block. -/
def coreState (k : Core) : State := { testState with issuer := none, cores := [(0, k)], tick := 70000, event := { num := 1 } }

def testBin : Bin := { number := 3, launch := 1, entry := 4, threads := [1, 2], opened := 0, order := 0 }

def testInput : ThrInput := { team := 1, group := 0, word := 0x40001000, id := 3, tag := 5 }

/-- The team has run for 2^20 of its cycles under a limit of one. -/
def longState : State := { (coreState {}).setSys 0 9 1 with teams := [{ placedTeam with watchdog := 1048576 }] }

/-- The only group waits for an entry of an empty queue. -/
def deadState : State :=
  { queueState 1 1 4 with groups := [{ blockedGroup with wait := .queue false 8 6 }], issuer := none, event := { num := 1 } }

/-- A team whose group has exited, and a launch with no team. -/
def retireState (teams : List Team) : State := { coreState {} with teams := teams, groups := [] }

theorem test_hypotheses_TeamAndThreadEvents :
    ((coreState { bins := [testBin] }).launch? 1 = some testLaunch ∧ testLaunch.lh.mode = 0
      ∧ (coreState { bins := [testBin] }).sys 0 8 ≤ (coreState { bins := [testBin] }).tick - testBin.opened)
    ∧ (lowestIndex 63 (heldSlots (coreState { spawnQueue := [{ launch := 1, entry := 4, threads := [64, 65] }] }) 0) = some 1
      ∧ testLaunch.held = false ∧ testLaunch.draining = false ∧ testLaunch.revoked = []
      ∧ fitsTeam { coreState {} with teams := [] } 0 { testLaunch.kh with loft := 16, barriers := 2 } = true)
    ∧ (coreState { resuming := [testBlock] }).stopsTeam 1 = false
    ∧ ((coreState { inputs := [testInput] }).team? 1 = some placedTeam
      ∧ inputFits { coreState { inputs := [testInput] } with launches := [{ testLaunch with kh := { testLaunch.kh with loft := 16 } }] }
        { inputs := [testInput] } testInput = true)
    ∧ 1048576 < ({ testBlock with steps := 1048577 } : ThrBlock).steps
    ∧ ((longState.team? 1).map (·.watchdog) = some 1048576 ∧ longState.sys 0 9 = 1 ∧ longState.launch? 1 = some testLaunch
      ∧ longState.groups.map (·.team) = [1])
    ∧ ((deadState.team? 1).any (queueDeadlocked deadState) = true)
    ∧ (teamDone (retireState [{ placedTeam with exited := [0] }]) { placedTeam with exited := [0] } = true ∧ placedTeam.unread = []
      ∧ testLaunch.lh.mode ≠ 2)
    ∧ (launchDone (retireState []) testLaunch = true
      ∧ successorList (retireState []) 0 ((hwRead (retireState []) 0 testLaunch.tcb.toNat 64).getD []) = []) := by decide +kernel

/-! ### Hypotheses met: engines -/

/-- A command whose descriptor is given, with the kind and fields in its word. -/
def commandOf (e : Engine) (kind fields : Nat) (desc : List Word) : Command :=
  { testCommand 50 with engine := e, word := BitVec.ofNat 64 (cmdWord (kind * 4096 + fields)), desc := desc }

/-- The machine with the command, bytes 5, 6, … at 0x40001000 and three indices at 0x40002000. -/
def engineState (c : Command) : State :=
  withBytes (withBytes { (machine { testGroup testArch with tokens := [{ reg := 20, cmd := 50, lanes := 3, pc := 0, word := 0x77 }] } testLaunch) with
      commands := [c], issuer := none } 0x40001000 ((List.range 64).map (fun k => BitVec.ofNat 8 (5 + k))))
    0x40002000 (leBytes 4 2 ++ leBytes 4 0 ++ leBytes 4 9)

def copyDesc (src dst n : Nat) : List Word := [BitVec.ofNat 32 src, 0, BitVec.ofNat 32 dst, 0, BitVec.ofNat 32 n, 0, 64, 0]

def gatherDesc (n : Nat) : List Word := [0x40001000, 0, 0x40003000, 0, BitVec.ofNat 32 n, 0x40002000, 0, 5]

/-- The element spans that a copy reads and writes. -/
def copySpans (c : Command) (sf df : Nat) : List Span :=
  (List.range (cmdCount c.desc)).flatMap (fun i =>
    elementSpans .load (cmdSource c.engine c.word c.desc) sf (descWord c.desc 5) i
      ++ elementSpans .store (cmdDest c.engine c.word c.desc) df (descWord c.desc 6) i)

/-- A launch that is done and has two successors: the first has two predecessors left, the second none. -/
def chainLaunch : Launch := { testLaunch with tcb := 0x40001000 }

def chainState : State :=
  let writes : List (Nat × List Byte) := [(0x40001006, leBytes 2 2), (0x40001018, leBytes 8 0x40001100), (0x40001100, leBytes 8 0x40002000),
    (0x40001108, leBytes 8 0x40002040), (0x40002000, leBytes 4 0x54434233), (0x40002008, leBytes 4 2), (0x40002040, leBytes 4 0x54434233)]
  writes.foldl (fun s w => withBytes s w.1 w.2) { retireState [] with launches := [chainLaunch] }

/-- The count of the first is now one, the second is not changed, and the launch's own status says so (R312). -/
theorem test_successors :
    launchDone chainState chainLaunch = true
    ∧ (match exec .launchRetirement chainState with
      | .next t => t.launches == [] && hwRead t 0 0x40002008 4 == some [1, 0, 0, 0] && hwRead t 0 0x40002048 4 == some [0, 0, 0, 0]
        && hwRead t 0 0x40001004 1 == some [3] && hwRead t 0 0x4000100C 4 == some [0x0C, 0, 0, 0]
      | _ => false) = true := by decide +kernel

/-- An input whose header names a thresher block starts one, and a block that ends leaves its entry and its tile (R278, R279). -/
def startedState : State :=
  withBytes { coreState { inputs := [testInput] } with launches := [{ testLaunch with kh := { testLaunch.kh with loft := 16 } }] }
    0x40001000 (leBytes 4 (0x40001000 + 15))

theorem test_thresher_input :
    (baleHeader ((leBytes 4 (0x40001000 + 15)) ++ List.replicate 12 0)).mode = 3
    ∧ (match exec .thresherInputTake startedState with
      | .next t => (t.teams.map (fun u => u.loft.map (fun x => (x.index, x.granules))) == [[(0, 16)]])
        && ((t.coreAt 0).block.map (fun b => (b.tile, b.bit)) == some (0, 0))
      | _ => false) = true
    ∧ ((endBlock startedState 0 { placedBlock with tile := 3, emitted := 4096 } 0 0).coreAt 0).results.map (fun r => r.entry) = [0x10000003]
    ∧ ((endBlock startedState 0 { placedBlock with tile := 3, emitted := 5 } 1 9).coreAt 0).results.map (fun r => r.entry) = [0x901 * 0x100000000 + 0x5FFFF] := by
  decide +kernel

def rawCopy (dst : Nat) : Command := commandOf (.copy 0) 0 0 (copyDesc 0x40001000 dst 8)

def convertCopy : Command := commandOf (.copy 0) 0 (1 * 65536 + 2 * 1048576) (copyDesc 0x40001000 0x40003000 4)

def blockCopy : Command := commandOf (.copy 0) 0 (2 * 65536 + 4 * 1048576) (copyDesc 0x40001000 0x40003000 32)

/-- A raw copy that fits and one that does not, a conversion, and a conversion to blocks. -/
theorem test_hypotheses_copies :
    (headCommand (engineState (rawCopy 0x40003000)) (.copy 0) = some (rawCopy 0x40003000) ∧ cmdKind (rawCopy 0x40003000).word = 0
      ∧ spanFailure (engineState (rawCopy 0x40003000)) (rawCopy 0x40003000).accessor (copySpans (rawCopy 0x40003000) 0 0) = none
      ∧ cmdField (rawCopy 0x40003000).word 16 4 = 0)
    ∧ (spanFailure (engineState (rawCopy 0x50003000)) (rawCopy 0x50003000).accessor (copySpans (rawCopy 0x50003000) 0 0)).map
        (fun f => (f.status, f.addr)) = some (1, 0x50003000)
    ∧ (spanFailure (engineState convertCopy) convertCopy.accessor (copySpans convertCopy 1 2) = none ∧ isBlock 1 = false ∧ isBlock 2 = false
      ∧ (cmdField convertCopy.word 16 4, cmdField convertCopy.word 20 4) = (1, 2))
    ∧ (spanFailure (engineState blockCopy) blockCopy.accessor (copySpans blockCopy 2 4) = none ∧ isBlock 4 = true
      ∧ (cmdField blockCopy.word 16 4, cmdField blockCopy.word 20 4) = (2, 4)) := by decide +kernel

/-- A block header at 0x40002800 of a zero-mask block whose one sector lies at 0x40001000, with more bits of its first word. -/
def blockState (bits n : Nat) : State :=
  withBytes { (engineState (commandOf (.copy 0) 1 0 (copyDesc 0x40002800 0x40003000 n))) with memory := testState.memory } 0x40002800
    (leBytes 4 (0x40001000 + bits))

/-- The header of the block. -/
def blockHeader (bits : Nat) : BaleHeader := baleHeader ((List.range 16).map (fun k => (blockState bits 1).memory.readByte .gddr (0x40002800 + k)))

def expandCommand (src n : Nat) : Command := commandOf (.copy 0) 1 0 (copyDesc src 0x40003000 n)

def blockPayload : List (Byte × Bool) := readStream (blockState 1 1) (expandCommand 0x40002800 1).accessor (.va 0x40001000) 32

/-- A zero-mask block and its mask, a header with mode 3, one that is not formed, and an unreadable one. The last hypotheses,
among them that the 4,096 bytes of each block may be written, are met together by a command of no blocks. -/
theorem test_hypotheses_expand :
    (headCommand (blockState 1 1) (.copy 0) = some (expandCommand 0x40002800 1) ∧ cmdKind (expandCommand 0x40002800 1).word = 1)
    ∧ ((blockHeader 1).formed = true ∧ (blockHeader 1).mode ≠ 3 ∧ maskFits (blockHeader 1) blockPayload = true)
    ∧ ((blockHeader 15).mode = 3 ∧ (blockHeader 16).formed = false)
    ∧ spanFailure (blockState 1 1) (expandCommand 0x40002800 1).accessor [{ kind := .load, addr := .va 0x40002800, bytes := 16 },
        { kind := .load, addr := .va 0x40001000, bytes := 32 }, { kind := .store, addr := .va 0x40003000, bytes := 1 },
        { kind := .store, addr := .va 0x40003FFF, bytes := 1 }] = none
    ∧ (spanFailure (blockState 1 1) (expandCommand 0x50002800 1).accessor [{ kind := .load, addr := .va 0x50002800, bytes := 16 }]).isSome
    ∧ (headCommand (blockState 1 0) (.copy 0) = some (expandCommand 0x40002800 0) ∧ cmdCount (expandCommand 0x40002800 0).desc = 0
      ∧ spanFailure (blockState 1 0) (expandCommand 0x40002800 0).accessor [] = none) := by decide +kernel

/-- A log-delta block of LN32 elements with deltas of one bit. -/
def deltaHeader : BaleHeader := { payload := 0, mode := 2, point := 0, bit4 := false, fmt := 3, sectors := 5, zero := 0, param := 1 }

def deltaPayload : List (Byte × Bool) := (leBytes 4 7).map (fun b => (b, false)) ++ [(0b101, false), (0, true)] ++ List.replicate 154 (0, false)

/-- What the engine-value clauses need: the formats, a payload of the header's length, elements with an exponent, codes of a block. -/
theorem test_hypotheses_engine_values :
    (deltaHeader.formed = true ∧ deltaPayload.length = 32 * deltaHeader.sectors ∧ cmdField convertCopy.word 16 4 = 1 ∧ isBlock 1 = false)
    ∧ ((0x4040 : Nat) < 2 ^ copyBits 6 ∧ (6, 1) ∈ [(5, 0), (6, 1), (7, 2), (8, 3)] ∧ (2, LnFmt.ln16) ∈ [(1, LnFmt.ln8), (2, .ln16), (3, .ln32)])
    ∧ (Elem.exponent 0 (.ln false 300 9) = some 0 ∧ (13, (2 : Int)) ∈ [((4 : Nat), (3 : Int)), (9, 8), (10, 15), (11, 4), (12, 2), (13, 2), (14, 0)])
    ∧ ((300 : Int) < 2 ^ (LnFmt.ln16.log - 1) ∧ (List.replicate 32 (7 : Nat)).all (fun v => decide (v < 2 ^ copyBits 13)) = true)
    ∧ ([[1], [2], [3]] : List (List Word)) ≠ [] := by decide +kernel

def nearest : Rounding := { mode := 0, inf := true, flush := true, r := 0 }

/-- The worked conversions of R270, and two deltas of R271: 7, 7 - 1, 6 + 0, 6 - 1, and a poisoned byte poisons element 9 and what follows. -/
theorem test_engine_values :
    elemToPlain 2 nearest false 0 (readElem 6 false 0x4040) = (0x032C, flIX)
    ∧ (let r := readBlock 13 false (List.replicate 16 0x33) 0x80
       (r.1[5]?).map (elemToPlain 2 nearest false r.2) = some (0x032C, flIX))
    ∧ (let es := List.replicate 32 (readElem 2 false 0x012C)
       (blockScale 13 0 es, (blockCodes 13 (fun _ => nearest) false 0 es).1.take 2, (blockCodes 13 (fun _ => nearest) false 0 es).2) = (0x7D, [7, 7], flIX))
    ∧ ((expandBlock deltaHeader deltaPayload).take 13 = (leBytes 4 7 ++ leBytes 4 6 ++ leBytes 4 6 ++ [5]).map (fun b => (b, false))
      ∧ ((expandBlock deltaHeader deltaPayload).drop 35).take 2 = [(0, false), (5, true)]) := by decide +kernel

def gatherOf (kind : Nat) (desc : List Word) : Command := commandOf (.gather 0) kind (2 * 65536) desc

/-- The gather, scatter or scatter-add heads its queue and no check fails. -/
def gatherCheck (c : Command) (kind : Nat) : Bool :=
  headCommand (engineState c) (.gather 0) == some c && cmdKind c.word == kind && (gatherFailure (engineState c) c).isNone

/-- Gathers, scatters and scatter-adds of four-byte elements: indices 2 and 0 are inside 5, index 9 is not. -/
theorem test_hypotheses_gathers :
    (gatherCheck (gatherOf 0 (gatherDesc 3)) 0 = true ∧ (indexOf (engineState (gatherOf 0 (gatherDesc 3))) (gatherOf 0 (gatherDesc 3)) 2).1 = 9)
    ∧ (gatherFailure (engineState (gatherOf 0 [0x50001000, 0, 0x40003000, 0, 3, 0x40002000, 0, 5]))
        (gatherOf 0 [0x50001000, 0, 0x40003000, 0, 3, 0x40002000, 0, 5])).isSome
    ∧ (gatherCheck (gatherOf 1 (gatherDesc 1)) 1 = true ∧ (indexOf (engineState (gatherOf 1 (gatherDesc 1))) (gatherOf 1 (gatherDesc 1)) 0).1 = 2)
    ∧ (gatherCheck (gatherOf 1 [0x40001000, 0, 0x40003000, 0, 1, 0x40002008, 0, 5]) 1 = true
      ∧ (indexOf (engineState (gatherOf 1 (gatherDesc 1))) (gatherOf 1 [0x40001000, 0, 0x40003000, 0, 1, 0x40002008, 0, 5]) 0).1 = 9)
    ∧ (gatherCheck (gatherOf 2 (gatherDesc 1)) 2 = true
      ∧ (engineState (gatherOf 2 (gatherDesc 1))).launch? (gatherOf 2 (gatherDesc 1)).launch = some testLaunch ∧ testLaunch.lh.mode = 0
      ∧ (locate (engineState (gatherOf 2 (gatherDesc 1))) (gatherOf 2 (gatherDesc 1)).accessor .atomic (scatterOp (gatherOf 2 (gatherDesc 1))) 4 4
        (.va 0x40003008)).toOption.isSome) := by decide +kernel

def collectiveOf (kind dst : Nat) : Command := commandOf .collective kind (2 * 2 ^ 18) (copyDesc 0x40001000 dst 4)

/-- A collective of two ranks over communicator 0. -/
def collectiveState (kind dst : Nat) : State :=
  { (engineState (collectiveOf kind dst)).setSys 0 0x130 0x40001000 with event := { ranks := [[1, 2, 3, 4], [5, 6, 7, 8]] } }

theorem test_hypotheses_collectives :
    ((headCommand (collectiveState 3 0x40003000) .collective).map (fun c => cmdKind c.word) = some 3)
    ∧ (headCommand (collectiveState 0 0x40003000) .collective = some (collectiveOf 0 0x40003000)
      ∧ (rankElements (collectiveState 0 0x40003000) (collectiveOf 0 0x40003000)).isSome
      ∧ spanFailure (collectiveState 0 0x40003000) (collectiveOf 0 0x40003000).accessor
        (collectiveSpans (collectiveState 0 0x40003000) (collectiveOf 0 0x40003000)) = none
      ∧ (collectiveState 0 0x40003000).event.nums = [])
    ∧ (spanFailure (collectiveState 1 0x50003000) (collectiveOf 1 0x50003000).accessor
        (collectiveSpans (collectiveState 1 0x50003000) (collectiveOf 1 0x50003000))).isSome := by decide +kernel

/-! ### Hypotheses met: the launch processor and the host -/

/-- SHAKE256, 32 bytes, of a code of one zero word, from an implementation of FIPS 202. -/
def zeroCodeDigest : List Byte :=
  [0xB4, 0xA2, 0x1E, 0x79, 0x39, 0xBE, 0xB1, 0x25, 0xBD, 0x3C, 0x10, 0x23, 0x7E, 0xD5, 0xEA, 0x31,
    0xB3, 0x1A, 0xEE, 0x7E, 0x64, 0x68, 0x73, 0x4F, 0x8D, 0x15, 0x8B, 0x4D, 0x50, 0xE9, 0x95, 0xD6]

theorem test_shake256 : shake256 32 [0, 0, 0, 0] = zeroCodeDigest := by decide +kernel

/-- A launch header of one team, and a kernel header of generation 3 for a code of one zero word, byte for byte. -/
def headerBytes : List Byte :=
  [51, 83, 72, 76, 1, 0, 0, 0, 0, 18, 0, 64, 0, 0, 0, 0, 6, 0, 0, 0, 0, 0, 0, 0, 0, 0, 0, 0, 0, 0, 0, 0, 0, 0, 0, 0, 0, 0, 0, 0, 0,
    0, 0, 0, 0, 0, 0, 0, 0, 0, 0, 3, 0, 0, 0, 0, 0, 0, 0, 0, 0, 0, 0, 0, 0, 0, 0, 0, 0, 0, 0, 0, 0, 0, 0, 0, 0, 0, 0, 0, 0, 0, 0, 0,
    0, 0, 0, 0, 0, 0, 0, 0, 0, 0, 0, 0, 0, 0, 0, 0, 0, 0, 0, 0, 0, 0, 0, 0, 0, 0, 0, 0, 0, 0, 0, 0, 0, 0, 0, 0, 0, 0, 0, 0, 0, 0, 0,
    0, 0, 0, 0, 0, 0, 0, 0, 0, 0, 0, 0, 0, 0, 0, 0, 0, 0, 0, 0, 0, 0, 0, 0, 0, 0, 0, 0, 0, 0, 0, 0, 0, 0, 0, 0, 0, 0, 0, 0, 0, 0, 0,
    0, 0, 0, 0, 0, 0, 0, 0, 0, 0, 0, 0, 0, 0, 0, 0, 0, 0, 0, 0, 0, 0, 0, 0, 0, 0, 0, 0, 0, 0, 0, 0, 0, 0, 0, 0, 0, 0, 0, 0, 0, 0, 0,
    0, 0, 0, 0, 0, 0, 0, 0, 0, 0, 0, 0, 0, 0, 0, 0, 0, 0, 0, 0, 0, 0, 0, 0, 0, 0, 0, 0, 0, 0, 0, 0, 0, 0, 0, 0, 0, 0, 0, 0, 0, 0, 0]

def kernelBytes : List Byte :=
  [51, 83, 72, 75, 3, 1, 0, 0, 0, 0, 0, 0, 255, 255, 255, 255, 4, 0, 0, 0, 8, 0, 0, 1, 0, 0, 0, 0, 0, 0, 0, 0, 0, 0, 0, 0, 0, 0, 0,
    0, 0, 0, 0, 0, 0, 0, 0, 0, 0, 0, 0, 0, 0, 0, 0, 0, 0, 0, 0, 0, 0, 0, 0, 0, 0, 0, 0, 0, 0, 0, 0, 0, 180, 162, 30, 121, 57, 190,
    177, 37, 189, 60, 16, 35, 126, 213, 234, 49, 179, 26, 238, 126, 100, 104, 115, 79, 141, 21, 139, 77, 80, 233, 149, 214, 0, 0, 0,
    0, 0, 0, 0, 0, 0, 0, 0, 0, 0, 0, 0, 0, 0, 0, 0, 0, 0, 0, 0, 0]

/-- The context has save regions of 145,152 pages. -/
def admissionState : State :=
  { State.reset with
    power := .running
    contexts := [(0, { sys := [(0x000, 0x03000000), (0x100, 0x40000001), (0x110, 0x80000), (0x120, 0x40000000), (0x180, 1), (0x181, 0x100000),
      (0x183, 0x41000000), (0x184, 145152)] })]
    memory := { gddr := [(0x100000, 0x01), (0x100002, 0x11), (0x110008, 0x0F), (0x11000B, 0x40), (0x110010, 0x17), (0x110013, 0x80)] } }

/-- What the two headers ask for. -/
def testCandidate : Launch :=
  { testLaunch with
    tcb := 0x40001000, header := 0x40001100, kh := (kernelHeader kernelBytes).getD placedKernel, lh := launchHeader headerBytes 0, unplaced := [0] }

/-- The launch that dispatch places next. -/
def dispatchState : State := { testState with groups := [], teams := [], launches := [{ testLaunch with unplaced := [0, 3] }], issuer := none }

/-- The checks of a candidate pass for the headers above; a TCB that names no header fails at the kernel header. -/
theorem test_hypotheses_LaunchProcessorEvents :
    (acceptTcb taskState 0 ((issueAt taskState).arch.getS64 16) = .ok 0 ∧ acceptTcb testState 0 ((issueAt testState).arch.getS64 16) = .error 1)
    ∧ (taskState.power = .running ∧ (readTcb testState 0 0x40001000).map (fun b => byteField b 4 1) = some 0
      ∧ (readTcb (withBytes testState 0x40001000 (leBytes 8 0x0154434233)) 0 0x40001000).map (fun b => byteField b 4 1) = some 1)
    ∧ ((kernelHeader kernelBytes).isSome ∧ sliceBytes testCandidate.kh.raw 0x48 32 = zeroCodeDigest ∧ headerChecks admissionState testCandidate = true
      ∧ (laterChecks admissionState [] testCandidate).toOption.any (fun l => !contextWaits admissionState l && !l.lh.coresident) = true
      ∧ admissionState.checkpointing = false ∧ admissionState.launches = [])
    ∧ (savedTeams dispatchState 1 = [] ∧ testLaunch.lh.coresident = false ∧ testLaunch.revoked = [] ∧ dispatchState.stopsLaunch testLaunch = false
      ∧ testLaunch.held = false ∧ testLaunch.draining = false
      ∧ (freshPlace dispatchState { testLaunch with unplaced := [0, 3] } 0).isSome) :=
  ⟨⟨test_hypotheses_TaskSubmissionResults.1.2.2.2.2.2.2, test_hypotheses_TaskSubmissionResults.2.2⟩, by decide +kernel, by decide +kernel, by decide +kernel⟩

/-- A request of a method about the only launch, or about none. -/
def requestState (method : Nat) (l : Launch) : State :=
  { testState with
    launches := [l], issuer := none
    requests := [{ tcb := testLaunch.tcb, ctx := 0, method := method, hold := true, bound := 5, start := 0 }] }

def testRequest (method : Nat) : Request := { tcb := testLaunch.tcb, ctx := 0, method := method, hold := true, bound := 5, start := 0 }

def restartableLaunch : Launch := { testLaunch with kh := { testLaunch.kh with restartable := true } }

/-- A pending invalidation of the launch. -/
def pendingState (l : Launch) (flag : Bool) : State :=
  { testState with
    launches := [l], issuer := none
    link := { pending := [{ addr := 5, management := false, struck := [(1, [0])] }] }
    event := { flag := flag, value := 0x50003000 } }

theorem test_hypotheses_PreemptionAndLeaseEvents :
    (requestLaunch { requestState 0 testLaunch with launches := [] } (testRequest 0) = none
      ∧ requestLaunch (requestState 1 testLaunch) (testRequest 1) = some testLaunch ∧ launchQuiet (requestState 1 testLaunch) 1 = true
      ∧ (saveLaunch (requestState 1 testLaunch) 1 true).isSome)
    ∧ (residentTeams (requestState 2 testLaunch) 1 ≠ [] ∧ testLaunch.draining = false
      ∧ residentTeams { requestState 2 testLaunch with teams := [] } 1 = [])
    ∧ (testLaunch.lh.mode ≠ 2 ∧ testLaunch.kh.restartable = false ∧ restartableLaunch.kh.restartable = true
      ∧ (modeState 2).launches.map (·.lh.mode) = [2])
    ∧ ((requestState 0 { testLaunch with revoked := [0] }).launch? 1 = some { testLaunch with revoked := [0] } ∧ testLaunch.revoking = []
      ∧ (leaseRegions testState testLaunch).all (regionResident testState 0 []) = false
      ∧ (leaseRegions admissionState testCandidate).all (regionResident admissionState 0 []) = true)
    ∧ ((requestState 0 { testLaunch with revoking := [1] }).launch? 1 = some { testLaunch with revoking := [1] }
      ∧ launchQuiet (requestState 0 { testLaunch with revoking := [1] }) 1 = true)
    ∧ ((pendingState testLaunch true).event.flag = true ∧ strickenQuiet (pendingState testLaunch true) [(1, [0])] = true
      ∧ (pendingState testLaunch true).link.pending.any (fun v => freshStrikes (pendingState testLaunch true) v == []) = true)
    ∧ ((pendingState testLaunch false).event.flag = false ∧ (pendingState testLaunch false).power = .running
      ∧ xlinvBlock 0x50003000 = some (0x50003000, 4096) ∧ (0x50003000 : Nat) % 4294967296 ≥ 16384 ∧ (0x2000 : Nat) < 16384) := by decide +kernel

/-- A save needs room in the pool. -/
theorem test_hypotheses_failed_save :
    (saveLaunch (requestState 1 { testLaunch with kh := { testLaunch.kh with tlm := 10 ^ 10 } }) 1 true).isNone = true := by decide +kernel

/-- The host's access to a register, or through BAR4. -/
def hostState (e : EventArgs) : State := { testState with issuer := none, event := e }

theorem test_hypotheses_HostRegisterEvents :
    (hostState {}).power = .running
    ∧ (State.reset.contextActive 63 = false ∧ activationReason State.reset 63 = 0
      ∧ activationReason (State.reset.setSys 63 0x181 1) 63 ≠ 0)
    ∧ ((hostState {}).contextActive 0 = true ∧ contextBusy (hostState {}) 0 = true
      ∧ contextBusy { hostState {} with launches := [] } 0 = false)
    ∧ (commBusy (hostState {}) 0 7 = false ∧ commFormed 0x40001000 = true ∧ commFormed 0x80000000 = false)
    ∧ ((writeRange (hostState {}) 0 0x12F 0x5000).toOption.isSome ∧ (writeRange (hostState {}) 0 0x100 0x5003).toOption.isNone)
    ∧ ((63 : Nat) < 64 ∧ (0x100000 + 4096 * 63 + 8 * 9 : Nat) = (0x13F048 : BitVec 64).toNat)
    ∧ (∀ k, k < 4 → (windowLeaf (hostState {}) 0 (0x40001000 + k) false).isSome = true ∧ (windowLeaf (hostState {}) 0 (0x40001000 + k) true).isSome = true) := by
  decide +kernel

/-- Twelve targets at port 6 of 1,024 GiB each. -/
def targetState (flag : Bool) : State :=
  { State.reset with
    power := .running
    memory := { host := (0x1000, 12) :: (List.range 12).flatMap (fun k => [(0x1008 + 16 * k + 8, 6), (0x1008 + 16 * k + 13, 4)]) }
    bar0 := [(0x1100, 0x1000)], event := { flag := flag } }

/-- An image too short for its header; the clauses of an image that verifies, of a chain's length and of a restored image rest on
the constants without a value of log entry 8 and are met by whatever values these have. -/
theorem test_hypotheses_TrustAndCheckpointEvents :
    imageReason 0 [] ≠ 0
    ∧ (anyActive (hostState {}) = true ∧ anyActive State.reset = false
      ∧ (fetchHost { State.reset with bar0 := [(0x2000, 0x1000), (0x2008, 0x2000)] } 0x1000 0x2000 4096).isSome)
    ∧ (fetchHost (hostState {}) 0 64 64).isSome
    ∧ (((targetList (targetState false)).map (·.gib)).sum = 12288 ∧ imageChunks ≤ 12288 ∧ (targetState false).checkpointing = false
      ∧ ((targetList (hostState {})).map (·.gib)).sum < imageChunks)
    ∧ ((targetState true).setBar 0x1110 1).checkpointing = true := by decide +kernel

theorem test_hypotheses_ErrorAndPowerEvents :
    (((hostState { num := 16 }).env? 0 0).isSome ∧ (testGroup testArch).outstanding = [] ∧ (testGroup testArch).arch.issuing = some testEntry)
    ∧ ((hostState { site := some (.mem .gddr 5) }).event.site = some (.mem .gddr 5)
      ∧ (hostState { site := some (.reg 0 0 (.v 5)) }).group? 0 0 = some (testGroup testArch)
      ∧ ({ hostState { site := some (.unit true) } with launches := [] } : State).launches = [])
    ∧ ((hostState { site := some (.table 0 0) }).event.site = some (.table 0 0)
      ∧ ((hostState { site := some (.table 0 0) }).env? 0 0).map (fun e => (e.g.fence.isSome, e.g.soft, e.l.lh.mode)) = some (false, [], 0)
      ∧ (({ testGroup testArch with soft := [{ set := 2, waits := [] }] } : Group).soft ≠ []))
    ∧ (({ hostState {} with tick := 10000 } : State).nextBid.toNat ≤ 10000 ∧ (11 : Nat) < 12 ∧ (1600 : Nat) ≤ (1600 : BitVec 64).toNat
      ∧ 11 ∉ (hostState {}).throttled ∧ 11 ∈ ({ hostState {} with throttled := [11] } : State).throttled ∧ (1760 : Nat) ≤ (1760 : BitVec 64).toNat) := by
  decide +kernel

/-! ### Hypotheses met: the values and orders that the statements add -/

/-- Sums that never reach the tables, that do, and that end at the cutoff; a width of 32; an entry below 2^9 and one below 2^22. -/
theorem test_hypotheses_sums : (4 : Nat) ≤ 4
    ∧ (-(2 ^ (LnFmt.ln16.log - 1)) ≤ (8191 : Int) ∧ (8191 : Int) < 2 ^ (LnFmt.ln16.log - 1)) ∧ (32 : Nat) ≤ 32
    ∧ ((-8192 : Int) ≤ 8191 ∧ LnFmt.ln16.cutoff ≤ ((8191 : Int) - -8192).toNat)
    ∧ ((8190 : Int) ≤ 8191 ∧ ((8191 : Int) - 8190).toNat < LnFmt.ln16.cutoff ∧ true ≠ false ∧ 0 < ((8191 : Int) - 8190).toNat)
    ∧ ((2 : Nat) ^ 9 ≤ 512 ∧ (2 : Nat) ^ 22 ≤ 2 ^ 22 ∧ (0 : Nat) ≠ 2 ^ 28)
    ∧ ((2 : Nat) ^ 8 ≤ 511 ∧ (511 : Nat) < 2 ^ (8 + 1) ∧ (8 : Nat) < 9 ∧ (2 : Nat) ^ 21 ≤ 2 ^ 22 - 1 ∧ (2 ^ 22 - 1 : Nat) < 2 ^ (21 + 1) ∧ (21 : Nat) < 22) := by
  decide +kernel

/-- The cases of LPOW: exponents 1.0 and −2.0 as integers, 2^(1/2) as none, and base −1.0, which is not one. -/
theorem test_hypotheses_powers : (∀ z, LnVal.fin false 0 ≠ .zero z) ∧ LnVal.zero false ≠ .fin false 0 ∧ LnVal.fin true 0 ≠ .fin false 0
    ∧ ((0 : Int) ≤ 0 ∧ (0 : Int) % 2 ^ 22 = 0) ∧ ¬((0 : Int) ≤ 2097152 ∧ (2097152 : Int) % 2 ^ 22 = 0)
    ∧ (-(2 ^ 29) ≤ (-536870912 : Int) ∧ (536870911 : Int) < 2 ^ 29) := by
  refine ⟨fun z h => LnVal.noConfusion h, ?_⟩
  decide +kernel

/-- Logs at both ends of a format, one with no fraction and one that is even; an argument of 2^n; a NaN code; results out of range. -/
theorem test_hypotheses_unary_values : (-(2 ^ (LnFmt.ln32.log - 1)) ≤ (-536870912 : Int) ∧ (536870911 : Int) < 2 ^ (LnFmt.ln32.log - 1))
    ∧ ((lnParts 9 1024).2.2 = 0 ∧ (1024 : Int) % 2 = 0 ∧ (1024 : Int) ≠ 0)
    ∧ ((127 : Nat) < 128 ∧ (2 : Nat) ^ 127 ≤ 2 ^ 127 ∧ (2 ^ 127 : Nat) < 2 ^ (127 + 1))
    ∧ (0x6001 < 2 ^ LnFmt.ln16.bits ∧ lnVal .ln16 0x6001 = .nan)
    ∧ ((2 : Int) ^ (LnFmt.ln16.log - 1) ≤ 8192 ∧ (-8193 : Int) < -(2 ^ (LnFmt.ln16.log - 1)))
    ∧ (LnFmt.ln16.frac ≤ LnFmt.ln32.frac ∧ LnFmt.ln8.frac < LnFmt.ln16.frac) ∧ ∀ n z, LnVal.nan ≠ .fin n z := by
  refine ⟨by decide +kernel, by decide +kernel, by decide +kernel, by decide +kernel, by decide +kernel, by decide +kernel, fun n z h => LnVal.noConfusion h⟩

/-- The exponents and fractions of binary32: a signalling NaN, an infinity, a zero, a subnormal and the greatest finite number. -/
theorem test_hypotheses_conversion_values : (4 : Nat) ≤ 4 ∧ (2 ^ 128 - 1 : Nat) < 2 ^ 128 ∧ (-5 : Int) ≠ 0
    ∧ IeeeFmt.mk 32 24 127 ∈ [IeeeFmt.mk 16 11 15, .mk 16 8 127, .mk 32 24 127, .mk 64 53 1023]
    ∧ ((255 : Nat) = 2 * 127 + 1 ∧ (1 : Nat) < 2 ^ 23 ∧ (1 : Nat) ≠ 0) ∧ ((0 : Nat) ≤ 255 ∧ (2 ^ 23 - 1 : Nat) < 2 ^ 23 ∧ (2 ^ 23 - 1 : Nat) ≠ 0)
    ∧ ((254 : Nat) ≠ 0 ∧ (254 : Nat) < 255) :=
  ⟨by decide, by decide +kernel, by decide, by simp, by decide +kernel⟩

/-- The tile engine has an operation of the kind before it, on an accumulator. -/
def kindState (k : MatrixKind) (acc done : Nat) (tw : Word) : State :=
  let o : MatrixOp :=
    { id := 9, acc := acc, kind := k, a := .tile 1, b := .tile 2, pb := false, mask := 3, side := List.replicate 512 3, tw := tw,
      done := done, total := done + 1 }
  machine { (issueAt accState).e.g with matrix := [o] } testLaunch

/-- An LMMA.lb8 into a chain, the second step of an LMMA into a narrow accumulator, an LMMS, and an IMMA. -/
theorem test_hypotheses_matrix_values :
    [kindState (.lmma 1 3 0) 1 0 0, kindState (.lmma 3 0 0) 2 1 0, kindState (.lmms 2 32) 1 1 0, kindState .imma 3 0 0x377].map (fun s =>
      ((s.env? 0 0).map (fun e => (e.g.heads.map (·.kind), e.g.heads.map (fun o => (e.g.acc o.acc).fmt)))))
      = [some ([.lmma 1 3 0], [.chain]), some ([.lmma 3 0 0], [.narrow]), some ([.lmms 2 32], [.chain]), some ([.imma], [.integer])]
    ∧ (3 : BitVec 64).getLsbD 63 = false ∧ (3 : BitVec 64).getLsbD 1 = true := by decide +kernel

/-- REDs of two words, the later one of a lower lane. -/
def laterRed (lane issue : Nat) : RedEntry := { testRed with lane := lane, issue := issue }

def manyReds : State := machine { testGroup testArch with reds := [laterRed 1 0, laterRed 0 1] } testLaunch

/-- The group holds eight undrained REDs, and lanes for a ninth. -/
def fullReds : State := machine { testGroup testArch with reds := (List.range 8).map (fun k => laterRed k k), redQuota := 8 } testLaunch

theorem test_hypotheses_drains : (Issues manyReds (issueAt manyReds) ∧ DrainsAs (issueAt manyReds) [laterRed 0 1, laterRed 1 0])
    ∧ DrainsAs (issueAt testState) []
    ∧ (Issues fullReds (issueAt fullReds) ∧ 8 ≤ (issueAt fullReds).e.g.redQuota ∧ (issueAt fullReds).active ≠ 0
      ∧ DrainsAs (issueAt fullReds) ((List.range 8).map (fun k => laterRed k k)))
    ∧ (testRed.place = .mem .gddr 0x40001000 0x40001000 ∧ (walk testState 0 0x40001000).any (fun f => leafPermits f .atomic 2) = true)
    ∧ (∀ tier a ia, (Place.loft 1 0 0) ≠ .mem tier a ia) ∧ (walk testState 0 0x1000).isNone = true := by
  refine ⟨⟨issues_of (by decide +kernel), ⟨by decide +kernel, by decide +kernel, by decide +kernel, by decide +kernel, fun _ => by decide +kernel⟩⟩,
    ⟨by decide +kernel, by decide +kernel, by decide +kernel, by decide +kernel, fun _ => by decide +kernel⟩,
    ⟨issues_of (by decide +kernel), by decide +kernel, by decide +kernel,
      ⟨by decide +kernel, by decide +kernel, by decide +kernel, by decide +kernel, fun _ => by decide +kernel⟩⟩,
    by decide +kernel, fun _ _ _ h => Place.noConfusion h, by decide +kernel⟩

/-- Lane 1 of the load, store or atomic on v4 goes to the address. -/
def laneState (address : Nat) : State :=
  machineOf { testArch with v := words (lanesOf 1 [5, 0xFFFFFFFF, 3, 9] ++ lanesOf 4 [0x40001000, address] ++ lanesOf 20 [7, 8]) }

/-- The machine with its groups past an incomplete fence. -/
def behindFence (held : List HeldAccess) (issued rollbacks : Nat) (s : State) : State :=
  { s with groups := s.groups.map (fun g => { g with
      fence := some { set := 1, waits := [3], snapshot := g.arch, word := 5, held := held, issued := issued, rollbacks := rollbacks } }) }

/-- The same past an incomplete fence with two held stores, of which the later covers a byte of the earlier. -/
def pastState (address issued rollbacks : Nat) : State :=
  behindFence [.store (.mem .gddr 0x40001000 0x40001000) 0 [1, 2, 3, 4] 9, .store (.mem .gddr 0x40001002 0x40001002) 1 [7] 9] issued rollbacks
    (laneState address)

def pastCheck (s : State) (w : FenceWin) : Bool :=
  s.issuer == some (0, 0) && (issueOf s 0 0).isSome && (issueAt s).core == 0 && (issueAt s).slot == 0 && (issueAt s).e.g.fence == some w
  && w.completing == false && (issueAt s).e.g.soft.isEmpty && (issueAt s).e.g.bad.isEmpty && (issueAt s).e.g.heldFlags.isEmpty

theorem past_of {s : State} {w : FenceWin} (h : pastCheck s w = true) (room : w.issued < 32 ∧ w.rollbacks < 4) : IssuesPast s (issueAt s) w := by
  simp only [pastCheck, Bool.and_eq_true, beq_iff_eq, List.isEmpty_iff] at h
  obtain ⟨⟨⟨⟨⟨⟨⟨⟨h1, h2⟩, h3⟩, h4⟩, h5⟩, h9⟩, h6⟩, h7⟩, h8⟩ := h
  refine ⟨by rw [h3, h4]; exact h1, ?_, h5, h6, h7, fun _ => h8, room, h9⟩
  rw [h3, h4]
  obtain ⟨x, hx⟩ := Option.isSome_iff_exists.mp h2
  simp [issueAt, hx]

/-- The window of pastState. -/
def pastWindow (address issued rollbacks : Nat) : FenceWin :=
  ((issueAt (pastState address issued rollbacks)).e.g.fence).getD { set := 1, waits := [], snapshot := testArch, word := 0 }

/-- Words past a fence: loads, stores and atomics that may go, a lane that fails, a window with 32 words and one with four rollbacks. -/
theorem test_hypotheses_past_fence :
    (IssuesPast (pastState 0x40001008 31 3) (issueAt (pastState 0x40001008 31 3)) (pastWindow 0x40001008 31 3)
      ∧ Hinted (issueAt (pastState 0x40001008 31 3)) none false false false ∧ Usable (issueAt (pastState 0x40001008 31 3)) [vN 127, vN 1, vN 4]
      ∧ Hinted (issueAt (pastState 0x40001008 31 3)) (some 0xFFFFF) false false false ∧ Usable (issueAt (pastState 0x40001008 31 3)) (dataRegs 20 2)
      ∧ Usable (issueAt (pastState 0x40001008 31 3)) [.v 4, .v 5]
      ∧ Reaches (pastState 0x40001008 31 3) (issueAt (pastState 0x40001008 31 3)) .load 16 false 4 (addrVector (issueAt (pastState 0x40001008 31 3)) 4)
        (placeOf (pastState 0x40001008 31 3) .load 16 false 4 (addrVector (issueAt (pastState 0x40001008 31 3)) 4))
      ∧ Reaches (pastState 0x40001008 31 3) (issueAt (pastState 0x40001008 31 3)) .store 16 false 4 (addrVector (issueAt (pastState 0x40001008 31 3)) 4)
        (placeOf (pastState 0x40001008 31 3) .store 16 false 4 (addrVector (issueAt (pastState 0x40001008 31 3)) 4))
      ∧ Usable (issueAt (pastState 0x40001008 31 3)) (vPair 4 ++ atomData 20 2 0 ++ atomDest 20 0)
      ∧ Reaches (pastState 0x40001008 31 3) (issueAt (pastState 0x40001008 31 3)) .atomic 2 false (atomBytes 0) (atomAddr 4 0 (issueAt (pastState 0x40001008 31 3)))
        (placeOf (pastState 0x40001008 31 3) .atomic 2 false (atomBytes 0) (atomAddr 4 0 (issueAt (pastState 0x40001008 31 3))))
      ∧ ((issueAt (pastState 0x40001008 31 3)).e.g.outstanding.filter (·.atom)).length < 8)
    ∧ (checkLane (pastState 0x50001000 0 0) (issueAt (pastState 0x50001000 0 0)) .load 16 false 4 (addrVector (issueAt (pastState 0x50001000 0 0)) 4 1)).toOption.isNone
    ∧ ((forwarded (pastWindow 0x40001008 31 3).held (.mem .gddr 0x40001002 0x40001002)).map (·.2) = some 7)
    ∧ [pastState 0x40001008 32 0, pastState 0x40001008 0 4].map (fun s => (issueAt s).e.g.fence.map (fun w => (w.issued, w.rollbacks)))
      = [some (32, 0), some (0, 4)] :=
  ⟨⟨past_of (by decide +kernel) (by decide +kernel), hinted_of (by decide +kernel), usable_of (by decide +kernel), hinted_of (by decide +kernel),
      usable_of (by decide +kernel), usable_of (by decide +kernel), reaches_of (by decide +kernel), reaches_of (by decide +kernel),
      usable_of (by decide +kernel), reaches_of (by decide +kernel), by decide +kernel⟩,
    by decide +kernel, by decide +kernel, by decide +kernel⟩

/-- A tile row and a record past a fence, with a held store over a byte of each. -/
def pastTile : State := behindFence [.store (.loft 1 0 3) 0 [9] 9] 0 0 (matrixState none)
def pastFill : State := behindFence [.store (.mem .gddr 0x40001010 0x40001010) 0 [8] 9] 0 0 fillState

theorem test_hypotheses_past_fence_rows_and_records :
    (pastCheck pastTile (((issueAt pastTile).e.g.fence).getD { set := 1, waits := [], snapshot := testArch, word := 0 }) = true
      ∧ Hinted (issueAt pastTile) none false false false ∧ Usable (issueAt pastTile) (xReads 34 ++ [.t 7])
      ∧ (checkDesc pastTile (issueAt pastTile).e.accessor ((issueAt pastTile).arch.getS64 4) 1 32 [0] (laneList (issueAt pastTile).active)).isNone
      ∧ (laneList (issueAt pastTile).active).all (fun r => (rowChunks ((issueAt pastTile).arch.getS64 4) 1 0 r 32).all (fun c =>
        (handlePlace pastTile (issueAt pastTile).e.accessor 0 c.1 c.2).isSome))
      ∧ (issueAt pastTile).e.g.usesTile 7 = false ∧ 7 ∉ (issueAt pastTile).arch.tPoison)
    ∧ (Hinted (issueAt pastFill) (some 0xFFFFF) false false false ∧ Usable (issueAt pastFill) (vN 1 :: spillRegs 16 false)
      ∧ recordPlaces pastFill .load 20 = [(.mem .gddr 0x40001000 0x40001000, 16), (.mem .gddr 0x40001010 0x40001010, 4)]
      ∧ (checkRecord pastFill (issueAt pastFill).e.accessor .store
        (spillRecord ((List.range 64).map ((issueAt pastFill).arch.getV 1))).length (spillAddr 16 false (issueAt pastFill))).toOption.isSome) :=
  ⟨⟨by decide +kernel, hinted_of (by decide +kernel), usable_of (by decide +kernel), by decide +kernel, by decide +kernel, by decide +kernel,
      by decide +kernel⟩,
    hinted_of (by decide +kernel), usable_of (by decide +kernel), by decide +kernel, by decide +kernel⟩

/-- A ramp over two pages. -/
def rampEntry : List Word := [0xD0000000, 0, 2, 1, 5, 0, 1, 0]

/-- A ramp whose base is a page, an entry of kind 0 over an installed window, and a mask, a rotary and a hash entry. -/
theorem test_hypotheses_windows :
    (rampEntry.length = 8 ∧ (7 : Nat) < 8 ∧ field (rampEntry.getD 3 0).toNat 0 8 ≠ 0 ∧ entryBase rampEntry % 4096 = 0
      ∧ rangeKind (installWindow testState 0 7 rampEntry) 0 8 = 2)
    ∧ [0x101, 0x2202, 0x203, 4].map (fun w : Word => (field w.toNat 0 8, field w.toNat 8 3)) = [(1, 1), (2, 2), (3, 2), (4, 0)]
    ∧ (field (0x2202 : Word).toNat 12 2 < 3 ∧ (2, LnFmt.ln32) ∈ [(0, LnFmt.ln8), (1, .ln16), (2, .ln32)]) := by decide +kernel

/-- Two holders of REDs on a tile: a TFREE of it drains them first. -/
def sharedTile : State :=
  { tileMachine { testArch with s := words [(4, 0)] } with
    groups := [{ testGroup { testArch with s := words [(4, 0)] } with reds := [{ testRed with place := .loft 1 0 8 }] }] }

theorem test_hypotheses_shared_free : Issues sharedTile (issueAt sharedTile) ∧ handleBusy sharedTile (issueAt sharedTile).e 0 = false
    ∧ handleBound sharedTile (issueAt sharedTile).e 0 = false
    ∧ ((handleGroups sharedTile (issueAt sharedTile).e 0).filter (fun g => (g.reds ++ g.batch).any (fun e => e.place.within (issueAt sharedTile).e 0))).length = 1
    ∧ (drainGroups sharedTile 1 (handleGroups sharedTile (issueAt sharedTile).e 0) (some (fun e => e.place.within (issueAt sharedTile).e 0))).2 = (true, none) :=
  ⟨issues_of (by decide +kernel), by decide +kernel, by decide +kernel, by decide +kernel, by decide +kernel⟩

/-- Registers 3 of context 5 hold the range; another range at 0x9000. -/
def rangeState (kind : BitVec 64) : State :=
  ((((State.reset.setSys 5 0x103 kind).setSys 5 0x113 4).setSys 5 0x123 0x8000).setSys 5 0x107 0x9001).setSys 5 0x117 2

/-- A free and a taken place for the range, one out of layout, a range that is a window's, and one that a lease pins. -/
theorem test_hypotheses_ranges :
    (rangeKind (rangeState 0) 5 3 = 0 ∧ rangePinned (rangeState 0) 5 3 = false ∧ rangeBytes (rangeState 0) 5 3 = 0x4000
      ∧ 0x40000000 + rangeBytes (rangeState 0) 5 3 ≤ 2 ^ 64 ∧ rangeIa (rangeState 0) 5 3 + 0x4000 ≤ 2 ^ 52
      ∧ ((rangeState 0).sys 5 0x123).toNat % 8 = 0
      ∧ (List.range 16).all (fun j => j == 3 || rangeKind (rangeState 0) 5 j == 0 || (j == 7 && rangeBase (rangeState 0) 5 7 == 0x9000)) = true)
    ∧ (0x6000 + rangeBytes (rangeState 0) 5 3 > 0x9000 ∧ (0x6001 : BitVec 64).toNat % 4 = 1)
    ∧ ((0x1005 : BitVec 64).toNat / 4 % 2 ^ 10 ≠ 0 ∧ rangeKind (rangeState 0x5001) 5 3 = 1 ∧ rangeKind (rangeState 0x5002) 5 3 = 2)
    ∧ rangePinned testState 0 0 = true
    ∧ ((1 : Nat) < 2 ^ 40 ∧ (2 ^ 52 - 4096 : Nat) / 8 % 2 ^ 9 = 0 ∧ (8 : Nat) / 8 % 2 ^ 9 ≠ 0)
    ∧ (findRange testState 0 0x40001000 = some 0 ∧ inLease testState 1 0 0x40001000 = true ∧ findRange testState 0 0x1000 = none) := by
  decide +kernel

/-- Tables with a leaf at each level, and with the entry of 64 KiB, for one intermediate address. -/
def walkState (e2 e1 big e0 : Nat) : State :=
  [(0x100018, 0x200001), (0x200038, e2), (0x300048, e1), (0x400100, big), (0x400128, e0)].foldl (fun s p => withBytes s p.1 (leBytes 8 p.2))
    (testState.setSys 5 0x181 0x100000)

def walkAddress : Nat := 3 * 2 ^ 39 + 7 * 2 ^ 30 + 9 * 2 ^ 21 + 2 * 2 ^ 16 + 5 * 4096 + 77

theorem test_hypotheses_walks : [walkState 0x8000001F 0 0 0, walkState 0x300001 0xA0000F 0 0, walkState 0x300001 0x400001 0x60020F 0,
      walkState 0x300001 0x400001 0 0x50001F, walkState 0x300001 0x400001 0 0x50005F, walkState 0x300001 0 0 0].map (fun s =>
        (walk s 5 walkAddress).map (fun f => (f.tier, f.size)))
      = [some (.gddr, 0x40000000), some (.gddr, 0x200000), some (.gddr, 0x10000), some (.gddr, 4096), some (.host, 4096), none] := by decide +kernel

/-- A lane that is not aligned and one that no lease holds, after a lane that completes. -/
theorem test_hypotheses_lane_faults :
    (Issues (laneState 0x40001009) (issueAt (laneState 0x40001009)) ∧ MayTrap (issueAt (laneState 0x40001009)) testEntry
      ∧ (issueAt (laneState 0x40001009)).e.g.wait = .none ∧ Hinted (issueAt (laneState 0x40001009)) (some 0xFFFFF) false false false
      ∧ Usable (issueAt (laneState 0x40001009)) (dataRegs 20 2) ∧ oddData 20 2 = false ∧ Usable (issueAt (laneState 0x40001009)) [.v 4, .v 5]
      ∧ ((issueAt (laneState 0x40001009)).failures (laneState 0x40001009) .load 16 4 (addrVector (issueAt (laneState 0x40001009)) 4)).map (fun f => (f.1, f.2.1)) = [(1, 5)]
      ∧ ((issueAt (laneState 0x40001009)).passes (laneState 0x40001009) .load 16 4 (addrVector (issueAt (laneState 0x40001009)) 4)).map (·.1) = [0])
    ∧ (Issues (laneState 0x50001000) (issueAt (laneState 0x50001000))
      ∧ ((issueAt (laneState 0x50001000)).failures (laneState 0x50001000) .store 16 4 (addrVector (issueAt (laneState 0x50001000)) 4)).map (fun f => (f.1, f.2.1)) = [(1, 4)]
      ∧ (laneState 0x50001000).fetched.getLsbD 31 = false)
    ∧ (atomIllegal 2 0 = false ∧ atomPairBad 4 = false ∧ atomDataBad 20 2 0 = false
      ∧ Usable (issueAt (laneState 0x50001000)) (vPair 4 ++ atomData 20 2 0 ++ atomDest 20 0)
      ∧ ((issueAt (laneState 0x50001000)).failures (laneState 0x50001000) .atomic 2 4 (atomAddr 4 0 (issueAt (laneState 0x50001000)))).map (fun f => (f.1, f.2.1)) = [(1, 4)]
      ∧ (issueAt (laneState 0x50001000)).e.g.redQuota < 8 ∧ (issueAt (laneState 0x50001000)).e.g.batch = []
      ∧ ((laneState 0x50001000).env? 0 0).isSome) :=
  ⟨⟨issues_of (by decide +kernel), mayTrap_of (by decide +kernel), by decide +kernel, hinted_of (by decide +kernel), usable_of (by decide +kernel),
      by decide, usable_of (by decide +kernel), by decide +kernel, by decide +kernel⟩,
    ⟨issues_of (by decide +kernel), by decide +kernel, by decide +kernel⟩,
    by decide, by decide, by decide, usable_of (by decide +kernel), by decide +kernel, by decide +kernel, by decide +kernel, by decide +kernel⟩

/-- The group waits for an entry of the named queue, and for a thresher's result that is there. -/
def popState : State := { blockedState 2 with groups := [{ blockedGroup with wait := .queue false 8 6 }] }

def resultState : State :=
  { eventState { blockedGroup with wait := .queue false 4 6 } with cores := [(0, { results := [{ team := 1, group := 0, entry := 77 }] })] }

theorem test_hypotheses_blocked_pops : (popState.group? 0 0 = some { blockedGroup with wait := .queue false 8 6 } ∧ popState.stalled = false
      ∧ (queueHeader ((resumedState 2).readPlace (queuePlace (resumedState 2)) 16)).allowance < 4
      ∧ (resumedState 2).poisonedPlace ((queuePlace (resumedState 2)).add 24) 8 = false)
    ∧ (resultState.group? 0 0 = some { blockedGroup with wait := .queue false 4 6 }
      ∧ ((resultState.coreAt 0).results.find? (fun y => y.team == 1 && y.group == 0)).map (·.entry) = some 77) := by decide +kernel

/-- Three elements of a scatter and of a scatter-add; index 9 is not inside 5. -/
theorem test_hypotheses_scatters : (gatherCheck (gatherOf 1 (gatherDesc 3)) 1 = true ∧ gatherCheck (gatherOf 2 (gatherDesc 3)) 2 = true)
    ∧ gatherBytes (gatherOf 2 (gatherDesc 3)).word = 4
    ∧ (List.range 3).map (fun k => (indexOf (engineState (gatherOf 2 (gatherDesc 3))) (gatherOf 2 (gatherDesc 3)) k).1) = [2, 0, 9]
    ∧ [0x40003008, 0x40003000].map (fun a => (locate (engineState (gatherOf 2 (gatherDesc 3))) (gatherOf 2 (gatherDesc 3)).accessor .atomic
        (scatterOp (gatherOf 2 (gatherDesc 3))) 4 4 (.va a)).toOption.isSome) = [true, true]
    ∧ (rankElements (collectiveState 0 0x40003000) (collectiveOf 0 0x40003000)).isSome = true
    ∧ (rankElements { collectiveState 0 0x40003000 with event := {} } (collectiveOf 0 0x40003000)).isNone = true := by decide +kernel

/-- A team key that returns to the keys not yet placed. -/
theorem test_hypotheses_unplaced : [0, 3, 7].Pairwise (fun a b : Nat => a ≤ b) ∧ (acceptTcb testState 0 0x40001000).toOption.isNone = true := by
  decide +kernel

/-- A patch to start, one refused, one busy, and one that completes. -/
theorem test_hypotheses_patches :
    ((hostState { value := 0x3FFF }).event.value.toNat % 4294967296 < 16384 ∧ ((hostState {}).context 0).patch = none
      ∧ (patchObject (hostState {}) 0 (0, 4)).isNone = true)
    ∧ (({ hostState { flag := true } with contexts := [(0, { (hostState {}).context 0 with patch := some { target := 8, kernel := 0x40001000, code := 4, bytes := List.replicate 4 (1, false) } })] } :
        State).context 0).patch.isSome = true
    ∧ (restartableLaunch.lh.coresident = false ∧ ({ addr := 5, management := false, struck := [(1, [0])] } : Invalidation).management = false) := by
  decide +kernel

/-- The host writes 64 bytes through BAR4. -/
def barWrite : State := hostState { flag := true, addr := 0x40001000, bytes := List.replicate 64 7 }

/-- A write of two sectors through BAR4, and offsets of BAR2 with no register. -/
theorem test_hypotheses_bar4_write :
    (barWrite.event.flag = true ∧ barWrite.event.addr.toNat + barWrite.event.bytes.length ≤ 4398046511104
      ∧ (List.range 64).all (fun k => (windowLeaf barWrite 0 (0x40001000 + k) true).isSome) = true)
    ∧ (5 : Nat) % 4096 ≠ 8 ∧ (4096 + 16 : Nat) % 4096 ≠ 8 := by decide +kernel

/-- The mailboxes with jobs under way, and their addresses. -/
def jobState (jobs : List MailboxJob) : State :=
  { State.reset with
    link := { State.reset.link with jobs := jobs }
    bar0 := [(0x2000, 0x1000), (0x2008, 0x2000), (0x3000, 0x1000), (0x3008, 0x2000), (0x3010, 0)] }

/-- The mailboxes free and busy. -/
theorem test_hypotheses_mailboxes : ((jobState []).link.jobs = [] ∧ (jobState []).power ≠ .shutdown)
    ∧ (.install ∈ (jobState [.install]).link.jobs ∧ anyActive (jobState [.install]) = false
      ∧ (fetchHost (jobState [.install]) 0x1000 0x2000 4096).isSome)
    ∧ (.report ∈ (jobState [.report, .chain]).link.jobs ∧ .chain ∈ (jobState [.report, .chain]).link.jobs
      ∧ (fetchHost (jobState [.report, .chain]) 0x1000 64 64).isSome)
    ∧ ((jobState []).checkpointing = false ∧ anyActive (jobState []) = false) := by decide +kernel

/-- The device runs a launch whose group reads a table at its word. -/
theorem test_hypotheses_table_error : (hostState { site := some (.table 0 0) }).event.site = some (.table 0 0)
    ∧ ((hostState {}).env? 0 0).isSome = true ∧ (testGroup testArch).fence = none ∧ (testGroup testArch).soft = [] ∧ (testGroup testArch).wait = .none
    ∧ testLaunch.lh.mode = 0 ∧ (testGroup testArch).outstanding = [] ∧ (testGroup testArch).arch.issuing = some testEntry := by decide +kernel

/-! ### Hypotheses met: the machine as a whole -/

/-- The only group's slot may issue IADD v3, v1, v2. -/
def stepState : State := placeWords State.reset 32 0x01030102

theorem test_hypotheses_StepRunsDecodedInstruction : (issueOf stepState 0 0).isSome ∧ settleDue (issueAt stepState).e.g = false
    ∧ (issueAt stepState).e.g.wait = .none ∧ trapWaits (issueAt stepState).e.g = false ∧ (issueAt stepState).e.g.xset ≠ .lent
    ∧ stepState.stops (issueAt stepState).e.t (issueAt stepState).e.l = false ∧ agedReady (issueAt stepState).e.g = false
    ∧ patchHolds stepState (issueAt stepState).e.l ((issueAt stepState).arch.wordPc (issueAt stepState).entry).toNat = false
    ∧ fetchAt stepState (issueAt stepState).e.l ((issueAt stepState).arch.wordPc (issueAt stepState).entry).toNat = .word 0x01030102
    ∧ decodeGen (issueAt stepState).e.l.kh.gen 0x01030102 = .ok (.iadd 3 1 2)
    ∧ (stepState.groups = [(issueAt stepState).e.g] ∧ stepState.cores = [] ∧ stepState.agenda = [] ∧ stepState.power = .running
      ∧ stepState.turn = false ∧ (issueAt stepState).e.g.fence = none) := by
  refine ⟨by decide +kernel, by decide +kernel, by decide +kernel, by decide +kernel, by decide +kernel, by decide +kernel, by decide +kernel,
    by decide +kernel, rfl, rfl, ?_⟩
  decide +kernel

/-- The same a clock after another state. -/
theorem test_hypotheses_clock : (issueOf (passTime stepState) 0 0).isSome ∧ (passTime stepState).groups = [(issueAt (passTime stepState)).e.g]
    ∧ ((passTime stepState).turn = false ∧ (passTime stepState).power = .running)
    ∧ (match exec (.iadd 3 1 2) { passTime stepState with issuer := some (0, 0), fetched := 0x01030102 } with
      | .next t => !t.stalled
      | _ => false) = true := by decide +kernel

/-- A step of a canonical state that answers a next state. -/
theorem test_hypotheses_StepKeepsMemoryCanonical : (State.reset.withFetchWord 32 0x01030102).memory.wf = true
    ∧ smCanonical (0 : Byte) (State.reset.withFetchWord 32 0x01030102).peers = true
    ∧ (match step (State.reset.withFetchWord 32 0x01030102) with
      | .next _ => true
      | _ => false) = true := by decide +kernel

theorem test_hypotheses_DecodeOfEncode : (Instr.iadd 255 255 255).wellFormed = true ∧ (encode true (.iadd 255 255 255)).isSome = true := by decide

/-! ### Behaviour: the spec's worked examples -/

/-- The machine after an instruction; itself where the instruction stops. -/
def after (i : Instr) (s : State) : State :=
  match exec i s with
  | .next t => t
  | _ => s

/-- The registers of the group after an instruction with some lanes active, from vector registers, with a run. -/
def archAfter (i : Instr) (mask : LaneMask) (vs : List (Nat × Nat)) (r : Run) : Arch :=
  (envAt (after i (machineOf { v := words vs, run := r, frontier := [{ prio := 0x8000, pc := 8, mask := mask, guard := 63 }] }))).g.arch

/-- Some lanes of a vector register after it. -/
def lanesAfter (i : Instr) (mask : LaneMask) (vs : List (Nat × Nat)) (n k : Nat) : List Nat :=
  (List.range k).map (fun l => ((archAfter i mask vs {}).getV n l).toNat)

/-- One lane under a rounding mode. -/
def rounded (i : Instr) (m : BitVec 3) (vs : List (Nat × Nat)) (n : Nat) : Nat :=
  ((archAfter i 1 vs { count := 1, rnd := some m }).getV n 0).toNat

/-- R94's table: 1.0 + 0.5 in LN16, with modes 0, 1 and 2. -/
theorem test_ladd_one_half : [0, 1, 2].map (fun m => rounded (.laddLn16 3 1 2) m [(64, 0), (128, 0x3E00)] 3) = [0x012C, 0x012B, 0x012C] := by
  decide +kernel

/-- The table of R75: square roots and reciprocal square roots of 0x0003 in modes 0 to 3. -/
theorem test_roots : [0, 1, 2, 3].map (fun m => rounded (.lsqrt 3 1 1) m [(64, 3)] 3) = [2, 1, 2, 1]
    ∧ [0, 1, 2, 3].map (fun m => rounded (.lrsqrt 3 1 1) m [(64, 3)] 3) = [0x3FFE, 0x3FFE, 0x3FFF, 0x3FFE] := by decide +kernel

/-- The example of R149: LEXP.ln32 of 1.0. -/
theorem test_lexp : [0, 1, 2, 3].map (fun m => rounded (.lexp 3 1 2) m [(64, 0)] 3) = [0x005C551E, 0x005C551D, 0x005C551E, 0x005C551D] := by
  decide +kernel

/-- The example of R160: 3.0 of binary32 to LN16, which raises IX. -/
theorem test_fcvt : [0, 1, 2].map (fun m => rounded (.fcvtToLn 3 1 1 2) m [(64, 0x40400000)] 3) = [0x032C, 0x032B, 0x032C] := by decide +kernel

/-- The example of R144: LUNPK.ln16 of byte 2 of a packed word. -/
theorem test_unpack : lanesAfter (.lunpk2 3 1 1) 1 [(64, 0x009B0000)] 3 1 = [0x86C0] := by decide +kernel

/-- LSCALE.ln16 of 2.0 by −17, the smallest code. -/
theorem test_scale_down : lanesAfter (.lscaleLn16 3 1 2) 1 [(64, 0x0200), (128, 0xFFFFFFEF)] 3 1 = [0x2000] := by decide +kernel

/-- The octant of R128: lanes 5 and 7 are inactive and keep their values. -/
def octantLanes : List (Nat × Nat) := lanesOf 11 [0, 0x8000, 0x3E00, 0x3E00, 0x0200, 1, 0xC000, 1]

theorem test_reduction : lanesAfter (.xred 10 11 true 0 8) 0b01011111 octantLanes 10 8
      = [0x032C, 0x032C, 0x032C, 0x032C, 0x032C, 0, 0x032C, 0]
    ∧ lanesAfter (.xred 12 11 true 1 8) 0b01011111 octantLanes 12 8 = [0, 0x4000, 0x3E00, 0, 0x032C, 0, 0x032C, 0] := by decide +kernel

/-- The masks of R123's example: lanes 0 to 4 hold negative values. -/
def allLanes (p1 : LaneMask) (pc : BitVec 32) : State :=
  machineOf { p := [(1, p1)], frontier := [{ prio := 0x8000, pc := pc, mask := 0xFFFFFFFFFFFFFFFF, guard := 63 }] }

theorem test_vote_count : ((envAt (after (.voteCount 6 1) (allLanes 0b11111 8))).g.arch.getS 6).toNat = 5 := by decide +kernel

/-- R116: bits 8 to 11 of 0x00000F00, signed and not; a position of 32 gives copies of the sign. -/
theorem test_field : lanesAfter (.bfeS32 3 1 2) 0b11 (lanesOf 1 [0xF00, 0x80000000] ++ lanesOf 2 [0x0408, 0x0120]) 3 2 = [0xFFFFFFFF, 0xFFFFFFFF]
    ∧ lanesAfter (.bfeN32 3 1 2) 0b11 (lanesOf 1 [0xF00, 0x80000000] ++ lanesOf 2 [0x0408, 0x0120]) 3 2 = [0xF, 0] := by decide +kernel

/-- IMAD reads its destination; the sum wraps. -/
theorem test_imad : lanesAfter (.imad 1 1 1) 1 [(64, 0x10000)] 1 1 = [0x10000] := by decide +kernel

/-- The table of R196. -/
theorem test_counter_hash : hashRound (1, 2, 3, 4) 5 6 = (5, 0x20EA44D5, 2, 0xE817FB2D)
    ∧ hashRounds 2 (0, 0, 0, 0) 0 0 = (0x7F4A7C15, 0, 0x58C69B2B, 0) := by decide +kernel

/-- The example of R358: the load of R25 with its tables. -/
theorem test_walk :
    let m : Memory := { gddr := [(0x100000, 0x01), (0x100002, 0x11), (0x110040, 0x01), (0x110041, 0x10), (0x110042, 0x11), (0x111000, 0x8F),
      (0x111002, 0x60), (0x111003, 0x45), (0x111004, 0x03)] }
    (walk (({ State.reset with memory := m } : State).setSys 0 0x181 0x100000) 0 0x200123480).map (fun f => (f.tier, f.phys, f.rd, f.wr, f.ex, f.size))
      = some (.gddr, 0x345723480, true, true, false, 0x200000) := by decide +kernel

/-- The example of R233: four lanes, one word; lane 0 alone succeeds. -/
def casOperands (i : Nat) : Place × Rmw := (.mem .gddr 0x40001000 0x40001000, { op := 1, width := 4, operand := BitVec.ofNat 64 (16 + i), cmp := 7, lane := i })

theorem test_cas : ((performLanes (withBytes State.reset 0x40001000 [7]) 0x03000000 2 9 ((List.range 4).map casOperands)).2.1.map (·.2.toNat)) = [7, 16, 16, 16]
    ∧ (performLanes (withBytes State.reset 0x40001000 [7]) 0x03000000 2 9 ((List.range 4).map casOperands)).1.memory.readByte .gddr 0x40001000 = 16 := by
  decide +kernel

/-- The example of R246: format 2, the base, and deltas of 2i. -/
theorem test_spill : (spillRecord ((List.range 64).map (fun i => BitVec.ofNat 32 (0x1000 + 2 * i)))).take 24
      = [2, 0, 0, 0, 0, 0, 0, 0, 0, 0, 0, 0, 0, 0, 0, 0, 0, 0x10, 0, 0, 0, 2, 4, 6]
    ∧ (spillRecord ((List.range 64).map (fun i => BitVec.ofNat 32 (0x1000 + 2 * i)))).length = 0x54 := by decide +kernel

/-- The example of R286: the thread of lane 17 of group 1 in the team with fields 3 and 2. -/
def widthLaunch : Launch := { testLaunch with lh := { testLaunch.lh with widths := [7, 4, 3, 0, 0, 0], extents := [100, 10, 5, 1, 1, 1] } }

def widthEnv : Env := ⟨{ testGroup testArch with index := 1 }, { placedTeam with key := 35 }, widthLaunch⟩

theorem test_work_id : (widthEnv.workId 17).toNat = 0x11D1 := by decide +kernel

/-- The table of R296: where BRP at 0x0104 sends lanes 0 to 9 and the others. -/
theorem test_branch : (envAt (after (.brp 1 false 7) (allLanes 0x3FF 0x104))).g.arch.frontier.map (fun e => (e.prio.toNat, e.pc.toNat, e.mask.toNat))
      = [(0x8000, 0x108, 0xFFFFFFFFFFFFFC00), (0x8000, 0x120, 0x3FF)] := by decide +kernel

/-- The table of R376: LMUL overflows under a trap on OV, writes infinity and enters the handler. -/
def overflowArch : Arch :=
  { v := words [(64, 0x1E00), (128, 0x0400)], frontier := [{ prio := 0x8000, pc := 8, mask := 1, guard := 63 }] }

def trapped : Arch := (envAt (after (.lmulLn16 3 1 2) ({ machineOf overflowArch with fetched := 0x37030102 }.setSys 0 0 0x03000400))).g.arch

theorem test_trap : (trapped.getV 3 0).toNat = 0x5FFF ∧ [56, 57, 58, 59, 60, 61, 62, 63].map (fun n => (trapped.getS n).toNat)
      = [0x0004130C, 0x37030102, 8, 0xC, 1, 0, 0, 0]
    ∧ trapped.frontier.map (fun e => e.pc.toNat) = [0x20] := by decide +kernel

/-! ### Hypotheses met: placing, the choice of a method, saves and resumption -/

/-- The partition with the most free slots, ties to the lower one; then a core that holds the slots of its first partitions. -/
theorem test_hypotheses_slots :
    chooseSlots 3 [0, 1, 16, 17, 18, 62] = some [16, 0, 17] ∧ chooseSlots 1 [] = none
    ∧ freeSlots testState 0 = (List.range 62).map (· + 1)
    ∧ (testLaunch.trace.find? (fun e => e.1 == 0)) = none ∧ freshPlace dispatchState testLaunch 0 = some (0, [0])
    ∧ freshPlace { testState with nextCore := 143 } { testLaunch with kh := { testLaunch.kh with barriers := 32 } } 5 = some (143, [0])
    ∧ freshPlace testState { testLaunch with kh := { testLaunch.kh with barriers := 33 } } 5 = none := by decide +kernel

/-- The team of R378's worked example in a launch whose mean TEAMTIME is 200,000. -/
def methodLaunch (restartable : Bool) : Launch :=
  { testLaunch with
    retiredTeams := 1, retiredTime := 200000
    kh := { placedKernel with restartable := restartable, regs := 64, tiles := 2, accs := 2, loft := 1024 } }

def methodState (restartable : Bool) : State :=
  { requestState 0 (methodLaunch restartable) with teams := [{ placedTeam with watchdog := 150000, slots := [0, 16, 32, 48] }] }

def methodFor (restartable : Bool) (bound : Nat) : Nat :=
  chooseMethod (methodState restartable) { testRequest 0 with bound := bound } (methodLaunch restartable)

/-- R378's worked example: with a bound of 10,000 and with none a save, with 2,000 a flush, or a save where flush is not allowed. -/
theorem test_method_choice : (estimates (methodState true) (methodLaunch true)).map (fun e => (e.method, e.latency, e.cost))
      = [(2, 50000, 50000), (1, 5600, 11200), (3, 1024, 151024)]
    ∧ [methodFor true 10000, methodFor true 0, methodFor true 2000, methodFor false 2000] = [1, 1, 3, 1] := by decide +kernel

/-- Nothing is available: no retired team, a pool without room for a team's thread-local bytes, a kernel that cannot restart. -/
theorem test_hypotheses_no_method :
    let l := { methodLaunch false with retiredTeams := 0, kh := { (methodLaunch false).kh with tlm := 10 ^ 10 } }
    l.retiredTeams = 0 ∧ poolFull (methodState false) (residentTeams (methodState false) 1) l = true ∧ l.kh.restartable = false ∧ l.lh.mode ≠ 2
    ∧ chooseMethod (methodState false) (testRequest 0) l = 2 := by decide +kernel

/-- The machine with its team saved. -/
def savedState : State := (saveTeam testState 1 false).getD testState

theorem test_hypotheses_save :
    testState.team? 1 = some placedTeam ∧ testState.launch? 1 = some testLaunch ∧ testLaunch.lh.mode = 0
    ∧ freeArea testState (saveBytes testLaunch.kh 1) = some 3008000000000 ∧ usedAreas testState = [] ∧ usedAreas savedState ≠ []
    ∧ (usedAreas savedState).all (fun v => 3008000000000 ≤ v.1) = true
    ∧ testState.groups.all (fun g => g.team == 1 && g.outstanding.isEmpty && g.fence.isNone && g.wait == .none && g.reds.isEmpty
        && g.batch.isEmpty && g.xset == .none && g.index == 0) = true
    ∧ testLaunch.kh.regs ≤ 128 ∧ 0 < testLaunch.kh.regs := by decide +kernel

/-- A group at a barrier, one that sleeps, one blocked at a queue and one inside a fence window. -/
theorem test_hypotheses_save_waits :
    [Wait.barrier 3, .waitm [] 0 [], .queue true 1 2].all (fun w =>
      ({ testGroup testArch with wait := w } : Group).outstanding.isEmpty && ({ testGroup testArch with wait := w } : Group).fence.isNone) = true
    ∧ (behindFence [] 0 0 testState).groups.all (fun g => g.outstanding.isEmpty && g.fence.any (fun w => !w.completing)) = true := by
  decide +kernel

/-- The saved team has left its core, and its area holds the fields of R384 and R385; v1 stands behind v0. -/
def savedSmall : State :=
  let l : Launch := { testLaunch with kh := { placedKernel with regs := 2, tiles := 0, accs := 0, loft := 0 } }
  storeTeam (machine (testGroup { testArch with v := words (lanesOf 1 [5, 0xFFFFFFFF]) }) l) placedTeam l false 3008000000000

theorem test_save_area : savedSmall.groups = []
    ∧ savedSmall.memory.read .granary 3008000000000 8 = [0x33, 0x47, 0x54, 0x53, 1, 0, 0, 0]
    ∧ savedSmall.memory.read .granary 3008000000032 2 = [0, 0xFF]
    ∧ savedSmall.memory.read .granary 3008000004096 8 = [0x33, 0x47, 0x56, 0x53, 0, 0, 0, 2]
    ∧ savedSmall.memory.read .granary (3008000004096 + 0x11100 + 272) 1 = [2]
    ∧ savedSmall.memory.read .granary (3008000004096 + 0x11100 + 272 + 16) 6 = [5, 0, 0, 0, 0, 0xFA] := by decide +kernel

theorem test_hypotheses_resume :
    (savedState.team? 1).all (fun t => match t.place with
      | .saved gs b i r a => gs.all (fun g => g.team == 1 && g.xset == .none && g.reds.isEmpty && g.batch.isEmpty) && gs.length == 1
          && b.isNone && i.isEmpty && r.isEmpty && a == 3008000000000 && t.loft.isEmpty
      | .resident => false) = true
    ∧ savedState.memory.granaryPoison = [] ∧ savedState.launch? 1 = some testLaunch ∧ testLaunch.kh.barn ≠ 0 ∧ testLaunch.kh.tlm = 0
    ∧ ((placeSaved savedState 1).map (fun u => (u.groups, u.teams, u.nextCore))) = some (testState.groups, testState.teams, 1)
    ∧ (placeSaved { savedState with groups := (List.range 144).map (fun c => { testGroup testArch with team := 7, core := c }) } 1).isNone = true := by
  decide +kernel

/-- Rows with and without a word. -/
theorem test_hypotheses_DecodeOfEncode_total : wordless .nop = false ∧ wordless (.iadd 1 2 3) = false ∧ wordless .unassignedMajor = true
    ∧ wordless .dispatchStep = true ∧ (encode true (.iadd 1 2 3)).isSome = true := by decide +kernel

end Sys2Proof.Tests
end

section
-- One proof is elaborated at a time: the check bounds the threads of the whole text.
set_option Elab.async false
/-! SUPPORT for O58: what keeps the canonical form of the memories (log entry 4). The form speaks of the bytes of the module's memory
and of the peers' bytes alone, so an update of any other field keeps it; those bytes change through writes at a place, which keep it.
`Canonical.f` says that the function `f` of the model keeps the form, so that a composition of functions is followed by a chain of
these lemmas. -/

namespace Sys2Proof.Machine

variable {s t : State} {g : Group} {l : Launch} {c k n : Nat}

/-! ### Answers that carry a state -/

/-- The state in an option, if there is one, is canonical. -/
def SomeCanonical (o : Option State) : Prop := ∀ t, o = some t → Canonical t

/-- The next state of an outcome, if there is one, is canonical. -/
def NextCanonical (r : Host.Outcome State Fault Refusal) : Prop := ∀ t, r = .next t → Canonical t

/-- The state that a body leaves, if any, is canonical. -/
def ResCanonical : Res → Prop
  | .done d => Canonical d.s
  | .moved s => Canonical s
  | _ => True

/-- The state with which the order log lets a choice go, if it does, is canonical. -/
def LogCanonical (a : LogAnswer) : Prop := ∀ t, a = .go t → Canonical t

/-- The state that an access of a queue leaves, if it is done, is canonical. -/
structure QueueCanonical (a : QueueAnswer) : Prop where
  state : ∀ t v, a = .done t v → Canonical t

/-! ### Updates of other fields -/

/-- A state with the memories of a canonical one is canonical. -/
theorem Canonical.of_same (h : Canonical s) (hm : t.memory = s.memory := by rfl)
    (hp : t.peers = s.peers := by rfl) : Canonical t := by
  unfold Canonical; rw [hm, hp]; exact h

theorem Canonical.setGroup (h : Canonical s) : Canonical (s.setGroup g) := h.of_same
theorem Canonical.dropGroup (h : Canonical s) : Canonical (s.dropGroup c k) := h.of_same
theorem Canonical.setTeam {u : Team} (h : Canonical s) : Canonical (s.setTeam u) := h.of_same
theorem Canonical.setLaunch (h : Canonical s) : Canonical (s.setLaunch l) := h.of_same
theorem Canonical.mapLaunch {f : Launch → Launch} (h : Canonical s) : Canonical (s.mapLaunch n f) := h.of_same
theorem Canonical.mapTeam {f : Team → Team} (h : Canonical s) : Canonical (s.mapTeam n f) := h.of_same
theorem Canonical.setCore {x : Core} (h : Canonical s) : Canonical (s.setCore c x) := h.of_same
theorem Canonical.setBlock {b : Option ThrBlock} (h : Canonical s) : Canonical (s.setBlock c b) := h.of_same
theorem Canonical.setContext {x : Context} (h : Canonical s) : Canonical (s.setContext c x) := h.of_same
theorem Canonical.setSys {v : BitVec 64} (h : Canonical s) : Canonical (s.setSys c n v) := h.of_same
theorem Canonical.setPatch {j : Option PatchJob} (h : Canonical s) : Canonical (s.setPatch c j) := h.of_same
theorem Canonical.setBar {v : BitVec 64} (h : Canonical s) : Canonical (s.setBar n v) := h.of_same
theorem Canonical.stallState (h : Canonical s) : Canonical (stallState s) := h.of_same

theorem Canonical.mapGroup {f : Group → Group} (h : Canonical s) : Canonical (s.mapGroup c k f) := by
  unfold State.mapGroup
  split
  · exact h.setGroup
  · exact h

/-! ### Choices and folds -/

theorem canonical_ite {p : Prop} [Decidable p] (hs : Canonical s) (ht : Canonical t) : Canonical (if p then s else t) := by
  split <;> assumption

/-- A run over a list that keeps a property at every turn. -/
theorem foldl_keeps {α β : Type} {f : β → α → β} {P : β → Prop} {b : β} {xs : List α} (h : P b) (hf : ∀ b x, P b → P (f b x)) :
    P (xs.foldl f b) := by
  induction xs generalizing b with
  | nil => exact h
  | cons x xs ih => exact ih (hf _ _ h)

theorem Canonical.foldl {α : Type} {f : State → α → State} {xs : List α} (h : Canonical s) (hf : ∀ s x, Canonical s → Canonical (f s x)) :
    Canonical (xs.foldl f s) := foldl_keeps h hf

/-! ### The answers, case by case -/

@[simp] theorem someCanonical_none : SomeCanonical none := fun _ h => nomatch h
@[simp] theorem someCanonical_some : SomeCanonical (some s) ↔ Canonical s := by simp [SomeCanonical]

theorem Canonical.toSome (h : Canonical s) : SomeCanonical (some s) := someCanonical_some.2 h

theorem SomeCanonical.getD {o : Option State} (h : SomeCanonical o) (hs : Canonical s) : Canonical (o.getD s) := by
  cases o with
  | none => exact hs
  | some t => exact h t rfl

theorem someCanonical_bind {α : Type} {o : Option α} {f : α → Option State} (h : ∀ x, SomeCanonical (f x)) : SomeCanonical (o.bind f) := by
  cases o with
  | none => simp
  | some x => exact h x

theorem someCanonical_map {α : Type} {o : Option α} {f : α → State} (h : ∀ x, Canonical (f x)) : SomeCanonical (o.map f) := by
  cases o with
  | none => simp
  | some x => exact (h x).toSome

@[simp] theorem nextCanonical_next : NextCanonical (.next s) ↔ Canonical s := by simp [NextCanonical]
@[simp] theorem nextCanonical_fault {f : Fault} : NextCanonical (.fault f) := fun _ h => nomatch h
@[simp] theorem nextCanonical_refused {r : Refusal} : NextCanonical (.refused r) := fun _ h => nomatch h

theorem Canonical.toNext (h : Canonical s) : NextCanonical (.next s) := nextCanonical_next.2 h

@[simp] theorem resCanonical_done {d : Done} : ResCanonical (.done d) ↔ Canonical d.s := Iff.rfl
@[simp] theorem resCanonical_moved : ResCanonical (.moved s) ↔ Canonical s := Iff.rfl
@[simp] theorem resCanonical_stall : ResCanonical .stall := trivial
@[simp] theorem resCanonical_fault {f : LaneFault} : ResCanonical (.fault f) := trivial
@[simp] theorem resCanonical_mismatch : ResCanonical (.mismatch n) := trivial

@[simp] theorem logCanonical_go : LogCanonical (.go s) ↔ Canonical s := by simp [LogCanonical]
@[simp] theorem logCanonical_wait : LogCanonical .wait := fun _ h => nomatch h
@[simp] theorem logCanonical_mismatch : LogCanonical (.mismatch n) := fun _ h => nomatch h

@[simp] theorem queueCanonical_done {v : BitVec 64} : QueueCanonical (.done s v) ↔ Canonical s :=
  ⟨fun h => h.state s v rfl, fun h => ⟨fun _ _ e => by cases e; exact h⟩⟩
@[simp] theorem queueCanonical_wait : QueueCanonical .wait := ⟨fun _ _ h => nomatch h⟩
@[simp] theorem queueCanonical_blocked : QueueCanonical .blocked := ⟨fun _ _ h => nomatch h⟩
@[simp] theorem queueCanonical_fault {f : LaneFault} : QueueCanonical (.fault f) := ⟨fun _ _ h => nomatch h⟩
@[simp] theorem queueCanonical_mismatch : QueueCanonical (.mismatch n) := ⟨fun _ _ h => nomatch h⟩

theorem someCanonical_ite {p : Prop} [Decidable p] {a b : Option State} (ha : SomeCanonical a) (hb : SomeCanonical b) :
    SomeCanonical (if p then a else b) := by split <;> assumption

theorem nextCanonical_ite {p : Prop} [Decidable p] {a b : Host.Outcome State Fault Refusal} (ha : NextCanonical a) (hb : NextCanonical b) :
    NextCanonical (if p then a else b) := by split <;> assumption

theorem resCanonical_ite {p : Prop} [Decidable p] {a b : Res} (ha : ResCanonical a) (hb : ResCanonical b) :
    ResCanonical (if p then a else b) := by split <;> assumption

theorem queueCanonical_ite {p : Prop} [Decidable p] {a b : QueueAnswer} (ha : QueueCanonical a) (hb : QueueCanonical b) :
    QueueCanonical (if p then a else b) := by split <;> assumption

/-! ### Writes at a place (spec/09_ordering_model.md R206) -/

theorem Canonical.setLoftTile {x : Tile} (h : Canonical s) : Canonical (s.setLoftTile n x) := by
  unfold State.setLoftTile
  split
  · exact h.setTeam
  · exact h.of_same

theorem Canonical.setBarnTile {x : Tile} (h : Canonical s) : Canonical (s.setBarnTile n k x) := by
  unfold State.setBarnTile
  split
  · exact h.setLaunch
  · exact h

/-- Into a tier it is a write of bytes; into a tile it changes no byte of memory. -/
theorem Canonical.putPlace {p : Place} {bs : List Byte} (h : Canonical s) : Canonical (s.putPlace p bs) := by
  unfold State.putPlace
  split
  case h_1 t a _ => exact ⟨Memory.wf_write _ t a bs h.1, h.2⟩
  case h_2 => split; exacts [h.setLoftTile, h]
  case h_3 => split; exacts [h.setBarnTile, h]
  case h_4 => exact h

theorem Canonical.notify {us : List Unit128} {tag : BitVec 64} {own : Option OwnAccess} (h : Canonical s) :
    Canonical (s.notify us tag own) := h.of_same

theorem Canonical.writePlace {p : Place} {bs : List Byte} {tag : BitVec 64} {own : Option OwnAccess} (h : Canonical s) :
    Canonical (s.writePlace p bs tag own) := by
  unfold State.writePlace
  exact canonical_ite h h.putPlace.notify

theorem Canonical.poisonPlace {p : Place} (h : Canonical s) : Canonical (s.poisonPlace p n) := by
  unfold State.poisonPlace
  split
  case h_1 t a _ => exact ⟨(Memory.wf_setPoison _ _ _).trans h.1, h.2⟩
  case h_2 => split; exacts [h.setLoftTile, h]
  case h_3 => split; exacts [h.setBarnTile, h]
  case h_4 => exact h

theorem Canonical.hwWrite {va : Nat} {bs : List Byte} (h : Canonical s) : Canonical (hwWrite s c va bs) :=
  ⟨hwWrite_wf s c va bs h.1, (hwWrite_peers s c va bs).symm ▸ h.2⟩

/-! ### The order log (spec/15_recovery.md R390, R391) -/

theorem Canonical.appendLog {e : LogEntry} (h : Canonical s) : Canonical (appendLog s l e) := by
  unfold Machine.appendLog
  exact canonical_ite h (canonical_ite h.setLaunch.hwWrite h.setLaunch.hwWrite.hwWrite)

theorem Canonical.choose {launch kind unit : Nat} {check : Word} {tag : BitVec 64} {team : Nat} {late : Bool} (h : Canonical s) :
    LogCanonical (choose s launch kind unit check tag team late) := by
  unfold Machine.choose
  split
  · simpa
  · repeat' split
    all_goals simp [h, h.appendLog, h.setLaunch]

theorem Canonical.chooseAll {launch kind : Nat} {tag : BitVec 64} {team : Nat} {late : Bool} {us : List (Nat × Word)} (h : Canonical s) :
    LogCanonical (chooseAll s launch kind tag team late us) := by
  induction us generalizing s with
  | nil => simpa [Machine.chooseAll]
  | cons u us ih =>
    simp only [Machine.chooseAll]
    split
    · next s1 hgo => exact ih (h.choose _ hgo)
    · exact h.choose

theorem Canonical.chooseEach {launch : Nat} {tag : BitVec 64} {team : Nat} {late inOrder : Bool} {core : Nat} {ps : List Place}
    (h : Canonical s) : Canonical (chooseEach launch tag team late inOrder core s ps).s := by
  induction ps generalizing s with
  | nil => exact h
  | cons p ps ih =>
    simp only [Machine.chooseEach]
    split
    · next s1 hgo => exact ih (h.choose _ hgo)
    · split; exacts [h, ih h]
    · split
      · split; exacts [h, ih h]
      · exact h

theorem Canonical.timeRead {launch reg : Nat} {v : BitVec 64} (h : Canonical s) : LogCanonical (timeRead s launch g reg v).1 := by
  unfold Machine.timeRead
  split
  · simpa
  · repeat' split
    all_goals simp [h, h.appendLog, h.setLaunch]

end Sys2Proof.Machine
end

section
-- One proof is elaborated at a time: the check bounds the threads of the whole text.
set_option Elab.async false
/-! SUPPORT for O58: faults and the ends of tasks keep the canonical form (spec/15_recovery.md R370 to R373). -/

namespace Sys2Proof.Machine

variable {s t : State} {g : Group} {l : Launch} {c k n : Nat} {e : Env} {x : Issue}

/-! ### Groups, tasks and their records -/

theorem Canonical.passX (h : Canonical s) : Canonical (s.passX c k) := by
  unfold State.passX
  split
  · exact h
  · split; exacts [h.setGroup, h.setGroup, h]

theorem Canonical.removeGroup (h : Canonical s) : Canonical (s.removeGroup c k) := by
  unfold State.removeGroup
  split
  · exact h
  · exact canonical_ite h.dropGroup.passX h.dropGroup

theorem Canonical.dropLaunch (h : Canonical s) : Canonical (s.dropLaunch n) := by
  unfold State.dropLaunch
  exact (h.foldl fun _ _ hs => hs.removeGroup).of_same

theorem Canonical.writeAreaHeader (h : Canonical s) : Canonical (writeAreaHeader s l n) := by
  unfold Machine.writeAreaHeader
  exact canonical_ite h h.hwWrite

theorem Canonical.writeRecord {r : Record} {final : Bool} (h : Canonical s) : Canonical (writeRecord s l r final) := by
  unfold Machine.writeRecord
  exact canonical_ite h.setLaunch.hwWrite.writeAreaHeader
    (canonical_ite h.setLaunch.hwWrite.writeAreaHeader h.setLaunch.writeAreaHeader)

theorem Canonical.completionInterrupt {tcb : BitVec 64} (h : Canonical s) : Canonical (completionInterrupt s c tcb) := by
  unfold Machine.completionInterrupt
  split
  · exact canonical_ite (h.of_same) h
  · exact h

theorem Canonical.writeTcb {tcb : BitVec 64} (h : Canonical s) : Canonical (writeTcb s c tcb k n) := h.hwWrite.hwWrite

theorem Canonical.endTask (h : Canonical s) : Canonical (endTask s n k) := by
  unfold Machine.endTask
  split
  · exact h
  · exact h.dropLaunch.writeTcb.completionInterrupt

/-! ### Faults -/

theorem Canonical.takeFault {f : Trap} (h : Canonical s) : SomeCanonical (takeFault s c k f) := by
  unfold Machine.takeFault
  split
  · exact h.toSome
  · dsimp only
    split
    · exact h.setGroup.toSome
    · split
      · simp
      · exact h.writeRecord.endTask.toSome
      · next s1 hgo =>
        have h1 := h.choose s1 hgo
        split
        · exact h1.writeRecord.setGroup.toSome
        · exact h1.writeRecord.endTask.toSome

theorem Canonical.replayFault {pc : BitVec 32} {w : Word} (h : Canonical s) : Canonical (replayFault s c k n pc w) := by
  unfold Machine.replayFault
  split
  · exact h
  · exact h.writeRecord.endTask

theorem Canonical.replayWaiting (h : Canonical s) : Canonical (replayWaiting s e n) := h.writeRecord.endTask

theorem Canonical.launchFault (h : Canonical s) : Canonical (launchFault s n c k) := by
  unfold Machine.launchFault
  split
  · exact h
  · exact h.writeRecord.endTask

theorem Canonical.agentFault {tag : BitVec 64} (h : Canonical s) : Canonical (agentFault s n c tag) := by
  unfold Machine.agentFault
  split
  · exact h.replayWaiting
  · exact h.launchFault

theorem memberRecord_canonical {acc : State × Bool} (h : Canonical acc.1) : Canonical (memberRecord n acc g).1 := by
  unfold memberRecord
  split
  · exact h
  · split
    · exact h
    · split
      · exact h
      · split
        · exact h
        · exact h.replayWaiting
        · next s1 hgo => exact (h.choose s1 hgo).writeRecord.setGroup

theorem Canonical.teamFault (h : Canonical s) : SomeCanonical (teamFault s n c) := by
  unfold Machine.teamFault
  split
  · simp
  · have hr : Canonical (((s.groups.filter (fun g => g.team == n)).foldl (memberRecord c) (s, false)).1) :=
      foldl_keeps (P := fun acc : State × Bool => Canonical acc.1) h fun _ _ => memberRecord_canonical
    dsimp only
    repeat' split
    all_goals simp [hr, hr.endTask]

/-! ### The machine's own translations -/

theorem Canonical.hwSpill {p : Nat × List Byte} (h : Canonical s) : Canonical (hwSpill s c p) := by
  unfold Machine.hwSpill
  refine h.foldl fun s q hs => ?_
  split
  · exact hs.putPlace
  · exact hs

theorem Canonical.keepControl (h : Canonical s) : Canonical (keepControl t s) := by
  unfold Machine.keepControl
  refine h.foldl fun s g hs => ?_
  split
  · exact hs
  · split
    · exact hs.foldl fun _ _ => Canonical.hwSpill
    · exact hs

/-! ### The issue of a word -/

theorem Canonical.raise {f : LaneFault} (h0 : Canonical t) (h : Canonical s) : Canonical (raise x t s f) := by
  unfold Machine.raise
  exact canonical_ite h0.stallState (h.takeFault.getD h0.stallState)

theorem Canonical.raiseHint (h : Canonical s) : Canonical (raiseHint x s c) := by
  unfold Machine.raiseHint
  exact canonical_ite h.stallState (h.takeFault.getD h.stallState)

/-- The close of a word: its group is put back, or a fault is taken in the state that the body has left or, for a group under an
incomplete fence, in the state before. -/
theorem Canonical.finish {u : Use} {d : Done} (h0 : Canonical s) (h : Canonical d.s) : Canonical (finish u x s d) := by
  unfold Machine.finish
  split
  · exact h
  · dsimp only
    split
    · exact h.setGroup
    · split
      · exact h.setGroup
      · exact h0.raise h.setGroup
      · split
        · exact h0.stallState
        · split
          · exact h.setGroup.takeFault.getD h0.stallState
          · exact h.setGroup.takeFault.getD h0.stallState

theorem Canonical.afterBody {u : Use} {r : Res} (h : Canonical s) (hr : ResCanonical r) : Canonical (afterBody u x s r) := by
  cases r with
  | stall => exact h.stallState
  | fault f => exact h.raise h
  | done d => exact h.finish hr
  | mismatch n => exact h.replayFault
  | moved s' => exact hr

theorem Canonical.issueStep {u : Use} {body : Issue → State → Res} (h : Canonical s) (hb : ResCanonical (body x s)) :
    Canonical (issueStep u x body s) := by
  rcases issueStep_cases u x body s with ⟨c, -, he⟩ | he | ⟨-, he⟩ | he
  · exact he ▸ h.raise h
  · exact he ▸ h.stallState
  · exact he ▸ h.raise h
  · exact he ▸ h.afterBody hb

/-- A word whose body keeps the form keeps it. -/
theorem Canonical.issue {u : Use} {body : Issue → State → Res} (h : Canonical s) (hb : ∀ x, ResCanonical (body x s)) :
    NextCanonical (issue u body s) := by
  unfold Machine.issue
  split
  · simp
  · split
    · simp
    · exact (h.issueStep (hb _)).toNext

/-- A word that changes only registers of its group keeps the form. -/
theorem Canonical.issueArch {u : Use} {f : Issue → Arch → Arch × List (Nat × BitVec 9)} (h : Canonical s) :
    NextCanonical (issueArch u f s) := h.issue fun _ => h.setGroup

theorem Canonical.issueHint {f : Issue → Arch → Arch} (h : Canonical s) : NextCanonical (issueHint c f s) := by
  unfold Machine.issueHint
  split
  · simp
  · split
    · simp
    · split
      · exact h.stallState.toNext
      · split
        · exact h.raiseHint.toNext
        · exact h.setGroup.toNext

end Sys2Proof.Machine
end

section
-- One proof is elaborated at a time: the check bounds the threads of the whole text.
set_option Elab.async false
/-! SUPPORT for O58: the words of the warp core keep the canonical form. -/

namespace Sys2Proof.Machine

variable {s t : State} {g : Group} {l : Launch} {c k n : Nat} {e : Env} {x : Issue}

/-! ### Windows, tiles and the matrix engine (spec/07_tile_engine.md, spec/08_generators.md) -/

theorem Canonical.installWindow {ws : List Word} (h : Canonical s) : Canonical (installWindow s c n ws) := by
  unfold Machine.installWindow
  exact canonical_ite (canonical_ite h.setContext.setSys.setSys.setSys h.setContext) h.setContext.setSys.setSys.setSys

theorem Canonical.execGset {a : BitVec 6} {b : BitVec 3} (h : Canonical s) : NextCanonical (execGset a b s) := by
  refine h.issue fun x => ?_
  dsimp only
  repeat' split
  all_goals simp [h.installWindow]

theorem Canonical.execGcfg {d : BitVec 6} {b : BitVec 3} (h : Canonical s) : NextCanonical (execGcfg d b s) :=
  h.issue fun _ => h.setGroup

theorem Canonical.enqueue {o : MatrixOp} (h : Canonical s) : Canonical (enqueue s g o) := h.of_same

theorem Canonical.issueMatrix {precise : Bool} {a b : BitVec 6} {esz la lb : Nat} {ka kb : List Nat}
    {op : MatrixSource → MatrixSource → MatrixOp} (h : Canonical s) :
    ResCanonical (issueMatrix x s precise a b esz la lb ka kb op) := by
  unfold Machine.issueMatrix
  dsimp only
  repeat' split
  all_goals simp [h.enqueue]

theorem Canonical.retiring {ns : List Nat} {f : Issue → Group → Group} (h : Canonical s) : ResCanonical (retiring ns f x s) := by
  unfold Machine.retiring
  split
  · simp
  · exact h.setGroup

theorem Canonical.execLmma {m : BitVec 3} {a b : BitVec 6} {f : BitVec 3} {st : BitVec 5} {p : Bool} (h : Canonical s) :
    NextCanonical (execLmma m a b f st p s) := h.issue fun _ => h.issueMatrix

theorem Canonical.execLmms {m : BitVec 3} {a b : BitVec 6} {f w : BitVec 3} {z : BitVec 2} {p : Bool} (h : Canonical s) :
    NextCanonical (execLmms m a b f w z p s) := h.issue fun _ => h.issueMatrix

theorem Canonical.execImma {m : BitVec 3} {a b : BitVec 6} {z : BitVec 3} {p : Bool} (h : Canonical s) :
    NextCanonical (execImma m a b z p s) := h.issue fun _ => h.issueMatrix

theorem Canonical.clearAcc {m : BitVec 3} {fmt : AccFmt} {f : BitVec 5} (h : Canonical s) : NextCanonical (clearAcc m fmt f s) :=
  h.issue fun _ => h.retiring

theorem Canonical.execArd {m : BitVec 3} {q : BitVec 5} {d : BitVec 6} (h : Canonical s) : NextCanonical (execArd m q d s) := by
  refine h.issue fun x => ?_
  dsimp only
  repeat' split
  all_goals simp [h.setGroup]

theorem Canonical.execAwr {m : BitVec 3} {q : BitVec 5} (h : Canonical s) : NextCanonical (execAwr m q s) := by
  refine h.issue fun x => ?_
  dsimp only
  split
  · simp
  · exact h.retiring

theorem Canonical.execAmov {m q : BitVec 3} (h : Canonical s) : NextCanonical (execAmov m q s) := by
  refine h.issue fun x => ?_
  dsimp only
  split
  · simp
  · split
    · simp
    · exact h.retiring

theorem Canonical.execMwait {m : BitVec 3} (h : Canonical s) : NextCanonical (execMwait m s) := h.issue fun _ => h.retiring
theorem Canonical.execMwaitAll (h : Canonical s) : NextCanonical (execMwaitAll s) := h.issue fun _ => h.retiring

theorem Canonical.storeLane {tag : BitVec 64} {p : Place} {bs : List Byte} (h : Canonical s) :
    Canonical (storeLane s c k n tag p bs) := by
  unfold Machine.storeLane
  split
  · split; exacts [h, h.mapGroup]
  · exact h.writePlace

theorem Canonical.execTld {a d st : BitVec 6} (h : Canonical s) : NextCanonical (execTld a d st s) := by
  refine h.issue fun x => ?_
  dsimp only
  split
  · simp
  · split
    · simp
    · exact h.setGroup

theorem Canonical.execTst {a d st : BitVec 6} (h : Canonical s) : NextCanonical (execTst a d st s) := by
  refine h.issue fun x => ?_
  dsimp only
  split
  · simp
  · split
    · simp
    · refine h.setGroup.foldl fun s r hs => hs.foldl fun s q hs => ?_
      split
      · exact hs.storeLane
      · exact hs

theorem Canonical.execTmov {a b : BitVec 6} (h : Canonical s) : NextCanonical (execTmov a b s) := by
  refine h.issue fun x => ?_
  dsimp only
  repeat' split
  all_goals simp [h.setGroup]

theorem Canonical.execTwset {m : BitVec 3} {b : BitVec 6} (h : Canonical s) : NextCanonical (execTwset m b s) := by
  refine h.issue fun x => ?_
  dsimp only
  split
  · simp
  · exact h.setGroup

theorem Canonical.execTwget {m : BitVec 3} {b : BitVec 6} (h : Canonical s) : NextCanonical (execTwget m b s) :=
  h.issue fun _ => h.setGroup

theorem Canonical.execTileEnginePass (h : Canonical s) : NextCanonical (execTileEnginePass s) := by
  unfold Machine.execTileEnginePass
  split
  · simp
  · split
    · simp
    · exact h.setGroup.toNext

/-! ### Loads and stores (spec/10_memory_instr.md R227 to R229) -/

theorem Canonical.loadBody {d : BitVec 8} {z : BitVec 2} {a : Issue → Nat → LaneAddr} (h : Canonical s) :
    ResCanonical (loadBody d z a x s) := h.setGroup

theorem Canonical.storeBody {d : BitVec 8} {z : BitVec 2} {a : Issue → Nat → LaneAddr} (h : Canonical s) :
    ResCanonical (storeBody d z a x s) := h.setGroup.foldl fun _ _ => Canonical.storeLane

theorem Canonical.waitmBody {d : BitVec 8} {z : BitVec 2} {a : Issue → Nat → LaneAddr} (h : Canonical s) :
    ResCanonical (waitmBody d z a x s) := by
  unfold Machine.waitmBody
  exact resCanonical_ite h.setGroup h.setGroup

theorem Canonical.execPref {d a b : BitVec 8} (h : Canonical s) : NextCanonical (execPref d a b s) := h.issue fun _ => h.setGroup

theorem Canonical.execVspl {d : BitVec 8} {b : BitVec 6} {hd : Bool} (h : Canonical s) : NextCanonical (execVspl d b hd s) := by
  refine h.issue fun x => ?_
  dsimp only
  split
  · simp [recordFault]
  · exact foldl_keeps (P := fun acc : State × Nat => Canonical acc.1) h.setGroup fun _ _ hs => hs.storeLane

theorem Canonical.execVfil {d : BitVec 8} {b : BitVec 6} {hd : Bool} (h : Canonical s) : NextCanonical (execVfil d b hd s) := by
  refine h.issue fun x => ?_
  dsimp only
  split
  · simp [recordFault]
  · split
    · simp
    · split
      · simp [recordFault]
      · exact h.setGroup

/-! ### Read-modify-writes (spec/10_memory_instr.md R230 to R236) -/

theorem Canonical.performRmw {p : Place} {r : Rmw} {amr : Word} {tag : BitVec 64} {own : Option OwnAccess} (h : Canonical s) :
    Canonical (performRmw s p r amr tag own).1 := by
  unfold Machine.performRmw
  dsimp only
  split
  · exact h.writePlace
  · exact h

theorem Canonical.performRed {amr : Word} {r : RedEntry} (h : Canonical s) : Canonical (performRed s amr r) := h.performRmw

theorem Canonical.performLanes {amr : Word} {tag : BitVec 64} {rs : List (Place × Rmw)} (h : Canonical s) :
    Canonical (performLanes s amr n tag rs).1 :=
  foldl_keeps (P := fun acc : State × List (Nat × Word) × List (Nat × BitVec 9) => Canonical acc.1) h fun _ _ hs => hs.performRmw

theorem drainEntry_canonical {amr : Word} {r : Drained} {d : RedEntry} (h : Canonical r.s) : Canonical (drainEntry n amr r d).s := by
  unfold drainEntry
  dsimp only
  split
  · exact h
  · split
    · exact h.performRed
    · split
      · exact h
      · exact h
      · next s1 hgo => exact (h.choose s1 hgo).performRed

theorem Canonical.performBatch {amr : Word} {es : List RedEntry} (h : Canonical s) : Canonical (performBatch s n amr es).s :=
  foldl_keeps (P := fun r : Drained => Canonical r.s) h fun _ _ => drainEntry_canonical

theorem Canonical.drainGroups {gs : List Group} {only : Option (RedEntry → Bool)} (h : Canonical s) :
    Canonical (drainGroups s n gs only).1 :=
  ((h.foldl fun _ _ hs => hs.mapGroup).performBatch).foldl fun _ _ hs => hs.mapGroup

theorem Canonical.drained {gs : List Group} {only : Option (RedEntry → Bool)} {b : Bool} {o : Option Nat} (h : Canonical s)
    (he : Machine.drainGroups s n gs only = (t, b, o)) : Canonical t := by
  have hd := h.drainGroups (n := n) (gs := gs) (only := only)
  rwa [he] at hd

/-- A word that drains first goes on in a canonical state, or leaves one. -/
theorem Canonical.drainBefore {gs : List Group} {only : Option (RedEntry → Bool)} {next : State → Res} (h : Canonical s)
    (hn : ∀ t, Canonical t → ResCanonical (next t)) : ResCanonical (drainBefore x s gs only next) := by
  unfold Machine.drainBefore
  split
  · next s1 _ he => exact hn s1 (h.drained he)
  · simp
  · next s1 he =>
    split
    · simp
    · exact h.drained he

theorem Canonical.drainFirst {next : State → Res} (h : Canonical s) (hn : ∀ t, Canonical t → ResCanonical (next t)) :
    ResCanonical (drainFirst x s next) := h.drainBefore hn

theorem Canonical.replayAtom {d : BitVec 8} {z : BitVec 2} {b : BegunAtom} (h : Canonical s) : ResCanonical (replayAtom d z x s b) := by
  unfold Machine.replayAtom
  dsimp only
  split
  · simp
  · split
    · exact h.chooseEach.performLanes.mapGroup
    · split
      · simp
      · exact h.chooseEach.performLanes.mapGroup

theorem Canonical.execAtom {d a : BitVec 8} {o : BitVec 4} {z : BitVec 2} (h : Canonical s) : NextCanonical (execAtom d a o z s) := by
  refine h.issue fun x => ?_
  dsimp only
  split
  · simp
  · split
    · exact h.setGroup
    · split
      · exact h.replayAtom
      · split
        · simp
        · simp
        · next s1 hgo => exact (h.chooseAll s1 hgo).performLanes.mapGroup

theorem Canonical.execRed {d a : BitVec 8} {o : BitVec 4} {z : BitVec 2} (h : Canonical s) : NextCanonical (execRed d a o z s) := by
  refine h.issue fun x => ?_
  dsimp only
  split
  · exact h.drainFirst fun _ ht => ht.mapGroup
  · exact h.mapGroup

theorem Canonical.execAbfl (h : Canonical s) : NextCanonical (execAbfl s) := h.issue fun _ => h.drainFirst fun _ ht => ht

/-! ### Tile handles (spec/10_memory_instr.md R239 to R241) -/

theorem Canonical.addTile {barn : Bool} {y : Tile} (h : Canonical s) : Canonical (addTile s e barn y) := by
  unfold Machine.addTile
  exact canonical_ite h.mapLaunch h.mapTeam

theorem Canonical.execTalloc {d a : BitVec 6} {barn : Bool} (h : Canonical s) : NextCanonical (execTalloc d a barn s) := by
  refine h.issue fun x => ?_
  have hc : LogCanonical (if tableShared x.e barn then
      Machine.choose s x.e.l.id 8 (if barn then unitBarn (clusterOf x.core) else x.core) (if barn then 1 else 0) x.tag x.e.t.id else .go s) := by
    split
    · exact h.choose
    · simpa
  dsimp only
  split
  · simp
  · simp
  · next s1 hgo =>
    have h1 := hc s1 hgo
    split
    · exact h1.mapGroup
    · exact h1.addTile.mapGroup

theorem Canonical.dropTile (h : Canonical s) : Canonical (dropTile s e n) := by
  unfold Machine.dropTile
  exact canonical_ite h.mapTeam h.mapLaunch

theorem Canonical.execTfree {a : BitVec 6} (h : Canonical s) : NextCanonical (execTfree a s) := by
  refine h.issue fun x => ?_
  dsimp only
  split
  · simp
  · split
    · simp
    · split
      · simp
      · exact h.drainBefore fun _ ht => ht.dropTile

/-! ### Queues (spec/10_memory_instr.md R247 to R253) -/

theorem Canonical.accessQueue {tag : BitVec 64} {b : Binding} {push : Bool} {v : BitVec 64} {logged : Option Bool} (h : Canonical s) :
    QueueCanonical (accessQueue s e tag b push v logged) := by
  unfold Machine.accessQueue
  split
  · simp
  · dsimp only
    refine queueCanonical_ite (by simp) (queueCanonical_ite (by simp) (queueCanonical_ite (by simp) (queueCanonical_ite ?_
      (queueCanonical_ite (by simp) ?_))))
    · refine queueCanonical_ite ?_ (by simp)
      split <;> simp
    · split
      · simp
      · simp
      · next s1 hgo =>
        have h1 := h.choose s1 hgo
        exact queueCanonical_ite (queueCanonical_done.2 h1.writePlace.writePlace) (queueCanonical_done.2 h1.writePlace.writePlace)

theorem Canonical.blockQueue {push : Bool} (h : Canonical s) : ResCanonical (blockQueue x s push n k) := h.mapGroup

theorem Canonical.pushCommand {a : BitVec 6} (h : Canonical s) : ResCanonical (pushCommand x s n a) := by
  unfold Machine.pushCommand
  dsimp only
  split; · simp
  split; · simp
  split; · simp
  split; · exact h.blockQueue
  split
  · simp
  · simp
  · next s1 hgo => exact Canonical.mapGroup ((h.choose s1 hgo).of_same)

theorem Canonical.pushThresher {a : BitVec 6} (h : Canonical s) : ResCanonical (pushThresher x s a) := by
  unfold Machine.pushThresher
  dsimp only
  split; · simp
  split; · exact h.blockQueue
  exact h.setCore.mapGroup.of_same

theorem Canonical.pushNamed {a : BitVec 6} (h : Canonical s) : ResCanonical (pushNamed x s n a) := by
  unfold Machine.pushNamed
  split
  · simp
  · split
    · simp
    · exact h.blockQueue
    · simp
    · simp
    · next s1 v hd => exact (h.accessQueue.state s1 v hd).mapGroup

theorem Canonical.execQpush {q : BitVec 4} {a : BitVec 6} (h : Canonical s) : NextCanonical (execQpush q a s) := by
  refine h.issue fun x => ?_
  split; · exact h.pushCommand
  split; · exact h.pushThresher
  split; · simp
  exact h.pushNamed

theorem Canonical.popAnswer {logged : Option Bool} (h : Canonical s) : QueueCanonical (popAnswer x s n logged) := by
  unfold Machine.popAnswer
  split
  · dsimp only
    split
    · simp
    · simp [h.setCore]
  · split
    · simp
    · split
      · simp
      · exact h.accessQueue

theorem Canonical.execQpop {d : BitVec 6} {q : BitVec 4} (h : Canonical s) : NextCanonical (execQpop d q s) := by
  refine h.issue fun x => ?_
  split
  · simp
  · exact h.blockQueue
  · simp
  · simp
  · next s1 v hd => exact (h.popAnswer.state s1 v hd).mapGroup

theorem Canonical.execQtry {d : BitVec 6} {q : BitVec 4} {b : BitVec 6} (h : Canonical s) : NextCanonical (execQtry d q b s) := by
  refine h.issue fun x => ?_
  dsimp only
  split
  · simp
  · exact h.mapGroup
  · simp
  · simp
  · next s1 v hd => exact (h.popAnswer.state s1 v hd).mapGroup

theorem Canonical.bindQueue {init : Bool} {q : BitVec 4} {a : BitVec 6} (h : Canonical s) : NextCanonical (bindQueue init q a s) := by
  refine h.issue fun x => ?_
  dsimp only
  split
  · simp
  · split
    · simp
    · exact canonical_ite h.mapTeam.writePlace.mapGroup h.mapTeam

theorem Canonical.execQbindUnbind {q : BitVec 4} (h : Canonical s) : NextCanonical (execQbindUnbind q s) := by
  refine h.issue fun x => ?_
  dsimp only
  split
  · simp
  · refine h.mapTeam.foldl fun s g hs => ?_
    split
    · exact hs.setGroup
    · exact hs

/-! ### Fences (spec/09_ordering_model.md R215) -/

theorem Canonical.execFenceX {f : BitVec 6} (h : Canonical s) : NextCanonical (execFenceX f s) := by
  refine h.issue fun x => ?_
  dsimp only
  split
  · exact h
  · split
    · exact h.setGroup
    · exact h.setGroup

end Sys2Proof.Machine
end

section
-- One proof is elaborated at a time: the check bounds the threads of the whole text.
set_option Elab.async false
/-! SUPPORT for O58: fences, engines, Threshers, control and synchronization keep the canonical form. -/

namespace Sys2Proof.Machine

variable {s t : State} {g : Group} {l : Launch} {c k n : Nat} {e : Env} {x : Issue}

/-! ### Held accesses (spec/09_ordering_model.md R215 to R217) -/

theorem performAtoms_canonical {amr : Word} {tag : BitVec 64} {p : Performed} {rs : List HeldAtom} (h : Canonical p.s) :
    Canonical (performAtoms e amr tag p rs).1 :=
  foldl_keeps (P := fun acc : State × VarResult => Canonical acc.1) h fun _ _ hs => hs.performRmw

theorem performHeld_canonical {amr : Word} {hs : List HeldAccess} {p : Performed} (h : Canonical p.s) :
    Canonical (performHeld e amr n hs p).s := by
  induction n generalizing hs p with
  | zero => exact h
  | succ n ih =>
    cases hs with
    | nil => exact h
    | cons a hs =>
      simp only [performHeld]
      split
      · exact h
      · cases a with
        | store q lane bs tag => exact ih h.writePlace
        | atom q r d tag =>
          have hp : ∀ rs, Canonical (performAtoms e amr tag
              { p with s := (chooseEach e.l.id tag e.t.id true true e.g.core p.s
                ((sameAtoms tag p.count (.atom q r d tag :: hs)).map (·.1)).eraseDups).s } rs).1 :=
            fun rs => performAtoms_canonical h.chooseEach
          dsimp only
          split
          · exact ih (hp _)
          · exact hp _

theorem Canonical.completeFence {w : FenceWin} (h : Canonical s) : SomeCanonical (completeFence s e w) := by
  have hp : Canonical (performHeld e (s.amr e.l.ctx) (w.held.length + 1) w.held { s := s, part := w.part }).s := performHeld_canonical h
  unfold Machine.completeFence
  dsimp only
  split
  · exact hp.replayWaiting.toSome
  · exact someCanonical_ite h.setGroup.toSome (someCanonical_ite (by simp) hp.mapGroup.toSome)

theorem Canonical.execFenceCompletion (h : Canonical s) : NextCanonical (execFenceCompletion s) := by
  unfold Machine.execFenceCompletion
  split
  · simp
  · refine nextCanonical_ite h.setGroup.toNext ?_
    split
    · simp
    · refine nextCanonical_ite (by simp) ?_
      split
      · next s1 hs => exact (h.completeFence s1 hs).toNext
      · simp

theorem Canonical.execFenceRollback (h : Canonical s) : NextCanonical (execFenceRollback s) := by
  unfold Machine.execFenceRollback
  split
  · simp
  · split
    · exact nextCanonical_ite h.setGroup.toNext (by simp)
    · simp

theorem Canonical.execVariableLatencyResult (h : Canonical s) : NextCanonical (execVariableLatencyResult s) := by
  unfold Machine.execVariableLatencyResult
  split
  · simp
  · split
    · simp
    · exact nextCanonical_ite (by simp) h.setGroup.toNext

theorem Canonical.execQueueUnblock (h : Canonical s) : NextCanonical (execQueueUnblock s) := by
  unfold Machine.execQueueUnblock
  split
  · simp
  · next g _ =>
    split
    · next push q reg _ =>
      have h1 : Canonical { s.setGroup { g with wait := .none } with issuer := some (g.core, g.slot), fetched := g.waitWord } :=
        h.of_same
      dsimp only
      split
      · next s2 hs =>
        have h2 : Canonical s2 := by
          cases push
          · exact h1.execQpop s2 hs
          · exact h1.execQpush s2 hs
        exact nextCanonical_ite (by simp) (h2.of_same).toNext
      · next r hr => intro t ht; exact absurd ht (hr t)
    · simp

/-! ### Engine commands (spec/11_data_on_move.md) -/

theorem Canonical.endCommand {m : Command} {f : BitVec 9} {a : BitVec 64} (h : Canonical s) : Canonical (endCommand s m f n a) := by
  unfold Machine.endCommand
  dsimp only
  refine canonical_ite (h.of_same) ?_
  split
  · exact h.of_same
  · split
    · exact h.of_same
    · exact h.of_same

theorem Canonical.endOr {m : Command} {f : Option Failure} {perform : Unit → State} (h : Canonical s) (hp : Canonical (perform ())) :
    Canonical (endOr s m f perform) := by
  unfold Machine.endOr
  split
  · exact h.endCommand
  · exact hp

theorem Canonical.writeSpan {u : Accessor} {a : LaneAddr} {bs : List Byte} {bad : Bool} {tag : BitVec 64} (h : Canonical s) :
    Canonical (writeSpan s u a bs bad tag) := by
  unfold Machine.writeSpan
  split
  · exact canonical_ite h.writePlace.poisonPlace h.writePlace
  · exact h

theorem Canonical.writeStream {u : Accessor} {tag : BitVec 64} {a : LaneAddr} {xs : List (Byte × Bool)} (h : Canonical s) :
    Canonical (writeStream u tag n s a xs) := by
  induction n generalizing s a xs with
  | zero => exact h
  | succ n ih =>
    cases xs with
    | nil => exact h
    | cons y ys => exact ih h.writeSpan

theorem Canonical.writeAll {u : Accessor} {tag : BitVec 64} {a : LaneAddr} {xs : List (Byte × Bool)} (h : Canonical s) :
    Canonical (writeAll s u tag a xs) := h.writeStream

theorem Canonical.engineEvent {m : Engine} {f : Command → State → Option State} (hf : ∀ y, SomeCanonical (f y s)) :
    NextCanonical (engineEvent m n f s) := by
  unfold Machine.engineEvent
  split
  · next y _ =>
    refine nextCanonical_ite ?_ (by simp)
    split
    · next s1 hs => exact (hf y s1 hs).toNext
    · simp
  · simp

theorem Canonical.performCopy {m : Command} (h : Canonical s) : SomeCanonical (performCopy m s) :=
  (h.endOr h.writeAll.writeAll.endCommand).toSome

theorem Canonical.performExpand {m : Command} (h : Canonical s) : SomeCanonical (performExpand m s) := by
  unfold Machine.performExpand
  dsimp only
  split
  · exact h.endCommand.toSome
  · refine (h.endOr ?_).toSome
    split
    · exact h.endCommand
    · exact h.writeAll.endCommand

theorem Canonical.performGather {m : Command} (h : Canonical s) : SomeCanonical (performGather m s) :=
  (h.endOr h.writeAll.endCommand).toSome

theorem Canonical.performScatter {m : Command} (h : Canonical s) : SomeCanonical (performScatter m s) := by
  unfold Machine.performScatter
  refine (h.endOr (Canonical.endCommand (foldl_keeps (P := fun acc : State × Bool => Canonical acc.1) h fun acc k ha => ?_))).toSome
  dsimp only
  split
  · exact ha.writeSpan
  · exact ha

theorem Canonical.scatterAddOne {m : Command} {src : List Byte × Bool} {p : Place} (h : Canonical s) :
    Canonical (scatterAddOne s m src p).1 := by
  unfold Machine.scatterAddOne
  exact canonical_ite h.performRmw.poisonPlace h.performRmw

theorem Canonical.scatterAddAll {m : Command} {f : BitVec 9} {bad : Bool} {es : List ScatterElement} (h : Canonical s) :
    Canonical (scatterAddAll m s f bad es).1 :=
  foldl_keeps (P := fun acc : State × BitVec 9 × Bool => Canonical acc.1) h fun _ _ ha => ha.scatterAddOne

theorem Canonical.replayScatterAdd {m : Command} (h : Canonical s) : SomeCanonical (replayScatterAdd m s) := by
  unfold Machine.replayScatterAdd
  dsimp only
  split
  · exact h.agentFault.toSome
  · refine someCanonical_ite h.chooseEach.scatterAddAll.endCommand.toSome (someCanonical_ite (by simp) ?_)
    exact Canonical.toSome (h.chooseEach.scatterAddAll.of_same)

theorem Canonical.performScatterAdd {m : Command} (h : Canonical s) : SomeCanonical (performScatterAdd m s) := by
  unfold Machine.performScatterAdd
  split
  · exact h.endCommand.toSome
  · refine someCanonical_ite h.replayScatterAdd ?_
    dsimp only
    split
    · simp
    · exact h.agentFault.toSome
    · next s1 hgo => exact (h.chooseAll s1 hgo).scatterAddAll.endCommand.toSome

theorem Canonical.performCollective {m : Command} (h : Canonical s) : SomeCanonical (performCollective m s) := by
  unfold Machine.performCollective
  refine someCanonical_ite h.endCommand.toSome ?_
  split
  · exact h.endCommand.toSome
  · exact someCanonical_map fun _ => h.writeAll.endCommand

theorem Canonical.execLinkError (h : Canonical s) : NextCanonical (execLinkError s) := by
  unfold Machine.execLinkError
  split
  · simp
  · refine (Canonical.endCommand (h.foldl fun s k hs => ?_)).toNext
    split
    · exact hs.writeAll
    · exact hs

/-! ### Threshers (spec/11_data_on_move.md R278 to R282) -/

theorem Canonical.endBlock {b : ThrBlock} (h : Canonical s) : Canonical (endBlock s c b n k) := by
  unfold Machine.endBlock
  exact (canonical_ite h h.mapTeam).setCore

theorem Canonical.issueThr {hint limm bad : Bool} {f : Nat → State → ThrBlock → Threshed} (h : Canonical s)
    (hf : ∀ core b, Canonical (f core s b).s) : NextCanonical (issueThr hint limm bad f s) := by
  unfold Machine.issueThr
  split
  · simp
  · refine nextCanonical_ite (h.issue fun _ => by simp) ?_
    split
    · simp
    · refine nextCanonical_ite h.stallState.toNext (nextCanonical_ite h.endBlock.toNext (nextCanonical_ite h.setBlock.toNext ?_))
      dsimp only
      split
      · exact (hf _ _).setBlock.toNext
      · exact (hf _ _).endBlock.toNext

theorem Canonical.issueThrPure {bad : Bool} {f : ThrBlock → ThrBlock} (h : Canonical s) : NextCanonical (issueThrPure bad f s) :=
  h.issueThr fun _ _ => h

theorem Canonical.thrAlu {f : Word → Word → Word} {d a : BitVec 4} {i : BitVec 11} (h : Canonical s) :
    NextCanonical (thrAlu f d a i s) := h.issueThrPure

theorem Canonical.issueThrHint {bad : Bool} {f : ThrBlock → ThrBlock} (h : Canonical s) : NextCanonical (issueThrHint bad f s) :=
  h.issueThr fun _ _ => h

theorem Canonical.takeBits {advance : Bool} {d : BitVec 4} {m : BitVec 6} (h : Canonical s) : NextCanonical (takeBits advance d m s) := by
  refine h.issueThr fun core b => ?_
  split
  · exact h
  · exact h

theorem emitBytes_canonical {bs : List Byte} {r : Threshed} (h : Canonical r.s) : Canonical (emitBytes bs r).s := by
  induction bs generalizing r with
  | nil => exact h
  | cons y ys ih =>
    simp only [emitBytes]
    split
    · exact h
    · exact ih h.writePlace

theorem copyHistory_canonical {r : Threshed} (h : Canonical r.s) : Canonical (copyHistory k n r).s := by
  induction n generalizing r with
  | zero => exact h
  | succ n ih =>
    simp only [copyHistory]
    split
    · exact h
    · exact ih (emitBytes_canonical h)

theorem Canonical.execThrCopy {d a : BitVec 4} (h : Canonical s) : NextCanonical (execThrCopy d a s) := by
  refine h.issueThr fun core b => ?_
  dsimp only
  split
  · exact h
  · exact copyHistory_canonical h

theorem Canonical.startInput {i : ThrInput} (h : Canonical s) : Canonical (startInput s c i) := by
  unfold Machine.startInput
  split
  · dsimp only
    split
    · exact h.mapTeam.endBlock
    · exact canonical_ite h.mapTeam.setBlock h.mapTeam.endBlock
  · exact h

theorem Canonical.takeInput {is : List ThrInput} (h : Canonical s) : SomeCanonical (takeInput s c is) := by
  induction is with
  | nil => simp [Machine.takeInput]
  | cons i is ih =>
    simp only [Machine.takeInput]
    refine someCanonical_ite ih ?_
    split
    · exact ih
    · exact h.agentFault.toSome
    · next s1 hgo => exact (h.choose s1 hgo).setCore.startInput.toSome

theorem Canonical.execThresherInputTake (h : Canonical s) : NextCanonical (execThresherInputTake s) := by
  unfold Machine.execThresherInputTake
  refine nextCanonical_ite (by simp) ?_
  split
  · exact nextCanonical_ite (by simp) h.setCore.toNext
  · split
    · next s1 hs => exact (h.takeInput s1 hs).toNext
    · simp

theorem Canonical.execThresherStepLimit (h : Canonical s) : NextCanonical (execThresherStepLimit s) := by
  unfold Machine.execThresherStepLimit
  split
  · exact nextCanonical_ite h.endBlock.toNext (by simp)
  · simp

/-! ### Control (spec/12_execution.md R295 to R303) -/

theorem Canonical.branchTo {ss : List Succ} (h : Canonical s) : ResCanonical (branchTo x s ss) := by
  unfold Machine.branchTo
  exact resCanonical_ite (by simp) h

theorem Canonical.callTo {r : Return} {ss : List Succ} (h : Canonical s) : ResCanonical (callTo x s r ss) := by
  unfold Machine.callTo
  exact resCanonical_ite (by simp) h.setGroup.branchTo

theorem indirect_canonical {a : BitVec 6} {next : List Succ → Res} (h : ∀ ss, ResCanonical (next ss)) :
    ResCanonical (indirect x a next) := by
  unfold indirect
  exact resCanonical_ite (by simp) (resCanonical_ite (by simp) (h _))

theorem Canonical.execRet (h : Canonical s) : NextCanonical (execRet s) := by
  refine h.issue fun x => ?_
  exact resCanonical_ite (by simp) h.setGroup.branchTo

theorem Canonical.execYieldExpiry (h : Canonical s) : NextCanonical (execYieldExpiry s) := by
  unfold Machine.execYieldExpiry
  split
  · simp
  · exact nextCanonical_ite h.setGroup.toNext (by simp)

theorem Canonical.execLockx (h : Canonical s) : NextCanonical (execLockx s) := by
  refine h.issue fun x => ?_
  exact resCanonical_ite h.setGroup h.setGroup

theorem Canonical.execUnlockx (h : Canonical s) : NextCanonical (execUnlockx s) := by
  refine h.issue fun x => ?_
  exact resCanonical_ite (by simp) h.setGroup.passX

theorem Canonical.leaveSlot (h : Canonical s) : Canonical (leaveSlot s e) := by
  unfold Machine.leaveSlot
  exact canonical_ite h.removeGroup.mapTeam.launchFault h.removeGroup.mapTeam

theorem Canonical.exitGroup (h : Canonical s) : ResCanonical (exitGroup x s) := by
  unfold Machine.exitGroup
  dsimp only
  split
  · exact resCanonical_ite (by simp) h.setGroup
  · next s1 he =>
    refine Canonical.mapGroup ?_
    rw [← resCanonical_moved, ← he]
    refine h.drainFirst fun t ht => ?_
    split; exacts [ht.leaveSlot, ht]
  · refine h.drainFirst fun t ht => ?_
    split; exacts [ht.leaveSlot, ht]

theorem Canonical.execExit (h : Canonical s) : NextCanonical (execExit s) := by
  refine h.issue fun x => ?_
  dsimp only
  refine resCanonical_ite (resCanonical_ite h.setGroup (by simp)) (resCanonical_ite h.exitGroup ?_)
  split
  · exact resCanonical_ite h.setGroup h.setGroup
  · exact h.setGroup

/-! ### Barriers and monitors (spec/13_scheduling_sync.md R329 to R333) -/

theorem Canonical.withdraw {y : Team} (h : Canonical s) : Canonical (withdraw s l n y) := h.of_same

theorem Canonical.arrive {barl : Bool} {d : BitVec 6} {o : BitVec 2} {m : BitVec 3} {r : BitVec 5} (h : Canonical s) :
    ResCanonical (arrive barl d o m r x s) := by
  unfold Machine.arrive
  split
  · exact h.setTeam.setGroup
  · exact h.foldl fun _ _ hs => hs.withdraw

theorem Canonical.depart {ts : List Nat} (h : Canonical s) : Canonical (depart s ts n c) := h.of_same

theorem Canonical.release {gen : Word} {ps : List Participant} (h : Canonical s) : Canonical (release s e n gen ps) := by
  have h2 : Canonical ((ps.map (·.g.team)).eraseDups.foldl
      (fun s i => s.mapTeam i (fun t => t.setBarrier { slot := n, generation := gen + 1 }))
      (ps.foldl (fun s p => s.mapGroup p.g.core p.g.slot (fun g =>
        if p.barl then { g.mend (· == .s p.reg) with arch := g.arch.setS p.reg (barlValue ps), wait := .departing n }
        else { g with wait := .departing n })) s)) :=
    (h.foldl fun _ _ hs => hs.mapGroup).foldl fun _ _ hs => hs.mapTeam
  unfold Machine.release
  dsimp only
  split
  · exact h2
  · exact canonical_ite h2.depart h2.of_same

theorem Canonical.execBarrierRelease (h : Canonical s) : NextCanonical (execBarrierRelease s) := by
  unfold Machine.execBarrierRelease
  split
  · simp
  · split
    · refine nextCanonical_ite (by simp) ?_
      dsimp only
      split
      · exact h.replayWaiting.toNext
      · next s1 he => exact (h.drained he).release.toNext
      · next s1 he => exact nextCanonical_ite (by simp) (h.drained he).toNext
    · simp

theorem Canonical.execClusterDeparture (h : Canonical s) : NextCanonical (execClusterDeparture s) := by
  unfold Machine.execClusterDeparture
  split
  · simp
  · split
    · simp
    · exact nextCanonical_ite (by simp) (Canonical.toNext (h.of_same))

theorem Canonical.execExtendedSetLending (h : Canonical s) : NextCanonical (execExtendedSetLending s) := by
  unfold Machine.execExtendedSetLending
  split
  · exact nextCanonical_ite h.setGroup.setGroup.toNext (by simp)
  · simp

theorem Canonical.wake {due : List (BitVec 64)} (h : Canonical s) : NextCanonical (wake s e due) := by
  unfold Machine.wake
  dsimp only
  refine nextCanonical_ite h.mapGroup.toNext (nextCanonical_ite h.appendLog.mapGroup.toNext ?_)
  split
  · exact h.replayWaiting.toNext
  · exact nextCanonical_ite h.setLaunch.mapGroup.toNext (by simp)

theorem Canonical.execMonitorWake (h : Canonical s) : NextCanonical (execMonitorWake s) := by
  unfold Machine.execMonitorWake
  split
  · simp
  · split
    · exact nextCanonical_ite (by simp) h.wake
    · simp

theorem Canonical.execWaitmTimeout (h : Canonical s) : NextCanonical (execWaitmTimeout s) := by
  unfold Machine.execWaitmTimeout
  split
  · simp
  · split
    · refine nextCanonical_ite ?_ (nextCanonical_ite h.wake (by simp))
      split
      · exact nextCanonical_ite h.wake (by simp)
      · exact nextCanonical_ite h.replayWaiting.toNext (by simp)
    · simp

theorem Canonical.execAgedIssue (h : Canonical s) : NextCanonical (execAgedIssue s) := by
  unfold Machine.execAgedIssue
  split
  · simp
  · exact nextCanonical_ite h.setGroup.toNext (by simp)

/-! ### Spawning (spec/12_execution.md R287 to R293) -/

theorem Canonical.spawnArrival {entry : BitVec 32} {args : List (BitVec 64)} (h : Canonical s) :
    ResCanonical (spawnArrival x entry args s) := by
  unfold Machine.spawnArrival
  refine resCanonical_ite (by simp) (resCanonical_ite (by simp) ?_)
  split
  · simp
  · simp
  · next s1 hgo => exact (h.choose s1 hgo).setCore.mapLaunch.mapGroup

theorem Canonical.execSpawn {a b : BitVec 6} (h : Canonical s) : NextCanonical (execSpawn a b s) := by
  refine h.issue fun x => ?_
  exact resCanonical_ite (by simp) (resCanonical_ite (by simp) (resCanonical_ite h (h.drainFirst fun _ ht => ht.spawnArrival)))

theorem Canonical.closeBin {b : Bin} (h : Canonical s) : Canonical (closeBin s c b) := h.setCore

theorem Canonical.timerClose {b : Bin} (h : Canonical s) : SomeCanonical (timerClose s c b) := by
  unfold Machine.timerClose
  split
  · simp
  · refine someCanonical_ite (someCanonical_ite h.toSome (by simp)) (someCanonical_ite (someCanonical_ite h.appendLog.toSome (by simp)) ?_)
    split
    · exact someCanonical_ite h.setLaunch.toSome (by simp)
    · simp

theorem Canonical.execBinTimerExpiry (h : Canonical s) : NextCanonical (execBinTimerExpiry s) := by
  have ready : ∀ p ∈ (sortBy (fun b : Bin => b.order) (s.coreAt s.event.core).bins).filterMap
      (fun b => (Machine.timerClose s s.event.core b).map (fun s1 => (s1, b))), Canonical p.1 := by
    intro p hp
    obtain ⟨b, -, hb⟩ := List.mem_filterMap.1 hp
    obtain ⟨s1, hs, rfl⟩ := Option.map_eq_some_iff.1 hb
    exact h.timerClose s1 hs
  unfold Machine.execBinTimerExpiry
  dsimp only
  split
  · next _ _ s1 b _ he =>
    refine (Canonical.closeBin ?_).toNext
    split at he
    · simp at he
    · exact ready (s1, b) (by rw [he]; exact List.mem_cons_self)
  · exact h.launchFault.toNext
  · simp

theorem Canonical.startGroup {team index slot core : Nat} {entry : BitVec 32} {live : LaneMask} {ids : List (BitVec 64)}
    (h : Canonical s) : Canonical (startGroup s l team index slot core entry live ids) := h.of_same

theorem Canonical.execSpawnedGroupStart (h : Canonical s) : NextCanonical (execSpawnedGroupStart s) := by
  unfold Machine.execSpawnedGroupStart
  dsimp only
  split
  · simp
  · split
    · exact nextCanonical_ite (by simp) (Canonical.startGroup (h.of_same)).toNext
    · simp

end Sys2Proof.Machine
end

section
-- One proof is elaborated at a time: the check bounds the threads of the whole text.
set_option Elab.async false
/-! SUPPORT for O58: saves, placements, tasks and the registers of the host keep the canonical form. -/

namespace Sys2Proof.Machine

variable {s t : State} {g : Group} {l : Launch} {c k n : Nat} {e : Env} {x : Issue}

/-! ### Saves and placements (spec/15_recovery.md R379 to R385) -/

theorem smCanonical_putPieces {m : SMap Byte} {a : Nat} {ps : List Piece} (h : smCanonical (0 : Byte) m = true) :
    smCanonical (0 : Byte) (putPieces m a ps) = true := foldl_keeps (P := fun m => smCanonical (0 : Byte) m = true) h
  fun _ _ hm => smCanonical_putCells _ _ _ hm

/-- A save writes its pieces over the cleared parts of its area in the Granary. -/
theorem Canonical.writeSave {y : Team} {hold : Bool} {gs : List Group} {b : Option ThrBlock} {is : List ThrInput} {rs : List ThrResult}
    (h : Canonical s) : Canonical (writeSave s n y l hold gs b is rs) := by
  have hm := (Memory.wf_iff _).1 h.1
  refine ⟨(Memory.wf_iff _).2 fun u => ?_, h.2⟩
  cases u with
  | gddr => exact hm .gddr
  | host => exact hm .host
  | granary =>
    exact smCanonical_putPieces (foldl_keeps (P := fun m => smCanonical (0 : Byte) m = true) (hm .granary)
      fun _ _ => smCanonical_filter _ _ _)

theorem Canonical.restoreThreads (h : Canonical s) : Canonical (restoreThreads s l n c g) := by
  unfold Machine.restoreThreads
  refine h.foldl fun s q hs => ?_
  dsimp only
  split
  · exact canonical_ite hs.putPlace.poisonPlace hs.putPlace
  · exact hs

theorem Canonical.rewalkTeam (h : Canonical s) : Canonical (rewalkTeam s n) := by
  unfold Machine.rewalkTeam
  refine h.foldl fun s g hs => ?_
  cases s.env? g.core g.slot with
  | none => exact hs
  | some e => exact hs.setGroup

theorem Canonical.stopLaunches {struck : List (Nat × List Nat)} (h : Canonical s) : Canonical (stopLaunches s struck) := h.of_same

theorem Canonical.traceTeam {slots : List Nat} (h : Canonical s) : Canonical (traceTeam s n k c slots) := by
  unfold Machine.traceTeam
  split
  · exact h
  · exact canonical_ite h h.setLaunch.hwWrite.hwWrite

theorem Canonical.installTeam {slots : List Nat} (h : Canonical s) : Canonical (installTeam s l k c slots) := by
  unfold Machine.installTeam
  refine Canonical.traceTeam (Canonical.foldl ?_ fun _ _ hs => hs.startGroup)
  exact h.of_same

theorem Canonical.placeFresh (h : Canonical s) : SomeCanonical (placeFresh s n k) :=
  someCanonical_bind fun _ => someCanonical_map fun _ => h.installTeam

theorem Canonical.resumeGroup (h : Canonical s) : Canonical (resumeGroup s c g) := h.of_same

theorem Canonical.reinstall {y : Team} {gs : List Group} {b : Option ThrBlock} {is : List ThrInput} {rs : List ThrResult}
    (h : Canonical s) : Canonical (reinstall s l y c gs b is rs n) := by
  unfold Machine.reinstall
  refine canonical_ite h.launchFault (Canonical.rewalkTeam (Canonical.foldl ?_ fun _ _ hs => hs.restoreThreads.resumeGroup))
  exact h.of_same

theorem Canonical.placeSaved (h : Canonical s) : SomeCanonical (placeSaved s n) :=
  someCanonical_bind fun y => someCanonical_bind fun l => by
    split
    · simp
    · exact someCanonical_map fun _ => h.reinstall

/-- A step over a list that stops at the first refusal. -/
theorem Canonical.placeAll {α : Type} {f : State → α → Option State} {xs : List α} (h : Canonical s)
    (hf : ∀ s y, Canonical s → SomeCanonical (f s y)) : SomeCanonical (placeAll f s xs) :=
  foldl_keeps (P := SomeCanonical) h.toSome fun o y ho => by
    cases o with
    | none => simp
    | some s1 => exact hf s1 y (ho s1 rfl)

theorem someCanonical_bind_of {o : Option State} {f : State → Option State} (ho : SomeCanonical o)
    (hf : ∀ t, Canonical t → SomeCanonical (f t)) : SomeCanonical (o.bind f) := by
  cases o with
  | none => simp
  | some t => exact hf t (ho t rfl)

theorem Canonical.dispatchLaunch (h : Canonical s) : SomeCanonical (dispatchLaunch s l) := by
  unfold Machine.dispatchLaunch
  refine someCanonical_ite (by simp) (someCanonical_ite (someCanonical_ite (by simp) (someCanonical_ite (by simp) ?_)) ?_)
  · exact someCanonical_bind_of (h.placeAll fun _ _ hs => hs.placeSaved) fun _ ht => ht.placeAll fun _ _ hs => hs.placeFresh
  · split
    · exact h.placeSaved
    · split
      · exact someCanonical_ite (by simp) h.placeFresh
      · simp

theorem Canonical.execDispatchStep (h : Canonical s) : NextCanonical (execDispatchStep s) := by
  unfold Machine.execDispatchStep
  refine nextCanonical_ite (Canonical.toNext ?_) (by simp)
  refine foldl_keeps (P := fun acc : State × Bool => Canonical acc.1) h fun acc id ha => ?_
  split
  · next s1 hs =>
    exact someCanonical_bind (o := acc.1.launch? id) (f := Machine.dispatchLaunch acc.1) (fun _ => ha.dispatchLaunch) s1 hs
  · exact ha

theorem Canonical.storeTeam {y : Team} {hold : Bool} (h : Canonical s) : Canonical (storeTeam s y l hold n) := by
  unfold Machine.storeTeam
  exact ((h.writeSave.foldl fun _ _ hs => hs.removeGroup).setCore).mapTeam

theorem Canonical.wakeForSave (h : Canonical s) : LogCanonical (wakeForSave s l g) := by
  unfold Machine.wakeForSave
  dsimp only
  repeat' split
  all_goals simp [h, h.appendLog, h.setLaunch]

theorem Canonical.wakesForSave {gs : List Group} (h : Canonical s) : LogCanonical (wakesForSave l s gs) := by
  induction gs generalizing s with
  | nil => simpa [Machine.wakesForSave]
  | cons g gs ih =>
    simp only [Machine.wakesForSave]
    split
    · next s1 hgo => exact ih (h.wakeForSave s1 hgo)
    · exact h.wakeForSave

theorem Canonical.saveTeam {hold : Bool} (h : Canonical s) : SomeCanonical (saveTeam s n hold) := by
  unfold Machine.saveTeam
  split
  · exact h.toSome
  · refine someCanonical_bind fun area => ?_
    dsimp only
    split
    · simp
    · refine Canonical.toSome ?_
      cases List.find? Group.asleep (s.groupsOf n) with
      | none => exact h
      | some g => exact h.replayWaiting
    · next s0 hgo =>
      have hw := h.wakesForSave s0 hgo
      refine (Canonical.storeTeam (canonical_ite (Canonical.drainGroups ?_) ?_)).toSome
      · exact hw.foldl fun _ _ hs => hs.mapGroup
      · exact hw.foldl fun _ _ hs => hs.mapGroup

theorem Canonical.saveLaunch {hold : Bool} (h : Canonical s) : SomeCanonical (saveLaunch s n hold) :=
  h.placeAll fun _ _ hs => hs.saveTeam

/-! ### Preemption (spec/15_recovery.md R377 to R382) -/

theorem Canonical.endRequest {w : BitVec 64} (h : Canonical s) : Canonical (endRequest s n w) := h.of_same
theorem Canonical.refuseRequest (h : Canonical s) : Canonical (refuseRequest s n c) := h.endRequest

theorem Canonical.execPreemptChosen (h : Canonical s) : NextCanonical (execPreemptChosen s) := by
  unfold Machine.execPreemptChosen
  split
  · simp
  · refine nextCanonical_ite (by simp) ?_
    split
    · exact h.refuseRequest.toNext
    · exact h.of_same.toNext

theorem Canonical.execPreemptSave (h : Canonical s) : NextCanonical (execPreemptSave s) := by
  unfold Machine.execPreemptSave
  split
  · simp
  · refine nextCanonical_ite (by simp) ?_
    split
    · exact h.refuseRequest.toNext
    · refine nextCanonical_ite (by simp) ?_
      split
      · exact h.refuseRequest.toNext
      · next s1 hs => exact (h.saveLaunch s1 hs).endRequest.toNext

theorem Canonical.execPreemptDrain (h : Canonical s) : NextCanonical (execPreemptDrain s) := by
  unfold Machine.execPreemptDrain
  split
  · simp
  · refine nextCanonical_ite (by simp) ?_
    split
    · exact h.refuseRequest.toNext
    · exact nextCanonical_ite h.mapLaunch.endRequest.toNext (nextCanonical_ite (by simp) h.mapLaunch.toNext)

theorem Canonical.markFlushed (h : Canonical s) : Canonical (markFlushed s n) := by
  unfold Machine.markFlushed
  split
  · exact h
  · exact canonical_ite h h.setLaunch.hwWrite

theorem Canonical.flushTeam {started : List Nat} {y : Team} (h : Canonical s) : Canonical (flushTeam started s y) := by
  have h1 : Canonical ((s.groupsOf y.id).foldl (fun s g => s.removeGroup g.core g.slot) s) := h.foldl fun _ _ hs => hs.removeGroup
  unfold Machine.flushTeam
  exact canonical_ite (Canonical.setCore h1.of_same) (Canonical.mapLaunch (Canonical.setCore h1.of_same))

theorem Canonical.execPreemptFlush (h : Canonical s) : NextCanonical (execPreemptFlush s) := by
  unfold Machine.execPreemptFlush
  split
  · simp
  · refine nextCanonical_ite (by simp) ?_
    split
    · exact h.refuseRequest.toNext
    · refine nextCanonical_ite h.endRequest.launchFault.toNext (nextCanonical_ite h.refuseRequest.toNext ?_)
      exact ((h.markFlushed.foldl fun _ _ hs => hs.flushTeam).mapLaunch).endRequest.toNext

theorem Canonical.execPreresume (h : Canonical s) : NextCanonical (execPreresume s) := h.of_same.toNext

/-! ### Revocation (spec/14_isolation.md R359 to R365) -/

theorem Canonical.revoke {struck : Nat × List Nat} (h : Canonical s) : Canonical (revoke s struck) := by
  unfold Machine.revoke
  split
  · next s1 hs => exact (h.saveLaunch s1 hs).mapLaunch
  · exact h.launchFault

theorem Canonical.drainStruck {struck : Nat × List Nat} (h : Canonical s) : Canonical (drainStruck s struck) := by
  unfold Machine.drainStruck
  split
  · exact h
  · exact canonical_ite h h.drainGroups

theorem Canonical.completeInvalidation {b : Bool} (h : Canonical s) : NextCanonical (completeInvalidation s b) := by
  unfold Machine.completeInvalidation
  split
  · simp
  · refine nextCanonical_ite (by simp) (nextCanonical_ite h.of_same.toNext (nextCanonical_ite (by simp) (Canonical.toNext ?_)))
    next v rest _ =>
    have h0 : Canonical ((hitLeases s v).foldl Machine.drainStruck s) := h.foldl fun _ _ hs => hs.drainStruck
    refine canonical_ite (Canonical.setBar ?_) ?_
    · exact Canonical.foldl h0.of_same fun _ _ hs => hs.revoke
    · exact Canonical.foldl h0.of_same fun _ _ hs => hs.revoke

theorem Canonical.enterInvalidation {v : Invalidation} (h : Canonical s) : Canonical (enterInvalidation s v) := h.of_same

theorem Canonical.execAtsInvalidationRequest (h : Canonical s) : NextCanonical (execAtsInvalidationRequest s) := by
  unfold Machine.execAtsInvalidationRequest
  exact nextCanonical_ite h.completeInvalidation h.enterInvalidation.toNext

theorem Canonical.execLeaseRegrant (h : Canonical s) : NextCanonical (execLeaseRegrant s) := by
  unfold Machine.execLeaseRegrant
  split
  · simp
  · exact nextCanonical_ite (nextCanonical_ite (by simp) h.revoke.toNext)
      (nextCanonical_ite (by simp) (nextCanonical_ite h.mapLaunch.toNext h.launchFault.toNext))

/-! ### Tasks (spec/13_scheduling_sync.md R310 to R315) -/

theorem Canonical.submitTask {tcb : BitVec 64} {b : Bool} (h : Canonical s) : Canonical (submitTask s c tcb b).1 := by
  unfold Machine.submitTask
  split
  · exact h.setSys
  · exact h.hwWrite.of_same

theorem Canonical.refuseHost {tcb : BitVec 64} (h : Canonical s) : Canonical (refuseHost s c tcb n) := by
  unfold Machine.refuseHost
  split
  · exact canonical_ite h.writeTcb.completionInterrupt h
  · exact h

theorem Canonical.hostSubmit {b : Bool} (h : Canonical s) : NextCanonical (hostSubmit s b) := by
  unfold Machine.hostSubmit
  exact nextCanonical_ite (by simp) (canonical_ite h.submitTask h.submitTask.refuseHost).toNext

theorem Canonical.execTsub {d a : BitVec 6} (h : Canonical s) : NextCanonical (execTsub d a s) := by
  refine h.issue fun x => ?_
  exact resCanonical_ite (h.drainFirst fun _ ht => ht.submitTask.mapGroup) (by simp)

theorem Canonical.loadWindows (h : Canonical s) : Canonical (loadWindows s l) := h.foldl fun _ _ hs => hs.installWindow

theorem Canonical.writeRecordHeaders (h : Canonical s) : Canonical (writeRecordHeaders s l) := by
  unfold Machine.writeRecordHeaders
  exact canonical_ite h.hwWrite.hwWrite h

theorem Canonical.admitLaunch (h : Canonical s) : Canonical (admitLaunch s l) := by
  unfold Machine.admitLaunch
  refine Canonical.writeRecordHeaders (Canonical.writeAreaHeader (Canonical.loadWindows (Canonical.setSys (Canonical.hwWrite ?_))))
  exact h.of_same

theorem Canonical.dropHead (h : Canonical s) : Canonical (dropHead s n) := h.of_same

theorem Canonical.admitHead {refused : List Nat} (h : Canonical s) : SomeCanonical (admitHead s n refused) := by
  unfold Machine.admitHead
  refine someCanonical_ite (by simp) ?_
  split
  · simp
  · split
    · exact h.dropHead.writeTcb.completionInterrupt.toSome
    · refine someCanonical_ite (by simp) (someCanonical_ite ?_ h.dropHead.admitLaunch.toSome)
      exact h.dropHead.admitLaunch.placeAll fun _ _ hs => hs.placeFresh

theorem Canonical.execAdmission (h : Canonical s) : NextCanonical (execAdmission s) := by
  unfold Machine.execAdmission
  refine nextCanonical_ite (by simp) (nextCanonical_ite (Canonical.toNext ?_) (by simp))
  refine foldl_keeps (P := fun acc : State × Bool => Canonical acc.1) h fun acc q ha => ?_
  split
  · next s1 hs => exact ha.admitHead s1 hs
  · exact ha

theorem Canonical.leaveCore {y : Team} (h : Canonical s) : Canonical (leaveCore s y) := h.of_same

theorem Canonical.retireTeam {y : Team} (h : Canonical s) : SomeCanonical (retireTeam s y l) := by
  unfold Machine.retireTeam
  split
  · refine someCanonical_bind fun f => ?_
    split
    · next s1 hgo => exact (h.choose s1 hgo).writeRecord.endTask.toSome
    · exact h.launchFault.toSome
    · simp
  · exact someCanonical_ite h.launchFault.toSome h.leaveCore.mapLaunch.toSome

theorem Canonical.execTeamRetirement (h : Canonical s) : NextCanonical (execTeamRetirement s) := by
  unfold Machine.execTeamRetirement
  split
  · simp
  · split
    · simp
    · refine nextCanonical_ite (by simp) ?_
      split
      · next s1 hs => exact (h.retireTeam s1 hs).toNext
      · simp

/-- What an optional state gives, where none means that the event is not enabled. -/
theorem SomeCanonical.elim {o : Option State} {r : Refusal} (h : SomeCanonical o) :
    NextCanonical (o.elim (.refused r) .next) := by
  cases o with
  | none => simp
  | some t => exact (h t rfl).toNext

theorem Canonical.execWatchdogFault (h : Canonical s) : NextCanonical (execWatchdogFault s) := by
  unfold Machine.execWatchdogFault
  split
  · simp
  · split
    · simp
    · exact nextCanonical_ite (by simp) h.teamFault.elim

theorem Canonical.execQueueDeadlock (h : Canonical s) : NextCanonical (execQueueDeadlock s) := by
  unfold Machine.execQueueDeadlock
  split
  · simp
  · exact nextCanonical_ite h.teamFault.elim (by simp)

theorem Canonical.writeSignature (h : Canonical s) : Canonical (writeSignature s l) := by
  unfold Machine.writeSignature
  exact canonical_ite h h.hwWrite

theorem decrement_canonical {acc : State × Bool} {a : Option Nat} (h : Canonical acc.1) : Canonical (decrement c acc a).1 := by
  unfold decrement
  dsimp only
  split
  · exact h
  · split
    · exact h
    · split
      · exact h
      · exact canonical_ite h.hwWrite.submitTask h.hwWrite

theorem Canonical.decrements {as : List (Option Nat)} {b : Bool} (h : Canonical s) : Canonical (as.foldl (decrement c) (s, b)).1 :=
  foldl_keeps (P := fun acc : State × Bool => Canonical acc.1) h fun _ _ => decrement_canonical

theorem Canonical.retireLaunch (h : Canonical s) : Canonical (retireLaunch s l) := by
  unfold Machine.retireLaunch
  exact Canonical.completionInterrupt (canonical_ite h.writeSignature.dropLaunch.hwWrite.writeTcb.decrements.hwWrite
    h.writeSignature.dropLaunch.hwWrite.writeTcb.decrements)

theorem Canonical.execLaunchRetirement (h : Canonical s) : NextCanonical (execLaunchRetirement s) := by
  unfold Machine.execLaunchRetirement
  split
  · simp
  · exact nextCanonical_ite h.retireLaunch.toNext (by simp)

end Sys2Proof.Machine
end

section
-- One proof is elaborated at a time: the check bounds the threads of the whole text.
set_option Elab.async false
/-! SUPPORT for O58: system registers, traps, the host's registers, trust, errors and checkpoints keep the canonical form. -/

namespace Sys2Proof.Machine

variable {s t : State} {g : Group} {l : Launch} {c k n : Nat} {e : Env} {x : Issue}

/-! ### System registers (spec/14_isolation.md R346 to R355) -/

theorem Canonical.execSread {d : BitVec 6} {m : BitVec 12} (h : Canonical s) : NextCanonical (execSread d m s) := by
  refine h.issue fun x => ?_
  refine resCanonical_ite (by simp) (resCanonical_ite ?_ h.mapGroup)
  split
  · next s1 v he =>
    have hl := h.timeRead (launch := x.e.l.id) (g := x.e.g) (reg := m.toNat) (v := sysValue s x m.toNat)
    rw [he] at hl
    exact Canonical.mapGroup (hl s1 rfl)
  · simp
  · simp

/-- The state of a register write that is not denied is canonical. -/
def WriteCanonical (r : Except Denied State) : Prop := ∀ t, r = .ok t → Canonical t

@[simp] theorem writeCanonical_ok : WriteCanonical (.ok s) ↔ Canonical s := by simp [WriteCanonical]
@[simp] theorem writeCanonical_error {d : Denied} : WriteCanonical (.error d) := fun _ h => nomatch h

theorem writeCanonical_ite {p : Prop} [Decidable p] {a b : Except Denied State} (ha : WriteCanonical a) (hb : WriteCanonical b) :
    WriteCanonical (if p then a else b) := by split <;> assumption

theorem Canonical.toOk (h : Canonical s) : WriteCanonical (.ok s) := writeCanonical_ok.2 h

theorem Canonical.writeRange {v : BitVec 64} (h : Canonical s) : WriteCanonical (writeRange s c n v) := by
  have ok : WriteCanonical (.ok (s.setSys c n v)) := h.setSys.toOk
  unfold Machine.writeRange
  refine writeCanonical_ite (by simp) (writeCanonical_ite (by simp) (writeCanonical_ite ?_ (writeCanonical_ite (by simp)
    (writeCanonical_ite (writeCanonical_ite ok (by simp)) (writeCanonical_ite ok (by simp))))))
  split
  · exact writeCanonical_ite ok (by simp)
  · exact writeCanonical_ite (by simp) (writeCanonical_ite ok (by simp))
  · simp
  · simp

theorem Canonical.writeSystem {v : BitVec 64} (h : Canonical s) : WriteCanonical (writeSystem s c n v) := by
  have ok : ∀ w, WriteCanonical (.ok (s.setSys c n w)) := fun w => h.setSys.toOk
  unfold Machine.writeSystem
  exact writeCanonical_ite (writeCanonical_ite (ok _) (by simp)) (writeCanonical_ite (ok _) (writeCanonical_ite h.writeRange
    (writeCanonical_ite (writeCanonical_ite (ok _) (by simp)) (writeCanonical_ite (ok _) (writeCanonical_ite (ok _)
      (writeCanonical_ite (writeCanonical_ite (ok _) (by simp)) (by simp)))))))

theorem Canonical.settleOwn {struck : Nat × List Nat} (h : Canonical s) : Canonical (settleOwn s struck) := by
  have hd : Canonical (Machine.drainStruck s struck) := h.drainStruck
  unfold Machine.settleOwn
  exact Canonical.foldl hd.of_same fun _ _ hs => hs.rewalkTeam

theorem Canonical.writeXlinv {v : BitVec 64} (h : Canonical s) : ResCanonical (writeXlinv x s v) := by
  unfold Machine.writeXlinv
  split
  · simp
  · refine resCanonical_ite ?_ (resCanonical_ite h.stopLaunches (by simp))
    exact Canonical.stopLaunches (((h.foldl fun _ _ hs => hs.drainStruck).foldl fun _ _ hs => hs.revoke).foldl
      fun _ _ hs => hs.settleOwn)

theorem Canonical.writeText {va : Nat} {bs : List (Byte × Bool)} (h : Canonical s) : Canonical (writeText s c va bs) := by
  unfold Machine.writeText
  refine h.foldl fun s q hs => ?_
  split
  · exact hs
  · split
    · exact hs
    · exact canonical_ite hs.writePlace.poisonPlace hs.writePlace

theorem Canonical.rewriteDigest {r : Region} (h : Canonical s) : Canonical (rewriteDigest s c r) := h.writeText.of_same

theorem Canonical.startPatch (h : Canonical s) : Canonical (startPatch s c n) := by
  unfold Machine.startPatch
  dsimp only
  split
  · exact canonical_ite h.setSys h.of_same
  · exact h.setSys

theorem Canonical.finishPatch {j : PatchJob} (h : Canonical s) : Canonical (finishPatch s c j) :=
  h.writeText.rewriteDigest.setPatch.setSys

theorem Canonical.writeBody {v : BitVec 64} (h : Canonical s) : ResCanonical (writeBody n x v s) := by
  unfold Machine.writeBody
  refine resCanonical_ite h.writeXlinv (resCanonical_ite h.startPatch ?_)
  split
  · next s1 hw => exact h.writeSystem s1 hw
  · simp

theorem Canonical.execSwrite {m a b : BitVec 6} (h : Canonical s) : NextCanonical (execSwrite m a b s) := by
  refine h.issue fun x => ?_
  exact resCanonical_ite (by simp) (resCanonical_ite (by simp) (h.drainFirst fun _ ht => ht.writeBody))

/-! ### Traps (spec/15_recovery.md R370, R376) -/

theorem Canonical.recordBreakpoint (h : Canonical s) : LogCanonical (recordBreakpoint x n s) := by
  unfold Machine.recordBreakpoint
  split
  · next s1 hgo => exact logCanonical_go.2 (h.choose s1 hgo).writeRecord.mapGroup
  · exact h.choose

theorem Canonical.haltTeam (h : Canonical s) : ResCanonical (haltTeam x n s) := by
  unfold Machine.haltTeam
  refine resCanonical_ite h.setTeam.setGroup (resCanonical_ite (resCanonical_ite (by simp) h.setGroup) ?_)
  split
  · simp
  · simp
  · next s1 hgo =>
    split
    · next s2 hs => exact (h.recordBreakpoint s1 hgo).saveTeam s2 hs
    · simp

theorem Canonical.execBkpt {m : BitVec 12} (h : Canonical s) : NextCanonical (execBkpt m s) := by
  refine h.issue fun x => ?_
  exact resCanonical_ite h.haltTeam (by simp)

theorem Canonical.execTret (h : Canonical s) : NextCanonical (execTret s) := by
  refine h.issue fun x => ?_
  split
  · simp
  · exact resCanonical_ite (by simp) h.setGroup

/-! ### The host's registers (spec/14_isolation.md R346 to R353) -/

theorem Canonical.hostWrite (h : Canonical t) : NextCanonical (hostWrite s t) := by
  unfold Machine.hostWrite
  exact nextCanonical_ite h.toNext (by simp)

theorem Canonical.discard (h : Canonical s) : Canonical (discard s c n k) := h.setBar

theorem Canonical.managed {r : Except Denied State} (h : Canonical s) (hr : WriteCanonical r) : Canonical (managed s c n r) := by
  cases r with
  | ok s1 => exact hr s1 rfl
  | error d => exact h.discard

theorem Canonical.execRangeRegisterWrite (h : Canonical s) : NextCanonical (execRangeRegisterWrite s) := by
  unfold Machine.execRangeRegisterWrite
  exact nextCanonical_ite (by simp) (h.managed h.writeRange).hostWrite

theorem Canonical.execCommWrite (h : Canonical s) : NextCanonical (execCommWrite s) := by
  unfold Machine.execCommWrite
  exact nextCanonical_ite (by simp) (h.managed h.writeSystem).hostWrite

theorem Canonical.execSubstatClear (h : Canonical s) : NextCanonical (execSubstatClear s) := by
  unfold Machine.execSubstatClear
  exact nextCanonical_ite (by simp) h.setSys.hostWrite

theorem Canonical.execXlinv (h : Canonical s) : NextCanonical (execXlinv s) := by
  unfold Machine.execXlinv
  refine nextCanonical_ite h.completeInvalidation (nextCanonical_ite (by simp) ?_)
  split
  · exact h.discard.hostWrite
  · exact h.setBar.enterInvalidation.hostWrite

theorem Canonical.writePatch (h : Canonical s) : Canonical (writePatch s c n) := by
  unfold Machine.writePatch
  split
  · exact h.discard.setPatch
  · exact canonical_ite h.startPatch h.discard

theorem Canonical.execPatch (h : Canonical s) : NextCanonical (execPatch s) := by
  unfold Machine.execPatch
  refine nextCanonical_ite (by simp) (nextCanonical_ite ?_ h.writePatch.hostWrite)
  split
  · exact h.finishPatch.hostWrite
  · simp

theorem Canonical.execCtxstateActivate (h : Canonical s) : NextCanonical (execCtxstateActivate s) := by
  unfold Machine.execCtxstateActivate
  exact nextCanonical_ite (by simp) h.setSys.hostWrite

theorem Canonical.execCtxstateFree (h : Canonical s) : NextCanonical (execCtxstateFree s) := by
  unfold Machine.execCtxstateFree
  exact nextCanonical_ite (by simp) (canonical_ite h.setSys h.setContext).hostWrite

theorem Canonical.writeHostOnly {v : BitVec 64} (h : Canonical s) : Canonical (writeHostOnly s c n v) := by
  unfold Machine.writeHostOnly
  exact canonical_ite h.discard (canonical_ite h.discard (canonical_ite h h.setSys))

theorem Canonical.writeManagement {v : BitVec 64} (h : Canonical s) : Canonical (writeManagement s c n v) := by
  unfold Machine.writeManagement
  exact canonical_ite h (canonical_ite h.writeHostOnly (h.managed h.writeSystem))

theorem Canonical.startRequest {v : BitVec 64} (h : Canonical s) : Canonical (startRequest s v) := h.of_same

theorem Canonical.writeDevice {v : BitVec 64} (h : Canonical s) : Canonical (writeDevice s n v) := by
  unfold Machine.writeDevice
  split
  case h_2 => exact canonical_ite h h.setBar
  case h_4 => exact h.startRequest
  case h_12 => exact h
  all_goals exact h.setBar

theorem Canonical.execRegisterWrite (h : Canonical s) : NextCanonical (execRegisterWrite s) := by
  unfold Machine.execRegisterWrite
  exact nextCanonical_ite (nextCanonical_ite h.writeDevice.toNext (by simp))
    (nextCanonical_ite (nextCanonical_ite (by simp) h.writeManagement.hostWrite)
      (nextCanonical_ite (by simp) h.writeDevice.hostWrite))

theorem Canonical.execBar4Access (h : Canonical s) : NextCanonical (execBar4Access s) := by
  unfold Machine.execBar4Access
  refine nextCanonical_ite (by simp) (nextCanonical_ite (Canonical.hostWrite h.of_same) (nextCanonical_ite (Canonical.hostWrite ?_)
    (Canonical.hostWrite h.of_same)))
  refine Canonical.of_same (s := (sectorsOf _ _).foldl _ s) (h.foldl fun s q hs => ?_)
  split
  · exact hs.writePlace
  · exact hs

/-! ### Reset, firmware and attestation (spec/14_isolation.md R347, R367, R368) -/

theorem Canonical.restart (h : Canonical s) : Canonical (restart s) := h.of_same

/-- Only host memory keeps its bytes. -/
theorem Canonical.execPowerOn (h : Canonical s) : NextCanonical (execPowerOn s) := by
  have hm := (Memory.wf_iff _).1 h.1
  refine Canonical.toNext ⟨(Memory.wf_iff _).2 fun u => ?_, h.2⟩
  cases u with
  | gddr => rfl
  | granary => rfl
  | host => exact hm .host

theorem Canonical.refuseImage (h : Canonical s) : Canonical (refuseImage s n) := h.setBar
theorem Canonical.startJob {j : MailboxJob} (h : Canonical s) : Canonical (startJob s j n) := h.of_same
theorem Canonical.endJob {j : MailboxJob} (h : Canonical s) : Canonical (endJob s j) := h.of_same

theorem Canonical.install {b : Bool} (h : Canonical s) : Canonical (install s b) := by
  unfold Machine.install
  refine canonical_ite h.refuseImage ?_
  split
  · exact canonical_ite (Canonical.setBar (Canonical.restart h.of_same)) h.refuseImage
  · exact h.refuseImage

theorem Canonical.execFirmwareInstall (h : Canonical s) : NextCanonical (execFirmwareInstall s) := by
  unfold Machine.execFirmwareInstall
  exact nextCanonical_ite (by simp) (nextCanonical_ite h.endJob.install.toNext (nextCanonical_ite h.refuseImage.toNext h.startJob.toNext))

theorem Canonical.execFuseRaise (h : Canonical s) : NextCanonical (execFuseRaise s) := by
  unfold Machine.execFuseRaise
  exact (canonical_ite h.of_same h).hostWrite

theorem Canonical.answerAttestation {out : List Byte} (h : Canonical s) : Canonical (answerAttestation s out) := by
  unfold Machine.answerAttestation
  exact canonical_ite h.setBar h.writePlace.setBar

theorem Canonical.failAttestation (h : Canonical s) : Canonical (failAttestation s) := h.setBar

theorem Canonical.attest {b : Bool} (h : Canonical s) : Canonical (attest s b) := by
  unfold Machine.attest
  split
  · exact h.answerAttestation
  · exact h.failAttestation

theorem Canonical.sendChain {b : Bool} (h : Canonical s) : Canonical (sendChain s b) := by
  unfold Machine.sendChain
  exact canonical_ite h.failAttestation h.answerAttestation

theorem Canonical.attestationJob {j : MailboxJob} {run : State → Bool → State} (h : Canonical s)
    (hr : ∀ t b, Canonical t → Canonical (run t b)) : NextCanonical (attestationJob s j run) := by
  unfold Machine.attestationJob
  exact nextCanonical_ite (hr _ _ h.endJob).hostWrite (nextCanonical_ite (by simp) h.startJob.hostWrite)

/-! ### Errors and power (spec/15_recovery.md R393, R394, R397) -/

theorem Canonical.execTimingErrorReplay (h : Canonical s) : NextCanonical (execTimingErrorReplay s) := by
  unfold Machine.execTimingErrorReplay
  split
  · exact h.toNext
  · refine nextCanonical_ite h.toNext (nextCanonical_ite (by simp) ?_)
    split
    · next s1 hs => exact (h.takeFault s1 hs).toNext
    · simp

theorem Canonical.tableError (h : Canonical s) : SomeCanonical (tableError s c k) :=
  someCanonical_bind fun _ => someCanonical_map fun _ => canonical_ite h.setGroup (h.takeFault.getD h.setGroup)

theorem Canonical.strikeSite {y : ErrSite} (h : Canonical s) : Canonical (strikeSite s y) := by
  cases y with
  | mem => exact h.poisonPlace
  | loft => exact h.poisonPlace
  | barn => exact h.poisonPlace
  | reg => exact h.mapGroup
  | table => exact h.tableError.getD h
  | unit => exact h.foldl fun _ _ hs => hs.launchFault

theorem Canonical.execUncorrectableError (h : Canonical s) : NextCanonical (execUncorrectableError s) := by
  unfold Machine.execUncorrectableError
  split
  · simp
  · exact h.tableError.elim
  · exact h.strikeSite.toNext

theorem Canonical.execPowerTokenBid (h : Canonical s) : NextCanonical (execPowerTokenBid s) := by
  have hr : Canonical (readMonitors s) := h.foldl fun _ _ hs => hs.setBar
  unfold Machine.execPowerTokenBid
  exact nextCanonical_ite (by simp) (hr.of_same (by dsimp only) (by dsimp only)).toNext

theorem Canonical.execThermalThrottle (h : Canonical s) : NextCanonical (execThermalThrottle s) := by
  unfold Machine.execThermalThrottle
  exact nextCanonical_ite (by simp) (nextCanonical_ite h.of_same.toNext (nextCanonical_ite h.of_same.toNext (by simp)))

theorem Canonical.execThermalShutdown (h : Canonical s) : NextCanonical (execThermalShutdown s) := by
  unfold Machine.execThermalShutdown
  exact nextCanonical_ite (by simp) h.of_same.toNext

/-! ### Checkpoints (spec/15_recovery.md R395, R396) -/

theorem Canonical.saveEvery (h : Canonical s) : SomeCanonical (saveEvery s) := h.placeAll fun _ _ hs => hs.saveLaunch

theorem Canonical.endCheckpoint (h : Canonical s) : Canonical (endCheckpoint s n k) := h.setBar

/-- The bytes behind a port of a canonical state are in canonical form. -/
theorem Canonical.portCells (h : Canonical s) : smCanonical (0 : Byte) (portCells s n) = true := by
  unfold Machine.portCells
  split
  · exact (Memory.wf_iff _).1 h.1 .host
  · exact h.2

theorem Canonical.setPort {cs : List Host.Cell} (h : Canonical s) (hc : smCanonical (0 : Byte) cs = true) : Canonical (setPort s n cs) := by
  unfold Machine.setPort
  split
  · exact ⟨Memory.wf_setCells _ _ _ h.1 hc, h.2⟩
  · exact ⟨h.1, hc⟩

theorem Canonical.clearPort (h : Canonical s) : Canonical (clearPort s n k) := by
  unfold Machine.clearPort
  split
  · exact ⟨(Memory.wf_setPoison _ _ _).trans h.1, h.2⟩
  · exact h

theorem Canonical.writeChunk {cells : SMap Byte} {p : (Nat × Nat) × Nat} (h : Canonical s) : Canonical (writeChunk cells s p) := by
  unfold Machine.writeChunk
  exact h.clearPort.setPort (foldl_keeps (P := fun m => smCanonical (0 : Byte) m = true) (smCanonical_filter _ _ _ h.portCells)
    fun _ _ => smCanonical_smSet _ _ _ _)

theorem Canonical.writeImage {ts : List Target} (h : Canonical s) : Canonical (writeImage s ts) := h.foldl fun _ _ hs => hs.writeChunk

theorem Canonical.execCheckpoint (h : Canonical s) : NextCanonical (execCheckpoint s) := by
  unfold Machine.execCheckpoint
  refine nextCanonical_ite (nextCanonical_ite (by simp) ?_) (nextCanonical_ite (by simp) (nextCanonical_ite ?_ ?_))
  · split
    · exact h.endCheckpoint.toNext
    · next s1 hs =>
      have hw : Canonical (Machine.writeImage s1 (targetList s1)) := (h.saveEvery s1 hs).writeImage
      exact (Canonical.endCheckpoint (hw.of_same (by dsimp only) (by dsimp only))).toNext
  · exact (Canonical.endCheckpoint h.of_same).hostWrite
  · exact (Canonical.setBar h.of_same).hostWrite

/-- Maps with ascending ranges of keys, one after the other, make one map in canonical form. -/
theorem smCanonical_append {m m' : SMap Byte} {a : Nat} (hm : smCanonical (0 : Byte) m = true) (hm' : smCanonical (0 : Byte) m' = true)
    (hlt : ∀ y ∈ m, y.1 < a) (hge : ∀ y ∈ m', a ≤ y.1) : smCanonical (0 : Byte) (m ++ m') = true := by
  induction m with
  | nil => exact hm'
  | cons y m ih =>
    obtain ⟨hy, hr, hc⟩ := (smCanonical_cons _ _ _).1 hm
    refine (smCanonical_cons _ _ _).2 ⟨hy, fun z hz => ?_, ih hc fun z hz => hlt z (List.mem_cons_of_mem _ hz)⟩
    rcases List.mem_append.1 hz with hz | hz
    · exact hr z hz
    · exact Nat.lt_of_lt_of_le (hlt y List.mem_cons_self) (hge z hz)

/-- Keys moved in a strictly monotone way keep the canonical form. -/
theorem smCanonical_mapKeys {m : SMap Byte} {f : Nat → Nat} (hm : smCanonical (0 : Byte) m = true)
    (hf : ∀ y ∈ m, ∀ z ∈ m, y.1 < z.1 → f y.1 < f z.1) : smCanonical (0 : Byte) (m.map (fun y => (f y.1, y.2))) = true := by
  induction m with
  | nil => rfl
  | cons y m ih =>
    obtain ⟨hy, hr, hc⟩ := (smCanonical_cons _ _ _).1 hm
    refine (smCanonical_cons _ _ _).2 ⟨hy, fun z hz => ?_, ih hc fun a ha b hb =>
      hf a (List.mem_cons_of_mem _ ha) b (List.mem_cons_of_mem _ hb)⟩
    obtain ⟨b, hb, rfl⟩ := List.mem_map.1 hz
    exact hf y List.mem_cons_self b (List.mem_cons_of_mem _ hb) (hr b hb)

/-- Numbered maps, each with its keys in the stretch of its number, make one map in canonical form. -/
theorem smCanonical_stretches {α : Type} {f : α × Nat → SMap Byte} {b : Nat} (hf : ∀ p, smCanonical (0 : Byte) (f p) = true)
    (hk : ∀ p, ∀ y ∈ f p, b * p.2 ≤ y.1 ∧ y.1 < b * (p.2 + 1)) (xs : List α) (n : Nat) :
    smCanonical (0 : Byte) ((xs.zip (List.range' n xs.length)).flatMap f) = true
      ∧ ∀ y ∈ (xs.zip (List.range' n xs.length)).flatMap f, b * n ≤ y.1 := by
  induction xs generalizing n with
  | nil => exact ⟨rfl, fun _ hy => nomatch hy⟩
  | cons x xs ih =>
    obtain ⟨hc, hge⟩ := ih (n + 1)
    simp only [List.length_cons, List.range'_succ, List.zip_cons_cons, List.flatMap_cons]
    refine ⟨smCanonical_append (hf _) hc (fun y hy => (hk _ y hy).2) hge, fun y hy => ?_⟩
    rcases List.mem_append.1 hy with hy | hy
    · exact (hk _ y hy).1
    · exact Nat.le_trans (Nat.mul_le_mul_left b (Nat.le_succ n)) (hge y hy)

/-- The image read back from the targets of a canonical state is in canonical form: each chunk has its own stretch of offsets. -/
theorem Canonical.readImage {ts : List Target} (h : Canonical s) : smCanonical (0 : Byte) (readImage s ts) = true := by
  unfold Machine.readImage
  dsimp only
  rw [List.range_eq_range']
  refine (smCanonical_stretches (b := chunkBytes) (fun p => ?_) (fun p y hy => ?_) _ 0).1
  · refine smCanonical_mapKeys (f := fun a => chunkBytes * p.2 + (a - portKey p.1.1 p.1.2)) (smCanonical_filter _ _ _ h.portCells)
      fun y hy z hz hlt => ?_
    have hy := (List.mem_filter.1 hy).2
    simp only [Bool.and_eq_true, decide_eq_true_eq] at hy
    omega
  · obtain ⟨z, hz, rfl⟩ := List.mem_map.1 hy
    have hz := (List.mem_filter.1 hz).2
    simp only [Bool.and_eq_true, decide_eq_true_eq] at hz
    rw [Nat.mul_add, Nat.mul_one]
    simp only
    omega

/-- The memory of an image in canonical form: each tier is a stretch of the image moved down to 0. -/
theorem Memory.wf_restoredMemory {m : Memory} {cells : SMap Byte} (hm : m.wf = true) (hc : smCanonical (0 : Byte) cells = true) :
    (restoredMemory m cells).wf = true := by
  have part : ∀ a n : Nat, smCanonical (0 : Byte) ((cells.filter (fun b => a ≤ b.1 && b.1 < a + n)).map (fun b => (b.1 - a, b.2))) = true :=
    fun a n => smCanonical_mapKeys (f := fun k => k - a) (smCanonical_filter _ _ _ hc) fun y hy z hz hlt => by
      have hy := (List.mem_filter.1 hy).2
      simp only [Bool.and_eq_true, decide_eq_true_eq] at hy
      omega
  rw [Memory.wf_iff] at *
  intro u
  cases u with
  | gddr => exact part _ _
  | granary => exact part _ _
  | host => exact hm .host

theorem Canonical.restoreImage {cells : SMap Byte} (h : Canonical s) (hc : smCanonical (0 : Byte) cells = true) :
    Canonical (restoreImage s cells) := ⟨Memory.wf_restoredMemory h.1 hc, h.2⟩

theorem Canonical.execCheckpointRestore (h : Canonical s) : NextCanonical (execCheckpointRestore s) := by
  have h1 : Canonical { s with checkpointStart := s.tick } := h.of_same
  unfold Machine.execCheckpointRestore
  exact nextCanonical_ite (by simp) (nextCanonical_ite h1.endCheckpoint.hostWrite (nextCanonical_ite h1.endCheckpoint.hostWrite
    (h1.restoreImage h.readImage).endCheckpoint.hostWrite))

end Sys2Proof.Machine
end

section
-- One proof is elaborated at a time: the check bounds the threads of the whole text.
set_option Elab.async false
/-! SUPPORT for O58: every row of the model keeps the canonical form, and so does the schedule that chooses among them. -/

namespace Sys2Proof.Machine

variable {s t : State} {c k n : Nat} {x : Issue}

/-! ### Hints and the unassigned major (spec/02_encoding.md R43 to R47) -/

theorem Canonical.hintOr {f : Issue → Arch → Arch} (h : Canonical s) : NextCanonical (hintOr n f s) := by
  unfold Machine.hintOr
  exact nextCanonical_ite h.issueThrHint h.issueHint

theorem Canonical.execHnop (h : Canonical s) : NextCanonical (execHnop s) := by
  unfold Machine.execHnop
  exact nextCanonical_ite h.issueThrHint h.issueHint

theorem Canonical.execLimm {i : BitVec 20} (h : Canonical s) : NextCanonical (execLimm i s) := by
  unfold Machine.execLimm
  exact nextCanonical_ite h.issueThrHint h.issueHint

theorem Canonical.execUnassignedMajor (h : Canonical s) : NextCanonical (execUnassignedMajor s) := by
  unfold Machine.execUnassignedMajor
  split
  · simp
  · refine nextCanonical_ite ?_ (h.issue fun _ => h)
    split
    · simp
    · exact (canonical_ite h.stallState h.endBlock).toNext

/-! ### Every row -/

/-- Each row of the model keeps the form: by its shape where rows share one, else by its own lemma. -/
theorem Canonical.exec {i : Instr} (h : Canonical s) : NextCanonical (exec i s) := by
  cases i with
  | iadd | isub | imul | imulhS32 | imulhN32 | imad | iminS32 | imaxS32 | iminN32 | imaxN32 | and | or | xor | shl | shr
  | sar | iadd64 | isub64 | bfeS32 | bfeN32 | bfi | iaddi | andi | ori | shli | shri | sari | mov | not | ineg | iabs | popc
  | clz | brev | sextS8 | sextS16 | zextN8 | zextN16 | mov64 | movi | movhi | icmpS32 | icmpN32 | plog | pmvVp | pmvPv
  | pmvSp | pmvPs | voteBallot | voteAny | voteAll | voteUni | voteActive | voteCount | shflIdx | shflUp | shflDown
  | shflXor | shflv | matchB32 | matchB64 | xred | uadd | usub | umul | umulhS32 | umulhN32 | uand | uor | uxor | ushl
  | ushr | usar | uminS32 | umaxS32 | uminN32 | umaxN32 | umov | unot | usetEq | usetNe | usetLtS32 | usetLeS32 | usetLtN32
  | usetLeN32 | uadd64 | usub64 | upopc | uclz | umovi | uaddi | umovhi | uvmovVs | uvmovSv | uvmovFirst | laddLn8
  | laddLn16 | laddLn32 | lsubLn8 | lsubLn16 | lsubLn32 | lmulLn8 | lmulLn16 | lmulLn32 | lmadLn8 | lmadLn16 | lmadLn32
  | ldivLn16 | ldivLn32 | lminLn16 | lminLn32 | lmaxLn16 | lmaxLn32 | lpowLn32 | lscaleLn16 | lscaleLn32 | lcmpLn16
  | lcmpLn32 | lneg | labs | lrcp | lsqr | lsqrt | lrsqrt | lexp2 | llog2 | lexp | lsint | lcost | lclass | lcvtLn8
  | lcvtLn16 | lcvtLn32 | lgetl | lmkl | lunpk0 | lunpk1 | lunpk2 | lunpk3 | lfix | lflt | fcvtToLn | fcvtToIeee | lpack
  | flagGet | flagSet | flagClr | flagPut | flagGor | flagTst | widF0 | widF1 | widF2 | widF3 | widF4 | widF5 | widId
  | widKey | widExt0 | widExt1 | widExt2 | widExt3 | widExt4 | widExt5 => exact h.issueArch
  | lmma => exact h.execLmma
  | lmms => exact h.execLmms
  | imma => exact h.execImma
  | aclrLn32 | aclrLn16 | aclrS32 => exact h.clearAcc
  | ard => exact h.execArd
  | awr => exact h.execAwr
  | amov => exact h.execAmov
  | tld => exact h.execTld
  | tst => exact h.execTst
  | tmov => exact h.execTmov
  | twset => exact h.execTwset
  | twget => exact h.execTwget
  | mwait => exact h.execMwait
  | gset => exact h.execGset
  | gcfg => exact h.execGcfg
  | ldgUniformVector | ldgUniform | ldgVector | ldhVector | ldhOffset => exact h.issue fun _ => h.loadBody
  | stgUniformVector | stgUniform | stgVector | sthVector | sthOffset => exact h.issue fun _ => h.storeBody
  | atom => exact h.execAtom
  | red => exact h.execRed
  | fenceX => exact h.execFenceX
  | talloc => exact h.execTalloc
  | tfree => exact h.execTfree
  | pref => exact h.execPref
  | vspl => exact h.execVspl
  | vfil => exact h.execVfil
  | qpush => exact h.execQpush
  | qpop => exact h.execQpop
  | qtry => exact h.execQtry
  | thrGet | thrPeek => exact h.takeBits
  | thrSkip | thrBfx | thrLut | thrTbw | thrBr =>
    simp only [exec_thrSkip, exec_thrBfx, exec_thrLut, exec_thrTbw, exec_thrBr]
    exact h.issueThrPure
  | thrRefill | thrMovi | thrHalt =>
    simp only [exec_thrRefill, exec_thrMovi, exec_thrHalt]
    exact h.issueThr fun _ _ => h
  | thrAdd | thrSub | thrAnd | thrOr | thrXor | thrShl | thrShr | thrSar =>
    simp only [exec_thrAdd, exec_thrSub, exec_thrAnd, exec_thrOr, exec_thrXor, exec_thrShl, exec_thrShr, exec_thrSar]
    exact h.thrAlu
  | thrEmit =>
    rw [exec_thrEmit]
    exact h.issueThr fun _ _ => emitBytes_canonical h
  | thrCopy => exact h.execThrCopy
  | qbindInit | qbindAttach => exact h.bindQueue
  | qbindUnbind => exact h.execQbindUnbind
  | waitmUniformVector | waitmUniform | waitmVector => exact h.issue fun _ => h.waitmBody
  | bra | brp => exact h.issue fun _ => h.branchTo
  | call => exact h.issue fun _ => h.callTo
  | jmp => exact h.issue fun _ => indirect_canonical fun _ => h.branchTo
  | calli => exact h.issue fun _ => indirect_canonical fun _ => h.callTo
  | spawn => exact h.execSpawn
  | bar | barl => exact h.issue fun _ => h.arrive
  | tsub => exact h.execTsub
  | sread => exact h.execSread
  | swrite => exact h.execSwrite
  | trap => exact h.issue fun _ => resCanonical_fault
  | bkpt => exact h.execBkpt
  | limm => exact h.execLimm
  | rnd | guard | bpri | sat | placement => exact h.hintOr
  | mwaitAll => exact h.execMwaitAll
  | abfl => exact h.execAbfl
  | nop => exact h.issue fun _ => h
  | ret => exact h.execRet
  | exit => exact h.execExit
  | yield => exact h.issue fun _ => h.setGroup
  | lockx => exact h.execLockx
  | unlockx => exact h.execUnlockx
  | tret => exact h.execTret
  | hnop => exact h.execHnop
  | variableLatencyResult => exact h.execVariableLatencyResult
  | fenceCompletion => exact h.execFenceCompletion
  | fenceRollback => exact h.execFenceRollback
  | tileEnginePass => exact h.execTileEnginePass
  | queueUnblock => exact h.execQueueUnblock
  | monitorWake => exact h.execMonitorWake
  | waitmTimeout => exact h.execWaitmTimeout
  | barrierRelease => exact h.execBarrierRelease
  | clusterDeparture => exact h.execClusterDeparture
  | extendedSetLending => exact h.execExtendedSetLending
  | agedIssue => exact h.execAgedIssue
  | yieldExpiry => exact h.execYieldExpiry
  | binTimerExpiry => exact h.execBinTimerExpiry
  | spawnedGroupStart => exact h.execSpawnedGroupStart
  | watchdogFault => exact h.execWatchdogFault
  | queueDeadlock => exact h.execQueueDeadlock
  | copyOrConvert => exact Canonical.engineEvent fun _ => h.performCopy
  | expand => exact Canonical.engineEvent fun _ => h.performExpand
  | gather => exact Canonical.engineEvent fun _ => h.performGather
  | scatter => exact Canonical.engineEvent fun _ => h.performScatter
  | scatterAdd => exact Canonical.engineEvent fun _ => h.performScatterAdd
  | allReduce | reduceScatter | allGather | broadcast => exact Canonical.engineEvent fun _ => h.performCollective
  | linkError => exact h.execLinkError
  | thresherInputTake => exact h.execThresherInputTake
  | thresherStepLimit => exact h.execThresherStepLimit
  | submit | psubmit => exact h.hostSubmit
  | admission => exact h.execAdmission
  | dispatchStep => exact h.execDispatchStep
  | teamRetirement => exact h.execTeamRetirement
  | launchRetirement => exact h.execLaunchRetirement
  | preemptChosen => exact h.execPreemptChosen
  | preemptSave => exact h.execPreemptSave
  | preemptDrain => exact h.execPreemptDrain
  | preemptFlush => exact h.execPreemptFlush
  | preresume => exact h.execPreresume
  | atsInvalidationRequest => exact h.execAtsInvalidationRequest
  | leaseRegrant => exact h.execLeaseRegrant
  | xlinv => exact h.execXlinv
  | patch => exact h.execPatch
  | ctxstateActivate => exact h.execCtxstateActivate
  | ctxstateFree => exact h.execCtxstateFree
  | commWrite => exact h.execCommWrite
  | rangeRegisterWrite => exact h.execRangeRegisterWrite
  | substatClear => exact h.execSubstatClear
  | mgerrClear | errcntClear => exact h.setBar.hostWrite
  | registerWrite => exact h.execRegisterWrite
  | firmwareInstall => exact h.execFirmwareInstall
  | fuseRaise => exact h.execFuseRaise
  | attestationReport => exact h.attestationJob fun _ _ ht => ht.attest
  | certificateChain => exact h.attestationJob fun _ _ ht => ht.sendChain
  | checkpoint => exact h.execCheckpoint
  | checkpointRestore => exact h.execCheckpointRestore
  | bar4Access => exact h.execBar4Access
  | powerOn => exact h.execPowerOn
  | timingErrorReplay => exact h.execTimingErrorReplay
  | correctedError => exact h.setBar.toNext
  | uncorrectableError => exact h.execUncorrectableError
  | scrub | droop => exact h.toNext
  | powerTokenBid => exact h.execPowerTokenBid
  | thermalThrottle => exact h.execThermalThrottle
  | thermalShutdown => exact h.execThermalShutdown
  | unassignedMajor => exact h.execUnassignedMajor
  | deviceReset => exact h.restart.toNext

/-! ### The schedule (log entry 1) -/

/-- A meaning of the rows that keeps the form. -/
def KeepsCanonical (ex : Meaning) : Prop := ∀ i s, Canonical s → NextCanonical (ex i s)

theorem exec_keepsCanonical : KeepsCanonical Machine.exec := fun _ _ h => h.exec

/-- What an optional outcome gives, if anything, leaves a canonical state. -/
def MaybeCanonical (o : Option (Host.Outcome State Fault Refusal)) : Prop := ∀ r, o = some r → NextCanonical r

@[simp] theorem maybeCanonical_none : MaybeCanonical none := fun _ h => nomatch h
@[simp] theorem maybeCanonical_some {r : Host.Outcome State Fault Refusal} : MaybeCanonical (some r) ↔ NextCanonical r := by
  simp [MaybeCanonical]

theorem Canonical.passTime (h : Canonical s) : Canonical (passTime s) := h.of_same

theorem Canonical.settle (h : Canonical s) : Canonical (settle s c k) := by
  unfold Machine.settle
  split
  · exact h
  · split
    · exact h
    · exact h.setGroup.takeFault.getD h.stallState

theorem Canonical.holdForPatch (h : Canonical s) : Canonical (holdForPatch s x) := by
  unfold Machine.holdForPatch
  exact canonical_ite h.stallState h.setGroup

variable {ex : Meaning} (hx : KeepsCanonical ex)
include hx

theorem Canonical.attempt (h : Canonical s) : NextCanonical (attempt ex s c k) := by
  unfold Machine.attempt
  split
  · exact h.stallState.toNext
  · refine nextCanonical_ite h.settle.toNext (nextCanonical_ite h.stallState.toNext (nextCanonical_ite h.holdForPatch.toNext
      (nextCanonical_ite h.stallState.toNext (nextCanonical_ite (hx _ _ h.of_same) ?_))))
    have h1 : ∀ w : Word, Canonical { s with issuer := some (c, k), fetched := w } := fun _ => h.of_same
    dsimp only
    split
    · exact (canonical_ite (h1 0).raiseHint ((h1 0).raise (h1 0))).toNext
    · next w _ =>
      split
      · exact hx _ _ (h1 w)
      · exact (canonical_ite (h1 w).raiseHint ((h1 w).raise (h1 w))).toNext

theorem Canonical.attemptThresher (h : Canonical s) : NextCanonical (attemptThresher ex s c) := by
  unfold Machine.attemptThresher
  split
  · exact h.stallState.toNext
  · refine nextCanonical_ite h.stallState.toNext (nextCanonical_ite (canonical_ite h.stallState h.setBlock).toNext ?_)
    have h1 : ∀ w : Word, Canonical { s with issuer := some (c, Config.thresherSlot), fetched := w } := fun _ => h.of_same
    refine nextCanonical_ite ?_ (hx _ _ (h1 _))
    split
    · exact hx _ _ (h1 _)
    · exact hx _ _ (h1 _)

theorem Canonical.firstIssue {cs : List (Nat × Nat)} (h : Canonical s) : MaybeCanonical (firstIssue ex s cs) := by
  induction cs with
  | nil => simp [Machine.firstIssue]
  | cons y ys ih =>
    have ha : NextCanonical (if y.2 = Config.thresherSlot then Machine.attemptThresher ex s y.1 else Machine.attempt ex s y.1 y.2) :=
      nextCanonical_ite (h.attemptThresher hx) (h.attempt hx)
    simp only [Machine.firstIssue]
    split
    · next s1 he =>
      split
      · exact ih
      · exact maybeCanonical_some.2 (Canonical.toNext (Canonical.of_same (ha s1 he)))
    · exact maybeCanonical_some.2 ha

theorem Canonical.firstEvent {es : List (Instr × EventArgs)} (h : Canonical s) : MaybeCanonical (firstEvent ex s es) := by
  induction es with
  | nil => simp [Machine.firstEvent]
  | cons y ys ih =>
    simp only [Machine.firstEvent]
    split
    · exact ih
    · exact maybeCanonical_some.2 (hx _ _ h.of_same)

omit hx in
theorem NextCanonical.withTurn {b : Bool} {r : Host.Outcome State Fault Refusal} (h : NextCanonical r) : NextCanonical (withTurn b r) := by
  cases r with
  | next s => exact (h s rfl).of_same.toNext
  | fault f => exact h
  | refused r => exact h

omit hx in
theorem NextCanonical.withControl {r : Host.Outcome State Fault Refusal} (h : NextCanonical r) : NextCanonical (withControl s r) := by
  cases r with
  | next s => exact (h s rfl).keepControl.toNext
  | fault f => exact h
  | refused r => exact h

omit hx in
theorem Canonical.hostStores {bs : List Host.Cell} (h : Canonical s) : Canonical (hostStores s bs) := by
  have hw : Canonical (bs.foldl (fun s b => s.writePlace (.mem .host b.1 b.1) [b.2]) s) := h.foldl fun _ _ hs => hs.writePlace
  unfold Machine.hostStores
  exact canonical_ite h ⟨(Memory.wf_setPoison _ _ _).trans hw.1, hw.2⟩

theorem Canonical.stepBody (h : Canonical s) : NextCanonical (stepBody ex s) := by
  have event : ∀ es r, Machine.firstEvent ex s es = some r → NextCanonical r := fun _ => h.firstEvent hx
  have word : ∀ r, Machine.firstIssue ex s (slotOrder s) = some r → NextCanonical r := h.firstIssue hx
  unfold Machine.stepBody
  split
  · next i a rest _ =>
    have h1 : Canonical (Machine.hostStores { s with agenda := rest, event := a, issuer := none } a.host) :=
      Canonical.hostStores h.of_same
    refine nextCanonical_ite ?_ h1.toNext
    split
    · exact h1.toNext
    · exact hx _ _ h1
  · refine nextCanonical_ite ?_ ?_
    · cases he : Machine.firstEvent ex s (mailboxEvents s) with
      | none => exact h.toNext
      | some r => exact event _ r he
    · split
      · next r he => exact event _ r he
      · refine nextCanonical_ite ?_ ?_
        · split
          · next r he => exact (event _ r he).withTurn
          · split
            · next r he => exact word r he
            · exact h.toNext
        · split
          · next r he => exact (word r he).withTurn
          · split
            · next r he => exact event _ r he
            · exact h.toNext

omit hx in
theorem Canonical.step (h : Canonical s) : NextCanonical (step s) := (h.passTime.stepBody exec_keepsCanonical).withControl

end Sys2Proof.Machine
end

section
/-! PROOF of O58. -/

open Sys2Proof Sys2Proof.Machine

/-- Settles O58: every row keeps the canonical form (`Canonical.exec`), the schedule carries it from the rows to the step
(`Canonical.stepBody`), and so do the passing of time before it and the control areas after it. -/
theorem stepKeepsMemoryCanonical : Obligations.StepKeepsMemoryCanonical := by
  unfold Obligations.StepKeepsMemoryCanonical
  intro s t h ht
  exact h.step t ht

end

section
-- One proof is elaborated at a time: the check bounds the threads of the whole text.
set_option Elab.async false
/-! PROOF of O54 and O57: the state after reset. -/

namespace Sys2Proof.Machine

@[simp] theorem sys_reset (c n : Nat) : State.reset.sys c n = sysReset n := rfl

theorem contextActive_reset (c : Nat) : State.reset.contextActive c = false := by
  rw [State.contextActive, sys_reset]; rfl

/-- No byte is listed in any tier, so each reads as zero. -/
theorem readByte_reset (t : Tier) (a : Nat) : State.reset.memory.readByte t a = 0 := by cases t <;> rfl

theorem poisoned_reset (t : Tier) (a n : Nat) : State.reset.memory.poisoned t a n = false := by cases t <;> rfl

theorem canonical_reset : Canonical State.reset := ⟨rfl, rfl⟩

/-- No register is listed in a fresh file, so each reads as its value after reset (R161). -/
theorem arch_reset (a n : Nat) :
    Arch.getS {} n = 0 ∧ Arch.getV {} n a = 0 ∧ Arch.getP {} n = 0 ∧ Arch.getFl {} a = 0 ∧ Arch.getTw {} n = 0x377 :=
  ⟨rfl, rfl, rfl, rfl, rfl⟩

end Sys2Proof.Machine

open Sys2Proof Sys2Proof.Machine

/-- Settles O57: no byte is listed in any tier or at the peers. -/
theorem resetIsCanonical : Obligations.ResetIsCanonical := canonical_reset

/-- Settles O54, register by register: an empty map reads as its default. -/
theorem resetState : Obligations.ResetState := by
  unfold Obligations.ResetState
  exact ⟨rfl, rfl, rfl, rfl, rfl, rfl, rfl, rfl, sys_reset, contextActive_reset, fun _ => rfl, rfl, readByte_reset, poisoned_reset, arch_reset⟩

end

section
-- One proof is elaborated at a time: the check bounds the threads of the whole text.
set_option Elab.async false
/-! SUPPORT for O60: the range registers (R23, R350) by the fields of their words, the register that holds an address, what a lease
holds (R361) and the bytes of a control area (R306). -/

namespace Sys2Proof.Machine

variable {s : State} {c k va : Nat}

/-! ### The fields of a range register -/

theorem field_top (w : BitVec 64) (lo : Nat) : field w.toNat lo (64 - lo) = w.toNat / 2 ^ lo := by
  rcases Nat.lt_or_ge lo 64 with h | h
  · refine Nat.mod_eq_of_lt (Nat.div_lt_of_lt_mul ?_)
    rw [← Nat.pow_add, Nat.add_sub_cancel' h.le]
    exact w.isLt
  · have : w.toNat < 2 ^ lo := w.isLt.trans_le (Nat.pow_le_pow_right (by decide) h)
    rw [field, Nat.div_eq_of_lt this, Nat.zero_mod]

theorem rangeKind_eq (s : State) (c k : Nat) : rangeKind s c k = (s.sys c (0x100 + k)).toNat % 4 := by simp [rangeKind, field]

theorem rangeBase_eq (s : State) (c k : Nat) : rangeBase s c k = (s.sys c (0x100 + k)).toNat / 4096 * 4096 := by
  rw [rangeBase, field_top _ 12]; rfl

theorem rangeBytes_eq (s : State) (c k : Nat) : rangeBytes s c k = (s.sys c (0x110 + k)).toNat % 2 ^ 40 * 4096 := by
  simp [rangeBytes, field]

theorem rangeIa_eq (s : State) (c k : Nat) : rangeIa s c k = (s.sys c (0x120 + k)).toNat / 4096 % 2 ^ 40 * 4096 := by
  simp [rangeIa, field]

/-! ### The register that holds an address -/

theorem rangeHolds_iff : rangeHolds s c k va = true ↔
    (rangeKind s c k = 1 ∨ rangeKind s c k = 2) ∧ rangeBase s c k ≤ va ∧ va < rangeBase s c k + rangeBytes s c k := by
  simp [rangeHolds, and_assoc]

/-- The register found is the first that holds the address. -/
theorem findRange_eq_some : findRange s c va = some k ↔
    rangeHolds s c k va = true ∧ k < 16 ∧ ∀ j, j < k → ¬rangeHolds s c j va = true := by
  simp [findRange, List.find?_range_eq_some]

theorem findRange_eq_none : findRange s c va = none ↔ ∀ k, k < 16 → ¬rangeHolds s c k va = true := by
  simp [findRange]

theorem toIa_of_findRange (h : findRange s c va = some k) :
    toIa s c va = if rangeKind s c k = 1 then some (rangeIa s c k + (va - rangeBase s c k)) else none := by rw [toIa, h]

theorem toIa_of_unheld (h : findRange s c va = none) : toIa s c va = none := by rw [toIa, h]

/-! ### Leases and control areas -/

theorem inLease_iff (s : State) (id c ia : Nat) : inLease s id c ia = true ↔ ∃ l, s.launch? id = some l ∧
    ∃ k e, l.lh.leases[k]? = some e ∧ k ∉ l.revoked ∧ ∃ b, toIa s c e.1.toNat = some b ∧ b ≤ ia ∧ ia < b + 4096 * e.2 := by
  unfold inLease
  cases s.launch? id with
  | none => simp
  | some l =>
    simp only [List.any_eq_true, Prod.exists, List.mem_zipIdx_iff_getElem?, Bool.and_eq_true, Option.some.injEq, exists_eq_left']
    constructor
    · rintro ⟨va, n, k, hk, hr, ht⟩
      cases hb : toIa s c va.toNat with
      | none => simp [hb] at ht
      | some b => exact ⟨k, va, n, hk, by simpa using hr, b, hb, by simpa [hb] using ht⟩
    · rintro ⟨k, va, n, hk, hr, b, hb, hi⟩
      exact ⟨va, n, k, hk, by simpa using hr, by simpa [hb] using hi⟩

/-- A region inside one memory range register is one piece of the intermediate space. -/
theorem piecesOf_single {n : Nat} (hn : 0 < n) (hk : rangeKind s c k = 1)
    (h : ∀ a, va ≤ a → a < va + n → findRange s c a = some k) :
    piecesOf s c (va, n) = some [(rangeIa s c k + (va - rangeBase s c k), n)] := by
  have last := (rangeHolds_iff.1 (findRange_eq_some.1 (h (va + n - 1) (by omega) (by omega))).1).2
  have hm : min n (rangeBase s c k + rangeBytes s c k - va) = n := by omega
  simp [piecesOf, regionPieces, h va le_rfl (by omega), hk, hm, hn.ne']

/-- Every byte of the control area of a resident group lies in a control area of its context. -/
theorem inControlArea_of_group {g : Group} {t : Team} {l : Launch} (hg : g ∈ s.groups) (ht : s.team? g.team = some t)
    (hl : s.launch? t.launch = some l) (hc : l.ctx = c) (hk : rangeKind s c k = 1)
    (room : 64 * l.kh.tlm + controlBytes ≤ threadStride s c)
    (held : ∀ a, controlArea s l g ≤ a → a < controlArea s l g + controlBytes → findRange s c a = some k)
    {a : Nat} (lo : controlArea s l g ≤ a) (hi : a < controlArea s l g + controlBytes) :
    inControlArea s c (rangeIa s c k + (a - rangeBase s c k)) = true := by
  have region : (controlArea s l g, controlBytes) ∈ controlRegions s c :=
    List.mem_filterMap.2 ⟨g, hg, by simp [ht, hl, hc, room]⟩
  have piece := piecesOf_single (by decide) hk held
  have base := (rangeHolds_iff.1 (findRange_eq_some.1 (held (controlArea s l g) le_rfl (by simp [controlBytes]))).1).2.1
  refine List.any_eq_true.2 ⟨_, region, ?_⟩
  simp only [piece, Option.getD_some, List.any_cons, List.any_nil, Bool.or_false, Bool.and_eq_true, decide_eq_true_eq]
  omega

end Sys2Proof.Machine
end

section
-- One proof is elaborated at a time: the check bounds the threads of the whole text.
set_option Elab.async false
/-! SUPPORT for O60: the writes of range registers (R351). -/

namespace Sys2Proof.Machine

variable {s t : State} {c d j k n va : Nat} {v : BitVec 64}

/-! ### A system register after a write -/

theorem smGet_smSet_default {α : Type} [DecidableEq α] (d e x : α) (m : SMap α) (h : j ≠ k) :
    smGet d j (smSet e k x m) = smGet d j m := by
  unfold smSet
  split
  · rw [smGet_smErase, if_neg h]
  · rw [smGet_smPut, if_neg h]

theorem sys_setSys (s : State) (c n : Nat) (v : BitVec 64) (d m : Nat) :
    (s.setSys c n v).sys d m = if d = c ∧ m = n then v else s.sys d m := by
  simp only [State.sys, State.setSys, State.context, State.setContext, smGet_smSet]
  by_cases hd : d = c
  · subst hd
    by_cases hm : m = n
    · subst hm; simp
    · simp [smGet_smSet_default _ _ _ _ hm, hm]
  · simp [hd]

@[simp] theorem sys_setSys_same (s : State) (c n : Nat) (v : BitVec 64) : (s.setSys c n v).sys c n = v := by simp [sys_setSys]

theorem sys_setSys_number (s : State) (v : BitVec 64) {m : Nat} (h : m ≠ n) : (s.setSys c n v).sys d m = s.sys d m := by
  simp [sys_setSys, h]

theorem sys_setSys_context (s : State) (v : BitVec 64) (m : Nat) (h : d ≠ c) : (s.setSys c n v).sys d m = s.sys d m := by
  simp [sys_setSys, h]

/-! ### What a write leaves of the translation -/

/-- Range register j of the context is the same in both states. -/
def SameRange (s t : State) (c j : Nat) : Prop :=
  rangeKind t c j = rangeKind s c j ∧ rangeBase t c j = rangeBase s c j ∧ rangeBytes t c j = rangeBytes s c j
    ∧ rangeIa t c j = rangeIa s c j

theorem SameRange.of_sys (h0 : t.sys c (0x100 + j) = s.sys c (0x100 + j)) (h1 : t.sys c (0x110 + j) = s.sys c (0x110 + j))
    (h2 : t.sys c (0x120 + j) = s.sys c (0x120 + j)) : SameRange s t c j := by
  simp only [SameRange, rangeKind_eq, rangeBase_eq, rangeBytes_eq, rangeIa_eq, h0, h1, h2, and_self]

theorem SameRange.holds (h : SameRange s t c j) : rangeHolds t c j va = rangeHolds s c j va := by
  obtain ⟨hk, hb, hn, -⟩ := h
  simp only [rangeHolds, hk, hb, hn]

/-- A register that holds the address in neither state, or only behind another, does not matter to the translation. -/
theorem toIa_congr (same : ∀ j, j < 16 → j ≠ k → SameRange s t c j) (ht : ¬rangeHolds t c k va = true)
    (hs : findRange s c va ≠ some k) : toIa t c va = toIa s c va := by
  cases hf : findRange s c va with
  | none =>
    have hn := findRange_eq_none.1 hf
    have : findRange t c va = none := findRange_eq_none.2 fun j hj => by
      by_cases hjk : j = k
      · exact hjk ▸ ht
      · rw [(same j hj hjk).holds]; exact hn j hj
    rw [toIa_of_unheld hf, toIa_of_unheld this]
  | some i =>
    have hik : i ≠ k := fun h => hs (h ▸ hf)
    obtain ⟨holds, hi, before⟩ := findRange_eq_some.1 hf
    have sameI := same i hi hik
    have : findRange t c va = some i := findRange_eq_some.2 ⟨sameI.holds ▸ holds, hi, fun j hj => by
      by_cases hjk : j = k
      · exact hjk ▸ ht
      · rw [(same j (hj.trans hi) hjk).holds]; exact before j hj⟩
    obtain ⟨hk, hb, -, hia⟩ := sameI
    rw [toIa_of_findRange hf, toIa_of_findRange this, hk, hb, hia]

theorem toIa_setSys_context (h : d ≠ c) : toIa (s.setSys c n v) d va = toIa s d va := by
  have same (j : Nat) : SameRange s (s.setSys c n v) d j :=
    .of_sys (sys_setSys_context s v _ h) (sys_setSys_context s v _ h) (sys_setSys_context s v _ h)
  have found : findRange (s.setSys c n v) d va = findRange s d va := by simp only [findRange, (same _).holds]
  cases hf : findRange s d va with
  | none => rw [toIa_of_unheld hf, toIa_of_unheld (found.trans hf)]
  | some i =>
    obtain ⟨hk, hb, -, hia⟩ := same i
    rw [toIa_of_findRange hf, toIa_of_findRange (found.trans hf), hk, hb, hia]

/-- A register of kind 0 holds nothing. -/
theorem not_rangeHolds_of_kind (h : rangeKind s c k = 0) : ¬rangeHolds s c k va = true := by
  rw [rangeHolds_iff]; omega

theorem findRange_ne_of_kind (h : rangeKind s c k = 0) : findRange s c va ≠ some k :=
  fun hf => not_rangeHolds_of_kind h (findRange_eq_some.1 hf).1

/-- A write of register k's words leaves the other registers. -/
theorem sameRange_setSys (hk : k < 16) (hn : n = 0x100 + k ∨ n = 0x110 + k ∨ n = 0x120 + k) (hj : j < 16) (h : j ≠ k) :
    SameRange s (s.setSys c n v) d j :=
  .of_sys (sys_setSys_number s v (by omega)) (sys_setSys_number s v (by omega)) (sys_setSys_number s v (by omega))

/-- The length and the intermediate address of a register of kind 0 do not matter to any translation. -/
theorem toIa_setSys_unused (hk : k < 16) (h : rangeKind s c k = 0) (hn : n = 0x110 + k ∨ n = 0x120 + k) :
    toIa (s.setSys c n v) d va = toIa s d va := by
  by_cases hd : d = c
  · subst hd
    have kind : rangeKind (s.setSys d n v) d k = 0 := by
      rw [rangeKind_eq, sys_setSys_number s v (by omega), ← rangeKind_eq, h]
    exact toIa_congr (fun j hj hjk => sameRange_setSys hk (.inr hn) hj hjk) (not_rangeHolds_of_kind kind) (findRange_ne_of_kind h)
  · exact toIa_setSys_context hd

theorem rangeKind_setBase : rangeKind (s.setSys c (0x100 + k) v) c k = v.toNat % 4 := by rw [rangeKind_eq, sys_setSys_same]

theorem rangeBase_setBase : rangeBase (s.setSys c (0x100 + k) v) c k = v.toNat / 4096 * 4096 := by rw [rangeBase_eq, sys_setSys_same]

theorem rangeBytes_setBase (hk : k < 16) : rangeBytes (s.setSys c (0x100 + k) v) c j = rangeBytes s c j := by
  rw [rangeBytes_eq, sys_setSys_number s v (by omega), rangeBytes_eq]

theorem rangeIa_setBase (hk : k < 16) : rangeIa (s.setSys c (0x100 + k) v) c j = rangeIa s c j := by
  rw [rangeIa_eq, sys_setSys_number s v (by omega), rangeIa_eq]

theorem sameRange_setBase (hk : k < 16) (hj : j < 16) (h : j ≠ k) : SameRange s (s.setSys c (0x100 + k) v) d j :=
  sameRange_setSys hk (.inl rfl) hj h

/-- A register closed by a write matters only to the addresses that it was found to hold. -/
theorem toIa_closed (hk : k < 16) (h0 : v.toNat % 4 = 0) (hf : findRange s c va ≠ some k) :
    toIa (s.setSys c (0x100 + k) v) c va = toIa s c va :=
  toIa_congr (fun _ hj hjk => sameRange_setBase hk hj hjk) (not_rangeHolds_of_kind (rangeKind_setBase.trans h0)) hf

/-- Outside the region that a write gives a register, the translation is that without the register. -/
theorem toIa_opened_outside (hk : k < 16)
    (ho : va < v.toNat / 4096 * 4096 ∨ v.toNat / 4096 * 4096 + rangeBytes s c k ≤ va) :
    toIa (s.setSys c (0x100 + k) v) c va = toIa (s.setSys c (0x100 + k) 0) c va := by
  refine toIa_congr (k := k) (fun j hj hjk => ?_) ?_ (findRange_ne_of_kind (rangeKind_setBase.trans rfl))
  · exact .of_sys (by simp [sys_setSys, hjk]) (by rw [sys_setSys_number _ _ (by omega), sys_setSys_number _ _ (by omega)])
      (by rw [sys_setSys_number _ _ (by omega), sys_setSys_number _ _ (by omega)])
  · rw [rangeHolds_iff, rangeBase_setBase, rangeBytes_setBase hk]; omega

/-! ### The checks of a write -/

theorem rangeFormed_iff : rangeFormed s c k v = true ↔ 1 ≤ rangeBytes s c k ∧ v.toNat / 4096 * 4096 + rangeBytes s c k ≤ 2 ^ 64
    ∧ rangeIa s c k + rangeBytes s c k ≤ 2 ^ 52 ∧ (s.sys c (0x120 + k)).toNat % 8 = 0 := by
  have low : field (s.sys c (0x120 + k)).toNat 0 3 = (s.sys c (0x120 + k)).toNat % 8 := by simp [field]
  simp only [rangeFormed, field_top v 12, low, Bool.and_eq_true, decide_eq_true_eq, beq_iff_eq, and_assoc]; rfl

/-- No other register holds an address of the region. -/
theorem rangeFree_iff {base bytes : Nat} : rangeFree s c k base bytes = true ↔
    ∀ j, j < 16 → j ≠ k → rangeKind s c j = 1 ∨ rangeKind s c j = 2 →
      base + bytes ≤ rangeBase s c j ∨ rangeBase s c j + rangeBytes s c j ≤ base := by
  simp only [rangeFree, List.all_eq_true, List.mem_range, Bool.or_eq_true, Bool.not_eq_true', Bool.or_eq_false_iff, beq_iff_eq,
    beq_eq_false_iff_ne, decide_eq_true_eq]
  grind

/-- Inside a free region that a write gives a register of kind 1, the register gives the intermediate address. -/
theorem toIa_opened_inside (hk : k < 16) (h1 : v.toNat % 4 = 1)
    (free : rangeFree s c k (v.toNat / 4096 * 4096) (rangeBytes s c k) = true)
    (lo : v.toNat / 4096 * 4096 ≤ va) (hi : va < v.toNat / 4096 * 4096 + rangeBytes s c k) :
    toIa (s.setSys c (0x100 + k) v) c va = some (rangeIa s c k + (va - v.toNat / 4096 * 4096)) := by
  have own : rangeHolds (s.setSys c (0x100 + k) v) c k va = true := by
    rw [rangeHolds_iff, rangeKind_setBase, rangeBase_setBase, rangeBytes_setBase hk]; exact ⟨.inl h1, lo, hi⟩
  have others : ∀ j, j < 16 → j ≠ k → ¬rangeHolds (s.setSys c (0x100 + k) v) c j va = true := fun j hj hjk => by
    rw [(sameRange_setBase hk hj hjk).holds, rangeHolds_iff]
    rintro ⟨kind, lo', hi'⟩
    have := rangeFree_iff.1 free j hj hjk kind
    omega
  have found : findRange (s.setSys c (0x100 + k) v) c va = some k :=
    findRange_eq_some.2 ⟨own, hk, fun j hj => others j (hj.trans hk) hj.ne⟩
  rw [toIa_of_findRange found, rangeKind_setBase, if_pos h1, rangeBase_setBase, rangeIa_setBase hk]

/-! ### Which writes take effect -/

theorem writeRange_window (hk : rangeKind s c (n % 16) = 2) : writeRange s c n v = .error windowRange := by
  rw [writeRange, if_pos hk]

theorem writeRange_pinned (hk : rangeKind s c (n % 16) ≠ 2) (hp : rangePinned s c (n % 16) = true) :
    writeRange s c n v = .error pinnedRange := by
  rw [writeRange, if_neg hk, if_pos hp]

section Admitted

variable (hk : k < 16) (h2 : rangeKind s c k ≠ 2) (hp : rangePinned s c k = false)
include hk h2 hp

theorem writeRange_close (hx : v.toNat % 4 = 0) : writeRange s c (0x100 + k) v =
    if v.toNat / 4 % 2 ^ 10 = 0 then .ok (s.setSys c (0x100 + k) v) else .error brokenLayout := by
  have hm : (0x100 + k) % 16 = k := by omega
  have hf : field v.toNat 0 2 = 0 := by simpa [field] using hx
  have hl : 0x100 + k < 0x110 := by omega
  simp only [writeRange, hm, h2, hp, hf, hl, if_true, if_false, Bool.false_eq_true]; rfl

theorem writeRange_open (hx : v.toNat % 4 = 1) : writeRange s c (0x100 + k) v =
    if v.toNat / 4 % 2 ^ 10 = 0 ∧ rangeFormed s c k v = true then
      if rangeFree s c k (v.toNat / 4096 * 4096) (rangeBytes s c k) then .ok (s.setSys c (0x100 + k) v) else .error ⟨4, 1⟩
    else .error brokenLayout := by
  have hm : (0x100 + k) % 16 = k := by omega
  have hf : field v.toNat 0 2 = 1 := by simpa [field] using hx
  have hl : 0x100 + k < 0x110 := by omega
  have hr : field v.toNat 2 10 = v.toNat / 4 % 2 ^ 10 := rfl
  have hb : field v.toNat 12 52 = v.toNat / 4096 := field_top v 12
  simp only [writeRange, hm, h2, hp, hf, hl, hr, hb, if_true, if_false, Bool.false_eq_true]
  by_cases h : v.toNat / 4 % 2 ^ 10 = 0 <;> cases rangeFormed s c k v <;> simp

theorem writeRange_asWindow (hx : v.toNat % 4 = 2) : writeRange s c (0x100 + k) v = .error windowRange := by
  have hm : (0x100 + k) % 16 = k := by omega
  have hf : field v.toNat 0 2 = 2 := by simpa [field] using hx
  have hl : 0x100 + k < 0x110 := by omega
  simp only [writeRange, hm, h2, hp, hf, hl, if_true, if_false, Bool.false_eq_true]

theorem writeRange_noKind (hx : v.toNat % 4 = 3) : writeRange s c (0x100 + k) v = .error brokenLayout := by
  have hm : (0x100 + k) % 16 = k := by omega
  have hf : field v.toNat 0 2 = 3 := by simpa [field] using hx
  have hl : 0x100 + k < 0x110 := by omega
  simp only [writeRange, hm, h2, hp, hf, hl, if_true, if_false, Bool.false_eq_true]

theorem writeRange_length : writeRange s c (0x110 + k) v =
    if rangeKind s c k = 0 ∧ 1 ≤ v.toNat ∧ v.toNat < 2 ^ 40 then .ok (s.setSys c (0x110 + k) v) else .error brokenLayout := by
  have hm : (0x110 + k) % 16 = k := by omega
  have hl : ¬0x110 + k < 0x110 := by omega
  have hu : 0x110 + k < 0x120 := by omega
  by_cases h0 : rangeKind s c k = 0 <;> simp [writeRange, hm, hp, hl, hu, h0, h2]

theorem writeRange_first : writeRange s c (0x120 + k) v =
    if rangeKind s c k = 0 ∧ v.toNat / 8 % 2 ^ 9 = 0 ∧ v.toNat < 2 ^ 52 then .ok (s.setSys c (0x120 + k) v)
    else .error brokenLayout := by
  have hm : (0x120 + k) % 16 = k := by omega
  have hl : ¬0x120 + k < 0x110 := by omega
  have hu : ¬0x120 + k < 0x120 := by omega
  have ht : field v.toNat 52 12 = 0 ↔ v.toNat < 2 ^ 52 := by rw [field_top v 52]; exact Nat.div_eq_zero_iff_lt (by decide)
  have hr : field v.toNat 3 9 = v.toNat / 8 % 2 ^ 9 := rfl
  by_cases h0 : rangeKind s c k = 0 <;> simp [writeRange, hm, hp, hl, hu, h0, h2, ht, hr]

end Admitted

end Sys2Proof.Machine
end

section
-- One proof is elaborated at a time: the check bounds the threads of the whole text.
set_option Elab.async false
/-! SUPPORT for O60: the walk (R357, R358) by the entries it reads, and what a leaf permits (R219, R230). -/

namespace Sys2Proof.Machine

variable {s : State} {c e ia k t : Nat} {m : Memory}

/-! ### Entries -/

theorem leNat_lt (bs : List Byte) : leNat bs < 256 ^ bs.length := by
  induction bs with
  | nil => simp [leNat]
  | cons b bs ih =>
    have := b.isLt
    rw [leNat, List.length_cons, Nat.pow_succ]
    omega

theorem tableEntry_lt (m : Memory) (a k : Nat) : tableEntry m a k < 2 ^ 64 := by
  have := leNat_lt (m.read .gddr (a + 8 * k) 8)
  simpa [tableEntry, Memory.read] using this

/-- The reserved bits at the top of an entry are 0 when the entry is small. -/
theorem field_reserved (h : e < 2 ^ 64) : field e 52 12 = 0 ↔ e < 2 ^ 52 := by
  rw [field]; omega

theorem field_page (h : e < 2 ^ 52) : field e 12 40 = e / 4096 := by
  rw [field]; omega

/-- An entry that names the next table (R358). -/
def IsTable (e : Nat) : Prop := e % 4096 = 1 ∧ e < 2 ^ 52 ∧ e / 4096 * 4096 + 4096 ≤ Config.gddrBytes

theorem tableOf_of_isTable (h : IsTable e) : tableOf e = some (e / 4096 * 4096) := by
  obtain ⟨low, high, inside⟩ := h
  have h0 : field e 0 12 = 1 := by simpa [field] using low
  simp [tableOf, h0, field_page high, (field_reserved (high.trans (by decide))).2 high, insideTier, inside]

theorem tableOf_of_not (he : e < 2 ^ 64) (h : ¬IsTable e) : tableOf e = none := by
  rw [tableOf, if_neg]
  rintro ⟨low, high, inside⟩
  have hi := (field_reserved he).1 high
  refine h ⟨by simpa [field] using low, hi, ?_⟩
  simpa [insideTier, field_page hi] using inside

/-- An entry that maps a leaf of 2 to the k bytes, with S64 as given, inside its tier (R358). -/
def IsLeaf (e k s64 : Nat) : Prop :=
  e % 4 = 3 ∧ e / 2 ^ 9 % 2 = s64 ∧ e / 2 ^ 10 % 4 = 0 ∧ e < 2 ^ 52 ∧ e / 4096 * 4096 % 2 ^ k = 0
    ∧ (e / 32 % 4 = 0 ∧ e / 4096 * 4096 + 2 ^ k ≤ Config.gddrBytes ∨ e / 32 % 4 = 1 ∧ e / 4096 * 4096 + 2 ^ k ≤ Config.savePoolBase
      ∨ e / 32 % 4 = 2)

theorem leafOf_of_isLeaf {b : Bool} (hk : k ≤ 52) (h : IsLeaf e k (if b then 1 else 0)) :
    ∃ t, tierOf (e / 32 % 4) = some t ∧ leafOf e ia k b = some
      { rd := e.testBit 2, wr := e.testBit 3, ex := e.testBit 4, tier := t, placement := e / 2 ^ 7 % 4,
        bus := e / 4096 * 4096 + ia % 2 ^ k, phys := e / 4096 * 4096 + ia % 2 ^ k, size := 2 ^ k } := by
  obtain ⟨low, s64, rsvd, high, aligned, tiers⟩ := h
  have h0 : field e 0 2 = 3 := by simpa [field] using low
  have hs : field e 9 1 = if b then 1 else 0 := s64
  have hr : field e 10 2 = 0 := rsvd
  have ht : field e 5 2 = e / 32 % 4 := rfl
  have hp : 2 ^ k ≤ 2 ^ 52 := Nat.pow_le_pow_right (by decide) hk
  have inside : ∃ t, tierOf (e / 32 % 4) = some t ∧ insideTier t (e / 4096 * 4096) (2 ^ k) = true := by
    rcases tiers with ⟨h, room⟩ | ⟨h, room⟩ | h
    · exact ⟨.gddr, by rw [h]; rfl, decide_eq_true room⟩
    · exact ⟨.granary, by rw [h]; rfl, decide_eq_true room⟩
    · exact ⟨.host, by rw [h]; rfl, decide_eq_true (by omega)⟩
  obtain ⟨t, tier, inside⟩ := inside
  refine ⟨t, tier, ?_⟩
  simp only [leafOf, h0, hs, hr, (field_reserved (high.trans (by decide))).2 high, field_page high, aligned, ht, tier, inside,
    and_self, if_true, Nat.testBit_eq_decide_div_mod_eq]
  rfl

theorem leafOf_of_not {b : Bool} (he : e < 2 ^ 64) (h : ¬IsLeaf e k (if b then 1 else 0)) : leafOf e ia k b = none := by
  unfold leafOf
  generalize (if b = true then 1 else 0) = s64 at h ⊢
  dsimp only
  split
  · next fields =>
    obtain ⟨low, s64, rsvd, high, aligned⟩ := fields
    have hi := (field_reserved he).1 high
    rw [field_page hi] at aligned ⊢
    split
    · next t tier =>
      refine if_neg fun inside => h ⟨by simpa [field] using low, s64, rsvd, hi, aligned, ?_⟩
      have tier : tierOf (e / 32 % 4) = some t := tier
      have four : e / 32 % 4 < 4 := Nat.mod_lt _ (by decide)
      generalize e / 32 % 4 = n at tier four
      interval_cases n <;> cases tier
      · exact .inl ⟨rfl, of_decide_eq_true inside⟩
      · exact .inr (.inl ⟨rfl, of_decide_eq_true inside⟩)
      · exact .inr (.inr rfl)
    · rfl
  · rfl

/-! ### The walk -/

theorem contextPasid_eq (s : State) (c : Nat) :
    contextPasid s c = if (s.sys c 0x182).getLsbD 31 then some ((s.sys c 0x182).toNat % 2 ^ 20) else none := by
  simp [contextPasid, field]

/-- What the walk gives where it ends at an entry: nothing, or the rights and the place that the entry names, where ATS has put a
host page. -/
def EndsAt (s : State) (c ia e k s64 : Nat) : Prop :=
  let page := e / 4096 * 4096 + ia % 2 ^ k
  (¬IsLeaf e k s64 → walk s c ia = none)
  ∧ (IsLeaf e k s64 → ∃ f, walk s c ia = some f ∧ f.rd = e.testBit 2 ∧ f.wr = e.testBit 3 ∧ f.ex = e.testBit 4
    ∧ f.placement = e / 2 ^ 7 % 4
    ∧ (e / 32 % 4 = 0 → f.tier = .gddr ∧ f.phys = page) ∧ (e / 32 % 4 = 1 → f.tier = .granary ∧ f.phys = page)
    ∧ (e / 32 % 4 = 2 → f.tier = .host ∧ f.phys = 4096 * hostPageOf s (contextPasid s c) (page / 4096) + page % 4096))

theorem endsAt_of_leafOf {b : Bool} (he : e < 2 ^ 64) (hk : k ≤ 52) (hw : walkTables s c ia = leafOf e ia k b) :
    EndsAt s c ia e k (if b then 1 else 0) := by
  refine ⟨fun h => by rw [walk, hw, leafOf_of_not he h]; rfl, fun h => ?_⟩
  obtain ⟨t, tier, leaf⟩ := leafOf_of_isLeaf (ia := ia) hk h
  rw [walk, hw, leaf]
  refine ⟨_, rfl, ?_⟩
  have four : e / 32 % 4 < 4 := Nat.mod_lt _ (by decide)
  generalize e / 32 % 4 = n at tier four
  interval_cases n <;> cases tier <;> simp [atsLeaf]

theorem walkLevel_of_leaf {next : Nat → Option Leaf} (h : tableEntry m t (field ia k 9) % 4 = 3) :
    walkLevel m t ia k next = leafOf (tableEntry m t (field ia k 9)) ia k false := by
  have h0 : field (tableEntry m t (field ia k 9)) 0 2 = 3 := by simpa [field] using h
  simp only [walkLevel, h0, if_true]

theorem walkLevel_of_other {next : Nat → Option Leaf} (h : tableEntry m t (field ia k 9) % 4 ≠ 3) :
    walkLevel m t ia k next = (tableOf (tableEntry m t (field ia k 9))).bind next := by
  have h0 : field (tableEntry m t (field ia k 9)) 0 2 ≠ 3 := by simpa [field] using h
  simp only [walkLevel, h0, if_false]

theorem IsTable.not_leaf (h : IsTable e) : e % 4 ≠ 3 := by
  obtain ⟨low, -⟩ := h
  omega

/-- The 64 KiB entry of a level-0 table decides when it has S64 set, and else the 4 KiB entry does. -/
theorem walkLevel0_eq (m : Memory) (t ia : Nat) : walkLevel0 m t ia =
    if (tableEntry m t (field ia 16 5 * 16)).testBit 9 then leafOf (tableEntry m t (field ia 16 5 * 16)) ia 16 true
    else leafOf (tableEntry m t (field ia 12 9)) ia 12 false := by
  simp only [walkLevel0, Nat.testBit_eq_decide_div_mod_eq, decide_eq_true_eq]; rfl

/-- The walk from the root. -/
theorem walkTables_eq (s : State) (c ia : Nat) : walkTables s c ia =
    (tableOf (tableEntry s.memory (s.sys c 0x181).toNat (field ia 39 13))).bind fun t2 =>
      walkLevel s.memory t2 ia 30 fun t1 => walkLevel s.memory t1 ia 21 fun t0 => walkLevel0 s.memory t0 ia := by
  have root : field (s.sys c 0x181).toNat 0 64 = (s.sys c 0x181).toNat := by rw [field_top _ 0]; simp
  rw [walkTables, root]

theorem walk_of_walkTables (h : walkTables s c ia = none) : walk s c ia = none := by rw [walk, h]; rfl

/-! ### The walk, level by level -/

section Levels

variable {e3 e2 e1 : Nat} (h3 : tableEntry s.memory (s.sys c 0x181).toNat (field ia 39 13) = e3)
  (h2 : tableEntry s.memory (e3 / 4096 * 4096) (field ia 30 9) = e2)
  (h1 : tableEntry s.memory (e2 / 4096 * 4096) (field ia 21 9) = e1)

include h3 in
theorem walk_noTable3 (h : ¬IsTable e3) : walk s c ia = none :=
  walk_of_walkTables (by rw [walkTables_eq, tableOf_of_not (tableEntry_lt _ _ _) (h3 ▸ h)]; rfl)

include h3 in
theorem walkTables_table3 (t3 : IsTable e3) : walkTables s c ia =
    walkLevel s.memory (e3 / 4096 * 4096) ia 30 fun t1 => walkLevel s.memory t1 ia 21 fun t0 => walkLevel0 s.memory t0 ia := by
  rw [walkTables_eq, h3, tableOf_of_isTable t3]; rfl

include h3 h2

theorem endsAt_leaf2 (t3 : IsTable e3) (h : e2 % 4 = 3) : EndsAt s c ia e2 30 0 :=
  endsAt_of_leafOf (b := false) (h2 ▸ tableEntry_lt _ _ _) (by decide)
    (by rw [walkTables_table3 h3 t3, walkLevel_of_leaf (h2 ▸ h), h2])

theorem walk_noTable2 (t3 : IsTable e3) (h : e2 % 4 ≠ 3) (hn : ¬IsTable e2) : walk s c ia = none :=
  walk_of_walkTables (by
    rw [walkTables_table3 h3 t3, walkLevel_of_other (h2 ▸ h), tableOf_of_not (tableEntry_lt _ _ _) (h2 ▸ hn)]; rfl)

theorem walkTables_table2 (t3 : IsTable e3) (t2 : IsTable e2) : walkTables s c ia =
    walkLevel s.memory (e2 / 4096 * 4096) ia 21 fun t0 => walkLevel0 s.memory t0 ia := by
  rw [walkTables_table3 h3 t3, walkLevel_of_other (h2 ▸ t2.not_leaf), h2, tableOf_of_isTable t2]; rfl

include h1

theorem endsAt_leaf1 (t3 : IsTable e3) (t2 : IsTable e2) (h : e1 % 4 = 3) : EndsAt s c ia e1 21 0 :=
  endsAt_of_leafOf (b := false) (h1 ▸ tableEntry_lt _ _ _) (by decide)
    (by rw [walkTables_table2 h3 h2 t3 t2, walkLevel_of_leaf (h1 ▸ h), h1])

theorem walk_noTable1 (t3 : IsTable e3) (t2 : IsTable e2) (h : e1 % 4 ≠ 3) (hn : ¬IsTable e1) : walk s c ia = none :=
  walk_of_walkTables (by
    rw [walkTables_table2 h3 h2 t3 t2, walkLevel_of_other (h1 ▸ h), tableOf_of_not (tableEntry_lt _ _ _) (h1 ▸ hn)]; rfl)

theorem walkTables_table1 (t3 : IsTable e3) (t2 : IsTable e2) (t1 : IsTable e1) :
    walkTables s c ia = walkLevel0 s.memory (e1 / 4096 * 4096) ia := by
  rw [walkTables_table2 h3 h2 t3 t2, walkLevel_of_other (h1 ▸ t1.not_leaf), h1, tableOf_of_isTable t1]; rfl

theorem endsAt_big (t3 : IsTable e3) (t2 : IsTable e2) (t1 : IsTable e1)
    (h : (tableEntry s.memory (e1 / 4096 * 4096) (field ia 16 5 * 16)).testBit 9 = true) :
    EndsAt s c ia (tableEntry s.memory (e1 / 4096 * 4096) (field ia 16 5 * 16)) 16 1 :=
  endsAt_of_leafOf (b := true) (tableEntry_lt _ _ _) (by decide)
    (by rw [walkTables_table1 h3 h2 h1 t3 t2 t1, walkLevel0_eq, if_pos h])

theorem endsAt_small (t3 : IsTable e3) (t2 : IsTable e2) (t1 : IsTable e1)
    (h : (tableEntry s.memory (e1 / 4096 * 4096) (field ia 16 5 * 16)).testBit 9 = false) :
    EndsAt s c ia (tableEntry s.memory (e1 / 4096 * 4096) (field ia 12 9)) 12 0 :=
  endsAt_of_leafOf (b := false) (tableEntry_lt _ _ _) (by decide)
    (by rw [walkTables_table1 h3 h2 h1 t3 t2 t1, walkLevel0_eq, h]; rfl)

end Levels

/-! ### What a leaf permits -/

theorem placementAdmits_iff (t : Tier) (p op : Nat) : placementAdmits t p op = true ↔
    if t = .host then p = 0 ∨ ((p = 1 ∨ p = 2) ∧ op ≤ 2) else p ≤ 1 := by
  match t, p with
  | .host, 0 | .host, 1 | .host, 2 => simp [placementAdmits]
  | .host, n + 3 => simp [placementAdmits]
  | .gddr, 0 | .gddr, 1 | .granary, 0 | .granary, 1 => simp [placementAdmits]
  | .gddr, n + 2 | .granary, n + 2 => simp [placementAdmits]

theorem leafPermits_atomic_iff (f : Leaf) (op : Nat) : leafPermits f .atomic op = true ↔ f.rd = true ∧ f.wr = true ∧ f.ex = false ∧
    if f.tier = .host then f.placement = 0 ∨ ((f.placement = 1 ∨ f.placement = 2) ∧ op ≤ 2) else f.placement ≤ 1 := by
  rw [← placementAdmits_iff]
  simp [leafPermits, and_assoc]

end Sys2Proof.Machine
end

section
-- One proof is elaborated at a time: the check bounds the threads of the whole text.
set_option Elab.async false
/-! SUPPORT for O60: the checks of an access in their order (R227). -/

namespace Sys2Proof.Machine

variable {s : State} {u : Accessor} {k : AccessKind} {op align va n r : Nat} {waits : Bool}

/-! ### Virtual addresses -/

theorem checkVirtual_unheld (h : findRange s u.ctx va = none) : checkVirtual s u k op waits align va n = .error 4 := by
  rw [checkVirtual, locateVirtual, h]; rfl

section Held

variable (hr : findRange s u.ctx va = some r)
include hr

theorem checkVirtual_unaligned (ha : va % align ≠ 0) : checkVirtual s u k op waits align va n = .error 5 := by
  simp only [checkVirtual, locateVirtual, hr, if_pos ha, checkPoison]

variable (ha : va % align = 0)
include ha

/-- A window is refused a read-modify-write, a WAITM and, with its Store bit set, a store. -/
theorem checkVirtual_window (hk : rangeKind s u.ctx r = 2) {g : Nat} (hg : g = (s.sys u.ctx (0x120 + r)).toNat % 8) :
    checkVirtual s u k op waits align va n =
      if k = .atomic ∨ waits = true ∨ (k = .store ∧ (windowWord s u.ctx g 3).getLsbD 11 = true) then .error 6
      else .ok (.window u.ctx g (va - rangeBase s u.ctx r)) := by
  have hf : field (s.sys u.ctx (0x120 + r)).toNat 0 3 = g := by simp [field, hg]
  simp only [checkVirtual, locateVirtual, hr, ha, hk, hf, windowWord, ne_eq, not_true_eq_false, if_false, if_true,
    apply_ite (checkPoison s k n)]
  simp only [checkPoison, State.poisonedPlace, Bool.false_eq_true, and_false, if_false]
  congr

variable (hk : rangeKind s u.ctx r = 1) {ia : Nat} (hia : ia = rangeIa s u.ctx r + (va - rangeBase s u.ctx r))
include hk hia

/-- No lease, a control area or no page fails the access. -/
theorem checkVirtual_denied (h : inLease s u.launch u.ctx ia = false ∨ inControlArea s u.ctx ia = true ∨ walk s u.ctx ia = none) :
    checkVirtual s u k op waits align va n = .error 4 := by
  have hk2 : rangeKind s u.ctx r ≠ 2 := by omega
  simp only [checkVirtual, locateVirtual, hr, ha, hk2, ← hia, ne_eq, not_true_eq_false, if_false]
  rcases h with h | h | h
  · simp [h, checkPoison]
  · simp [h, checkPoison]
  · rw [h]; dsimp only; split <;> rfl

variable {f : Leaf} (hl : inLease s u.launch u.ctx ia = true) (hc : inControlArea s u.ctx ia = false)
  (hw : walk s u.ctx ia = some f)
include hl hc hw

theorem checkVirtual_page : checkVirtual s u k op waits align va n =
    checkPoison s k n (if leafPermits f k op = false ∨ (waits = true ∧ f.tier = .host ∧ f.placement ≠ 0) then .error 4
      else .ok (.mem f.tier f.phys ia)) := by
  have hk2 : rangeKind s u.ctx r ≠ 2 := by omega
  simp only [checkVirtual, locateVirtual, hr, ha, hk2, ← hia, hl, hc, hw, ne_eq, not_true_eq_false, if_false, Bool.not_true,
    Bool.or_self, Bool.false_eq_true]
  cases leafPermits f k op with
  | false => simp
  | true => simp [and_assoc]

theorem checkVirtual_forbidden (h : leafPermits f k op = false ∨ (waits = true ∧ f.tier = .host ∧ f.placement ≠ 0)) :
    checkVirtual s u k op waits align va n = .error 4 := by
  rw [checkVirtual_page hr ha hk hia hl hc hw, if_pos h]; rfl

theorem checkVirtual_permitted (hp : leafPermits f k op = true) (hq : waits = true → f.tier = .host → f.placement = 0) :
    checkVirtual s u k op waits align va n =
      if k ≠ .store ∧ s.memory.poisoned f.tier f.phys n = true then .error 17 else .ok (.mem f.tier f.phys ia) := by
  rw [checkVirtual_page hr ha hk hia hl hc hw, if_neg]
  · rfl
  · rintro (h | ⟨h1, h2, h3⟩)
    · rw [hp] at h; cases h
    · exact h3 (hq h1 h2)

end Held

/-! ### Tiles -/

variable {h : Nat} {off : Int} {p : Place}

theorem handlePlace_loft (hh : h < 16384) : handlePlace s u h off n = (s.loftTile? u.team h).bind fun t =>
    if 0 ≤ off ∧ off + n ≤ 256 * t.granules ∧ t.ctx = u.ctx then some (.loft u.team h off.toNat) else none := by
  have h0 : field h 0 14 = h := by rw [field]; omega
  have h1 : field h 14 2 = 0 := by rw [field]; omega
  simp only [handlePlace, h0, h1, Option.bind_some, State.tileAt]

theorem handlePlace_barn (h1 : 16384 ≤ h) (h2 : h < 32768) :
    handlePlace s u h off n = (s.barnTile? u.launch (clusterOf u.core) (h % 16384)).bind fun t =>
      if 0 ≤ off ∧ off + n ≤ 256 * t.granules ∧ t.ctx = u.ctx then some (.barn u.launch (clusterOf u.core) (h % 16384) off.toNat)
      else none := by
  have h0 : field h 0 14 = h % 16384 := by simp [field]
  have h1 : field h 14 2 = 1 := by rw [field]; omega
  simp only [handlePlace, h0, h1, Option.bind_some, State.tileAt]

/-- A handle of neither kind names no tile. -/
theorem checkHandle_noKind (h1 : 32768 ≤ h) (h2 : h < 65536) : checkHandle s u k align h off n = .error 4 := by
  have hf : field h 14 2 = 2 ∨ field h 14 2 = 3 := by rw [field]; omega
  have : handlePlace s u h off n = none := by rcases hf with hf | hf <;> simp [handlePlace, hf]
  rw [checkHandle, locateHandle, this]; rfl

/-- The checks of a handle whose place is looked for in one tile. -/
def InTile (s : State) (u : Accessor) (k : AccessKind) (align h n : Nat) (off : Int) (t : Option Tile) (p : Place) : Prop :=
  (∀ x, t = some x → 0 ≤ off → off + n ≤ 256 * x.granules → x.ctx = u.ctx → checkHandle s u k align h off n =
    if off % align ≠ 0 then .error 5 else if k ≠ .store ∧ x.poisoned off.toNat n = true then .error 17 else .ok p)
  ∧ ((∀ x, t = some x → off < 0 ∨ 256 * x.granules < off + n ∨ x.ctx ≠ u.ctx) → checkHandle s u k align h off n = .error 4)

theorem inTile_of_handlePlace {t : Option Tile}
    (hp : handlePlace s u h off n = t.bind fun x => if 0 ≤ off ∧ off + n ≤ 256 * x.granules ∧ x.ctx = u.ctx then some p else none)
    (poison : ∀ x, t = some x → s.poisonedPlace p n = x.poisoned off.toNat n) : InTile s u k align h n off t p := by
  refine ⟨fun x hx h0 h1 h2 => ?_, fun out => ?_⟩
  · have : handlePlace s u h off n = some p := by simp [hp, hx, h0, h1, h2]
    simp only [checkHandle, locateHandle, this]
    split
    · rfl
    · rw [checkPoison, poison x hx]
  · have : handlePlace s u h off n = none := by
      rw [hp, Option.bind_eq_none_iff]
      intro x hx
      have := out x hx
      rw [if_neg (by omega)]
    rw [checkHandle, locateHandle, this]; rfl

theorem inTile_loft (hh : h < 16384) : InTile s u k align h n off (s.loftTile? u.team h) (.loft u.team h off.toNat) :=
  inTile_of_handlePlace (handlePlace_loft hh) fun x hx => by simp [State.poisonedPlace, State.tileAt, hx]

theorem inTile_barn (h1 : 16384 ≤ h) (h2 : h < 32768) :
    InTile s u k align h n off (s.barnTile? u.launch (clusterOf u.core) (h % 16384))
      (.barn u.launch (clusterOf u.core) (h % 16384) off.toNat) :=
  inTile_of_handlePlace (handlePlace_barn h1 h2) fun x hx => by simp [State.poisonedPlace, State.tileAt, hx]

end Sys2Proof.Machine
end

section
-- One proof is elaborated at a time: the check bounds the threads of the whole text.
set_option Elab.async false
/-! SUPPORT for O60: how the group of an issue takes the fault of some of its lanes (R227, R370, R371, R374). -/

namespace Sys2Proof.Machine

variable {s t : State} {x : Issue} {k : AccessKind} {op n c : Nat} {addr : Nat → LaneAddr} {took : Bool}
  {fails : List (Nat × Nat × BitVec 64)} {core slot : Nat} {e e1 : Env} {f : Trap} {y : Entry}

/-! ### The lanes that pass and those that fail -/

/-- A pass that appends what each lane gives collects what the lanes give. -/
theorem foldl_collects {step : LaneChecks → Nat → LaneChecks} {good : Nat → Option (Nat × Place)}
    {bad : Nat → Option (Nat × Nat × BitVec 64)}
    (h : ∀ r i, step r i = ⟨r.good ++ (good i).toList, r.fails ++ (bad i).toList⟩) (is : List Nat) (r : LaneChecks) :
    is.foldl step r = ⟨r.good ++ is.filterMap good, r.fails ++ is.filterMap bad⟩ := by
  induction is generalizing r with
  | nil => simp
  | cons i is ih =>
    rw [List.foldl_cons, h, ih]
    cases hg : good i <;> cases hb : bad i <;> simp [hg, hb]

theorem checkLanes_eq (s : State) (x : Issue) (k : AccessKind) (op n : Nat) (addr : Nat → LaneAddr) :
    checkLanes s x k op false n addr = ⟨x.passes s k op n addr, x.failures s k op n addr⟩ := by
  refine foldl_collects (fun r i => ?_) _ _
  cases checkLane s x k op false n (addr i) <;> simp

/-- The fault of failing lanes whose class is c. -/
def laneFault (c : Nat) (fails : List (Nat × Nat × BitVec 64)) (took : Bool) : LaneFault :=
  let own := fails.filter (fun f => f.2.1 == c)
  { cls := c, code := if c = 17 then 1 else 0, mask := maskOf (own.map (·.1)), addr := (own.head?.map (·.2.2)).getD 0,
    addrs := fails, took := took }

theorem lanesFault_eq (h : [17, 4, 6, 5].find? (fun c => fails.any (fun f => f.2.1 == c)) = some c) :
    lanesFault fails took = some (laneFault c fails took) := by rw [lanesFault, h]; rfl

/-! ### Taking a fault -/

/-- What the group of an issue keeps up to its fault: it is in no handler, has one to enter, and its launch does not log. -/
structure TakesFault (e : Env) : Prop where
  outside : e.g.handler = none
  mode : e.l.lh.mode = 0
  handler : e.l.kh.trap ≠ 0xFFFFFFFF

theorem State.launch?_id {id : Nat} {l : Launch} (h : s.launch? id = some l) : l.id = id := by
  simpa using List.find?_some h

theorem State.env?_launch (h : s.env? core slot = some e) : s.launch? e.l.id = some e.l := by
  obtain ⟨-, -, hl⟩ := State.env?_spec h
  rw [State.launch?_id hl]; exact hl

/-- Without determinism every choice goes on at once. -/
theorem choose_free {l : Launch} {id kind unit team : Nat} {check : Word} {tag : BitVec 64} {late : Bool}
    (hl : s.launch? id = some l) (hm : l.lh.mode = 0) : choose s id kind unit check tag team late = .go s := by
  simp only [choose, hl, hm, if_true]

theorem chooseAll_free {l : Launch} {id kind team : Nat} {tag : BitVec 64} {late : Bool} (hl : s.launch? id = some l) (hm : l.lh.mode = 0)
    (us : List (Nat × Word)) : chooseAll s id kind tag team late us = .go s := by
  induction us with
  | nil => rfl
  | cons u us ih => simp only [chooseAll, choose_free hl hm, ih]

/-- With results outstanding, a fault that the handler takes or whose word is marked parks the group. -/
theorem takeFault_parks (he : s.env? core slot = some e) (ho : e.g.outstanding ≠ []) (hi : e.g.handler = none) (hf : f.inner = false)
    (hw : e.handles f = true ∨ f.parkWord.getLsbD 31 = true) :
    takeFault s core slot f
      = some (s.setGroup { e.g with after := f :: e.g.after, wait := .parked f.pc f.parkWord f.entry }) := by
  have park : ((e.handles f || f.parkWord.getLsbD 31) && !e.g.outstanding.isEmpty) = true := by simpa [ho] using hw
  have same : { f with inner := e.g.handler.isSome } = f := by
    rw [hi]; cases f; cases hf; rfl
  simp only [takeFault, he, park, if_true, same]

/-- With nothing to wait for, a fault that no handler takes ends the task. -/
theorem takeFault_ends (he : s.env? core slot = some e) (hm : e.l.lh.mode = 0) (hh : e.handles f = false) (hc : f.cls ≠ 12)
    (hw : e.g.outstanding = [] ∨ f.parkWord.getLsbD 31 = false) :
    takeFault s core slot f = some (endTask (writeRecord s e.l (e.record f false) true) e.l.id f.cls) := by
  have park : ((false || f.parkWord.getLsbD 31) && !e.g.outstanding.isEmpty) = false := by
    rcases hw with hw | hw
    · simp [hw]
    · rw [hw]; rfl
  have hl := State.env?_launch he
  have hj : f.joinHeld e (s.amr e.l.ctx) = f := by simp [Trap.joinHeld, hc]
  simp only [takeFault, he, hh, park, choose_free hl hm, hl, hj, Option.getD_some, Bool.false_eq_true, if_false]

/-- With nothing to wait for, a fault that the handler takes is recorded and brings the group there. -/
theorem takeFault_enters (he : s.env? core slot = some e) (hm : e.l.lh.mode = 0) (hh : e.handles f = true) (hc : f.cls ≠ 12)
    (ho : e.g.outstanding = []) :
    takeFault s core slot f = some ((writeRecord s e.l (e.record f true) false).setGroup
      ({ e.g.parkFor f (s.amr e.l.ctx) with fence := none }.enterHandler f (recordFlags f.cls true false f.async f.took) e.l.kh.trap)) := by
  have hl := State.env?_launch he
  have hj : f.joinHeld e (s.amr e.l.ctx) = f := by simp [Trap.joinHeld, hc]
  simp only [takeFault, he, ho, List.isEmpty_nil, Bool.not_true, Bool.and_false, choose_free hl hm, hl, hj, hh, Option.getD_some,
    Bool.false_eq_true, if_false, if_true]

/-- A park that traps no flag only makes the held flags visible. -/
theorem parkFor_quiet (g : Group) (amr : Word) (hc : f.cls ≠ 12) (hq : f.parkWord.getLsbD 31 = true → g.heldFlags = []) :
    g.parkFor f amr = { g.emptyPending with wait := g.wait } := by
  have none_ : (enabledFlags amr g.heldFlags).1 = 0 ∨ f.parkWord.getLsbD 31 = false := by
    cases hw : f.parkWord.getLsbD 31 with
    | false => exact .inr rfl
    | true => rw [hq hw]; exact .inl rfl
  simp only [Group.parkFor, if_neg hc, Group.park, none_, if_true]

/-- Flags join fl alone. -/
theorem Arch.orFlags_fl (a : Arch) (fs : List (Nat × BitVec 9)) : ∃ fl, a.orFlags fs = { a with fl := fl } := by
  refine foldl_keeps (P := fun b : Arch => ∃ fl, b = { a with fl := fl }) ⟨a.fl, rfl⟩ fun b f hb => ?_
  obtain ⟨fl, rfl⟩ := hb
  split
  · exact ⟨fl, rfl⟩
  · exact ⟨_, rfl⟩

/-- A group that stands at its faulting word goes to the handler as R374 says. -/
theorem enterHandler_eq (x : Issue) {flags : Nat} (hb : x.e.g.bad = []) (hf : x.e.g.fence = none)
    (hy : x.arch.frontier.find? (fun e => e.mask &&& f.entry != 0) = some y) (hx : f.entry = x.entry.mask) :
    { { x.e.g.emptyPending with wait := x.e.g.wait } with fence := none }.enterHandler f flags x.e.l.kh.trap = x.inHandler f flags y := by
  obtain ⟨fl, joined⟩ := Arch.orFlags_fl x.arch x.e.g.heldFlags
  have emptied : x.e.g.emptyPending = { x.e.g with arch := { x.arch with fl := fl, pending := [] }, heldFlags := [] } := by
    rw [Group.emptyPending, ← Issue.arch, joined]
  rw [hx] at hy
  simp only [emptied, Group.enterHandler, hy, Issue.inHandler, joined, Group.mend, hb, hf, hx, List.filter_nil]
  rfl

/-! ### The fault of an issue -/

theorem State.env?_setGroup {g : Group} (he : s.env? core slot = some e) (hc : g.core = e.g.core) (hs : g.slot = e.g.slot)
    (ht : g.team = e.g.team) : (s.setGroup g).env? core slot = some { e with g := g } := by
  obtain ⟨hg, hteam, hl⟩ := State.env?_spec he
  obtain ⟨hcore, hslot⟩ := State.group?_slot hg
  have found : (s.setGroup g).group? core slot = some g := by
    have := State.group?_setGroup (g := g) (g0 := e.g) (by rw [hc, hs, hcore, hslot]; exact hg)
    rwa [hc, hs, hcore, hslot] at this
  have hteam' : (s.setGroup g).team? g.team = some e.t := by rw [ht]; exact hteam
  have hl' : (s.setGroup g).launch? e.t.launch = some e.l := hl
  simp only [State.env?, found, hteam', hl', Option.bind_some, Option.map_some]

/-- A group put into its slot twice. -/
theorem State.setGroup_self (s : State) (g : Group) : (s.setGroup g).setGroup g = s.setGroup g := State.setGroup_setGroup s g g rfl rfl

@[simp] theorem Issue.laneTrap_cls : (x.laneTrap s c fails took).cls = c := rfl

theorem handles_laneTrap (hk : TakesFault e) (hc : c = 5 ∨ c = 6) : e.handles (x.laneTrap s c fails took) = true := by
  have there : (e.l.kh.trap != 0xFFFFFFFF) = true := bne_iff_ne.2 hk.handler
  rcases hc with rfl | rfl <;> simp only [Env.handles, there, hk.outside] <;> rfl

section Issue

variable {u : Use} (hi : Issues s x) (ht : u.tokens x = []) (he : t.env? x.core x.slot = some e1)
include hi ht he

/-- The close of a word whose lanes failed: the group takes their fault. -/
theorem finish_laneFault : finish u x s { s := t, fault := some (laneFault c fails took) }
    = (takeFault (t.setGroup e1.g) x.core x.slot (x.laneTrap s c fails took)).getD (stallState s) := by
  obtain ⟨hg, -, -⟩ := State.env?_spec he
  have tokens : e1.g.tokens.filter (fun _ => true) = e1.g.tokens := List.filter_eq_self.2 fun _ _ => rfl
  have after : (e1.g.addAfter []) = e1.g := by
    rw [Group.addAfter]; split <;> simp
  have fenced : x.e.g.fenced = false := by simp [Group.fenced, hi.fence, hi.soft]
  have flags : arithmeticTrap x.amr [] = none := rfl
  simp only [finish, hg, ht, List.any_nil, Bool.not_false, tokens, List.flatMap_nil, List.append_nil, List.filterMap_nil, List.map_nil,
    flags, Option.map_none, Option.toList_none, Bool.false_eq_true, if_false, Arch.orFlags_nil, after, raise, fenced]
  congr 2
  simp [Issue.laneTrap, Issue.trap, laneFault]

variable (hk : TakesFault e1)
include hk

theorem laneFault_parks (ho : e1.g.outstanding ≠ []) (hc : c = 5 ∨ c = 6 ∨ (x.laneTrap s c fails took).parkWord.getLsbD 31 = true) :
    finish u x s { s := t, fault := some (laneFault c fails took) }
      = t.setGroup { e1.g with
          after := x.laneTrap s c fails took :: e1.g.after
          wait := .parked x.entry.pc (x.laneTrap s c fails took).parkWord x.entry.mask } := by
  have he' := State.env?_setGroup he rfl rfl rfl
  have handled : Env.handles { e1 with g := e1.g } (x.laneTrap s c fails took) = true
      ∨ (x.laneTrap s c fails took).parkWord.getLsbD 31 = true := by
    rcases hc with hc | hc | hc
    · exact .inl (handles_laneTrap hk (.inl hc))
    · exact .inl (handles_laneTrap hk (.inr hc))
    · exact .inr hc
  rw [finish_laneFault hi ht he, takeFault_parks he' ho hk.outside rfl handled, Option.getD_some]
  exact State.setGroup_setGroup _ _ _ rfl rfl

theorem laneFault_ends (hc : c = 4 ∨ c = 17) (ho : e1.g.outstanding = [] ∨ (x.laneTrap s c fails took).parkWord.getLsbD 31 = false) :
    finish u x s { s := t, fault := some (laneFault c fails took) }
      = endTask (writeRecord (t.setGroup e1.g) e1.l
          ({ x with e := e1 }.faultRecord (x.laneTrap s c fails took) (if took then 16 else 0)) true) e1.l.id c := by
  have he' := State.env?_setGroup he rfl rfl rfl
  have unhandled : Env.handles { e1 with g := e1.g } (x.laneTrap s c fails took) = false := by
    rcases hc with rfl | rfl <;> rfl
  have cls : (x.laneTrap s c fails took).cls ≠ 12 := by rw [Issue.laneTrap_cls]; omega
  have record : e1.record (x.laneTrap s c fails took) false
      = { x with e := e1 }.faultRecord (x.laneTrap s c fails took) (if took then 16 else 0) := by
    rcases hc with rfl | rfl <;> cases took <;> simp [Env.record, Issue.faultRecord, recordFlags, hk.outside, resumable, Issue.laneTrap, Issue.trap]
  rw [finish_laneFault hi ht he, takeFault_ends he' hk.mode unhandled cls ho, Option.getD_some, ← record]
  rfl

theorem laneFault_enters (hc : c = 5 ∨ c = 6) (ho : e1.g.outstanding = []) (ha : e1.g.arch = x.arch) (hb : e1.g.bad = [])
    (hf : e1.g.fence = none) (hh : s.fetched.getLsbD 31 = true → e1.g.heldFlags = [])
    (hy : x.arch.frontier.find? (fun e => e.mask &&& x.entry.mask != 0) = some y) :
    finish u x s { s := t, fault := some (laneFault c fails took) }
      = { x with e := e1 }.entersHandler (t.setGroup e1.g) (x.laneTrap s c fails took) y := by
  have he' := State.env?_setGroup he rfl rfl rfl
  have handled : Env.handles { e1 with g := e1.g } (x.laneTrap s c fails took) = true := handles_laneTrap hk hc
  have cls : (x.laneTrap s c fails took).cls ≠ 12 := by rw [Issue.laneTrap_cls]; omega
  have quiet : (x.laneTrap s c fails took).parkWord.getLsbD 31 = true → e1.g.heldFlags = [] := fun hw => hh (by
    cases took with
    | true => exact hw
    | false => simp [Trap.parkWord, Issue.laneTrap, Issue.trap] at hw)
  have flags : recordFlags (x.laneTrap s c fails took).cls true false (x.laneTrap s c fails took).async (x.laneTrap s c fails took).took
      = if took then 19 else 3 := by
    rcases hc with rfl | rfl <;> cases took <;> rfl
  have record : e1.record (x.laneTrap s c fails took) true
      = { x with e := e1 }.faultRecord (x.laneTrap s c fails took) (if took then 19 else 3) := by
    rw [← flags]; simp [Env.record, Issue.faultRecord, hk.outside]
  have enters := enterHandler_eq { x with e := e1 } (f := x.laneTrap s c fails took) (flags := if took then 19 else 3) (y := y) hb hf
    (by rw [Issue.arch, ha]; exact hy) rfl
  rw [finish_laneFault hi ht he, takeFault_enters he' hk.mode handled cls ho, Option.getD_some, parkFor_quiet _ _ cls quiet, flags]
  simp only [enters, record]
  rfl

end Issue

end Sys2Proof.Machine
end

section
-- One proof is elaborated at a time: the check bounds the threads of the whole text.
set_option Elab.async false
/-! SUPPORT for O60: what the accesses of a word leave of its own group and launch. -/

namespace Sys2Proof.Machine

variable {s t : State} {core slot id : Nat} {e e1 : Env} {g : Group}

/-! ### Lists with a key -/

/-- What is found by its key after the elements of one key were replaced. -/
theorem find?_replace {α : Type} (key : α → Nat) (l : List α) (u : α) (id : Nat) :
    (l.map (fun m => if key m == key u then u else m)).find? (fun m => key m == id)
      = (l.find? (fun m => key m == id)).map (fun m => if key m == key u then u else m) := by
  rw [List.find?_map]
  congr 2
  funext m
  simp only [Function.comp]
  split
  · next h => rw [beq_iff_eq.1 h]
  · rfl

/-- A team put in the place of one with the same launch leaves each team's launch. -/
theorem State.team?_setTeam {u v w : Team} (hv : s.team? u.id = some v) (hl : u.launch = v.launch)
    (h : (s.setTeam u).team? id = some w) : ∃ w0, s.team? id = some w0 ∧ w.launch = w0.launch := by
  rw [State.team?, State.setTeam, find?_replace Team.id, ← State.team?, Option.map_eq_some_iff] at h
  obtain ⟨w0, hw0, rfl⟩ := h
  refine ⟨w0, hw0, ?_⟩
  split
  · next same =>
    have : w0.id = id := by simpa using List.find?_some hw0
    rw [← beq_iff_eq.1 same, this, hw0] at hv
    cases hv
    exact hl
  · rfl

/-- A launch put in the place of one with the same headers leaves each launch's headers. -/
theorem State.launch?_setLaunch {u v w : Launch} (hv : s.launch? u.id = some v) (hh : u.lh = v.lh ∧ u.kh = v.kh)
    (h : (s.setLaunch u).launch? id = some w) : ∃ w0, s.launch? id = some w0 ∧ w.lh = w0.lh ∧ w.kh = w0.kh := by
  rw [State.launch?, State.setLaunch, find?_replace Launch.id, ← State.launch?, Option.map_eq_some_iff] at h
  obtain ⟨w0, hw0, rfl⟩ := h
  refine ⟨w0, hw0, ?_⟩
  split
  · next same =>
    rw [← beq_iff_eq.1 same, State.launch?_id hw0, hw0] at hv
    cases hv
    exact hh
  · exact ⟨rfl, rfl⟩

/-! ### Writes at a place -/

theorem State.putPlace_groups (s : State) (p : Place) (bs : List Byte) : (s.putPlace p bs).groups = s.groups := by
  unfold State.putPlace State.setLoftTile State.setBarnTile
  repeat' split
  all_goals rfl

theorem State.team?_putPlace {p : Place} {bs : List Byte} {w : Team} (h : (s.putPlace p bs).team? id = some w) :
    ∃ w0, s.team? id = some w0 ∧ w.launch = w0.launch := by
  cases p with
  | mem => exact ⟨w, h, rfl⟩
  | window => exact ⟨w, h, rfl⟩
  | barn l k i o =>
    simp only [State.putPlace, State.setBarnTile] at h
    repeat' split at h
    all_goals exact ⟨w, h, rfl⟩
  | loft u i o =>
    simp only [State.putPlace, State.setLoftTile] at h
    split at h
    · split at h
      · next v hv =>
        have own : v.id = u := by simpa using List.find?_some hv
        refine State.team?_setTeam (v := v) ?_ ?_ h
        · exact own ▸ hv
        · rfl
      · exact ⟨w, h, rfl⟩
    · exact ⟨w, h, rfl⟩

theorem State.launch?_putPlace {p : Place} {bs : List Byte} {w : Launch} (h : (s.putPlace p bs).launch? id = some w) :
    ∃ w0, s.launch? id = some w0 ∧ w.lh = w0.lh ∧ w.kh = w0.kh := by
  cases p with
  | mem => exact ⟨w, h, rfl, rfl⟩
  | window => exact ⟨w, h, rfl, rfl⟩
  | loft u i o =>
    simp only [State.putPlace, State.setLoftTile] at h
    repeat' split at h
    all_goals exact ⟨w, h, rfl, rfl⟩
  | barn u k i o =>
    simp only [State.putPlace, State.setBarnTile] at h
    split at h
    · split at h
      · next v hv =>
        have own : v.id = u := State.launch?_id hv
        refine State.launch?_setLaunch (v := v) ?_ ?_ h
        · exact own ▸ hv
        · exact ⟨rfl, rfl⟩
      · exact ⟨w, h, rfl, rfl⟩
    · exact ⟨w, h, rfl, rfl⟩

/-! ### The issuing group through the writes of its word -/

/-- The slot holds the group of e or nothing, and a launch with the headers of e's. -/
structure KeepsIssuer (core slot : Nat) (e : Env) (t : State) : Prop where
  group : ∀ g, t.group? core slot = some g → g = e.g
  team : ∀ w, t.team? e.g.team = some w → w.launch = e.t.launch
  launch : ∀ w, t.launch? e.t.launch = some w → w.lh = e.l.lh ∧ w.kh = e.l.kh

/-- No write rolls the group back or wakes it: it stands past no fence and does not wait. -/
theorem Group.note_quiet (hf : g.fence = none) (hw : g.wait = .none) (us : List Unit128) (own : Option OwnAccess)
    (filtered : Nat → Bool) (tag : BitVec 64) : (g.noteWrite us own).noteWake filtered tag = g := by
  have : g.noteWrite us own = g := by rw [Group.noteWrite, hf]
  rw [this, Group.noteWake, hw]

theorem Group.note_slot (g : Group) (us : List Unit128) (own : Option OwnAccess) (filtered : Nat → Bool) (tag : BitVec 64) :
    ((g.noteWrite us own).noteWake filtered tag).core = g.core ∧ ((g.noteWrite us own).noteWake filtered tag).slot = g.slot := by
  unfold Group.noteWake Group.noteWrite
  repeat' split
  all_goals exact ⟨rfl, rfl⟩

theorem State.group?_notify (s : State) (us : List Unit128) (tag : BitVec 64) (own : Option OwnAccess) :
    (s.notify us tag own).group? core slot
      = (s.group? core slot).map (fun g => (g.noteWrite us own).noteWake (fun c => s.armedOn c us) tag) := by
  rw [State.group?, State.notify, List.find?_map]
  congr 2
  funext g
  obtain ⟨hc, hs⟩ := g.note_slot us own (fun c => s.armedOn c us) tag
  simp only [Function.comp, hc, hs]

theorem KeepsIssuer.writePlace (h : KeepsIssuer core slot e t) (hf : e.g.fence = none) (hw : e.g.wait = .none) (p : Place)
    (bs : List Byte) (tag : BitVec 64) (own : Option OwnAccess) : KeepsIssuer core slot e (t.writePlace p bs tag own) := by
  unfold State.writePlace
  split
  · exact h
  · refine ⟨fun g hg => ?_, fun w hw => ?_, fun w hw => ?_⟩
    · rw [State.group?_notify, State.group?, State.putPlace_groups, ← State.group?, Option.map_eq_some_iff] at hg
      obtain ⟨g0, hg0, rfl⟩ := hg
      rw [h.group g0 hg0, Group.note_quiet hf hw]
    · obtain ⟨w0, hw0, hl⟩ := State.team?_putPlace hw
      rw [hl, h.team w0 hw0]
    · obtain ⟨w0, hw0, hl, hk⟩ := State.launch?_putPlace hw
      rw [hl, hk]; exact h.launch w0 hw0

/-- The environment of the issue has the group of e and the headers of its launch. -/
theorem KeepsIssuer.env (h : KeepsIssuer core slot e t) (he : t.env? core slot = some e1) :
    e1.g = e.g ∧ e1.l.lh = e.l.lh ∧ e1.l.kh = e.l.kh := by
  obtain ⟨hg, ht, hl⟩ := State.env?_spec he
  have group := h.group _ hg
  rw [group] at ht
  rw [h.team _ ht] at hl
  exact ⟨group, h.launch _ hl⟩

theorem keepsIssuer_of_env (he : s.env? core slot = some e) : KeepsIssuer core slot e s := by
  obtain ⟨hg, ht, hl⟩ := State.env?_spec he
  exact ⟨fun g h => by rw [hg] at h; cases h; rfl, fun w h => by rw [ht] at h; cases h; rfl,
    fun w h => by rw [hl] at h; cases h; exact ⟨rfl, rfl⟩⟩

/-- Without a fence a lane's store is performed at once. -/
theorem KeepsIssuer.storeLane (h : KeepsIssuer core slot e t) (hf : e.g.fence = none) (i : Nat) (tag : BitVec 64) (p : Place)
    (bs : List Byte) : storeLane t core slot i tag p bs = t.writePlace p bs tag := by
  have : (t.group? core slot).bind Group.fence = none := by
    cases hg : t.group? core slot with
    | none => rfl
    | some g => rw [Option.bind_some, h.group g hg, hf]
  unfold Machine.storeLane
  rw [this]

/-- The stores of a word's lanes are writes in their order. -/
theorem foldl_storeLane (h : KeepsIssuer core slot e t) (hf : e.g.fence = none) (hw : e.g.wait = .none) (tag : BitVec 64)
    (bytes : Nat → List Byte) (ps : List (Nat × Place)) :
    ps.foldl (fun s p => storeLane s core slot p.1 tag p.2 (bytes p.1)) t = ps.foldl (fun s p => s.writePlace p.2 (bytes p.1) tag) t
    ∧ KeepsIssuer core slot e (ps.foldl (fun s p => s.writePlace p.2 (bytes p.1) tag) t) := by
  induction ps generalizing t with
  | nil => exact ⟨rfl, h⟩
  | cons p ps ih =>
    simp only [List.foldl_cons, h.storeLane hf]
    exact ih (h.writePlace hf hw _ _ _ _)

/-- The lanes of an ATOM leave the issuing group. -/
theorem KeepsIssuer.performLanes (h : KeepsIssuer core slot e t) (hf : e.g.fence = none) (hw : e.g.wait = .none) (amr : Word) (d : Nat)
    (tag : BitVec 64) (rs : List (Place × Rmw)) : KeepsIssuer core slot e (performLanes t amr d tag rs).1 := by
  refine foldl_keeps (P := fun r : State × List (Nat × Word) × List (Nat × BitVec 9) => KeepsIssuer core slot e r.1) h fun r a hr => ?_
  dsimp only [performRmw]
  split
  · exact hr.writePlace hf hw _ _ _ _
  · exact hr

end Sys2Proof.Machine
end

section
-- One proof is elaborated at a time: the check bounds the threads of the whole text.
set_option Elab.async false
/-! SUPPORT for O60: the one fault of a load, a store, an ATOM or a RED whose lanes fail their checks (R227, R371, R372). -/

namespace Sys2Proof.Machine

variable {s : State} {x : Issue} {c : Nat} {y : Entry} {e1 : Env} {i : Instr}

/-! ### What the words share -/

theorem Usable.append {rs qs : List RegRef} (h : Usable x rs) (k : Usable x qs) : Usable x (rs ++ qs) := fun r hr =>
  (List.mem_append.1 hr).elim (h r) (k r)

/-- The class that the fault of failing lanes has (R227). -/
def faultClass (fails : List (Nat × Nat × BitVec 64)) : Option Nat := [17, 4, 6, 5].find? (fun c => fails.any (fun f => f.2.1 == c))

/-- The word at which a fault's park stands, by whether any lane completed. -/
theorem laneTrap_parkWord (x : Issue) (s : State) (c : Nat) (fails : List (Nat × Nat × BitVec 64)) (none_ : Bool) :
    (x.laneTrap s c fails (!none_)).parkWord = if none_ = true then s.fetched &&& 0x7FFFFFFF else s.fetched := by
  cases none_ <;> rfl

theorem laneTrap_congr (h : e1.g.arch = x.arch) (s : State) (c : Nat) (fails : List (Nat × Nat × BitVec 64)) (took : Bool) :
    { x with e := e1 }.laneTrap s c fails took = x.laneTrap s c fails took := by
  simp only [Issue.laneTrap, Issue.trap, Issue.arch] at *
  rw [h]

theorem Issues.env {s : State} {x : Issue} (h : Issues s x) : s.env? x.core x.slot = some x.e := by
  obtain ⟨-, -, he, -⟩ := issueOf_spec h.issue
  exact he

/-- A word without tracked tokens that passes every check of the decoder runs its body. -/
theorem issue_body {u : Use} {body : Issue → State → Res} {d : Done} (hi : Issues s x) (hd : decodeFault u x = none)
    (ht : u.tokens x = []) (hb : body x s = .done d) : issue u body s = .next (finish u x s d) := by
  rw [issue_next hi, issueStep_body hi _ _ hd ht, hb]; rfl

theorem MayTrap.takesFault (h : MayTrap x y) {g : Group} (hg : g.handler = x.e.g.handler) : TakesFault { x.e with g := g } :=
  ⟨hg.trans h.outside, h.mode, h.handler⟩

/-! ### Loads -/

/-- The group of x after a load of the lanes that pass. -/
def Issue.loaded (x : Issue) (s : State) (d : BitVec 8) (z : BitVec 2) (good : List (Nat × Place)) : Group :=
  x.e.g.bump.addResult
    { v := good.flatMap (fun p => observedCells d.toNat p.1 (2 ^ z.toNat) (BitVec.ofNat 64 (leNat (readAny s p.2 (2 ^ z.toNat))))) }
    (dataRegs d z)

/-- The fault of a load whose lanes fail: with a handler to take it or under a switch marker the group parks for the lanes that pass,
and else the task ends. -/
def LoadFaults (s : State) (x : Issue) (d : BitVec 8) (z : BitVec 2) (i : Instr) (addr : Nat → LaneAddr) : Prop :=
  let good := x.passes s .load 16 (2 ^ z.toNat) addr
  let fails := x.failures s .load 16 (2 ^ z.toNat) addr
  ∀ c, faultClass fails = some c →
    let f := x.laneTrap s c fails (!good.isEmpty)
    let g := x.loaded s d z good
    let word := if good.isEmpty then s.fetched &&& 0x7FFFFFFF else s.fetched
    (c = 5 ∨ c = 6 ∨ word.getLsbD 31 = true →
      exec i s = .next (s.setGroup { g with after := f :: g.after, wait := .parked x.entry.pc word x.entry.mask }))
    ∧ (c = 4 ∨ c = 17 → word.getLsbD 31 = false →
      exec i s = .next (endTask (writeRecord (s.setGroup g) x.e.l (x.faultRecord f (if f.took then 16 else 0)) true) x.e.l.id c))

theorem loadBody_faults {d : BitVec 8} {z : BitVec 2} {addr : Issue → Nat → LaneAddr} (hf : x.e.g.fence = none)
    (hc : faultClass (x.failures s .load 16 (2 ^ z.toNat) (addr x)) = some c) :
    loadBody d z addr x s = .done
      { s := s.setGroup (x.loaded s d z (x.passes s .load 16 (2 ^ z.toNat) (addr x)))
        fault := some (laneFault c (x.failures s .load 16 (2 ^ z.toNat) (addr x))
          (!(x.passes s .load 16 (2 ^ z.toNat) (addr x)).isEmpty)) } := by
  have watched (ws : List Watch) : x.e.g.bump.watch ws = x.e.g.bump := by
    have : x.e.g.bump.fence = none := hf
    rw [Group.watch, this]
  have reads (i : Nat) (p : Place) (n : Nat) : x.e.g.readLane s i p n = (readAny s p n, []) := by rw [Group.readLane, hf]
  simp only [loadBody, sizeBytes, checkLanes_eq, LaneChecks.fault, lanesFault_eq hc, watched, reads, hf, List.flatMap_map]
  rfl

section Accesses

variable {d : BitVec 8} {z : BitVec 2} {illegal bad : Bool} {reads : List RegRef} {addr : Issue → Nat → LaneAddr}
  (hi : Issues s x) (hm : MayTrap x y) (hh : Hinted x (some 0xFFFFF) false false false) (hd : Usable x (dataRegs d z))
  (hodd : oddData d z = false) (hr : Usable x reads) (hill : illegal = false) (hbad : bad = false)
include hi hm hh hd hodd hr hill hbad

theorem loadFaults (hx : exec i s = issue (loadUse d z illegal bad reads) (loadBody d z addr) s) : LoadFaults s x d z i (addr x) := by
  unfold LoadFaults
  intro good fails c hc f g word
  have regs : ∀ r ∈ (loadUse d z illegal bad reads).regs x, r ∈ reads ++ dataRegs d z := by simp [Use.regs, loadUse]
  have usable := hr.append hd
  have hdec : decodeFault (loadUse d z illegal bad reads) x = none :=
    decodeFault_none usable hh (by rintro k ⟨⟩; exact ⟨rfl, rfl⟩) hill rfl rfl (by rintro ⟨⟩)
      (by simp [loadUse, hbad, hodd]) rfl regs
  have htok := tokens_none usable regs
  have he : (s.setGroup g).env? x.core x.slot = some { x.e with g := g } := State.env?_setGroup hi.env rfl rfl rfl
  have takes : TakesFault { x.e with g := g } := hm.takesFault rfl
  have outstanding : g.outstanding ≠ [] := by simp [g, Issue.loaded, Group.addResult]
  have hw : f.parkWord = word := laneTrap_parkWord x s c fails good.isEmpty
  rw [hx, issue_body hi hdec htok (loadBody_faults hi.fence hc)]
  refine ⟨fun h => ?_, fun h unmarked => ?_⟩
  · rw [laneFault_parks hi htok he takes outstanding (by rw [hw]; exact h), hw]
    exact congrArg _ (State.setGroup_setGroup _ _ _ rfl rfl)
  · rw [laneFault_ends hi htok he takes h (.inr (by rw [hw]; exact unmarked))]
    exact congrArg (fun t => Host.Outcome.next (endTask (writeRecord t _ _ true) _ c)) (State.setGroup_self s g)

end Accesses

/-! ### Stores -/

/-- The value that lane l of a store writes (R228). -/
def Issue.storeValue (x : Issue) (d : BitVec 8) (z : BitVec 2) (l : Nat) : Nat :=
  if z = 3 then (x.arch.getV64 d.toNat l).toNat else (x.arch.getV d.toNat l).toNat

/-- The machine after the stores of the lanes that pass. -/
def Issue.stored (x : Issue) (s : State) (d : BitVec 8) (z : BitVec 2) (good : List (Nat × Place)) : State :=
  good.foldl (fun t p => t.writePlace p.2 (leBytes (2 ^ z.toNat) (x.storeValue d z p.1)) x.tag) (s.setGroup x.e.g.bump)

/-- The fault of a store whose lanes fail: the handler takes it, or the task ends. -/
def StoreFaults (s : State) (x : Issue) (d : BitVec 8) (z : BitVec 2) (y : Entry) (i : Instr) (addr : Nat → LaneAddr) : Prop :=
  let good := x.passes s .store 16 (2 ^ z.toNat) addr
  let fails := x.failures s .store 16 (2 ^ z.toNat) addr
  let stored := x.stored s d z good
  ∀ c e1, faultClass fails = some c → stored.env? x.core x.slot = some e1 →
    let y1 := { x with e := e1 }
    let f := y1.laneTrap s c fails (!good.isEmpty)
    (c = 5 ∨ c = 6 → exec i s = .next (y1.entersHandler (stored.setGroup e1.g) f y))
    ∧ (c = 4 ∨ c = 17 → exec i s
      = .next (endTask (writeRecord (stored.setGroup e1.g) e1.l (y1.faultRecord f (if f.took then 16 else 0)) true) e1.l.id c))

section Stores

variable (hi : Issues s x) (hw : x.e.g.wait = .none)
include hi hw

/-- The stores of the lanes that pass are performed in their order, and the group of x only counts its request. -/
theorem foldl_stored (d : BitVec 8) (z : BitVec 2) (good : List (Nat × Place)) :
    good.foldl (fun s p => storeLane s x.core x.slot p.1 x.tag p.2 (leBytes (2 ^ z.toNat) (x.storeValue d z p.1)))
      (s.setGroup x.e.g.bump) = x.stored s d z good
    ∧ KeepsIssuer x.core x.slot { x.e with g := x.e.g.bump } (x.stored s d z good) :=
  foldl_storeLane (keepsIssuer_of_env (State.env?_setGroup (g := x.e.g.bump) hi.env rfl rfl rfl)) hi.fence hw x.tag
    (fun l => leBytes (2 ^ z.toNat) (x.storeValue d z l)) good

theorem storeBody_faults {d : BitVec 8} {z : BitVec 2} {addr : Issue → Nat → LaneAddr}
    (hc : faultClass (x.failures s .store 16 (2 ^ z.toNat) (addr x)) = some c) :
    storeBody d z addr x s = .done
      { s := x.stored s d z (x.passes s .store 16 (2 ^ z.toNat) (addr x))
        fault := some (laneFault c (x.failures s .store 16 (2 ^ z.toNat) (addr x))
          (!(x.passes s .store 16 (2 ^ z.toNat) (addr x)).isEmpty)) } := by
  obtain ⟨performed, -⟩ := foldl_stored hi hw d z (x.passes s .store 16 (2 ^ z.toNat) (addr x))
  rw [← performed]
  simp only [storeBody, sizeBytes, checkLanes_eq, LaneChecks.fault, lanesFault_eq hc]
  rfl

end Stores

section Accesses

variable {d : BitVec 8} {z : BitVec 2} {illegal bad : Bool} {reads : List RegRef} {addr : Issue → Nat → LaneAddr}

theorem storeFaults (hi : Issues s x) (hm : MayTrap x y) (hw : x.e.g.wait = .none) (hh : Hinted x (some 0xFFFFF) false false false)
    (hd : Usable x (dataRegs d z)) (hodd : oddData d z = false) (hr : Usable x reads) (hill : illegal = false) (hbad : bad = false)
    (hx : exec i s = issue (storeUse d z illegal bad reads) (storeBody d z addr) s) : StoreFaults s x d z y i (addr x) := by
  unfold StoreFaults
  intro good fails stored c e1 hc he y1 f
  have regs : ∀ r ∈ (storeUse d z illegal bad reads).regs x, r ∈ reads ++ dataRegs d z := by simp [Use.regs, storeUse]
  have usable := hr.append hd
  have hdec : decodeFault (storeUse d z illegal bad reads) x = none :=
    decodeFault_none usable hh (by rintro k ⟨⟩; exact ⟨rfl, rfl⟩) hill rfl rfl (by rintro ⟨⟩)
      (by simp [storeUse, hbad, hodd]) rfl regs
  have htok := tokens_none usable regs
  obtain ⟨hg, hmode, hkh⟩ := (foldl_stored hi hw d z good).2.env he
  have takes : TakesFault e1 := ⟨by rw [hg]; exact hm.outside, by rw [hmode]; exact hm.mode, by rw [hkh]; exact hm.handler⟩
  have quiet : e1.g.outstanding = [] := by rw [hg]; exact hm.quiet
  have arch : e1.g.arch = x.arch := by rw [hg]; rfl
  have trap : f = x.laneTrap s c fails (!good.isEmpty) := laneTrap_congr arch s c fails _
  rw [hx, issue_body hi hdec htok (storeBody_faults hi hw hc), trap]
  refine ⟨fun h => ?_, fun h => ?_⟩
  · rw [laneFault_enters hi htok he takes h quiet arch (by rw [hg]; exact hi.bad) (by rw [hg]; exact hi.fence)
      (by rw [hg]; exact hi.held) hm.entry]
  · rw [laneFault_ends hi htok he takes h (.inl quiet)]
    rfl

/-- A load and a store of one address form. -/
theorem accessFaults {j : Instr} (addr : Issue → Nat → LaneAddr) (hi : Issues s x) (hm : MayTrap x y) (hw : x.e.g.wait = .none)
    (hh : Hinted x (some 0xFFFFF) false false false) (hd : Usable x (dataRegs d z)) (hodd : oddData d z = false) (hr : Usable x reads)
    (hill : illegal = false) (hbad : bad = false) (hx : exec i s = issue (loadUse d z illegal bad reads) (loadBody d z addr) s)
    (hy : exec j s = issue (storeUse d z illegal bad reads) (storeBody d z addr) s) :
    LoadFaults s x d z i (addr x) ∧ StoreFaults s x d z y j (addr x) :=
  ⟨loadFaults hi hm hh hd hodd hr hill hbad hx, storeFaults hi hm hw hh hd hodd hr hill hbad hy⟩

end Accesses

/-! ### REDs and ATOMs -/

section Atomics

variable {d a : BitVec 8} {o : BitVec 4} {t : BitVec 2}

theorem State.mapGroup_eq {s : State} {core slot : Nat} {g : Group} (h : s.group? core slot = some g) (f : Group → Group) :
    s.mapGroup core slot f = s.setGroup (f g) := by rw [State.mapGroup, h]

theorem redFaults (hi : Issues s x) (hm : MayTrap x y) (hh : Hinted x (some 0xFFFFF) false false false)
    (hill : atomIllegal o t = false) (hpair : atomPairBad a = false) (hdata : atomDataBad d o t = false)
    (hr : Usable x (vPair a ++ atomData d o t ++ atomDest d t))
    (hc : faultClass (x.failures s .atomic o.toNat (atomBytes t) (atomAddr a t x)) = some c) (hop : 2 ≤ o.toNat)
    (room : x.e.g.redQuota < 8 ∨ (x.passes s .atomic o.toNat (atomBytes t) (atomAddr a t x)).isEmpty = true) (hb : x.e.g.batch = []) :
    let good := x.passes s .atomic o.toNat (atomBytes t) (atomAddr a t x)
    let f := x.laneTrap s c (x.failures s .atomic o.toNat (atomBytes t) (atomAddr a t x)) (!good.isEmpty)
    let g := { x.e.g.bump with reds := x.e.g.reds ++ redEntries x d o t (atomAddr a t x) good, redCount := x.e.g.redCount + 1
                               redQuota := if good.isEmpty then x.e.g.redQuota else x.e.g.redQuota + 1 }
    (c = 5 ∨ c = 6 → exec (.red d a o t) s = .next ({ x with e := { x.e with g := g } }.entersHandler (s.setGroup g) f y))
    ∧ (c = 4 ∨ c = 17 → exec (.red d a o t) s
      = .next (endTask (writeRecord (s.setGroup g) x.e.l (x.faultRecord f (if f.took then 16 else 0)) true) x.e.l.id c)) := by
  intro good f g
  let u : Use := { limm := true, illegal := atomIllegal o t || o.toNat < 2, badReg := atomPairBad a || atomDataBad d o t,
                   reads := vPair a ++ atomData d o t, fence := .stall }
  have regs : ∀ r ∈ u.regs x, r ∈ vPair a ++ atomData d o t ++ atomDest d t := by
    simp only [u, Use.regs, List.append_nil]
    exact fun r h => List.mem_append_left _ h
  have hdec : decodeFault u x = none :=
    decodeFault_none hr hh (by rintro k ⟨⟩; exact ⟨rfl, rfl⟩) (by simp [u, hill]; omega) rfl rfl (by rintro ⟨⟩)
      (by simp [u, hpair, hdata]) rfl regs
  have htok := tokens_none hr regs
  have drained : ((8 ≤ x.e.g.redQuota && !good.isEmpty) || !x.e.g.batch.isEmpty) = false := by
    rcases room with h | h
    · simp [hb]; omega
    · simp [hb, good, h]
  have entered : exec (.red d a o t) s = .next (finish u x s
      { s := s.setGroup g, fault := some (laneFault c (x.failures s .atomic o.toNat (atomBytes t) (atomAddr a t x)) (!good.isEmpty)) }) :=
    issue_body hi hdec htok (by
      simp only [checkLanes_eq, LaneChecks.fault, lanesFault_eq hc, State.mapGroup_eq hi.group.1, redEntries, List.isEmpty_map, drained,
        Bool.false_eq_true, if_false, good, g])
  have he : (s.setGroup g).env? x.core x.slot = some { x.e with g := g } := State.env?_setGroup hi.env rfl rfl rfl
  have takes : TakesFault { x.e with g := g } := hm.takesFault rfl
  rw [entered]
  refine ⟨fun h => ?_, fun h => ?_⟩
  · rw [laneFault_enters hi htok he takes h hm.quiet rfl hi.bad hi.fence hi.held hm.entry, State.setGroup_self]
  · rw [laneFault_ends hi htok he takes h (.inl hm.quiet)]
    exact congrArg (fun t => Host.Outcome.next (endTask (writeRecord t _ _ true) _ c)) (State.setGroup_self s g)

/-- The group g after an ATOM whose observed values and flags are those of r. -/
def Group.atomed (g : Group) (d : BitVec 8) (t : BitVec 2) (r : State × List (Nat × Word) × List (Nat × BitVec 9)) : Group :=
  g.bump.addResult { v := r.2.1, flags := r.2.2, atom := true } (atomDest d t)

theorem atomFaults (hi : Issues s x) (hm : MayTrap x y) (hw : x.e.g.wait = .none) (hh : Hinted x (some 0xFFFFF) false false false)
    (hill : atomIllegal o t = false) (hpair : atomPairBad a = false) (hdata : atomDataBad d o t = false)
    (hr : Usable x (vPair a ++ atomData d o t ++ atomDest d t))
    (hc : faultClass (x.failures s .atomic o.toNat (atomBytes t) (atomAddr a t x)) = some c) :
    let good := x.passes s .atomic o.toNat (atomBytes t) (atomAddr a t x)
    let f := x.laneTrap s c (x.failures s .atomic o.toNat (atomBytes t) (atomAddr a t x)) (!good.isEmpty)
    let r := performLanes s x.amr d.toNat x.tag (good.map (fun p => (p.2, atomOperands x.arch d o t p.1)))
    let g := e1.g.atomed d t r
    let word := if good.isEmpty then s.fetched &&& 0x7FFFFFFF else s.fetched
    r.1.env? x.core x.slot = some e1 →
    (c = 5 ∨ c = 6 ∨ word.getLsbD 31 = true →
      exec (.atom d a o t) s = .next (r.1.setGroup { g with after := f :: g.after, wait := .parked x.entry.pc word x.entry.mask }))
    ∧ (c = 4 ∨ c = 17 → word.getLsbD 31 = false →
      exec (.atom d a o t) s = .next (endTask (writeRecord (r.1.setGroup g) e1.l
        ({ x with e := e1 }.faultRecord f (if f.took then 16 else 0)) true) e1.l.id c)) := by
  intro good f r g word he1
  let u : Use := { limm := true, illegal := atomIllegal o t, badReg := atomPairBad a || atomDataBad d o t
                   reads := vPair a ++ atomData d o t, writes := atomDest d t, fence := .hold }
  have regs : ∀ r ∈ u.regs x, r ∈ vPair a ++ atomData d o t ++ atomDest d t := by simp [u, Use.regs]
  have hdec : decodeFault u x = none :=
    decodeFault_none hr hh (by rintro k ⟨⟩; exact ⟨rfl, rfl⟩) hill rfl rfl (by rintro ⟨⟩) (by simp [u, hpair, hdata]) rfl regs
  have htok := tokens_none hr regs
  obtain ⟨hg, hmode, hkh⟩ := ((keepsIssuer_of_env hi.env).performLanes hi.fence hw x.amr d.toNat x.tag
    (good.map (fun p => (p.2, atomOperands x.arch d o t p.1)))).env he1
  have goes := chooseAll_free (kind := 1) (team := x.e.t.id) (tag := x.tag) (late := false) (State.env?_launch hi.env) hm.mode
  have entered : exec (.atom d a o t) s = .next (finish u x s
      { s := r.1.setGroup g, fault := some (laneFault c (x.failures s .atomic o.toNat (atomBytes t) (atomAddr a t x)) (!good.isEmpty)) }) :=
    issue_body hi hdec htok (by
      have idle : ¬8 ≤ (x.e.g.outstanding.filter (·.atom)).length := by rw [hm.quiet]; decide
      have fence : ¬x.e.g.fence.isSome = true := by rw [hi.fence]; decide
      have mode : ¬x.e.l.lh.mode = 2 := by rw [hm.mode]; decide
      simp only [if_neg idle, if_neg fence, if_neg mode, checkLanes_eq, LaneChecks.fault, lanesFault_eq hc, goes]
      exact congrArg (fun t => Res.done { s := t, fault := some (laneFault c _ (!good.isEmpty)) })
        (State.mapGroup_eq (State.env?_spec he1).1 _))
  have he : (r.1.setGroup g).env? x.core x.slot = some { e1 with g := g } := State.env?_setGroup he1 rfl rfl rfl
  have takes : TakesFault { e1 with g := g } :=
    ⟨(congrArg Group.handler hg).trans hm.outside, by rw [hmode]; exact hm.mode, by rw [hkh]; exact hm.handler⟩
  have outstanding : g.outstanding ≠ [] := by simp [g, Group.atomed, Group.addResult]
  have hword : f.parkWord = word := laneTrap_parkWord x s c _ good.isEmpty
  rw [entered]
  refine ⟨fun h => ?_, fun h unmarked => ?_⟩
  · rw [laneFault_parks hi htok he takes outstanding (by rw [hword]; exact h), hword]
    exact congrArg _ (State.setGroup_setGroup _ _ _ rfl rfl)
  · rw [laneFault_ends hi htok he takes h (.inr (by rw [hword]; exact unmarked))]
    exact congrArg (fun t => Host.Outcome.next (endTask (writeRecord t _ _ true) _ c)) (State.setGroup_self r.1 g)

end Atomics

end Sys2Proof.Machine
end

section
-- One proof is elaborated at a time: the check bounds the threads of the whole text.
set_option Elab.async false
/-! PROOF of O60: translation, the checks of an access, and the faults of lanes that fail them. -/

open Sys2Proof Sys2Proof.Machine

/-- Settles O60, part by part: the range registers by the fields of their words, the walk entry by entry, the checks in their order,
and each word by its body and the fault that its group takes. -/
theorem translationAndAccessChecks : Obligations.TranslationAndAccessChecks := by
  unfold Obligations.TranslationAndAccessChecks
  refine ⟨?ranges, ?writes, ?walks, fun f op => ⟨⟨rfl, rfl⟩, leafPermits_atomic_iff f op⟩, ?virtual, ?handles, ?faults⟩
  case ranges =>
    intro s c va word base size first holds
    have holds_iff (k : Nat) : holds k ↔ rangeHolds s c k va = true := by
      rw [rangeHolds_iff, rangeKind_eq, rangeBase_eq, rangeBytes_eq]
    refine ⟨fun k hk hold before => ?_, fun unheld => ?_, fun id ia => inLease_iff s id c ia, ?_⟩
    · have found : findRange s c va = some k :=
        findRange_eq_some.2 ⟨(holds_iff k).1 hold, hk, fun j hj => mt (holds_iff j).2 (before j hj)⟩
      exact ⟨found, by rw [toIa_of_findRange found, rangeKind_eq, rangeBase_eq, rangeIa_eq]⟩
    · have none_ : findRange s c va = none := findRange_eq_none.2 fun k hk => mt (holds_iff k).2 (unheld k hk)
      exact ⟨none_, toIa_of_unheld none_⟩
    · rintro g t l k hg ht hl rfl - kind stride area room held a lo hi
      exact inControlArea_of_group hg ht hl rfl kind room held lo hi
  case writes =>
    intro s c k v hk x kind base bytes formed free takes refuses
    have m0 : (0x100 + k) % 16 = k := by omega
    have m1 : (0x110 + k) % 16 = k := by omega
    have m2 : (0x120 + k) % 16 = k := by omega
    refine ⟨fun h => ⟨writeRange_window (m0.symm ▸ h), writeRange_window (m1.symm ▸ h), writeRange_window (m2.symm ▸ h)⟩,
      fun h hp => ⟨writeRange_pinned (m0.symm ▸ h) (m0.symm ▸ hp), writeRange_pinned (m1.symm ▸ h) (m1.symm ▸ hp),
        writeRange_pinned (m2.symm ▸ h) (m2.symm ▸ hp)⟩, fun h2 hp => ?_⟩
    have formed_iff : formed ↔ x / 4 % 2 ^ 10 = 0 ∧ rangeFormed s c k v = true := by rw [rangeFormed_iff]
    have opened (h1 : x % 4 = 1) := writeRange_open (v := v) hk h2 hp h1
    have closed (h0 : x % 4 = 0) := writeRange_close (v := v) hk h2 hp h0
    have length := writeRange_length (v := v) hk h2 hp
    have first := writeRange_first (v := v) hk h2 hp
    refine ⟨fun h1 hf hfree => ?admitted, fun h1 hf hfree => ?overlap, fun h1 hf => (opened h1).trans (if_neg (mt formed_iff.2 hf)),
      fun h0 hz => ?close, fun h0 hz => (closed h0).trans (if_neg hz), writeRange_asWindow hk h2 hp, writeRange_noKind hk h2 hp,
      fun h0 => ⟨length.trans (if_neg fun h => h0 h.1), first.trans (if_neg fun h => h0 h.1)⟩, fun h0 => ⟨?_, ?_, ?_, ?_⟩⟩
    case admitted =>
      have isFree := rangeFree_iff.2 hfree
      exact ⟨(opened h1).trans ((if_pos (formed_iff.1 hf)).trans (if_pos isFree)), fun va lo hi => toIa_opened_inside hk h1 isFree lo hi,
        fun va out => toIa_opened_outside hk out, fun d va hd => toIa_setSys_context hd⟩
    case overlap => exact (opened h1).trans ((if_pos (formed_iff.1 hf)).trans (if_neg (mt rangeFree_iff.1 hfree)))
    case close =>
      exact ⟨(closed h0).trans (if_pos hz), fun va hva => toIa_closed hk h0 hva, fun d va hd => toIa_setSys_context hd⟩
    · exact fun lo hi => ⟨length.trans (if_pos ⟨h0, lo, hi⟩), fun d va => toIa_setSys_unused hk h0 (.inl rfl)⟩
    · exact fun out => length.trans (if_neg (by omega))
    · exact fun lo hi => ⟨first.trans (if_pos ⟨h0, lo, hi⟩), fun d va => toIa_setSys_unused hk h0 (.inr rfl)⟩
    · exact fun out => first.trans (if_neg (by omega))
  case walks =>
    intro s c ia entry next table leaf e3 e2 e1 big e0 pasid ends
    have ends_of {e k s64 : Nat} (h : EndsAt s c ia e k s64) : ends e k s64 := by
      unfold EndsAt at h
      rw [contextPasid_eq] at h
      exact h
    refine ⟨walk_noTable3 rfl, fun t3 => ⟨fun h => ends_of (endsAt_leaf2 rfl rfl t3 h), walk_noTable2 rfl rfl t3, fun t2 =>
      ⟨fun h => ends_of (endsAt_leaf1 rfl rfl rfl t3 t2 h), walk_noTable1 rfl rfl rfl t3 t2, fun t1 =>
        ⟨fun h => ends_of (endsAt_big rfl rfl rfl t3 t2 t1 h), fun h => ends_of (endsAt_small rfl rfl rfl t3 t2 t1 h)⟩⟩⟩⟩
  case virtual =>
    intro s u k op waits align va n check
    refine ⟨checkVirtual_unheld, fun r hr => ⟨checkVirtual_unaligned hr, fun ha =>
      ⟨fun hk => checkVirtual_window hr ha hk rfl, fun hk => ⟨checkVirtual_denied hr ha hk rfl, fun f hl hc hw =>
        ⟨checkVirtual_forbidden hr ha hk rfl hl hc hw, checkVirtual_permitted hr ha hk rfl hl hc hw⟩⟩⟩⟩⟩
  case handles =>
    exact fun s u k align h n off hh => ⟨inTile_loft, inTile_barn, fun h1 => checkHandle_noKind h1 hh⟩
  case faults =>
    intro s x d a b z e hi hm hw hh hd hodd
    have pair (hb : b.getLsbD 0 = false) : (b == 63) = false := beq_eq_false_iff_ne.2 fun h => by subst h; exact absurd hb (by decide)
    exact ⟨fun hr hb => accessFaults (fun x => addrUniformVector x a.toNat b.toNat) hi hm hw hh hd hodd hr rfl hb rfl rfl,
      fun hr hb => accessFaults (fun x _ => addrUniform x b.toNat) hi hm hw hh hd hodd hr (pair hb) hb rfl rfl,
      fun hr hb => accessFaults (fun x => addrVector x a.toNat) hi hm hw hh hd hodd hr rfl hb rfl rfl,
      fun hr => accessFaults (fun x => addrHandleVector x a.toNat b.toNat) hi hm hw hh hd hodd hr rfl rfl rfl rfl,
      fun hr => accessFaults (fun x _ => addrHandle x b.toNat) hi hm hw hh hd hodd hr rfl rfl rfl rfl,
      fun a o t c hill hpair hdata hr hc hop room hb => redFaults hi hm hh hill hpair hdata hr hc hop room hb,
      fun a o t c e1 hill hpair hdata hr hc he1 => atomFaults hi hm hw hh hill hpair hdata hr hc he1⟩

end

section
-- One proof is elaborated at a time: the check bounds the threads of the whole text.
set_option Elab.async false
/-! SUPPORT for O59: the rows that have a word (R30), and the law of decoding for every row. -/

namespace Sys2Proof.Laws

open Sys2Proof.Machine

/-- The rows with a word are those that are neither an event nor the unassigned major (R30, R48). -/
theorem encode_isSome (m : Bool) (i : Instr) : (encode m i).isSome = !wordless i := by cases i <;> rfl

/-- Every row keeps its law of decoding (R31 to R36, R45). -/
theorem decodes_encoded : ∀ i : Instr, RoundTrip.Statement i
  | .iadd d a b => RoundTrip.iadd d a b
  | .isub d a b => RoundTrip.isub d a b
  | .imul d a b => RoundTrip.imul d a b
  | .imulhS32 d a b => RoundTrip.imulhS32 d a b
  | .imulhN32 d a b => RoundTrip.imulhN32 d a b
  | .imad d a b => RoundTrip.imad d a b
  | .iminS32 d a b => RoundTrip.iminS32 d a b
  | .imaxS32 d a b => RoundTrip.imaxS32 d a b
  | .iminN32 d a b => RoundTrip.iminN32 d a b
  | .imaxN32 d a b => RoundTrip.imaxN32 d a b
  | .and d a b => RoundTrip.and d a b
  | .or d a b => RoundTrip.or d a b
  | .xor d a b => RoundTrip.xor d a b
  | .shl d a b => RoundTrip.shl d a b
  | .shr d a b => RoundTrip.shr d a b
  | .sar d a b => RoundTrip.sar d a b
  | .iadd64 d a b => RoundTrip.iadd64 d a b
  | .isub64 d a b => RoundTrip.isub64 d a b
  | .bfeS32 d a b => RoundTrip.bfeS32 d a b
  | .bfeN32 d a b => RoundTrip.bfeN32 d a b
  | .bfi d a b => RoundTrip.bfi d a b
  | .iaddi d a i => RoundTrip.iaddi d a i
  | .andi d a i => RoundTrip.andi d a i
  | .ori d a i => RoundTrip.ori d a i
  | .shli d a i => RoundTrip.shli d a i
  | .shri d a i => RoundTrip.shri d a i
  | .sari d a i => RoundTrip.sari d a i
  | .mov d a => RoundTrip.mov d a
  | .not d a => RoundTrip.not d a
  | .ineg d a => RoundTrip.ineg d a
  | .iabs d a => RoundTrip.iabs d a
  | .popc d a => RoundTrip.popc d a
  | .clz d a => RoundTrip.clz d a
  | .brev d a => RoundTrip.brev d a
  | .sextS8 d a => RoundTrip.sextS8 d a
  | .sextS16 d a => RoundTrip.sextS16 d a
  | .zextN8 d a => RoundTrip.zextN8 d a
  | .zextN16 d a => RoundTrip.zextN16 d a
  | .mov64 d a => RoundTrip.mov64 d a
  | .movi d i => RoundTrip.movi d i
  | .movhi d i => RoundTrip.movhi d i
  | .icmpS32 c p a b => RoundTrip.icmpS32 c p a b
  | .icmpN32 c p a b => RoundTrip.icmpN32 c p a b
  | .plog d a b t => RoundTrip.plog d a b t
  | .pmvVp d a => RoundTrip.pmvVp d a
  | .pmvPv d a => RoundTrip.pmvPv d a
  | .pmvSp d a => RoundTrip.pmvSp d a
  | .pmvPs d a => RoundTrip.pmvPs d a
  | .voteBallot d a => RoundTrip.voteBallot d a
  | .voteAny d a => RoundTrip.voteAny d a
  | .voteAll d a => RoundTrip.voteAll d a
  | .voteUni d a => RoundTrip.voteUni d a
  | .voteActive d => RoundTrip.voteActive d
  | .voteCount d a => RoundTrip.voteCount d a
  | .shflIdx d a n => RoundTrip.shflIdx d a n
  | .shflUp d a n => RoundTrip.shflUp d a n
  | .shflDown d a n => RoundTrip.shflDown d a n
  | .shflXor d a n => RoundTrip.shflXor d a n
  | .shflv d a b => RoundTrip.shflv d a b
  | .matchB32 d a => RoundTrip.matchB32 d a
  | .matchB64 d a => RoundTrip.matchB64 d a
  | .xred d a s k o => RoundTrip.xred d a s k o
  | .uadd d a b => RoundTrip.uadd d a b
  | .usub d a b => RoundTrip.usub d a b
  | .umul d a b => RoundTrip.umul d a b
  | .umulhS32 d a b => RoundTrip.umulhS32 d a b
  | .umulhN32 d a b => RoundTrip.umulhN32 d a b
  | .uand d a b => RoundTrip.uand d a b
  | .uor d a b => RoundTrip.uor d a b
  | .uxor d a b => RoundTrip.uxor d a b
  | .ushl d a b => RoundTrip.ushl d a b
  | .ushr d a b => RoundTrip.ushr d a b
  | .usar d a b => RoundTrip.usar d a b
  | .uminS32 d a b => RoundTrip.uminS32 d a b
  | .umaxS32 d a b => RoundTrip.umaxS32 d a b
  | .uminN32 d a b => RoundTrip.uminN32 d a b
  | .umaxN32 d a b => RoundTrip.umaxN32 d a b
  | .umov d a => RoundTrip.umov d a
  | .unot d a => RoundTrip.unot d a
  | .usetEq d a b => RoundTrip.usetEq d a b
  | .usetNe d a b => RoundTrip.usetNe d a b
  | .usetLtS32 d a b => RoundTrip.usetLtS32 d a b
  | .usetLeS32 d a b => RoundTrip.usetLeS32 d a b
  | .usetLtN32 d a b => RoundTrip.usetLtN32 d a b
  | .usetLeN32 d a b => RoundTrip.usetLeN32 d a b
  | .uadd64 d a b => RoundTrip.uadd64 d a b
  | .usub64 d a b => RoundTrip.usub64 d a b
  | .upopc d a => RoundTrip.upopc d a
  | .uclz d a => RoundTrip.uclz d a
  | .umovi d i => RoundTrip.umovi d i
  | .uaddi d i => RoundTrip.uaddi d i
  | .umovhi d i => RoundTrip.umovhi d i
  | .uvmovVs d a => RoundTrip.uvmovVs d a
  | .uvmovSv d a n => RoundTrip.uvmovSv d a n
  | .uvmovFirst d a => RoundTrip.uvmovFirst d a
  | .laddLn8 d a b => RoundTrip.laddLn8 d a b
  | .laddLn16 d a b => RoundTrip.laddLn16 d a b
  | .laddLn32 d a b => RoundTrip.laddLn32 d a b
  | .lsubLn8 d a b => RoundTrip.lsubLn8 d a b
  | .lsubLn16 d a b => RoundTrip.lsubLn16 d a b
  | .lsubLn32 d a b => RoundTrip.lsubLn32 d a b
  | .lmulLn8 d a b => RoundTrip.lmulLn8 d a b
  | .lmulLn16 d a b => RoundTrip.lmulLn16 d a b
  | .lmulLn32 d a b => RoundTrip.lmulLn32 d a b
  | .lmadLn8 d a b => RoundTrip.lmadLn8 d a b
  | .lmadLn16 d a b => RoundTrip.lmadLn16 d a b
  | .lmadLn32 d a b => RoundTrip.lmadLn32 d a b
  | .ldivLn16 d a b => RoundTrip.ldivLn16 d a b
  | .ldivLn32 d a b => RoundTrip.ldivLn32 d a b
  | .lminLn16 d a b => RoundTrip.lminLn16 d a b
  | .lminLn32 d a b => RoundTrip.lminLn32 d a b
  | .lmaxLn16 d a b => RoundTrip.lmaxLn16 d a b
  | .lmaxLn32 d a b => RoundTrip.lmaxLn32 d a b
  | .lpowLn32 d a b => RoundTrip.lpowLn32 d a b
  | .lscaleLn16 d a b => RoundTrip.lscaleLn16 d a b
  | .lscaleLn32 d a b => RoundTrip.lscaleLn32 d a b
  | .lcmpLn16 c p a b => RoundTrip.lcmpLn16 c p a b
  | .lcmpLn32 c p a b => RoundTrip.lcmpLn32 c p a b
  | .lneg d a f => RoundTrip.lneg d a f
  | .labs d a f => RoundTrip.labs d a f
  | .lrcp d a f => RoundTrip.lrcp d a f
  | .lsqr d a f => RoundTrip.lsqr d a f
  | .lsqrt d a f => RoundTrip.lsqrt d a f
  | .lrsqrt d a f => RoundTrip.lrsqrt d a f
  | .lexp2 d a f => RoundTrip.lexp2 d a f
  | .llog2 d a f => RoundTrip.llog2 d a f
  | .lexp d a f => RoundTrip.lexp d a f
  | .lsint d a f => RoundTrip.lsint d a f
  | .lcost d a f => RoundTrip.lcost d a f
  | .lclass d a f => RoundTrip.lclass d a f
  | .lcvtLn8 d a s => RoundTrip.lcvtLn8 d a s
  | .lcvtLn16 d a s => RoundTrip.lcvtLn16 d a s
  | .lcvtLn32 d a s => RoundTrip.lcvtLn32 d a s
  | .lgetl d a f => RoundTrip.lgetl d a f
  | .lmkl d a f => RoundTrip.lmkl d a f
  | .lunpk0 d a f => RoundTrip.lunpk0 d a f
  | .lunpk1 d a f => RoundTrip.lunpk1 d a f
  | .lunpk2 d a f => RoundTrip.lunpk2 d a f
  | .lunpk3 d a f => RoundTrip.lunpk3 d a f
  | .lfix d a f s n => RoundTrip.lfix d a f s n
  | .lflt d a f s n => RoundTrip.lflt d a f s n
  | .fcvtToLn d a l e => RoundTrip.fcvtToLn d a l e
  | .fcvtToIeee d a l e => RoundTrip.fcvtToIeee d a l e
  | .lpack d a b => RoundTrip.lpack d a b
  | .flagGet d => RoundTrip.flagGet d
  | .flagSet a => RoundTrip.flagSet a
  | .flagClr a => RoundTrip.flagClr a
  | .flagPut a => RoundTrip.flagPut a
  | .flagGor d => RoundTrip.flagGor d
  | .flagTst d a => RoundTrip.flagTst d a
  | .lmma c a b f s p => RoundTrip.lmma c a b f s p
  | .lmms c a b f w n p => RoundTrip.lmms c a b f w n p
  | .imma c a b n p => RoundTrip.imma c a b n p
  | .aclrLn32 c => RoundTrip.aclrLn32 c
  | .aclrLn16 c => RoundTrip.aclrLn16 c
  | .aclrS32 c f => RoundTrip.aclrS32 c f
  | .ard c q d => RoundTrip.ard c q d
  | .awr c q => RoundTrip.awr c q
  | .amov c s => RoundTrip.amov c s
  | .tld t d s => RoundTrip.tld t d s
  | .tst t d s => RoundTrip.tst t d s
  | .tmov t u => RoundTrip.tmov t u
  | .twset n b => RoundTrip.twset n b
  | .twget n b => RoundTrip.twget n b
  | .mwait c => RoundTrip.mwait c
  | .gset a g => RoundTrip.gset a g
  | .gcfg d g => RoundTrip.gcfg d g
  | .ldgUniformVector d a b z => RoundTrip.ldgUniformVector d a b z
  | .ldgUniform d b z => RoundTrip.ldgUniform d b z
  | .ldgVector d a z => RoundTrip.ldgVector d a z
  | .stgUniformVector d a b z => RoundTrip.stgUniformVector d a b z
  | .stgUniform d b z => RoundTrip.stgUniform d b z
  | .stgVector d a z => RoundTrip.stgVector d a z
  | .ldhVector d a b z => RoundTrip.ldhVector d a b z
  | .ldhOffset d b z => RoundTrip.ldhOffset d b z
  | .sthVector d a b z => RoundTrip.sthVector d a b z
  | .sthOffset d b z => RoundTrip.sthOffset d b z
  | .atom d a o t => RoundTrip.atom d a o t
  | .red d a o t => RoundTrip.red d a o t
  | .fenceX s => RoundTrip.fenceX s
  | .talloc d a l => RoundTrip.talloc d a l
  | .tfree a => RoundTrip.tfree a
  | .pref d a b => RoundTrip.pref d a b
  | .vspl d b s => RoundTrip.vspl d b s
  | .vfil d b s => RoundTrip.vfil d b s
  | .qpush n a => RoundTrip.qpush n a
  | .qpop d n => RoundTrip.qpop d n
  | .qtry d n b => RoundTrip.qtry d n b
  | .thrGet d n => RoundTrip.thrGet d n
  | .thrPeek d n => RoundTrip.thrPeek d n
  | .thrSkip a n => RoundTrip.thrSkip a n
  | .thrBfx d a s w p => RoundTrip.thrBfx d a s w p
  | .thrLut d a k => RoundTrip.thrLut d a k
  | .thrTbw d a k => RoundTrip.thrTbw d a k
  | .thrRefill a n => RoundTrip.thrRefill a n
  | .thrMovi d i => RoundTrip.thrMovi d i
  | .thrAdd d a i => RoundTrip.thrAdd d a i
  | .thrSub d a i => RoundTrip.thrSub d a i
  | .thrAnd d a i => RoundTrip.thrAnd d a i
  | .thrOr d a i => RoundTrip.thrOr d a i
  | .thrXor d a i => RoundTrip.thrXor d a i
  | .thrShl d a i => RoundTrip.thrShl d a i
  | .thrShr d a i => RoundTrip.thrShr d a i
  | .thrSar d a i => RoundTrip.thrSar d a i
  | .thrEmit a n => RoundTrip.thrEmit a n
  | .thrCopy d a => RoundTrip.thrCopy d a
  | .thrBr c a i => RoundTrip.thrBr c a i
  | .qbindInit n a => RoundTrip.qbindInit n a
  | .qbindAttach n a => RoundTrip.qbindAttach n a
  | .qbindUnbind n => RoundTrip.qbindUnbind n
  | .waitmUniformVector d a b z => RoundTrip.waitmUniformVector d a b z
  | .waitmUniform d b z => RoundTrip.waitmUniform d b z
  | .waitmVector d a z => RoundTrip.waitmVector d a z
  | .bra o => RoundTrip.bra o
  | .brp p s o => RoundTrip.brp p s o
  | .call o => RoundTrip.call o
  | .jmp a => RoundTrip.jmp a
  | .calli a => RoundTrip.calli a
  | .spawn a b => RoundTrip.spawn a b
  | .bar l s => RoundTrip.bar l s
  | .barl d o l s => RoundTrip.barl d o l s
  | .tsub d a => RoundTrip.tsub d a
  | .widF0 d => RoundTrip.widF0 d
  | .widF1 d => RoundTrip.widF1 d
  | .widF2 d => RoundTrip.widF2 d
  | .widF3 d => RoundTrip.widF3 d
  | .widF4 d => RoundTrip.widF4 d
  | .widF5 d => RoundTrip.widF5 d
  | .widId d => RoundTrip.widId d
  | .widKey d => RoundTrip.widKey d
  | .widExt0 d => RoundTrip.widExt0 d
  | .widExt1 d => RoundTrip.widExt1 d
  | .widExt2 d => RoundTrip.widExt2 d
  | .widExt3 d => RoundTrip.widExt3 d
  | .widExt4 d => RoundTrip.widExt4 d
  | .widExt5 d => RoundTrip.widExt5 d
  | .sread d n => RoundTrip.sread d n
  | .swrite h a l => RoundTrip.swrite h a l
  | .trap n => RoundTrip.trap n
  | .bkpt n => RoundTrip.bkpt n
  | .limm i => RoundTrip.limm i
  | .rnd r => RoundTrip.rnd r
  | .guard v p => RoundTrip.guard v p
  | .bpri f t => RoundTrip.bpri f t
  | .mwaitAll => RoundTrip.mwaitAll
  | .abfl => RoundTrip.abfl
  | .thrHalt => RoundTrip.thrHalt
  | .nop => RoundTrip.nop
  | .ret => RoundTrip.ret
  | .exit => RoundTrip.exit
  | .yield => RoundTrip.yield
  | .lockx => RoundTrip.lockx
  | .unlockx => RoundTrip.unlockx
  | .tret => RoundTrip.tret
  | .hnop => RoundTrip.hnop
  | .sat => RoundTrip.sat
  | .placement => RoundTrip.placement
  | .variableLatencyResult => RoundTrip.variableLatencyResult
  | .fenceCompletion => RoundTrip.fenceCompletion
  | .fenceRollback => RoundTrip.fenceRollback
  | .tileEnginePass => RoundTrip.tileEnginePass
  | .queueUnblock => RoundTrip.queueUnblock
  | .monitorWake => RoundTrip.monitorWake
  | .waitmTimeout => RoundTrip.waitmTimeout
  | .barrierRelease => RoundTrip.barrierRelease
  | .clusterDeparture => RoundTrip.clusterDeparture
  | .extendedSetLending => RoundTrip.extendedSetLending
  | .agedIssue => RoundTrip.agedIssue
  | .yieldExpiry => RoundTrip.yieldExpiry
  | .binTimerExpiry => RoundTrip.binTimerExpiry
  | .spawnedGroupStart => RoundTrip.spawnedGroupStart
  | .watchdogFault => RoundTrip.watchdogFault
  | .queueDeadlock => RoundTrip.queueDeadlock
  | .copyOrConvert => RoundTrip.copyOrConvert
  | .expand => RoundTrip.expand
  | .gather => RoundTrip.gather
  | .scatter => RoundTrip.scatter
  | .scatterAdd => RoundTrip.scatterAdd
  | .allReduce => RoundTrip.allReduce
  | .reduceScatter => RoundTrip.reduceScatter
  | .allGather => RoundTrip.allGather
  | .broadcast => RoundTrip.broadcast
  | .linkError => RoundTrip.linkError
  | .thresherInputTake => RoundTrip.thresherInputTake
  | .thresherStepLimit => RoundTrip.thresherStepLimit
  | .submit => RoundTrip.submit
  | .psubmit => RoundTrip.psubmit
  | .admission => RoundTrip.admission
  | .dispatchStep => RoundTrip.dispatchStep
  | .teamRetirement => RoundTrip.teamRetirement
  | .launchRetirement => RoundTrip.launchRetirement
  | .preemptChosen => RoundTrip.preemptChosen
  | .preemptSave => RoundTrip.preemptSave
  | .preemptDrain => RoundTrip.preemptDrain
  | .preemptFlush => RoundTrip.preemptFlush
  | .preresume => RoundTrip.preresume
  | .atsInvalidationRequest => RoundTrip.atsInvalidationRequest
  | .leaseRegrant => RoundTrip.leaseRegrant
  | .xlinv => RoundTrip.xlinv
  | .patch => RoundTrip.patch
  | .ctxstateActivate => RoundTrip.ctxstateActivate
  | .ctxstateFree => RoundTrip.ctxstateFree
  | .commWrite => RoundTrip.commWrite
  | .rangeRegisterWrite => RoundTrip.rangeRegisterWrite
  | .substatClear => RoundTrip.substatClear
  | .mgerrClear => RoundTrip.mgerrClear
  | .errcntClear => RoundTrip.errcntClear
  | .registerWrite => RoundTrip.registerWrite
  | .firmwareInstall => RoundTrip.firmwareInstall
  | .fuseRaise => RoundTrip.fuseRaise
  | .attestationReport => RoundTrip.attestationReport
  | .certificateChain => RoundTrip.certificateChain
  | .checkpoint => RoundTrip.checkpoint
  | .checkpointRestore => RoundTrip.checkpointRestore
  | .bar4Access => RoundTrip.bar4Access
  | .powerOn => RoundTrip.powerOn
  | .timingErrorReplay => RoundTrip.timingErrorReplay
  | .correctedError => RoundTrip.correctedError
  | .uncorrectableError => RoundTrip.uncorrectableError
  | .scrub => RoundTrip.scrub
  | .powerTokenBid => RoundTrip.powerTokenBid
  | .droop => RoundTrip.droop
  | .thermalThrottle => RoundTrip.thermalThrottle
  | .thermalShutdown => RoundTrip.thermalShutdown
  | .unassignedMajor => RoundTrip.unassignedMajor
  | .deviceReset => RoundTrip.deviceReset

end Sys2Proof.Laws
end

section
-- One proof is elaborated at a time: the check bounds the threads of the whole text.
set_option Elab.async false
/-! PROOF of O59 and O55: words and the instructions they stand for. -/

open Sys2Proof Sys2Proof.Machine

/-- Settles O59: the rows with a word are found by their constructor, and each has its own law of decoding. -/
theorem decodeOfEncode : Obligations.DecodeOfEncode := by
  unfold Obligations.DecodeOfEncode
  exact ⟨fun i m hw => by rw [Laws.encode_isSome, hw]; rfl, fun i m w hf hw => Laws.decodes_encoded i hf m w hw⟩

/-- Settles O55: each word is read field by field. -/
theorem decodedWords : Obligations.DecodedWords := by
  unfold Obligations.DecodedWords
  exact ⟨rfl, rfl, rfl, rfl⟩

end

section
-- One proof is elaborated at a time: the check bounds the threads of the whole text.
set_option Elab.async false
/-! SUPPORT for O19, O20 and O29: a load, a store and a WAITM whose active lanes all pass the checks of R227. -/

namespace Sys2Proof.Machine

variable {s t : State} {x : Issue} {u : Use} {body : Issue → State → Res} {d : BitVec 8} {z : BitVec 2} {i : Instr} {g : Group}
  {illegal bad : Bool} {reads rs : List RegRef} {addr : Issue → Nat → LaneAddr} {place : Nat → Place}

/-! ### Words that name registers and take a LIMM -/

/-- The lanes of a word with their places. -/
def Issue.placed (x : Issue) (place : Nat → Place) : List (Nat × Place) := (laneList x.active).map fun l => (l, place l)

/-- Every active lane passes with its place, and none fails. -/
theorem checkLanes_reaches {k : AccessKind} {op n : Nat} {waits : Bool} {addr : Nat → LaneAddr} (h : Reaches s x k op waits n addr place) :
    checkLanes s x k op waits n addr = ⟨x.placed place, []⟩ := by
  have passing : checkLanes s x k op waits n addr
      = (laneList x.active).foldl (fun c l => ⟨c.good ++ [(l, place l)], c.fails⟩) ⟨[], []⟩ :=
    foldl_congr_mem _ _ fun c l hl => by
      obtain ⟨low, active⟩ := mem_laneList hl
      simp only [h l low active]
  rw [passing, foldl_collects (good := fun l => some (l, place l)) (bad := fun _ => none) fun c l => by simp]
  simp [Issue.placed]

/-- An even register number is not the code that names none. -/
theorem ne_none_of_even {b : BitVec 6} (hb : b.getLsbD 0 = false) : (b == 63) = false :=
  beq_eq_false_iff_ne.2 fun h => by subst h; exact absurd hb (by decide)

/-- A word that takes any LIMM and no other hint, and whose registers may be named, passes the decoder and names no tracked token. -/
theorem passes_decoder (hr : Usable x rs) (hh : Hinted x (some 0xFFFFF) false false false)
    (hints : u.limm = true ∧ u.limmMask = 0xFFFFF ∧ u.rnd = false ∧ u.sat = false ∧ u.bpri = false)
    (legal : u.illegal = false ∧ u.illegalIn x = false ∧ u.forbidden = false ∧ u.privileged = false)
    (regs : u.badReg = false ∧ u.badIn x = false) (named : ∀ r ∈ u.regs x, r ∈ rs) : decodeFault u x = none ∧ u.tokens x = [] := by
  obtain ⟨limm, mask, rnd, sat, bpri⟩ := hints
  obtain ⟨ill, illIn, forb, priv⟩ := legal
  exact ⟨decodeFault_none hr (by rw [rnd, sat, bpri]; exact hh) (by rintro k ⟨⟩; exact ⟨limm, mask⟩) ill illIn forb
    (by rw [priv]; rintro ⟨⟩) regs.1 regs.2 named, tokens_none hr named⟩

/-- A word whose body is done without a flag, a fault or a successor of its own completes with the group that its body left. -/
theorem issue_closes (hi : Issues s x) (hd : decodeFault u x = none ∧ u.tokens x = []) (hr : u.rounds = false)
    (hb : body x s = .done { s := t }) (hg : t.group? x.core x.slot = some g)
    (hh : s.fetched.getLsbD 31 = true → g.heldFlags = []) (hbad : g.bad = []) :
    issue u body s = .next (x.closes s t g x.onward) := by
  obtain ⟨hdec, htok⟩ := hd
  rw [issue_body hi hdec htok hb, finish_done hg htok rfl rfl (fun _ h => absurd h List.not_mem_nil) hh hi.fence hbad]
  simp only [hr, Bool.or_false, Bool.false_and, Bool.false_eq_true, if_false, Arch.orFlags_nil, Option.getD_none]

/-- A group put into its slot before the close of its issue leaves no trace. -/
theorem Issue.closes_setGroup (x : Issue) (s t : State) {g k : Group} (succs : List Succ) (hc : k.core = g.core) (hs : k.slot = g.slot) :
    x.closes s (t.setGroup k) g succs = x.closes s t g succs := by
  simp only [Issue.closes]
  exact State.setGroup_setGroup _ _ _ hc hs

theorem Issues.group?_setGroup (hi : Issues s x) (hc : g.core = x.e.g.core) (hs : g.slot = x.e.g.slot) :
    (s.setGroup g).group? x.core x.slot = some g := by
  obtain ⟨hg, hcore, hslot⟩ := hi.group
  have := State.group?_setGroup (s := s) (g := g) (g0 := x.e.g) (by rw [hc, hs, hcore, hslot]; exact hg)
  rwa [hc, hs, hcore, hslot] at this

section Accesses

variable (hi : Issues s x) (hh : Hinted x (some 0xFFFFF) false false false) (hd : Usable x (dataRegs d z))
  (hodd : oddData d z = false) (hr : Usable x reads) (hill : illegal = false) (hbad : bad = false)

/-! ### Loads (R228) -/

theorem loadBody_reaches (hf : x.e.g.fence = none) (h : Reaches s x .load 16 false (2 ^ z.toNat) (addr x) place) :
    loadBody d z addr x s = .done { s := s.setGroup (x.loaded s d z (x.placed place)) } := by
  have watched (ws : List Watch) : x.e.g.bump.watch ws = x.e.g.bump := by
    have : x.e.g.bump.fence = none := hf
    rw [Group.watch, this]
  have reads (l : Nat) (p : Place) (n : Nat) : x.e.g.readLane s l p n = (readAny s p n, []) := by rw [Group.readLane, hf]
  simp only [loadBody, sizeBytes, checkLanes_reaches h, watched, reads, hf, List.flatMap_map]
  rfl

include hi hh hd hodd hr hill hbad in
theorem load_completes (hx : exec i s = issue (loadUse d z illegal bad reads) (loadBody d z addr) s)
    (h : Reaches s x .load 16 false (2 ^ z.toNat) (addr x) place) : CompletesGroup i s x (x.loaded s d z (x.placed place)) := by
  have passes := passes_decoder (u := loadUse d z illegal bad reads) (hr.append hd) hh ⟨rfl, rfl, rfl, rfl, rfl⟩ ⟨hill, rfl, rfl, rfl⟩
    ⟨by simp [loadUse, hbad, hodd], rfl⟩ (by simp [Use.regs, loadUse])
  rw [CompletesGroup, hx, issue_closes hi passes rfl (loadBody_reaches hi.fence h) (hi.group?_setGroup rfl rfl) hi.held hi.bad,
    Issue.closes_setGroup _ _ _ _ rfl rfl]

/-! ### Stores (R209, R228) -/

@[simp] theorem leBytes_length (n v : Nat) : (leBytes n v).length = n := by
  induction n generalizing v with
  | zero => rfl
  | succ n ih => rw [leBytes, List.length_cons, ih]

/-- A group that stands past no fence and does not wait is in its slot after a write. -/
theorem State.group?_writePlace_quiet {core slot : Nat} (hg : t.group? core slot = some g) (hf : g.fence = none) (hw : g.wait = .none)
    (p : Place) (bs : List Byte) (tag : BitVec 64) (own : Option OwnAccess) :
    (t.writePlace p bs tag own).group? core slot = some g := by
  unfold State.writePlace
  split
  · exact hg
  · rw [State.group?_notify, State.group?, State.putPlace_groups, ← State.group?, hg, Option.map_some, Group.note_quiet hf hw]

/-- The byte at an address of a tier after bytes were written at a place, when it was y before. -/
def Place.byteAfter (p : Place) (bs : List Byte) (tier : Tier) (k : Nat) (y : Byte) : Byte := match p with
  | .mem u a _ => if u = tier ∧ a ≤ k ∧ k < a + bs.length then bs.getD (k - a) 0 else y
  | _ => y

/-- A write changes the bytes at its place and no other byte. -/
theorem State.readByte_writePlace (s : State) (p : Place) (bs : List Byte) (tag : BitVec 64) (own : Option OwnAccess) (tier : Tier) (k : Nat) :
    (s.writePlace p bs tag own).memory.readByte tier k = p.byteAfter bs tier k (s.memory.readByte tier k) := by
  rw [State.writePlace_memory, State.putPlace_memory]
  cases p with
  | mem u a ia =>
    cases bs with
    | nil => simp [Place.byteAfter]
    | cons b bs => simp only [List.isEmpty_cons, Bool.false_eq_true, if_false, Memory.readByte_write, Place.byteAfter, eq_comm]
  | _ => exact ite_self _ ▸ rfl

/-- The machine after the stores of lanes that all pass. -/
theorem Issue.stored_placed (x : Issue) (s : State) (d : BitVec 8) (z : BitVec 2) (place : Nat → Place) :
    x.stored s d z (x.placed place)
      = (laneList x.active).foldl (fun t l => t.writePlace (place l) (leBytes (2 ^ z.toNat) (x.storeValue d z l)) x.tag)
          (s.setGroup x.e.g.bump) := List.foldl_map

include hi in
theorem stored_group (hw : x.e.g.wait = .none) (good : List (Nat × Place)) :
    (x.stored s d z good).group? x.core x.slot = some x.e.g.bump :=
  foldl_keeps (P := fun t : State => t.group? x.core x.slot = some x.e.g.bump) (hi.group?_setGroup rfl rfl)
    fun _ _ ht => State.group?_writePlace_quiet ht hi.fence hw _ _ _ _

include hi in
theorem storeBody_reaches (hw : x.e.g.wait = .none) (h : Reaches s x .store 16 false (2 ^ z.toNat) (addr x) place) :
    storeBody d z addr x s = .done { s := x.stored s d z (x.placed place) } := by
  obtain ⟨performed, -⟩ := foldl_stored hi hw d z (x.placed place)
  rw [← performed]
  simp only [storeBody, sizeBytes, checkLanes_reaches h]
  rfl

include hi hh hd hodd hr hill hbad in
theorem store_completes (hw : x.e.g.wait = .none) (hx : exec i s = issue (storeUse d z illegal bad reads) (storeBody d z addr) s)
    (h : Reaches s x .store 16 false (2 ^ z.toNat) (addr x) place) :
    exec i s = .next (x.closes s (x.stored s d z (x.placed place)) x.e.g.bump x.onward) := by
  have passes := passes_decoder (u := storeUse d z illegal bad reads) (hr.append hd) hh ⟨rfl, rfl, rfl, rfl, rfl⟩ ⟨hill, rfl, rfl, rfl⟩
    ⟨by simp [storeUse, hbad, hodd], rfl⟩ (by simp [Use.regs, storeUse])
  rw [hx, issue_closes hi passes rfl (storeBody_reaches hi hw h) (stored_group hi hw _) hi.held hi.bad]

/-- A byte after the stores of lanes that all pass: the lanes write it in their order. -/
theorem stored_readByte (x : Issue) (s : State) (d : BitVec 8) (z : BitVec 2) (place : Nat → Place) (tier : Tier) (k : Nat) :
    (x.stored s d z (x.placed place)).memory.readByte tier k
      = (laneList x.active).foldl (fun y l => (place l).byteAfter (leBytes (2 ^ z.toNat) (x.storeValue d z l)) tier k y)
          (s.memory.readByte tier k) := by
  rw [Issue.stored_placed]
  exact (List.foldl_hom (fun t : State => t.memory.readByte tier k) fun t l => (State.readByte_writePlace t _ _ _ _ tier k).symm).symm

/-! ### WAITM (R254) -/

/-- Every active lane reads the value that it expects. -/
def Issue.allExpected (x : Issue) (s : State) (d : BitVec 8) (z : BitVec 2) (place : Nat → Place) : Prop :=
  ∀ l ∈ laneList x.active, leNat (readAny s (place l) (2 ^ z.toNat)) = x.storeValue d z l

/-- The group of x asleep at its WAITM, with the lines that its lanes read. -/
def Issue.asleep (x : Issue) (s : State) (z : BitVec 2) (place : Nat → Place) : Group :=
  { x.e.g.bump with wait := .waitm ((laneList x.active).flatMap (fun l => unitsOf (place l) (2 ^ z.toNat))).eraseDups s.tick [] }

theorem waitmBody_differs (h : Reaches s x .load 16 true (2 ^ z.toNat) (addr x) place) (hn : ¬ x.allExpected s d z place) :
    waitmBody d z addr x s = .done { s := s.setGroup x.e.g.bump } := by
  have differs : (x.placed place).all (fun p => leNat (readAny s p.2 (2 ^ z.toNat)) == x.storeValue d z p.1) = false := by
    rw [Bool.eq_false_iff]
    simpa [Issue.placed, Issue.allExpected] using hn
  simp only [Issue.storeValue] at differs
  simp only [waitmBody, sizeBytes, checkLanes_reaches h, differs, Bool.not_false, Bool.or_true, if_true]
  rfl

theorem waitmBody_same (h : Reaches s x .load 16 true (2 ^ z.toNat) (addr x) place) (hs : x.allExpected s d z place) :
    waitmBody d z addr x s = .done { s := s.setGroup (x.asleep s z place), stay := true } := by
  have same : (x.placed place).all (fun p => leNat (readAny s p.2 (2 ^ z.toNat)) == x.storeValue d z p.1) = true := by
    simpa [Issue.placed, Issue.allExpected] using hs
  have passed : LaneChecks.fault ⟨x.placed place, []⟩ = none := rfl
  have lines : (x.placed place).flatMap (fun p => unitsOf p.2 (2 ^ z.toNat))
      = (laneList x.active).flatMap (fun l => unitsOf (place l) (2 ^ z.toNat)) :=
    List.flatMap_map ..
  simp only [Issue.storeValue] at same
  simp only [waitmBody, sizeBytes, checkLanes_reaches h, same, passed, lines, Option.isSome_none, Bool.not_true, Bool.or_false,
    Bool.false_eq_true, if_false]
  rfl

/-- A group that stays at its word is put into its slot with the word. -/
theorem finish_stay (ht : u.tokens x = []) (hg : t.group? x.core x.slot = some g) :
    finish u x s { s := t, stay := true } = t.setGroup { g with waitWord := s.fetched } := by
  have tokens : g.tokens.filter (fun _ => true) = g.tokens := List.filter_eq_self.2 fun _ _ => rfl
  have after (k : Group) : k.addAfter [] = k := by
    rw [Group.addAfter]; split <;> simp
  have flags : arithmeticTrap x.amr [] = none := rfl
  simp only [finish, hg, ht, List.any_nil, Bool.not_false, tokens, List.flatMap_nil, List.append_nil, List.filterMap_nil, List.map_nil,
    flags, Option.map_none, Option.toList_none, if_true, Arch.orFlags_nil, after]

include hi hh hd hodd hr hill hbad in
theorem waitm_waits (hx : exec i s = issue (waitmUse d z illegal bad reads) (waitmBody d z addr) s)
    (h : Reaches s x .load 16 true (2 ^ z.toNat) (addr x) place) :
    (¬ x.allExpected s d z place → CompletesGroup i s x x.e.g.bump)
    ∧ (x.allExpected s d z place → exec i s = .next (s.setGroup { x.asleep s z place with waitWord := s.fetched })) := by
  have passes := passes_decoder (u := waitmUse d z illegal bad reads) (hr.append hd) hh ⟨rfl, rfl, rfl, rfl, rfl⟩ ⟨hill, rfl, rfl, rfl⟩
    ⟨by simp [waitmUse, hbad, hodd], rfl⟩ (by simp [Use.regs, waitmUse])
  refine ⟨fun differs => ?_, fun same => ?_⟩
  · rw [CompletesGroup, hx, issue_closes hi passes rfl (waitmBody_differs h differs) (hi.group?_setGroup rfl rfl) hi.held hi.bad,
      Issue.closes_setGroup _ _ _ _ rfl rfl]
  · rw [hx, issue_body hi passes.1 passes.2 (waitmBody_same h same),
      finish_stay (g := x.asleep s z place) passes.2 (hi.group?_setGroup rfl rfl)]
    exact congrArg _ (State.setGroup_setGroup _ _ _ rfl rfl)

end Accesses

end Sys2Proof.Machine
end

section
-- One proof is elaborated at a time: the check bounds the threads of the whole text.
set_option Elab.async false
/-! PROOF of O19, O20 and O29: loads, stores and WAITM of every address form. -/

open Sys2Proof Sys2Proof.Machine

/-- Settles O19, by the completion of a load whose lanes all pass, for each address form. -/
theorem loadResults : Obligations.LoadResults := by
  unfold Obligations.LoadResults
  intro s x d a b z place hi hh hd hodd n done
  have loads {i : Instr} {illegal bad : Bool} {reads : List RegRef} (addr : Issue → Nat → LaneAddr) (hr : Usable x reads)
      (hill : illegal = false) (hbad : bad = false) (hx : exec i s = issue (loadUse d z illegal bad reads) (loadBody d z addr) s) :
      done i (addr x) := fun h => by
    have completes := load_completes hi hh hd hodd hr hill hbad hx h
    rwa [Issue.loaded, Issue.placed, List.flatMap_map] at completes
  exact ⟨fun hr hb => loads (fun x => addrUniformVector x a.toNat b.toNat) hr rfl hb rfl,
    fun hr hb => loads (fun x _ => addrUniform x b.toNat) hr (ne_none_of_even hb) hb rfl,
    fun hr ha => loads (fun x => addrVector x a.toNat) hr rfl ha rfl,
    fun hr => loads (fun x => addrHandleVector x a.toNat b.toNat) hr rfl rfl rfl,
    fun hr => loads (fun x _ => addrHandle x b.toNat) hr rfl rfl rfl⟩

/-- Settles O20: the lanes' stores are writes at their places in their order (`store_completes`), and a byte follows them one by one
(`stored_readByte`). -/
theorem storeResults : Obligations.StoreResults := by
  unfold Obligations.StoreResults
  intro s x d a b z place hi hw hh hd hodd n value stored done
  have placed : x.stored s d z (x.placed place) = stored := x.stored_placed s d z place
  have byte (tier : Tier) (k : Nat) (l : Nat) (y : Byte) : (place l).byteAfter (leBytes n (value l)) tier k y = (match place l with
      | .mem u p _ => if u = tier ∧ p ≤ k ∧ k < p + n then (leBytes n (value l)).getD (k - p) 0 else y
      | _ => y) := by
    cases place l with
    | mem u p ia => simp only [Place.byteAfter, leBytes_length]
    | _ => rfl
  have stores {i : Instr} {illegal bad : Bool} {reads : List RegRef} (addr : Issue → Nat → LaneAddr) (hr : Usable x reads)
      (hill : illegal = false) (hbad : bad = false) (hx : exec i s = issue (storeUse d z illegal bad reads) (storeBody d z addr) s) :
      done i (addr x) := fun h => by
    refine ⟨placed ▸ store_completes hi hh hd hodd hr hill hbad hw hx h, fun tier k => ?_⟩
    calc stored.memory.readByte tier k
      _ = (x.stored s d z (x.placed place)).memory.readByte tier k := by rw [placed]
      _ = _ := stored_readByte x s d z place tier k
      _ = _ := foldl_congr_mem _ _ fun y l _ => byte tier k l y
  exact ⟨fun hr hb => stores (fun x => addrUniformVector x a.toNat b.toNat) hr rfl hb rfl,
    fun hr hb => stores (fun x _ => addrUniform x b.toNat) hr (ne_none_of_even hb) hb rfl,
    fun hr ha => stores (fun x => addrVector x a.toNat) hr rfl ha rfl,
    fun hr => stores (fun x => addrHandleVector x a.toNat b.toNat) hr rfl rfl rfl,
    fun hr => stores (fun x _ => addrHandle x b.toNat) hr rfl rfl rfl⟩

/-- Settles O29: the lanes' values decide between the two ends of a WAITM's body, for each address form. -/
theorem waitOnMemoryResults : Obligations.WaitOnMemoryResults := by
  unfold Obligations.WaitOnMemoryResults
  intro s x d a b z place hi hh hd hodd n expected same lines done
  have waits {i : Instr} {illegal bad : Bool} {reads : List RegRef} (addr : Issue → Nat → LaneAddr) (hr : Usable x reads)
      (hill : illegal = false) (hbad : bad = false) (hx : exec i s = issue (waitmUse d z illegal bad reads) (waitmBody d z addr) s) :
      done i (addr x) := fun h => waitm_waits hi hh hd hodd hr hill hbad hx h
  exact ⟨fun hr hb => waits (fun x => addrUniformVector x a.toNat b.toNat) hr rfl hb rfl,
    fun hr hb => waits (fun x _ => addrUniform x b.toNat) hr (ne_none_of_even hb) hb rfl,
    fun hr ha => waits (fun x => addrVector x a.toNat) hr rfl ha rfl⟩

end

section
-- One proof is elaborated at a time: the check bounds the threads of the whole text.
set_option Elab.async false
/-! SUPPORT for O41 and O42: a word or a hint that is refused takes its group into the handler (R38, R40, R43, R374), and what a hint
leaves (R42, R43). -/

namespace Sys2Proof.Machine

variable {s : State} {x : Issue} {e : Entry} {u : Use} {i : Instr} {f : Trap} {cls : Nat}

/-! ### Refused words -/

/-- A fault that the handler takes, of a word that took no effect, brings the group of the issue into the handler (R374). -/
theorem takeFault_entersHandler (hi : Issues s x) (hm : MayTrap x e) (hc : resumable f.cls = true) (h12 : f.cls ≠ 12)
    (ht : f.took = false) (ha : f.async = false) (he : f.entry = x.entry.mask) :
    takeFault s x.core x.slot f = some (x.entersHandler s f e) := by
  have there : (x.e.l.kh.trap != 0xFFFFFFFF) = true := bne_iff_ne.2 hm.handler
  have handled : x.e.handles f = true := by simp only [Env.handles, hc, there, hm.outside]; rfl
  have unmarked : f.parkWord.getLsbD 31 = true → x.e.g.heldFlags = [] := fun h => by simp [Trap.parkWord, ht] at h
  have flags : recordFlags f.cls true false f.async f.took = 3 := by simp [recordFlags, hc, ha, ht]
  have record : x.e.record f true = x.faultRecord f 3 := by simp [Env.record, Issue.faultRecord, recordFlags, hc, ha, ht, hm.outside]
  rw [takeFault_enters hi.env hm.mode handled h12 hm.quiet, parkFor_quiet _ _ h12 unmarked, flags, record,
    enterHandler_eq x hi.bad hi.fence (by rw [he]; exact hm.entry) he]
  simp [Issue.entersHandler, ht]

theorem Issues.unfenced (hi : Issues s x) : x.e.g.fenced = false := by simp [Group.fenced, hi.fence, hi.soft]

theorem raise_entersHandler (hi : Issues s x) (hm : MayTrap x e) (hc : resumable cls = true) (h12 : cls ≠ 12) :
    raise x s s { cls := cls } = x.entersHandler s (x.trap s cls 0 false x.entry.pc) e := by
  simp only [raise, hi.unfenced, Bool.false_eq_true, if_false]
  rw [takeFault_entersHandler hi hm hc h12 rfl rfl rfl]
  rfl

/-- A word that fails a check of the decoder has no other effect than its fault (R38, R40). -/
theorem issue_refused (hi : Issues s x) (hm : MayTrap x e) (body : Issue → State → Res) (hd : decodeFault u x = some cls)
    (hc : resumable cls = true) (h12 : cls ≠ 12) :
    issue u body s = .next (x.entersHandler s (x.trap s cls 0 false x.entry.pc) e) := by
  rw [issue_next hi, issueStep, hd]
  exact congrArg _ (raise_entersHandler hi hm hc h12)

theorem issue_illegal_entersHandler (hi : Issues s x) (hm : MayTrap x e) (body : Issue → State → Res)
    (h : (u.illegal || u.hintIllegal x.run || u.illegalIn x) = true) :
    issue u body s = .next (x.entersHandler s (x.trap s 1 0 false x.entry.pc) e) := by
  rw [issue_illegal u body hi.issuer hi.issue h, raise_entersHandler hi hm rfl (by decide)]

/-- The hints of the run are hints of the word (R45). -/
theorem hintIllegal_of_hinted (hh : Hinted x none u.rnd u.sat u.bpri) : u.hintIllegal x.run = false := by
  have limm : x.run.limm = none := Option.eq_none_iff_forall_ne_some.2 fun p hp => by
    obtain ⟨k, hk, -⟩ := hh.limm p hp
    cases hk
  have rnd : (x.run.rnd.isSome && !u.rnd) = false := by
    rw [Bool.and_eq_false_iff, Bool.not_eq_false', or_iff_not_imp_left]
    exact fun h => hh.rnd fun hn => h (by rw [hn]; rfl)
  have sat : (x.run.sat && !u.sat) = false := by
    rw [Bool.and_eq_false_iff, Bool.not_eq_false', or_iff_not_imp_left]
    exact fun h => hh.sat (by simpa using h)
  have bpri : (x.run.bpri.isSome && !u.bpri) = false := by
    rw [Bool.and_eq_false_iff, Bool.not_eq_false', or_iff_not_imp_left]
    exact fun h => hh.bpri fun hn => h (by rw [hn]; rfl)
  simp only [Use.hintIllegal, limm, rnd, sat, bpri, Bool.or_false]

section Checks

variable (hh : Hinted x none u.rnd u.sat u.bpri) (hill : u.illegal = false) (hin : u.illegalIn x = false)
include hh hill hin

/-- The second check of a word that is legal: its privilege (R38, R349). -/
theorem decodeFault_privilege (h : u.forbidden = true ∨ u.privileged = true ∧ x.e.l.privileged = false) :
    decodeFault u x = some 3 := by
  have refused : (u.forbidden || (u.privileged && !x.e.l.privileged)) = true := by
    rcases h with h | ⟨h, p⟩
    · rw [h]; rfl
    · rw [h, p]; exact Bool.or_true _
  simp [decodeFault, hill, hin, hintIllegal_of_hinted hh, refused]

/-- The checks of a word's registers: their numbers, their pairs and the pending set (R13, R38, R39). -/
theorem decodeFault_registers (hf : u.forbidden = false) (hp : u.privileged = false)
    (h : u.badReg = true ∨ ∃ r ∈ u.regs x, x.e.regBad r = true ∨ r ∈ x.arch.pending) : decodeFault u x = some 2 := by
  have legal : (u.illegal || u.hintIllegal x.run || u.illegalIn x) = false := by simp [hill, hin, hintIllegal_of_hinted hh]
  have view : (u.forbidden || (u.privileged && !x.e.l.privileged)) = false := by simp [hf, hp]
  simp only [decodeFault, legal, view, Bool.false_eq_true, if_false]
  split
  · rfl
  · next numbers =>
    have pending : (u.regs x).any (fun r => x.arch.pending.contains r) = true := by
      simp only [Bool.or_eq_true, List.any_eq_true, not_or, not_exists, not_and] at numbers
      obtain ⟨⟨badReg, -⟩, named⟩ := numbers
      rcases h with h | ⟨r, hr, h | h⟩
      · exact absurd h badReg
      · exact absurd h (named r hr)
      · exact List.any_eq_true.2 ⟨r, hr, List.contains_iff_mem.2 h⟩
    rw [if_pos pending]

end Checks

/-! ### Words of an ordinary slot -/

/-- A word with a hint that it does not take (R45). -/
theorem refusedHint_entersHandler (hi : Issues s x) (hm : MayTrap x e) (hw : wordless i = false) (ht : thresherOnly i = false)
    (hn : hintWord i = false)
    (h : x.run.limm ≠ none ∧ takesLimm i = false ∨ x.run.rnd ≠ none ∧ takesRnd i = false ∨ x.run.sat = true ∧ takesSat i = false
      ∨ x.run.bpri ≠ none ∧ takesBpri i = false) :
    exec i s = .next (x.entersHandler s (x.trap s 1 0 false x.entry.pc) e) := by
  obtain ⟨u, body, he, limm, rnd, sat, bpri⟩ := word_issue i hw ht hn
  rw [← limm, ← rnd, ← sat, ← bpri] at h
  rw [he, issue_illegal_entersHandler hi hm body (by rw [hintIllegal_of_refused u x.run h, Bool.or_true, Bool.true_or])]

/-- A THR word, and a word of an unassigned major, in an ordinary slot (R37, R48). -/
theorem foreignWord_entersHandler (hi : Issues s x) (hm : MayTrap x e) (hs : x.slot ≠ 63)
    (h : thresherOnly i = true ∨ i = .unassignedMajor) :
    exec i s = .next (x.entersHandler s (x.trap s 1 0 false x.entry.pc) e) := by
  rcases h with h | rfl
  · refine word_issueThr i h s _ fun hint limm bad f => ?_
    rw [issueThr_ordinary hint limm bad f hi.issuer hs, issue_illegal_entersHandler hi hm _ rfl]
  · have ordinary : x.slot ≠ Config.thresherSlot := hs
    rw [exec_unassignedMajor, execUnassignedMajor, hi.issuer]
    simp only [if_neg ordinary]
    exact issue_illegal_entersHandler hi hm _ rfl

/-! ### Hints -/

theorem Group.countWord_unfenced {g : Group} (h : g.fence = none) : g.countWord = g := by rw [Group.countWord, h]

/-- A legal hint counts in its run, holds what it gives, and its marker has its effect (R42, R43). -/
theorem issueHint_counts (hi : Issues s x) (h : Issue → Arch → Arch) :
    issueHint 0 h s = .next (s.setGroup { x.e.g with
      arch := { h x x.arch with
        run := { (h x x.arch).run with count := (h x x.arch).run.count + 1 }
        pending := if s.marked && x.e.g.outstanding.isEmpty then [] else (h x x.arch).pending }
      wait := if s.marked && !x.e.g.outstanding.isEmpty then .parked x.entry.pc s.fetched x.entry.mask else x.e.g.wait }) := by
  have free : fenceStall {} x = false := by simp [fenceStall, hi.soft, hi.fence]
  simp only [issueHint, hi.issuer, hi.issue, free, Bool.false_eq_true, if_false, ne_eq, not_true]
  rw [Group.countWord_unfenced, Group.marker_eq]
  · rfl
  · exact hi.held
  · exact hi.fence

/-- An illegal hint takes the group into its handler with the target word in its record (R43, R372, R412). -/
theorem issueHint_refused (hi : Issues s x) (hm : MayTrap x e) (h : Issue → Arch → Arch) (h0 : cls ≠ 0) (hc : resumable cls = true)
    (h12 : cls ≠ 12) : issueHint cls h s = .next (x.entersHandler s
      { x.trap s cls 0 false x.entry.pc with word := targetWord s x.e.l 256 x.entry.pc.toNat } e) := by
  have free : fenceStall {} x = false := by simp [fenceStall, hi.soft, hi.fence]
  simp only [issueHint, hi.issuer, hi.issue, free, Bool.false_eq_true, if_false, ne_eq, h0, not_false_iff, if_true, raiseHint, hi.unfenced]
  rw [takeFault_entersHandler hi hm hc h12 rfl rfl rfl]
  rfl

/-- The class of a RND hint's fault, 0 for none (R45). -/
def rndFault (m : BitVec 3) : Nat := if 5 ≤ m.toNat then 1 else 0

/-- The class of a GUARD hint's fault, 0 for none (R45). -/
def guardFault (v : Bool) (p : BitVec 6) : Nat := if p = 63 then (if v then 1 else 0) else if 48 ≤ p.toNat then 2 else 0

/-- The hints of an ordinary slot, each with the class of its fault and with what it holds for its target. -/
theorem hint_words (hi : Issues s x) (hs : x.slot ≠ 63) (k : BitVec 20) (m : BitVec 3) (v : Bool) (p : BitVec 6) (f t : BitVec 10) :
    exec .hnop s = issueHint 0 (fun _ a => a) s ∧ exec .placement s = issueHint 0 (fun _ a => a) s
    ∧ exec (.limm k) s = issueHint 0 (fun _ a => a.mapRun fun r => { r with limm := some k }) s
    ∧ exec (.rnd m) s = issueHint (rndFault m) (fun _ a => a.mapRun fun r => { r with rnd := some m }) s
    ∧ exec .sat s = issueHint 0 (fun _ a => a.mapRun fun r => { r with sat := true }) s
    ∧ exec (.bpri f t) s = issueHint 0 (fun _ a => a.mapRun fun r => { r with bpri := some (f ++ t) }) s
    ∧ exec (.guard v p) s = issueHint (guardFault v p)
        (fun y a => { a with frontier := setGuard y.entry.key (BitVec.ofBool v ++ p) a.frontier }) s := by
  have ordinary : ¬ inThresher s = true := by rw [inThresher_ordinary hi.issuer hs]; decide
  exact ⟨if_neg ordinary, if_neg ordinary, if_neg ordinary, if_neg ordinary, if_neg ordinary, if_neg ordinary, if_neg ordinary⟩

end Sys2Proof.Machine
end

section
-- One proof is elaborated at a time: the check bounds the threads of the whole text.
set_option Elab.async false
/-! PROOF of O41 and O42: hints, and the checks of the decoder. -/

open Sys2Proof Sys2Proof.Machine

/-- Settles O41: each hint is one hint issue (`hint_words`), which counts (`issueHint_counts`) or is refused (`issueHint_refused`). -/
theorem hintResults : Obligations.HintResults := by
  unfold Obligations.HintResults
  intro s x k m v p f t e hi hs quiet hints run refused
  obtain ⟨hnop, placement, limm, rnd, sat, bpri, guard⟩ := hint_words hi hs k m v p f t
  refine ⟨hnop.trans (issueHint_counts hi _), placement.trans (issueHint_counts hi _), limm.trans (issueHint_counts hi _), fun hm => ?rnd,
    sat.trans (issueHint_counts hi _), bpri.trans (issueHint_counts hi _), fun hp => ?guard, fun hm => ⟨fun h5 => ?mode, ?inverted, ?code⟩⟩
  case rnd =>
    have legal : rndFault m = 0 := if_neg (by omega)
    rw [legal] at rnd
    exact rnd.trans (issueHint_counts hi _)
  case guard =>
    have legal : guardFault v p = 0 := by
      rcases hp with hp | ⟨rfl, rfl⟩
      · have named : p ≠ 63 := fun h => by subst h; exact absurd hp (by decide)
        rw [guardFault, if_neg named, if_neg (by omega)]
      · rfl
    rw [legal] at guard
    exact guard.trans (issueHint_counts hi _)
  case mode =>
    have illegal : rndFault m = 1 := if_pos h5
    rw [illegal] at rnd
    exact rnd.trans (issueHint_refused hi hm _ (by decide) rfl (by decide))
  case inverted =>
    rintro rfl rfl
    exact guard.trans (issueHint_refused hi hm _ (by decide) rfl (by decide))
  case code =>
    intro h48 named
    have illegal : guardFault v p = 2 := by rw [guardFault, if_neg named, if_pos h48]
    rw [illegal] at guard
    exact guard.trans (issueHint_refused hi hm _ (by decide) rfl (by decide))

/-- Settles O42: the first check that fails gives the class (`decodeFault_privilege`, `decodeFault_registers`), and the fault is all that
the word does (`issue_refused`). -/
theorem decoderCheckResults : Obligations.DecoderCheckResults := by
  unfold Obligations.DecoderCheckResults
  intro s x e d a b p q r g n hi hm hs traps plain regs
  have named (w : RegRef) (hw : w ∈ regs) : w ∈ Use.regs { sat := true, reads := [vN a, vN b] ++ [], writes := [vN d] } x := by
    simp only [regs, List.mem_cons, List.not_mem_nil, or_false] at hw
    rcases hw with rfl | rfl | rfl <;> simp [Use.regs]
  refine ⟨fun i => refusedHint_entersHandler hi hm, fun i => foreignWord_entersHandler hi hm hs, ?number, ?pending, ?pair, ?unlisted,
    ?read, ?write, ?window, ?outside⟩
  case number =>
    rintro hh ⟨w, hw, bad⟩
    exact issue_refused hi hm _ (decodeFault_registers hh rfl rfl rfl rfl (.inr ⟨w, named w hw, .inl bad⟩)) rfl (by decide)
  case pending =>
    rintro hh ⟨w, hw, waits⟩
    exact issue_refused hi hm _ (decodeFault_registers hh rfl rfl rfl rfl (.inr ⟨w, named w hw, .inr waits⟩)) rfl (by decide)
  case pair =>
    intro hh odd
    exact issue_refused hi hm _ (decodeFault_registers hh rfl rfl rfl rfl (.inl (by simp [oddS, odd]))) rfl (by decide)
  case unlisted =>
    intro unlisted
    exact issue_illegal_entersHandler hi hm _ (by simp [unlisted])
  case read =>
    intro hh high listed view
    exact issue_refused hi hm _ (decodeFault_privilege hh (by simp [listed]) rfl
      (.inr ⟨by simpa [sysReadPrivileged] using high, view⟩)) rfl (by decide)
  case write =>
    intro hh listed view
    exact issue_refused hi hm _ (decodeFault_privilege hh (by simp [listed]) rfl (.inr ⟨rfl, view⟩)) rfl (by decide)
  case window =>
    intro hh view
    exact issue_refused hi hm _ (decodeFault_privilege hh rfl rfl (.inr ⟨rfl, view⟩)) rfl (by decide)
  case outside => exact issue_illegal_entersHandler hi hm _ (by simp [hm.outside])

end

section
-- One proof is elaborated at a time: the check bounds the threads of the whole text.
set_option Elab.async false
/-! SUPPORT for O45: a fold with what it sees on its way. -/

namespace Sys2Proof.Machine

variable {α β γ : Type}

/-- What each step of a fold sees in the state in which it is taken. -/
def seenAlong (step : β → α → β) (see : β → α → List γ) : β → List α → List γ
  | _, [] => []
  | b, a :: as => see b a ++ seenAlong step see (step b a) as

/-- What the steps of a fold see, each in the state after the numbered steps before it. -/
theorem flatMap_see_take (step : β → α × Nat → β) (see : β → α × Nat → List γ) (b : β) (xs : List α) :
    xs.zipIdx.flatMap (fun h => see ((xs.zipIdx.take h.2).foldl step b) h) = seenAlong step see b xs.zipIdx := by
  have from_ (k : Nat) (before : List (α × Nat)) (hk : before.length = k) :
      (xs.zipIdx k).flatMap (fun h => see (((before ++ xs.zipIdx k).take h.2).foldl step b) h)
        = seenAlong step see (before.foldl step b) (xs.zipIdx k) := by
    induction xs generalizing k before with
    | nil => rfl
    | cons x xs ih =>
      have rest := ih (k + 1) (before ++ [(x, k)]) (by simp [hk])
      simp only [List.append_assoc, List.singleton_append, List.foldl_append, List.foldl_cons, List.foldl_nil] at rest
      simp only [List.zipIdx_cons, List.flatMap_cons, seenAlong, rest]
      rw [List.take_append_of_le_length hk.ge, List.take_of_length_le hk.le]
  exact from_ 0 [] rfl

end Sys2Proof.Machine
end

section
-- One proof is elaborated at a time: the check bounds the threads of the whole text.
set_option Elab.async false
/-! SUPPORT for O45: the accesses that a fence holds are performed in the order in which they issued (R216, R217). -/

namespace Sys2Proof.Machine

variable {s t : State} {core slot id : Nat} {e : Env} {amr : Word} {g : Group} {w : FenceWin}

/-! ### The group of a fence through the writes of its held accesses -/

/-- The slot holds a group past a fence that is not parked, and the launch does not log. -/
structure PastFence (core slot id : Nat) (t : State) : Prop where
  group : ∃ g w, t.group? core slot = some g ∧ g.fence = some w ∧ ∀ pc v m, g.wait ≠ .parked pc v m
  mode : ∀ l, t.launch? id = some l → l.lh.mode = 0

/-- A write leaves a group past its fence, and a rollback that is due stays due. -/
theorem Group.note_fence (hf : g.fence = some w) (us : List Unit128) (own : Option OwnAccess) (filtered : Nat → Bool) (tag : BitVec 64) :
    ∃ v, ((g.noteWrite us own).noteWake filtered tag).fence = some v ∧ (w.rollbackDue = true → v.rollbackDue = true) := by
  have awake (k : Group) : (k.noteWake filtered tag).fence = k.fence := by
    unfold Group.noteWake
    repeat' split
    all_goals rfl
  rw [awake, Group.noteWrite, hf]
  dsimp only
  split
  · exact ⟨_, rfl, fun _ => rfl⟩
  · exact ⟨w, hf, fun h => h⟩

/-- A write parks no group. -/
theorem Group.note_unparked (h : ∀ pc v m, g.wait ≠ .parked pc v m) (us : List Unit128) (own : Option OwnAccess) (filtered : Nat → Bool)
    (tag : BitVec 64) : ∀ pc v m, ((g.noteWrite us own).noteWake filtered tag).wait ≠ .parked pc v m := by
  have written : (g.noteWrite us own).wait = g.wait := by
    unfold Group.noteWrite
    repeat' split
    all_goals rfl
  intro pc v m
  unfold Group.noteWake
  split
  · split
    · simp
    · rw [written]; exact h pc v m
  · rw [written]; exact h pc v m

/-- A write leaves the group in a slot, or tells it of the units written. -/
theorem State.group?_writePlace (hg : t.group? core slot = some g) (p : Place) (bs : List Byte) (tag : BitVec 64) (own : Option OwnAccess) :
    (t.writePlace p bs tag own).group? core slot = some g
    ∨ ∃ us filtered, (t.writePlace p bs tag own).group? core slot = some ((g.noteWrite us own).noteWake filtered tag) := by
  unfold State.writePlace
  split
  · exact .inl hg
  · refine .inr ⟨unitsOf p bs.length, fun c => (t.putPlace p bs).armedOn c (unitsOf p bs.length), ?_⟩
    rw [State.group?_notify, State.group?, State.putPlace_groups, ← State.group?, hg, Option.map_some]

theorem State.launch?_writePlace {l : Launch} {p : Place} {bs : List Byte} {tag : BitVec 64} {own : Option OwnAccess}
    (h : (t.writePlace p bs tag own).launch? id = some l) : ∃ l0, t.launch? id = some l0 ∧ l.lh = l0.lh := by
  unfold State.writePlace at h
  split at h
  · exact ⟨l, h, rfl⟩
  · obtain ⟨l0, hl0, hlh, -⟩ := State.launch?_putPlace (id := id) h
    exact ⟨l0, hl0, hlh⟩

theorem PastFence.writePlace (h : PastFence core slot id t) (p : Place) (bs : List Byte) (tag : BitVec 64) (own : Option OwnAccess) :
    PastFence core slot id (t.writePlace p bs tag own) := by
  obtain ⟨g, w, hg, hf, hp⟩ := h.group
  refine ⟨?_, fun l hl => ?_⟩
  · rcases State.group?_writePlace hg p bs tag own with hg | ⟨us, filtered, hg⟩
    · exact ⟨g, w, hg, hf, hp⟩
    · obtain ⟨v, hv, -⟩ := Group.note_fence hf us own filtered tag
      exact ⟨_, v, hg, hv, Group.note_unparked hp us own filtered tag⟩
  · obtain ⟨l0, hl0, hlh⟩ := State.launch?_writePlace hl
    rw [hlh]; exact h.mode l0 hl0

theorem rollbackIsDue_eq (s : State) (core slot : Nat) :
    rollbackIsDue s core slot = ((s.group? core slot).bind Group.fence).any (fun w => w.rollbackDue) := by
  unfold rollbackIsDue
  cases (s.group? core slot).bind Group.fence <;> rfl

theorem rollbackIsDue_iff (s : State) (core slot : Nat) :
    rollbackIsDue s core slot = true ↔ ∃ g w, s.group? core slot = some g ∧ g.fence = some w ∧ w.rollbackDue = true := by
  rw [rollbackIsDue_eq, Option.any_eq_true]
  constructor
  · rintro ⟨w, hw, hd⟩
    obtain ⟨g, hg, hf⟩ := Option.bind_eq_some_iff.1 hw
    exact ⟨g, w, hg, hf, hd⟩
  · rintro ⟨g, w, hg, hf, hd⟩
    exact ⟨w, Option.bind_eq_some_iff.2 ⟨g, hg, hf⟩, hd⟩

theorem rollbackIsDue_writePlace (h : rollbackIsDue t core slot = true) (p : Place) (bs : List Byte) (tag : BitVec 64)
    (own : Option OwnAccess) : rollbackIsDue (t.writePlace p bs tag own) core slot = true := by
  rw [rollbackIsDue_iff] at *
  obtain ⟨g, w, hg, hf, hd⟩ := h
  rcases State.group?_writePlace hg p bs tag own with hg | ⟨us, filtered, hg⟩
  · exact ⟨g, w, hg, hf, hd⟩
  · obtain ⟨v, hv, due⟩ := Group.note_fence hf us own filtered tag
    exact ⟨_, v, hg, hv, due hd⟩

/-- A read-modify-write is one write at its place, or none. -/
theorem performRmw_keeps {P : State → Prop} (h : P t) (hw : ∀ p bs tag own, P (t.writePlace p bs tag own)) (p : Place) (r : Rmw)
    (tag : BitVec 64) (own : Option OwnAccess) : P (performRmw t p r amr tag own).1 := by
  unfold performRmw
  dsimp only
  split
  · exact hw _ _ _ _
  · exact h

/-! ### One held access (R216) -/

/-- Performs one held access at its position. -/
def heldStep (e : Env) (amr : Word) (t : State) (h : HeldAccess × Nat) : State := match h.1 with
  | .store p lane bs tag => t.writePlace p bs tag (some (e.ownAccess lane h.2 false))
  | .atom p r _ tag => (performRmw t p r amr tag (some (e.ownAccess r.lane h.2 true))).1

/-- What one held access observes: the cells of its values, and its flags. -/
def heldSeen (e : Env) (amr : Word) (t : State) (h : HeldAccess × Nat) : List (Nat × Word) × List (Nat × BitVec 9) := match h.1 with
  | .store _ _ _ _ => ([], [])
  | .atom p r d tag =>
    let x := performRmw t p r amr tag (some (e.ownAccess r.lane h.2 true))
    (observedCells d r.lane r.width x.2.1, if x.2.2 = 0 then [] else [(r.lane, x.2.2)])

/-- The cells that held accesses observe. -/
def heldCells (e : Env) (amr : Word) : State → List (HeldAccess × Nat) → List (Nat × Word) :=
  seenAlong (heldStep e amr) (fun t h => (heldSeen e amr t h).1)

/-- The flags that held accesses raise. -/
def heldFlags (e : Env) (amr : Word) : State → List (HeldAccess × Nat) → List (Nat × BitVec 9) :=
  seenAlong (heldStep e amr) (fun t h => (heldSeen e amr t h).2)

theorem heldStep_keeps {P : State → Prop} (h : P t) (hw : ∀ p bs tag own, P (t.writePlace p bs tag own)) (a : HeldAccess × Nat) :
    P (heldStep e amr t a) := by
  obtain ⟨a, k⟩ := a
  cases a with
  | store p lane bs tag => exact hw _ _ _ _
  | atom p r d tag => exact performRmw_keeps h hw p r tag _

theorem rollbackIsDue_foldl (h : rollbackIsDue t core slot = true) (hs : List (HeldAccess × Nat)) :
    rollbackIsDue (hs.foldl (heldStep e amr) t) core slot = true :=
  foldl_keeps (P := fun t => rollbackIsDue t core slot = true) h fun _ a hb =>
    heldStep_keeps (P := fun t => rollbackIsDue t core slot = true) hb (rollbackIsDue_writePlace hb) a

theorem PastFence.foldl (h : PastFence core slot id t) (hs : List (HeldAccess × Nat)) :
    PastFence core slot id (hs.foldl (heldStep e amr) t) :=
  foldl_keeps (P := PastFence core slot id) h fun _ a hb => heldStep_keeps hb hb.writePlace a

/-! ### The lanes of one held ATOM -/

/-- A result of held ATOMs: it brings cells and flags, and nothing else. -/
def VarResult.ofAtoms (r : VarResult) : Prop := r = { v := r.v, flags := r.flags, spec := true, atom := true }

/-- The lanes of the ATOM at the head of the held accesses are held accesses like others: performed in their order, they join their
result, and what is left is performed behind them. -/
theorem performAtom_foldl (tag : BitVec 64) (hs : List HeldAccess) (k : Nat) (t : State) (r : VarResult) (hr : r.ofAtoms) :
    let rs := sameAtoms tag k hs
    let a := rs.foldl (performAtom e amr tag) (t, r)
    let rest := (hs.drop rs.length).zipIdx (k + rs.length)
    rs.length ≤ hs.length ∧ a.2.ofAtoms
    ∧ (hs.zipIdx k).foldl (heldStep e amr) t = rest.foldl (heldStep e amr) a.1
    ∧ r.v ++ heldCells e amr t (hs.zipIdx k) = a.2.v ++ heldCells e amr a.1 rest
    ∧ r.flags ++ heldFlags e amr t (hs.zipIdx k) = a.2.flags ++ heldFlags e amr a.1 rest := by
  induction hs generalizing k t r with
  | nil => exact ⟨le_rfl, hr, rfl, rfl, rfl⟩
  | cons h hs ih =>
    cases h with
    | store p lane bs u => exact ⟨Nat.zero_le _, hr, rfl, rfl, rfl⟩
    | atom p x d u =>
      by_cases hu : u = tag
      · subst hu
        have joined : (performAtom e amr u (t, r) (p, x, d, k)).2.ofAtoms := by
          rw [VarResult.ofAtoms] at hr ⊢
          rw [hr]; rfl
        obtain ⟨len, own, state, cells, flags⟩ := ih (k + 1) (performAtom e amr u (t, r) (p, x, d, k)).1 _ joined
        simp only [sameAtoms, if_true, List.length_cons, List.drop_succ_cons, List.foldl_cons, List.zipIdx_cons]
        rw [show k + ((sameAtoms u (k + 1) hs).length + 1) = k + 1 + (sameAtoms u (k + 1) hs).length by omega]
        exact ⟨Nat.succ_le_succ len, own, state, (List.append_assoc ..).symm.trans cells, (List.append_assoc ..).symm.trans flags⟩
      · simp only [sameAtoms, if_neg hu]
        exact ⟨Nat.zero_le _, hr, rfl, rfl, rfl⟩

theorem sameAtoms_atom (p : Place) (r : Rmw) (d k : Nat) (tag : BitVec 64) (hs : List HeldAccess) :
    sameAtoms tag k (.atom p r d tag :: hs) = (p, r, d, k) :: sameAtoms tag (k + 1) hs := by rw [sameAtoms, if_pos rfl]

/-- Without determinism the locations of an instruction all have their turn. -/
theorem chooseEach_free {team core : Nat} {tag : BitVec 64} {late inOrder : Bool} (h : ∀ l, s.launch? id = some l → l.lh.mode = 0)
    (ps : List Place) : chooseEach id tag team late inOrder core s ps = { s := s, taken := ps } := by
  have goes (kind unit : Nat) (check : Word) : choose s id kind unit check tag team late = .go s := by
    cases hl : s.launch? id with
    | none => rw [choose, hl]
    | some l => exact choose_free hl (h l hl)
  induction ps with
  | nil => rfl
  | cons p ps ih => simp only [chooseEach, goes, ih]

/-! ### All held accesses -/

/-- What performing held accesses hs from p leaves: the rollback is due, or all are performed in their order, with a result for each
ATOM. -/
def PerformedAll (e : Env) (amr : Word) (hs : List HeldAccess) (p q : Performed) : Prop :=
  let t := (hs.zipIdx p.count).foldl (heldStep e amr) p.s
  (rollbackIsDue q.s e.g.core e.g.slot = true ∧ rollbackIsDue t e.g.core e.g.slot = true)
  ∨ (q.s = t ∧ q.left = [] ∧ q.count = p.count + hs.length ∧ ∃ rs, q.results = p.results ++ rs ∧ (∀ r ∈ rs, r.ofAtoms)
    ∧ rs.flatMap (fun r => r.v) = heldCells e amr p.s (hs.zipIdx p.count)
    ∧ rs.flatMap (fun r => r.flags) = heldFlags e amr p.s (hs.zipIdx p.count))

theorem PerformedAll.store {p : Performed} {q : Place} {lane : Nat} {bs : List Byte} {tag : BitVec 64} {hs : List HeldAccess}
    {r : Performed} (h : PerformedAll e amr hs (performStore e p q lane bs tag) r) :
    PerformedAll e amr (.store q lane bs tag :: hs) p r := by
  rcases h with h | ⟨state, left, count, rs, results, own, cells, flags⟩
  · exact .inl h
  · refine .inr ⟨state, left, ?_, rs, results, own, cells, flags⟩
    rw [count, List.length_cons]
    exact Nat.succ_add_eq_add_succ _ _

/-- The state and the result of the ATOM at the head of the held accesses. -/
def headAtoms (e : Env) (amr : Word) (tag : BitVec 64) (p : Performed) (hs : List HeldAccess) : State × VarResult :=
  (sameAtoms tag p.count hs).foldl (performAtom e amr tag) (p.s, { spec := true, atom := true })

theorem PastFence.headAtoms {p : Performed} (h : PastFence core slot id p.s) (tag : BitVec 64) (hs : List HeldAccess) :
    PastFence core slot id (headAtoms e amr tag p hs).1 :=
  foldl_keeps (P := fun a : State × VarResult => PastFence core slot id a.1) h fun _ r hb =>
    performRmw_keeps (P := PastFence core slot id) hb hb.writePlace r.1 r.2.1 tag _

/-- What is performed once the ATOM at the head of the held accesses is. -/
def Performed.behindAtoms (e : Env) (amr : Word) (tag : BitVec 64) (p : Performed) (hs : List HeldAccess) : Performed :=
  let a := headAtoms e amr tag p hs
  { p with s := a.1, results := p.results ++ [a.2], part := none, count := p.count + (sameAtoms tag p.count hs).length }

theorem PerformedAll.atoms {p q : Performed} {tag : BitVec 64} {hs : List HeldAccess}
    (h : PerformedAll e amr (hs.drop (sameAtoms tag p.count hs).length) (p.behindAtoms e amr tag hs) q) : PerformedAll e amr hs p q := by
  obtain ⟨len, atoms, stateIs, cellsAre, flagsAre⟩ :=
    performAtom_foldl (e := e) (amr := amr) tag hs p.count p.s { spec := true, atom := true } rfl
  unfold PerformedAll at h ⊢
  dsimp only at h ⊢
  rw [stateIs]
  rcases h with h | ⟨state, left, count, rs, results, own, cells, flags⟩
  · exact .inl h
  · refine .inr ⟨state, left, ?_, (headAtoms e amr tag p hs).2 :: rs, ?_, ?_, ?_, ?_⟩
    · rw [count, Performed.behindAtoms, List.length_drop]
      dsimp only
      omega
    · rw [results, Performed.behindAtoms, List.append_assoc]; rfl
    · exact List.forall_mem_cons.2 ⟨atoms, own⟩
    · rw [List.flatMap_cons, cells]; exact cellsAre.symm
    · rw [List.flatMap_cons, flags]; exact flagsAre.symm

/-- Without determinism held accesses are performed until a rollback is due (R216, R217). -/
theorem performHeld_free (n : Nat) (hs : List HeldAccess) (p : Performed) (hn : hs.length < n)
    (hp : PastFence e.g.core e.g.slot e.l.id p.s) (part : p.part = none) (left : p.left = []) (mismatch : p.mismatch = none) :
    (performHeld e amr n hs p).mismatch = none ∧ PerformedAll e amr hs p (performHeld e amr n hs p) := by
  induction n generalizing hs p with
  | zero => exact absurd hn (Nat.not_lt_zero _)
  | succ n ih =>
    cases hs with
    | nil => exact ⟨mismatch, .inr ⟨rfl, left, rfl, [], (List.append_nil _).symm, fun _ h => absurd h List.not_mem_nil, rfl, rfl⟩⟩
    | cons h hs =>
      unfold performHeld
      split
      · next due => exact ⟨mismatch, .inl ⟨due, rollbackIsDue_foldl due _⟩⟩
      · cases h with
        | store q lane bs tag =>
          obtain ⟨none_, all⟩ := ih hs (performStore e p q lane bs tag) (Nat.lt_of_succ_lt_succ hn) (hp.writePlace _ _ _ _)
            part left mismatch
          exact ⟨none_, all.store⟩
        | atom q r d tag =>
          let rs := sameAtoms tag p.count (.atom q r d tag :: hs)
          have head : rs = (q, r, d, p.count) :: sameAtoms tag (p.count + 1) hs := sameAtoms_atom q r d p.count tag hs
          have taken : rs.filter (fun r => (rs.map (·.1)).eraseDups.contains r.1) = rs :=
            List.filter_eq_self.2 fun r hr => by
              rw [List.contains_iff_mem, List.mem_eraseDups]; exact List.mem_map_of_mem hr
          have rest : hs.drop (rs.length - 1) = (HeldAccess.atom q r d tag :: hs).drop rs.length := by
            rw [head, List.length_cons, Nat.add_sub_cancel, List.drop_succ_cons]
          have fewer : ((HeldAccess.atom q r d tag :: hs).drop rs.length).length < n := by
            rw [List.length_drop, head, List.length_cons]
            rw [List.length_cons] at hn ⊢
            omega
          obtain ⟨none_, all⟩ := ih _ (p.behindAtoms e amr tag (.atom q r d tag :: hs)) fewer (hp.headAtoms _ _) rfl left mismatch
          have performed : performAtoms e amr tag p rs = headAtoms e amr tag p (.atom q r d tag :: hs) := by
            rw [performAtoms, part]; rfl
          simp only [chooseEach_free hp.mode, if_true]
          rw [taken, rest, performed]
          exact ⟨none_, all.atoms⟩

end Sys2Proof.Machine
end

section
-- One proof is elaborated at a time: the check bounds the threads of the whole text.
set_option Elab.async false
/-! SUPPORT for O45: parks and markers, and the events of results and fences (R39, R42, R215 to R217). -/

namespace Sys2Proof.Machine

variable {s t : State} {e : Env} {amr word : Word} {g : Group} {w : FenceWin} {pc : BitVec 32} {mask : LaneMask} {n : Entry}

/-! ### Parks and markers (R39, R42, R233) -/

/-- A park that traps no flag makes the held ones visible and empties the pending set. -/
theorem Group.park_untrapped (h : ∀ f ∈ g.heldFlags, f.2 &&& trapEnables amr = 0) :
    g.park amr pc word mask = { g.emptyPending with wait := .none } := by
  simp only [Group.park, enabledFlags_none h, true_or, if_true]

theorem Group.unpark_unparked (h : ∀ pc w m, g.wait ≠ .parked pc w m) : g.unpark amr = g := by
  unfold Group.unpark
  split
  · next pc w m hw => exact absurd hw (h pc w m)
  · rfl

theorem Group.unpark_busy (h : g.outstanding ≠ []) : g.unpark amr = g := by
  have busy : g.outstanding.isEmpty = false := by simpa using h
  unfold Group.unpark
  split
  · rw [busy]; rfl
  · rfl

theorem Group.unpark_last (hw : g.wait = .parked pc word mask) (ho : g.outstanding = []) : g.unpark amr = g.park amr pc word mask := by
  simp only [Group.unpark, hw, ho, List.isEmpty_nil, if_true]

theorem Group.marker_unmarked (h : word.getLsbD 31 = false) : g.marker amr pc word mask = g := by
  rw [Group.marker, h]; rfl

theorem Group.marker_busy (h : word.getLsbD 31 = true) (ho : g.outstanding ≠ []) :
    g.marker amr pc word mask = { g with wait := .parked pc word mask } := by
  have busy : g.outstanding.isEmpty = false := by simpa using ho
  rw [Group.marker, h, busy]; rfl

theorem Group.marker_quiet (h : word.getLsbD 31 = true) (ho : g.outstanding = []) (hw : g.wait = .none) :
    g.marker amr pc word mask = g.park amr pc word mask := by
  simp only [Group.marker, h, ho, hw, List.isEmpty_nil, Bool.not_true, Bool.false_eq_true, if_false, if_true]

/-! ### Results (R39) -/

/-- The group g once its result number k, which is r, is written. -/
def Group.delivered (g : Group) (k : Nat) (r : VarResult) : Group :=
  { g with arch := g.arch.deliver r, heldFlags := g.heldFlags ++ r.flags, outstanding := g.outstanding.eraseIdx k, bad := r.badAfter g.bad }

theorem Group.takeResult_eq {k : Nat} {r : VarResult} (ha : r.ard = none) (hf : g.fence = none) :
    g.takeResult amr k r = (g.delivered k r).unpark amr := by
  simp only [Group.takeResult, Group.snapshotArd, Group.delivered, ha, hf, Option.map_none]

/-- A result that is not held for a fence is taken by its group. -/
theorem variableLatencyResult_takes (he : s.env? s.event.core s.event.slot = some e) {r : VarResult}
    (hr : e.g.outstanding[s.event.num]? = some r) (hh : r.held = false) (ha : r.ard = none) (hf : e.g.fence = none) :
    exec .variableLatencyResult s = .next (s.setGroup ((e.g.delivered s.event.num r).unpark (s.amr e.l.ctx))) := by
  rw [exec_variableLatencyResult, execVariableLatencyResult, he]
  simp only [hr, hh, Bool.false_eq_true, if_false, Group.takeResult_eq ha hf]

/-! ### Fences complete (R215, R216) -/

/-- What performing the accesses that a fence window holds leaves (R216). -/
def FenceWin.performed (w : FenceWin) (e : Env) (s : State) : Performed :=
  performHeld e (s.amr e.l.ctx) (w.held.length + 1) w.held { s := s, part := w.part }

/-- Where performing them would roll the group back, none is performed (R217; log entry 20, DEDUCED). -/
theorem completeFence_due (hm : (w.performed e s).mismatch = none)
    (hd : rollbackIsDue (w.performed e s).s e.g.core e.g.slot = true) : completeFence s e w = some (s.setGroup e.g.markRollback) := by
  simp only [FenceWin.performed] at hm hd
  simp only [completeFence, hm, hd, if_true]

/-- Where none of them waits, the window closes with the results that they bring (R216). -/
theorem completeFence_closes (hm : (w.performed e s).mismatch = none)
    (hd : rollbackIsDue (w.performed e s).s e.g.core e.g.slot = false) (hc : (w.performed e s).count ≠ 0)
    (hl : (w.performed e s).left = []) (hp : PastFence e.g.core e.g.slot e.l.id (w.performed e s).s) :
    completeFence s e w = some ((w.performed e s).s.mapGroup e.g.core e.g.slot
      (fun g => (g.bring (w.performed e s).results).closeFence)) := by
  obtain ⟨g, v, hg, hv, unparked⟩ := hp.group
  have after (rs : List VarResult) : (g.bring rs).afterHeld (w.performed e s) (s.amr e.l.ctx) = (g.bring rs).closeFence := by
    have fence : (g.bring rs).fence = some v := hv
    have closed : (g.bring rs).closeFence.unpark (s.amr e.l.ctx) = (g.bring rs).closeFence := Group.unpark_unparked unparked
    rw [Group.afterHeld, fence]
    simp only [hl, if_true, closed]
  simp only [State.mapGroup_eq hg]
  rw [← after]
  simp only [FenceWin.performed] at hm hd hc hg ⊢
  simp only [completeFence, hm, hd, hc, decide_false, Bool.false_and, Bool.false_eq_true, if_false, State.mapGroup_eq hg]

section Completion

variable (he : s.env? s.event.core s.event.slot = some e)
include he

/-- The group of an event stands in its slot. -/
theorem group?_of_event : s.group? e.g.core e.g.slot = some e.g := by
  obtain ⟨hg, -, -⟩ := State.env?_spec he
  obtain ⟨hc, hs⟩ := State.group?_slot hg
  rw [hc, hs]; exact hg

theorem fenceCompletion_soft {f : SoftFence} (hf : f ∈ e.g.soft) (done : ∀ id ∈ f.waits, numberLive s e.g id = false) :
    exec .fenceCompletion s
      = .next (s.setGroup { e.g with soft := e.g.soft.filter (fun k => k.waits.any (numberLive s e.g)) }) := by
  have ended : e.g.soft.any (fun f => !f.waits.any (numberLive s e.g)) = true :=
    List.any_eq_true.2 ⟨f, hf, by rw [List.any_eq_false.2 fun id h => by simp [done id h]]; rfl⟩
  rw [exec_fenceCompletion, execFenceCompletion, he]
  simp only [ended, if_true, Bool.not_not]

variable (hs : e.g.soft = []) (hf : e.g.fence = some w) (hd : w.rollbackDue = false)
include hf hd

omit hd in
/-- Whether a rollback is due stands in the window of the group. -/
theorem rollbackIsDue_of_event : rollbackIsDue s e.g.core e.g.slot = w.rollbackDue := by
  rw [rollbackIsDue, group?_of_event he, Option.bind_some, hf]

include hs in
theorem fenceCompletion_closes (done : ∀ id ∈ w.waits, numberLive s e.g id = false) (hc : completeFence s e w = some t) :
    exec .fenceCompletion s = .next t := by
  have ended : w.waits.any (numberLive s e.g) = false := List.any_eq_false.2 fun id h => by simp [done id h]
  rw [exec_fenceCompletion, execFenceCompletion, he]
  simp only [hs, List.any_nil, hf, ended, hd, hc, Bool.not_false, Bool.not_true, Bool.or_self, Bool.false_eq_true, if_false]

variable (hw : ∀ pc v m, e.g.wait ≠ .parked pc v m)
include hw

/-- A fence that holds no access closes. -/
theorem completeFence_empty (h : w.held = []) : completeFence s e w = some (s.setGroup e.g.closeFence) := by
  have due : rollbackIsDue s e.g.core e.g.slot = false := (rollbackIsDue_of_event he hf).trans hd
  have brought : e.g.bring [] = e.g := rfl
  have after : e.g.closeFence.unpark (s.amr e.l.ctx) = e.g.closeFence := Group.unpark_unparked hw
  simp only [completeFence, h, performHeld, due, List.isEmpty_nil, Bool.not_true, Bool.and_false, Bool.false_eq_true, if_false,
    State.mapGroup_eq (group?_of_event he), brought, Group.afterHeld, hf, if_true, after]

omit hd in
/-- The group of a fence that completes stands past it. -/
theorem pastFence_of_event (hm : e.l.lh.mode = 0) : PastFence e.g.core e.g.slot e.l.id s := by
  refine ⟨⟨e.g, w, group?_of_event he, hf, hw⟩, fun l hl => ?_⟩
  rw [State.env?_launch he] at hl
  cases hl
  exact hm

omit hd in
/-- A fence with held accesses performs them all and closes, or it rolls back (R216, R217). -/
theorem completeFence_held (hm : e.l.lh.mode = 0) (hp : w.part = none) (hh : w.held ≠ []) :
    let t := w.held.zipIdx.foldl (heldStep e (s.amr e.l.ctx)) s
    (rollbackIsDue t e.g.core e.g.slot = true → completeFence s e w = some (s.setGroup e.g.markRollback))
    ∧ (rollbackIsDue t e.g.core e.g.slot = false → ∃ rs : List VarResult, (∀ r ∈ rs, r.ofAtoms)
      ∧ rs.flatMap (fun r => r.v) = heldCells e (s.amr e.l.ctx) s w.held.zipIdx
      ∧ rs.flatMap (fun r => r.flags) = heldFlags e (s.amr e.l.ctx) s w.held.zipIdx
      ∧ completeFence s e w = some (t.mapGroup e.g.core e.g.slot (fun g => (g.bring rs).closeFence))) := by
  intro t
  have past := pastFence_of_event he hf hw hm
  obtain ⟨mismatch, all⟩ : (w.performed e s).mismatch = none
      ∧ PerformedAll e (s.amr e.l.ctx) w.held { s := s, part := w.part } (w.performed e s) :=
    performHeld_free _ _ _ (Nat.lt_succ_self _) past hp rfl rfl
  rcases all with ⟨due, dueAfter⟩ | ⟨state, left, count, rs, results, own, cells, flags⟩
  · exact ⟨fun _ => completeFence_due mismatch due, fun free => absurd (dueAfter.symm.trans free) (by decide)⟩
  · have same : (w.performed e s).s = t := state
    have brought : (w.performed e s).results = rs := results
    have some_ : (w.performed e s).count ≠ 0 := by
      have : 0 < w.held.length := List.length_pos_iff.2 hh
      rw [count]
      exact Nat.ne_of_gt (Nat.add_pos_right _ this)
    refine ⟨fun due => completeFence_due mismatch (same ▸ due), fun free => ⟨rs, own, cells, flags, ?_⟩⟩
    rw [completeFence_closes mismatch (same ▸ free) some_ left (same ▸ past.foldl _), same, brought]

end Completion

/-! ### Rollbacks (R42, R217) -/

/-- The group g back behind the fence of its window w, whose word its entry n issued, before the switch marker of that word. -/
def Group.behindFence (g : Group) (w : FenceWin) (n : Entry) : Group :=
  { g with
    arch := w.snapshot.advance n (w.snapshot.fallThrough n)
    tokens := w.tokens
    heldFlags := w.heldFlags
    after := w.after
    bad := g.badBehind w
    wait := .none
    outstanding := g.outstanding.filter (fun r => !r.spec && !r.held)
    fence := some { w with held := [], watched := [], issued := 0, rollbacks := w.rollbacks + 1, rollbackDue := false } }

theorem fenceRollback_marks (he : s.env? s.event.core s.event.slot = some e) (hf : e.g.fence = some w) (hd : w.rollbackDue = true)
    (hn : w.snapshot.issuing = some n) :
    exec .fenceRollback s = .next (s.setGroup ((e.g.behindFence w n).marker (s.amr e.l.ctx) n.pc w.word n.mask)) := by
  have back : e.g.rollBack w (s.amr e.l.ctx) = (e.g.behindFence w n).marker (s.amr e.l.ctx) n.pc w.word n.mask := by
    rw [Group.rollBack, hn]; rfl
  rw [exec_fenceRollback, execFenceRollback, he]
  simp only [hf, hd, if_true, back]

end Sys2Proof.Machine
end

section
-- One proof is elaborated at a time: the check bounds the threads of the whole text.
set_option Elab.async false
/-! PROOF of O45: results arrive, fences complete and roll back. -/

open Sys2Proof Sys2Proof.Machine

/-- Settles O45, event by event: a result by `variableLatencyResult_takes`, a fence by what it holds (`completeFence_empty`,
`completeFence_held`), a rollback by the marker of the fence word (`fenceRollback_marks`). -/
theorem resultAndFenceEvents : Obligations.ResultAndFenceEvents := by
  unfold Obligations.ResultAndFenceEvents
  intro s e he g
  obtain ⟨hg, -, -⟩ := State.env?_spec he
  refine ⟨?result, fun f hf done => fenceCompletion_soft he hf done,
    fun w hs hf hh hd done hw => fenceCompletion_closes he hs hf hd done (completeFence_empty he hf hd hw hh), ?held, ?rollback,
    fun hw => ?yield, fun ha hr h4096 hl => ?aged⟩
  case result =>
    intro r hr hh ha hf g1
    have takes : exec .variableLatencyResult s = .next (s.setGroup (g1.unpark (s.amr e.l.ctx))) :=
      variableLatencyResult_takes he hr hh ha hf
    refine ⟨fun h => takes.trans ?_, fun pc w m hw ho hu => takes.trans ?_⟩
    · rcases h with h | h
      · rw [Group.unpark_unparked (g := g1) h]
      · rw [Group.unpark_busy h]
    · rw [Group.unpark_last (g := g1) hw ho, Group.park_untrapped hu]; rfl
  case held =>
    intro w hs hf hd hp done hw hm hh amr own perform after observes t due
    have step : perform = heldStep e amr := by
      funext t ⟨h, k⟩
      cases h <;> rfl
    have seen (h : HeldAccess × Nat) : observes h = heldSeen e amr ((w.held.zipIdx.take h.2).foldl (heldStep e amr) s) h := by
      rw [← step]
      obtain ⟨h, k⟩ := h
      cases h <;> rfl
    have state : t = w.held.zipIdx.foldl (heldStep e amr) s := by
      rw [← step]
      exact congrArg (List.foldl perform s) (List.take_of_length_le (by rw [List.length_zipIdx]))
    have dueIs : due = rollbackIsDue (w.held.zipIdx.foldl (heldStep e amr) s) e.g.core e.g.slot := by
      rw [← state]
      exact (rollbackIsDue_eq t g.core g.slot).symm
    obtain ⟨rolls, closes⟩ := completeFence_held he hf hw hm hp hh
    refine ⟨fun h => fenceCompletion_closes he hs hf hd done ?_, fun h => ?_⟩
    · rw [rolls (dueIs ▸ h), Group.markRollback, hf]; rfl
    · obtain ⟨rs, atoms, cells, flags, closed⟩ := closes (dueIs ▸ h)
      refine ⟨rs, cells.trans ?_, flags.trans ?_, atoms, fenceCompletion_closes he hs hf hd done (closed.trans ?_)⟩
      · simp only [seen]
        exact (flatMap_see_take (heldStep e amr) (fun t h => (heldSeen e amr t h).1) s w.held).symm
      · simp only [seen]
        exact (flatMap_see_take (heldStep e amr) (fun t h => (heldSeen e amr t h).2) s w.held).symm
      · rw [← state]; rfl
  case rollback =>
    intro w n hf hd hn fr back marked
    have rolls : exec .fenceRollback s = .next (s.setGroup (back.marker (s.amr e.l.ctx) n.pc w.word n.mask)) :=
      fenceRollback_marks he hf hd hn
    refine ⟨fun hm => rolls.trans ?_, fun hm ho => rolls.trans ?_, fun hm ho hu => rolls.trans ?_⟩
    · rw [Group.marker_unmarked hm]
    · rw [Group.marker_busy hm ho]
    · rw [Group.marker_quiet hm ho rfl, Group.park_untrapped hu]; rfl
  case yield =>
    rw [exec_yieldExpiry, execYieldExpiry, hg]
    exact if_pos hw
  case aged =>
    have ready : agedReady g = true := by simp [agedReady, ha, hr, h4096, hl]
    rw [exec_agedIssue, execAgedIssue, hg]
    exact if_pos ready

end

section
-- One proof is elaborated at a time: the check bounds the threads of the whole text.
set_option Elab.async false
/-! SUPPORT for O11, O16 and O43: words that pass the checks of the decoder. -/

namespace Sys2Proof.Machine

variable {x : Issue} {u : Use} {rs : List RegRef} {limm : Option (BitVec 20)}

/-- A word that takes the run's hints, and whose registers may be named, passes the decoder and names no tracked token. -/
theorem passes_checks (hr : Usable x rs) (hh : Hinted x limm u.rnd u.sat u.bpri)
    (hl : ∀ k, limm = some k → u.limm = true ∧ u.limmMask = k) (legal : u.illegal = false ∧ u.illegalIn x = false)
    (open_ : u.forbidden = false ∧ u.privileged = false) (regs : u.badReg = false ∧ u.badIn x = false) (named : ∀ r ∈ u.regs x, r ∈ rs) :
    decodeFault u x = none ∧ u.tokens x = [] :=
  ⟨decodeFault_none hr hh hl legal.1 legal.2 open_.1 (by rw [open_.2]; rintro ⟨⟩) regs.1 regs.2 named, tokens_none hr named⟩

theorem Hinted.limm_eq_none {rnd sat bpri : Bool} (hh : Hinted x none rnd sat bpri) : x.run.limm = none := by
  cases h : x.run.limm with
  | none => rfl
  | some p => obtain ⟨_, ⟨⟩, _⟩ := hh.limm p h

end Sys2Proof.Machine
end

section
-- One proof is elaborated at a time: the check bounds the threads of the whole text.
set_option Elab.async false
/-! SUPPORT for O16: a matrix word that enters its queue (R165). -/

namespace Sys2Proof.Machine

variable {s : State} {x : Issue} {u : Use} {i : Instr} {o : MatrixOp}

/-- The group of x with one more operation in its matrix queue. -/
def Issue.enqueued (x : Issue) (s : State) (o : MatrixOp) : Group :=
  { x.e.g with matrix := x.e.g.matrix ++ [{ o with id := s.nextId, word := s.fetched, limm := (x.run.limm.getD 0).setWidth 32 }] }

theorem enqueue_eq (x : Issue) (s : State) (o : MatrixOp) :
    enqueue s x.e.g o = State.setGroup { s with nextId := s.nextId + 1 } (x.enqueued s o) := rfl

/-- A matrix word that passes its checks of R162, R165, R173 and R411 enqueues its operation. -/
theorem issueMatrix_enqueues {precise : Bool} {a b : BitVec 6} {esz la lb : Nat} {ka kb : List Nat}
    {op : MatrixSource → MatrixSource → MatrixOp} (room : queueFull s x.e.g = false) (clean : tilePoisoned x.arch [a, b] = false)
    (hp : precise = true) (ho : op (xSource x.arch a) (xSource x.arch b) = o)
    (check : (xSource x.arch a).check s x.e.accessor esz la ka (laneList x.active) = none
      ∧ (xSource x.arch b).check s x.e.accessor esz lb kb (bRows x.active o.pb) = none) :
    issueMatrix x s precise a b esz la lb ka kb op = .done { s := enqueue s x.e.g o } := by
  obtain ⟨ha, hb⟩ := check
  simp only [issueMatrix, room, clean, hp, ho, ha, hb, Bool.not_true, Bool.false_eq_true, if_false]

/-- A word whose body enqueues an operation completes with it, and the device's next number is taken. -/
theorem enqueue_completes {body : Issue → State → Res} (hi : Issues s x) (hx : exec i s = issue u body s)
    (passes : decodeFault u x = none ∧ u.tokens x = []) (hb : body x s = .done { s := enqueue s x.e.g o }) :
    CompletesWith i s x { s with nextId := s.nextId + 1 } [] u.rounds (x.enqueued s o) := by
  intro quiet a
  have found : (enqueue s x.e.g o).group? x.core x.slot = some (x.enqueued s o) := hi.group?_setGroup (g := x.enqueued s o) rfl rfl
  rw [hx, issue_body hi passes.1 passes.2 hb, finish_done (g := x.enqueued s o) found passes.2 rfl rfl quiet hi.held hi.fence hi.bad,
    enqueue_eq]
  simp only [Bool.or_false, Option.getD_none]
  exact congrArg _ (State.setGroup_setGroup _ _ _ rfl rfl)

/-- What R176 asks of the steps of an LMMA: several only from scratch, and not in mode 4. -/
theorem steps_legal {a b : BitVec 6} {st : BitVec 5} (h : st = 0 ∨ xIsTile a = false ∧ xIsTile b = false ∧ x.mode ≠ 4) :
    (st != 0 && (xIsTile a || xIsTile b)) = false ∧ (x.mode == 4 && st != 0) = false := by
  rcases h with rfl | ⟨ha, hb, hm⟩
  · simp
  · simp only [ha, hb, beq_eq_false_iff_ne.2 hm, Bool.or_self, Bool.and_false, Bool.false_and, and_self]

/-- The fields of the LIMM of an LMMA of LB8: the scale registers of A and of B, and the byte of each (R176). -/
theorem scale_fields (n : Nat) : field n 0 8 = n % 256 ∧ field n 8 8 = n / 256 % 256 ∧ field n 16 2 = n / 65536 % 4
    ∧ field n 18 2 = n / 262144 % 4 := by simp [field]

end Sys2Proof.Machine
end

section
-- One proof is elaborated at a time: the check bounds the threads of the whole text.
set_option Elab.async false
/-! PROOF of O16: LMMA, LMMS and IMMA enter the matrix queue. -/

open Sys2Proof Sys2Proof.Machine

/-- Settles O16: each word passes the decoder (`passes_checks`), enqueues its operation (`issueMatrix_enqueues`) and completes with it
(`enqueue_completes`). An LMMA has scale registers in LB8 alone, so its two clauses differ in the fields of the LIMM. -/
theorem matrixIssueResults : Obligations.MatrixIssueResults := by
  unfold Obligations.MatrixIssueResults
  intro s x c a b p hi room clean ha hb sa sb checked enters
  refine ⟨fun f st hf hst hh hr acc check => ?lmma, fun st lm hst hlm hh hr acc check => ?scaled,
    fun f w n lm hf hn hta htb hm hlm low aligned inside hh hr acc check => ?lmms,
    fun n hn hh hr int frac wa wb check => ?imma⟩
  case lmma =>
    have plain : (f == 1) = false := by rcases hf with rfl | rfl | rfl <;> rfl
    have listed : decide (4 ≤ f.toNat) = false := by rcases hf with rfl | rfl | rfl <;> rfl
    obtain ⟨steps, mode⟩ := steps_legal hst
    refine enqueue_completes hi (exec_lmma c a b f st p s) (passes_checks hr hh (limm_none _) ⟨?_, ?_⟩ ⟨rfl, rfl⟩ ⟨rfl, rfl⟩ ?_)
      (issueMatrix_enqueues room clean acc ?_ check)
    · simp only [listed, ha, hb, steps, Bool.or_self]
    · simp only [plain, mode, Bool.false_and, Bool.or_self]
    · simp only [Use.regs, plain, Bool.false_eq_true, if_false, List.append_nil]
      exact fun _ h => h
    · simp only [plain, hh.limm_eq_none, Option.getD_none, Bool.false_and, Bool.false_eq_true, if_false]; rfl
  case scaled =>
    obtain ⟨steps, mode⟩ := steps_legal hst
    obtain ⟨rowScale, columnScale, rowByte, columnByte⟩ := scale_fields lm.toNat
    refine enqueue_completes hi (exec_lmma c a b 1 st p s) (passes_checks hr hh ?_ ⟨?_, ?_⟩ ⟨rfl, rfl⟩ ⟨rfl, rfl⟩ ?_)
      (issueMatrix_enqueues room clean acc ?_ check)
    · rintro k ⟨⟩; exact ⟨rfl, rfl⟩
    · simp only [ha, hb, steps]; rfl
    · simp only [hlm, mode]; rfl
    · simp [Use.regs, hlm, rowScale, columnScale]
    · simp only [hlm, Option.getD_some, rowScale, columnScale, rowByte, columnByte]; rfl
  case lmms =>
    have first : field lm.toNat 0 8 = lm.toNat := by simpa [field] using low
    have listed : (f == 0 || f == 2 || f == 3) = true := by rcases hf with rfl | rfl | rfl <;> rfl
    refine enqueue_completes hi (exec_lmms c a b f w n p s) (passes_checks hr hh ?_ ⟨?_, ?_⟩ ⟨rfl, rfl⟩ ⟨rfl, ?_⟩ ?_)
      (issueMatrix_enqueues room clean acc ?_ check)
    · rintro k ⟨⟩; exact ⟨rfl, rfl⟩
    · simp only [listed, hta, htb, beq_eq_false_iff_ne.2 hn]; rfl
    · simp only [hlm, beq_eq_false_iff_ne.2 hm]; rfl
    · simp only [hlm, Option.getD_some, first, aligned]
      simpa using inside
    · simp only [Use.regs, hlm, Option.getD_some, first]
      simp
    · simp only [hlm, Option.getD_some, first]; rfl
  case imma =>
    refine enqueue_completes hi (exec_imma c a b n p s) (passes_checks hr hh (limm_none _) ⟨?_, rfl⟩ ⟨rfl, rfl⟩ ⟨rfl, ?_⟩ ?_)
      (issueMatrix_enqueues room clean ?_ rfl check)
    · simp only [ha, hb, Bool.or_self]
    · exact decide_eq_false (by omega)
    · simp [Use.regs]
    · have rowsA : (xIsTile a && decide (32 < immaK (x.arch.getTw n.toNat) * twWa (x.arch.getTw n.toNat) / 8)) = false := by
        simpa using wa
      have rowsB : (xIsTile b && decide (32 < immaK (x.arch.getTw n.toNat) * twWb (x.arch.getTw n.toNat) / 8)) = false := by
        simpa using wb
      simp only [int, decide_eq_true frac, rowsA, rowsB]; rfl

end

section
-- One proof is elaborated at a time: the check bounds the threads of the whole text.
set_option Elab.async false
/-! SUPPORT for O43: the arithmetic trap of a word that changes only registers (R84, R86, R371, R374). -/

namespace Sys2Proof.Machine

variable {s : State} {x : Issue} {y : Entry} {u : Use} {lanes : LaneMask} {code : BitVec 9} {fs : List (Nat × BitVec 9)}

/-! ### The lanes and the code of the trap -/

/-- Only the flags that are enabled count, for the lanes and for the code. -/
theorem enabledFlags_eq (amr : Word) (fs : List (Nat × BitVec 9)) : enabledFlags amr fs =
    let raised := fs.filter (fun f => f.2 &&& trapEnables amr != 0)
    (raised.foldl (fun c f => c ||| (1#64 <<< f.1)) 0, raised.foldl (fun c f => c ||| (f.2 &&& trapEnables amr)) 0) := by
  suffices split : ∀ (m : LaneMask) (c : BitVec 9),
      fs.foldl (fun r f => let y := f.2 &&& trapEnables amr; if y = 0 then r else (r.1 ||| (1#64 <<< f.1), r.2 ||| y)) (m, c) =
        ((fs.filter (fun f => f.2 &&& trapEnables amr != 0)).foldl (fun c f => c ||| (1#64 <<< f.1)) m,
          (fs.filter (fun f => f.2 &&& trapEnables amr != 0)).foldl (fun c f => c ||| (f.2 &&& trapEnables amr)) c) from split 0 0
  induction fs with
  | nil => intros; rfl
  | cons f fs ih =>
    intro m c
    by_cases h : f.2 &&& trapEnables amr = 0
    · rw [List.foldl_cons, List.filter_cons_of_neg (by simp [h]), ← ih]
      simp only [h, if_true]
    · rw [List.foldl_cons, List.filter_cons_of_pos (by simpa using h), List.foldl_cons, List.foldl_cons, ← ih]
      simp only [if_neg h]

theorem foldl_lanes_ne_zero (hne : fs ≠ []) (low : ∀ f ∈ fs, f.1 < 64) : fs.foldl (fun c f => c ||| (1#64 <<< f.1)) 0 ≠ 0 := by
  have kept (gs : List (Nat × BitVec 9)) {i : Nat} {c : BitVec 64} (h : c.getLsbD i = true) :
      (gs.foldl (fun c f => c ||| (1#64 <<< f.1)) c).getLsbD i = true :=
    foldl_keeps (P := fun c : BitVec 64 => c.getLsbD i = true) h fun _ _ hc => by simp [hc]
  obtain ⟨f, fs, rfl⟩ := List.exists_cons_of_ne_nil hne
  intro zero
  have set : (fs.foldl (fun c f => c ||| (1#64 <<< f.1)) (0 ||| (1#64 <<< f.1))).getLsbD f.1 = true :=
    kept fs (by simp [low f List.mem_cons_self])
  rw [List.foldl_cons] at zero
  rw [zero] at set
  simp at set

theorem setActiveFlags_lanes {d : Nat} {f : Nat → Word × BitVec 9} {a : Arch} {r : Nat × BitVec 9} (h : r ∈ (setActiveFlags x d f a).2) :
    r.1 < 64 := by
  simp only [setActiveFlags, List.mem_filterMap, List.mem_map] at h
  obtain ⟨_, ⟨i, hi, rfl⟩, h⟩ := h
  split at h
  · cases h
  · cases h; exact (mem_laneList hi).1

@[simp] theorem setActiveFlags_frontier (x : Issue) (d : Nat) (f : Nat → Word × BitVec 9) (a : Arch) :
    (setActiveFlags x d f a).1.frontier = a.frontier :=
  foldl_keeps (P := fun b : Arch => b.frontier = a.frontier) rfl fun _ _ h => h

@[simp] theorem Arch.orFlags_frontier (a : Arch) (fs : List (Nat × BitVec 9)) : (a.orFlags fs).frontier = a.frontier := by
  obtain ⟨fl, h⟩ := Arch.orFlags_fl a fs
  rw [h]

/-! ### Taking the trap -/

/-- The issue x with its group's registers replaced. -/
def Issue.withArch (x : Issue) (a : Arch) : Issue := { x with e := { x.e with g := { x.e.g with arch := a } } }

/-- The group with flags in fl of their lanes (R84). -/
def Group.withFlags (g : Group) (fs : List (Nat × BitVec 9)) : Group := { g with arch := g.arch.orFlags fs }

/-- The arithmetic trap of the word of x, as its group takes it (R86, R371). -/
def Issue.arithmetic (x : Issue) (s : State) (lanes : LaneMask) (code : BitVec 9) : Trap :=
  { x.trap s 12 code.toNat true (x.arch.wordPc x.entry + 4) with mask := lanes }

/-- With nothing to wait for and no held flag under a marker, an arithmetic trap is recorded as it is and brings the group to its
handler. -/
theorem takeFault_arithmetic {core slot : Nat} {e : Env} {f : Trap} (he : s.env? core slot = some e) (hk : TakesFault e) (hc : f.cls = 12)
    (hq : f.parkWord.getLsbD 31 = true → e.g.heldFlags = []) (ho : e.g.outstanding = []) :
    takeFault s core slot f = some ((writeRecord s e.l (e.record f true) false).setGroup
      ({ e.g.emptyPending with fence := none }.enterHandler f (recordFlags 12 true false f.async f.took) e.l.kh.trap)) := by
  have hl := State.env?_launch he
  have there : (e.l.kh.trap != 0xFFFFFFFF) = true := bne_iff_ne.2 hk.handler
  have handled : e.handles f = true := by simp only [Env.handles, hc, there, hk.outside]; rfl
  have alone : f.joinHeld e (s.amr e.l.ctx) = f := by
    by_cases hw : f.parkWord.getLsbD 31 = true
    · simp [Trap.joinHeld, hq hw, enabledFlags, joinTrap]
    · exact if_neg fun h => hw h.2
  simp only [takeFault, he, ho, List.isEmpty_nil, Bool.not_true, Bool.and_false, choose_free hl hk.mode, hl, alone, handled, Option.getD_some,
    Bool.false_eq_true, if_false, if_true, Group.parkFor, hc]

/-- The group of x with the registers a enters its handler with the arithmetic trap of the word. -/
theorem takeFault_withArch {a : Arch} (hi : Issues s x) (hm : MayTrap x y) (hf : a.frontier = x.arch.frontier)
    (lanes : LaneMask) (code : BitVec 9) :
    takeFault (s.setGroup (x.withArch a).e.g) x.core x.slot (x.arithmetic s lanes code)
      = some ((x.withArch a).entersHandler (s.setGroup (x.withArch a).e.g) (x.arithmetic s lanes code) y) := by
  have env : (s.setGroup (x.withArch a).e.g).env? x.core x.slot = some (x.withArch a).e := State.env?_setGroup hi.env rfl rfl rfl
  have entry : (x.withArch a).arch.frontier.find? (fun e => e.mask &&& x.entry.mask != 0) = some y :=
    (congrArg (List.find? _) hf).trans hm.entry
  have record : (x.withArch a).e.record (x.arithmetic s lanes code) true = (x.withArch a).faultRecord (x.arithmetic s lanes code) 19 := by
    have outside : (x.withArch a).e.g.handler = none := hm.outside
    rw [Env.record, outside]; rfl
  have word : (x.arithmetic s lanes code).parkWord = s.fetched := rfl
  have quiet : (x.arithmetic s lanes code).parkWord.getLsbD 31 = true → (x.withArch a).e.g.heldFlags = [] := by rw [word]; exact hi.held
  rw [takeFault_arithmetic env (hm.takesFault rfl) rfl quiet hm.quiet, record]
  exact congrArg (fun g => some (State.setGroup _ g)) (enterHandler_eq (x.withArch a) hi.bad hi.fence entry rfl)

/-- The close of a word that does not round and raises enabled flags: its flags join fl, and its group takes the arithmetic trap. -/
theorem finish_arithmetic {t : State} {g : Group} (hi : Issues s x) (hg : t.group? x.core x.slot = some g) (ht : u.tokens x = [])
    (hr : u.rounds = false) (hb : g.bad = []) (hl : enabledFlags x.amr fs = (lanes, code)) (h0 : lanes ≠ 0) :
    finish u x s { s := t, flags := fs }
      = (takeFault (t.setGroup (g.withFlags fs)) x.core x.slot (x.arithmetic s lanes code)).getD (stallState s) := by
  have tokens : g.tokens.filter (fun _ => true) = g.tokens := List.filter_eq_self.2 fun _ _ => rfl
  have after (k : Group) : k.addAfter [] = k := by
    rw [Group.addAfter]; split <;> simp
  have trap : arithmeticTrap x.amr fs = some { cls := 12, code := code.toNat, mask := lanes, took := true, after := true } := by
    rw [arithmeticTrap, hl]; exact if_neg h0
  simp only [finish, hg, ht, List.any_nil, Bool.not_false, tokens, List.flatMap_nil, List.append_nil, List.filterMap_nil, List.map_nil,
    List.nil_append, trap, Option.map_some, Option.toList_some, List.map_cons, Bool.false_eq_true, if_false, hi.unfenced, hr, Bool.or_self,
    Bool.false_and, Group.mend_none _ _ hb, after]
  rfl

/-- A word that changes only registers and raises enabled flags takes effect, and its group goes to the handler behind it (R86, R374). -/
theorem issueArch_traps {f : Issue → Arch → Arch × List (Nat × BitVec 9)} (hi : Issues s x) (hm : MayTrap x y)
    (hd : decodeFault u x = none) (ht : u.tokens x = []) (hr : u.rounds = false) (hf : (f x x.arch).1.frontier = x.arch.frontier)
    (hl : enabledFlags x.amr (f x x.arch).2 = (lanes, code)) (h0 : lanes ≠ 0) :
    issueArch u f s = .next
      (let x1 := x.withArch ((f x x.arch).1.orFlags (f x x.arch).2)
       x1.entersHandler (s.setGroup x1.e.g) (x.arithmetic s lanes code) y) := by
  have body : archBody f x s = .done { s := s.setGroup (x.withArch (f x x.arch).1).e.g, flags := (f x x.arch).2 } := rfl
  have found := hi.group?_setGroup (g := (x.withArch (f x x.arch).1).e.g) rfl rfl
  have joined : (s.setGroup (x.withArch (f x x.arch).1).e.g).setGroup ((x.withArch (f x x.arch).1).e.g.withFlags (f x x.arch).2)
      = s.setGroup (x.withArch ((f x x.arch).1.orFlags (f x x.arch).2)).e.g := State.setGroup_setGroup _ _ _ rfl rfl
  rw [issueArch, issue_body hi hd ht body, finish_arithmetic hi found ht hr hi.bad hl h0, joined,
    takeFault_withArch hi hm ((Arch.orFlags_frontier _ _).trans hf), Option.getD_some]

/-- A two-operand LN word that does not round traps with the enabled flags that its lanes raise. -/
theorem ln3_traps {m : LnFmt} {d a b : BitVec 8} {f : Issue → Nat → LnVal → LnVal → LnVal → LnVal × BitVec 9}
    (hi : Issues s x) (hm : MayTrap x y) (hr : Usable x [vN d, vN a, vN b]) (hh : Hinted x none false false false) :
    let r := setActiveFlags x d.toNat (fun l => lnResult m (f x l (lnVal m (x.arch.getV d.toNat l).toNat)
      (lnVal m (x.arch.getV a.toNat l).toNat) (lnVal m (x.arch.getV b.toNat l).toNat))) x.arch
    let raised := r.2.filter (fun f => f.2 &&& trapEnables x.amr != 0)
    let x1 := x.withArch (r.1.orFlags r.2)
    raised ≠ [] → ln3 m false false d a b f s = .next (x1.entersHandler (s.setGroup x1.e.g)
      (x.arithmetic s (raised.foldl (fun c f => c ||| (1#64 <<< f.1)) 0) (raised.foldl (fun c f => c ||| (f.2 &&& trapEnables x.amr)) 0)) y) := by
  intro r raised x1 hne
  have named (w : RegRef) (hw : w ∈ Use.regs { reads := [vN a, vN b] ++ [], writes := [vN d] } x) : w ∈ [vN d, vN a, vN b] := by
    grind [Use.regs]
  obtain ⟨hd, ht⟩ := passes_checks hr hh (limm_none _) ⟨rfl, rfl⟩ ⟨rfl, rfl⟩ ⟨rfl, rfl⟩ named
  exact issueArch_traps hi hm hd ht rfl (setActiveFlags_frontier ..) (enabledFlags_eq ..)
    (foldl_lanes_ne_zero hne fun f hf => setActiveFlags_lanes (List.mem_of_mem_filter hf))

end Sys2Proof.Machine
end

section
-- One proof is elaborated at a time: the check bounds the threads of the whole text.
set_option Elab.async false
/-! PROOF of O43: an LMUL that raises an enabled flag. -/

open Sys2Proof Sys2Proof.Machine

/-- Settles O43, by the trap of a two-operand LN word (`ln3_traps`), for each format. -/
theorem arithmeticTrapResults : Obligations.ArithmeticTrapResults := by
  unfold Obligations.ArithmeticTrapResults
  intro s x e d a b hi hm hr hh i m him value r raised code lanes x1 hne
  simp only [List.mem_cons, Prod.mk.injEq, List.not_mem_nil, or_false] at him
  obtain ⟨rfl, rfl⟩ | ⟨rfl, rfl⟩ | ⟨rfl, rfl⟩ := him
  · exact (exec_lmulLn8 d a b s).trans (ln3_traps hi hm hr hh hne)
  · exact (exec_lmulLn16 d a b s).trans (ln3_traps hi hm hr hh hne)
  · exact (exec_lmulLn32 d a b s).trans (ln3_traps hi hm hr hh hne)

end

section
-- One proof is elaborated at a time: the check bounds the threads of the whole text.
set_option Elab.async false
/-! SUPPORT for O11: the values of LN codes, the range check and rounding, and the functions of R141 to R149. -/

namespace Sys2Proof.Machine

variable {m : LnFmt} {k : Rounding} {neg : Bool} {l t : Int}

/-! ### The range check and rounding (R72, R96) -/

/-- The range check with its limits as integers. -/
theorem rangeCheck_eq (m : LnFmt) (k : Rounding) (neg : Bool) (l : Int) : rangeCheck m k neg l =
    if 2 ^ (m.log - 1) - 1 < l then (if k.inf then .inf neg else .fin neg (2 ^ (m.log - 1) - 1), flOV)
    else if l < -(2 ^ (m.log - 1)) then (if k.flush then .zero neg else .fin neg (-(2 ^ (m.log - 1))), flUN)
    else (.fin neg l, 0) := by
  have top : ((2 ^ (m.log - 1) - 1 : Nat) : Int) = 2 ^ (m.log - 1) - 1 := by
    rw [Nat.cast_pred (Nat.two_pow_pos _)]; push_cast; rfl
  have bottom : ((2 ^ (m.log - 1) : Nat) : Int) = 2 ^ (m.log - 1) := by push_cast; rfl
  rw [rangeCheck, top, bottom]

theorem rangeCheck_inside (lo : -(2 ^ (m.log - 1)) ≤ l) (hi : l < 2 ^ (m.log - 1)) : rangeCheck m k neg l = (.fin neg l, 0) := by
  rw [rangeCheck_eq, if_neg (by omega), if_neg (by omega)]

theorem rangeCheck_above (h : 2 ^ (m.log - 1) ≤ l) :
    rangeCheck m k neg l = (if k.inf then .inf neg else .fin neg (2 ^ (m.log - 1) - 1), flOV) := by
  rw [rangeCheck_eq, if_pos (by omega)]

theorem rangeCheck_below (h : l < -(2 ^ (m.log - 1))) :
    rangeCheck m k neg l = (if k.flush then .zero neg else .fin neg (-(2 ^ (m.log - 1))), flUN) := by
  have : (0 : Int) < 2 ^ (m.log - 1) := by positivity
  rw [rangeCheck_eq, if_neg (by omega), if_pos h]

/-- An even log loses nothing with its one guard bit. -/
theorem roundPack_even (he : t % 2 = 0) (lo : -(2 ^ (m.log - 1)) ≤ t / 2) (hi : t / 2 < 2 ^ (m.log - 1)) :
    roundPack m k neg t 1 = (.fin neg (t / 2), 0) := by
  have exact_ : roundsUp k neg (t / (2 ^ 1 : Nat)) (t % (2 ^ 1 : Nat)).toNat 1 = false := if_pos (by omega)
  rw [roundPack, exact_]
  exact (congrArg _ (by simp)).trans (rangeCheck_inside lo hi)

/-! ### Codes and their values (R67, R68, R142) -/

theorem wrapInt_lt (n : Nat) (l : Int) : wrapInt n l < 2 ^ n := by
  have := Int.emod_lt_of_pos l (b := (2 ^ n : Nat)) (by exact_mod_cast Nat.two_pow_pos n)
  have := Int.emod_nonneg l (b := (2 ^ n : Nat)) (by exact_mod_cast (Nat.two_pow_pos n).ne')
  rw [wrapInt]; omega

theorem signed_wrapInt (lo : -(2 ^ (m.log - 1)) ≤ l) (hi : l < 2 ^ (m.log - 1)) : signed m.log (wrapInt m.log l) = l := by
  rw [signed, Nat.mod_eq_of_lt (wrapInt_lt _ _), wrapInt]
  cases m <;> simp only [LnFmt.log] at * <;> push_cast <;> split_ifs <;> omega

/-- The sign, the bit of the special values and the log of a code. -/
theorem code_fields (m : LnFmt) (s z : Bool) {w : Nat} (h : w < 2 ^ m.log) :
    let c := s.toNat * 2 ^ (m.log + 1) + z.toNat * 2 ^ m.log + w
    field c (m.log + 1) 1 = s.toNat ∧ field c m.log 1 = z.toNat ∧ field c 0 m.log = w := by
  have := s.toNat_lt
  have := z.toNat_lt
  cases m <;> simp only [field, LnFmt.log] at * <;> omega

theorem lnVal_fields (m : LnFmt) (s z : Bool) {w : Nat} (h : w < 2 ^ m.log) :
    lnVal m (s.toNat * 2 ^ (m.log + 1) + z.toNat * 2 ^ m.log + w) =
      if z then (if w = 0 then .zero s else if w = 2 ^ (m.log - 1) - 1 then .inf s else .nan) else .fin s (signed m.log w) := by
  obtain ⟨sign, special, log⟩ := code_fields m s z h
  rw [lnVal, sign, special, log]
  cases s <;> cases z <;> rfl

theorem lnVal_lnCode_fin (s : Bool) (lo : -(2 ^ (m.log - 1)) ≤ l) (hi : l < 2 ^ (m.log - 1)) : lnVal m (lnCode m (.fin s l)) = .fin s l := by
  have := lnVal_fields m s false (wrapInt_lt m.log l)
  rw [signed_wrapInt lo hi] at this
  simpa [lnCode] using this

@[simp] theorem lnVal_lnCode_zero (m : LnFmt) (s : Bool) : lnVal m (lnCode m (.zero s)) = .zero s := by
  simpa [lnCode] using lnVal_fields m s true (Nat.two_pow_pos m.log)

@[simp] theorem lnVal_lnCode_inf (m : LnFmt) (s : Bool) : lnVal m (lnCode m (.inf s)) = .inf s := by
  cases m <;> cases s <;> rfl

theorem lnClass_of_nan {c : Nat} (hc : c < 2 ^ m.bits) (h : lnVal m c = .nan) : lnClass m c = if c = lnCode m .nan then 192 else 64 := by
  rw [lnClass, h, Nat.mod_eq_of_lt hc]

/-! ### The helpers of R146 -/

theorem bitLength_eq {n e v : Nat} (he : e < n) (lo : 2 ^ e ≤ v) (hi : v < 2 ^ (e + 1)) : bitLength n v = e + 1 := by
  induction n generalizing e v with
  | zero => omega
  | succ n ih =>
    have : v ≠ 0 := ((Nat.two_pow_pos e).trans_le lo).ne'
    rw [bitLength, if_neg this]
    cases e with
    | zero =>
      obtain rfl : v = 1 := by omega
      cases n <;> rfl
    | succ e => rw [ih (by omega : e < n) (by omega) (by omega), Nat.add_comm]

/-- The first entries of LOGTAB and ALOGTAB are exact. -/
theorem log40_zero : log40 0 = 0 := by decide +kernel

theorem alog40_zero : alog40 0 = 2 ^ 40 := by decide +kernel

theorem lnParts_integer {f : Nat} (h : (lnParts f l).2.2 = 0) : (lnParts f l).1 = 2 ^ 40 :=
  calc (lnParts f l).1
    _ = (alog40 ((lnParts f l).2.2 * 2 ^ (30 - f))).toNat := rfl
    _ = (alog40 0).toNat := by rw [h, Nat.zero_mul]
    _ = 2 ^ 40 := by rw [alog40_zero]; rfl

theorem fx2ln_eq {v n : Nat} (z : Int) (hn : n < 128) (lo : 2 ^ n ≤ v) (hi : v < 2 ^ (n + 1)) :
    fx2ln v z = (n - z) * 2 ^ 40 + log40 ((v - 2 ^ n) * 2 ^ 30 / 2 ^ n) := by
  rw [fx2ln, bitLength_eq hn lo hi]
  rfl

theorem fx2ln_two_pow {n : Nat} (z : Int) (hn : n < 128) : fx2ln (2 ^ n) z = (n - z) * 2 ^ 40 := by
  rw [fx2ln_eq z hn le_rfl (Nat.pow_lt_pow_succ (by decide)), Nat.sub_self, Nat.zero_mul, Nat.zero_div, log40_zero, Int.add_zero]

/-- LN8 drops five of the 40 fraction bits before it rounds, the other formats none. -/
theorem lnFinish_eq (m : LnFmt) (k : Rounding) (neg : Bool) (t : Int) : lnFinish m k neg t = match m with
    | .ln8 => roundPack m k neg (t / 2 ^ 5) 32
    | .ln16 => roundPack m k neg t 31
    | .ln32 => roundPack m k neg t 18 := by
  cases m with
  | ln8 => rfl
  | ln16 => exact congrArg (roundPack .ln16 k neg · 31) (Int.ediv_one t)
  | ln32 => exact congrArg (roundPack .ln32 k neg · 18) (Int.ediv_one t)

/-! ### Turns and conversions (R143, R149) -/

/-- The quadrants of the turns are 0 to 3, so the even ones are 0 and 2. -/
theorem turnsResult_eq (cos s : Bool) (m : LnFmt) (k : Rounding) {q0 : Nat} (hq : q0 < 2 ^ 30) : turnsResult cos s m k q0 =
    let q := if cos then (q0 + 2 ^ 28) % 2 ^ 30 else q0
    let r := q % 2 ^ 28
    let v := (sin30 (if q / 2 ^ 28 = 0 ∨ q / 2 ^ 28 = 2 then r else 2 ^ 28 - r)).toNat
    if v = 0 then (.zero false, 0) else lnFinish m k (decide (2 ≤ q / 2 ^ 28) != (s && !cos)) (fx2ln v 40) := by
  have inside : (if cos then (q0 + 2 ^ 28) % 2 ^ 30 else q0) < 2 ^ 30 := by split <;> omega
  have even (q : Nat) (hq : q < 2 ^ 30) : (q / 2 ^ 28 % 2 = 0) = (q / 2 ^ 28 = 0 ∨ q / 2 ^ 28 = 2) := propext (by omega)
  simp only [turnsResult, even _ inside]

theorem lnConvert_special {v : LnVal} (h : ∀ n z, v ≠ .fin n z) (src dst : LnFmt) (k : Rounding) : lnConvert src dst k v = (v, 0) := by
  cases v with
  | fin n z => exact absurd rfl (h n z)
  | _ => rfl

theorem lnConvert_widens {src dst : LnFmt} (h : src.frac ≤ dst.frac) (k : Rounding) (s : Bool) (l : Int) :
    lnConvert src dst k (.fin s l) = (.fin s (l * 2 ^ (dst.frac - src.frac)), 0) := by
  simp [lnConvert, h]

theorem lnConvert_narrows {src dst : LnFmt} (h : dst.frac < src.frac) (k : Rounding) (s : Bool) (l : Int) :
    let r := roundPack dst k s l (src.frac - dst.frac)
    lnConvert src dst k (.fin s l) = (r.1, r.2 ||| (if l % 2 ^ (src.frac - dst.frac) ≠ 0 ∨ r.2 ≠ 0 then flIX else 0)) := by
  simp [lnConvert, Nat.not_le.2 h, flagIf]

end Sys2Proof.Machine
end

section
-- One proof is elaborated at a time: the check bounds the threads of the whole text.
set_option Elab.async false
/-! SUPPORT for O11: the unary LN words complete, by the shape of their meaning (R140). -/

namespace Sys2Proof.Machine

variable {s : State} {x : Issue} {i : Instr} {d a : BitVec 8} {f : BitVec 2} {m dst : LnFmt} {least n : Nat} {rounds : Bool}
  {g : LnFmt → Issue → Nat → Word → Word × BitVec 9} {h : LnFmt → Issue → Nat → LnVal → LnVal × BitVec 9}

/-- A format field that names a format is not the unlisted code. -/
theorem lnFmtOf_listed (hm : lnFmtOf f.toNat = some m) : (f == 3) = false :=
  beq_eq_false_iff_ne.2 fun h => by subst h; cases hm

theorem setActiveFlags_quiet {v : Nat → Word × BitVec 9} {r : Arch} (quiet : ∀ l, (v l).2 = 0) : (setActiveFlags x n v r).2 = [] := by
  simp [setActiveFlags, quiet]

section Words

variable (hi : Issues s x) (hr : Usable x [vN d, vN a]) (hm : lnFmtOf f.toNat = some m)
include hi hr hm

/-- A unary LN word writes its function of the operand in the format that its function byte names, and raises its flags. -/
theorem lun_completes (hx : exec i s = lun least rounds d a f g s) (hl : least ≤ f.toNat) (hh : Hinted x none rounds false false) :
    CompletesFlags i s x rounds (setActiveFlags x d.toNat (fun l => g m x l (x.arch.getV a.toNat l)) x.arch) := by
  intro untrapped flagged
  have listed : (decide (f.toNat < least) || f == 3) = false := by rw [lnFmtOf_listed hm, decide_eq_false (by omega)]; rfl
  have format : (lnFmtOf f.toNat).getD .ln8 = m := by rw [hm]; rfl
  rw [hx, lun, format]
  cases rounds with
  | false =>
    obtain ⟨hd, ht⟩ := passes_checks (u := { illegal := f.toNat < least || f == 3, reads := [vN a], writes := [vN d] }) hr hh (limm_none _)
      ⟨listed, rfl⟩ ⟨rfl, rfl⟩ ⟨rfl, rfl⟩ (by simp [Use.regs])
    exact issueArch_completes hi hd ht untrapped
  | true =>
    obtain ⟨hd, ht⟩ := passes_checks (u := roundUse { illegal := f.toNat < least || f == 3, reads := [vN a], writes := [vN d] }) hr hh
      (limm_none _) ⟨listed, rfl⟩ ⟨rfl, rfl⟩ ⟨rfl, rfl⟩ (by simp [Use.regs, roundUse])
    exact issueArch_completes hi hd ht untrapped

/-- A unary LN word whose function raises no flag. -/
theorem lun_completes_quiet (hx : exec i s = lun least false d a f g s) (hl : least ≤ f.toNat) (hh : Hinted x none false false false)
    (quiet : ∀ l w, (g m x l w).2 = 0) :
    Completes i s x (setActiveFlags x d.toNat (fun l => g m x l (x.arch.getV a.toNat l)) x.arch).1 := by
  have none_ := setActiveFlags_quiet (x := x) (n := d.toNat) (r := x.arch) fun l => quiet l (x.arch.getV a.toNat l)
  have completes := lun_completes hi hr hm hx hl hh (by rw [none_]; exact fun _ h => absurd h List.not_mem_nil)
  rw [none_] at completes
  exact completes

/-- A unary LN word from a value to a value of the same format. -/
theorem lunValue_completes (hx : exec i s = lunValue least rounds d a f h s) (hl : least ≤ f.toNat) (hh : Hinted x none rounds false false) :
    CompletesFlags i s x rounds (setActiveFlags x d.toNat (fun l =>
      lnResult m (h m x l (lnVal m (x.arch.getV a.toNat l).toNat))) x.arch) :=
  lun_completes (g := fun m x l w => lnResult m (h m x l (lnVal m w.toNat))) hi hr hm hx hl hh

/-- A unary LN word from a value to a value whose function raises no flag. -/
theorem lunValue_completes_quiet (hx : exec i s = lunValue least false d a f h s) (hl : least ≤ f.toNat)
    (hh : Hinted x none false false false) (quiet : ∀ l v, (h m x l v).2 = 0) :
    Completes i s x (setActiveFlags x d.toNat (fun l =>
      lnResult m (h m x l (lnVal m (x.arch.getV a.toNat l).toNat))) x.arch).1 :=
  lun_completes_quiet (g := fun m x l w => lnResult m (h m x l (lnVal m w.toNat))) hi hr hm hx hl hh fun l w => quiet l (lnVal m w.toNat)

/-- A conversion to a format writes the converted value (R143). -/
theorem lnCvt_completes (hx : exec i s = lnCvt dst d a f s) (hh : Hinted x none true false false) :
    CompletesFlags i s x true (setActiveFlags x d.toNat (fun l =>
      lnResult dst (lnConvert m dst (x.rounding l 0) (lnVal m (x.arch.getV a.toNat l).toNat))) x.arch) :=
  lun_completes (g := fun m x l w => lnResult dst (lnConvert m dst (x.rounding l 0) (lnVal m w.toNat))) hi hr hm hx (Nat.zero_le _) hh

/-- LUNPK writes the value of the byte that it names (R144). -/
theorem lnUnpack_completes (hx : exec i s = lnUnpack n d a f s) (hf : 1 ≤ f.toNat) (hh : Hinted x none false false false) :
    CompletesFlags i s x false (setActiveFlags x d.toNat (fun l =>
      lnResult m (lnConvert .ln8 m x.plain (lnVal .ln8 ((x.arch.getV a.toNat l).toNat / 2 ^ (8 * n) % 256)))) x.arch) :=
  lun_completes (g := fun m x _ w => lnResult m (lnConvert .ln8 m x.plain (lnVal .ln8 (field w.toNat (8 * n) 8)))) hi hr hm hx hf hh

end Words

end Sys2Proof.Machine
end

section
-- One proof is elaborated at a time: the check bounds the threads of the whole text.
set_option Elab.async false
/-! PROOF of O11: the unary LN words, and the values of their functions. -/

open Sys2Proof Sys2Proof.Machine

/-- Settles O11. The words complete by their shape (`lun_completes` and its kin). The special operands are the lines of the functions'
definitions; the exact cases rest on `roundPack_even`, `lnParts_integer` and `fx2ln_two_pow`, the turns on `turnsResult_eq`, the classes
on the values of codes, and the limits on the range check. -/
theorem lnUnaryResults : Obligations.LnUnaryResults := by
  unfold Obligations.LnUnaryResults
  refine ⟨fun s x d a f m hi hr hm => ?words, fun m k erratum s l lo hi => ?values⟩
  case words =>
    intro A V R writes
    have zero := Nat.zero_le f.toNat
    have one (h : f ≠ 0) : 1 ≤ f.toNat := Nat.one_le_iff_ne_zero.2 fun h0 => h (BitVec.eq_of_toNat_eq h0)
    have word {i least rounds g} (hx : exec i s = lun least rounds d a f g s) := lun_completes hi hr hm hx
    have quiet {i least g} (hx : exec i s = lun least false d a f g s) := lun_completes_quiet hi hr hm hx
    have value {i least rounds h} (hx : exec i s = lunValue least rounds d a f h s) := lunValue_completes hi hr hm hx
    have valueQuiet {i least h} (hx : exec i s = lunValue least false d a f h s) := lunValue_completes_quiet hi hr hm hx
    refine ⟨fun hh => ⟨(valueQuiet (exec_lneg d a f s) zero hh fun _ _ => rfl :), (valueQuiet (exec_labs d a f s) zero hh fun _ _ => rfl :),
        (value (exec_lrcp d a f s) zero hh :), (value (exec_lsqr d a f s) zero hh :), (quiet (exec_lclass d a f s) zero hh fun _ _ => rfl :),
        (quiet (exec_lgetl d a f s) zero hh fun _ _ => rfl :), (word (exec_lmkl d a f s) zero hh :), fun hf i n hin => ?unpack⟩,
      fun hh => ⟨?root, (value (exec_lrsqrt d a f s) zero hh :),
        fun hf => ⟨(value (exec_lexp2 d a f s) (one hf) hh :), (value (exec_llog2 d a f s) (one hf) hh :),
          (value (exec_lexp d a f s) (one hf) hh :), (value (exec_lsint d a f s) (one hf) hh :),
          (value (exec_lcost d a f s) (one hf) hh :)⟩, fun i dst hid => ?convert⟩⟩
    case unpack =>
      simp only [List.mem_cons, Prod.mk.injEq, List.not_mem_nil, or_false] at hin
      obtain ⟨rfl, rfl⟩ | ⟨rfl, rfl⟩ | ⟨rfl, rfl⟩ | ⟨rfl, rfl⟩ := hin
      · exact lnUnpack_completes hi hr hm (exec_lunpk0 d a f s) (one hf) hh
      · exact lnUnpack_completes hi hr hm (exec_lunpk1 d a f s) (one hf) hh
      · exact lnUnpack_completes hi hr hm (exec_lunpk2 d a f s) (one hf) hh
      · exact lnUnpack_completes hi hr hm (exec_lunpk3 d a f s) (one hf) hh
    case root =>
      have completes := value (exec_lsqrt d a f s) zero hh
      simpa only [List.contains_eq_mem] using completes
    case convert =>
      simp only [List.mem_cons, Prod.mk.injEq, List.not_mem_nil, or_false] at hid
      obtain ⟨rfl, rfl⟩ | ⟨rfl, rfl⟩ | ⟨rfl, rfl⟩ := hid
      · exact lnCvt_completes hi hr hm (exec_lcvtLn8 d a f s) hh
      · exact lnCvt_completes hi hr hm (exec_lcvtLn16 d a f s) hh
      · exact lnCvt_completes hi hr hm (exec_lcvtLn32 d a f s) hh
  case values =>
    intro one y e u signed
    have halves : (-(2 ^ (m.log - 1)) ≤ l / 2 ∧ l / 2 < 2 ^ (m.log - 1)) ∧ -(2 ^ (m.log - 1)) ≤ -l / 2 ∧ -l / 2 < 2 ^ (m.log - 1) := by
      cases m <;> simp only [LnFmt.log] at lo hi ⊢ <;> omega
    obtain ⟨root, reciprocal⟩ := halves
    refine ⟨⟨rfl, rfl, rfl, lnParts_integer⟩, fun v z => rfl, fun v n z hn low high => ⟨fx2ln_eq z hn low high, ?power⟩, lnFinish_eq m k,
      ⟨rfl, rfl, rfl, rfl, rfl, rfl, rfl, fun he => roundPack_even he root.1 root.2⟩,
      ⟨rfl, rfl, rfl, rfl, rfl, rfl, fun he => roundPack_even (by omega) reciprocal.1 reciprocal.2⟩, ?exponentials, rfl, rfl,
      ⟨rfl, rfl, rfl, rfl, rfl, rfl, fun hl => if_neg hl⟩, fun cos => ⟨rfl, rfl, rfl, turnsResult_eq cos s m k (Nat.mod_lt _ (by decide))⟩,
      ?classes, ⟨rangeCheck_inside lo hi, fun z => rangeCheck_above, fun z => rangeCheck_below⟩,
      fun dst => ⟨fun v hv => lnConvert_special hv m dst k, fun h => lnConvert_widens h k s l, fun h => lnConvert_narrows h k s l⟩⟩
    case power => rintro rfl; exact fx2ln_two_pow z hn
    case exponentials => rintro f (rfl | rfl) <;> exact ⟨rfl, rfl, rfl, rfl⟩
    case classes =>
      have finite (b : Bool) : lnVal m (lnCode m (.fin b l)) = .fin b l := lnVal_lnCode_fin b lo hi
      exact ⟨by rw [lnClass, lnVal_lnCode_inf], by rw [lnClass, finite], by rw [lnClass, lnVal_lnCode_zero],
        by rw [lnClass, lnVal_lnCode_zero], by rw [lnClass, finite], by rw [lnClass, lnVal_lnCode_inf], fun c hc => lnClass_of_nan hc⟩

end

section
-- One proof is elaborated at a time: the check bounds the threads of the whole text.
set_option Elab.async false
/-! SUPPORT for O9 and O10: codes, the multiply class, rounding and sums (R67 to R76, R93 to R96). -/

namespace Sys2Proof.Machine

variable {m : LnFmt} {k : Rounding} {s sa sb : Bool} {l la lb : Int} {c w : Nat}

/-! ### Codes and their values (R67, R68) -/

/-- Every code is a sign, the bit of the special values, and a log. -/
theorem exists_code_fields (hc : c < 2 ^ m.bits) :
    ∃ s z : Bool, ∃ w < 2 ^ m.log, c = s.toNat * 2 ^ (m.log + 1) + z.toNat * 2 ^ m.log + w := by
  have bit {n : Nat} (h : n < 2) : (n == 1).toNat = n := by interval_cases n <;> rfl
  refine ⟨c / 2 ^ (m.log + 1) == 1, c / 2 ^ m.log % 2 == 1, c % 2 ^ m.log, Nat.mod_lt _ (Nat.two_pow_pos _), ?_⟩
  rw [bit (Nat.div_lt_of_lt_mul (by rwa [← Nat.pow_succ])), bit (Nat.mod_lt _ (by decide))]
  cases m <;> simp only [LnFmt.log] <;> omega

theorem wrapInt_signed (h : w < 2 ^ m.log) : wrapInt m.log (signed m.log w) = w := by
  rw [signed, Nat.mod_eq_of_lt h, wrapInt]
  cases m <;> simp only [LnFmt.log] at * <;> split_ifs <;> omega

/-- A code that is no NaN is the code of its value. -/
theorem lnCode_lnVal (hc : c < 2 ^ m.bits) (h : lnVal m c ≠ .nan) : lnCode m (lnVal m c) = c := by
  obtain ⟨s, z, w, hw, rfl⟩ := exists_code_fields hc
  rw [lnVal_fields m s z hw] at h ⊢
  cases z with
  | false => simp [lnCode, wrapInt_signed hw]
  | true =>
    rw [if_pos rfl] at h ⊢
    split_ifs at h ⊢ with zero inf
    · simp [lnCode, zero]
    · simp [lnCode, inf]
    · exact absurd rfl h

/-! ### The multiply class (R72, R73, R136) -/

theorem lnMul_fin (m : LnFmt) (k : Rounding) (sa sb : Bool) (la lb : Int) :
    lnMul m k (.fin sa la) (.fin sb lb) = rangeCheck m k (sa != sb) (la + lb) := by
  simp [lnMul, lnProduct, lnRange]

theorem lnScale_fin (m : LnFmt) (k : Rounding) (n : Int) (s : Bool) (l : Int) :
    lnScale m k n (.fin s l) = rangeCheck m k s (l + n * 2 ^ m.frac) := by
  simp [lnScale]

/-! ### Rounding (R75, R76, R96) -/

/-- When a remainder of at most 32 bits rounds up, mode by mode. -/
theorem roundsUp_iff {neg : Bool} {lo : Int} {phi : Nat} (hk : k.mode ≤ 4) (hw : w ≤ 32) : roundsUp k neg lo phi w = true ↔
    phi ≠ 0 ∧ (k.mode = 0 ∧ (2 ^ w < 2 * phi ∨ (2 * phi = 2 ^ w ∧ lo % 2 = 1)) ∨ (k.mode = 2 ∧ neg = false)
      ∨ (k.mode = 3 ∧ neg = true) ∨ (k.mode = 4 ∧ k.r < phi * 2 ^ (32 - w))) := by
  have scaled : phi * 2 ^ 32 / 2 ^ w = phi * 2 ^ (32 - w) := by
    rw [Nat.mul_div_assoc _ (Nat.pow_dvd_pow 2 hw), Nat.pow_div hw (by decide)]
  unfold roundsUp
  rw [scaled]
  obtain ⟨mode, inf, flush, r⟩ := k
  by_cases h : phi = 0
  · simp [h]
  · simp only at hk
    interval_cases mode <;> simp [h]

/-- round_pack as the greater or the lesser neighbour of the log. -/
theorem roundPack_eq {neg : Bool} {t : Int} (hk : k.mode ≤ 4) (hw : w ≤ 32) : roundPack m k neg t w =
    let lo := t / 2 ^ w
    let phi := (t % 2 ^ w).toNat
    let up := phi ≠ 0 ∧ (k.mode = 0 ∧ (2 ^ w < 2 * phi ∨ (2 * phi = 2 ^ w ∧ lo % 2 = 1)) ∨ (k.mode = 2 ∧ neg = false)
      ∨ (k.mode = 3 ∧ neg = true) ∨ (k.mode = 4 ∧ k.r < phi * 2 ^ (32 - w)))
    rangeCheck m k neg (if up then lo + 1 else lo) := by
  have power : ((2 ^ w : Nat) : Int) = 2 ^ w := by push_cast; rfl
  have neighbour {c : Bool} {p : Prop} [Decidable p] (lo : Int) (h : c = true ↔ p) :
      lo + (if c then 1 else 0) = if p then lo + 1 else lo := by
    by_cases hp : p <;> simp [h, hp]
  rw [roundPack, power, neighbour _ (roundsUp_iff hk hw)]

/-- Guard bits that are all zero are dropped. -/
theorem roundPack_whole (m : LnFmt) (k : Rounding) (neg : Bool) (l : Int) (w : Nat) :
    roundPack m k neg (l * 2 ^ w) w = rangeCheck m k neg l := by
  have power : (2 ^ w : Int) = (2 ^ w : Nat) := by push_cast; rfl
  have nonzero : ((2 ^ w : Nat) : Int) ≠ 0 := by positivity
  rw [roundPack, power, Int.mul_ediv_cancel _ nonzero, Int.mul_emod_left]
  exact congrArg _ (Int.add_zero l)

theorem guardBits_le (m : LnFmt) : m.guardBits ≤ 32 := by cases m <;> decide

theorem cutoff_pos (m : LnFmt) : 0 < m.cutoff := by cases m <;> decide

/-! ### Sums (R94, R95) -/

/-- The sum of two finite values, by the one of the greater log, here the first. -/
theorem addFinite_of_le (h : lb ≤ la) : addFinite m k sa la sb lb =
    let d := (la - lb).toNat
    if m.cutoff ≤ d then rangeCheck m k sa la
    else if sa = sb then roundPack m k sa (la * 2 ^ m.guardBits + gaussSb m d) m.guardBits
    else if d = 0 then (.zero (k.mode == 3), 0)
    else
      let r := roundPack m k sa (la * 2 ^ m.guardBits + gaussDb m d) m.guardBits
      (r.1, r.2 ||| (if 2 * d < 2 ^ m.frac then flNC else 0)) := by
  have distance : (la - lb).natAbs = (la - lb).toNat := by omega
  have half (d : Nat) : d < 2 ^ (m.frac - 1) ↔ 2 * d < 2 ^ m.frac := by cases m <;> simp only [LnFmt.frac] <;> omega
  simp [addFinite, h, distance, flagIf, half]

theorem addFinite_comm (m : LnFmt) (k : Rounding) (sa sb : Bool) (la lb : Int) :
    addFinite m k sa la sb lb = addFinite m k sb lb sa la := by
  have distance : (lb - la).natAbs = (la - lb).natAbs := by omega
  rcases lt_trichotomy la lb with h | rfl | h
  · simp [addFinite, distance, h.not_ge, h.le, eq_comm]
  · by_cases same : sa = sb
    · rw [same]
    · simp [addFinite, same, Ne.symm same, (cutoff_pos m).ne']
  · simp [addFinite, distance, h.not_ge, h.le, eq_comm]

theorem lnAdd_comm (m : LnFmt) (k : Rounding) (a b : LnVal) : lnAdd m k a b = lnAdd m k b a := by
  cases a with
  | nan => cases b <;> rfl
  | inf x => cases b with
    | inf y => cases x <;> cases y <;> rfl
    | _ => rfl
  | zero x => cases b with
    | zero y => cases x <;> cases y <;> rfl
    | _ => rfl
  | fin sa la => cases b with
    | fin sb lb => exact addFinite_comm m k sa sb la lb
    | _ => rfl

/-- Opposite finite values cancel to the zero of their mode. -/
theorem addFinite_opposite (m : LnFmt) (k : Rounding) (s : Bool) (l : Int) :
    addFinite m k s l (!s) l = (.zero (k.mode == 3), 0) := by
  have far : ¬m.cutoff ≤ 0 := (cutoff_pos m).not_ge
  simp [addFinite_of_le (le_refl l), far]

/-- The table's value at equal logs is one whole unit of the log. -/
theorem gaussSb_zero (m : LnFmt) : gaussSb m 0 = 2 ^ m.frac * 2 ^ m.guardBits := by cases m <;> decide +kernel

/-- x + x is 2x. -/
theorem addFinite_self (m : LnFmt) (k : Rounding) (s : Bool) (l : Int) :
    addFinite m k s l s l = rangeCheck m k s (l + 2 ^ m.frac) := by
  have far : ¬m.cutoff ≤ 0 := (cutoff_pos m).not_ge
  rw [addFinite_of_le (le_refl l), sub_self, Int.toNat_zero]
  simp only [if_neg far, if_true]
  rw [gaussSb_zero, ← add_mul, roundPack_whole]

end Sys2Proof.Machine
end

section
-- One proof is elaborated at a time: the check bounds the threads of the whole text.
set_option Elab.async false
/-! SUPPORT for O9: the accesses to the tables (R97 to R101, R106). -/

namespace Sys2Proof.Machine

/-- The quadratic of R99, in the coefficients of its line. -/
theorem quad_eq (y : Nat → Int) (j r rr : Nat) : quad y j r rr =
    let a1 := 4 * y (2 * j + 1) - 3 * y (2 * j) - y (2 * j + 2)
    let a2 := 2 * y (2 * j) - 4 * y (2 * j + 1) + 2 * y (2 * j + 2)
    (y (2 * j) * 2 ^ (2 * rr) + a1 * r * 2 ^ rr + a2 * r * r) / 2 ^ (2 * rr - 10) := by
  simp only [quad]
  push_cast
  congr 1
  ring

theorem sin30_eq {v : Nat} (h : v ≠ 2 ^ 28) : sin30 v = quad sinEntry (v / 2 ^ 20) (v % 2 ^ 20) 20 := if_neg h

theorem gaussSb_ln32 (d : Nat) : gaussSb .ln32 d = quad (fun j => sbEntry 30 (2 * j)) (d / 2 ^ 15) (d % 2 ^ 15) 15 := rfl

theorem gaussDb_ln16 {d : Nat} (h : 2 ^ 9 ≤ d) : gaussDb .ln16 d = linear16 (fun j => dbEntry 16 (512 + 32 * j)) (d / 32 - 16) (d % 32) :=
  if_neg h.not_gt

theorem gaussDb_ln32 {d : Nat} (h : 2 ^ 22 ≤ d) :
    gaussDb .ln32 d = quad (fun j => dbEntry 30 (512 + 2 * j)) (d / 2 ^ 15 - 128) (d % 2 ^ 15) 15 := if_neg h.not_gt

/-- The near-cancellation path takes the log of the difference's significant bits (R101). -/
theorem gaussDb_ln16_near {d e : Nat} (lo : 2 ^ e ≤ d) (hi : d < 2 ^ (e + 1)) (he : e < 9) :
    gaussDb .ln16 d = (e - 9) * 2 ^ 21 + log40 ((d - 2 ^ e) * 2 ^ (30 - e)) / 2 ^ 19
      + linear16 (fun j => crEntry 16 (32 * j)) (d / 32) (d % 32) := by
  have near : d < 2 ^ 9 := hi.trans_le (Nat.pow_le_pow_right (by decide) he)
  rw [gaussDb, if_pos near]
  unfold gaussNc
  rw [bitLength_eq (by omega : e < 40) lo hi]
  rfl

theorem gaussDb_ln32_near {d e : Nat} (lo : 2 ^ e ≤ d) (hi : d < 2 ^ (e + 1)) (he : e < 22) :
    gaussDb .ln32 d = (e - 22) * 2 ^ 40 + log40 ((d - 2 ^ e) * 2 ^ (30 - e))
      + quad (fun j => crEntry 30 (16 * j)) (d / 2 ^ 18) (d % 2 ^ 18) 18 := by
  have near : d < 2 ^ 22 := hi.trans_le (Nat.pow_le_pow_right (by decide) he)
  rw [gaussDb, if_pos near]
  unfold gaussNc
  rw [bitLength_eq (by omega : e < 40) lo hi]
  rfl

end Sys2Proof.Machine
end

section
-- One proof is elaborated at a time: the check bounds the threads of the whole text.
set_option Elab.async false
/-! PROOF of O9: the arithmetic of LN values. -/

open Sys2Proof Sys2Proof.Machine

/-- Settles O9: codes by their fields (`lnCode_lnVal`), the multiply class by the range check, sums by the greater log (`addFinite_of_le`)
and its rounding (`roundPack_eq`), the tables access by access (`quad_eq`), and the printed entries by their computation. -/
theorem lnArithmeticRules : Obligations.LnArithmeticRules := by
  unfold Obligations.LnArithmeticRules
  refine ⟨⟨fun m c => lnCode_lnVal, fun m s l lo hi => lnVal_lnCode_fin s lo hi, ?landmarks⟩, fun m k sa sb la lb => ?products,
    fun m k v sa sb l lo hi => ?special, fun m k sa sb la lb hk lo hi => ?sums, ?accesses, ?entries⟩
  case landmarks => decide
  case products =>
    intro range
    have checked (neg : Bool) (l : Int) : rangeCheck m k neg l = range neg l := rangeCheck_eq m k neg l
    exact ⟨(lnMul_fin ..).trans (checked ..), checked .., checked .., checked .., (lnScale_fin ..).trans (checked ..),
      rfl, rfl, rfl, rfl, rfl, rfl, rfl, rfl, rfl⟩
  case special =>
    have whole : rangeCheck m k sa l = (.fin sa l, 0) := rangeCheck_inside lo hi
    refine ⟨rfl, ?_, ?_, ?_, rfl, rfl, rfl, rfl, ?_, ?_, whole, whole, addFinite_opposite m k sa l⟩
    · cases v <;> rfl
    all_goals cases sa <;> rfl
  case sums =>
    intro range pack w d
    have checked (neg : Bool) (l : Int) : rangeCheck m k neg l = range neg l := rangeCheck_eq m k neg l
    have packed (neg : Bool) (t : Int) {v : Nat} (hv : v ≤ 32) : roundPack m k neg t v = pack neg t v :=
      (roundPack_eq hk hv).trans (checked ..)
    have guarded (neg : Bool) (t : Int) : roundPack m k neg t w = pack neg t w := packed neg t (guardBits_le m)
    refine ⟨fun neg t v => packed neg t, lnAdd_comm m k, (addFinite_self m k sa la).trans (checked ..), fun h => ?_⟩
    have sum := addFinite_of_le (m := m) (k := k) (sa := sa) (sb := sb) h
    refine ⟨fun far => ?far, fun near same => ?same, fun near other distinct => ?other⟩
    case far => exact sum.trans ((if_pos far).trans (rangeCheck_inside lo hi))
    case same => exact sum.trans ((if_neg near.not_ge).trans ((if_pos same).trans (guarded ..)))
    case other =>
      intro r
      refine sum.trans ((if_neg near.not_ge).trans ((if_neg other).trans ((if_neg distinct.ne').trans ?_)))
      rw [guarded]
  case accesses =>
    intro qi line
    have quadratic (y : Nat → Int) (j r rr : Nat) : quad y j r rr = qi y j r rr := quad_eq y j r rr
    refine ⟨fun v => ⟨quadratic .., quadratic .., fun h => (sin30_eq h).trans (quadratic ..), if_pos rfl⟩,
      fun d => ⟨rfl, (gaussSb_ln32 d).trans (quadratic ..), gaussDb_ln16, fun h => (gaussDb_ln32 h).trans (quadratic ..)⟩, fun d e lo hi => ?_⟩
    intro log
    have log_eq : log40 ((d - 2 ^ e) * 2 ^ (30 - e)) = log := quadratic ..
    refine ⟨fun he => (gaussDb_ln16_near lo hi he).trans ?_, fun he => (gaussDb_ln32_near lo hi he).trans ?_⟩
    · rw [log_eq]; rfl
    · rw [log_eq, quadratic]
  case entries => decide +kernel

end

section
-- One proof is elaborated at a time: the check bounds the threads of the whole text.
set_option Elab.async false
/-! SUPPORT for O10: the two-operand LN words complete, by the shape of their meaning (R136 to R139). -/

namespace Sys2Proof.Machine

variable {s : State} {x : Issue} {i : Instr} {d a b : BitVec 8} {m : LnFmt}

/-- What holds of a word in each of its two formats. -/
theorem forall_mem_two {P : Instr → LnFmt → Prop} {i₁ i₂ : Instr} {m₁ m₂ : LnFmt} (h₁ : P i₁ m₁) (h₂ : P i₂ m₂) :
    ∀ i m, (i, m) ∈ [(i₁, m₁), (i₂, m₂)] → P i m := by
  intro i m h
  simp only [List.mem_cons, Prod.mk.injEq, List.not_mem_nil, or_false] at h
  obtain ⟨rfl, rfl⟩ | ⟨rfl, rfl⟩ := h
  · exact h₁
  · exact h₂

/-- What holds of a word in each of its three formats. -/
theorem forall_mem_three {P : Instr → LnFmt → Prop} {i₁ i₂ i₃ : Instr} {m₁ m₂ m₃ : LnFmt} (h₁ : P i₁ m₁) (h₂ : P i₂ m₂) (h₃ : P i₃ m₃) :
    ∀ i m, (i, m) ∈ [(i₁, m₁), (i₂, m₂), (i₃, m₃)] → P i m := by
  intro i m h
  obtain h | h := List.mem_cons.1 h
  · cases h; exact h₁
  · exact forall_mem_two h₂ h₃ i m h

/-- A word that raises no flag and does not round leaves its registers as they are written. -/
theorem CompletesFlags.completes {r : Arch × List (Nat × BitVec 9)} (h : CompletesFlags i s x false r) (quiet : r.2 = []) :
    Completes i s x r.1 := by
  have done := h (by rw [quiet]; exact fun _ hf => absurd hf List.not_mem_nil)
  rw [quiet] at done
  exact done

section Words

variable (hi : Issues s x) (hr : Usable x [vN d, vN a, vN b])
include hi hr

/-- A two-operand LN word writes its function of the operands and the old destination, and raises its flags. -/
theorem ln3_completes {rounds old : Bool} {f : Issue → Nat → LnVal → LnVal → LnVal → LnVal × BitVec 9}
    (hx : exec i s = ln3 m rounds old d a b f s) (hh : Hinted x none rounds false false) :
    CompletesFlags i s x rounds (setActiveFlags x d.toNat (fun l => lnResult m (f x l (lnVal m (x.arch.getV d.toNat l).toNat)
      (lnVal m (x.arch.getV a.toNat l).toNat) (lnVal m (x.arch.getV b.toNat l).toNat))) x.arch) := by
  intro untrapped flagged
  have named : ∀ r ∈ [vN a, vN b] ++ (if old then [vN d] else []) ++ [vN d], r ∈ [vN d, vN a, vN b] := by
    cases old <;> grind
  rw [hx, ln3]
  cases rounds with
  | false =>
    obtain ⟨hd, ht⟩ := passes_checks (u := { reads := [vN a, vN b] ++ (if old then [vN d] else []), writes := [vN d] }) hr hh (limm_none _)
      ⟨rfl, rfl⟩ ⟨rfl, rfl⟩ ⟨rfl, rfl⟩ (by simpa [Use.regs] using named)
    exact issueArch_completes hi hd ht untrapped
  | true =>
    obtain ⟨hd, ht⟩ := passes_checks (u := roundUse { reads := [vN a, vN b] ++ (if old then [vN d] else []), writes := [vN d] }) hr hh
      (limm_none _) ⟨rfl, rfl⟩ ⟨rfl, rfl⟩ ⟨rfl, rfl⟩ (by simpa [Use.regs, roundUse] using named)
    exact issueArch_completes hi hd ht untrapped

/-- A two-operand LN word that selects a value raises no flag. -/
theorem ln3_completes_quiet {f : LnVal → LnVal → LnVal} (hx : exec i s = ln3 m false false d a b (fun _ _ _ v w => (f v w, 0)) s)
    (hh : Hinted x none false false false) :
    Completes i s x (setActiveFlags x d.toNat (fun l => lnResult m (f (lnVal m (x.arch.getV a.toNat l).toNat)
      (lnVal m (x.arch.getV b.toNat l).toNat), 0)) x.arch).1 :=
  (ln3_completes hi hr hx hh).completes (setActiveFlags_quiet fun _ => rfl)

/-- LSCALE writes the first operand times 2 to the second, an integer (R136). -/
theorem lnScaleBy_completes (hx : exec i s = lnScaleBy m d a b s) (hh : Hinted x none false false false) :
    CompletesFlags i s x false (setActiveFlags x d.toNat (fun l =>
      lnResult m (lnScale m x.plain (x.arch.getV b.toNat l).toInt (lnVal m (x.arch.getV a.toNat l).toNat))) x.arch) := by
  intro untrapped flagged
  obtain ⟨hd, ht⟩ := passes_checks (u := { reads := [vN a, vN b], writes := [vN d] }) hr hh (limm_none _)
    ⟨rfl, rfl⟩ ⟨rfl, rfl⟩ ⟨rfl, rfl⟩ (by simp [Use.regs])
  exact hx.trans (issueArch_completes hi hd ht untrapped)

/-- LCMP writes the predicate of the active lanes (R139). -/
theorem lnCompare_completes {c : BitVec 2} {p : BitVec 6} (hp : Usable x [pN p]) (hx : exec i s = lnCompare m c p a b s)
    (hh : Hinted x none false false false) :
    Completes i s x (setActiveP x p.toNat (fun l =>
      lnHolds m c (lnVal m (x.arch.getV a.toNat l).toNat) (lnVal m (x.arch.getV b.toNat l).toNat)) x.arch) := by
  have both : Usable x ([vN d, vN a, vN b] ++ [pN p]) := fun r h => (List.mem_append.1 h).elim (hr r) (hp r)
  exact hx.trans (issueArch_regs hi both hh (limm_none _) rfl rfl rfl (fun hp => nomatch hp) rfl rfl (by simp [Use.regs]) rfl rfl)

end Words

end Sys2Proof.Machine
end

section
-- One proof is elaborated at a time: the check bounds the threads of the whole text.
set_option Elab.async false
/-! SUPPORT for O10: the values of LPOW, by the cases of R148 in their order. -/

namespace Sys2Proof.Machine

variable {k : Rounding} {a b : LnVal} {sa sb : Bool} {la lb : Int}

theorem powInteger_iff : powInteger lb = true ↔ 0 ≤ lb ∧ lb % 2 ^ 22 = 0 := by
  simp only [powInteger, Bool.or_eq_true, Bool.and_eq_true, beq_iff_eq, decide_eq_true_eq]
  omega

theorem lnPow_one_left (k : Rounding) (b : LnVal) : lnPow k lnOne b = (lnOne, 0) := by
  cases b with
  | zero => rfl
  | _ => simp only [lnPow, if_true]

theorem lnPow_nan_left (h : ∀ z, b ≠ .zero z) : lnPow k .nan b = (.nan, 0) := by
  cases b with
  | zero z => exact absurd rfl (h z)
  | _ => rfl

theorem lnPow_nan_right (h : a ≠ lnOne) : lnPow k a .nan = (.nan, 0) := by
  simp only [lnPow, if_neg h]
  cases a <;> rfl

/-- An infinite exponent: only a magnitude of exactly 1 gives 1. -/
theorem lnPow_fin_inf : lnPow k (.fin sa la) (.inf sb)
    = (if la = 0 then lnOne else if (la < 0 ↔ sb = false) then .zero false else .inf false, 0) := by
  by_cases one : LnVal.fin sa la = lnOne
  · obtain ⟨rfl, rfl⟩ : sa = false ∧ la = 0 := by simpa [lnOne] using one
    exact lnPow_one_left k _
  · simp only [lnPow, if_neg one]
    rcases lt_trichotomy la 0 with h | rfl | h
    · cases sb <;> simp [lnMagnitude, h, h.ne]
    · rfl
    · cases sb <;> simp [lnMagnitude, h.not_gt, h.ne']

/-- The rounded product of the base's log and the exponent, for finite operands in the domain. -/
theorem lnPow_fin_fin (one : LnVal.fin sa la ≠ lnOne) (domain : sa = false ∨ powInteger lb = true) :
    let mag := shiftInt (la.natAbs * (lnParts 22 lb).1) ((lnParts 22 lb).2.1 - 22)
    lnPow k (.fin sa la) (.fin sb lb) = lnFinish .ln32 k (sa && powOdd lb) (if decide (la < 0) != sb then -(mag : Int) else mag) := by
  have inside : (sa && !powInteger lb) = false := by rcases domain with h | h <;> simp [h]
  simp only [lnPow, if_neg one, inside, Bool.false_eq_true, if_false]

/-- A negative base has no power of an exponent that is no integer. -/
theorem lnPow_fin_invalid (h : powInteger lb = false) : lnPow k (.fin true la) (.fin sb lb) = (.nan, flIV) := by
  have one : LnVal.fin true la ≠ lnOne := by simp [lnOne]
  simp only [lnPow, if_neg one, h, Bool.not_false, Bool.and_self, if_true]

/-- The first power is the base. -/
theorem lnPow_first (one : LnVal.fin sa la ≠ lnOne) (lo : -(2 ^ 29) ≤ la) (hi : la < 2 ^ 29) :
    lnPow k (.fin sa la) (.fin false 0) = (.fin sa la, 0) := by
  have unit : (lnParts 22 0).1 = 2 ^ 40 := lnParts_integer rfl
  have magnitude : shiftInt (la.natAbs * 2 ^ 40) (0 - 22) = la.natAbs * 2 ^ 18 := by
    rw [shiftInt, if_neg (by decide)]
    show _ / 2 ^ 22 = _
    omega
  have log : (if decide (la < 0) != false then -((la.natAbs * 2 ^ 18 : Nat) : Int) else (la.natAbs * 2 ^ 18 : Nat)) = la * 2 ^ 18 := by
    by_cases h : la < 0
    · rw [if_pos (by simp [h])]; omega
    · rw [if_neg (by simp [h])]; omega
  rw [lnPow_fin_fin one (.inr rfl)]
  calc lnFinish .ln32 k (sa && powOdd 0) _
    _ = lnFinish .ln32 k sa (la * 2 ^ 18) := by
      rw [unit, show (lnParts 22 0).2.1 = 0 from rfl, magnitude, log, show powOdd 0 = true from rfl, Bool.and_true]
    _ = roundPack .ln32 k sa (la * 2 ^ 18) 18 := lnFinish_eq ..
    _ = rangeCheck .ln32 k sa la := roundPack_whole ..
    _ = (.fin sa la, 0) := rangeCheck_inside lo hi

end Sys2Proof.Machine
end

section
-- One proof is elaborated at a time: the check bounds the threads of the whole text.
set_option Elab.async false
/-! PROOF of O10: the two-operand LN words, and the values of LPOW. -/

open Sys2Proof Sys2Proof.Machine

/-- Settles O10. The words complete by their shape (`ln3_completes` and its kin), format by format; the values of LPOW are one lemma per
case of R148, where the definition's line is not the case itself. -/
theorem lnTwoOperandResults : Obligations.LnTwoOperandResults := by
  unfold Obligations.LnTwoOperandResults
  refine ⟨fun s x d a b hi hr => ?words, fun k a b sa sb la lb => ?powers⟩
  case words =>
    intro value writes
    refine ⟨fun hh => ?rounding, fun hh => ?plain, fun c p hp hh => ?compare⟩
    case rounding =>
      have word {i m old f} (hx : exec i s = ln3 m true old d a b f s) := ln3_completes hi hr hx hh
      exact ⟨forall_mem_three (word (exec_laddLn8 ..) :) (word (exec_laddLn16 ..) :) (word (exec_laddLn32 ..) :),
        forall_mem_three (word (exec_lsubLn8 ..) :) (word (exec_lsubLn16 ..) :) (word (exec_lsubLn32 ..) :),
        forall_mem_three (word (exec_lmadLn8 ..) :) (word (exec_lmadLn16 ..) :) (word (exec_lmadLn32 ..) :),
        (word (exec_lpowLn32 ..) :)⟩
    case plain =>
      have word {i m old f} (hx : exec i s = ln3 m false old d a b f s) := ln3_completes hi hr hx hh
      have select {i m} {f : LnVal → LnVal → LnVal} (hx : exec i s = ln3 m false false d a b (fun _ _ _ v w => (f v w, 0)) s) :=
        ln3_completes_quiet hi hr hx hh
      have scale {i m} (hx : exec i s = lnScaleBy m d a b s) := lnScaleBy_completes hi hr hx hh
      exact ⟨forall_mem_three (word (exec_lmulLn8 ..) :) (word (exec_lmulLn16 ..) :) (word (exec_lmulLn32 ..) :),
        forall_mem_two (word (exec_ldivLn16 ..) :) (word (exec_ldivLn32 ..) :),
        forall_mem_two (select (exec_lminLn16 ..) :) (select (exec_lminLn32 ..) :),
        forall_mem_two (select (exec_lmaxLn16 ..) :) (select (exec_lmaxLn32 ..) :),
        forall_mem_two (scale (exec_lscaleLn16 ..) :) (scale (exec_lscaleLn32 ..) :)⟩
    case compare =>
      have word {i m} (hx : exec i s = lnCompare m c p a b s) := lnCompare_completes hi hr hp hx hh
      exact forall_mem_two (word (exec_lcmpLn16 ..) :) (word (exec_lcmpLn32 ..) :)
  case powers =>
    intro one odd integer
    have domain : powInteger lb = true ↔ integer := powInteger_iff
    exact ⟨rfl, lnPow_one_left k b, lnPow_nan_left, lnPow_nan_right, ⟨lnPow_fin_inf, rfl, rfl⟩, rfl, rfl,
      fun h => lnPow_fin_invalid (Bool.eq_false_iff.2 (mt domain.1 h)), fun h hd => lnPow_fin_fin h (hd.imp_right domain.2), lnPow_first⟩

end

section
-- One proof is elaborated at a time: the check bounds the threads of the whole text.
set_option Elab.async false
/-! SUPPORT for O53: machine checks, errors of tables and of memory, and the grants of power (R342, R370, R386, R393, R394, R397). -/

namespace Sys2Proof.Machine

variable {s : State} {e : Env} {u : Entry} {f : Trap} {core slot k n : Nat}

/-! ### Machine checks (R370, R386) -/

theorem Env.headTrap_eq (s : State) (cls code : Nat) (hu : e.g.arch.issuing = some u) : e.headTrap s cls code =
    { cls := cls, code := code, pc := u.pc, word := targetWord s e.l 256 u.pc.toNat, entry := u.mask } := by
  rw [Env.headTrap, hu]

@[simp] theorem Env.headTrap_cls (e : Env) (s : State) (cls code : Nat) : (e.headTrap s cls code).cls = cls := by
  rw [Env.headTrap]; split <;> rfl

@[simp] theorem Env.headTrap_took (e : Env) (s : State) (cls code : Nat) : (e.headTrap s cls code).took = false := by
  rw [Env.headTrap]; split <;> rfl

/-- A machine check that no word raised ends the task, whatever is outstanding. -/
theorem takeFault_machineCheck (he : s.env? core slot = some e) (hm : e.l.lh.mode = 0) (hc : f.cls = 17) (ht : f.took = false) :
    takeFault s core slot f = some (endTask (writeRecord s e.l (e.record f false) true) e.l.id 17) := by
  have unhandled : e.handles f = false := by rw [Env.handles, hc]; rfl
  have unmarked : f.parkWord.getLsbD 31 = false := by simp [Trap.parkWord, ht]
  rw [takeFault_ends he hm unhandled (by rw [hc]; decide) (.inr unmarked), hc]

theorem Group.fenced_eq_false {g : Group} : g.fenced = false ↔ g.fence = none ∧ g.soft = [] := by simp [Group.fenced]

theorem timingError_replays (h : s.event.num < 16) : exec .timingErrorReplay s = .next s := by
  rw [exec_timingErrorReplay, execTimingErrorReplay]
  split
  · rfl
  · rw [if_pos h]

/-- The sixteenth replay in a row ends the task of the group. -/
theorem timingError_ends (he : s.env? s.event.core s.event.slot = some e) (hn : 16 ≤ s.event.num) (hf : e.g.fenced = false)
    (hm : e.l.lh.mode = 0) :
    exec .timingErrorReplay s = .next (endTask (writeRecord s e.l (e.record (e.headTrap s 17 4) false) true) e.l.id 17) := by
  obtain ⟨hcore, hslot⟩ := State.group?_slot (State.env?_spec he).1
  rw [← hcore, ← hslot] at he
  have taken := takeFault_machineCheck he hm (e.headTrap_cls s 17 4) (e.headTrap_took s 17 4)
  rw [exec_timingErrorReplay, execTimingErrorReplay, ← hcore, ← hslot]
  simp only [he, hn.not_gt, hf, taken, if_false, Bool.false_eq_true]

/-! ### Uncorrectable errors (R370, R394) -/

/-- The machine check of the group whose table is in error (R369 code 3). -/
def Env.tableCheck (e : Env) (s : State) : Trap := { e.headTrap s 17 3 with inner := e.g.handler.isSome }

theorem uncorrectableError_table (h : s.event.site = some (.table core slot)) :
    exec .uncorrectableError s = (tableError s core slot).elim (.refused .notEnabled) .next := by
  rw [exec_uncorrectableError, execUncorrectableError, h]

/-- Any other site is struck. -/
theorem uncorrectableError_strikes {y : ErrSite} (h : s.event.site = some y) (hy : ∀ c k, y ≠ .table c k) :
    exec .uncorrectableError s = .next (strikeSite s y) := by
  rw [exec_uncorrectableError, execUncorrectableError, h]
  cases y with
  | table c k => exact absurd rfl (hy c k)
  | _ => rfl

/-- A reader past no incomplete fence takes the machine check at once. -/
theorem tableError_ends (hs : s.event.site = some (.table core slot)) (he : s.env? core slot = some e) (hp : readerPast s e.g = some false)
    (hm : e.l.lh.mode = 0) :
    exec .uncorrectableError s = .next (endTask (writeRecord s e.l (e.record (e.tableCheck s) false) true) e.l.id 17) := by
  have taken := takeFault_machineCheck (f := e.tableCheck s) he hm (e.headTrap_cls s 17 3) (e.headTrap_took s 17 3)
  rw [uncorrectableError_table hs, tableError, he, Option.bind_some, hp, Option.map_some]
  simp only [Bool.false_eq_true, if_false]
  rw [← Env.tableCheck, taken]
  rfl

/-- Past an incomplete fence the machine check is held (R218). -/
theorem tableError_holds (hs : s.event.site = some (.table core slot)) (he : s.env? core slot = some e) (hp : readerPast s e.g = some true) :
    exec .uncorrectableError s = .next (s.setGroup (e.g.holdCheck s.event.flag (e.tableCheck s))) := by
  rw [uncorrectableError_table hs, tableError, he, Option.bind_some, hp, Option.map_some]
  rfl

theorem readerPast_word (h : s.event.flag = false) (g : Group) : readerPast s g = some g.fenced := by simp [readerPast, h]

theorem readerPast_engine {g : Group} {o : MatrixOp} (h : s.event.flag = true) (ho : g.heads[s.event.num]? = some o) :
    readerPast s g = some (g.soft.any (fun w => w.next ≤ o.id)) := by simp [readerPast, h, ho]

theorem Group.holdCheck_word (g : Group) (f : Trap) : g.holdCheck false f = { g with after := f :: g.after } := by
  have same : g.fence.map (fun w => w) = g.fence := Option.map_id'
  simp only [Group.holdCheck, Bool.false_eq_true, if_false, same]

theorem Group.holdCheck_engine (g : Group) (f : Trap) : g.holdCheck true f =
    { g with after := f :: g.after, fence := g.fence.map (fun w => { w with after := f :: w.after }) } := rfl

/-- The struck sector is poisoned. -/
theorem poisonPlace_poisoned (s : State) (t : Tier) (k : Nat) :
    (s.poisonPlace (.mem t (32 * k) 0) 32).memory.poisoned t (32 * k) 1 = true := by
  simp only [Memory.poisoned, State.poisonPlace, Memory.poison_setPoison, if_true, List.any_eq_true, List.mem_eraseDups, List.mem_append,
    List.mem_map, List.mem_range]
  exact ⟨k, .inl ⟨0, by omega, by omega⟩, by simp⟩

/-- Poison changes no byte of memory. -/
theorem poisonPlace_readByte (s : State) (t t' : Tier) (a i n b : Nat) :
    (s.poisonPlace (.mem t a i) n).memory.readByte t' b = s.memory.readByte t' b := by
  simp only [Memory.readByte, State.poisonPlace, Memory.cells_setPoison]

/-! ### Grants (R342, R397) -/

theorem tokenGrants_before {j room : Nat} {m : SMap Nat} (h : j < k) : smGet 64 j (tokenGrants s n k room m) = smGet 64 j m := by
  induction n generalizing k room m with
  | zero => rfl
  | succ n ih => rw [tokenGrants, ih (by omega), smGet_smSet_other _ _ _ _ _ (by omega)]

/-- Every cluster has at least 64 tokens, and a throttled one no more. -/
theorem tokenGrants_least {j room : Nat} {m : SMap Nat} (lo : k ≤ j) (hi : j < k + n) :
    64 ≤ smGet 64 j (tokenGrants s n k room m) ∧ (j ∈ s.throttled → smGet 64 j (tokenGrants s n k room m) = 64) := by
  induction n generalizing k room m with
  | zero => omega
  | succ n ih =>
    rw [tokenGrants]
    obtain rfl | later := Nat.eq_or_lt_of_le lo
    · rw [tokenGrants_before (Nat.lt_succ_self k), smGet_smSet_same]
      exact ⟨by omega, fun h => by simp [h]⟩
    · exact ih later (by omega)

theorem readMonitors_keeps (s : State) : (readMonitors s).memory = s.memory ∧ (readMonitors s).groups = s.groups :=
  foldl_keeps (P := fun t : State => t.memory = s.memory ∧ t.groups = s.groups) ⟨rfl, rfl⟩ fun _ _ h => h

theorem powerTokenBid_next (h : s.nextBid.toNat ≤ s.tick.toNat) : exec .powerTokenBid s = .next
    { readMonitors s with
      grants := tokenGrants s Config.clusters 0 (6400 - 64 * Config.clusters) s.grants, nextBid := s.nextBid + 10000 } :=
  if_neg (BitVec.not_lt.2 h)

theorem thermalThrottle_lowers (hk : s.event.num < 12) (hot : 1600 ≤ s.event.value.toNat) (hn : s.event.num ∉ s.throttled) :
    exec .thermalThrottle s = .next { s with
      throttled := s.event.num :: s.throttled, grants := smSet 64 s.event.num 64 s.grants } := by
  have others : s.throttled.filter (fun c => c != s.event.num) = s.throttled :=
    List.filter_eq_self.2 fun c hc => bne_iff_ne.2 fun same => hn (same ▸ hc)
  have inside : ¬Config.clusters ≤ s.event.num := hk.not_ge
  rw [exec_thermalThrottle, execThermalThrottle]
  simp [inside, hot, hn, others]

theorem thermalThrottle_releases (hk : s.event.num < 12) (cool : s.event.value.toNat < 1520) (hn : s.event.num ∈ s.throttled) :
    exec .thermalThrottle s = .next { s with throttled := s.throttled.filter (fun c => c != s.event.num) } := by
  have inside : ¬Config.clusters ≤ s.event.num := hk.not_ge
  have mild : ¬1600 ≤ s.event.value.toNat := by omega
  rw [exec_thermalThrottle, execThermalThrottle]
  simp [inside, mild, cool, hn]

end Sys2Proof.Machine
end

section
-- One proof is elaborated at a time: the check bounds the threads of the whole text.
set_option Elab.async false
/-! PROOF of O53: errors, power and heat. -/

open Sys2Proof Sys2Proof.Machine

/-- Settles O53, event by event: a timing error by the number of its replays, an uncorrectable error by what it strikes, and one of a table
by whether its reader stands past an incomplete fence (`tableError_ends`, `tableError_holds`). -/
theorem errorAndPowerEvents : Obligations.ErrorAndPowerEvents := by
  unfold Obligations.ErrorAndPowerEvents
  intro s n hot
  refine ⟨timingError_replays, fun e he hn fence soft mode _ u hu => ?timing, rfl, fun t k hs => ?memory, fun core slot r g hs hg => ?register,
    fun core slot e u hs he hu => ?table, fun link hs none_ => ?unit, rfl, rfl, fun due => ?bid, thermalThrottle_lowers,
    thermalThrottle_releases, fun high => if_neg high.not_gt⟩
  case timing =>
    intro f
    have trap : e.headTrap s 17 4 = f := Env.headTrap_eq s 17 4 hu
    rw [timingError_ends he hn (Group.fenced_eq_false.2 ⟨fence, soft⟩) mode, trap]
  case memory =>
    exact ⟨_, uncorrectableError_strikes hs (by simp), poisonPlace_poisoned s t k, fun t' a => poisonPlace_readByte s t t' _ 0 32 a⟩
  case register =>
    exact (uncorrectableError_strikes hs (by simp)).trans (congrArg _ (State.mapGroup_eq hg _))
  case table =>
    intro f ends holds
    have trap : e.tableCheck s = f := by rw [Env.tableCheck, Env.headTrap_eq s 17 3 hu]
    have now (past : readerPast s e.g = some false) (mode : e.l.lh.mode = 0) : ends := by
      have ended := tableError_ends hs he past mode
      rwa [trap] at ended
    have held (past : readerPast s e.g = some true) :
        exec .uncorrectableError s = .next (s.setGroup (e.g.holdCheck s.event.flag f)) := trap ▸ tableError_holds hs he past
    refine ⟨fun word mode fence soft => now ?_ mode, fun word fenced => ?_,
      fun o engine ho => ⟨fun before mode => now ?_ mode, fun behind => ?_⟩⟩
    · rw [readerPast_word word, Group.fenced_eq_false.2 ⟨fence, soft⟩]
    · have past : e.g.fenced = true := by
        rw [← Bool.not_eq_false, Group.fenced_eq_false, not_and_or]; exact fenced
      have done := held (by rw [readerPast_word word, past])
      rwa [word, Group.holdCheck_word] at done
    · rw [readerPast_engine engine ho]
      simpa using before
    · have past : e.g.soft.any (fun w => w.next ≤ o.id) = true := by simpa using behind
      have done := held (by rw [readerPast_engine engine ho, past])
      rwa [engine] at done
  case unit =>
    have struck : strikeSite s (.unit link) = s := by rw [strikeSite, failEveryTask, none_]; rfl
    rw [uncorrectableError_strikes hs (by simp), struck]
  case bid =>
    obtain ⟨memory, groups⟩ := readMonitors_keeps s
    refine ⟨_, powerTokenBid_next due, ?_⟩
    dsimp only
    exact ⟨rfl, memory, groups, fun k hk => tokenGrants_least (n := Config.clusters) (Nat.zero_le k) (hk.trans_eq (Nat.zero_add _).symm)⟩

end

section
-- One proof is elaborated at a time: the check bounds the threads of the whole text.
set_option Elab.async false
/-! SUPPORT for O1 to O6: an integer word that passes the decoder writes what the equation of its operation says (R113 to R132). -/

namespace Sys2Proof.Machine

variable {s : State} {x : Issue} {i : Instr} {sat : Bool} {d a b i8 : BitVec 8} {e u v : BitVec 6} {y : Arch} {rs : List RegRef}

section Words

variable (hi : Issues s x)
include hi

/-- A three-vector word, by the equation of its operation (R114, R116). -/
theorem vec3_computes {old : Bool} {f : Bool → Word → Word → Word → Word} {g : Word → Word → Word → Word}
    (hr : Usable x [vN d, vN a, vN b]) (hh : Hinted x none false sat false) (hx : exec i s = vec3 sat old d a b f s)
    (hf : ∀ z w k, f x.run.sat z w k = g z w k) :
    Completes i s x (setActive x d.toNat (fun l => g (x.arch.getV d.toNat l) (x.arch.getV a.toNat l) (x.arch.getV b.toNat l)) x.arch) := by
  rw [Completes, hx, vec3_completes hi hr hh]
  simp only [hf]

/-- A three-pair word, by the equation of its operation (R115). -/
theorem vec3Pair_computes {f : Bool → BitVec 64 → BitVec 64 → BitVec 64} {g : BitVec 64 → BitVec 64 → BitVec 64}
    (hr : Usable x (vPair d ++ vPair a ++ vPair b)) (hh : Hinted x none false true false)
    (even : d.getLsbD 0 = false ∧ a.getLsbD 0 = false ∧ b.getLsbD 0 = false) (hx : exec i s = vec3Pair d a b f s)
    (hf : ∀ w k, f x.run.sat w k = g w k) :
    Completes i s x (setActive64 x d.toNat (fun l => g (x.arch.getV64 a.toNat l) (x.arch.getV64 b.toNat l)) x.arch) := by
  obtain ⟨hd, ha, hb⟩ := even
  rw [Completes, hx, vec3Pair_completes hi hr hh hd ha hb]
  simp only [hf]

/-- A vector-immediate word, by its immediate and the equation of its operation (R46, R117). -/
theorem vecImm_computes {sg : Bool} {f : Bool → Word → Word → Word} {g : Word → Word} {k : Word}
    (hr : Usable x [vN d, vN a]) (hh : Hinted x (some 0xFFFFF) false sat false) (hx : exec i s = vecImm sat sg d a i8 f s)
    (hk : immI x.run sg i8 = k) (hf : ∀ w, f x.run.sat w k = g w) :
    Completes i s x (setActive x d.toNat (fun l => g (x.arch.getV a.toNat l)) x.arch) := by
  rw [Completes, hx, vecImm_completes hi hr hh, hk]
  simp only [hf]

/-- A unary vector word, by the equation of its operation (R118). -/
theorem vec1_computes {f : Bool → Word → Word} {g : Word → Word} (hr : Usable x [vN d, vN a]) (hh : Hinted x none false sat false)
    (hx : exec i s = vec1 sat d a f s) (hf : ∀ w, f x.run.sat w = g w) :
    Completes i s x (setActive x d.toNat (fun l => g (x.arch.getV a.toNat l)) x.arch) := by
  rw [Completes, hx, vec1_completes hi hr hh]
  simp only [hf]

/-- A uniform word of two sources, by the equation of its operation (R130). -/
theorem uni2_computes {f : Bool → Word → Word → Word} {z : Word} (hr : Usable x [sN e, sN u, sN v]) (hh : Hinted x none false sat false)
    (hx : exec i s = uni2 sat e u v f s) (hf : f x.run.sat (x.arch.getS u.toNat) (x.arch.getS v.toNat) = z) :
    Completes i s x (x.arch.setS e.toNat z) := by
  rw [Completes, hx, uni2_completes hi hr hh, hf]

/-- A uniform word of one source, by the equation of its operation (R130). -/
theorem uni1_computes {f : Word → Word} {z : Word} (hr : Usable x [sN e, sN u]) (hh : Hinted x none false false false)
    (hx : exec i s = uni1 e u f s) (hf : f (x.arch.getS u.toNat) = z) : Completes i s x (x.arch.setS e.toNat z) := by
  rw [Completes, hx, uni1_completes hi hr hh, hf]

/-- A uniform word on even pairs, by the equation of its operation (R130). -/
theorem uni2Pair_computes {f : Bool → BitVec 64 → BitVec 64 → BitVec 64} {z : BitVec 64}
    (hr : Usable x (sPair e ++ sPair u ++ sPair v)) (hh : Hinted x none false true false)
    (even : e.getLsbD 0 = false ∧ u.getLsbD 0 = false ∧ v.getLsbD 0 = false) (hx : exec i s = uni2Pair e u v f s)
    (hf : f x.run.sat (x.arch.getS64 u.toNat) (x.arch.getS64 v.toNat) = z) :
    Completes i s x (x.arch.setS64 e.toNat z) := by
  obtain ⟨he, hu, hv⟩ := even
  rw [Completes, hx, uni2Pair_completes hi hr hh he hu hv, hf]

/-- A shuffle by an immediate distance, lane by lane (R125). -/
theorem shuffle_computes {up : Bool} {src : Nat → Int} {f : Nat → Word} (hr : Usable x [vN d, vN a]) (hh : Hinted x none false false false)
    (hx : exec i s = shuffle up d a src s) (plain : (up && x.e.l.kh.errata.contains 514) = false)
    (hf : ∀ l, l < 64 → (if 0 ≤ src l ∧ src l < 64 then x.arch.getV a.toNat (src l).toNat else x.arch.getV a.toNat l) = f l) :
    Completes i s x (setActive x d.toNat f x.arch) := by
  rw [Completes, hx, shuffle_completes hi hr hh, plain]
  simp only [Bool.false_eq_true, if_false]
  rw [setActive_lanes hf]

/-- A word of no shape of its own that takes no hint and whose pairs are even. -/
theorem plainWord_completes {bad : Bool} {reads writes : List RegRef} {f : Issue → Arch → Arch} (hr : Usable x rs)
    (hh : Hinted x none false false false)
    (hx : exec i s = issueArch { badReg := bad, reads := reads, writes := writes } (fun x r => (f x r, [])) s)
    (even : bad = false) (named : reads ++ writes ⊆ rs) (result : f x x.arch = y) : Completes i s x y := by
  subst even result
  exact hx.trans (issueArch_regs hi hr hh (limm_none _) rfl rfl rfl nofun rfl rfl (fun n h => named (by simpa [Use.regs] using h)) rfl rfl)

/-- A word whose 16-bit immediate a LIMM extends (R46). -/
theorem wideWord_completes {reads writes : List RegRef} {f : Issue → Arch → Arch} (hr : Usable x rs)
    (hh : Hinted x (some 0xFFFF) false sat false)
    (hx : exec i s = issueArch { limm := true, limmMask := 0xFFFF, sat := sat, reads := reads, writes := writes }
      (fun x r => (f x r, [])) s)
    (named : reads ++ writes ⊆ rs) (result : f x x.arch = y) : Completes i s x y := by
  subst result
  have takes : ∀ k : BitVec 20, some 0xFFFF = some k → true = true ∧ 0xFFFF = k := fun k hk => ⟨rfl, Option.some.inj hk⟩
  exact hx.trans (issueArch_regs hi hr hh takes rfl rfl rfl nofun rfl rfl (fun n h => named (by simpa [Use.regs] using h)) rfl rfl)

end Words

end Sys2Proof.Machine
end

section
-- One proof is elaborated at a time: the check bounds the threads of the whole text.
set_option Elab.async false
/-! PROOF of O1: the three-vector integer words. -/

open Sys2Proof Sys2Proof.Machine

/-- Settles O1: each word has the three-vector shape (`vec3_computes`), and its operation the equation of its row. -/
theorem integerVectorResults : Obligations.IntegerVectorResults := by
  unfold Obligations.IntegerVectorResults
  intro s x d a b hi hr A B D writes sat
  have word {i t old f} {g : Word → Word → Word → Word} (hh : Hinted x none false t false) (hx : exec i s = vec3 t old d a b f s)
      (hf : ∀ z v w, f x.run.sat z v w = g z v w) := vec3_computes hi hr hh hx hf
  refine ⟨fun hh => ?saturating, fun hh => ?plain⟩
  case saturating =>
    exact ⟨(word hh (exec_iadd ..) fun _ => opAdd_eq _ :), (word hh (exec_isub ..) fun _ => opSub_eq _ :),
      (word hh (exec_imul ..) fun _ => opMul_eq _ :), (word hh (exec_imad ..) (opMad_eq _) :)⟩
  case plain =>
    exact ⟨(word hh (exec_imulhS32 ..) fun _ => opMulHS_eq :), (word hh (exec_imulhN32 ..) fun _ => opMulHN_eq :),
      (word hh (exec_iminS32 ..) fun _ => opMinS_eq :), (word hh (exec_imaxS32 ..) fun _ => opMaxS_eq :),
      (word hh (exec_iminN32 ..) fun _ => opMinN_eq :), (word hh (exec_imaxN32 ..) fun _ => opMaxN_eq :),
      (word hh (exec_and ..) fun _ _ _ => rfl :), (word hh (exec_or ..) fun _ _ _ => rfl :), (word hh (exec_xor ..) fun _ _ _ => rfl :),
      (word hh (exec_shl ..) fun _ v w => opShl_eq v w.toNat :), (word hh (exec_shr ..) fun _ v w => opShr_eq v w.toNat :),
      (word hh (exec_sar ..) fun _ v w => opSar_eq v w.toNat :)⟩

end

section
-- One proof is elaborated at a time: the check bounds the threads of the whole text.
set_option Elab.async false
/-! PROOF of O2: the 64-bit sums of even pairs and the field instructions. -/

open Sys2Proof Sys2Proof.Machine

/-- Settles O2. BFE.s32 is the one field word without a shape of its own: where the code object does not list erratum 258, its operation
is that of R116. -/
theorem integerPairAndFieldResults : Obligations.IntegerPairAndFieldResults := by
  unfold Obligations.IntegerPairAndFieldResults
  intro s x d a b hi
  refine ⟨fun hr hd ha hb hh => ?pairs, fun hr hh => ?fields⟩
  case pairs =>
    have word {i f} {g : BitVec 64 → BitVec 64 → BitVec 64} (hx : exec i s = vec3Pair d a b f s) (hf : ∀ v w, f x.run.sat v w = g v w) :=
      vec3Pair_computes hi hr hh ⟨hd, ha, hb⟩ hx hf
    exact ⟨(word (exec_iadd64 ..) (opAdd64_eq _) :), (word (exec_isub64 ..) (opSub64_eq _) :)⟩
  case fields =>
    have word {i old f} {g : Word → Word → Word → Word} (hx : exec i s = vec3 false old d a b f s)
        (hf : ∀ z v w, f x.run.sat z v w = g z v w) := vec3_computes hi hr hh hx hf
    refine ⟨fun unlisted => ?signed, (word (exec_bfeN32 ..) fun _ => opBfeN_eq :), (word (exec_bfi ..) opBfi_eq :)⟩
    case signed =>
      have erratum : x.e.l.kh.errata.contains 258 = false := by simpa using unlisted
      refine plainWord_completes hi hr hh (exec_bfeS32 ..) rfl (by simp) (setActive_congr fun l => ?_)
      rw [erratum, opBfeS_eq]

end

section
-- One proof is elaborated at a time: the check bounds the threads of the whole text.
set_option Elab.async false
/-! SUPPORT for O3: immediates and the low parts of a word (R46, R118). -/

namespace Sys2Proof.Machine

theorem immI_signed (r : Run) (k : BitVec 8) : immI r true k = match r.limm with
    | none => k.signExtend 32
    | some p => (p ++ k).signExtend 32 := by
  cases h : r.limm <;> simp only [immI, h, if_true]

theorem immI_plain (r : Run) (k : BitVec 8) : immI r false k = match r.limm with
    | none => k.setWidth 32
    | some p => (p ++ k).setWidth 32 := by
  cases h : r.limm <;> simp only [immI, h, Bool.false_eq_true, if_false]

/-- The low n bits of a word are the word under the mask of n ones. -/
theorem setWidth_setWidth_eq_and {n : Nat} (hn : n ≤ 32) (w : Word) : (w.setWidth n).setWidth 32 = w &&& BitVec.ofNat 32 (2 ^ n - 1) := by
  have mask : 2 ^ n - 1 < 2 ^ 32 := Nat.lt_of_lt_of_le (Nat.sub_lt (Nat.two_pow_pos n) Nat.one_pos) (Nat.pow_le_pow_right (by decide) hn)
  apply BitVec.eq_of_toNat_eq
  rw [BitVec.toNat_and, BitVec.toNat_ofNat, Nat.mod_eq_of_lt mask, Nat.and_two_pow_sub_one_eq_mod, BitVec.toNat_setWidth,
    BitVec.toNat_setWidth, Nat.mod_eq_of_lt]
  exact Nat.lt_of_le_of_lt (Nat.mod_le _ _) w.isLt

end Sys2Proof.Machine
end

section
-- One proof is elaborated at a time: the check bounds the threads of the whole text.
set_option Elab.async false
/-! PROOF of O3: the immediate, unary and move words. -/

open Sys2Proof Sys2Proof.Machine

/-- Settles O3, shape by shape: the immediates are those of R46, and each operation has the equation of its row. -/
theorem immediateUnaryMoveResults : Obligations.ImmediateUnaryMoveResults := by
  unfold Obligations.ImmediateUnaryMoveResults
  intro s x d a i8 i16 hi A D writes signed plain wide
  refine ⟨fun hr => ⟨fun hh => ?sum, fun hh => ?immediates, fun hh => ?saturating, fun hh => ?unary⟩, fun hr hd ha hh => ?pair,
    fun hr => ⟨fun hh => ?wide, fun hh => ?high⟩⟩
  case sum => exact (vecImm_computes hi hr hh (exec_iaddi ..) (immI_signed ..) fun w => opAdd_eq _ w _ :)
  case immediates =>
    have word {i sg f k} {g : Word → Word} (hx : exec i s = vecImm false sg d a i8 f s) (hk : immI x.run sg i8 = k)
        (hf : ∀ w, f x.run.sat w k = g w) := vecImm_computes hi hr hh hx hk hf
    have signedEq : immI x.run true i8 = signed := immI_signed ..
    have plainEq : immI x.run false i8 = plain := immI_plain ..
    exact ⟨(word (exec_andi ..) signedEq fun _ => rfl :), (word (exec_ori ..) signedEq fun _ => rfl :),
      (word (exec_shli ..) plainEq fun w => opShl_eq w plain.toNat :), (word (exec_shri ..) plainEq fun w => opShr_eq w plain.toNat :),
      (word (exec_sari ..) plainEq fun w => opSar_eq w plain.toNat :)⟩
  case saturating =>
    exact ⟨(vec1_computes hi hr hh (exec_ineg ..) (opNeg_eq _) :), (vec1_computes hi hr hh (exec_iabs ..) (opAbs_eq _) :)⟩
  case unary =>
    have word {i f} {g : Word → Word} (hx : exec i s = vec1 false d a f s) (hf : ∀ w, f x.run.sat w = g w) := vec1_computes hi hr hh hx hf
    exact ⟨(word (exec_mov ..) fun _ => rfl :), (word (exec_not ..) fun _ => rfl :), (word (exec_popc ..) opPopc_eq :),
      (word (exec_clz ..) opClz_eq :), (word (exec_brev ..) opBrev_eq :),
      (word (exec_sextS8 ..) fun _ => congrArg (BitVec.signExtend 32) (BitVec.setWidth_eq_extractLsb' (by decide)) :),
      (word (exec_sextS16 ..) fun _ => congrArg (BitVec.signExtend 32) (BitVec.setWidth_eq_extractLsb' (by decide)) :),
      (word (exec_zextN8 ..) (setWidth_setWidth_eq_and (by decide)) :), (word (exec_zextN16 ..) (setWidth_setWidth_eq_and (by decide)) :)⟩
  case pair => exact plainWord_completes hi hr hh (exec_mov64 ..) (Bool.or_eq_false_iff.2 ⟨hd, ha⟩) (by simp) rfl
  case wide => exact wideWord_completes hi hr hh (exec_movi ..) (by simp) rfl
  case high =>
    exact plainWord_completes hi hr hh (exec_movhi ..) rfl (by simp)
      (setActive_congr fun _ => congrArg (i16 ++ ·) (BitVec.setWidth_eq_extractLsb' (by decide)))

end

section
-- One proof is elaborated at a time: the check bounds the threads of the whole text.
set_option Elab.async false
/-! SUPPORT for O4: the condition codes (R32, R120). -/

namespace Sys2Proof.Machine

theorem holds_signed (c : BitVec 2) (v w : Word) : holds c v.toInt w.toInt
    = if c = 0 then v == w else if c = 1 then v != w else if c = 2 then v.slt w else v.sle w := by
  have same : (v.toInt == w.toInt) = (v == w) := by rw [Bool.eq_iff_iff, beq_iff_eq, beq_iff_eq, BitVec.toInt_inj]
  fin_cases c
  · exact same
  · exact congrArg (!·) same
  · rfl
  · rfl

theorem holds_plain (c : BitVec 2) (v w : Word) : holds c v.toNat w.toNat
    = if c = 0 then v == w else if c = 1 then v != w else if c = 2 then v.ult w else v.ule w := by
  have same : ((v.toNat : Int) == w.toNat) = (v == w) := by
    rw [Bool.eq_iff_iff, beq_iff_eq, beq_iff_eq, Int.natCast_inj, BitVec.toNat_inj]
  have less : decide ((v.toNat : Int) < w.toNat) = v.ult w := decide_eq_decide.2 Int.ofNat_lt
  have atMost : decide ((v.toNat : Int) ≤ w.toNat) = v.ule w := decide_eq_decide.2 Int.ofNat_le
  fin_cases c
  · exact same
  · exact congrArg (!·) same
  · exact less
  · exact atMost

variable {s : State} {x : Issue} {i : Instr} {c : BitVec 2} {p : BitVec 6} {a b : BitVec 8}

/-- A compare, by the equation of its condition (R120). -/
theorem compare_computes {f : Word → Int} {g : Word → Word → Bool} (hi : Issues s x) (hr : Usable x [pN p, vN a, vN b])
    (hh : Hinted x none false false false) (hx : exec i s = compare c p a b f s) (hf : ∀ v w, holds c (f v) (f w) = g v w) :
    Completes i s x (setActiveP x p.toNat (fun l => g (x.arch.getV a.toNat l) (x.arch.getV b.toNat l)) x.arch) := by
  rw [Completes, hx, compare_completes hi hr hh]
  simp only [hf]

end Sys2Proof.Machine
end

section
-- One proof is elaborated at a time: the check bounds the threads of the whole text.
set_option Elab.async false
/-! PROOF of O4: compares, predicates and votes. -/

open Sys2Proof Sys2Proof.Machine

/-- Settles O4: the compares by their condition codes, the votes by the ballot. -/
theorem predicateAndVoteResults : Obligations.PredicateAndVoteResults := by
  unfold Obligations.PredicateAndVoteResults
  refine ⟨fun s x c t p q r a b hi hh => ?predicates, fun s x d a hi hh => ?votes⟩
  case predicates =>
    intro A B P
    refine ⟨fun hr => ⟨?signed, ?plain⟩, fun hr => ?logic, fun hr => ?toVector, fun hr => ?fromVector, fun hr hq => ⟨?toPair, ?fromPair⟩⟩
    case signed => exact (compare_computes hi hr hh (exec_icmpS32 ..) (holds_signed c) :)
    case plain => exact (compare_computes hi hr hh (exec_icmpN32 ..) (holds_plain c) :)
    case logic => exact plainWord_completes hi hr hh (exec_plog ..) rfl (by simp) rfl
    case toVector => exact plainWord_completes hi hr hh (exec_pmvVp ..) rfl (by simp) rfl
    case fromVector => exact plainWord_completes hi hr hh (exec_pmvPv ..) rfl (by simp) rfl
    case toPair => exact plainWord_completes hi hr hh (exec_pmvSp ..) hq (by simp) rfl
    case fromPair => exact plainWord_completes hi hr hh (exec_pmvPs ..) hq (by simp) rfl
  case votes =>
    intro votes
    refine ⟨fun hr hd => ?ballot, fun hr => ?predicates, fun hr hd => ?active, fun hr => ?count⟩
    case ballot => exact plainWord_completes hi hr hh (exec_voteBallot ..) hd (by simp) rfl
    case predicates =>
      have word {i f} (hx : exec i s = votePredicate d a f s) := hx.trans (votePredicate_completes hi hr hh)
      exact ⟨(word (exec_voteAny ..) :), (word (exec_voteAll ..) :), (word (exec_voteUni ..) :)⟩
    case active => exact plainWord_completes hi hr hh (exec_voteActive ..) hd (by simp) rfl
    case count =>
      exact plainWord_completes hi hr hh (exec_voteCount ..) rfl (by simp) (congrArg _ (congrArg _ (laneCount_eq _)))

end

section
-- One proof is elaborated at a time: the check bounds the threads of the whole text.
set_option Elab.async false
/-! PROOF of O5: shuffles and matches. -/

open Sys2Proof Sys2Proof.Machine

/-- Settles O5: a shuffle by where its source lane lies (R125), SHFLV by the low six bits of its selector, a match by its mask. -/
theorem shuffleMatchResults : Obligations.ShuffleMatchResults := by
  unfold Obligations.ShuffleMatchResults
  intro s x d a b n hi hh A writes
  have low (w : Word) : w.toNat % 64 = (w.extractLsb' 0 6).toNat := by simp
  have hn := n.isLt
  refine ⟨fun hr => ?selected, fun hr => ?shuffles, fun hr hd => ?narrow, fun hr hd ha => ?pairs⟩
  case selected =>
    exact plainWord_completes hi hr hh (exec_shflv ..) rfl (by simp) (setActive_congr fun l => congrArg A (low _))
  case shuffles =>
    have word {i up src} {f : Nat → Word} (hx : exec i s = shuffle up d a src s)
        (plain : (up && x.e.l.kh.errata.contains 514) = false)
        (hf : ∀ l, l < 64 → (if 0 ≤ src l ∧ src l < 64 then A (src l).toNat else A l) = f l) :=
      shuffle_computes hi hr hh hx plain hf
    refine ⟨word (exec_shflIdx ..) rfl fun l _ => ?index, fun unlisted => word (exec_shflUp ..) (by simpa using unlisted) fun l hl => ?up,
      word (exec_shflDown ..) rfl fun l _ => ?down, word (exec_shflXor ..) rfl fun l hl => ?xor⟩
    case index => rw [if_pos (by omega), Int.toNat_natCast]
    case up =>
      by_cases inside : n.toNat ≤ l
      · rw [if_pos (by omega), if_pos inside, show ((l : Int) - n.toNat).toNat = l - n.toNat by omega]
      · rw [if_neg (by omega), if_neg inside]
    case down =>
      by_cases inside : l + n.toNat < 64
      · rw [if_pos (by omega), if_pos inside, show ((l : Int) + n.toNat).toNat = l + n.toNat by omega]
      · rw [if_neg (by omega), if_neg inside]
    case xor =>
      have inside : l ^^^ n.toNat < 64 := Nat.xor_lt_two_pow (n := 6) hl hn
      rw [if_pos (by omega), if_pos hl, Int.toNat_natCast]
  case narrow => exact plainWord_completes hi hr hh (exec_matchB32 ..) hd (by simp) rfl
  case pairs => exact plainWord_completes hi hr hh (exec_matchB64 ..) (Bool.or_eq_false_iff.2 ⟨hd, ha⟩) (by simp) rfl

end

section
-- One proof is elaborated at a time: the check bounds the threads of the whole text.
set_option Elab.async false
/-! SUPPORT for O6: the lowest active lane (R132). -/

namespace Sys2Proof.Machine

/-- The lowest lane of a mask is the first lane that the mask has. -/
theorem lowestLane_eq_find? (m : LaneMask) : lowestLane m = (List.range 64).find? (fun j => m.getLsbD j) :=
  List.head?_filter

end Sys2Proof.Machine
end

section
-- One proof is elaborated at a time: the check bounds the threads of the whole text.
set_option Elab.async false
/-! PROOF of O6: the uniform words. -/

open Sys2Proof Sys2Proof.Machine

/-- Settles O6, shape by shape: the operations have the equations of the vector words (R130). -/
theorem uniformResults : Obligations.UniformResults := by
  unfold Obligations.UniformResults
  intro s x d a b v n i16 hi A B D A2 B2 writes bit wide sat
  refine ⟨fun hr => ⟨fun hh => ?saturating, fun hh => ?plain⟩, fun hr hh => ?unary, fun hr hd ha hb hh => ?pairs,
    fun hr => ⟨fun hh => ?move, fun hh => ?sum, fun hh => ?high⟩, fun hr hh => ?toVector, fun hr hh => ⟨?lane, ?first⟩⟩
  case saturating =>
    exact ⟨uni2_computes hi hr hh (exec_uadd ..) (opAdd_eq ..), uni2_computes hi hr hh (exec_usub ..) (opSub_eq ..)⟩
  case plain =>
    have word {i f z} (hx : exec i s = uni2 false d a b f s) (hf : f x.run.sat A B = z) := uni2_computes hi hr hh hx hf
    exact ⟨word (exec_umul ..) (opMul_eq ..), word (exec_umulhS32 ..) (opMulHS_eq ..), word (exec_umulhN32 ..) (opMulHN_eq ..),
      word (exec_uand ..) rfl, word (exec_uor ..) rfl, word (exec_uxor ..) rfl, word (exec_ushl ..) (opShl_eq ..),
      word (exec_ushr ..) (opShr_eq ..), word (exec_usar ..) (opSar_eq ..), word (exec_uminS32 ..) (opMinS_eq ..),
      word (exec_umaxS32 ..) (opMaxS_eq ..), word (exec_uminN32 ..) (opMinN_eq ..), word (exec_umaxN32 ..) (opMaxN_eq ..),
      word (exec_usetEq ..) rfl, word (exec_usetNe ..) rfl, word (exec_usetLtS32 ..) rfl, word (exec_usetLeS32 ..) rfl,
      word (exec_usetLtN32 ..) rfl, word (exec_usetLeN32 ..) rfl⟩
  case unary =>
    have word {i f z} (hx : exec i s = uni1 d a f s) (hf : f A = z) := uni1_computes hi hr hh hx hf
    exact ⟨word (exec_umov ..) rfl, word (exec_unot ..) rfl, word (exec_upopc ..) (opPopc_eq _), word (exec_uclz ..) (opClz_eq _)⟩
  case pairs =>
    have word {i f z} (hx : exec i s = uni2Pair d a b f s) (hf : f x.run.sat A2 B2 = z) := uni2Pair_computes hi hr hh ⟨hd, ha, hb⟩ hx hf
    exact ⟨word (exec_uadd64 ..) (opAdd64_eq ..), word (exec_usub64 ..) (opSub64_eq ..)⟩
  case move => exact wideWord_completes hi hr hh (exec_umovi ..) (by simp) rfl
  case sum => exact wideWord_completes hi hr hh (exec_uaddi ..) (by simp) (congrArg writes (opAdd_eq ..))
  case high =>
    exact plainWord_completes hi hr hh (exec_umovhi ..) rfl (by simp)
      (congrArg (fun w => writes (i16 ++ w)) (BitVec.setWidth_eq_extractLsb' (by decide)))
  case toVector => exact plainWord_completes hi hr hh (exec_uvmovVs ..) rfl (by simp) rfl
  case lane => exact plainWord_completes hi hr hh (exec_uvmovSv ..) rfl (by simp) rfl
  case first =>
    exact plainWord_completes hi hr hh (exec_uvmovFirst ..) rfl (by simp) (congrArg
      (fun low => writes (match low with
        | some j => x.arch.getV v.toNat j
        | none => 0)) (lowestLane_eq_find? x.active))

end

section
-- One proof is elaborated at a time: the check bounds the threads of the whole text.
set_option Elab.async false
/-! SUPPORT for O7: registers and predicates read after a write in active lanes (R7, R109, R110). -/

namespace Sys2Proof.Machine

variable {x : Issue} {a : Arch} {d n i j : Nat} {ls : List Nat}

/-! ### One lane -/

theorem Arch.getV_setV (hi : i < 64) (hj : j < 64) (w : Word) :
    (a.setV d j w).getV n i = if n = d ∧ i = j then w else a.getV n i := by
  have key : 64 * n + i = 64 * d + j ↔ n = d ∧ i = j := by omega
  simp only [Arch.getV, Arch.setV, smGet_smSet, key]

theorem Arch.getV_setV64 (hi : i < 64) (hj : j < 64) (w : BitVec 64) : (a.setV64 d j w).getV n i =
    if i = j then (if n = d then w.extractLsb' 0 32 else if n = d + 1 then w.extractLsb' 32 32 else a.getV n i) else a.getV n i := by
  rw [Arch.setV64, Arch.getV_setV hi hj, Arch.getV_setV hi hj]
  by_cases lane : i = j
  · by_cases low : n = d
    · simp [lane, low]
    · simp [lane, low]
  · simp [lane]

theorem Arch.getS_setS (z : Word) : (a.setS d z).getS n = if n = d then z else a.getS n := smGet_smSet ..

theorem Arch.getP_setP (m : LaneMask) : (a.setP d m).getP n = if n = d then m else a.getP n := smGet_smSet ..

/-! ### The active lanes -/

theorem mem_laneList_iff {m : LaneMask} (hi : i < 64) : i ∈ laneList m ↔ m.getLsbD i = true :=
  ⟨fun h => (mem_laneList h).2, fun h => by simp [laneList, lanes, hi, h]⟩

/-- Writes lane after lane, of which only those of lane i concern what is read and a second one there changes nothing more. -/
theorem foldl_lanes_read {step : Arch → Nat → Arch} {read : Arch → Word} {put : Word → Word}
    (other : ∀ a, ∀ j ∈ ls, i ≠ j → read (step a j) = read a) (own : ∀ a, read (step a i) = put (read a))
    (again : ∀ w, put (put w) = put w) (a : Arch) :
    read (ls.foldl step a) = if i ∈ ls then put (read a) else read a := by
  induction ls generalizing a with
  | nil => rfl
  | cons j ls ih =>
    rw [List.foldl_cons, ih fun a k hk => other a k (List.mem_cons_of_mem _ hk)]
    by_cases here : i = j
    · subst here; simp [own, again]
    · simp [other a j List.mem_cons_self here, here]

/-- An active lane of the register written reads its value; every other lane and register reads as before. -/
theorem getV_setActive (hi : i < 64) (f : Nat → Word) :
    (setActive x d f a).getV n i = if n = d ∧ x.active.getLsbD i then f i else a.getV n i := by
  have lane := foldl_lanes_read (i := i) (ls := laneList x.active) (step := fun a j => a.setV d j (f j)) (read := fun a => a.getV n i)
    (put := fun w => if n = d then f i else w)
    (fun a j hj ne => by simp [Arch.getV_setV hi (mem_laneList hj).1, ne]) (fun a => by simp [Arch.getV_setV hi hi])
    (fun w => by split <;> rfl) a
  rw [setActive, lane]
  by_cases active : x.active.getLsbD i = true <;> simp [mem_laneList_iff hi, active]

/-- As for one register, with the low half in the even register and the high half in the odd one (R6). -/
theorem getV_setActive64 (hi : i < 64) (g : Nat → BitVec 64) : (setActive64 x d g a).getV n i = if x.active.getLsbD i then
    (if n = d then (g i).extractLsb' 0 32 else if n = d + 1 then (g i).extractLsb' 32 32 else a.getV n i) else a.getV n i := by
  have lane := foldl_lanes_read (i := i) (ls := laneList x.active) (step := fun a j => a.setV64 d j (g j)) (read := fun a => a.getV n i)
    (put := fun w => if n = d then (g i).extractLsb' 0 32 else if n = d + 1 then (g i).extractLsb' 32 32 else w)
    (fun a j hj ne => by rw [Arch.getV_setV64 hi (mem_laneList hj).1, if_neg ne])
    (fun a => by rw [Arch.getV_setV64 hi hi, if_pos rfl]) (fun w => by split_ifs <;> rfl) a
  rw [setActive64, lane]
  simp only [mem_laneList_iff hi]

theorem getLsbD_maskOf (hi : i < 64) : (maskOf ls).getLsbD i = decide (i ∈ ls) := by
  have fold : ∀ m : LaneMask, (ls.foldl (fun m j => m ||| (1#64 <<< j)) m).getLsbD i = (m.getLsbD i || decide (i ∈ ls)) := by
    induction ls with
    | nil => simp
    | cons j ls ih =>
      intro m
      have bit : (1#64 <<< j).getLsbD i = decide (i = j) := by
        rw [BitVec.getLsbD_shiftLeft, BitVec.getLsbD_one]
        simp only [hi, decide_true, Bool.true_and]
        by_cases same : i = j
        · simp [same]
        · simp [same]; omega
      rw [List.foldl_cons, ih, BitVec.getLsbD_or, bit, Bool.or_assoc, ← Bool.decide_or]
      simp only [List.mem_cons]
  exact (fold 0).trans (by simp)

theorem getLsbD_activeWhere (hi : i < 64) (q : Nat → Bool) : (activeWhere x q).getLsbD i = (x.active.getLsbD i && q i) := by
  rw [activeWhere, getLsbD_maskOf hi, Bool.eq_iff_iff]
  simp [mem_laneList_iff hi]

theorem getLsbD_getP_setActiveP (hi : i < 64) (q : Nat → Bool) :
    ((setActiveP x d q a).getP n).getLsbD i = if n = d ∧ x.active.getLsbD i then q i else (a.getP n).getLsbD i := by
  rw [setActiveP, Arch.getP_setP]
  by_cases reg : n = d
  · subst reg
    rw [if_pos rfl, BitVec.getLsbD_or, getLsbD_activeWhere hi, BitVec.getLsbD_and, BitVec.getLsbD_not]
    cases x.active.getLsbD i <;> simp [hi]
  · simp [reg]

/-- A write of vector registers changes no other class. -/
theorem foldl_keeps_classes {step : Arch → Nat → Arch} (h : ∀ b j, ∃ v', step b j = { b with v := v' }) :
    ∃ v', ls.foldl step a = { a with v := v' } := by
  refine foldl_keeps (P := fun b => ∃ v', b = { a with v := v' }) ⟨a.v, rfl⟩ ?_
  rintro _ j ⟨v', rfl⟩
  obtain ⟨w, hw⟩ := h { a with v := v' } j
  exact ⟨w, hw⟩

end Sys2Proof.Machine
end

section
-- One proof is elaborated at a time: the check bounds the threads of the whole text.
set_option Elab.async false
/-! PROOF of O7: what a write in active lanes changes and what it leaves. -/

open Sys2Proof Sys2Proof.Machine

/-- Settles O7: each class reads after a write as its lemma says, and the record updates name the one class that changes. -/
theorem activeLanesOnly : Obligations.ActiveLanesOnly := by
  unfold Obligations.ActiveLanesOnly
  intro x a d f g q n i hi
  exact ⟨getV_setActive hi f, getV_setActive64 hi g, getLsbD_getP_setActiveP hi q, Arch.getS_setS,
    foldl_keeps_classes fun _ _ => ⟨_, rfl⟩, foldl_keeps_classes fun _ _ => ⟨_, rfl⟩, ⟨_, rfl⟩, fun _ => ⟨_, rfl⟩⟩

end

section
-- One proof is elaborated at a time: the check bounds the threads of the whole text.
set_option Elab.async false
/-! SUPPORT for O8: the lanes of XRED, and its completion (R127 to R129). -/

namespace Sys2Proof.Machine

variable {s : State} {x : Issue} {d a : BitVec 8} {oct : Bool} {k : BitVec 2} {o : BitVec 4} {r : Arch} {kind l n : Nat}

/-- Without erratum 257 the leaves are those of the active lanes of the set (R127, R366). -/
theorem xredLeaf_eq (unlisted : 257 ∉ x.e.l.kh.errata) (j : Nat) (inSet : Bool) : xredLeaf x r n o.toNat j inSet =
    if x.active.getLsbD j && inSet then some (if o = 8 then r.getV n j &&& 0xFFFF else r.getV n j) else none := by
  have code : o.toNat = 8 ↔ o = 8 := ⟨fun h => BitVec.eq_of_toNat_eq h, fun h => by rw [h]; rfl⟩
  have erratum : x.e.l.kh.errata.contains 257 = false := by simpa using unlisted
  cases inSet with
  | false => simp [xredLeaf]
  | true => simp only [xredLeaf, erratum, code, Bool.and_true, Bool.and_false, Bool.not_true, Bool.false_eq_true, if_false]

/-- Lane l's result without erratum 257, over the set inSet of its lanes (R127, R128). -/
theorem xredLane_eq (unlisted : 257 ∉ x.e.l.kh.errata) {inSet : Nat → Bool}
    (member : ∀ j, (decide (kind = 0) || decide (j < l) || (decide (kind = 1) && decide (j = l))) = inSet j) :
    xredLane x r n oct kind o.toNat l =
      (let v := laneTree (xredOp x.amr o.toNat) (fun j => if x.active.getLsbD j && inSet j then
          some (if o = 8 then r.getV n j &&& 0xFFFF else r.getV n j) else none)
        (if oct then 3 else 6) (if oct then 8 * (l / 8) else 0)
      (v.1.getD (xredIdentity o.toNat), v.2)) := by
  simp only [xredLane, member, xredLeaf_eq unlisted]

/-- XRED writes each active lane's result and raises its flags; a reduction of the whole group is computed once, as lane 0's. -/
theorem xred_completes {f : Nat → Word × BitVec 9} (hi : Issues s x) (hr : Usable x [vN d, vN a]) (hh : Hinted x none false false false)
    (hk : k ≠ 3) (ho : o.toNat < 10)
    (whole : (k == 0 && !oct) = true → ∀ l, xredLane x x.arch a.toNat oct 0 o.toNat 0 = f l)
    (each : (k == 0 && !oct) = false → ∀ l, xredLane x x.arch a.toNat oct k.toNat o.toNat l = f l) :
    CompletesFlags (.xred d a oct k o) s x false (setActiveFlags x d.toNat f x.arch) := by
  have lanes : (fun l => if k == 0 && !oct then (if k == 0 && !oct then xredLane x x.arch a.toNat oct 0 o.toNat 0 else (0, 0))
      else xredLane x x.arch a.toNat oct k.toNat o.toNat l) = f := by
    funext l
    cases h : k == 0 && !oct with
    | true => exact whole h l
    | false => exact each h l
  subst lanes
  intro untrapped flagged
  have listed : (k == 3 || decide (10 ≤ o.toNat)) = false := by rw [beq_eq_false_iff_ne.2 hk, decide_eq_false ho.not_ge]; rfl
  obtain ⟨hd, ht⟩ := passes_checks (u := { illegal := k == 3 || 10 ≤ o.toNat, reads := [vN a], writes := [vN d] }) hr hh (limm_none _)
    ⟨listed, rfl⟩ ⟨rfl, rfl⟩ ⟨rfl, rfl⟩ (by simp [Use.regs])
  exact (exec_xred ..).trans (issueArch_completes hi hd ht untrapped)

end Sys2Proof.Machine
end

section
-- One proof is elaborated at a time: the check bounds the threads of the whole text.
set_option Elab.async false
/-! PROOF of O8: XRED. -/

open Sys2Proof Sys2Proof.Machine

/-- Settles O8: every lane's result is the tree over its set (`xredLane_eq`); where the set is all active lanes of the group, the tree of
lane 0 is that of every lane. -/
theorem reductionResults : Obligations.ReductionResults := by
  unfold Obligations.ReductionResults
  intro s x d a oct k o hi hr hh hk ho unlisted
  refine xred_completes hi hr hh hk ho (fun whole l => ?whole) (fun _ l => ?each)
  case whole =>
    obtain ⟨rfl, rfl⟩ : k = 0 ∧ oct = false := by simpa using whole
    exact xredLane_eq unlisted fun _ => rfl
  case each =>
    have reduces : decide (k.toNat = 0) = (k == 0) := decide_eq_decide.2 (BitVec.toNat_inj (y := 0))
    have includes : decide (k.toNat = 1) = (k == 1) := decide_eq_decide.2 (BitVec.toNat_inj (y := 1))
    exact xredLane_eq unlisted fun j => by rw [reduces, includes]; rfl

end

section
-- One proof is elaborated at a time: the check bounds the threads of the whole text.
set_option Elab.async false
/-! SUPPORT for O12: rounding to an integer, fixed point and the IEEE formats (R151 to R156). -/

namespace Sys2Proof.Machine

variable {m : LnFmt} {k : Rounding} {s neg : Bool} {t : IeeeFmt} {ex fr v w : Nat}

/-! ### Rounding to an integer (R75, R151) -/

/-- A flag raised where a proposition holds. -/
theorem flagIf_eq_ite {c : Bool} {p : Prop} [Decidable p] (h : c = true ↔ p) (fl : BitVec 9) : flagIf c fl = if p then fl else 0 := by
  by_cases hp : p <;> simp [flagIf, h, hp]

/-- When the remainder of a magnitude rounds up, mode by mode; the random word is compared with the remainder's first 32 bits. -/
theorem roundsUp_magnitude {q rem : Nat} (hk : k.mode ≤ 4) : roundsUp k neg q rem w = true ↔
    rem ≠ 0 ∧ (k.mode = 0 ∧ (2 ^ w < 2 * rem ∨ (2 * rem = 2 ^ w ∧ q % 2 = 1)) ∨ (k.mode = 2 ∧ neg = false)
      ∨ (k.mode = 3 ∧ neg = true) ∨ (k.mode = 4 ∧ k.r < rem * 2 ^ 32 / 2 ^ w)) := by
  have odd : ((q : Int) % 2 = 1) = (q % 2 = 1) := propext (by omega)
  obtain ⟨mode, inf, flush, r⟩ := k
  by_cases h : rem = 0
  · simp [roundsUp, h]
  · simp only at hk
    interval_cases mode <;> simp [roundsUp, h, odd]

/-- The quotient, or the next integer where its remainder rounds up; an integer is left as it is. -/
theorem roundInt_eq (hk : k.mode ≤ 4) (v : Nat) (z : Int) : roundInt k neg v z =
    let q := if z ≤ 0 then v * 2 ^ (-z).toNat else v / 2 ^ z.toNat
    let rem := if z ≤ 0 then 0 else v % 2 ^ z.toNat
    let up := rem ≠ 0 ∧ (k.mode = 0 ∧ (2 ^ z.toNat < 2 * rem ∨ (2 * rem = 2 ^ z.toNat ∧ q % 2 = 1)) ∨ (k.mode = 2 ∧ neg = false)
      ∨ (k.mode = 3 ∧ neg = true) ∨ (k.mode = 4 ∧ k.r < rem * 2 ^ 32 / 2 ^ z.toNat))
    ((if up then q + 1 else q), rem) := by
  by_cases whole : z ≤ 0
  · simp [roundInt, whole]
  · simp only [roundInt, if_neg whole, ← roundsUp_magnitude hk]
    split <;> rfl

/-! ### Fixed point (R151, R152) -/

/-- A finite value is rounded and limited to its target. -/
theorem lnFix_fin (m : LnFmt) (k : Rounding) (sg : Bool) (n : Nat) (s : Bool) (l : Int) :
    let parts := lnParts m.frac l
    let r := roundInt k s parts.1 (40 - parts.2.1 - n)
    let v : Int := if s then -(r.1 : Int) else r.1
    lnFix m k sg n (.fin s l) = if v < fixLow sg then (fixLow sg, flIV) else if fixHigh sg < v then (fixHigh sg, flIV)
      else (v, if parts.2.2 ≠ 0 ∨ r.2 ≠ 0 then flIX else 0) := by
  intro parts r v
  rw [← flagIf_eq_ite (c := parts.2.2 != 0 || r.2 != 0) (by simp)]
  rfl

theorem isPow2_iff (hv : v < 2 ^ 128) : isPow2 v = true ↔ ∃ n, v = 2 ^ n := by
  simp only [isPow2, Bool.and_eq_true, decide_eq_true_eq, beq_iff_eq]
  constructor
  · rintro ⟨-, same⟩
    exact ⟨_, same.symm⟩
  · rintro ⟨n, rfl⟩
    have small : n < 128 := (Nat.pow_lt_pow_iff_right (by decide)).1 hv
    rw [bitLength_eq small le_rfl (Nat.pow_lt_pow_succ (by decide)), Nat.add_sub_cancel]
    exact ⟨(Nat.two_pow_pos n).ne', rfl⟩

/-- The LN value of v times 2 to the -f with the sign s, inexact where v is no power of two or the format's limit is met. -/
def lnOfMagnitude (m : LnFmt) (k : Rounding) (s : Bool) (v : Nat) (f : Int) : LnVal × BitVec 9 :=
  let r := lnFinish m k s (fx2ln v f)
  (r.1, r.2 ||| (if isPow2 v = false ∨ r.2 ≠ 0 then flIX else 0))

theorem lnOfMagnitude_flags (m : LnFmt) (k : Rounding) (s : Bool) (v : Nat) (f : Int) :
    let r := lnFinish m k s (fx2ln v f)
    (r.1, r.2 ||| flagIf (!isPow2 v || r.2 != 0) flIX) = lnOfMagnitude m k s v f := by
  intro r
  rw [flagIf_eq_ite (p := isPow2 v = false ∨ r.2 ≠ 0) (by simp)]
  rfl

theorem lnFloat_ne_zero {z : Int} (h : z ≠ 0) (n : Nat) : lnFloat m k z n = lnOfMagnitude m k (decide (z < 0)) z.natAbs n :=
  (if_neg h).trans (lnOfMagnitude_flags ..)

/-! ### From an IEEE format (R154, R155) -/

/-- The two fields of a magnitude below its sign fill the format's bits. -/
def IeeeFmt.Filled (t : IeeeFmt) : Prop := 2 ≤ t.p ∧ (2 * t.emax + 2) * 2 ^ (t.p - 1) = 2 ^ (t.bits - 1)

/-- The bit of the sign. -/
def IeeeFmt.sign (t : IeeeFmt) (s : Bool) : Nat := if s then 2 ^ (t.bits - 1) else 0

theorem filled_of_listed (h : t ∈ [IeeeFmt.mk 16 11 15, .mk 16 8 127, .mk 32 24 127, .mk 64 53 1023]) : t.Filled := by
  simp only [List.mem_cons, List.not_mem_nil, or_false] at h
  rcases h with rfl | rfl | rfl | rfl <;> exact ⟨by decide, by decide⟩

theorem IeeeFmt.sign_eq (t : IeeeFmt) (s : Bool) : s.toNat * 2 ^ (t.bits - 1) = t.sign s := by
  cases s
  · exact Nat.zero_mul _
  · exact Nat.one_mul _

/-- The sign, the exponent and the fraction of an encoding. -/
theorem ieee_fields (ht : t.Filled) (s : Bool) (hex : ex ≤ 2 * t.emax + 1) (hfr : fr < 2 ^ (t.p - 1)) :
    let code := t.sign s + ex * 2 ^ (t.p - 1) + fr
    field code (t.bits - 1) 1 = s.toNat ∧ field code 0 (t.bits - 1) = ex * 2 ^ (t.p - 1) + fr := by
  have inside : ex * 2 ^ (t.p - 1) + fr < 2 ^ (t.bits - 1) :=
    calc ex * 2 ^ (t.p - 1) + fr
      _ < (ex + 1) * 2 ^ (t.p - 1) := by rw [Nat.succ_mul]; omega
      _ ≤ (2 * t.emax + 2) * 2 ^ (t.p - 1) := Nat.mul_le_mul_right _ (by omega)
      _ = 2 ^ (t.bits - 1) := ht.2
  have positive := Nat.two_pow_pos (t.bits - 1)
  intro code
  have split : code = ex * 2 ^ (t.p - 1) + fr + 2 ^ (t.bits - 1) * s.toNat := by
    rw [Nat.mul_comm (2 ^ (t.bits - 1)), IeeeFmt.sign_eq]; omega
  rw [split, field, field, Nat.add_mul_div_left _ _ positive, Nat.div_eq_of_lt inside, Nat.pow_zero, Nat.div_one, Nat.add_mul_mod_self_left,
    Nat.mod_eq_of_lt inside, Nat.zero_add]
  exact ⟨Nat.mod_eq_of_lt s.toNat_lt, rfl⟩

/-- Where a magnitude stands to infinity and zero, by its exponent and its fraction. -/
theorem ieee_magnitude (t : IeeeFmt) (hex : ex ≤ 2 * t.emax + 1) (hfr : fr < 2 ^ (t.p - 1)) :
    let body := ex * 2 ^ (t.p - 1) + fr
    (t.infinity < body ↔ ex = 2 * t.emax + 1 ∧ fr ≠ 0) ∧ (body = t.infinity ↔ ex = 2 * t.emax + 1 ∧ fr = 0)
      ∧ (body = 0 ↔ ex = 0 ∧ fr = 0) := by
  intro body
  have positive := Nat.two_pow_pos (t.p - 1)
  by_cases top : ex = 2 * t.emax + 1
  · subst top
    have least : 2 ^ (t.p - 1) ≤ (2 * t.emax + 1) * 2 ^ (t.p - 1) := Nat.le_mul_of_pos_left _ (by omega)
    simp only [body, IeeeFmt.infinity, true_and]
    omega
  · have below : (ex + 1) * 2 ^ (t.p - 1) ≤ t.infinity := Nat.mul_le_mul_right _ (by omega)
    have zero : ex * 2 ^ (t.p - 1) = 0 ↔ ex = 0 := by simp
    rw [Nat.succ_mul] at below
    simp only [body]
    omega

/-- The fraction of a quiet NaN has its highest bit. -/
theorem quiet_iff (ht : t.Filled) (hfr : fr < 2 ^ (t.p - 1)) : fr.testBit (t.p - 2) = false ↔ fr < 2 ^ (t.p - 2) := by
  have halves : 2 ^ (t.p - 1) = 2 ^ (t.p - 2) * 2 := by rw [← Nat.pow_succ]; congr 1; have := ht.1; omega
  have bit : fr / 2 ^ (t.p - 2) < 2 := Nat.div_lt_of_lt_mul (halves ▸ hfr)
  rw [Nat.testBit_eq_decide_div_mod_eq, Nat.mod_eq_of_lt bit, decide_eq_false_iff_not, ← Nat.div_eq_zero_iff_lt (Nat.two_pow_pos _)]
  generalize fr / 2 ^ (t.p - 2) = high at bit ⊢
  omega

/-- An encoding's value, by its exponent and its fraction. -/
theorem ieeeToLn_eq (ht : t.Filled) (flush : Bool) (hex : ex ≤ 2 * t.emax + 1) (hfr : fr < 2 ^ (t.p - 1)) :
    ieeeToLn t m k flush (t.sign s + ex * 2 ^ (t.p - 1) + fr) =
      if ex = 2 * t.emax + 1 then
        if fr = 0 then (.inf s, 0) else (.nan, flCV ||| (if fr < 2 ^ (t.p - 2) then flIV else 0))
      else if ex = 0 then
        if fr = 0 ∨ flush = true then (.zero s, 0) else lnOfMagnitude m k s fr (t.p - 1 - t.emin)
      else lnOfMagnitude m k s (fr + 2 ^ (t.p - 1)) (t.p - 1 - (ex - t.emax)) := by
  obtain ⟨signBit, body⟩ := ieee_fields ht s hex hfr
  have positive := Nat.two_pow_pos (t.p - 1)
  have exponent : (ex * 2 ^ (t.p - 1) + fr) / 2 ^ (t.p - 1) = ex := by
    rw [Nat.mul_comm, Nat.mul_add_div positive, Nat.div_eq_of_lt hfr, Nat.add_zero]
  have fraction : (ex * 2 ^ (t.p - 1) + fr) % 2 ^ (t.p - 1) = fr := by
    rw [Nat.mul_comm, Nat.mul_add_mod, Nat.mod_eq_of_lt hfr]
  have signed : decide (s.toNat = 1) = s := by cases s <;> rfl
  obtain ⟨above, infinite, zero⟩ := ieee_magnitude t hex hfr
  have signalling : flagIf (!fr.testBit (t.p - 2)) flIV = if fr < 2 ^ (t.p - 2) then flIV else 0 :=
    flagIf_eq_ite (by rw [Bool.not_eq_true', quiet_iff ht hfr]) flIV
  simp only [ieeeToLn, signBit, body, exponent, fraction, signed, lnOfMagnitude_flags, signalling, above, infinite, zero]
  by_cases top : ex = 2 * t.emax + 1
  · by_cases empty : fr = 0 <;> simp [top, empty]
  · by_cases least : ex = 0
    · by_cases empty : fr = 0 <;> simp [least, empty]
    · simp [top, least]

/-! ### To an IEEE format (R156) -/

/-- The encoding of a finite value is zero, an overflow's, or that of its rounded fraction; an inexact one raises UN where it is tiny. -/
theorem floatCode_eq (p limit ovf n : Nat) (bias : Int) (k : Rounding) (flush neg : Bool) (l off : Int) :
    let parts := lnParts n l
    let y := if parts.1 = 2 ^ 41 then 2 ^ 40 else parts.1
    let e := (if parts.1 = 2 ^ 41 then parts.2.1 + 1 else parts.2.1) + off
    let emin := 1 - bias
    let r := roundInt k neg y (40 - (p - 1) + max e emin - e)
    let enc := ((max e emin + bias - 1) * (2 ^ (p - 1) : Nat) + r.1).toNat
    floatCode p bias limit ovf k flush neg n l off =
      if e < emin ∧ flush = true then (0, flUN ||| flIX)
      else if limit ≤ enc then (ovf, flOV ||| flIX)
      else (enc, if parts.2.2 ≠ 0 ∨ r.2 ≠ 0 then (if e < emin then flIX ||| flUN else flIX) else 0) := by
  intro parts y e emin r enc
  have flushed : (decide (e < emin) && flush) = true ↔ e < emin ∧ flush = true := by simp
  have inexact : (parts.2.2 != 0 || r.2 != 0) = true ↔ parts.2.2 ≠ 0 ∨ r.2 ≠ 0 := by simp
  have flags : flagIf (parts.2.2 != 0 || r.2 != 0) flIX ||| flagIf (decide (e < emin) && (parts.2.2 != 0 || r.2 != 0)) flUN =
      if parts.2.2 ≠ 0 ∨ r.2 ≠ 0 then (if e < emin then flIX ||| flUN else flIX) else 0 := by
    simp only [← inexact]
    by_cases tiny : e < emin <;> cases (parts.2.2 != 0 || r.2 != 0) <;> simp [flagIf, tiny]
  rw [← flags]
  exact if_congr flushed rfl rfl

/-- A finite value is flushed, overflows, or is encoded with its rounded fraction. -/
theorem lnToIeee_fin (t : IeeeFmt) (m : LnFmt) (k : Rounding) (flush s : Bool) (l : Int) :
    let parts := lnParts m.frac l
    let y := if parts.1 = 2 ^ 41 then 2 ^ 40 else parts.1
    let e := if parts.1 = 2 ^ 41 then parts.2.1 + 1 else parts.2.1
    let r := roundInt k s y (40 - (t.p - 1) + max e t.emin - e)
    let enc := ((max e t.emin + t.emax - 1) * (2 ^ (t.p - 1) : Nat) + r.1).toNat
    lnToIeee t m k flush (.fin s l) =
      if e < t.emin ∧ flush = true then (t.sign s, flUN ||| flIX)
      else if t.infinity ≤ enc then (t.sign s + (if k.inf then t.infinity else t.infinity - 1), flOV ||| flIX)
      else (t.sign s + enc, if parts.2.2 ≠ 0 ∨ r.2 ≠ 0 then (if e < t.emin then flIX ||| flUN else flIX) else 0) := by
  intro parts y e r enc
  simp only [lnToIeee, floatCode_eq, Int.add_zero, IeeeFmt.sign_eq]
  rw [apply_ite (fun c : Nat × BitVec 9 => (t.sign s + c.1, c.2)), apply_ite (fun c : Nat × BitVec 9 => (t.sign s + c.1, c.2))]
  rfl

end Sys2Proof.Machine
end

section
-- One proof is elaborated at a time: the check bounds the threads of the whole text.
set_option Elab.async false
/-! SUPPORT for O12: the conversion words of the IEEE formats complete (R153). -/

namespace Sys2Proof.Machine

variable {s : State} {x : Issue} {i : Instr} {d a : BitVec 8} {f : BitVec 2} {e : BitVec 3} {m : LnFmt} {rs : List RegRef}

/-- A rounding word of no shape of its own, with a listed code and even pairs. -/
theorem roundingWord_completes {illegal bad : Bool} {reads writes : List RegRef} {g : Issue → Arch → Arch × List (Nat × BitVec 9)}
    {r : Arch × List (Nat × BitVec 9)} (hi : Issues s x) (hr : Usable x rs) (hh : Hinted x none true false false)
    (hx : exec i s = issueArch (roundUse { illegal := illegal, badReg := bad, reads := reads, writes := writes }) g s)
    (listed : illegal = false) (even : bad = false) (named : reads ++ writes ⊆ rs) (result : g x x.arch = r) :
    CompletesFlags i s x true r := by
  subst listed even result
  intro untrapped flagged
  obtain ⟨hd, ht⟩ := passes_checks (u := roundUse { illegal := false, badReg := false, reads := reads, writes := writes }) hr hh (limm_none _)
    ⟨rfl, rfl⟩ ⟨rfl, rfl⟩ ⟨rfl, rfl⟩ (fun n h => named (by simpa [Use.regs, roundUse] using h))
  exact hx.trans (issueArch_completes hi hd ht untrapped)

/-- A code below 3 names a format of one register. -/
theorem fcvt_narrow (hm : lnFmtOf f.toNat = some m) (he : e.toNat < 3) : (e == 3) = false ∧ fcvtIllegal f e = false := by
  refine ⟨beq_eq_false_iff_ne.2 fun h => ?_, ?_⟩
  · subst h; exact absurd he (by decide)
  · rw [fcvtIllegal, lnFmtOf_listed hm, decide_eq_false (by omega)]; rfl

/-- Code 3 names binary64, which is listed. -/
theorem fcvt_wide (hm : lnFmtOf f.toNat = some m) : fcvtIllegal f 3 = false := by
  rw [fcvtIllegal, lnFmtOf_listed hm]; rfl

section Words

variable (hi : Issues s x) (hm : lnFmtOf f.toNat = some m) (hh : Hinted x none true false false)
include hi hm hh

/-- FCVT to LN from a format of one register. -/
theorem fcvtToLn_completes (hr : Usable x [vN d, vN a]) (he : e.toNat < 3) :
    CompletesFlags (.fcvtToLn d a f e) s x true (setActiveFlags x d.toNat (fun l =>
      lnResult m (ieeeToLn (ieeeFmt e.toNat) m (x.rounding l 0) (x.amr.getLsbD 5) (x.arch.getV a.toNat l).toNat)) x.arch) := by
  obtain ⟨narrow, listed⟩ := fcvt_narrow hm he
  refine roundingWord_completes hi hr hh (exec_fcvtToLn ..) listed (by rw [narrow]; rfl) (by rw [narrow]; simp) ?_
  simp only [narrow, hm, Option.getD_some, Bool.false_eq_true, if_false]

/-- FCVT to LN from binary64, which stands in an even pair. -/
theorem fcvtToLn64_completes (hr : Usable x (vN d :: vPair a)) (even : a.getLsbD 0 = false) :
    CompletesFlags (.fcvtToLn d a f 3) s x true (setActiveFlags x d.toNat (fun l =>
      lnResult m (ieeeToLn (ieeeFmt 3) m (x.rounding l 0) (x.amr.getLsbD 5) (x.arch.getV64 a.toNat l).toNat)) x.arch) := by
  refine roundingWord_completes hi hr hh (exec_fcvtToLn ..) (fcvt_wide hm) even (by simp) ?_
  simp only [hm, Option.getD_some]
  rfl

/-- FCVT to an IEEE format of one register. -/
theorem fcvtToIeee_completes (hr : Usable x [vN d, vN a]) (he : e.toNat < 3) :
    CompletesFlags (.fcvtToIeee d a f e) s x true (setActiveFlags x d.toNat (fun l =>
      let r := lnToIeee (ieeeFmt e.toNat) m (x.rounding l 0) (x.amr.getLsbD 6) (lnVal m (x.arch.getV a.toNat l).toNat)
      (BitVec.ofNat 32 r.1, r.2)) x.arch) := by
  obtain ⟨narrow, listed⟩ := fcvt_narrow hm he
  refine roundingWord_completes hi hr hh (exec_fcvtToIeee ..) listed (by rw [narrow]; rfl) (by rw [narrow]; simp) ?_
  simp only [narrow, hm, Option.getD_some, Bool.false_eq_true, if_false]

/-- FCVT to binary64, which stands in an even pair. -/
theorem fcvtToIeee64_completes (hr : Usable x (vN a :: vPair d)) (even : d.getLsbD 0 = false) :
    CompletesFlags (.fcvtToIeee d a f 3) s x true (setActiveFlags64 x d.toNat (fun l =>
      let r := lnToIeee (ieeeFmt 3) m (x.rounding l 0) (x.amr.getLsbD 6) (lnVal m (x.arch.getV a.toNat l).toNat)
      (BitVec.ofNat 64 r.1, r.2)) x.arch) := by
  refine roundingWord_completes hi hr hh (exec_fcvtToIeee ..) (fcvt_wide hm) even (by simp) ?_
  simp only [hm, Option.getD_some]
  rfl

end Words

end Sys2Proof.Machine
end

section
-- One proof is elaborated at a time: the check bounds the threads of the whole text.
set_option Elab.async false
/-! PROOF of O12: the conversion words, and the values of their functions. -/

open Sys2Proof Sys2Proof.Machine

/-- Settles O12. The words complete by their shape; the values are the cases of each conversion (`lnFix_fin`, `lnFloat_ne_zero`,
`ieeeToLn_eq`, `lnToIeee_fin`) with the rounding of a magnitude to an integer (`roundInt_eq`). -/
theorem lnConversionResults : Obligations.LnConversionResults := by
  unfold Obligations.LnConversionResults
  refine ⟨fun s x d a b f sg n e m hi => ?words, fun m k s l hk _ _ => ?values⟩
  case words =>
    intro A R
    refine ⟨fun hr hh => ?pack, fun hm hh => ⟨fun hr => ⟨?fix, ?float, fun he => ⟨?toLn, ?toIeee⟩⟩, fun hr even => ?toLn64,
      fun hr even => ?toIeee64⟩⟩
    case pack => exact plainWord_completes hi hr hh (exec_lpack ..) rfl (by simp) rfl
    case fix => exact (lun_completes hi hr hm (exec_lfix ..) (Nat.zero_le _) hh :)
    case float => exact (lun_completes hi hr hm (exec_lflt ..) (Nat.zero_le _) hh :)
    case toLn => exact fcvtToLn_completes hi hm hh hr he
    case toIeee => exact fcvtToIeee_completes hi hm hh hr he
    case toLn64 => exact fcvtToLn64_completes hi hm hh hr even
    case toIeee64 => exact fcvtToIeee64_completes hi hm hh hr even
  case values =>
    intro y e u rounded
    have round (v : Nat) (z : Int) : roundInt k s v z = rounded v z := roundInt_eq hk v z
    refine ⟨fun sg n => ?fixed, fun v => isPow2_iff, fun v n => ?float, fun t ht => ?ieee, rfl, rfl, rfl, rfl⟩
    case fixed =>
      intro low high r v
      refine ⟨rfl, rfl, rfl, rfl, ?_⟩
      rw [lnFix_fin, round]
      rfl
    case float =>
      intro r
      exact ⟨rfl, fun h => lnFloat_ne_zero h n⟩
    case ieee =>
      intro top frac sign emin
      refine ⟨fun flush ex fr hex hfr => ?fromIeee, fun flush => ?toIeee⟩
      case fromIeee =>
        intro r value
        have byFields : r = _ := ieeeToLn_eq (m := m) (k := k) (s := s) (filled_of_listed ht) flush hex hfr
        refine ⟨fun h h0 => ?nan, fun h h0 => ?infinite, fun h h0 => ?zero, fun h h0 hf => ?subnormal, fun h h1 => ?normal⟩
        case nan => exact byFields.trans ((if_pos h).trans (if_neg h0))
        case infinite => exact byFields.trans ((if_pos h).trans (if_pos h0))
        case zero => exact byFields.trans ((if_neg (by omega)).trans ((if_pos h).trans (if_pos h0)))
        case subnormal => exact byFields.trans ((if_neg (by omega)).trans ((if_pos h).trans (if_neg (by simp [h0, hf]))))
        case normal => exact byFields.trans ((if_neg h1.ne).trans (if_neg h))
      case toIeee =>
        intro limit y1 e1 r enc flags
        refine ⟨rfl, congrArg (· + limit, 0) (t.sign_eq s), congrArg (·, 0) (t.sign_eq s), ?_⟩
        rw [lnToIeee_fin, round]
        rfl

end

section
-- One proof is elaborated at a time: the check bounds the threads of the whole text.
set_option Elab.async false
/-! SUPPORT for O13: the words of the flag word complete (R157). -/

namespace Sys2Proof.Machine

variable {s : State} {x : Issue} {i : Instr} {a : BitVec 8} {y : Arch} {rs : List RegRef}

/-- A word that reads or writes fl besides its registers: no check of the decoder concerns fl. -/
theorem flWord_completes (hi : Issues s x) (hr : Usable x rs) (hh : Hinted x none false false false)
    {reads writes readsState writesState : List RegRef} {f : Issue → Arch → Arch}
    (hx : exec i s = issueArch { reads := reads, writes := writes, readsState := readsState, writesState := writesState }
      (fun x r => (f x r, [])) s)
    (named : reads ++ writes ⊆ rs) (result : f x x.arch = y) : Completes i s x y := by
  subst result
  exact hx.trans (issueArch_regs hi hr hh (limm_none _) rfl rfl rfl nofun rfl rfl (fun n h => named (by simpa [Use.regs] using h)) rfl rfl)

/-- A rewrite of fl puts a function of the old flags and the lane's mask in each active lane. -/
theorem flagWrite_completes {old : Bool} {f : BitVec 16 → BitVec 16 → BitVec 16} (hi : Issues s x) (hr : Usable x [vN a])
    (hh : Hinted x none false false false) (hx : exec i s = flagWrite old a f s) :
    Completes i s x ((laneList x.active).foldl (fun r l =>
      r.setFl l (f (x.arch.getFl l) ((x.arch.getV a.toNat l).setWidth 16 &&& 0x1FF))) x.arch) :=
  flWord_completes hi hr hh hx (by simp) rfl

end Sys2Proof.Machine
end

section
-- One proof is elaborated at a time: the check bounds the threads of the whole text.
set_option Elab.async false
/-! PROOF of O13: the words of FLAG. -/

open Sys2Proof Sys2Proof.Machine

/-- Settles O13: the rewrites of fl have one shape (`flagWrite_completes`), and the other words read fl into a register. -/
theorem flagWordResults : Obligations.FlagWordResults := by
  unfold Obligations.FlagWordResults
  intro s x a d hi hh F mask puts
  refine ⟨fun hr => ⟨?get, ?set, ?clr, ?put⟩, fun hr => ?gor, fun hr => ?tst⟩
  case get => exact flWord_completes hi hr hh (exec_flagGet ..) (by simp) rfl
  case set => exact (flagWrite_completes hi hr hh (exec_flagSet ..) :)
  case clr => exact (flagWrite_completes hi hr hh (exec_flagClr ..) :)
  case put => exact (flagWrite_completes hi hr hh (exec_flagPut ..) :)
  case gor => exact flWord_completes hi hr hh (exec_flagGor ..) (by simp) rfl
  case tst =>
    exact flWord_completes hi hr hh (exec_flagTst ..) (by simp) (setActiveP_congr fun l => by rw [BitVec.and_assoc])

end

section
-- One proof is elaborated at a time: the check bounds the threads of the whole text.
set_option Elab.async false
/-! SUPPORT for O14, O15 and O17: a word whose body changes its group as a whole completes with it. -/

namespace Sys2Proof.Machine

variable {s : State} {x : Issue} {u : Use} {body : Issue → State → Res} {i : Instr} {g h : Group} {rs : List RegRef}

/-! ### Groups of one slot -/

/-- g stands in the slot of h, with its held flags and its registers in error. -/
structure Group.Retains (h g : Group) : Prop where
  core : g.core = h.core
  slot : g.slot = h.slot
  heldFlags : g.heldFlags = h.heldFlags
  bad : g.bad = h.bad

theorem Group.Retains.refl (g : Group) : g.Retains g := ⟨rfl, rfl, rfl, rfl⟩

theorem Group.Retains.setAcc (k : h.Retains g) (n : Nat) (a : Acc) : h.Retains (g.setAcc n a) := ⟨k.core, k.slot, k.heldFlags, k.bad⟩

theorem Group.Retains.serveArd (k : h.Retains g) (n : Nat) : h.Retains (serveArd n g) := ⟨k.core, k.slot, k.heldFlags, k.bad⟩

theorem Group.Retains.retireFlags (k : h.Retains g) (ns : List Nat) : h.Retains (retireFlags ns g).1 :=
  foldl_keeps (P := fun g : Group => h.Retains g) k fun g n kept => by
    split
    · exact kept
    · exact kept.setAcc n _

/-! ### Completion -/

/-- A word whose body puts a group into the issuing slot and raises flags completes with that group and those flags. -/
theorem group_completesWith {fs : List (Nat × BitVec 9)} (hi : Issues s x) (hx : exec i s = issue u body s)
    (passes : decodeFault u x = none ∧ u.tokens x = []) (hb : body x s = .done { s := s.setGroup g, flags := fs })
    (kept : x.e.g.Retains g) : CompletesWith i s x s fs u.rounds g := by
  intro quiet a
  obtain ⟨core, slot, heldFlags, bad⟩ := kept
  rw [hx, issue_body hi passes.1 passes.2 hb, finish_done (hi.group?_setGroup core slot) passes.2 rfl rfl quiet
    (by rw [heldFlags]; exact hi.held) hi.fence (bad.trans hi.bad)]
  simp only [Bool.or_false, Option.getD_none]
  exact congrArg _ (State.setGroup_setGroup _ _ _ rfl rfl)

/-- As `group_completesWith`, for a body that raises no flag. -/
theorem group_completes (hi : Issues s x) (hx : exec i s = issue u body s) (passes : decodeFault u x = none ∧ u.tokens x = [])
    (hr : u.rounds = false) (hb : body x s = .done { s := s.setGroup g }) (kept : x.e.g.Retains g) : CompletesGroup i s x g := by
  obtain ⟨core, slot, heldFlags, bad⟩ := kept
  rw [CompletesGroup, hx, issue_closes hi passes hr hb (hi.group?_setGroup core slot) (by rw [heldFlags]; exact hi.held)
    (bad.trans hi.bad), Issue.closes_setGroup _ _ _ _ rfl rfl]

/-- As `group_completes`, for a body that changes registers alone. -/
theorem arch_completes {a : Arch} (hi : Issues s x) (hx : exec i s = issue u body s)
    (passes : decodeFault u x = none ∧ u.tokens x = []) (hr : u.rounds = false)
    (hb : body x s = .done { s := s.setGroup { x.e.g with arch := a } }) : Completes i s x a :=
  group_completes hi hx passes hr hb ⟨rfl, rfl, rfl, rfl⟩

/-! ### Tile registers (R159, R185) -/

/-- A field below 8 names a tile register. -/
theorem notTile_of_lt {t : BitVec 6} (h : t.toNat < 8) : notTile t = false := by
  have high : t.extractLsb' 3 3 = 0 := BitVec.eq_of_toNat_eq (by
    rw [BitVec.extractLsb'_toNat, Nat.shiftRight_eq_div_pow, Nat.div_eq_of_lt h]; rfl)
  rw [notTile, high]
  rfl

end Sys2Proof.Machine
end

section
-- One proof is elaborated at a time: the check bounds the threads of the whole text.
set_option Elab.async false
/-! PROOF of O14: TMOV, TWSET and TWGET. -/

open Sys2Proof Sys2Proof.Machine

/-- Settles O14: each word passes the decoder (`passes_checks`) and its body changes registers alone (`arch_completes`). -/
theorem tileRegisterResults : Obligations.TileRegisterResults := by
  unfold Obligations.TileRegisterResults
  intro s x t u b n hi hh
  refine ⟨fun hr ht hu idle clean => ?tmov, fun hr hn => ⟨fun reserved => ?twset, ?twget⟩⟩
  case tmov =>
    intro a
    refine arch_completes hi (exec_tmov t u s) (passes_checks hr hh (limm_none _) ⟨?_, rfl⟩ ⟨rfl, rfl⟩ ⟨rfl, rfl⟩ ?_) rfl ?_
    · simp only [notTile_of_lt ht, notTile_of_lt hu, Bool.or_self]
    · simp [Use.regs, or_comm]
    · have poison : x.arch.tPoison.contains u.toNat = false := by simpa using clean
      simp only [idle, poison, Bool.false_eq_true, if_false]
      rfl
  case twset =>
    refine arch_completes hi (exec_twset n b s) (passes_checks hr hh (limm_none _) ⟨rfl, rfl⟩ ⟨rfl, rfl⟩ ⟨rfl, ?_⟩ ?_) rfl ?_
    · exact decide_eq_false hn.not_ge
    · simp [Use.regs]
    · exact if_neg (not_not_intro reserved)
  case twget =>
    refine arch_completes hi (exec_twget n b s) (passes_checks hr hh (limm_none _) ⟨rfl, rfl⟩ ⟨rfl, rfl⟩ ⟨rfl, ?_⟩ ?_) rfl rfl
    · exact decide_eq_false hn.not_ge
    · simp [Use.regs]

end

section
-- One proof is elaborated at a time: the check bounds the threads of the whole text.
set_option Elab.async false
/-! SUPPORT for O15: words that wait for accumulators and retire their flags (R165, R166). -/

namespace Sys2Proof.Machine

variable {s : State} {x : Issue} {u : Use} {body : Issue → State → Res} {i : Instr} {ns : List Nat} {f : Issue → Group → Group}
  {g : Group} {fs : List (Nat × BitVec 9)}

/-- The group of x after the flags of accumulators were retired. -/
def Issue.bare (x : Issue) (ns : List Nat) : Group := (retireFlags ns x.e.g).1

theorem Issue.bare_retains (x : Issue) (ns : List Nat) : x.e.g.Retains (x.bare ns) := (Group.Retains.refl _).retireFlags ns

/-- A word that waits for accumulators with no operation left completes with what it makes of its group, and their flags join fl. -/
theorem retiring_completes (hi : Issues s x) (hx : exec i s = issue u body s) (passes : decodeFault u x = none ∧ u.tokens x = [])
    (idle : ns.any x.e.g.usesAcc = false) (hb : body x s = retiring ns f x s) (flags : ns.flatMap (fun n => (x.e.g.acc n).flags) = fs)
    (result : f x (x.bare ns) = g) (kept : x.e.g.Retains g) : CompletesWith i s x s fs u.rounds g := by
  subst flags result
  refine group_completesWith hi hx passes (hb.trans ?_) kept
  simp only [retiring, idle, Bool.false_eq_true, if_false]
  rfl

/-- A group that has no register in error has no accumulator to mend. -/
theorem Group.Retains.mendAcc {g h : Group} (k : h.Retains g) (clean : h.bad = []) (n : Nat) : g.mendAcc n = g :=
  g.mend_none _ (k.bad.trans clean)

/-- The group of x after the flags of accumulators were retired and the ARDs of accumulator n served. -/
def Issue.served (x : Issue) (ns : List Nat) (n : Nat) : Group := serveArd n (x.bare ns)

theorem Issue.served_retains (x : Issue) (ns : List Nat) (n : Nat) : x.e.g.Retains (x.served ns n) := (x.bare_retains ns).serveArd n

/-! ### The elements that an AWR writes (R183) -/

/-- The accumulator a after an AWR of the rows of the active lanes. -/
def Issue.written (x : Issue) (q : BitVec 5) (a : Acc) : Acc :=
  { (laneList x.active).foldl (fun b l => (List.range 8).foldl (fun b k =>
      b.setElem l k (if a.fmt = .narrow then x.arch.getV (8 * q.toNat + k) l &&& 0xFFFF else x.arch.getV (8 * q.toNat + k) l)) b) a with
    poison := a.poison && x.active != BitVec.allOnes 64 }

/-- Two runs agree where their steps agree on what a run keeps. -/
theorem foldl_congr_keeps {α β : Type} {f g : β → α → β} {P : β → Prop} {b : β} (ls : List α) (h : P b)
    (keeps : ∀ b y, P b → P (g b y)) (same : ∀ b y, P b → f b y = g b y) : ls.foldl f b = ls.foldl g b := by
  induction ls generalizing b with
  | nil => rfl
  | cons y ls ih => rw [List.foldl_cons, List.foldl_cons, same b y h, ih (keeps b y h)]

/-- Elements that are cut to the format of the accumulator as it then stands are cut to its first one. -/
theorem foldl_setElem_format (a : Acc) (ls : List Nat) (w : Nat → Nat → Word) :
    ls.foldl (fun b l => (List.range 8).foldl (fun b k => b.setElem l k (if b.fmt = .narrow then w k l &&& 0xFFFF else w k l)) b) a
      = ls.foldl (fun b l => (List.range 8).foldl (fun b k => b.setElem l k (if a.fmt = .narrow then w k l &&& 0xFFFF else w k l)) b) a :=
  foldl_congr_keeps (P := fun b : Acc => b.fmt = a.fmt) ls rfl
    (fun _ _ h => foldl_keeps (P := fun b : Acc => b.fmt = a.fmt) h fun _ _ h => h)
    fun _ _ h => foldl_congr_keeps (P := fun b : Acc => b.fmt = a.fmt) _ h (fun _ _ h => h) fun _ _ h => by rw [h]

section Words

variable {c m : BitVec 3} {q : BitVec 5} (hi : Issues s x) (hh : Hinted x none false false false)
include hi

theorem Issue.mendAcc_served (ns : List Nat) (n : Nat) : (x.served ns n).mendAcc n = x.served ns n :=
  (x.served_retains ns n).mendAcc hi.bad n

include hh

/-- ACLR (R181). -/
theorem clearAcc_completes {fmt : AccFmt} {f : BitVec 5} (hx : exec i s = clearAcc c fmt f s) (hr : Usable x [.a c.toNat])
    (idle : x.e.g.usesAcc c.toNat = false) : CompletesWith i s x s (x.e.g.acc c.toNat).flags false
      ((x.served [c.toNat] c.toNat).setAcc c.toNat { fmt := fmt, f := f }) := by
  refine retiring_completes hi hx (passes_checks hr hh (limm_none _) ⟨rfl, rfl⟩ ⟨rfl, rfl⟩ ⟨rfl, rfl⟩ (by simp [Use.regs]))
    (by simp [idle]) rfl (List.append_nil _) ?_ ((x.served_retains ..).setAcc ..)
  exact congrArg (Group.setAcc · c.toNat _) (Issue.mendAcc_served hi [c.toNat] c.toNat)

/-- MWAIT of one accumulator (R187). -/
theorem mwait_completes (hr : Usable x [.a c.toNat]) (idle : x.e.g.usesAcc c.toNat = false) :
    CompletesWith (.mwait c) s x s (x.e.g.acc c.toNat).flags false (x.bare [c.toNat]) :=
  retiring_completes hi (exec_mwait ..) (passes_checks hr hh (limm_none _) ⟨rfl, rfl⟩ ⟨rfl, rfl⟩ ⟨rfl, rfl⟩ (by simp [Use.regs]))
    (by simp [idle]) rfl (List.append_nil _) rfl (x.bare_retains _)

/-- MWAIT of all accumulators (R187). -/
theorem mwaitAll_completes (idle : ∀ n, n < 8 → x.e.g.usesAcc n = false) : CompletesWith .mwaitAll s x s
    ((List.range 8).flatMap fun n => (x.e.g.acc n).flags) false (x.bare (List.range 8)) :=
  retiring_completes hi (exec_mwaitAll ..) (passes_checks (rs := []) nofun hh (limm_none _) ⟨rfl, rfl⟩ ⟨rfl, rfl⟩ ⟨rfl, rfl⟩
    (by simp [Use.regs])) (List.any_eq_false.2 fun n hn => by simp [idle n (List.mem_range.1 hn)]) rfl rfl rfl (x.bare_retains _)

/-- AWR (R183, R411): the elements keep the format of the accumulator, so that each is cut to it as the statement has it. -/
theorem awr_completes (hr : Usable x (quarter q ++ [.a c.toNat])) (idle : x.e.g.usesAcc c.toNat = false)
    (fmt : (x.e.g.acc c.toNat).fmt ≠ .none) : CompletesWith (.awr c q) s x s (x.e.g.acc c.toNat).flags false
      ((x.served [c.toNat] c.toNat).setAcc c.toNat (x.written q ((x.served [c.toNat] c.toNat).acc c.toNat))) := by
  refine retiring_completes hi (exec_awr ..) (passes_checks hr hh (limm_none _) ⟨rfl, rfl⟩ ⟨rfl, rfl⟩ ⟨rfl, rfl⟩ (by simp [Use.regs]))
    (by simp [idle]) (if_neg fmt) (List.append_nil _) ?_ ((x.served_retains ..).setAcc ..)
  have whole : (if x.active = BitVec.allOnes 64 then (x.served [c.toNat] c.toNat).mendAcc c.toNat else x.served [c.toNat] c.toNat)
      = x.served [c.toNat] c.toNat := by rw [Issue.mendAcc_served hi, ite_self]
  rw [Issue.written, ← foldl_setElem_format]
  exact congrArg (Group.setAcc · c.toNat _) whole

/-- AMOV (R184, R411). -/
theorem amov_completes (hr : Usable x [.a c.toNat, .a m.toNat]) (idle : x.e.g.usesAcc c.toNat = false)
    (idleSource : x.e.g.usesAcc m.toNat = false) (clean : (x.e.g.acc m.toNat).poison = false) :
    CompletesWith (.amov c m) s x s ((x.e.g.acc m.toNat).flags ++ (x.e.g.acc c.toNat).flags) false
      ((x.served [m.toNat, c.toNat] c.toNat).setAcc c.toNat ((x.served [m.toNat, c.toNat] c.toNat).acc m.toNat)) := by
  have both : [m.toNat, c.toNat].any x.e.g.usesAcc = false := by simp [idle, idleSource]
  refine retiring_completes hi (exec_amov ..) (passes_checks hr hh (limm_none _) ⟨rfl, rfl⟩ ⟨rfl, rfl⟩ ⟨rfl, rfl⟩ ?_) both
    ((if_neg (Bool.eq_false_iff.1 both)).trans (if_neg (Bool.eq_false_iff.1 clean))) (congrArg (_ ++ ·) (List.append_nil _)) ?_
    ((x.served_retains ..).setAcc ..)
  · simp [Use.regs, or_comm]
  · exact congrArg (fun g : Group => g.setAcc c.toNat (g.acc m.toNat)) (Issue.mendAcc_served hi _ c.toNat)

/-- ARD with determinism off: its registers become pending (R182). -/
theorem ard_completes {d : BitVec 6} (hr : Usable x (.a c.toNat :: quarter q ++ [sN d])) (fmt : (x.e.g.acc c.toNat).fmt ≠ .none)
    (clean : (x.e.g.acc c.toNat).poison = false) (mode : x.e.l.lh.mode = 0) : CompletesGroup (.ard c q d) s x
      (x.e.g.addResult { ard := some (c.toNat, q.toNat, d.toNat, x.active) } (quarter q ++ [sN d])) := by
  refine group_completes hi (exec_ard ..) (passes_checks hr hh (limm_none _) ⟨rfl, rfl⟩ ⟨rfl, rfl⟩ ⟨rfl, rfl⟩ ?_) rfl ?_
    ⟨rfl, rfl, rfl, rfl⟩
  · simp [Use.regs]
  · have free : ¬ (x.e.l.lh.mode ≠ 0) := not_not_intro mode
    simp only [if_neg fmt, clean, if_neg free, decide_eq_false free, hi.fence, Bool.false_and, Bool.false_eq_true, if_false]
    rfl

end Words

end Sys2Proof.Machine
end

section
-- One proof is elaborated at a time: the check bounds the threads of the whole text.
set_option Elab.async false
/-! PROOF of O15: the accumulator words. -/

open Sys2Proof Sys2Proof.Machine

/-- Settles O15, word by word: an accumulator that is not in use lets each word pass its wait and retire its flags
(`retiring_completes`), and in a group without an error nothing is left to mend. -/
theorem accumulatorResults : Obligations.AccumulatorResults := by
  unfold Obligations.AccumulatorResults
  refine ⟨fun s x c m q f hi hh => ?retire, fun s x c q d hi hh hr fmt clean mode => ?ard⟩
  case retire =>
    intro idle flags bare served
    refine ⟨fun hr h => ⟨clearAcc_completes hi hh (exec_aclrLn32 ..) hr h, clearAcc_completes hi hh (exec_aclrLn16 ..) hr h,
      clearAcc_completes hi hh (exec_aclrS32 ..) hr h, mwait_completes hi hh hr h⟩,
      fun hr h fmt => awr_completes hi hh hr h fmt, fun hr hc hm clean => amov_completes hi hh hr hc hm clean,
      fun h => mwaitAll_completes hi hh h⟩
  case ard => exact ard_completes hi hh hr fmt clean mode

end

section
-- One proof is elaborated at a time: the check bounds the threads of the whole text.
set_option Elab.async false
/-! SUPPORT for O17: the rows that a TLD reads and a TST writes (R162, R185). -/

namespace Sys2Proof.Machine

variable {s t : State} {x : Issue} {desc : BitVec 64} {n d st : BitVec 6} {g : Group} {core slot : Nat}

/-- The fields of a TLD or a TST are listed ones when they name a tile register and a scratch operand (R185). -/
theorem tileAccess_legal (ht : n.toNat < 8) (hd : xIsTile d = false) : (notTile n || xIsTile d) = false := by
  rw [notTile_of_lt ht, hd]; rfl

/-! ### TLD -/

/-- A group that stands past no fence watches nothing. -/
theorem Group.watch_quiet (hf : g.fence = none) (ws : List Watch) : g.watch ws = g := by rw [Group.watch, hf]

/-- Where the chunk c of a row of a scratch operand is (R162). -/
def Issue.chunkPlace (x : Issue) (s : State) (desc : BitVec 64) (c : Nat × Nat) : Option Place :=
  handlePlace s x.e.accessor (descHandle desc) c.1 c.2

/-- Row r as a TLD reads it: its bytes, the units that it watches, and whether a byte of it is poisoned. -/
def Issue.tileRow (x : Issue) (s : State) (desc : BitVec 64) (st r : Nat) : List Byte × List Watch × Bool :=
  (rowChunks desc 1 st r 32).foldl (fun acc c =>
    match x.chunkPlace s desc c with
    | some p =>
      let b := x.e.g.readLane s r p c.2
      (acc.1 ++ b.1, acc.2.1 ++ b.2, acc.2.2 || s.poisonedPlace p c.2)
    | none => acc) ([], [], false)

/-- The group of x after a TLD of the rows of its active lanes. -/
def Issue.tileLoaded (x : Issue) (s : State) (desc : BitVec 64) (st n : Nat) : Group :=
  let rows := (laneList x.active).map fun r => (x.tileRow s desc st r, r)
  (x.e.g.bump.watch (rows.flatMap fun r => r.1.2.1)).addResult
    { t := rows.flatMap fun r => rowCells n r.2 r.1.1, tile := some (n, rows.any fun r => r.1.2.2, x.active == BitVec.allOnes 64)
      spec := x.e.g.fence.isSome } [.t n]

/-- A run that collects bytes and poison. -/
theorem foldl_collects_bytes {α : Type} {step : List Byte × List Watch × Bool → α → List Byte × List Watch × Bool} {bytes : α → List Byte}
    {bad : α → Bool} (h : ∀ acc c, step acc c = (acc.1 ++ bytes c, acc.2.1, acc.2.2 || bad c)) (cs : List α)
    (acc : List Byte × List Watch × Bool) : cs.foldl step acc = (acc.1 ++ cs.flatMap bytes, acc.2.1, acc.2.2 || cs.any bad) := by
  induction cs generalizing acc with
  | nil => simp
  | cons c cs ih => simp [ih, h, Bool.or_assoc]

/-- Without a fence a row is the bytes of its chunks in memory, and nothing is watched. -/
theorem Issue.tileRow_eq (hf : x.e.g.fence = none) (st r : Nat) : x.tileRow s desc st r =
    ((rowChunks desc 1 st r 32).flatMap fun c => ((x.chunkPlace s desc c).map fun p => readAny s p c.2).getD [], [],
      (rowChunks desc 1 st r 32).any fun c => ((x.chunkPlace s desc c).map fun p => s.poisonedPlace p c.2).getD false) := by
  unfold Issue.tileRow
  rw [foldl_collects_bytes (bytes := fun c => ((x.chunkPlace s desc c).map fun p => readAny s p c.2).getD [])
    (bad := fun c => ((x.chunkPlace s desc c).map fun p => s.poisonedPlace p c.2).getD false) fun acc c => ?_]
  · rfl
  · cases x.chunkPlace s desc c with
    | none => simp
    | some p => simp [Group.readLane, hf]

/-- A TLD whose tile register no operation reads and whose descriptor passes its checks makes that register pending. -/
theorem tld_completes (hi : Issues s x) (hh : Hinted x none false false false) (ht : n.toNat < 8) (hd : xIsTile d = false)
    (hr : Usable x (xReads d ++ [.t n.toNat])) (idle : x.e.g.usesTile n.toNat = false)
    (check : checkDesc s x.e.accessor (x.arch.getS64 (2 * (d.toNat % 32))) 1 32 [st.toNat] (laneList x.active) = none) :
    CompletesGroup (.tld n d st) s x (x.tileLoaded s (x.arch.getS64 (2 * (d.toNat % 32))) st.toNat n.toNat) := by
  refine group_completes hi (exec_tld n d st s)
    (passes_checks hr hh (limm_none _) ⟨tileAccess_legal ht hd, rfl⟩ ⟨rfl, rfl⟩ ⟨rfl, rfl⟩ ?_) rfl ?_ ?_
  · simp [Use.regs]
  · simp only [idle, check, Bool.false_eq_true, if_false]
    rfl
  · rw [Issue.tileLoaded, Group.watch_quiet (g := x.e.g.bump) hi.fence]
    exact ⟨rfl, rfl, rfl, rfl⟩

/-- Without a fence the pending result holds the rows of the active lanes and nothing is watched. -/
theorem Issue.tileLoaded_eq (hf : x.e.g.fence = none) (st n : Nat) : x.tileLoaded s desc st n = x.e.g.bump.addResult
    { t := (laneList x.active).flatMap fun r => rowCells n r (x.tileRow s desc st r).1
      tile := some (n, (laneList x.active).any fun r => (x.tileRow s desc st r).2.2, x.active == BitVec.allOnes 64) } [.t n] := by
  have unwatched (ws : List Watch) : x.e.g.bump.watch ws = x.e.g.bump := Group.watch_quiet (g := x.e.g.bump) hf ws
  simp only [Issue.tileLoaded, unwatched, hf, List.flatMap_map, List.any_map]
  rfl

/-! ### TST -/

/-- Chunk c of a row is written at its place (R162). -/
def Issue.storeChunk (x : Issue) (desc : BitVec 64) (row : List Byte) (t : State) (c : (Nat × Nat) × Nat) : State :=
  match x.chunkPlace t desc c.1 with
  | some p => t.writePlace p (sliceBytes row (16 * c.2) 16) x.tag
  | none => t

/-- The chunks of row r of tile register n are written, the lower one first. -/
def Issue.storeRow (x : Issue) (desc : BitVec 64) (st n : Nat) (t : State) (r : Nat) : State :=
  ((rowChunks desc 1 st r 32).zip (List.range 2)).foldl (x.storeChunk desc (x.arch.tRow n r)) t

/-- The machine after a TST of the rows of the active lanes, ascending. -/
def Issue.tileStored (x : Issue) (s : State) (desc : BitVec 64) (st n : Nat) : State :=
  (laneList x.active).foldl (x.storeRow desc st n) (s.setGroup x.e.g.bump)

theorem storeLane_quiet (hg : t.group? core slot = some g) (hf : g.fence = none) (i : Nat) (tag : BitVec 64) (p : Place) (bs : List Byte) :
    storeLane t core slot i tag p bs = t.writePlace p bs tag := by
  unfold Machine.storeLane
  rw [hg, Option.bind_some, hf]

/-- The slot of x holds its group with one request more. -/
def Issue.Requested (x : Issue) (t : State) : Prop := t.group? x.core x.slot = some x.e.g.bump

theorem Issue.Requested.storeChunk (h : x.Requested t) (hf : x.e.g.fence = none) (hw : x.e.g.wait = .none) (row : List Byte)
    (c : (Nat × Nat) × Nat) : x.Requested (x.storeChunk desc row t c) := by
  unfold Issue.storeChunk
  split
  · exact State.group?_writePlace_quiet h hf hw _ _ _ _
  · exact h

theorem Issue.Requested.storeRow (h : x.Requested t) (hf : x.e.g.fence = none) (hw : x.e.g.wait = .none) (st n r : Nat) :
    x.Requested (x.storeRow desc st n t r) := foldl_keeps h fun _ _ h => h.storeChunk hf hw _ _

theorem requested_tileStored (hi : Issues s x) (hw : x.e.g.wait = .none) (st n : Nat) : x.Requested (x.tileStored s desc st n) :=
  foldl_keeps (hi.group?_setGroup rfl rfl : x.Requested _) fun _ _ h => h.storeRow hi.fence hw _ _ _

/-- With no fence and no poison in its tile register, a TST whose descriptor passes its checks writes its rows at once. -/
theorem tst_completes (hi : Issues s x) (hh : Hinted x none false false false) (hw : x.e.g.wait = .none) (ht : n.toNat < 8)
    (hd : xIsTile d = false) (hr : Usable x (xReads d ++ [.t n.toNat])) (clean : n.toNat ∉ x.arch.tPoison)
    (check : checkDesc s x.e.accessor (x.arch.getS64 (2 * (d.toNat % 32))) 1 32 [st.toNat] (laneList x.active) = none) :
    exec (.tst n d st) s
      = .next (x.closes s (x.tileStored s (x.arch.getS64 (2 * (d.toNat % 32))) st.toNat n.toNat) x.e.g.bump x.onward) := by
  refine issue_closes hi (passes_checks hr hh (limm_none _) ⟨tileAccess_legal ht hd, rfl⟩ ⟨rfl, rfl⟩ ⟨rfl, rfl⟩ ?_) rfl ?_
    (requested_tileStored hi hw _ _) hi.held hi.bad
  · simp [Use.regs]
  · have poison : x.arch.tPoison.contains n.toNat = false := by simpa using clean
    simp only [poison, check, Bool.false_eq_true, if_false]
    refine congrArg (fun t => Res.done { s := t }) (foldl_congr_keeps (P := x.Requested) _ (hi.group?_setGroup rfl rfl)
      (fun _ _ h => h.storeRow hi.fence hw _ _ _) fun _ r h => ?row)
    case row =>
      refine foldl_congr_keeps (P := x.Requested) _ h (fun _ _ h => h.storeChunk hi.fence hw _ _) fun t c h => ?_
      unfold Issue.storeChunk Issue.chunkPlace
      cases handlePlace t x.e.accessor (descHandle (x.arch.getS64 (2 * (d.toNat % 32)))) c.1.1 c.1.2 with
      | none => rfl
      | some p => exact storeLane_quiet h hi.fence r _ p _

end Sys2Proof.Machine
end

section
-- One proof is elaborated at a time: the check bounds the threads of the whole text.
set_option Elab.async false
/-! PROOF of O17: TLD and TST. -/

open Sys2Proof Sys2Proof.Machine

/-- Settles O17: without a fence a TLD reads its rows from memory (`Issue.tileRow_eq`), and a TST writes its chunks at once
(`tst_completes`). -/
theorem tileLoadStoreResults : Obligations.TileLoadStoreResults := by
  unfold Obligations.TileLoadStoreResults
  intro s x t d st hi hh hw ht hd hr desc chunks place check _
  refine ⟨fun idle => ?tld, fun clean => tst_completes hi hh hw ht hd hr clean check⟩
  case tld =>
    intro row bad
    have completes := tld_completes hi hh ht hd hr idle check
    simp only [Issue.tileLoaded_eq hi.fence, Issue.tileRow_eq hi.fence] at completes
    exact completes

end

section
-- One proof is elaborated at a time: the check bounds the threads of the whole text.
set_option Elab.async false
/-! SUPPORT for O18: what a step over the active rows leaves in the elements, the flags and the poison of an accumulator (R160, R169,
R411). -/

namespace Sys2Proof.Machine

variable {a b : Acc} {i j c d : Nat} {mask : LaneMask} {p : Bool} {q : Nat → Bool}

/-! ### Runs over a list -/

/-- What only one element's step concerns, after a run in which that element occurs once. -/
theorem foldl_read_once {α β γ : Type} {step : β → α → β} {read : β → γ} {put : γ → γ} {x : α} {ls : List α} (nodup : ls.Nodup)
    (other : ∀ b, ∀ y ∈ ls, y ≠ x → read (step b y) = read b) (own : ∀ b, read (step b x) = put (read b)) (b : β) :
    (x ∈ ls → read (ls.foldl step b) = put (read b)) ∧ (x ∉ ls → read (ls.foldl step b) = read b) := by
  induction ls generalizing b with
  | nil => simp
  | cons y ls ih =>
    obtain ⟨fresh, nodup⟩ := List.nodup_cons.1 nodup
    obtain ⟨listed, unlisted⟩ := ih nodup (fun b z hz => other b z (List.mem_cons_of_mem _ hz)) (step b y)
    rw [List.foldl_cons]
    by_cases here : y = x
    · subst here
      exact ⟨fun _ => (unlisted fresh).trans (own b), fun h => absurd List.mem_cons_self h⟩
    · have first := other b y List.mem_cons_self here
      exact ⟨fun h => (listed ((List.mem_cons.1 h).resolve_left (Ne.symm here))).trans (congrArg put first),
        fun h => (unlisted fun hx => h (List.mem_cons_of_mem _ hx)).trans first⟩

/-- What a step may set and none takes back is set after a run when it was before or when some step sets it. -/
theorem foldl_sets {α β : Type} {step : β → α → β} {isSet : β → Prop} {sets : α → Prop} {ls : List α}
    (h : ∀ b, ∀ y, isSet (step b y) ↔ isSet b ∨ sets y) (b : β) : isSet (ls.foldl step b) ↔ isSet b ∨ ∃ y ∈ ls, sets y := by
  induction ls generalizing b with
  | nil => simp
  | cons y ls ih => rw [List.foldl_cons, ih, h, or_assoc, List.exists_mem_cons_iff]

/-! ### One element -/

/-- The flags of a row (R166). -/
def Acc.rowFlags (a : Acc) (i : Nat) : BitVec 9 := smGet (0 : BitVec 9) i a.flags

/-- Element (i, c) receives a value, its row the flags, and the accumulator the poison of the two operand rows. -/
def Acc.put (b : Acc) (i c : Nat) (r : Word × BitVec 9) (p q : Bool) : Acc :=
  { (b.setElem i c r.1).raise i r.2 with poison := b.poison || p || q }

/-- Flags change no element and no format. -/
theorem Acc.raise_keeps (b : Acc) (i : Nat) (f : BitVec 9) :
    (b.raise i f).fmt = b.fmt ∧ (b.raise i f).f = b.f ∧ ∀ j d, (b.raise i f).elem j d = b.elem j d := by
  unfold Acc.raise
  split <;> exact ⟨rfl, rfl, fun _ _ => rfl⟩

theorem Acc.rowFlags_raise (b : Acc) (i : Nat) (f : BitVec 9) :
    (b.raise i f).rowFlags j = if j = i then b.rowFlags j ||| f else b.rowFlags j := by
  unfold Acc.raise
  split
  · next none_ => simp [none_]
  · simp only [Acc.rowFlags, smGet_smSet]
    split
    · next same => rw [same]
    · rfl

theorem Acc.put_format (b : Acc) (i c : Nat) (r : Word × BitVec 9) (p q : Bool) :
    (b.put i c r p q).fmt = b.fmt ∧ (b.put i c r p q).f = b.f := by
  obtain ⟨fmt, f, -⟩ := (b.setElem i c r.1).raise_keeps i r.2
  exact ⟨fmt, f⟩

theorem Acc.elem_put (r : Word × BitVec 9) (p q : Bool) (hc : c < 8) (hd : d < 8) :
    (b.put i c r p q).elem j d = if j = i ∧ d = c then r.1 else b.elem j d := by
  have key : 8 * j + d = 8 * i + c ↔ j = i ∧ d = c := by omega
  obtain ⟨-, -, elem⟩ := (b.setElem i c r.1).raise_keeps i r.2
  refine (elem j d).trans ?_
  simp only [Acc.elem, Acc.setElem, smGet_smSet, key]

theorem Acc.rowFlags_put (b : Acc) (i c : Nat) (r : Word × BitVec 9) (p q : Bool) :
    (b.put i c r p q).rowFlags j = if j = i then b.rowFlags j ||| r.2 else b.rowFlags j :=
  (b.setElem i c r.1).rowFlags_raise i r.2

/-! ### One row -/

/-- Row i receives its eight elements. -/
def Acc.putRow (b : Acc) (i : Nat) (r : Nat → Word × BitVec 9) (p : Bool) (q : Nat → Bool) : Acc :=
  (List.range 8).foldl (fun b c => b.put i c (r c) p (q c)) b

section Row

variable {r : Nat → Word × BitVec 9}

theorem Acc.putRow_format (b : Acc) (i : Nat) (r : Nat → Word × BitVec 9) (p : Bool) (q : Nat → Bool) :
    (b.putRow i r p q).fmt = b.fmt ∧ (b.putRow i r p q).f = b.f :=
  foldl_keeps (P := fun t : Acc => t.fmt = b.fmt ∧ t.f = b.f) ⟨rfl, rfl⟩ fun t c ht => by
    obtain ⟨fmt, f⟩ := t.put_format i c (r c) p (q c)
    exact ⟨fmt.trans ht.1, f.trans ht.2⟩

theorem Acc.elem_putRow_same (hd : d < 8) : (b.putRow i r p q).elem i d = (r d).1 := by
  unfold Acc.putRow
  exact (foldl_read_once (step := fun b c => b.put i c (r c) p (q c)) (read := fun t : Acc => t.elem i d) (put := fun _ => (r d).1)
    List.nodup_range
    (fun t c hc ne => by rw [Acc.elem_put _ _ _ (List.mem_range.1 hc) hd, if_neg fun h => ne h.2.symm])
    (fun t => by rw [Acc.elem_put _ _ _ hd hd, if_pos ⟨rfl, rfl⟩]) b).1 (List.mem_range.2 hd)

theorem Acc.rowFlags_putRow_same :
    (b.putRow i r p q).rowFlags i = (List.range 8).foldl (fun fl c => fl ||| (r c).2) (b.rowFlags i) :=
  (List.foldl_hom (fun t : Acc => t.rowFlags i) fun t c => by rw [Acc.rowFlags_put, if_pos rfl]).symm

theorem Acc.putRow_other (h : j ≠ i) (hd : d < 8) :
    (b.putRow i r p q).elem j d = b.elem j d ∧ (b.putRow i r p q).rowFlags j = b.rowFlags j := by
  unfold Acc.putRow
  have inside : ∀ c ∈ List.range 8, c < 8 := fun c => List.mem_range.1
  revert inside
  generalize List.range 8 = cs
  intro inside
  induction cs generalizing b with
  | nil => exact ⟨rfl, rfl⟩
  | cons c cs ih =>
    obtain ⟨elem, flags⟩ := ih (b := b.put i c (r c) p (q c)) fun e he => inside e (List.mem_cons_of_mem _ he)
    rw [List.foldl_cons, elem, flags, Acc.elem_put _ _ _ (inside c List.mem_cons_self) hd, Acc.rowFlags_put, if_neg h,
      if_neg fun k => h k.1]
    exact ⟨rfl, rfl⟩

theorem Acc.poison_putRow : (b.putRow i r p q).poison = true ↔ b.poison = true ∨ ∃ c ∈ List.range 8, p = true ∨ q c = true :=
  foldl_sets (isSet := fun t : Acc => t.poison = true) (fun t c => by simp [Acc.put, or_assoc]) b

end Row

/-! ### All active rows -/

/-- A step: every active row receives its elements, and the step counter counts one. -/
def Acc.stepped (a : Acc) (mask : LaneMask) (r : Nat → Nat → Word × BitVec 9) (p : Nat → Bool) (q : Nat → Nat → Bool) : Acc :=
  { (laneList mask).foldl (fun b i => b.putRow i (r i) (p i) (q i)) a with steps := a.steps + 1 }

section Step

variable {r : Nat → Nat → Word × BitVec 9} {p : Nat → Bool} {q : Nat → Nat → Bool}

theorem laneList_nodup (m : LaneMask) : (laneList m).Nodup := List.nodup_range.filter _

theorem Acc.stepped_format (a : Acc) (mask : LaneMask) (r : Nat → Nat → Word × BitVec 9) (p : Nat → Bool) (q : Nat → Nat → Bool) :
    (a.stepped mask r p q).fmt = a.fmt ∧ (a.stepped mask r p q).f = a.f :=
  foldl_keeps (P := fun t : Acc => t.fmt = a.fmt ∧ t.f = a.f) ⟨rfl, rfl⟩ fun t i ht => by
    obtain ⟨fmt, f⟩ := t.putRow_format i (r i) (p i) (q i)
    exact ⟨fmt.trans ht.1, f.trans ht.2⟩

/-- An active row reads the values of the step; every other row reads as before. -/
theorem Acc.elem_stepped (hj : j < 64) (hd : d < 8) :
    (mask.getLsbD j = true → (a.stepped mask r p q).elem j d = (r j d).1)
    ∧ (mask.getLsbD j = false → (a.stepped mask r p q).elem j d = a.elem j d) := by
  obtain ⟨active, idle⟩ := foldl_read_once (step := fun b i => b.putRow i (r i) (p i) (q i)) (read := fun t : Acc => t.elem j d)
    (put := fun _ => (r j d).1) (laneList_nodup mask) (fun _ _ _ ne => (Acc.putRow_other (Ne.symm ne) hd).1)
    (fun _ => Acc.elem_putRow_same hd) a
  exact ⟨fun h => active ((mem_laneList_iff hj).2 h), fun h => idle fun listed => by simp [(mem_laneList_iff hj).1 listed] at h⟩

/-- An active row takes the flags of its elements; every other row keeps its own. -/
theorem Acc.rowFlags_stepped (hj : j < 64) :
    (mask.getLsbD j = true →
      (a.stepped mask r p q).rowFlags j = (List.range 8).foldl (fun fl c => fl ||| (r j c).2) (a.rowFlags j))
    ∧ (mask.getLsbD j = false → (a.stepped mask r p q).rowFlags j = a.rowFlags j) := by
  obtain ⟨active, idle⟩ := foldl_read_once (step := fun b i => b.putRow i (r i) (p i) (q i)) (read := fun t : Acc => t.rowFlags j)
    (put := (List.range 8).foldl (fun fl c => fl ||| (r j c).2)) (laneList_nodup mask)
    (fun _ _ _ ne => (Acc.putRow_other (Ne.symm ne) (by decide : 0 < 8)).2) (fun _ => Acc.rowFlags_putRow_same) a
  exact ⟨fun h => active ((mem_laneList_iff hj).2 h), fun h => idle fun listed => by simp [(mem_laneList_iff hj).1 listed] at h⟩

/-- An operand row that is poisoned, of an active row of the accumulator, poisons it (R411). -/
theorem Acc.poison_stepped : (a.stepped mask r p q).poison = true ↔ a.poison = true
    ∨ ∃ i c, i < 64 ∧ c < 8 ∧ mask.getLsbD i = true ∧ (p i = true ∨ q i c = true) := by
  refine (foldl_sets (isSet := fun t : Acc => t.poison = true) (ls := laneList mask) (fun t i => Acc.poison_putRow) a).trans
    (or_congr_right ⟨?_, ?_⟩)
  · rintro ⟨i, hi, c, hc, bad⟩
    obtain ⟨low, active⟩ := mem_laneList hi
    exact ⟨i, c, low, List.mem_range.1 hc, active, bad⟩
  · rintro ⟨i, c, low, hc, active, bad⟩
    exact ⟨i, (mem_laneList_iff low).2 active, c, List.mem_range.2 hc, bad⟩

end Step

end Sys2Proof.Machine
end

section
-- One proof is elaborated at a time: the check bounds the threads of the whole text.
set_option Elab.async false
/-! SUPPORT for O18: the product-sum path of an LN element (R170 to R173, R87). -/

namespace Sys2Proof.Machine

variable {f i c : Nat} {o : MatrixOp}

/-! ### Products and their tree (R170, R171) -/

theorem matrixSize_eq (f : Nat) : matrixSize f = if f ≤ 1 then 1 else if f = 2 then 2 else 4 := by
  unfold matrixSize matrixFmt
  split_ifs <;> rfl

/-- A product at its grade: that of LN32 is range-checked, a narrower one is exact in the format of the tree. -/
theorem gradeProduct_eq (hf : f < 4) (x y : LnVal) : gradeProduct f x y =
    let p := lnProduct x y
    match p.1 with
    | .fin n l =>
      if f = 3 then
        let r := rangeCheck .ln32 { mode := 0, inf := true, flush := true, r := 0 } n l
        (r.1, p.2 ||| r.2)
      else (.fin n (l * 2 ^ (if f ≤ 1 then 6 else 13)), p.2)
    | _ => p := by
  unfold gradeProduct
  generalize lnProduct x y = p
  obtain ⟨v, fl⟩ := p
  cases v with
  | fin n l => interval_cases f <;> rfl
  | _ => rfl

/-- One level of the tree: values 2 j and 2 j + 1 are added, and their flags joined. -/
def pairUp (m : LnFmt) (k : Rounding) (xs : Nat → LnVal × BitVec 9) (j : Nat) : LnVal × BitVec 9 :=
  let r := lnAdd m k (xs (2 * j)).1 (xs (2 * j + 1)).1
  (r.1, (xs (2 * j)).2 ||| (xs (2 * j + 1)).2 ||| r.2)

/-- The tree over the values from 2 to the n times j on is the j-th value after n levels. -/
theorem productTree_eq (m : LnFmt) (k : Rounding) (n : Nat) (xs : Nat → LnVal × BitVec 9) (j : Nat) :
    productTree m k n ((List.range (2 ^ n)).map fun i => xs (2 ^ n * j + i)) = Nat.repeat (pairUp m k) n xs j := by
  induction n generalizing j with
  | zero => simp [productTree, Nat.repeat]
  | succ n ih =>
    have halves : (List.range (2 ^ (n + 1))).map (fun i => xs (2 ^ (n + 1) * j + i))
        = (List.range (2 ^ n)).map (fun i => xs (2 ^ n * (2 * j) + i))
          ++ (List.range (2 ^ n)).map (fun i => xs (2 ^ n * (2 * j + 1) + i)) := by
      rw [Nat.pow_succ, Nat.mul_two, List.range_add, List.map_append, List.map_map]
      exact congrArg₂ (· ++ ·) (List.map_congr_left fun i _ => congrArg xs (by ring))
        (List.map_congr_left fun i _ => congrArg xs (by ring))
    rw [halves, productTree, List.take_left' (by simp), List.drop_left' (by simp), ih, ih]
    rfl

/-! ### The accumulator's format and sum (R87, R173) -/

/-- to32: the log of a tree of LN16 gains the bits that LN32 has more. -/
theorem toAccumulator_chain (f : Nat) (v : LnVal) : toAccumulator true (treeFmt f) v =
    match v with
    | .fin n l => .fin n (if f ≤ 1 then l * 2 ^ 13 else l)
    | w => w := by
  cases v with
  | fin n l =>
    simp only [toAccumulator, treeFmt, if_true]
    split_ifs
    · rfl
    · exact congrArg _ (Int.mul_one l)
  | _ => rfl

/-- to16: the log of a tree of LN32 is rounded to the nearest, ties to even. -/
theorem toAccumulator_narrow (f : Nat) (v : LnVal) : toAccumulator false (treeFmt f) v =
    match v with
    | .fin n l =>
      let up := 2 ^ 12 < l % 2 ^ 13 ∨ (l % 2 ^ 13 = 2 ^ 12 ∧ l / 2 ^ 13 % 2 = 1)
      .fin n (if f ≤ 1 then l else if up then l / 2 ^ 13 + 1 else l / 2 ^ 13)
    | w => w := by
  cases v with
  | fin n l =>
    have nearest : roundsUp roundNearest n (l / 2 ^ 13) (l % 2 ^ 13).toNat 13 = true
        ↔ (2 ^ 12 < l % 2 ^ 13 ∨ (l % 2 ^ 13 = 2 ^ 12 ∧ l / 2 ^ 13 % 2 = 1)) := by
      rw [roundsUp_iff (by decide) (by decide)]
      norm_num [roundNearest]
      omega
    simp only [toAccumulator, treeFmt, Bool.false_eq_true, if_false]
    by_cases low : f ≤ 1
    · simp only [if_pos low]; rfl
    · simp only [if_neg low, if_true, nearest]
      split_ifs
      exacts [rfl, congrArg _ (Int.add_zero _)]
  | _ => rfl

/-- The sum of a tree and an element of a chain accumulator goes to infinity with AO (R87). -/
theorem accAdd_chain (k : Rounding) (v : LnVal) (el : Word) : accAdd true k v el =
    let r := lnAdd .ln32 { k with inf := true } v (lnVal .ln32 el.toNat)
    (BitVec.ofNat 32 (lnCode .ln32 r.1), (r.2 &&& ~~~flOV) ||| (if r.2 &&& flOV = 0 then 0 else flAO)) := by
  simp only [accAdd, flagIf, if_true, bne_iff_ne, ite_not]

/-- That of a narrow accumulator saturates with SA (R87). -/
theorem accAdd_narrow (k : Rounding) (v : LnVal) (el : Word) : accAdd false k v el =
    let r := lnAdd .ln16 { k with inf := false } v (lnVal .ln16 el.toNat)
    (BitVec.ofNat 32 (lnCode .ln16 r.1), (r.2 &&& ~~~flOV) ||| (if r.2 &&& flOV = 0 then 0 else flSA)) := by
  simp only [accAdd, flagIf, Bool.false_eq_true, if_false, bne_iff_ne, ite_not]

/-! ### Scales (R172) -/

/-- The tree result t of element (i, c) after the scales that its operation has. -/
def scaledTree (o : MatrixOp) (f i c : Nat) (t : LnVal × BitVec 9) : LnVal × BitVec 9 :=
  match lb8Scales o i c with
  | some (ea, eb) => scaleTree ea eb (treeFmt f) t
  | none => t

/-- In LB8 a finite log moves by the sum of the scales, and a scale of 0xFF gives a NaN without a flag (log entry 123). -/
theorem scaledTree_lb8 {sa sb : Nat} (h : o.kind = .lmma 1 sa sb) (t : LnVal × BitVec 9) : scaledTree o 1 i c t =
    let ea := field (o.side.getD i 0).toNat (8 * sa) 8
    let eb := field (o.side.getD (64 + 8 * (i / 8) + c) 0).toNat (8 * sb) 8
    if ea = 255 ∨ eb = 255 then (.nan, 0)
    else match t.1 with
      | .fin n l => (.fin n (l + ((ea : Int) + eb - 254) * 2 ^ 9), t.2)
      | _ => t := by
  rw [scaledTree, lb8Scales, h]
  rfl

/-- Any other format of LMMA has no scales. -/
theorem scaledTree_plain {sa sb : Nat} (h : o.kind = .lmma f sa sb) (other : f ≠ 1) (t : LnVal × BitVec 9) : scaledTree o f i c t = t := by
  have unscaled : lb8Scales o i c = none := by
    unfold lb8Scales
    rw [h]
    split
    · next same => cases same; exact absurd rfl other
    · rfl
  rw [scaledTree, unscaled]

theorem scaledTree_lmms {n : Nat} (h : o.kind = .lmms f n) (t : LnVal × BitVec 9) : scaledTree o f i c t = t := by
  rw [scaledTree, lb8Scales, h]

/-! ### An element -/

/-- The tree of the products of two rows of k values (R171). -/
def lnTree (o : MatrixOp) (f : Nat) (xs ys : Nat → LnVal) : LnVal × BitVec 9 :=
  Nat.repeat (pairUp (treeFmt f) (roundAmr o.amr)) (treeDepth f) (fun kk => gradeProduct f (xs kk) (ys kk)) 0

/-- The rounding of the sum of element (i, c) (R173, R174). -/
def elementRounding (e : Env) (o : MatrixOp) (i c : Nat) : Rounding :=
  { mode := o.mode.toNat, inf := true, flush := !o.amr.getLsbD 4,
    r := if o.mode = 4 then (randWord (e.workId i) o.wordIx i c o.sseq e.l.k0 e.l.k1).toNat else 0 }

/-- An element's step over rows of k values: their tree, scaled, is added to the old element. -/
theorem lnElementStep_eq (e : Env) (o : MatrixOp) (f : Nat) (a : Acc) (i c : Nat) (xs ys : Nat → LnVal) :
    lnElementStep e o f a i c ((List.range (2 ^ treeDepth f)).map xs) ((List.range (2 ^ treeDepth f)).map ys) =
      let t := scaledTree o f i c (lnTree o f xs ys)
      let r := accAdd (a.fmt == .chain) (elementRounding e o i c) (toAccumulator (a.fmt == .chain) (treeFmt f) t.1) (a.elem i c)
      (r.1, t.2 ||| r.2) := by
  have tree := productTree_eq (treeFmt f) (roundAmr o.amr) (treeDepth f) (fun kk => gradeProduct f (xs kk) (ys kk)) 0
  simp only [Nat.mul_zero, Nat.zero_add] at tree
  simp only [lnElementStep, List.zip_map', List.map_map, Function.comp_def, tree]
  rfl

end Sys2Proof.Machine
end

section
-- One proof is elaborated at a time: the check bounds the threads of the whole text.
set_option Elab.async false
/-! SUPPORT for O18: the rows that a step of an LMMA or LMMS reads (R163, R176, R177), and the step as a whole (R169). -/

namespace Sys2Proof.Machine

variable {s : State} {e : Env} {o : MatrixOp} {f n g i c w p : Nat}

/-! ### Metadata (R177) -/

/-- Words put side by side, lowest first: the number they make, bit by bit. -/
theorem words_testBit (x : Nat → Word) (n : Nat) :
    (List.range n).foldl (fun t j => t + (x j).toNat * 2 ^ (32 * j)) 0 < 2 ^ (32 * n)
    ∧ ∀ p, ((List.range n).foldl (fun t j => t + (x j).toNat * 2 ^ (32 * j)) 0).testBit p
      = (decide (p / 32 < n) && (x (p / 32)).getLsbD (p % 32)) := by
  induction n with
  | zero => simp
  | succ n ih =>
    obtain ⟨bound, bits⟩ := ih
    rw [List.range_succ, List.foldl_append, List.foldl_cons, List.foldl_nil]
    have word := (x n).isLt
    refine ⟨?_, fun p => ?_⟩
    · rw [Nat.mul_succ, Nat.pow_add]
      nlinarith
    · rw [Nat.add_comm, Nat.mul_comm, Nat.testBit_two_pow_mul_add _ bound, bits]
      by_cases low : p < 32 * n
      · simp [low, show p / 32 < n by omega, show p / 32 < n + 1 by omega]
      · rw [if_neg low, BitVec.testBit_toNat]
        by_cases here : p / 32 = n
        · simp [here, show p - 32 * n = p % 32 by omega]
        · rw [BitVec.getLsbD_of_ge _ _ (by omega), show decide (p / 32 < n + 1) = false by simp; omega, Bool.false_and]

theorem metadata_testBit (o : MatrixOp) (w i : Nat) (hp : p < 128) :
    (metadata o w i).testBit p = (o.side.getD (64 * (4 * w + p / 32) + i) 0).getLsbD (p % 32) := by
  rw [metadata, (words_testBit (fun j => o.side.getD (64 * (4 * w + j) + i) 0) 4).2 p, decide_eq_true (by omega), Bool.true_and]

/-- The one bits below a position, counted. -/
theorem popCount_eq_length (n x : Nat) : popCount n x = ((List.range n).filter x.testBit).length := by
  induction n generalizing x with
  | zero => rfl
  | succ n ih =>
    have first : x % 2 = if x.testBit 0 then 1 else 0 := by
      rw [Nat.testBit_zero]
      rcases Nat.mod_two_eq_zero_or_one x with h | h <;> simp [h]
    have rest : (x / 2).testBit = x.testBit ∘ Nat.succ := funext fun k => (Nat.testBit_succ x k).symm
    rw [popCount, ih, List.range_succ_eq_map, List.filter_cons, List.filter_map, ← rest, first]
    split <;> simp [Nat.add_comm]

/-- The rank of a position is the number of marked ones before it. -/
theorem popCount_metadata (o : MatrixOp) (w i : Nat) (hp : p < 128) : popCount p (metadata o w i)
    = ((List.range p).filter fun r => (o.side.getD (64 * (4 * w + r / 32) + i) 0).getLsbD (r % 32)).length := by
  rw [popCount_eq_length]
  exact congrArg _ (List.filter_congr fun r hr => metadata_testBit o w i ((List.mem_range.1 hr).trans hp))

/-! ### The rows of A and of B -/

theorem rowA_lmma {sa sb : Nat} (h : o.kind = .lmma f sa sb) : rowA s e o g i =
    ((List.range (2 ^ treeDepth f)).map fun kk => lnVal (matrixFmt f)
      (byteField (operandRow s e o.a (matrixSize f) g i 32).1 (kk * matrixSize f) (matrixSize f)),
      (operandRow s e o.a (matrixSize f) g i 32).2) := by
  simp only [rowA, h]

theorem rowA_lmms (h : o.kind = .lmms f n) : rowA s e o g i =
    let z := matrixSize f
    let k := 2 ^ treeDepth f
    let w := g / (128 / k)
    let row := operandRow s e o.a z w i (n * z)
    let mark := fun p => (o.side.getD (64 * (4 * w + p / 32) + i) 0).getLsbD (p % 32)
    let rank := fun p => ((List.range p).filter mark).length
    ((List.range k).map fun kk =>
      let p := g % (128 / k) * k + kk
      if mark p = true ∧ rank p < n then lnVal (matrixFmt f) (byteField row.1 (rank p * z) z) else .zero false, row.2) := by
  have divides : 128 / 2 ^ treeDepth f * 2 ^ treeDepth f = 128 := by
    unfold treeDepth
    split_ifs <;> rfl
  simp only [rowA, h]
  refine congrArg (·, _) (List.map_congr_left fun kk hk => ?_)
  have window : g % (128 / 2 ^ treeDepth f) * 2 ^ treeDepth f + kk < 128 := by
    have pass : g % (128 / 2 ^ treeDepth f) < 128 / 2 ^ treeDepth f := Nat.mod_lt _ (by
      rcases Nat.eq_zero_or_pos (128 / 2 ^ treeDepth f) with h | h
      · rw [h] at divides; omega
      · exact h)
    have := Nat.mul_le_mul_right (2 ^ treeDepth f) pass
    have := List.mem_range.1 hk
    rw [Nat.succ_mul, divides] at *
    omega
  rw [metadata_testBit o _ i window, popCount_metadata o _ i window]

/-- The row of B that the lanes of row i take for element c (R164). -/
def MatrixOp.rowOf (o : MatrixOp) (i c : Nat) : Nat := if o.pb then 8 * (i / 8) + c else c

theorem rowOf_mem_bRows (hi : i ∈ laneList o.mask) (hc : c < 8) : o.rowOf i c ∈ bRows o.mask o.pb := by
  have low := (mem_laneList hi).1
  unfold MatrixOp.rowOf bRows
  split
  · refine List.mem_filter.2 ⟨List.mem_range.2 (by omega), List.any_eq_true.2 ⟨i, hi, ?_⟩⟩
    exact beq_iff_eq.2 (by omega)
  · rw [if_neg fun none_ => by simp [none_, laneList] at hi]
    exact List.mem_range.2 hc

/-- What is found in a table of the values of a function at the given keys. -/
theorem find?_table {β : Type} (h : Nat → β) (d : β) {r : Nat} {rs : List Nat} (hr : r ∈ rs) :
    (((rs.map fun r => (r, h r)).find? (fun y => y.1 == r)).map (·.2)).getD d = h r := by
  induction rs with
  | nil => simp at hr
  | cons q rs ih =>
    rw [List.map_cons, List.find?_cons]
    by_cases here : q = r
    · simp [here]
    · rw [beq_eq_false_iff_ne.2 here]
      exact ih ((List.mem_cons.1 hr).resolve_left (Ne.symm here))

/-- An LMMA or LMMS steps each element of the active rows by its rows of A and B. -/
theorem lnStep_eq (s : State) (e : Env) (o : MatrixOp) (f : Nat) : lnStep s e o f = (e.g.acc o.acc).stepped o.mask
    (fun i c => lnElementStep e o f (e.g.acc o.acc) i c (rowA s e o o.done i).1 (rowB s e o f o.done (o.rowOf i c)).1)
    (fun i => (rowA s e o o.done i).2) (fun i c => (rowB s e o f o.done (o.rowOf i c)).2) := by
  unfold lnStep Acc.stepped
  refine congrArg (fun t : Acc => { t with steps := (e.g.acc o.acc).steps + 1 })
    (foldl_congr_mem _ _ fun b i hi => foldl_congr_mem _ _ fun b c hc => ?_)
  have row := find?_table (rowB s e o f o.done) ([], false) (rowOf_mem_bRows hi (List.mem_range.1 hc))
  rw [MatrixOp.rowOf] at row
  simp only [MatrixOp.rowOf, row]
  rfl

end Sys2Proof.Machine
end

section
-- One proof is elaborated at a time: the check bounds the threads of the whole text.
set_option Elab.async false
/-! SUPPORT for O18: the step of an IMMA (R178), and a pass of the tile engine (R167). -/

namespace Sys2Proof.Machine

variable {s : State} {e : Env} {o : MatrixOp}

/-! ### The step of an IMMA (R178) -/

/-- K is 32 times the greatest power of two that 16 products of the widths leave room for. -/
theorem immaK_eq (tw : Word) : immaK tw =
    if twWa tw * twWb tw ≤ 16 then 32 * 2 ^ Nat.log2 (16 / (twWa tw * twWb tw)) else 32 := by
  have length : ∀ y, y < 17 → bitLength 5 y - 1 = Nat.log2 y := by decide
  simp only [immaK, length _ (Nat.lt_succ_of_le (Nat.div_le_self 16 (twWa tw * twWb tw)))]

/-- The value of an element after the step of an IMMA, before it saturates. -/
def immaSum (s : State) (e : Env) (o : MatrixOp) (i c : Nat) : Int :=
  ((e.g.acc o.acc).elem i c).toInt
    + dotProduct (intRow (operandRow s e o.a 1 0 i (immaK o.tw * twWa o.tw / 8)).1 (immaK o.tw) (twWa o.tw) (o.tw.getLsbD 8))
        (intRow (operandRow s e o.b 1 0 (o.rowOf i c) (immaK o.tw * twWb o.tw / 8)).1 (immaK o.tw) (twWb o.tw) (o.tw.getLsbD 9))
      * (2 ^ ((e.g.acc o.acc).f.toNat - twFrac o.tw) : Nat)

/-- The sum of the products of two rows of integers, scaled product by product. -/
theorem dotProduct_scaled (xs ys : List Byte) (k wa wb h : Nat) (sa sb : Bool) :
    dotProduct (intRow xs k wa sa) (intRow ys k wb sb) * (2 ^ h : Nat) = ((List.range k).map fun kk =>
      (if sa then signed wa (field (leNat xs) (kk * wa) wa) else (field (leNat xs) (kk * wa) wa : Int))
        * (if sb then signed wb (field (leNat ys) (kk * wb) wb) else (field (leNat ys) (kk * wb) wb : Int)) * 2 ^ h).sum := by
  have power : ((2 ^ h : Nat) : Int) = 2 ^ h := by push_cast; rfl
  rw [dotProduct, intRow, intRow, List.zip_map', List.map_map, power, List.sum_map_mul_right]
  rfl

/-- An integer that saturates to 32 bits raises SA where it was out of range. -/
theorem saturate_eq (v : Int) :
    let w : Int := max (-2 ^ 31) (min (2 ^ 31 - 1) v)
    (BitVec.ofInt 32 w, flagIf (w != v) flSA) = (clamp32 v, if v < -2147483648 ∨ 2147483647 < v then flSA else 0) := by
  intro w
  refine Prod.ext rfl (flagIf_eq_ite ?_ _)
  rw [bne_iff_ne]
  omega

theorem immaStep_eq (s : State) (e : Env) (o : MatrixOp) : immaStep s e o = (e.g.acc o.acc).stepped o.mask
    (fun i c => (clamp32 (immaSum s e o i c), if immaSum s e o i c < -2147483648 ∨ 2147483647 < immaSum s e o i c then flSA else 0))
    (fun i => (operandRow s e o.a 1 0 i (immaK o.tw * twWa o.tw / 8)).2)
    (fun i c => (operandRow s e o.b 1 0 (o.rowOf i c) (immaK o.tw * twWb o.tw / 8)).2) := by
  simp only [← saturate_eq]
  rfl

/-! ### Passes (R167, R169) -/

/-- Whatever the operation, its step changes the elements and flags of the active rows alone. -/
theorem matrixStep_stepped (s : State) (e : Env) (o : MatrixOp) :
    ∃ r p q, matrixStep s e o = (e.g.acc o.acc).stepped o.mask r p q := by
  unfold matrixStep
  cases o.kind with
  | lmma f sa sb => exact ⟨_, _, _, lnStep_eq s e o f⟩
  | lmms f n => exact ⟨_, _, _, lnStep_eq s e o f⟩
  | imma => exact ⟨_, _, _, immaStep_eq s e o⟩

/-- A pass does the step of its operation, which leaves the queue with its last one. -/
theorem exec_tileEnginePass_head (he : s.env? s.event.core s.event.slot = some e) (ho : e.g.heads[s.event.num]? = some o) :
    exec .tileEnginePass s = .next (s.setGroup { e.g.setAcc o.acc (matrixStep s e o) with
      matrix := if o.done + 1 < o.total then e.g.matrix.map (fun q => if q.id = o.id then { q with done := q.done + 1 } else q)
        else e.g.matrix.filter (fun q => q.id != o.id) }) := by
  rw [exec_tileEnginePass, execTileEnginePass, he]
  simp only [ho]
  rfl

end Sys2Proof.Machine
end

section
-- One proof is elaborated at a time: the check bounds the threads of the whole text.
set_option Elab.async false
/-! PROOF of O18: a pass of the tile engine. -/

open Sys2Proof Sys2Proof.Machine

/-- Settles O18. Every step is a step over the active rows (`Acc.stepped`), which gives the frame at once (`matrixStep_stepped`). What an
LN element receives follows the path of R170 to R173: rows of A and B (`rowA_lmma`, `rowA_lmms`), products (`gradeProduct_eq`), their tree
(`productTree_eq`), scales (`scaledTree_lb8`), and the sum in the accumulator's format (`accAdd_chain`, `accAdd_narrow`); an integer element
follows `immaStep_eq`. -/
theorem tileEnginePassResult : Obligations.TileEnginePassResult := by
  unfold Obligations.TileEnginePassResult
  intro s e o he ho a t flagsOf row
  obtain ⟨r, p, q, byRows⟩ : ∃ r p q, t = a.stepped o.mask r p q := matrixStep_stepped s e o
  refine ⟨exec_tileEnginePass_head he ho, ?format, fun i c hi hc idle => ?idle, fun f lb8 left value hf => ?ln, fun hk => ?imma⟩
  case format =>
    obtain ⟨fmt, fraction⟩ := a.stepped_format o.mask r p q
    rw [byRows]
    exact ⟨fmt, fraction, rfl⟩
  case idle =>
    rw [byRows]
    exact ⟨(Acc.elem_stepped hi hc).2 idle, (Acc.rowFlags_stepped hi).2 idle⟩
  case ln =>
    intro m tree z depth k right product pairs root total wide thin rounding sum flags hfmt hkind
    have size : matrixSize f = z := matrixSize_eq f
    obtain ⟨step, rowsA, scaled⟩ : t = lnStep s e o f ∧ (∀ i, rowA s e o o.done i = ((List.range k).map (value i), (left i).2))
        ∧ ∀ i c, scaledTree o f i c (root i c) = total i c := by
      rcases hkind with ⟨sa, sb, hk, hlb, hleft, hvalue⟩ | ⟨n, hk, hlb, hleft, hvalue⟩
      · refine ⟨by simp only [t, matrixStep, hk], fun i => ?_, fun i c => ?_⟩
        · rw [rowA_lmma hk, size, show value i = _ from funext (hvalue i), hleft]
          rfl
        · subst hlb
          by_cases scales : f = 1
          · subst scales; exact scaledTree_lb8 hk _
          · rw [scaledTree_plain hk scales]
            simp only [total, if_neg scales]
      · refine ⟨by simp only [t, matrixStep, hk], fun i => ?_, fun i c => ?_⟩
        · rw [rowA_lmms hk, size, show value i = _ from funext (hvalue i), hleft]
          rfl
        · subst hlb
          exact scaledTree_lmms hk _
    have rowsB (i c : Nat) : rowB s e o f o.done (o.rowOf i c)
        = ((List.range k).map (fun kk => lnVal m (byteField (right i c).1 (kk * z) z)), (right i c).2) := by
      simp only [rowB, size]; rfl
    have trees (i c : Nat) : lnTree o f (value i) (fun kk => lnVal m (byteField (right i c).1 (kk * z) z)) = root i c :=
      congrArg (Nat.repeat pairs depth · 0) (funext fun kk => gradeProduct_eq hf _ _)
    have to32 (v : LnVal) : toAccumulator true (treeFmt f) v = wide v := toAccumulator_chain f v
    have to16 (v : LnVal) : toAccumulator false (treeFmt f) v = thin v := toAccumulator_narrow f v
    have added (i c : Nat) : accAdd (a.fmt == .chain) (elementRounding e o i c)
        (toAccumulator (a.fmt == .chain) (treeFmt f) (total i c).1) (a.elem i c)
        = (BitVec.ofNat 32 (lnCode (if a.fmt = .chain then .ln32 else .ln16) (sum i c).1), ((sum i c).2 &&& ~~~flOV)
          ||| (if (sum i c).2 &&& flOV = 0 then 0 else if a.fmt = .chain then flAO else flSA)) := by
      simp only [sum]
      rcases hfmt with chain | narrow
      · simp only [chain, beq_self_eq_true, if_true, accAdd_chain, to32]; rfl
      · have other : (AccFmt.narrow == AccFmt.chain) = false := rfl
        simp only [narrow, other, reduceCtorEq, if_false, accAdd_narrow, to16]; rfl
    have element (i c : Nat) : lnElementStep e o f a i c ((List.range k).map (value i))
        ((List.range k).map fun kk => lnVal m (byteField (right i c).1 (kk * z) z))
        = (BitVec.ofNat 32 (lnCode (if a.fmt = .chain then .ln32 else .ln16) (sum i c).1), flags i c) := by
      refine (lnElementStep_eq ..).trans ?_
      simp only [trees, scaled, added]
      exact congrArg _ (BitVec.or_assoc ..).symm
    have stepped : t = a.stepped o.mask
        (fun i c => (BitVec.ofNat 32 (lnCode (if a.fmt = .chain then .ln32 else .ln16) (sum i c).1), flags i c))
        (fun i => (left i).2) (fun i c => (right i c).2) := by
      rw [step, lnStep_eq]
      simp only [rowsA, rowsB]
      exact congrArg (a.stepped o.mask · _ _) (funext fun i => funext fun c => element i c)
    rw [stepped]
    exact ⟨fun i hi active => ⟨fun c hc => (Acc.elem_stepped hi hc).1 active, (Acc.rowFlags_stepped hi).1 active⟩,
      Acc.poison_stepped⟩
  case imma =>
    intro tw wa wb k shift left right number sum
    have width : immaK o.tw = k := immaK_eq o.tw
    have sums (i c : Nat) : immaSum s e o i c = sum i c := by
      rw [immaSum, dotProduct_scaled, width]
      rfl
    have stepped : t = a.stepped o.mask
        (fun i c => (clamp32 (sum i c), if sum i c < -2147483648 ∨ 2147483647 < sum i c then flSA else 0))
        (fun i => (left i).2) (fun i c => (right i c).2) := by
      have step : t = immaStep s e o := by simp only [t, matrixStep, hk]
      rw [step, immaStep_eq, width]
      simp only [sums]
      rfl
    rw [stepped]
    exact ⟨fun i hi active => ⟨fun c hc => (Acc.elem_stepped hi hc).1 active, (Acc.rowFlags_stepped hi).1 active⟩,
      Acc.poison_stepped⟩

end

section
-- One proof is elaborated at a time: the check bounds the threads of the whole text.
set_option Elab.async false
/-! SUPPORT for O24: the entry that a GSET leaves in its window and in the range register of the window (R188, R200). -/

namespace Sys2Proof.Machine

variable {s : State} {c g h : Nat} {e : List Word}

/-- Words put at rising keys. -/
theorem smGet_words (e : List Word) (a b j : Nat) (m : SMap Word) :
    smGet 0 j ((e.zip (List.range' b e.length)).foldl (fun m x => smSet (0 : Word) (a + x.2) x.1 m) m)
      = if a + b ≤ j ∧ j < a + b + e.length then e.getD (j - (a + b)) 0 else smGet 0 j m := by
  induction e generalizing b m with
  | nil => rw [List.length_nil, if_neg (by omega)]; rfl
  | cons w e ih =>
    rw [List.length_cons, List.range'_succ, List.zip_cons_cons, List.foldl_cons, ih, smGet_smSet]
    rcases Nat.lt_trichotomy j (a + b) with before | rfl | behind
    · rw [if_neg (by omega), if_neg (by omega), if_neg (by omega)]
    · rw [if_neg (by omega), if_pos rfl, if_pos (by omega), Nat.sub_self]; rfl
    · obtain ⟨k, rfl⟩ : ∃ k, j = a + b + 1 + k := ⟨j - (a + b + 1), by omega⟩
      rw [show a + b + 1 + k - (a + (b + 1)) = k by omega, show a + b + 1 + k - (a + b) = k + 1 by omega, List.getD_cons_succ]
      exact ite_congr (propext (by omega)) (fun _ => rfl) fun _ => if_neg (by omega)

/-- The words of the windows of a context, with those of entry g replaced. -/
def installedWords (s : State) (c g : Nat) (e : List Word) : SMap Word :=
  (e.zip (List.range 8)).foldl (fun m x => smSet (0 : Word) (8 * g + x.2) x.1 m) (s.context c).windows

theorem smGet_installedWords (he : e.length = 8) (j : Nat) : smGet 0 j (installedWords s c g e)
    = if 8 * g ≤ j ∧ j < 8 * g + 8 then e.getD (j - 8 * g) 0 else smGet 0 j (s.context c).windows := by
  have := smGet_words e (8 * g) 0 j (s.context c).windows
  rwa [he, ← List.range_eq_range'] at this

@[simp] theorem windows_setSys (s : State) (c n : Nat) (v : BitVec 64) (d : Nat) :
    ((s.setSys c n v).context d).windows = (s.context d).windows := by
  simp only [State.setSys, State.context, State.setContext, smGet_smSet]
  split
  · next h => rw [h]
  · rfl

theorem windows_setContext (s : State) (c : Nat) (m : SMap Word) :
    ((s.setContext c { s.context c with windows := m }).context c).windows = m := by
  simp only [State.context, State.setContext, smGet_smSet_same]

/-- The three words of range register n of a context replaced. -/
def State.setRange (s : State) (c n : Nat) (first length third : BitVec 64) : State :=
  ((s.setSys c (0x100 + n) first).setSys c (0x110 + n) length).setSys c (0x120 + n) third

theorem windows_setRange (s : State) (c n : Nat) (first length third : BitVec 64) (d : Nat) :
    ((s.setRange c n first length third).context d).windows = (s.context d).windows := by simp [State.setRange]

theorem range_setRange (s : State) (c n : Nat) (first length third : BitVec 64) :
    rangeKind (s.setRange c n first length third) c n = first.toNat % 4
    ∧ rangeBase (s.setRange c n first length third) c n = first.toNat / 4096 * 4096
    ∧ rangeBytes (s.setRange c n first length third) c n = length.toNat % 2 ^ 40 * 4096
    ∧ (s.setRange c n first length third).sys c (0x120 + n) = third := by
  rw [rangeKind_eq, rangeBase_eq, rangeBytes_eq]
  simp [State.setRange, sys_setSys]

/-- The window words of the entry are put, and then its range register is set, freed or left. -/
theorem installWindow_eq (s : State) (c g : Nat) (e : List Word) : installWindow s c g e =
    let t := s.setContext c { s.context c with windows := installedWords s c g e }
    if entryKind e = 0 then (if rangeKind s c (15 - g) = 2 then t.setRange c (15 - g) 0 0 0 else t)
    else t.setRange c (15 - g) (BitVec.ofNat 64 (entryBase e + 2)) (BitVec.ofNat 64 (entryPages e)) (BitVec.ofNat 64 g) := rfl

theorem windows_installWindow (s : State) (c g : Nat) (e : List Word) :
    ((installWindow s c g e).context c).windows = installedWords s c g e := by
  rw [installWindow_eq]
  dsimp only
  repeat' split
  all_goals simp only [windows_setRange, windows_setContext]

theorem windowEntry_installWindow_same (he : e.length = 8) : windowEntry (installWindow s c g e) c g = e := by
  refine List.ext_getElem (by simp [windowEntry, he]) fun k hk hk' => ?_
  rw [he] at hk'
  simp only [windowEntry, windowWord, windows_installWindow, smGet_installedWords he, List.getElem_map, List.getElem_range]
  rw [if_pos (by omega), Nat.add_sub_cancel_left, List.getD_eq_getElem]

theorem windowEntry_installWindow_other (he : e.length = 8) (hg : h ≠ g) :
    windowEntry (installWindow s c g e) c h = windowEntry s c h := by
  refine List.map_congr_left fun k hk => ?_
  have := List.mem_range.1 hk
  simp only [windowWord, windows_installWindow, smGet_installedWords he]
  exact if_neg (by omega)

/-- An entry in use gives its range register kind 2, and the base, the length and the number of the window. -/
theorem range_installWindow (hk : entryKind e ≠ 0) (ha : entryBase e % 4096 = 0) :
    rangeKind (installWindow s c g e) c (15 - g) = 2 ∧ rangeBase (installWindow s c g e) c (15 - g) = entryBase e
    ∧ rangeBytes (installWindow s c g e) c (15 - g) = 4096 * entryPages e
    ∧ (installWindow s c g e).sys c (0x120 + (15 - g)) = BitVec.ofNat 64 g := by
  have base : entryBase e + 2 < 2 ^ 64 := by
    have := (e.getD 0 0).isLt
    have := (e.getD 1 0).isLt
    unfold entryBase entryWord at ha ⊢
    omega
  have pages : entryPages e < 2 ^ 32 := (e.getD 2 0).isLt
  obtain ⟨kind, first, length, third⟩ := range_setRange (s.setContext c { s.context c with windows := installedWords s c g e }) c
    (15 - g) (BitVec.ofNat 64 (entryBase e + 2)) (BitVec.ofNat 64 (entryPages e)) (BitVec.ofNat 64 g)
  rw [BitVec.toNat_ofNat] at kind first length
  rw [installWindow_eq]
  simp only [if_neg hk, kind, first, length, third, and_true]
  omega

/-- An entry of kind 0 frees the range register of a window that was in use. -/
theorem rangeKind_installWindow_unused (hk : entryKind e = 0) (used : rangeKind s c (15 - g) = 2) :
    rangeKind (installWindow s c g e) c (15 - g) = 0 := by
  rw [installWindow_eq]
  simp only [if_pos hk, if_pos used]
  exact (range_setRange _ c (15 - g) 0 0 0).1

end Sys2Proof.Machine
end

section
-- One proof is elaborated at a time: the check bounds the threads of the whole text.
set_option Elab.async false
/-! SUPPORT for O24: the bytes of a window are those of its elements (R29, R192). -/

namespace Sys2Proof.Machine

variable {n j : Nat}

theorem leBytes_getElem? (v : Nat) (h : j < n) : (leBytes n v)[j]? = some (BitVec.ofNat 8 (v / 2 ^ (8 * j))) := by
  induction n generalizing j v with
  | zero => exact absurd h (Nat.not_lt_zero j)
  | succ n ih =>
    cases j with
    | zero => rw [leBytes, List.getElem?_cons_zero, Nat.mul_zero, Nat.pow_zero, Nat.div_one]
    | succ j =>
      rw [leBytes, List.getElem?_cons_succ, ih _ (by omega), Nat.div_div_eq_div_mul, Nat.mul_succ, Nat.pow_add, Nat.mul_comm]

theorem sliceBytes_length (bs : List Byte) (off n : Nat) : (sliceBytes bs off n).length = n := by simp [sliceBytes]

theorem sliceBytes_getElem? {bs : List Byte} {off : Nat} (hj : j < n) (h : off + j < bs.length) :
    (sliceBytes bs off n)[j]? = bs[off + j]? := by
  rw [sliceBytes, List.getElem?_append_left (by simp; omega), List.getElem?_take_of_lt hj, List.getElem?_drop]

theorem elements_length (z : Nat) (f : Nat → Nat) (count : Nat) :
    ((List.range count).flatMap fun k => leBytes z (f k)).length = z * count := by simp [List.length_flatMap, Nat.mul_comm]

/-- Byte j of elements of z bytes each lies in element j / z. -/
theorem elements_getElem? {z : Nat} (f : Nat → Nat) {count : Nat} (hj : j < z * count) :
    ((List.range count).flatMap fun k => leBytes z (f k))[j]? = some (BitVec.ofNat 8 (f (j / z) / 2 ^ (8 * (j % z)))) := by
  have hz : 0 < z := Nat.pos_of_mul_pos_right (Nat.zero_lt_of_lt hj)
  induction count with
  | zero => exact absurd hj (Nat.not_lt_zero j)
  | succ k ih =>
    rw [List.range_succ, List.flatMap_append, List.flatMap_singleton]
    rcases Nat.lt_or_ge j (z * k) with inside | last
    · rw [List.getElem?_append_left (by rw [elements_length]; exact inside), ih inside]
    · obtain ⟨i, rfl⟩ := Nat.exists_eq_add_of_le last
      have hi : i < z := by rw [Nat.mul_succ] at hj; omega
      rw [List.getElem?_append_right (by rw [elements_length]; exact last), elements_length, Nat.add_sub_cancel_left,
        leBytes_getElem? _ hi, Nat.mul_add_div hz, Nat.div_eq_of_lt hi, Nat.mul_add_mod, Nat.mod_eq_of_lt hi, Nat.add_zero]

/-- n bytes from offset off are cut out of the elements that they touch. -/
theorem sliceElements_getElem? {z : Nat} (hz : 0 < z) (f : Nat → Nat) (off : Nat) (hj : j < n) :
    (sliceBytes ((List.range ((off + n - 1) / z - off / z + 1)).flatMap fun k => leBytes z (f (off / z + k))) (off % z) n)[j]?
      = some (BitVec.ofNat 8 (f ((off + j) / z) / 2 ^ (8 * ((off + j) % z)))) := by
  have element : off / z + (off % z + j) / z = (off + j) / z := by
    rw [← Nat.mul_add_div hz, ← Nat.add_assoc, Nat.div_add_mod]
  have inside : off % z + j < z * ((off + n - 1) / z - off / z + 1) := by
    refine Nat.lt_of_lt_of_le (Nat.lt_mul_div_succ _ hz) (Nat.mul_le_mul_left z ?_)
    have : (off + j) / z ≤ (off + n - 1) / z := Nat.div_le_div_right (by omega)
    omega
  rw [sliceBytes_getElem? hj (by rw [elements_length]; exact inside), elements_getElem? _ inside, element, Nat.mod_add_mod]

theorem windowBytes_length (e : List Word) (off n : Nat) : (windowBytes e off n).length = n := sliceBytes_length _ _ _

theorem windowBytes_getElem? (e : List Word) (off : Nat) (hj : j < n) :
    let z := max 1 (elementSize (entryKind e) (entryFormat e))
    (windowBytes e off n)[j]? = some (BitVec.ofNat 8 (windowElement e ((off + j) / z) / 2 ^ (8 * ((off + j) % z)))) :=
  sliceElements_getElem? (Nat.le_max_left 1 _) (windowElement e) off hj

end Sys2Proof.Machine
end

section
-- One proof is elaborated at a time: the check bounds the threads of the whole text.
set_option Elab.async false
/-! SUPPORT for O24: the elements of ramp, mask, rotary and hash windows (R193 to R197). -/

namespace Sys2Proof.Machine

variable {e : List Word} {n : Nat} {m : LnFmt}

theorem windowElement_ramp (h : entryKind e = 1) : windowElement e n = rampElement e n := by simp only [windowElement, h]

theorem windowElement_mask (h : entryKind e = 2) : windowElement e n = maskElement e n := by simp only [windowElement, h]

theorem windowElement_rotary (h : entryKind e = 3) : windowElement e n = rotaryElement e n := by simp only [windowElement, h]

theorem windowElement_hash (h : entryKind e = 4) : windowElement e n = hashElement e n := by simp only [windowElement, h]

/-! ### Ramps (R193) -/

theorem ofNat_words (low high : Word) : BitVec.ofNat 64 (low.toNat + 2 ^ 32 * high.toNat) = high ++ low := by
  refine BitVec.eq_of_toNat_eq ?_
  have := low.isLt
  have := high.isLt
  rw [BitVec.toNat_ofNat, BitVec.toNat_append, ← Nat.shiftLeft_add_eq_or_of_lt low.isLt, Nat.shiftLeft_eq]
  omega

/-- The exact value of a ramp element. -/
def rampValue (e : List Word) (n : Nat) : Int := (e.getD 5 0 ++ e.getD 4 0 : BitVec 64).toInt + (e.getD 6 0).toInt * n

/-- The code of a ramp element in an LN format. -/
def rampCode (m : LnFmt) (e : List Word) (n : Nat) : Nat :=
  if rampValue e n = 0 then lnCode m (.zero false)
  else lnCode m (lnFinish m roundNearest (decide (rampValue e n < 0)) (fx2ln (rampValue e n).natAbs ((e.getD 7 0).toNat % 32))).1

/-- An integer format takes the value modulo its width, an LN format rounds it once. -/
theorem rampElement_of_format (e : List Word) (n : Nat) :
    (entryFormat e = 0 → (rampElement e n : Int) = rampValue e n % 2 ^ 32)
    ∧ (entryFormat e = 1 → (rampElement e n : Int) = rampValue e n % 2 ^ 64)
    ∧ (entryFormat e = 2 → rampElement e n = rampCode .ln16 e n) ∧ (entryFormat e = 3 → rampElement e n = rampCode .ln32 e n) := by
  have wrapped (k : Nat) (v : Int) : (wrapInt k v : Int) = v % 2 ^ k := by
    rw [wrapInt, Int.toNat_of_nonneg (Int.emod_nonneg _ (by positivity))]; push_cast; rfl
  have start : (BitVec.ofNat 64 (entryWord e 4 + 2 ^ 32 * entryWord e 5)).toInt + (e.getD 6 0).toInt * n = rampValue e n := by
    rw [entryWord, entryWord, ofNat_words]; rfl
  have code (m : LnFmt) : lnCode m (if rampValue e n = 0 then .zero false
      else (lnFinish m roundNearest (decide (rampValue e n < 0)) (fx2ln (rampValue e n).natAbs (entryWord e 7 % 32))).1)
      = rampCode m e n := apply_ite (lnCode m) _ _ _
  refine ⟨fun h => ?_, fun h => ?_, fun h => ?_, fun h => ?_⟩ <;> simp only [rampElement, h, start]
  · exact wrapped 32 _
  · exact wrapped 64 _
  · exact code .ln16
  · exact code .ln32

/-! ### Masks (R194) -/

/-- Whether a rule lets a position through. -/
abbrev maskHolds (e : List Word) (row col : Int) : Prop :=
  (entryRule e = 0 ∧ col ≤ row) ∨ (entryRule e = 1 ∧ row - entryWord e 7 < col ∧ col ≤ row)
    ∨ (entryRule e = 2 ∧ col ≤ row + (e.getD 7 0).toInt)

theorem lnFmtOf_mask {f : Nat} (h : (f, m) ∈ [(0, LnFmt.ln8), (1, .ln16), (2, .ln32)]) : lnFmtOf f = some m := by
  simp only [List.mem_cons, Prod.mk.injEq, List.not_mem_nil, or_false] at h
  rcases h with ⟨rfl, rfl⟩ | ⟨rfl, rfl⟩ | ⟨rfl, rfl⟩ <;> rfl

theorem maskElement_eq (hr : entryRule e < 3) (hm : lnFmtOf (entryFormat e) = some m) : maskElement e n =
    if maskHolds e ((e.getD 5 0).toInt + (n / entryWord e 4 : Nat)) ((e.getD 6 0).toInt + (n % entryWord e 4 : Nat))
    then lnCode m (.fin false 0) else lnCode m (.zero false) := by
  rw [← apply_ite (lnCode m)]
  have rules : entryRule e = 0 ∨ entryRule e = 1 ∨ entryRule e = 2 := by omega
  rcases rules with h | h | h <;> simp [maskElement, maskHolds, hm, h, lnOne]

/-! ### Rotary angles (R195) -/

theorem roundRatio_eq (x : Int) (d : Nat) :
    roundRatio x d = if d < 2 * (x % d) ∨ (2 * (x % d) = d ∧ x / d % 2 = 1) then x / d + 1 else x / d := by
  rcases Nat.eq_zero_or_pos d with rfl | hd
  · simp only [roundRatio, Nat.cast_zero, Int.ediv_zero, Int.emod_zero]
    exact if_congr (by omega) rfl rfl
  · have := Int.emod_nonneg x (b := d) (by omega)
    simp only [roundRatio]
    exact if_congr (by omega) rfl rfl

/-- The log of the frequency of column c of a rotary entry. -/
def rotaryLog (e : List Word) (c : Nat) : Int := roundRatio (-2 * ((c / 2 : Nat) : Int) * (e.getD 4 0).toInt) (entryWord e 5)

/-- The turns of position p at column c, with 30 fraction bits. -/
def rotaryTurn (e : List Word) (p c : Nat) : Nat :=
  shiftInt (p * (lnParts 22 (rotaryLog e c - 11121181)).1) ((lnParts 22 (rotaryLog e c - 11121181)).2.1 - 10) % 2 ^ 30

theorem rotaryElement_eq (hm : (entryFormat e, m) ∈ [(1, LnFmt.ln16), (2, .ln32)]) : rotaryElement e n =
    lnCode m (turnsResult (n % entryWord e 5 % 2 == 0) false m roundNearest
      (rotaryTurn e (entryWord e 6 + n / entryWord e 5) (n % entryWord e 5))).1 := by
  have format : (if entryFormat e = 1 then LnFmt.ln16 else .ln32) = m := by
    simp only [List.mem_cons, Prod.mk.injEq, List.not_mem_nil, or_false] at hm
    rcases hm with ⟨h, rfl⟩ | ⟨h, rfl⟩ <;> simp [h]
  rw [← format]
  rfl

theorem turnsResult_code (cos : Bool) (m : LnFmt) (k : Rounding) (turn : Nat) : lnCode m (turnsResult cos false m k turn).1 =
    let a := if cos then (turn + 2 ^ 28) % 2 ^ 30 else turn
    let sine := (sin30 (if a / 2 ^ 28 % 2 = 0 then a % 2 ^ 28 else 2 ^ 28 - a % 2 ^ 28)).toNat
    if sine = 0 then lnCode m (.zero false) else lnCode m (lnFinish m k (decide (2 ≤ a / 2 ^ 28)) (fx2ln sine 40)).1 := by
  simp only [turnsResult, Bool.false_and, Bool.xor_false, ← apply_ite (lnCode m), apply_ite Prod.fst]

theorem lnFinish_zero (m : LnFmt) (k : Rounding) (neg : Bool) : lnFinish m k neg 0 = (.fin neg 0, 0) := by
  have whole (w : Nat) : roundPack m k neg 0 w = (.fin neg 0, 0) := by
    have := roundPack_whole m k neg 0 w
    rw [Int.zero_mul] at this
    exact this.trans (rangeCheck_inside (by simp) (by positivity))
  rw [lnFinish, Int.zero_ediv]
  exact whole _

theorem turnsResult_zero (cos : Bool) (m : LnFmt) (k : Rounding) :
    (turnsResult cos false m k 0).1 = if cos then .fin false 0 else .zero false := by
  have sine : (sin30 0).toNat = 0 := by decide +kernel
  have cosine : fx2ln 1099511627776 40 = 0 := fx2ln_two_pow (n := 40) 40 (by decide)
  cases cos with
  | false => simp [turnsResult, sine]
  | true => simp [turnsResult, sin30, cosine, lnFinish_zero]

theorem rotaryTurn_zero (e : List Word) (c : Nat) : rotaryTurn e 0 c = 0 := by simp [rotaryTurn, shiftInt]

/-! ### The counter hash (R196, R197) -/

/-- One round of the counter hash on its state and key; the key moves on after it. -/
def hashTurn (h : (Word × Word × Word × Word) × Word × Word) : (Word × Word × Word × Word) × Word × Word :=
  (hashRound h.1 h.2.1 h.2.2, h.2.1 + 0x7F4A7C15, h.2.2 + 0x58C69B2B)

/-- Further rounds after a first one. -/
def afterHashRound (rounds : Word × Word × Word × Word → Word → Word → Word × Word × Word × Word) (c : Word × Word × Word × Word)
    (k0 k1 : Word) : Word × Word × Word × Word := rounds (hashRound c k0 k1) (k0 + 0x7F4A7C15) (k1 + 0x58C69B2B)

/-- The equation is one of functions: with the keys as arguments of both sides the kernel would compare the old key with the new one. -/
theorem hashRounds_succ (n : Nat) : hashRounds (n + 1) = afterHashRound (hashRounds n) := rfl

theorem repeat_succ_first {α : Type} (f : α → α) (n : Nat) (a : α) : Nat.repeat f (n + 1) a = Nat.repeat f n (f a) := by
  induction n with
  | zero => rfl
  | succ n ih => exact congrArg f ih

theorem hashRounds_eq_repeat (n : Nat) (c : Word × Word × Word × Word) (k0 k1 : Word) :
    hashRounds n c k0 k1 = (Nat.repeat hashTurn n (c, k0, k1)).1 := by
  induction n generalizing c k0 k1 with
  | zero => rfl
  | succ n ih => rw [repeat_succ_first, hashRounds_succ, afterHashRound, ih, hashTurn]

theorem hashElement_eq (e : List Word) (n : Nat) :
    let r := (Nat.repeat hashTurn 10
      ((BitVec.ofNat 32 (n / 4), BitVec.ofNat 32 (n / 2 ^ 34), e.getD 6 0, e.getD 7 0), e.getD 4 0, e.getD 5 0)).1
    hashElement e n = ([r.1, r.2.1, r.2.2.1, r.2.2.2].getD (n % 4) 0).toNat := by
  have high : n / 2 ^ 34 = n / 4 / 2 ^ 32 := (Nat.div_div_eq_div_mul n 4 (2 ^ 32)).symm
  simp only [hashElement, counterHash, hashRounds_eq_repeat, high]

end Sys2Proof.Machine
end

section
-- One proof is elaborated at a time: the check bounds the threads of the whole text.
set_option Elab.async false
/-! SUPPORT for O24: the index that a TALLOC receives (R239), and the tiles of an owner. -/

namespace Sys2Proof.Machine

variable {e : Env} {barn : Bool} {shape : Word} {i : Nat}

theorem lowestIndex_eq_some {bound : Nat} {held : List Nat} (hi : i < bound) (free : i ∉ held) (least : ∀ j, j < i → j ∈ held) :
    lowestIndex bound held = some i := by
  simp only [lowestIndex, List.find?_range_eq_some, Bool.not_eq_true', List.contains_eq_mem, decide_eq_false_iff_not, List.mem_range,
    Bool.not_not, decide_eq_true_eq]
  exact ⟨free, hi, least⟩

theorem lowestIndex_eq_none {bound : Nat} {held : List Nat} (full : ∀ j, j < bound → j ∈ held) : lowestIndex bound held = none := by
  simpa [lowestIndex] using full

theorem shapeGranules_eq (shape : Word) : shapeGranules shape = (shape.toNat % 4096 * 16 * (shape.toNat / 4096) + 255) / 256 := by
  have := shape.isLt
  have rows : shape.toNat / 2 ^ 12 < 2 ^ 20 := by omega
  rw [shapeGranules, field, field, Nat.pow_zero, Nat.div_one, Nat.mod_eq_of_lt rows]; rfl

/-- The tile of a TALLOC that can be satisfied has rows, a pitch, and room in its owner (R239). -/
def Env.fits (e : Env) (barn : Bool) (shape : Word) : Prop :=
  shape.toNat / 4096 ≠ 0 ∧ shape.toNat % 4096 ≠ 0 ∧ shapeGranules shape ≤ (if barn then 65536 else 4096)
    ∧ ((ownerTiles e barn).map (·.granules)).sum + shapeGranules shape ≤ (if barn then e.l.kh.barn else e.l.kh.loft)

theorem shapeGranules_eq_zero_iff : shapeGranules shape = 0 ↔ shape.toNat / 4096 = 0 ∨ shape.toNat % 4096 = 0 := by
  have bytes : shape.toNat % 4096 * 16 * (shape.toNat / 4096) = 16 * (shape.toNat / 4096 * (shape.toNat % 4096)) := by ring
  rw [shapeGranules_eq, ← Nat.mul_eq_zero, bytes]
  omega

theorem allocIndex_of_fits (hf : e.fits barn shape) :
    allocIndex e barn shape = lowestIndex (if barn then 1024 else 64) ((ownerTiles e barn).map (·.index)) := by
  obtain ⟨rows, pitch, small, room⟩ := hf
  have nonzero : shapeGranules shape ≠ 0 := by simp [shapeGranules_eq_zero_iff, rows, pitch]
  refine if_neg ?_
  simp only [not_or, not_lt]
  exact ⟨nonzero, small, room⟩

theorem allocIndex_of_not_fits (hf : ¬ e.fits barn shape) : allocIndex e barn shape = none := by
  refine if_pos ?_
  by_contra h
  simp only [not_or, not_lt] at h
  obtain ⟨nonzero, small, room⟩ := h
  rw [shapeGranules_eq_zero_iff, not_or] at nonzero
  exact hf ⟨nonzero.1, nonzero.2, small, room⟩

end Sys2Proof.Machine
end

section
-- One proof is elaborated at a time: the check bounds the threads of the whole text.
set_option Elab.async false
/-! SUPPORT for O24: what the RED entries of a drain leave of the issuing group (R220, R236). -/

namespace Sys2Proof.Machine

variable {s t : State} {x : Issue} {g h k : Group}

theorem Group.Retains.trans (hg : h.Retains g) (hk : g.Retains k) : h.Retains k :=
  ⟨hk.core.trans hg.core, hk.slot.trans hg.slot, hk.heldFlags.trans hg.heldFlags, hk.bad.trans hg.bad⟩

/-- A write leaves a group that stands past no fence what it holds. -/
theorem Group.note_retains (hf : g.fence = none) (us : List Unit128) (own : Option OwnAccess) (filtered : Nat → Bool) (tag : BitVec 64) :
    g.Retains ((g.noteWrite us own).noteWake filtered tag) ∧ ((g.noteWrite us own).noteWake filtered tag).fence = none := by
  have unwritten : g.noteWrite us own = g := by rw [Group.noteWrite, hf]
  rw [unwritten, Group.noteWake]
  repeat' split
  all_goals exact ⟨⟨rfl, rfl, rfl, rfl⟩, hf⟩

/-- The slot of x holds its group, past no fence and with its held flags and errors, and its launch does not log. -/
structure Issue.Stands (x : Issue) (t : State) : Prop where
  group : ∃ g, t.group? x.core x.slot = some g ∧ x.e.g.Retains g ∧ g.fence = none
  mode : ∀ l, t.launch? x.e.l.id = some l → l.lh.mode = 0

theorem Issues.stands (hi : Issues s x) (hm : x.e.l.lh.mode = 0) : x.Stands s := by
  refine ⟨⟨x.e.g, hi.group.1, .refl _, hi.fence⟩, fun l hl => ?_⟩
  rw [State.env?_launch hi.env] at hl
  cases hl
  exact hm

theorem Issue.Stands.writePlace (ht : x.Stands t) (p : Place) (bs : List Byte) (tag : BitVec 64) (own : Option OwnAccess) :
    x.Stands (t.writePlace p bs tag own) := by
  obtain ⟨g, hg, kept, hf⟩ := ht.group
  refine ⟨?_, fun l hl => ?_⟩
  · rcases State.group?_writePlace hg p bs tag own with hg | ⟨us, filtered, hg⟩
    · exact ⟨g, hg, kept, hf⟩
    · obtain ⟨noted, hn⟩ := Group.note_retains hf us own filtered tag
      exact ⟨_, hg, kept.trans noted, hn⟩
  · obtain ⟨l0, hl0, hlh⟩ := State.launch?_writePlace hl
    rw [hlh]; exact ht.mode l0 hl0

/-- A change of a group that keeps its slot, its fence, its held flags and its errors. -/
theorem Issue.Stands.mapGroup (ht : x.Stands t) {f : Group → Group} (hf : ∀ g, g.Retains (f g) ∧ (f g).fence = g.fence) (core slot : Nat) :
    x.Stands (t.mapGroup core slot f) := by
  unfold State.mapGroup
  split
  · next k hk =>
    obtain ⟨kept, fence⟩ := hf k
    obtain ⟨hcore, hslot⟩ := State.group?_slot hk
    obtain ⟨g, hg, old, free⟩ := ht.group
    refine ⟨?_, ht.mode⟩
    by_cases own : x.core = (f k).core ∧ x.slot = (f k).slot
    · have same : k = g := by
        rw [kept.core, kept.slot, hcore, hslot] at own
        rw [own.1, own.2, hk] at hg
        exact Option.some.inj hg
      subst same
      refine ⟨f k, ?_, old.trans kept, fence.trans free⟩
      rw [own.1, own.2]
      exact State.group?_setGroup (g0 := k) (by rw [← own.1, ← own.2]; exact hg)
    · exact ⟨g, by rw [State.group?_setGroup_other own]; exact hg, old, free⟩
  · exact ht

/-- A choice for a launch without determinism, or for one that has ended, goes on at once. -/
theorem choose_unlogged {id kind unit team : Nat} {check : Word} {tag : BitVec 64} {late : Bool}
    (h : ∀ l, s.launch? id = some l → l.lh.mode = 0) : choose s id kind unit check tag team late = .go s := by
  cases hl : s.launch? id with
  | none => rw [choose, hl]
  | some l => exact choose_free hl (h l hl)

/-- Without determinism every entry of a batch is performed in its turn or behind one that waits. -/
theorem Issue.Stands.drainEntry {r : Drained} (hr : x.Stands r.s) (amr : Word) (y : RedEntry) :
    x.Stands (drainEntry x.e.l.id amr r y).s := by
  have performs : x.Stands (performRed r.s amr y) := performRmw_keeps (P := x.Stands) hr hr.writePlace ..
  unfold Machine.drainEntry
  simp only [choose_unlogged hr.mode]
  split
  · exact hr
  · rw [apply_ite Drained.s, ite_self]
    exact performs

theorem Group.takeEntries_retains (only : Option (RedEntry → Bool)) (k : Group) (left : List RedEntry) (g : Group) :
    g.Retains (k.takeEntries only left g) ∧ (k.takeEntries only left g).fence = g.fence := ⟨⟨rfl, rfl, rfl, rfl⟩, rfl⟩

theorem Group.giveEntries_retains (only : Option (RedEntry → Bool)) (g : Group) :
    g.Retains (g.giveEntries only) ∧ (g.giveEntries only).fence = g.fence := by
  cases only <;> exact ⟨⟨rfl, rfl, rfl, rfl⟩, rfl⟩

/-- Without determinism the issuing group stands as before after a drain of any groups. -/
theorem Issue.Stands.drainGroups (hs : x.Stands s) (gs : List Group) (only : Option (RedEntry → Bool)) :
    x.Stands (drainGroups s x.e.l.id gs only).1 := by
  refine foldl_keeps (P := x.Stands) ?_ fun _ g ht => ht.mapGroup (g.takeEntries_retains only _) _ _
  refine foldl_keeps (P := fun r : Drained => x.Stands r.s) ?_ fun _ y hr => hr.drainEntry _ y
  exact foldl_keeps (P := x.Stands) hs fun _ _ ht => ht.mapGroup (Group.giveEntries_retains only) _ _

end Sys2Proof.Machine
end

section
-- One proof is elaborated at a time: the check bounds the threads of the whole text.
set_option Elab.async false
/-! SUPPORT for O24: TALLOC, TFREE, GSET and GCFG complete (R200, R201, R239, R241). -/

namespace Sys2Proof.Machine

variable {s t : State} {x : Issue} {u : Use} {body : Issue → State → Res} {i : Instr} {g : Group} {d a : BitVec 6} {barn : Bool}

theorem completesWith_of_closes (h : exec i s = .next (x.closes s t g x.onward)) : CompletesWith i s x t [] false g := fun _ => h

/-- A word whose body changes the machine to t outside the groups, and its own group to g, closes with both. -/
theorem state_closes (hi : Issues s x) (passes : decodeFault u x = none ∧ u.tokens x = []) (hr : u.rounds = false)
    (hb : body x s = .done { s := t.setGroup g }) (groups : t.groups = s.groups) (kept : x.e.g.Retains g) :
    issue u body s = .next (x.closes s t g x.onward) := by
  obtain ⟨core, slot, heldFlags, bad⟩ := kept
  have found : (t.setGroup g).group? x.core x.slot = some g := by
    rw [State.group?, State.setGroup, groups]
    exact hi.group?_setGroup core slot
  rw [issue_closes hi passes hr hb found (by rw [heldFlags]; exact hi.held) (bad.trans hi.bad), Issue.closes_setGroup _ _ _ _ rfl rfl]

/-! ### TALLOC (R239) -/

theorem addTile_groups (s : State) (e : Env) (barn : Bool) (y : Tile) : (addTile s e barn y).groups = s.groups := by cases barn <;> rfl

/-- The group of x that waits for the handle h in register d. -/
def Issue.handed (x : Issue) (d : BitVec 6) (h : Nat) : Group := x.e.g.bump.addResult { s := [(d.toNat, BitVec.ofNat 32 h)] } [sN d]

/-- The tile that a TALLOC makes: all its bytes are zero. -/
def Issue.newTile (x : Issue) (a : BitVec 6) (i : Nat) : Tile :=
  { index := i, granules := shapeGranules (x.arch.getS a.toNat), shape := x.arch.getS a.toNat, ctx := x.e.l.ctx }

section Talloc

variable (hi : Issues s x) (hh : Hinted x none false false false) (hm : x.e.l.lh.mode = 0) (hr : Usable x [sN a, sN d])
include hi hh hm hr

/-- Without determinism a TALLOC has its turn at the tile table at once. -/
theorem talloc_allots {i : Nat} (index : allocIndex x.e barn (x.arch.getS a.toNat) = some i) :
    CompletesWith (.talloc d a barn) s x (addTile s x.e barn (x.newTile a i)) [] false (x.handed d (i + if barn then 0x4000 else 0)) := by
  have found : (addTile s x.e barn (x.newTile a i)).group? x.core x.slot = some x.e.g := by
    rw [State.group?, addTile_groups]; exact hi.group.1
  refine completesWith_of_closes (state_closes hi (passes_checks hr hh (limm_none _) ⟨rfl, rfl⟩ ⟨rfl, rfl⟩ ⟨rfl, rfl⟩
    (by simp [Use.regs])) rfl ?_ (addTile_groups ..) ⟨rfl, rfl, rfl, rfl⟩)
  rw [Issue.handed, ← State.mapGroup_eq found fun g => g.bump.addResult _ _]
  simp only [choose_free (State.env?_launch hi.env) hm, ite_self, hi.env, Option.getD_some, index]
  rfl

theorem talloc_refuses (index : allocIndex x.e barn (x.arch.getS a.toNat) = none) :
    CompletesGroup (.talloc d a barn) s x (x.handed d 0xFFFF) := by
  refine group_completes hi (exec_talloc ..) (passes_checks hr hh (limm_none _) ⟨rfl, rfl⟩ ⟨rfl, rfl⟩ ⟨rfl, rfl⟩ (by simp [Use.regs]))
    rfl ?_ ⟨rfl, rfl, rfl, rfl⟩
  rw [Issue.handed, ← State.mapGroup_eq hi.group.1 fun g => g.bump.addResult _ _]
  simp only [choose_free (State.env?_launch hi.env) hm, ite_self, hi.env, Option.getD_some, index]

end Talloc

/-! ### TFREE (R241) -/

theorem dropTile_groups (s : State) (e : Env) (h : Nat) : (dropTile s e h).groups = s.groups := by
  unfold dropTile
  split <;> rfl

/-- No group has entries to drain. -/
theorem drainGroups_nil (s : State) (id : Nat) (only : Option (RedEntry → Bool)) : drainGroups s id [] only = (s, true, none) := by
  simp [drainGroups, formBatch, sortBy, performBatch]

/-- The entries of the REDs that reach the tile of a handle. -/
def Env.reaching (e : Env) (h : Nat) (y : RedEntry) : Bool := y.place.within e h

/-- The groups that a TFREE of the handle drains. -/
def Env.sharers (e : Env) (s : State) (h : Nat) : List Group :=
  (handleGroups s e h).filter fun g => (g.reds ++ g.batch).any (e.reaching h)

/-- A TFREE of a held tile that is idle and not bound releases it on the machine that the drain leaves. -/
theorem tfree_releases {h : Nat} {s1 : State} {g1 : Group} (hi : Issues s x) (hh : Hinted x none false false false)
    (hm : x.e.l.lh.mode = 0) (hr : Usable x [sN a]) (name : (x.arch.getS a.toNat).toNat % 65536 = h) (kind : h < 0x8000)
    (held : ∃ y ∈ ownerTiles x.e (0x4000 ≤ h), y.index = h % 0x4000) (idle : handleBusy s x.e h = false)
    (unbound : handleBound s x.e h = false)
    (drained : drainGroups s x.e.l.id (x.e.sharers s h) (some (x.e.reaching h)) = (s1, true, none))
    (hg : s1.group? x.core x.slot = some g1) : exec (.tfree a) s = .next (x.closes s (dropTile s1 x.e h) g1 x.onward) := by
  have stands : x.Stands s1 := by
    have := (hi.stands hm).drainGroups (x.e.sharers s h) (some (x.e.reaching h))
    rwa [drained] at this
  obtain ⟨g, hg', ⟨-, -, heldFlags, bad⟩, -⟩ := stands.group
  obtain rfl : g = g1 := Option.some.inj (hg'.symm.trans hg)
  have owned : (ownerTiles x.e (0x4000 ≤ h)).any (fun y => y.index == field h 0 14) = true := by
    obtain ⟨y, hy, index⟩ := held
    exact List.any_eq_true.2 ⟨y, hy, by simpa [field] using index⟩
  have drains : drainBefore x s (x.e.sharers s h) (some (x.e.reaching h)) (fun t => .done { s := dropTile t x.e h })
      = .done { s := dropTile s1 x.e h } := by rw [drainBefore, drained]
  refine issue_closes hi (passes_checks hr hh (limm_none _) ⟨rfl, rfl⟩ ⟨rfl, rfl⟩ ⟨rfl, rfl⟩ (by simp [Use.regs])) rfl ?_
    (by rw [State.group?, dropTile_groups]; exact hg) (by rw [heldFlags]; exact hi.held) (bad.trans hi.bad)
  dsimp only
  rw [name, idle, owned, unbound, decide_eq_true kind]
  exact drains

/-! ### GSET and GCFG (R200, R201) -/

theorem installWindow_groups (s : State) (c g : Nat) (e : List Word) : (installWindow s c g e).groups = s.groups := by
  unfold installWindow
  dsimp only
  repeat' split
  all_goals rfl

/-- The eight words of an entry in the registers from a on (R200). -/
def Issue.entryAt (x : Issue) (a : BitVec 6) : List Word := (List.range 8).map fun k => x.arch.getS (a.toNat + k)

theorem gset_installs {n : BitVec 3} (hi : Issues s x) (hh : Hinted x none false false false) (aligned : a.toNat % 8 = 0)
    (hr : Usable x (octet a)) (priv : x.e.l.privileged = true) (free : ∀ l ∈ s.launches, l.ctx = x.e.l.ctx → l.lh.mode = 0)
    (begun : ∀ c ∈ s.commands, c.ctx = x.e.l.ctx → c.discard = false) (valid : entryValid s x.e.l.ctx n.toNat (x.entryAt a) = true) :
    CompletesWith (.gset a n) s x (installWindow s x.e.l.ctx n.toNat (x.entryAt a)) [] false x.e.g := by
  have undetermined : deterministicContext s x.e.l.ctx = false := by
    simpa [deterministicContext] using free
  have unread : readsBegun s x.e.l.ctx = false := by
    simp only [readsBegun, List.any_eq_false, Bool.and_eq_true, beq_iff_eq, not_and]
    exact fun c hc discard own => absurd (begun c hc own) (by simp [discard])
  have found : (installWindow s x.e.l.ctx n.toNat (x.entryAt a)).group? x.core x.slot = some x.e.g := by
    rw [State.group?, installWindow_groups]; exact hi.group.1
  refine completesWith_of_closes (issue_closes hi ⟨decodeFault_none hr hh (limm_none _) rfl rfl rfl (fun _ => priv) (by simp [aligned]) rfl
    ?_, tokens_none hr ?_⟩ rfl ?_ found hi.held hi.bad)
  · simp [Use.regs]
  · simp [Use.regs]
  · dsimp only
    rw [undetermined, ← Issue.entryAt, valid, unread]
    rfl

theorem gcfg_completes {n : BitVec 3} (hi : Issues s x) (hh : Hinted x none false false false) (aligned : a.toNat % 8 = 0)
    (hr : Usable x (octet a)) : Completes (.gcfg a n) s x
      ((List.range 8).foldl (fun r k => r.setS (a.toNat + k) (windowWord s x.e.l.ctx n.toNat k)) x.arch) :=
  arch_completes hi (exec_gcfg ..) (passes_checks hr hh (limm_none _) ⟨rfl, rfl⟩ ⟨rfl, rfl⟩ ⟨by simp [aligned], rfl⟩
    (by simp [Use.regs])) rfl rfl

end Sys2Proof.Machine
end

section
-- One proof is elaborated at a time: the check bounds the threads of the whole text.
set_option Elab.async false
/-! PROOF of O24: tiles and windows. -/

open Sys2Proof Sys2Proof.Machine

/-- Settles O24. TALLOC and TFREE by what their owner holds (`talloc_allots`, `talloc_refuses`, `tfree_releases`), GSET and GCFG by the
words of an entry (`gset_installs`, `gcfg_completes`), and the elements kind by kind. -/
theorem tileAndWindowResults : Obligations.TileAndWindowResults := by
  unfold Obligations.TileAndWindowResults
  refine ⟨fun s x d a barn hi hh hm => ?tiles, fun s x a g hi hh aligned hr => ⟨?gset, gcfg_completes hi hh aligned hr⟩,
    fun s c g e _ he => ?entry, fun s c g off n => ?bytes, fun e n => ?elements⟩
  case tiles =>
    intro shape rows pitch granules mine declared fits
    have owner : ownerTiles x.e barn = mine := by rw [ownerTiles, hi.group.2.1]
    have size : shapeGranules shape = granules := shapeGranules_eq shape
    have fits_iff : x.e.fits barn shape ↔ fits := by rw [Env.fits, owner, size]
    refine ⟨fun hr => ?talloc, fun hr => ?tfree⟩
    case talloc =>
      intro holds
      refine ⟨fun i hf bound free least => ?allots, fun refused => talloc_refuses hi hh hm hr ?index⟩
      case allots =>
        intro tile t
        have index : allocIndex x.e barn shape = some i := by
          rw [allocIndex_of_fits (fits_iff.2 hf), owner, lowestIndex_eq_some bound free least]
        have added : addTile s x.e barn (x.newTile a i) = t := by
          rw [addTile, hi.group.2.1, Issue.newTile, shapeGranules_eq]
        rw [← added]
        exact talloc_allots hi hh hm hr index
      case index =>
        by_cases hf : fits
        · rw [allocIndex_of_fits (fits_iff.2 hf), owner, lowestIndex_eq_none (refused.resolve_left (not_not_intro hf))]
        · exact allocIndex_of_not_fits (fits_iff.not.2 hf)
    case tfree =>
      intro h kind held idle unbound sharers
      refine ⟨fun none_ => ?alone, fun s1 g1 drained hg => tfree_releases hi hh hm hr rfl kind held idle unbound drained hg⟩
      have drained : drainGroups s x.e.l.id (x.e.sharers s h) (some (x.e.reaching h)) = (s, true, none) := by
        rw [show x.e.sharers s h = [] from none_, drainGroups_nil]
      exact completesWith_of_closes (tfree_releases hi hh hm hr rfl kind held idle unbound drained hi.group.1)
  case gset => exact fun priv free begun valid => gset_installs hi hh aligned hr priv free begun valid
  case entry =>
    refine ⟨windowEntry_installWindow_same he, fun h _ other => windowEntry_installWindow_other he other,
      fun used base => range_installWindow used base, fun unused held => rangeKind_installWindow_unused unused held⟩
  case bytes => exact ⟨windowBytes_length .., fun j hj => windowBytes_getElem? _ off hj⟩
  case elements =>
    intro w near kind format element
    refine ⟨fun hk => ?ramp, fun hk => ?mask, fun hk => ?rotary, fun hk => ?hash⟩
    case ramp =>
      have is : element = rampElement e n := windowElement_ramp hk
      rw [is]
      exact rampElement_of_format e n
    case mask =>
      intro rule row col holds hr m hm
      have is : element = maskElement e n := windowElement_mask hk
      rw [is]
      exact maskElement_eq hr (lnFmtOf_mask hm)
    case rotary =>
      intro m hm d p c x q r lf y ex turn a sine
      have is : element = rotaryElement e n := windowElement_rotary hk
      have log : lf = rotaryLog e c := (roundRatio_eq x d).symm
      have turns : turn = rotaryTurn e p c := by rw [rotaryTurn, ← log]
      have code : element = lnCode m (turnsResult (c % 2 == 0) false m near turn).1 := by
        rw [is, turns]
        exact rotaryElement_eq hm
      refine ⟨?value, fun start => ?origin⟩
      case value =>
        have value := turnsResult_code (c % 2 == 0) m near turn
        simp only [beq_iff_eq] at value
        exact code.trans value
      case origin =>
        rw [code, turns, start, rotaryTurn_zero, turnsResult_zero]
        simp only [beq_iff_eq]
    case hash =>
      have is : element = hashElement e n := windowElement_hash hk
      rw [is]
      exact hashElement_eq e n

end

section
-- One proof is elaborated at a time: the check bounds the threads of the whole text.
set_option Elab.async false
/-! SUPPORT for O21 and O22: the values of read-modify-writes (R230), and one of them at its place (R206, R232). -/

namespace Sys2Proof.Machine

/-! ### Values (R230) -/

section Rank

variable {α β : Type} [LinearOrder β] {f : α → β} (inj : Function.Injective f) (v w : α)
include inj

/-- Which of two elements of one rank is taken does not matter: they are the same. -/
theorem ite_rank_le : (if f v ≤ f w then v else w) = if f v < f w then v else w := by
  rcases lt_trichotomy (f v) (f w) with h | h | h
  · rw [if_pos h.le, if_pos h]
  · rw [inj h, ite_self, ite_self]
  · rw [if_neg h.not_ge, if_neg h.not_gt]

theorem ite_rank_ge : (if f v ≤ f w then w else v) = if f v < f w then w else v := by
  rcases lt_trichotomy (f v) (f w) with h | h | h
  · rw [if_pos h.le, if_pos h]
  · rw [inj h, ite_self, ite_self]
  · rw [if_neg h.not_ge, if_neg h.not_gt]

end Rank

section Order

variable {n : Nat} (v old : BitVec n)

theorem minSigned_eq : (if old.toInt ≤ v.toInt then old else v) = if old.slt v then old else v := by
  simp only [BitVec.slt_iff_toInt_lt]; exact ite_rank_le (fun _ _ => BitVec.eq_of_toInt_eq) old v

theorem maxSigned_eq : (if old.toInt ≤ v.toInt then v else old) = if old.slt v then v else old := by
  simp only [BitVec.slt_iff_toInt_lt]; exact ite_rank_ge (fun _ _ => BitVec.eq_of_toInt_eq) old v

theorem minPlain_eq : (if old.toNat ≤ v.toNat then old else v) = if old.ult v then old else v := by
  simp only [BitVec.ult_iff_lt, BitVec.lt_def]; exact ite_rank_le (fun _ _ => BitVec.eq_of_toNat_eq) old v

theorem maxPlain_eq : (if old.toNat ≤ v.toNat then v else old) = if old.ult v then v else old := by
  simp only [BitVec.ult_iff_lt, BitVec.lt_def]; exact ite_rank_ge (fun _ _ => BitVec.eq_of_toNat_eq) old v

end Order

theorem setWidth_word (w : Word) : (w.setWidth 64).setWidth 32 = w := BitVec.setWidth_setWidth_of_le w (by decide)

theorem toNat_word (w : Word) : (w.setWidth 64).toNat = w.toNat := BitVec.toNat_setWidth_of_le (by decide)

theorem setWidth_word_inj (v w : Word) : v.setWidth 64 = w.setWidth 64 ↔ v = w :=
  ⟨fun h => by rw [← setWidth_word v, h, setWidth_word], fun h => by rw [h]⟩

theorem sum_word (v w : Word) : (v.setWidth 64 + w.setWidth 64).setWidth 32 = v + w := by
  rw [BitVec.setWidth_add _ _ (by decide), setWidth_word, setWidth_word]

/-! ### One read-modify-write (R206, R232) -/

section Perform

variable {s : State} {p : Place} {r : Rmw} {amr : Word} {tag : BitVec 64} {own : Option OwnAccess} {v : BitVec 64}

/-- The value that a read-modify-write finds at its place. -/
def Rmw.found (r : Rmw) (s : State) (p : Place) : BitVec 64 := BitVec.ofNat 64 (leNat (readAny s p r.width))

theorem performRmw_writes (h : (r.new amr (r.found s p)).1 = some v) :
    (performRmw s p r amr tag own).1 = s.writePlace p (leBytes r.width v.toNat) tag own := by
  rw [Rmw.found] at h
  simp only [performRmw, h]

theorem performRmw_leaves (h : (r.new amr (r.found s p)).1 = none) : (performRmw s p r amr tag own).1 = s := by
  rw [Rmw.found] at h
  simp only [performRmw, h]

end Perform

theorem leBytes_filled {n : Nat} (h : 0 < n) (v : Nat) : (leBytes n v).isEmpty = false := by
  cases n with
  | zero => exact absurd h (Nat.lt_irrefl 0)
  | succ n => rfl

/-- Memory reads the bytes that were written at a place of it. -/
theorem read_writePlace (s : State) (t : Tier) (a ia : Nat) {n : Nat} (h : 0 < n) (v : Nat) (tag : BitVec 64) (own : Option OwnAccess) :
    (s.writePlace (.mem t a ia) (leBytes n v) tag own).memory.read t a n = leBytes n v := by
  have same := Memory.read_write_same s.memory t a (leBytes n v)
  rw [leBytes_length] at same
  rw [State.writePlace_memory, leBytes_filled h, State.putPlace_memory]
  exact same

end Sys2Proof.Machine
end

section
-- One proof is elaborated at a time: the check bounds the threads of the whole text.
set_option Elab.async false
/-! PROOF of O21: the values of atomic operations, and one of them in memory. -/

open Sys2Proof Sys2Proof.Machine

/-- Settles O21: the values operation by operation, at each width; a read-modify-write is one write at its place (`performRmw_writes`) or
none (`performRmw_leaves`). -/
theorem atomicOperationRules : Obligations.AtomicOperationRules := by
  unfold Obligations.AtomicOperationRules
  refine ⟨⟨fun v old cmp lane amr => ?word, fun v old cmp lane amr => ?wide⟩, fun s t a ia r amr tag hw => ?perform⟩
  case word =>
    intro new is
    have narrow : ¬(4 : Nat) = 8 := by decide
    refine ⟨rfl, ?_, ?_, ?_, ?_, ?_, ?_, ?_, ?_, ?_, ?_⟩ <;>
      simp only [new, is, Rmw.new, if_neg narrow, setWidth_word, toNat_word, setWidth_word_inj, sum_word, ← minSigned_eq, ← maxSigned_eq,
        ← minPlain_eq, ← maxPlain_eq, apply_ite (BitVec.setWidth 64), lnAddCode, BitVec.setWidth_and, BitVec.setWidth_or,
        BitVec.setWidth_xor]
  case wide =>
    intro new is
    refine ⟨rfl, rfl, rfl, ?_, ?_, ?_, ?_, rfl, rfl, rfl⟩ <;>
      simp only [new, is, Rmw.new, if_true, ← minSigned_eq, ← maxSigned_eq, ← minPlain_eq, ← maxPlain_eq]
  case perform =>
    intro old after
    have writes {v : BitVec 64} (h : (r.new amr old).1 = some v) : after.1 = s.writePlace (.mem t a ia) (leBytes r.width v.toNat) tag :=
      performRmw_writes (p := .mem t a ia) h
    have leaves (h : (r.new amr old).1 = none) : after.1 = s := performRmw_leaves (p := .mem t a ia) h
    refine ⟨rfl, rfl, leaves, fun v h => ?value, fun u k other => ?frame⟩
    case value => rw [writes h]; exact read_writePlace s t a ia (by omega) v.toNat tag none
    case frame =>
      cases h : (r.new amr old).1 with
      | none => rw [leaves h]
      | some v =>
        rw [writes h, State.readByte_writePlace, Place.byteAfter, leBytes_length]
        exact if_neg fun ⟨tier, inside⟩ => other ⟨tier.symm, inside⟩

end

section
-- One proof is elaborated at a time: the check bounds the threads of the whole text.
set_option Elab.async false
/-! SUPPORT for O22: a sort by a key, and the batch of one group in the order of R220. -/

namespace Sys2Proof.Machine

/-! ### Sorting by a key -/

section Sorting

variable {α : Type} {key : α → Nat}

theorem insertBy_perm (x : α) (ys : List α) : (insertBy key x ys).Perm (x :: ys) := by
  induction ys with
  | nil => exact .refl _
  | cons y ys ih =>
    rw [insertBy]
    split
    · exact .refl _
    · exact (ih.cons y).trans (.swap x y ys)

theorem insertBy_sorted (x : α) {ys : List α} (h : ys.Pairwise (fun a b => key a ≤ key b)) :
    (insertBy key x ys).Pairwise (fun a b => key a ≤ key b) := by
  induction ys with
  | nil => exact List.pairwise_singleton ..
  | cons y ys ih =>
    obtain ⟨least, rest⟩ := List.pairwise_cons.1 h
    rw [insertBy]
    split
    · next before =>
      refine List.pairwise_cons.2 ⟨fun z hz => ?_, h⟩
      rcases List.mem_cons.1 hz with rfl | hz
      · exact before.le
      · exact before.le.trans (least z hz)
    · next behind =>
      refine List.pairwise_cons.2 ⟨fun z hz => ?_, ih rest⟩
      rcases List.mem_cons.1 ((insertBy_perm x ys).mem_iff.1 hz) with rfl | hz
      · exact Nat.le_of_not_lt behind
      · exact least z hz

theorem sortBy_perm (xs : List α) : (sortBy key xs).Perm xs := by
  have from_ (ys : List α) : (xs.foldl (fun ys x => insertBy key x ys) ys).Perm (ys ++ xs) := by
    induction xs generalizing ys with
    | nil => rw [List.append_nil]; exact .refl _
    | cons x xs ih =>
      exact (ih _).trans (((insertBy_perm x ys).append_right xs).trans List.perm_middle.symm)
  exact from_ []

theorem sortBy_sorted (xs : List α) : (sortBy key xs).Pairwise (fun a b => key a ≤ key b) :=
  foldl_keeps (P := fun ys : List α => ys.Pairwise (fun a b => key a ≤ key b)) .nil fun _ x h => insertBy_sorted x h

/-- The one order of a list in which its keys rise. -/
theorem sortBy_eq_of_perm {xs ys : List α} (same : ys.Perm xs) (rising : ys.Pairwise (fun a b => key a < key b)) : sortBy key xs = ys := by
  have perm : (sortBy key xs).Perm ys := (sortBy_perm xs).trans same.symm
  have apart := List.inj_on_of_nodup_map (List.pairwise_map.2 (rising.imp Nat.ne_of_lt))
  exact perm.eq_of_pairwise (fun a b ha hb le ge => apart (perm.mem_iff.1 ha) hb (le_antisymm le ge)) (sortBy_sorted xs)
    (rising.imp Nat.le_of_lt)

end Sorting

/-! ### The batch of one group (R220, R236) -/

variable {s t : State} {x : Issue} {es : List RedEntry} {g : Group}

/-- Within a group the entries of a batch go by lane, and those of a lane by issue. -/
theorem RedEntry.rank_lt {e f : RedEntry} (he : e.issue < 4294967296) 
    (h : e.lane < f.lane ∨ e.lane = f.lane ∧ e.issue < f.issue) : e.rank g < f.rank g := by
  unfold RedEntry.rank
  omega

/-- The batch of the issuing group's undrained entries is these entries in their order. -/
theorem formBatch_eq (h : DrainsAs x es) : formBatch s [x.e.g] = es := by
  obtain ⟨batch, same, order, count, -⟩ := h
  obtain ⟨team, sorted⟩ : ∃ team : Nat, formBatch s [x.e.g]
      = (sortBy (fun y => y.1) ((x.e.g.batch ++ x.e.g.reds).map fun e => (team * 2 ^ 64 + e.rank x.e.g, e))).map (·.2) :=
    ⟨_, by rw [formBatch, List.flatMap_singleton]⟩
  have rising : (es.map fun e => (team * 2 ^ 64 + e.rank x.e.g, e)).Pairwise (fun a b => a.1 < b.1) := by
    rw [List.pairwise_map]
    exact order.imp_of_mem fun he _ h => Nat.add_lt_add_left (RedEntry.rank_lt (count _ he) h) _
  rw [sorted, batch, List.nil_append, sortBy_eq_of_perm (same.map _) rising, List.map_map]
  exact List.map_id _

/-! ### The drain (R220, R236) -/

/-- The slot of x holds g, past no fence and not waiting, and the launch does not log. -/
structure Issue.Rests (x : Issue) (g : Group) (t : State) : Prop where
  group : t.group? x.core x.slot = some g
  stands : x.Stands t

theorem Issue.Rests.performRed (h : x.Rests g t) (hf : g.fence = none) (hw : g.wait = .none) (amr : Word) (e : RedEntry) :
    x.Rests g (performRed t amr e) :=
  performRmw_keeps (P := x.Rests g) h (fun p bs tag own =>
    ⟨State.group?_writePlace_quiet h.group hf hw p bs tag own, h.stands.writePlace p bs tag own⟩) ..

/-- Without determinism every entry of a batch is performed in its turn. -/
theorem performBatch_rests (h : x.Rests g t) (hf : g.fence = none) (hw : g.wait = .none) (amr : Word) (es : List RedEntry) :
    let r := performBatch t x.e.l.id amr es
    r.s = es.foldl (fun t e => performRed t amr e) t ∧ r.left = [] ∧ r.mismatch = none := by
  have from_ (r : Drained) (hr : x.Rests g r.s) (left : r.left = []) (mismatch : r.mismatch = none) :
      (es.foldl (drainEntry x.e.l.id amr) r).s = es.foldl (fun t e => performRed t amr e) r.s
      ∧ (es.foldl (drainEntry x.e.l.id amr) r).left = [] ∧ (es.foldl (drainEntry x.e.l.id amr) r).mismatch = none := by
    induction es generalizing r with
    | nil => exact ⟨rfl, left, mismatch⟩
    | cons e es ih =>
      have goes : ∃ chosen, drainEntry x.e.l.id amr r e = { r with s := performRed r.s amr e, chosen := chosen } := by
        have free : ¬(r.mismatch.isSome = true ∨ r.left.any (fun f => f.meets e) = true) := by simp [left, mismatch]
        simp only [drainEntry, if_neg free, choose_unlogged hr.stands.mode]
        split
        · exact ⟨r.chosen, rfl⟩
        · exact ⟨e.place :: r.chosen, rfl⟩
      obtain ⟨chosen, step⟩ := goes
      rw [List.foldl_cons, List.foldl_cons, step]
      exact ih _ (hr.performRed hf hw amr e) left mismatch
  exact from_ { s := t } h rfl rfl

section Drain

variable (hi : Issues s x) (hm : x.e.l.lh.mode = 0) (hw : x.e.g.wait = .none) (h : DrainsAs x es)
include hi

include h in
/-- The group that gives its entries to the drain is the emptied one. -/
theorem giveEntries_own : s.mapGroup x.e.g.core x.e.g.slot (Group.giveEntries none) = s.setGroup x.emptied := by
  obtain ⟨hg, hcore, hslot⟩ := hi.group
  rw [hcore, hslot, State.mapGroup_eq hg, Group.giveEntries, Issue.emptied, ← h.batch]

include hm in
theorem rests_emptied : x.Rests x.emptied (s.setGroup x.emptied) := by
  obtain ⟨-, hcore, hslot⟩ := hi.group
  have found : (s.setGroup x.emptied).group? x.core x.slot = some x.emptied := hi.group?_setGroup rfl rfl
  exact ⟨found, ⟨x.emptied, found, ⟨rfl, rfl, rfl, rfl⟩, hi.fence⟩, (hi.stands hm).mode⟩

include hm hw in
theorem rests_drained (es : List RedEntry) : x.Rests x.emptied (x.drained s es) :=
  foldl_keeps (P := x.Rests x.emptied) (rests_emptied hi hm) fun _ e ht => ht.performRed hi.fence hw _ e

include hm hw h in
/-- Without determinism a flush point of the issuing group performs all its entries. -/
theorem drainGroups_own : drainGroups s x.e.l.id [x.e.g] = ((x.drained s es).setGroup x.emptied, true, none) := by
  obtain ⟨-, hcore, hslot⟩ := hi.group
  obtain ⟨-, -, -, -, -, amr, -⟩ := issueOf_spec hi.issue
  have whole : es.filter (fun _ => true) = es := List.filter_eq_self.2 fun _ _ => rfl
  obtain ⟨state, left, mismatch⟩ := performBatch_rests (rests_emptied hi hm) hi.fence hw x.amr es
  have taken : x.e.g.takeEntries none [] x.emptied = x.emptied := by simp [Group.takeEntries, Issue.emptied]
  have drained : (performBatch (s.setGroup x.emptied) x.e.l.id x.amr es).s = x.drained s es := state
  simp only [drainGroups, State.env?_launch hi.env, Option.map_some, Option.getD_some, ← amr, formBatch_eq h, Option.getD_none, whole,
    List.foldl_cons, List.foldl_nil, giveEntries_own hi h, left, mismatch, drained, List.isEmpty_nil]
  rw [hcore, hslot, State.mapGroup_eq (rests_drained hi hm hw es).group, taken]

end Drain

end Sys2Proof.Machine
end

section
-- One proof is elaborated at a time: the check bounds the threads of the whole text.
set_option Elab.async false
/-! SUPPORT for O22: ATOM, RED and ABFL complete (R231 to R237). -/

namespace Sys2Proof.Machine

variable {s : State} {x : Issue} {es : List RedEntry} {d a : BitVec 8} {o : BitVec 4} {t : BitVec 2} {place : Nat → Place}

/-- A word whose body changes the machine to u around its slot, and its own group to g, closes with both. -/
theorem slot_closes {v : Use} {body : Issue → State → Res} {u : State} {g k : Group} (hi : Issues s x)
    (passes : decodeFault v x = none ∧ v.tokens x = []) (hr : v.rounds = false) (found : u.group? x.core x.slot = some k)
    (hb : body x s = .done { s := u.setGroup g }) (kept : x.e.g.Retains g) : issue v body s = .next (x.closes s u g x.onward) := by
  obtain ⟨core, slot, heldFlags, bad⟩ := kept
  obtain ⟨-, hcore, hslot⟩ := hi.group
  have put : (u.setGroup g).group? x.core x.slot = some g := by
    rw [← hcore, ← hslot, ← core, ← slot]
    exact State.group?_setGroup (g0 := k) (by rw [core, slot, hcore, hslot]; exact found)
  rw [issue_closes hi passes hr hb put (by rw [heldFlags]; exact hi.held) (bad.trans hi.bad), Issue.closes_setGroup _ _ _ _ rfl rfl]

/-! ### ATOM (R231, R232) -/

/-- The lanes of an ATOM leave the group of x in its slot. -/
theorem group?_performLanes (hi : Issues s x) (hw : x.e.g.wait = .none) (amr : Word) (n : Nat) (tag : BitVec 64) (rs : List (Place × Rmw)) :
    (performLanes s amr n tag rs).1.group? x.core x.slot = some x.e.g :=
  foldl_keeps (P := fun r : State × List (Nat × Word) × List (Nat × BitVec 9) => r.1.group? x.core x.slot = some x.e.g) hi.group.1
    fun _ _ hr => performRmw_keeps (P := fun t : State => t.group? x.core x.slot = some x.e.g) hr
      (State.group?_writePlace_quiet hr hi.fence hw) ..

/-- The lanes of an atomic word with their operands. -/
def Issue.operands (x : Issue) (d : BitVec 8) (o : BitVec 4) (t : BitVec 2) (place : Nat → Place) : List (Place × Rmw) :=
  (laneList x.active).map fun i => (place i, atomOperands x.arch d o t i)

theorem atom_completes (hi : Issues s x) (hw : x.e.g.wait = .none) (hm : x.e.l.lh.mode = 0) (hh : Hinted x (some 0xFFFFF) false false false)
    (hill : atomIllegal o t = false) (hpair : atomPairBad a = false) (hdata : atomDataBad d o t = false)
    (hr : Usable x (vPair a ++ atomData d o t ++ atomDest d t)) (h : Reaches s x .atomic o.toNat false (atomBytes t) (atomAddr a t x) place)
    (room : (x.e.g.outstanding.filter (·.atom)).length < 8) :
    let r := performLanes s x.amr d.toNat x.tag (x.operands d o t place)
    CompletesWith (.atom d a o t) s x r.1 [] false (x.e.g.atomed d t r) := by
  intro r
  have found := group?_performLanes hi hw x.amr d.toNat x.tag (x.operands d o t place)
  have goes := chooseAll_free (kind := 1) (team := x.e.t.id) (tag := x.tag) (late := false) (State.env?_launch hi.env) hm
  have passed : LaneChecks.fault ⟨x.placed place, []⟩ = none := rfl
  refine completesWith_of_closes (slot_closes hi (passes_decoder hr hh ⟨rfl, rfl, rfl, rfl, rfl⟩ ⟨hill, rfl, rfl, rfl⟩
    ⟨by simp [hpair, hdata], rfl⟩ (by simp [Use.regs])) rfl found ?_ ⟨rfl, rfl, rfl, rfl⟩)
  have fence : ¬x.e.g.fence.isSome = true := by rw [hi.fence]; decide
  have mode : ¬x.e.l.lh.mode = 2 := by rw [hm]; decide
  have operands : (x.placed place).map (fun p => (p.2, atomOperands x.arch d o t p.1)) = x.operands d o t place := List.map_map
  simp only [if_neg (Nat.not_le.2 room), if_neg fence, if_neg mode, checkLanes_reaches h, goes, operands, passed]
  rw [State.mapGroup_eq found]
  rfl

/-! ### RED (R234, R235) -/

/-- The entries of a RED whose active lanes all pass. -/
def Issue.redEntered (x : Issue) (d a : BitVec 8) (o : BitVec 4) (t : BitVec 2) (place : Nat → Place) : List RedEntry :=
  redEntries x d o t (atomAddr a t x) (x.placed place)

/-- The group g after a RED with the given entries. -/
def Group.entered (g : Group) (entries : List RedEntry) : Group :=
  { g.bump with reds := g.reds ++ entries, redCount := g.redCount + 1, redQuota := if entries.isEmpty then g.redQuota else g.redQuota + 1 }

theorem laneList_eq_nil {m : LaneMask} : laneList m = [] ↔ m = 0 := by
  constructor
  · intro h
    refine BitVec.eq_of_getLsbD_eq fun i hi => ?_
    have : i ∉ laneList m := by rw [h]; exact List.not_mem_nil
    rw [mem_laneList_iff hi] at this
    simpa using this
  · rintro rfl; rfl

theorem redEntered_isEmpty (d a : BitVec 8) (o : BitVec 4) (t : BitVec 2) (place : Nat → Place) :
    (x.redEntered d a o t place).isEmpty = decide (x.active = 0) := by
  rw [Bool.eq_iff_iff, decide_eq_true_eq, ← laneList_eq_nil]
  simp [Issue.redEntered, redEntries, Issue.placed]

/-- What the body of a RED answers when its lanes all pass: it enters its entries, behind a drain when the quota is used up. -/
def Issue.redBody (x : Issue) (s : State) (entries : List RedEntry) : Res :=
  let enter (t : State) : Res := .done { s := t.mapGroup x.core x.slot (·.entered entries) }
  if (8 ≤ x.e.g.redQuota && !entries.isEmpty) || !x.e.g.batch.isEmpty then drainFirst x s enter else enter s

theorem redBody_enters {entries : List RedEntry} (hi : Issues s x) (batch : x.e.g.batch = []) (room : x.e.g.redQuota < 8 ∨ entries = []) :
    x.redBody s entries = .done { s := s.setGroup (x.e.g.entered entries) } := by
  have fits : ((decide (8 ≤ x.e.g.redQuota) && !entries.isEmpty) || !x.e.g.batch.isEmpty) = false := by
    rcases room with h | h
    · simp [batch, h]
    · simp [batch, h]
  simp only [Issue.redBody, fits, State.mapGroup_eq hi.group.1, Bool.false_eq_true, if_false]

theorem redBody_drains {entries : List RedEntry} (hi : Issues s x) (hm : x.e.l.lh.mode = 0) (hw : x.e.g.wait = .none)
    (he : DrainsAs x es) (full : 8 ≤ x.e.g.redQuota) (some_ : entries ≠ []) :
    x.redBody s entries = .done { s := (x.drained s es).setGroup (x.emptied.entered entries) } := by
  have due : ((decide (8 ≤ x.e.g.redQuota) && !entries.isEmpty) || !x.e.g.batch.isEmpty) = true := by simp [full, some_]
  have found := (rests_drained hi hm hw es).group
  have put : ((x.drained s es).setGroup x.emptied).group? x.core x.slot = some x.emptied := by
    obtain ⟨-, hcore, hslot⟩ := hi.group
    rw [← hcore, ← hslot] at found ⊢
    exact State.group?_setGroup (g0 := x.emptied) found
  simp only [Issue.redBody, due, if_true, drainFirst, drainBefore, drainGroups_own hi hm hw he]
  rw [State.mapGroup_eq put]
  exact congrArg (fun t => Res.done { s := t }) (State.setGroup_setGroup _ _ _ rfl rfl)

/-- A RED whose lanes all pass closes with what its body leaves. -/
theorem red_closes {u : State} {g k : Group} (hi : Issues s x) (hh : Hinted x (some 0xFFFFF) false false false)
    (hill : atomIllegal o t = false) (hop : 2 ≤ o.toNat) (hpair : atomPairBad a = false) (hdata : atomDataBad d o t = false)
    (hr : Usable x (vPair a ++ atomData d o t ++ atomDest d t)) (h : Reaches s x .atomic o.toNat false (atomBytes t) (atomAddr a t x) place)
    (found : u.group? x.core x.slot = some k) (kept : x.e.g.Retains g)
    (hb : x.redBody s (x.redEntered d a o t place) = .done { s := u.setGroup g }) :
    exec (.red d a o t) s = .next (x.closes s u g x.onward) := by
  refine slot_closes hi (passes_decoder hr hh ⟨rfl, rfl, rfl, rfl, rfl⟩ ⟨by simp [hill]; omega, rfl, rfl, rfl⟩
    ⟨by simp [hpair, hdata], rfl⟩ ?_) rfl found ?_ kept
  · simp only [Use.regs, List.append_nil]
    exact fun r h => List.mem_append_left _ h
  · simp only [checkLanes_reaches h]
    exact hb

/-! ### ABFL (R237) -/

/-- ABFL drains the undrained entries of its group. -/
theorem abfl_closes (hi : Issues s x) (hh : Hinted x none false false false) (hm : x.e.l.lh.mode = 0) (hw : x.e.g.wait = .none)
    (he : DrainsAs x es) : exec .abfl s = .next (x.closes s (x.drained s es) x.emptied x.onward) := by
  refine slot_closes hi (passes_checks (rs := []) (fun _ h => absurd h List.not_mem_nil) hh (limm_none _) ⟨rfl, rfl⟩ ⟨rfl, rfl⟩ ⟨rfl, rfl⟩
    (fun _ h => h)) rfl (rests_drained hi hm hw es).group ?_ ⟨rfl, rfl, rfl, rfl⟩
  simp only [drainFirst, drainBefore, drainGroups_own hi hm hw he]

end Sys2Proof.Machine
end

section
-- One proof is elaborated at a time: the check bounds the threads of the whole text.
set_option Elab.async false
/-! PROOF of O22: ATOM, RED and ABFL. -/

open Sys2Proof Sys2Proof.Machine

/-- Settles O22: an ATOM by `atom_completes`, a RED by whether its body drains first (`redBody_enters`, `redBody_drains`), and ABFL by
`abfl_closes`. A drain performs all entries of its group in their order (`drainGroups_own`). -/
theorem atomicReductionResults : Obligations.AtomicReductionResults := by
  unfold Obligations.AtomicReductionResults
  refine ⟨fun _ _ _ => rfl, fun s x hi hw hm => ⟨fun d a o t place hh hill hpair hdata hr h => ⟨fun room => ?atom, fun hop batch => ?red⟩,
    fun hh => ⟨fun reds batch => ?quiet, fun es he => completesWith_of_closes (abfl_closes hi hh hm hw he)⟩⟩⟩
  case atom => exact atom_completes hi hw hm hh hill hpair hdata hr h room
  case red =>
    intro entries
    have entered : x.redEntered d a o t place = entries := List.map_map
    have none_ : entries = [] ↔ x.active = 0 := by simp [entries, laneList_eq_nil]
    refine ⟨fun room => ?enters, fun full active es he => ?drains⟩
    case enters =>
      have closes : exec (.red d a o t) s = .next (x.closes s s (x.e.g.entered entries) x.onward) :=
        red_closes hi hh hill hop hpair hdata hr h hi.group.1 ⟨rfl, rfl, rfl, rfl⟩
          (by rw [entered]; exact redBody_enters hi batch (room.imp_right none_.2))
      simp only [Group.entered, List.isEmpty_iff, none_] at closes
      exact closes
    case drains =>
      have closes : exec (.red d a o t) s = .next (x.closes s (x.drained s es) (x.emptied.entered entries) x.onward) :=
        red_closes hi hh hill hop hpair hdata hr h (rests_drained hi hm hw es).group ⟨rfl, rfl, rfl, rfl⟩
          (by rw [entered]; exact redBody_drains hi hm hw he full (mt none_.1 active))
      have some_ : entries.isEmpty = false := List.isEmpty_eq_false_iff.2 (mt none_.1 active)
      rw [Group.entered, some_] at closes
      exact completesWith_of_closes closes
  case quiet =>
    have he : DrainsAs x [] := ⟨batch, by rw [reds], .nil, by simp, by simp⟩
    have emptied : x.emptied = { x.e.g with redQuota := 0 } := by rw [Issue.emptied, ← reds]
    have closes := abfl_closes hi hh hm hw he
    rw [emptied] at closes
    rw [CompletesGroup, closes]
    exact congrArg _ (Issue.closes_setGroup _ _ _ _ rfl rfl)

end

section
-- One proof is elaborated at a time: the check bounds the threads of the whole text.
set_option Elab.async false
/-! SUPPORT for O47: bins, spawned groups and thresher inputs (R278 to R280, R288, R291). -/

namespace Sys2Proof.Machine

variable {s : State} {core : Nat} {k : Core} {b : Bin} {l : Launch} {t : Team} {i : ThrInput}

/-! ### Bins (R291) -/

/-- Without determinism a bin closes by the timer of its context alone. -/
theorem timerClose_free (hl : s.launch? b.launch = some l) (hm : l.lh.mode = 0) :
    timerClose s core b = if s.sys l.ctx 8 ≤ s.tick - b.opened then some s else none := by
  simp only [timerClose, hl, hm, if_true, binExpired, decide_eq_true_eq]

/-- The timer of a bin has run out. -/
def State.timedOut (s : State) (b : Bin) : Bool := (s.launch? b.launch).any fun l => decide (s.sys l.ctx 8 ≤ s.tick - b.opened)

/-- The first bin that a timer closes is the first one whose timer has run out. -/
theorem filterMap_timerClose {bins : List Bin} (free : ∀ c ∈ bins, ∃ l, s.launch? c.launch = some l ∧ l.lh.mode = 0)
    (first : bins.find? s.timedOut = some b) :
    ∃ rest, bins.filterMap (fun c => (timerClose s core c).map fun s1 => (s1, c)) = (s, b) :: rest := by
  induction bins with
  | nil => cases first
  | cons c bins ih =>
    obtain ⟨⟨l, hl, mode⟩, others⟩ := List.forall_mem_cons.1 free
    rw [List.filterMap_cons, timerClose_free hl mode]
    by_cases expired : s.sys l.ctx 8 ≤ s.tick - c.opened
    · rw [List.find?_cons_of_pos (by simp [State.timedOut, hl, expired])] at first
      cases first
      rw [if_pos expired]
      exact ⟨_, rfl⟩
    · rw [List.find?_cons_of_neg (by simp [State.timedOut, hl, expired])] at first
      rw [if_neg expired]
      exact ih others first

theorem binTimerExpiry_closes (room : (s.coreAt s.event.core).spawnQueue.length < 4096)
    (free : ∀ c ∈ (s.coreAt s.event.core).bins, ∃ l, s.launch? c.launch = some l ∧ l.lh.mode = 0)
    (first : (sortBy (fun c : Bin => c.order) (s.coreAt s.event.core).bins).find? s.timedOut = some b) :
    exec .binTimerExpiry s = .next (closeBin s s.event.core b) := by
  obtain ⟨rest, ready⟩ := filterMap_timerClose (core := s.event.core) (fun c hc => free c ((sortBy_perm _).mem_iff.1 hc)) first
  have fits : ¬spawnQueueSize ≤ (s.coreAt s.event.core).spawnQueue.length := Nat.not_le.2 room
  rw [exec_binTimerExpiry, execBinTimerExpiry]
  simp only [if_neg fits, ready]

/-! ### Spawned groups (R288, R292) -/

/-- The team of the group with which a pending group p of the launch l starts in a slot (R288). -/
def State.spawnedTeam (s : State) (core slot : Nat) (l : Launch) (p : PendingGroup) : Team :=
  { id := s.nextId, launch := l.id, key := p.threads.headD 0 >>> l.lh.widths.headD 6, core := core, spawned := true, entry := p.entry,
    threads := p.threads, slots := [slot] }

theorem spawnedGroupStart_starts {p : PendingGroup} {rest : List PendingGroup} {slot : Nat}
    (hq : (s.coreAt s.event.core).spawnQueue = p :: rest) (hl : s.launch? p.launch = some l)
    (free : lowestIndex 63 (heldSlots s s.event.core) = some slot) (held : l.held = false) (draining : l.draining = false)
    (revoked : l.revoked = []) (fits : fitsTeam s s.event.core l.kh = true) :
    exec .spawnedGroupStart s = .next { s.setCore s.event.core { s.coreAt s.event.core with spawnQueue := rest } with
      teams := s.teams ++ [s.spawnedTeam s.event.core slot l p]
      nextId := s.nextId + 1
      launches := s.launches.map (fun m => if m.id == l.id then m.countStart s.event.core slot else m)
      groups := s.groups ++ [freshGroup l s.nextId 0 s.event.core slot p.entry (lowLanes p.threads.length) p.threads] } := by
  have own : s.launch? l.id = some l := by rw [State.launch?_id hl]; exact hl
  have slots : Config.thresherSlot = 63 := rfl
  have starts : exec .spawnedGroupStart s = .next (startGroup { s.setCore s.event.core { s.coreAt s.event.core with spawnQueue := rest } with
      teams := s.teams ++ [s.spawnedTeam s.event.core slot l p], nextId := s.nextId + 1 } l s.nextId 0 slot s.event.core p.entry
      (lowLanes p.threads.length) p.threads) := by
    rw [exec_spawnedGroupStart, execSpawnedGroupStart]
    simp only [hq, hl, slots, free, held, draining, revoked, fits]
    rfl
  have there : State.launch? { s.setCore s.event.core { s.coreAt s.event.core with spawnQueue := rest } with
      teams := s.teams ++ [s.spawnedTeam s.event.core slot l p], nextId := s.nextId + 1 } l.id = some l := own
  rw [starts, startGroup, there]
  rfl

/-! ### Thresher inputs (R278 to R280) -/

theorem thresherInputTake_resumes {r : ThrBlock} {rs : List ThrBlock} (idle : (s.coreAt s.event.core).block = none)
    (hr : (s.coreAt s.event.core).resuming = r :: rs) (runs : s.stopsTeam r.input.team = false) :
    exec .thresherInputTake s
      = .next (s.setCore s.event.core { s.coreAt s.event.core with block := some r, resuming := rs }) := by
  rw [exec_thresherInputTake, execThresherInputTake]
  simp only [idle, Option.isSome_none, hr, runs, Bool.false_eq_true, if_false]

/-- A team may start a block when fewer than 8 of its results wait and its Loft has a tile and 16 granules free (R239, R278). -/
theorem inputFits_iff (idle : k.block = none) (ht : s.team? i.team = some t) (hl : s.launch? t.launch = some l) :
    inputFits s k i = true ↔
      (k.results.filter (fun r => r.team == i.team)).length + (k.resuming.filter (fun b => b.input.team == i.team)).length < 8
      ∧ t.loft.length < 64 ∧ (t.loft.map (·.granules)).sum + 16 ≤ l.kh.loft := by
  simp [inputFits, teamResults, idle, ht, hl, and_assoc]

section Take

variable (idle : (s.coreAt s.event.core).block = none) (unresumed : (s.coreAt s.event.core).resuming = [])
  (first : (s.coreAt s.event.core).inputs.head? = some i) (runs : s.stopsTeam i.team = false) (ht : s.team? i.team = some t)
  (hl : s.launch? t.launch = some l)

/-- The machine without the input i in the queue of the core. -/
def State.withoutInput (s : State) (core : Nat) (i : ThrInput) : State :=
  s.setCore core { s.coreAt core with inputs := (s.coreAt core).inputs.filter (fun j => j.id != i.id) }

include ht hl in
/-- Without determinism an input that fits is taken in its turn. -/
theorem takeInput_head (hm : l.lh.mode = 0) (fits : inputFits s (s.coreAt core) i = true) (is : List ThrInput) :
    takeInput s core (i :: is) = some (startInput (s.withoutInput core i) core i) := by
  simp only [takeInput, fits, ht, Option.map_some, Option.getD_some, choose_free hl hm, Bool.not_true, Bool.false_eq_true, if_false]
  rfl

include idle unresumed first runs ht hl in
/-- The oldest input that fits is started. -/
theorem thresherInputTake_starts (hm : l.lh.mode = 0) (fits : inputFits s (s.coreAt s.event.core) i = true) :
    exec .thresherInputTake s = .next (startInput (s.withoutInput s.event.core i) s.event.core i) := by
  obtain ⟨is, inputs⟩ : ∃ is, (s.coreAt s.event.core).inputs = i :: is := by
    cases h : (s.coreAt s.event.core).inputs with
    | nil => rw [h] at first; cases first
    | cons j is => rw [h] at first; cases first; exact ⟨is, rfl⟩
  obtain ⟨js, oldest⟩ : ∃ js, (oldestInputs (i :: is) []).filter (fun j => !s.stopsTeam j.team) = i :: js :=
    ⟨_, List.filter_cons_of_pos (by rw [runs]; rfl)⟩
  rw [exec_thresherInputTake, execThresherInputTake]
  simp only [idle, Option.isSome_none, unresumed, Bool.false_eq_true, if_false, inputs, oldest,
    takeInput_head ht hl hm fits]

/-- The block of an input as it starts, with the tile of a number. -/
def ThrInput.block (i : ThrInput) (ix : Nat) : ThrBlock := { input := i, pc := 0, bit := 0, steps := 0, tile := ix, payload := 0, sectors := 1 }

/-- The machine with the tile of a block in the team of its input (R278). -/
def State.withBlockTile (s : State) (i : ThrInput) (ctx ix : Nat) : State :=
  s.mapTeam i.team fun u => { u with loft := u.loft ++ [{ index := ix, granules := 16, shape := 0x10010, ctx := ctx }] }

include ht hl in
/-- A block gets its team's lowest free tile, and its header decides how it goes on (R278, R279). -/
theorem startInput_eq {ix : Nat} (low : ix < 64) (free : ix ∉ t.loft.map (·.index)) (least : ∀ j, j < ix → j ∈ t.loft.map (·.index)) :
    let s1 := s.withBlockTile i l.ctx ix
    startInput s core i = match checkVirtual s1 { ctx := l.ctx, launch := l.id, team := i.team, core := core } .load 16 false 16 i.word.toNat 16 with
      | .error c => endBlock s1 core (i.block ix) (sourceStatus c) 0
      | .ok p =>
        let h := baleHeader (readAny s1 p 16)
        if h.formed = true ∧ h.mode = 3 then
          s1.setBlock core (some { i.block ix with pc := h.param, payload := h.payload, sectors := h.sectors })
        else endBlock s1 core (i.block ix) 5 0 := by
  intro s1
  have accessor : blockAccessor s core i.team = some { ctx := l.ctx, launch := l.id, team := i.team, core := core } := by
    simp only [blockAccessor, ht, hl, Option.bind_some, Option.map_some]
  simp only [startInput, ht, accessor, lowestIndex_eq_some low free least, Option.getD_some, Bool.and_eq_true, beq_iff_eq]
  rfl

end Take

end Sys2Proof.Machine
end

section
-- One proof is elaborated at a time: the check bounds the threads of the whole text.
set_option Elab.async false
/-! SUPPORT for O47: the end of a thresher block (R279, R280). -/

namespace Sys2Proof.Machine

variable {s : State} {core : Nat} {b : ThrBlock} {status word : Nat}

theorem thresherStepLimit_ends (hb : (s.coreAt s.event.core).block = some b) (long : 1048576 < b.steps) :
    exec .thresherStepLimit s = .next (endBlock s s.event.core b 8 0) := by
  have past : thrStepLimit < b.steps := long
  rw [exec_thresherStepLimit, execThresherStepLimit]
  simp only [hb, if_pos past]

/-- The first field of a q4 entry (R279). -/
def ThrBlock.entryTile (b : ThrBlock) (status : Nat) : Nat := if status = 0 then b.tile else 0xFFFF

/-- The fields of a q4 entry (R279). -/
theorem blockEntry_toNat (ht : b.tile < 65536) (he : b.emitted < 65536) (hs : status < 256) (hw : word < 2 ^ 24) :
    b.entryTile status < 65536 ∧ (blockEntry b status word).toNat
      = b.entryTile status + b.emitted * 2 ^ 16 + status * 2 ^ 32 + word * 2 ^ 40 := by
  have low : b.entryTile status < 65536 := by unfold ThrBlock.entryTile; split <;> omega
  have entry : blockEntry b status word
      = BitVec.ofNat 64 (b.entryTile status + b.emitted * 2 ^ 16 + status * 2 ^ 32 + word % 2 ^ 24 * 2 ^ 40) := rfl
  refine ⟨low, ?_⟩
  rw [entry, BitVec.toNat_ofNat]
  omega

theorem field_of_toNat {e : BitVec 64} {v : Nat} (h : e.toNat = v) (lo n : Nat) : (e.extractLsb' lo n).toNat = v / 2 ^ lo % 2 ^ n := by
  rw [BitVec.extractLsb'_toNat, h, Nat.shiftRight_eq_div_pow]

theorem blockEntry_fields (ht : b.tile < 65536) (he : b.emitted < 65536) (hs : status < 256) (hw : word < 2 ^ 24) :
    ((blockEntry b status word).extractLsb' 0 16).toNat = b.entryTile status
    ∧ ((blockEntry b status word).extractLsb' 16 16).toNat = b.emitted ∧ ((blockEntry b status word).extractLsb' 32 8).toNat = status
    ∧ ((blockEntry b status word).extractLsb' 40 24).toNat = word := by
  obtain ⟨low, entry⟩ := blockEntry_toNat ht he hs hw
  simp only [field_of_toNat entry]
  omega

/-- A block ends with its entry in q4 (R278, R279). -/
theorem endBlock_eq (s : State) (core : Nat) (b : ThrBlock) (status word : Nat) : endBlock s core b status word =
    (if status = 0 then s else s.mapTeam b.input.team (fun u => { u with loft := u.loft.filter (fun y => y.index != b.tile) })).setCore core
      { s.coreAt core with
        block := none
        results := (s.coreAt core).results ++ [{ team := b.input.team, group := b.input.group, entry := blockEntry b status word }] } := by
  unfold endBlock
  split <;> rfl

end Sys2Proof.Machine
end

section
-- One proof is elaborated at a time: the check bounds the threads of the whole text.
set_option Elab.async false
/-! SUPPORT for O47: teams that run too long, that can never go on, or that are done (R214, R339, R341). -/

namespace Sys2Proof.Machine

variable {s : State} {t : Team} {l : Launch} {u : State} {e : Env} {c : Nat}

theorem mem_groupsOf {g : Group} {id : Nat} : g ∈ s.groupsOf id ↔ g ∈ s.groups ∧ g.team = id := by simp [State.groupsOf]

theorem groupsOf_ne_nil {id : Nat} : s.groupsOf id ≠ [] ↔ ∃ g ∈ s.groups, g.team = id := by
  simp only [ne_eq, List.eq_nil_iff_forall_not_mem, mem_groupsOf, not_forall, not_not]

/-! ### Work that is still to come -/

/-- A command, a thresher input or a block of the team is still to be done. -/
def State.hasWork (s : State) (t : Team) : Prop :=
  (∃ c ∈ s.commands, c.team = t.id) ∨ (∃ i ∈ (s.coreAt t.core).inputs, i.team = t.id)
    ∨ (∃ b ∈ (s.coreAt t.core).resuming ++ (s.coreAt t.core).block.toList, b.input.team = t.id)

theorem hasWork_iff : (s.commands.any (fun c => c.team == t.id) || thresherBusy s t) = true ↔ s.hasWork t := by
  simp only [thresherBusy, State.hasWork, Bool.or_eq_true, List.any_eq_true, beq_iff_eq]

theorem noWork_iff : (!s.commands.any (fun c => c.team == t.id) && !thresherBusy s t) = true ↔ ¬s.hasWork t := by
  rw [← hasWork_iff, Bool.not_eq_true, ← Bool.not_or, Bool.not_eq_true']

/-- Nothing of the team is left to run (R214). -/
theorem teamDone_iff : teamDone s t = true ↔
    t.place = .resident ∧ (∀ i, i < t.slots.length → i ∈ t.exited) ∧ (∀ g ∈ s.groups, g.team ≠ t.id) ∧ ¬s.hasWork t := by
  have gone : s.groupsOf t.id = [] ↔ ∀ g ∈ s.groups, g.team ≠ t.id := by simp [State.groupsOf]
  rw [← noWork_iff, ← gone]
  simp [teamDone, and_assoc]

/-! ### The watchdog (R339) -/

theorem watchdogFault_faults (ht : s.team? s.event.num = some t) (hl : s.launch? t.launch = some l) (resident : t.place = .resident)
    (on : 0 < (s.sys l.ctx 9).toNat) (late : (s.sys l.ctx 9).toNat * 1048576 ≤ t.watchdog.toNat) (runs : ∃ g ∈ s.groups, g.team = t.id)
    (hu : teamFault s t.id 15 = some u) : exec .watchdogFault s = .next u := by
  have due : ¬(t.place ≠ .resident ∨ (s.sys l.ctx 9).toNat = 0 ∨ t.watchdog.toNat < (s.sys l.ctx 9).toNat * 2 ^ 20 ∨ s.groupsOf t.id = []) := by
    have := groupsOf_ne_nil.2 runs
    simp only [resident, this, ne_eq, not_true_eq_false, false_or, or_false]
    omega
  rw [exec_watchdogFault, execWatchdogFault]
  simp only [ht, hl, if_neg due, hu]
  rfl

/-! ### The queue deadlock (R341) -/

theorem queueDeadlock_faults (ht : s.team? s.event.num = some t) (hd : queueDeadlocked s t = true) (hu : teamFault s t.id 9 = some u) :
    exec .queueDeadlock s = .next u := by
  rw [exec_queueDeadlock, execQueueDeadlock]
  simp only [ht, hd, if_true, hu]
  rfl

/-- An access at p meets a full or an empty queue whose storage and header are sound (R250, R251). -/
def Env.meetsLimit (s : State) (e : Env) (b : Binding) (push : Bool) (p : Place) : Prop :=
  storagePlace s e.accessor b.handle b.capacity = some p ∧ s.poisonedPlace p 16 = false
    ∧ (queueHeader (s.readPlace p 16)).ok b.capacity = true
    ∧ (queueHeader (s.readPlace p 16)).allowance = (if push then 0 else b.capacity)

theorem accessQueue_blocked_iff {tag v : BitVec 64} {b : Binding} {push : Bool} :
    accessQueue s e tag b push v = .blocked ↔ ∃ p, e.meetsLimit s b push p := by
  unfold accessQueue Env.meetsLimit
  cases hp : storagePlace s e.accessor b.handle b.capacity with
  | none => simp
  | some p =>
    simp only [Option.some.injEq, exists_eq_left']
    cases s.poisonedPlace p 16 with
    | true => simp
    | false =>
      cases (queueHeader (s.readPlace p 16)).ok b.capacity with
      | false => simp
      | true =>
        by_cases limit : (queueHeader (s.readPlace p 16)).allowance = (if push then 0 else b.capacity)
        · simp [limit]
        · simp only [limit, Bool.false_eq_true, Bool.not_true, if_false, reduceCtorEq, and_false, iff_false]
          repeat' split
          all_goals simp

/-- A group waits for its team: at a named queue in Loft storage, or with the record of the deadlock written. -/
def Env.waitsOnTeam (s : State) (e : Env) : Prop :=
  e.g.wait = .faulted ∨ ∃ push n r b p, e.g.wait = .queue push n r ∧ 8 ≤ n ∧ e.t.binding n = some b
    ∧ b.handle.toNat < 0x4000 ∧ e.meetsLimit s b push p

theorem blockedOnLoft_iff : blockedOnLoft s e = true ↔ e.waitsOnTeam s := by
  unfold blockedOnLoft Env.waitsOnTeam
  cases hw : e.g.wait with
  | faulted => simp
  | queue push n r =>
    simp only [reduceCtorEq, false_or, Wait.queue.injEq, Bool.and_eq_true, decide_eq_true_eq]
    have blocks (b : Binding) : (match accessQueue s e (agentTag e.g (e.g.request + 1)) b push 0 with
        | .blocked => true
        | _ => false) = true ↔ ∃ p, e.meetsLimit s b push p := by
      rw [← accessQueue_blocked_iff (tag := agentTag e.g (e.g.request + 1)) (v := 0)]
      cases accessQueue s e (agentTag e.g (e.g.request + 1)) b push 0 <;> simp
    cases hb : e.t.binding n with
    | none =>
      simp only [Bool.false_eq_true, and_false, false_iff]
      rintro ⟨_, _, _, b, _, ⟨rfl, rfl, rfl⟩, -, h, -⟩
      rw [hb] at h; cases h
    | some b =>
      simp only [Bool.and_eq_true, decide_eq_true_eq]
      constructor
      · rintro ⟨h8, loft, limit⟩
        obtain ⟨p, meets⟩ := (blocks b).1 limit
        exact ⟨push, n, r, b, p, ⟨rfl, rfl, rfl⟩, h8, hb, loft, meets⟩
      · rintro ⟨_, _, _, b', p, ⟨rfl, rfl, rfl⟩, h8, h, loft, meets⟩
        rw [hb] at h; cases h
        exact ⟨h8, loft, (blocks b).2 ⟨p, meets⟩⟩
  | _ => simp

theorem queueDeadlocked_iff : queueDeadlocked s t = true ↔ t.place = .resident ∧ (∃ g ∈ s.groups, g.team = t.id) ∧ ¬s.hasWork t
    ∧ ∀ g ∈ s.groups, g.team = t.id → g.matrix = [] ∧ ∃ e, s.env? g.core g.slot = some e ∧ e.waitsOnTeam s := by
  have member (g : Group) : (((s.env? g.core g.slot).map (blockedOnLoft s)).getD false && g.matrix.isEmpty) = true
      ↔ g.matrix = [] ∧ ∃ e, s.env? g.core g.slot = some e ∧ e.waitsOnTeam s := by
    simp only [← blockedOnLoft_iff, Bool.and_eq_true, List.isEmpty_iff, and_comm]
    cases s.env? g.core g.slot <;> simp
  have all : (s.groupsOf t.id).all (fun g => ((s.env? g.core g.slot).map (blockedOnLoft s)).getD false && g.matrix.isEmpty) = true
      ↔ ∀ g ∈ s.groups, g.team = t.id → g.matrix = [] ∧ ∃ e, s.env? g.core g.slot = some e ∧ e.waitsOnTeam s := by
    simp only [List.all_eq_true, member, mem_groupsOf, and_imp]
  have whole : queueDeadlocked s t = (t.place == .resident && s.groupsOf t.id != [] && (s.groupsOf t.id).all _ && 
     (!s.commands.any (fun c => c.team == t.id) && !thresherBusy s t)) := Bool.and_assoc ..
  rw [whole, Bool.and_eq_true, Bool.and_eq_true, Bool.and_eq_true, noWork_iff, all, bne_iff_ne, groupsOf_ne_nil, beq_iff_eq]
  tauto

/-! ### Faults of a whole team (R370) -/

end Sys2Proof.Machine
end

section
-- One proof is elaborated at a time: the check bounds the threads of the whole text.
set_option Elab.async false
/-! SUPPORT for O47: the fault of a team of one group (R370, R373), and the retirement of a team (R214). -/

namespace Sys2Proof.Machine

variable {s s1 s2 : State} {t : Team} {l : Launch} {e : Env} {c : Nat}

/-! ### A write moves no group -/

/-- The groups of one state stand in the slots of the other's, each in its team. -/
def SameSeats (s s1 : State) : Prop :=
  ∃ f : Group → Group, s1.groups = s.groups.map f ∧ ∀ g, (f g).core = g.core ∧ (f g).slot = g.slot ∧ (f g).team = g.team

theorem SameSeats.of_groups (h : s1.groups = s.groups) : SameSeats s s1 := ⟨id, by rw [h, List.map_id], fun _ => ⟨rfl, rfl, rfl⟩⟩

theorem SameSeats.trans (h : SameSeats s s1) (h' : SameSeats s1 s2) : SameSeats s s2 := by
  obtain ⟨f, hf, kept⟩ := h
  obtain ⟨f', hf', kept'⟩ := h'
  refine ⟨f' ∘ f, by rw [hf', hf, List.map_map], fun g => ?_⟩
  obtain ⟨hc, hs, ht⟩ := kept g
  obtain ⟨hc', hs', ht'⟩ := kept' (f g)
  exact ⟨hc'.trans hc, hs'.trans hs, ht'.trans ht⟩

theorem Group.note_team (g : Group) (us : List Unit128) (own : Option OwnAccess) (filtered : Nat → Bool) (tag : BitVec 64) :
    ((g.noteWrite us own).noteWake filtered tag).team = g.team := by
  unfold Group.noteWake Group.noteWrite
  repeat' split
  all_goals rfl

theorem sameSeats_writePlace (s : State) (p : Place) (bs : List Byte) (tag : BitVec 64) (own : Option OwnAccess) :
    SameSeats s (s.writePlace p bs tag own) := by
  unfold State.writePlace
  split
  · exact .of_groups rfl
  · refine (SameSeats.of_groups (State.putPlace_groups s p bs)).trans ⟨_, rfl, fun g => ?_⟩
    exact ⟨(g.note_slot ..).1, (g.note_slot ..).2, g.note_team ..⟩

theorem sameSeats_hwWrite (s : State) (ctx va : Nat) (bs : List Byte) : SameSeats s (hwWrite s ctx va bs) := by
  refine foldl_keeps (.of_groups rfl) fun s1 p h => h.trans ?_
  unfold hwWriteAt
  repeat' split
  · exact sameSeats_writePlace ..
  all_goals exact .of_groups rfl

theorem sameSeats_writeAreaHeader (s : State) (l : Launch) (final : Nat) : SameSeats s (writeAreaHeader s l final) := by
  unfold writeAreaHeader
  split
  · exact .of_groups rfl
  · exact sameSeats_hwWrite ..

theorem sameSeats_writeRecord (s : State) (l : Launch) (r : Record) (final : Bool) : SameSeats s (writeRecord s l r final) := by
  have inPlace (m : Launch) : SameSeats s (s.setLaunch m) := .of_groups rfl
  dsimp only [writeRecord]
  refine iteInduction (motive := SameSeats s) (fun _ => ?_) fun _ => iteInduction (fun _ => ?_) fun _ => ?_
  · exact ((inPlace _).trans (sameSeats_hwWrite ..)).trans (sameSeats_writeAreaHeader ..)
  · exact ((inPlace _).trans (sameSeats_hwWrite ..)).trans (sameSeats_writeAreaHeader ..)
  · exact (inPlace _).trans (sameSeats_writeAreaHeader ..)

/-! ### The fault of a team of one group -/

/-- The only group of a team that has written its record is faulted: no member waits. -/
theorem noMember_waits {id : Nat} {g : Group} (alone : s.groups.filter (fun h => h.team == id) = [g]) (seats : SameSeats s s1) :
    ((s1.setGroup { g with wait := .faulted }).groups.filter (fun h => h.team == id && h.wait != .faulted)).length = 0 := by
  obtain ⟨f, hf, kept⟩ := seats
  rw [List.length_eq_zero_iff, List.filter_eq_nil_iff]
  intro h hm
  simp only [State.setGroup, hf, List.map_map, List.mem_map, Function.comp] at hm
  obtain ⟨h0, h0s, rfl⟩ := hm
  obtain ⟨hc, hs, ht⟩ := kept h0
  by_cases own : h0.team = id
  · have here : h0 ∈ s.groups.filter (fun h => h.team == id) := List.mem_filter.2 ⟨h0s, beq_iff_eq.2 own⟩
    rw [alone, List.mem_singleton] at here
    subst here
    simp [hc, hs]
  · split
    · simp
    · simp [ht, own]

/-- The one group of a team writes the record, and the task ends (R370). -/
theorem teamFault_alone (ht : s.team? t.id = some t) (hl : s.launch? t.launch = some l)
    (alone : s.groups.filter (fun g => g.team == t.id) = [e.g]) (he : s.env? e.g.core e.g.slot = some e) (hw : e.g.wait ≠ .faulted)
    (hm : l.lh.mode = 0) : teamFault s t.id c = some (endTask
      ((writeRecord s l (e.record (e.headTrap s c 0) false) true).setGroup { e.g with wait := .faulted }) l.id c) := by
  obtain ⟨-, team, launch⟩ := State.env?_spec he
  have member : e.g.team = t.id := by
    have : e.g ∈ s.groups.filter (fun g => g.team == t.id) := by rw [alone]; exact List.mem_singleton_self _
    exact beq_iff_eq.1 (List.mem_filter.1 this).2
  have et : e.t = t := by rw [member, ht] at team; exact (Option.some.inj team).symm
  have el : e.l = l := by rw [et, hl] at launch; exact (Option.some.inj launch).symm
  have hl' : s.launch? l.id = some l := State.launch?_id hl ▸ hl
  have written : memberRecord c (s, false) e.g
      = ((writeRecord s l (e.record (e.headTrap s c 0) false) true).setGroup { e.g with wait := .faulted }, false) := by
    simp only [memberRecord, he, hw, if_false, Bool.false_eq_true, el, choose_free hl' hm, hl', Option.getD_some]
  simp only [teamFault, ht, alone, List.foldl_cons, List.foldl_nil, written, Bool.false_eq_true, if_false,
    noMember_waits alone (sameSeats_writeRecord ..), if_true, State.launch?_id hl]

/-! ### The retirement of a team -/

theorem namedNext_free {team : Nat} (h : l.lh.mode ≠ 2) (tag : BitVec 64) : namedNext s l team tag = false := by
  rw [namedNext, beq_false_of_ne h, Bool.false_and, Bool.false_and]

/-- A team that is done and has no unread failure leaves its core (R214). -/
theorem teamRetirement_leaves (ht : s.team? s.event.num = some t) (hl : s.launch? t.launch = some l) (done : teamDone s t = true)
    (read : t.unread = []) (hm : l.lh.mode ≠ 2) : exec .teamRetirement s = .next ((leaveCore s t).mapLaunch l.id (fun m =>
      { m with retiredTime := m.retiredTime + t.watchdog.toNat, retiredTeams := m.retiredTeams + 1 })) := by
  have none : firstUnread t = none := by rw [firstUnread, read]; rfl
  have quiet : t.lateTags.any (namedNext s l t.id) = false := List.any_eq_false.2 fun tag _ => by simp [namedNext_free hm]
  rw [exec_teamRetirement, execTeamRetirement]
  simp only [ht, hl, done, retireTeam, none, quiet, Bool.not_true, Bool.false_eq_true, if_false]

end Sys2Proof.Machine
end

section
-- One proof is elaborated at a time: the check bounds the threads of the whole text.
set_option Elab.async false
/-! SUPPORT for O47: the end of a launch: its signature record and its successors (R88, R89, R312). -/

namespace Sys2Proof.Machine

variable {s : State} {l : Launch}

theorem launchDone_iff : launchDone s l = true ↔ l.unplaced = [] ∧ (∀ t ∈ s.teams, t.launch ≠ l.id) ∧ (∀ c ∈ s.commands, c.launch ≠ l.id)
    ∧ (∀ c ∈ s.cores, (∀ b ∈ c.2.bins, b.launch ≠ l.id) ∧ ∀ p ∈ c.2.spawnQueue, p.launch ≠ l.id)
    ∧ ∀ r ∈ s.requests, r.ctx ≠ l.ctx ∨ r.tcb ≠ l.tcb := by
  simp only [launchDone, Bool.and_eq_true, List.all_eq_true, bne_iff_ne, beq_iff_eq, Bool.not_eq_true', Bool.and_eq_false_iff, beq_eq_false_iff_ne,
    and_assoc]

theorem launchRetirement_retires (hl : s.launch? s.event.num = some l) (done : launchDone s l = true) :
    exec .launchRetirement s = .next (retireLaunch s l) := by
  rw [exec_launchRetirement, execLaunchRetirement]
  simp only [hl, done, if_true]

theorem leNat_leBytes (n v : Nat) : leNat (leBytes n v) = v % 256 ^ n := by
  induction n generalizing v with
  | zero => simp [leBytes, leNat, Nat.mod_one]
  | succ n ih =>
    have split : v % (256 * 256 ^ n) = v % 256 + 256 * (v / 256 % 256 ^ n) := Nat.mod_mul
    rw [leBytes, leNat, ih, BitVec.toNat_ofNat, Nat.pow_succ' (m := 256), split]

/-! ### The signature record -/

/-- The second half of the signature record (R89). -/
def signatureTail (status mode entries traced : Nat) : List Byte :=
  record 32 [(0, 1, status), (1, 1, mode), (4, 4, entries), (8, 4, traced)]

/-- A field among other bytes. -/
theorem byteField_append {pre : List Byte} {off : Nat} (h : pre.length = off) (n v : Nat) (post : List Byte) :
    byteField (pre ++ (leBytes n v ++ post)) off n = v % 256 ^ n := by
  have slice : sliceBytes (pre ++ (leBytes n v ++ post)) off n = leBytes n v := by
    subst h; simp [sliceBytes]
  rw [byteField, slice, leNat_leBytes]

section
variable (status mode entries traced : Nat)

theorem signatureTail_eq : signatureTail status mode entries traced
    = leBytes 1 status ++ (leBytes 1 mode ++ (leBytes 2 0 ++ (leBytes 4 entries ++ (leBytes 4 traced ++ leBytes 20 0)))) := by
  simp [signatureTail, record, putBytes, sliceBytes, leBytes]

theorem byteField_signatureTail : byteField (signatureTail status mode entries traced) 0 1 = status % 256
    ∧ byteField (signatureTail status mode entries traced) 1 1 = mode % 256
    ∧ byteField (signatureTail status mode entries traced) 2 2 = 0 ∧ byteField (signatureTail status mode entries traced) 4 4 = entries % 256 ^ 4
    ∧ byteField (signatureTail status mode entries traced) 8 4 = traced % 256 ^ 4
    ∧ byteField (signatureTail status mode entries traced) 12 20 = 0 := by
  rw [signatureTail_eq]
  refine ⟨byteField_append (pre := []) rfl 1 status _, byteField_append (pre := leBytes 1 status) rfl 1 mode _, ?_, ?_, ?_, ?_⟩
  · rw [← List.append_assoc]; exact byteField_append rfl 2 0 _
  · simpa only [List.append_assoc] using byteField_append (pre := leBytes 1 status ++ leBytes 1 mode ++ leBytes 2 0) (off := 4) rfl 4 entries _
  · simpa only [List.append_assoc] using
      byteField_append (pre := leBytes 1 status ++ leBytes 1 mode ++ leBytes 2 0 ++ leBytes 4 entries) (off := 8) rfl 4 traced _
  · simpa only [List.append_assoc, List.append_nil, Nat.zero_mod] using
      byteField_append (pre := leBytes 1 status ++ leBytes 1 mode ++ leBytes 2 0 ++ leBytes 4 entries ++ leBytes 4 traced) (off := 12) rfl 20 0 []

end

theorem writeSignature_eq (h : l.lh.mode ≠ 0) : writeSignature s l = hwWrite s l.ctx (signatureAt l) (signature l
    ++ signatureTail (signatureStatus l (hwRead s l.ctx (signatureAt l) 64)) l.lh.mode (signedEntries l).length l.traced) := by
  rw [writeSignature, if_neg h]; rfl

/-- A number of three bits. -/
theorem testBit_bits (a b c : Bool) :
    let n := (if a then 2 ^ 0 else 0) + (if b then 2 ^ 1 else 0) + (if c then 2 ^ 2 else 0)
    n < 8 ∧ n.testBit 0 = a ∧ n.testBit 1 = b ∧ n.testBit 2 = c := by
  revert a b c; decide

/-- The status byte of the signature record (R89, R390). -/
theorem signatureStatus_bits (present : Option (List Byte)) : signatureStatus l present < 8
    ∧ ((signatureStatus l present).testBit 0 = true ↔ l.lh.mode = 1 ∧ (l.overflowed = true ∨ l.flushed = true))
    ∧ ((signatureStatus l present).testBit 1 = true ↔ l.lh.mode = 2 ∧ ∃ e ∈ l.log, e.used = false)
    ∧ ((signatureStatus l present).testBit 2 = true ↔ l.lh.mode = 2 ∧ present.map (fun r => r.take 32) ≠ some (signature l)) := by
  obtain ⟨small, bit0, bit1, bit2⟩ := testBit_bits (l.lh.mode == 1 && (l.overflowed || l.flushed)) (l.lh.mode == 2 && l.log.any (fun e => !e.used))
    (l.lh.mode == 2 && (present.map (fun r => r.take 32)) != some (signature l))
  refine ⟨small, ?_, ?_, ?_⟩
  · rw [← Bool.or_eq_true, ← beq_iff_eq (a := l.lh.mode), ← Bool.and_eq_true, ← bit0]; rfl
  · rw [show (∃ e ∈ l.log, e.used = false) ↔ l.log.any (fun e => !e.used) = true by simp, ← beq_iff_eq (a := l.lh.mode), ← Bool.and_eq_true, ← bit1]
    rfl
  · rw [← bne_iff_ne, ← beq_iff_eq (a := l.lh.mode), ← Bool.and_eq_true, ← bit2]; rfl

/-! ### Successors (R312 step 4) -/

section
variable {ctx a : Nat} {seen : Bool} {b : List Byte}

/-- The successor is a TCB that still has a predecessor, and its count can be written. -/
def Decrements (s : State) (ctx a : Nat) (b : List Byte) : Prop :=
  byteField b 0 4 = 0x54434233 ∧ byteField b 8 4 ≠ 0 ∧ hwWritable s ctx (a + 8) 4 = true

theorem decrement_unread (h : hwRead s ctx a 12 = none) : decrement ctx (s, seen) (some a) = (s, true) := by
  simp only [decrement, h]

theorem decrement_refused (h : hwRead s ctx a 12 = some b) (no : ¬Decrements s ctx a b) : decrement ctx (s, seen) (some a) = (s, true) := by
  have bad : byteField b 0 4 ≠ tcbMagic ∨ byteField b 8 4 = 0 ∨ (!hwWritable s ctx (a + 8) 4) = true := by
    by_contra h
    simp only [not_or, ne_eq, not_not, Bool.not_eq_true', Bool.not_eq_false] at h
    exact no h
  simp only [decrement, h, if_pos bad]

theorem decrement_counts (h : hwRead s ctx a 12 = some b) (ok : Decrements s ctx a b) : decrement ctx (s, seen) (some a) =
    (if byteField b 8 4 = 1 then
      (submitTask (hwWrite s ctx (a + 8) (leBytes 4 (byteField b 8 4 - 1))) ctx (BitVec.ofNat 64 a) false).1
      else hwWrite s ctx (a + 8) (leBytes 4 (byteField b 8 4 - 1)), seen) := by
  obtain ⟨magic, some, writable⟩ := ok
  have good : ¬(byteField b 0 4 ≠ tcbMagic ∨ byteField b 8 4 = 0 ∨ (!hwWritable s ctx (a + 8) 4) = true) := by
    rw [magic, writable]; simp [some, tcbMagic]
  simp only [decrement, h, if_neg good]

end

end Sys2Proof.Machine
end

section
-- One proof is elaborated at a time: the check bounds the threads of the whole text.
set_option Elab.async false
/-! PROOF of O47: the events of teams and of the thresher. -/

namespace Sys2Proof.Machine

variable {s : State} {i : ThrInput} {t : Team} {l : Launch} {b : ThrBlock} {status word : Nat}

/-- The block of the input that the thresher takes (R278 to R280). -/
theorem thresherInputTake_block (idle : (s.coreAt s.event.core).block = none) (unresumed : (s.coreAt s.event.core).resuming = [])
    (first : (s.coreAt s.event.core).inputs.head? = some i) (runs : s.stopsTeam i.team = false) (ht : s.team? i.team = some t)
    (hl : s.launch? t.launch = some l) (hm : l.lh.mode = 0) {ix : Nat} (low : ix < 64) (free : ix ∉ t.loft.map (·.index))
    (least : ∀ j, j < ix → j ∈ t.loft.map (·.index)) (fits : inputFits s (s.coreAt s.event.core) i = true) :
    let s1 := (s.withoutInput s.event.core i).withBlockTile i l.ctx ix
    let access := checkVirtual s1 { ctx := l.ctx, launch := l.id, team := i.team, core := s.event.core } .load 16 false 16 i.word.toNat 16
    (∀ c, access = .error c → exec .thresherInputTake s = .next (endBlock s1 s.event.core (i.block ix) (sourceStatus c) 0))
    ∧ ∀ p, access = .ok p →
      let h := baleHeader (readAny s1 p 16)
      (h.formed = true ∧ h.mode = 3 → exec .thresherInputTake s
        = .next (s1.setBlock s.event.core (some { i.block ix with pc := h.param, payload := h.payload, sectors := h.sectors })))
      ∧ (¬(h.formed = true ∧ h.mode = 3) → exec .thresherInputTake s = .next (endBlock s1 s.event.core (i.block ix) 5 0)) := by
  intro s1 access
  have starts := thresherInputTake_starts idle unresumed first runs ht hl hm fits
  rw [startInput_eq (s := s.withoutInput s.event.core i) (t := t) ht hl low free least] at starts
  refine ⟨fun c hc => ?_, fun p hp => ?_⟩
  · simp only [access, s1] at hc
    simp only [starts, hc, s1]
  · simp only [access, s1] at hp
    simp only [starts, hp]
    exact ⟨fun formed => congrArg _ (if_pos formed), fun unformed => congrArg _ (if_neg unformed)⟩

end Sys2Proof.Machine

open Sys2Proof Sys2Proof.Machine

/-- Settles O47: each event by the lemma about it. -/
theorem teamAndThreadEvents : Obligations.TeamAndThreadEvents := by
  intro s core k
  refine ⟨?_, ?_, ?_, ?_, ?_, ?_, ?_, ?_, ?_⟩
  · intro b room free first
    exact binTimerExpiry_closes room free first
  · intro p rest l slot hq hl free held draining revoked fits live team group
    exact spawnedGroupStart_starts hq hl free held draining revoked fits
  · intro b idle bs hr runs
    exact thresherInputTake_resumes idle hr runs
  · intro i t l idle unresumed first runs ht hl mode
    refine ⟨inputFits_iff idle ht hl, fun ix low free least fits => ?_⟩
    exact thresherInputTake_block idle unresumed first runs ht hl mode low free least fits
  · intro b hb long
    exact thresherStepLimit_ends hb long
  · intro b status word tile emitted hstatus hword t
    exact ⟨blockEntry b status word, endBlock_eq s core b status word, blockEntry_fields tile emitted hstatus hword⟩
  · intro t l ht hl
    have own : s.team? t.id = some t := by
      have same : t.id = s.event.num := by simpa using List.find?_some ht
      rw [same]; exact ht
    refine ⟨?_, ?_, ⟨queueDeadlocked_iff, teamDone_iff⟩, ?_, ?_⟩
    · intro limit resident on late runs u hu
      exact watchdogFault_faults ht hl resident on late runs hu
    · intro dead u hu
      exact queueDeadlock_faults ht dead hu
    · intro e c alone he waits mode
      exact teamFault_alone own hl alone he waits mode
    · intro done read mode
      exact teamRetirement_leaves ht hl done read mode
  · intro l hl
    refine ⟨launchDone_iff, fun done => launchRetirement_retires hl done, fun mode => if_pos mode, ?_⟩
    intro mode traced at_ entries few
    have signed : l.lh.mode ≠ 0 ∧ l.lh.mode < 256 := by omega
    obtain ⟨small, bit0, bit1, bit2⟩ := signatureStatus_bits (l := l) (hwRead s l.ctx (signatureAt l) 64)
    obtain ⟨f0, f1, f2, f4, f8, f12⟩ := byteField_signatureTail (signatureStatus l (hwRead s l.ctx (signatureAt l) 64)) l.lh.mode
      (signedEntries l).length l.traced
    rw [Nat.mod_eq_of_lt (by omega)] at f0 f1
    rw [Nat.mod_eq_of_lt (show (signedEntries l).length < 256 ^ 4 from few)] at f4
    rw [Nat.mod_eq_of_lt (show l.traced < 256 ^ 4 from traced)] at f8
    refine ⟨_, writeSignature_eq signed.1, by rw [signatureTail_eq]; rfl, ?_⟩
    rw [f0]
    exact ⟨bit0, bit1, bit2, small, f1, f2, f4, f8, f12⟩
  · intro ctx a seen
    refine ⟨rfl, decrement_unread, fun b hb => ?_⟩
    refine ⟨decrement_refused hb, fun usable many => ?_, fun usable last => ?_⟩
    · rw [decrement_counts hb usable, if_neg many]
    · rw [decrement_counts hb usable, if_pos last]

end


section
-- One proof is elaborated at a time: the check bounds the threads of the whole text.
set_option Elab.async false
/-! SUPPORT for O23: words past an incomplete fence (R216 to R218). -/

namespace Sys2Proof.Machine

variable {s : State} {x : Issue} {w v : FenceWin} {u : Use} {body : Issue → State → Res} {g : Group} {i : Instr}

/-! ### Words that wait (R216, R218) -/

theorem issue_of_issuer (hs : s.issuer = some (x.core, x.slot)) (hx : issueOf s x.core x.slot = some x) (u : Use)
    (body : Issue → State → Res) : issue u body s = .next (issueStep u x body s) := by
  simp only [issue, hs, hx]

theorem IssuesPast.group (hi : IssuesPast s x w) : s.group? x.core x.slot = some x.e.g ∧ x.e.g.core = x.core ∧ x.e.g.slot = x.slot := by
  obtain ⟨-, -, he, -⟩ := issueOf_spec hi.issue
  have found := (State.env?_spec he).1
  exact ⟨found, State.group?_slot found⟩

theorem IssuesPast.group?_setGroup (hi : IssuesPast s x w) (hc : g.core = x.e.g.core) (hs : g.slot = x.e.g.slot) :
    (s.setGroup g).group? x.core x.slot = some g := by
  obtain ⟨found, core, slot⟩ := hi.group
  have := State.group?_setGroup (s := s) (g := g) (g0 := x.e.g) (by rw [hc, hs, core, slot]; exact found)
  rwa [hc, hs, core, slot] at this

theorem IssuesPast.fenced (hi : IssuesPast s x w) : x.e.g.fenced = true := by simp [Group.fenced, hi.fence]

/-- A fault of a word past a fence is held back (R218). -/
theorem raise_past (h : x.e.g.fenced = true) (s t : State) (f : LaneFault) : raise x s t f = stallState s := by
  simp only [raise, h, if_true]

/-- A body's answer after which a word past a fence waits: it cannot issue, or it would fault. -/
inductive Res.Waits (x : Issue) : Res → Prop where
  | stall : Waits x .stall
  | fault (f : LaneFault) : Waits x (.fault f)
  | done (d : Done) (k : Group) (there : d.s.group? x.core x.slot = some k) (closes : d.stay = false) (faults : d.fault ≠ none) : Waits x (.done d)

theorem afterBody_waits {r : Res} (h : x.e.g.fenced = true) (hr : r.Waits x) (u : Use) (s : State) : afterBody u x s r = stallState s := by
  cases hr with
  | stall => rfl
  | fault f => exact raise_past h s s f
  | done d k there closes faults =>
    obtain ⟨f, hf⟩ := Option.ne_none_iff_exists'.1 faults
    simp only [afterBody, finish, there, closes, hf, raise_past h, Bool.false_eq_true, if_false]

/-- A word past a fence waits where its body cannot issue or would fault. -/
theorem issue_waits (hi : IssuesPast s x w) (u : Use) (hb : (body x s).Waits x) : issue u body s = .next (stallState s) := by
  rw [issue_of_issuer hi.issuer hi.issue]
  rcases issueStep_cases u x body s with ⟨c, -, h⟩ | h | ⟨-, h⟩ | h
  · rw [h, raise_past hi.fenced]
  · rw [h]
  · rw [h, raise_past hi.fenced]
  · rw [h, afterBody_waits hi.fenced hb]

/-- A word of the stall list of R216 waits. -/
theorem issue_listed (hi : IssuesPast s x w) (hu : u.fence = .stall) (body : Issue → State → Res) :
    issue u body s = .next (stallState s) := by
  rw [issue_of_issuer hi.issuer hi.issue, issueStep]
  have listed : fenceStall u x = true := by simp [fenceStall, hi.fence, hu]
  split
  · rw [raise_past hi.fenced]
  · rw [if_pos (by rw [listed, Bool.or_true])]

/-! ### Words that issue (R216) -/

theorem issueStep_past (hi : IssuesPast s x w) (passes : decodeFault u x = none ∧ u.tokens x = [])
    (free : u.paths = 0 ∧ (u.fence == .stall) = false) :
    issueStep u x body s = afterBody u x s (body x s) := by
  obtain ⟨issued, rollbacks⟩ := hi.room
  have clear : fenceStall u x = false := by
    simp [fenceStall, hi.soft, hi.fence, hi.open_, free.1, free.2, Nat.not_le.2 issued, Nat.not_le.2 rollbacks]
  have sound : readsBad u x = false := by simp [readsBad, hi.bad]
  simp [issueStep, passes.1, passes.2, clear, sound]

/-- The group g past a fence whose window is v after one word more. -/
def Group.counted (g : Group) (w v : FenceWin) : Group := { g with fence := some { v with issued := w.issued + 1 } }

theorem finish_past {t : State} (hi : IssuesPast s x w) (passes : decodeFault u x = none ∧ u.tokens x = []) (hr : u.rounds = false)
    (there : t.group? x.core x.slot = some g) (heldFlags : g.heldFlags = x.e.g.heldFlags) (bad : g.bad = x.e.g.bad)
    (hv : g.fence = some v) (issued : v.issued = w.issued) : finish u x s { s := t } = x.closes s t (g.counted w v) x.onward := by
  have whole : g.tokens.filter (fun _ => true) = g.tokens := List.filter_eq_self.2 fun _ _ => rfl
  simp only [finish, there, passes.2, List.flatMap_nil, List.append_nil, List.filterMap_nil, List.map_nil,
    arithmeticTrap_none (fun _ h => absurd h List.not_mem_nil), Option.map_none, Option.toList_none, Bool.false_eq_true, if_false,
    List.any_nil, Bool.not_false, whole, Group.mend_none g _ (bad.trans hi.bad), hr, Bool.or_false]
  rw [Group.marker_eq _ _ _ _ _ (by
    simp only [Group.retireWord, hi.fence, Option.isSome_some, if_true, Group.countWord, hv, heldFlags]; exact hi.held)]
  simp only [Group.retireWord, hi.fence, Option.isSome_some, if_true, Group.countWord, hv, Issue.closes, Issue.onward, State.marked,
    Arch.advance, Arch.frontierAfter, Arch.fallThrough, Group.counted, issued, Arch.orFlags_nil]
  rfl

/-- A word past a fence whose body puts the group g with the window v into the slot completes with them and is counted. -/
theorem past_completes (hi : IssuesPast s x w) (hx : exec i s = issue u body s) (passes : decodeFault u x = none ∧ u.tokens x = [])
    (free : u.paths = 0 ∧ (u.fence == .stall) = false) (hr : u.rounds = false) (hb : body x s = .done { s := s.setGroup g })
    (kept : x.e.g.Retains g) (hv : g.fence = some v) (issued : v.issued = w.issued) : CompletesGroup i s x (g.counted w v) := by
  obtain ⟨core, slot, heldFlags, bad⟩ := kept
  have closed := finish_past hi passes hr (hi.group?_setGroup core slot) heldFlags bad hv issued
  rw [CompletesGroup, hx, issue_of_issuer hi.issuer hi.issue, issueStep_past hi passes free, hb]
  exact congrArg _ (closed.trans (Issue.closes_setGroup _ _ _ _ rfl rfl))

/-- A word past a fence that has no effect completes and is counted. -/
theorem past_idles (hi : IssuesPast s x w) (hx : exec i s = issue u body s) (passes : decodeFault u x = none ∧ u.tokens x = [])
    (free : u.paths = 0 ∧ (u.fence == .stall) = false) (hr : u.rounds = false) (hb : body x s = .done { s := s }) :
    CompletesGroup i s x (x.e.g.counted w w) := by
  rw [CompletesGroup, hx, issue_of_issuer hi.issuer hi.issue, issueStep_past hi passes free, hb]
  exact congrArg _ (finish_past hi passes hr hi.group.1 rfl rfl hi.fence rfl)

/-! ### What held accesses give to a read (R216) -/

theorem forwarded_concat (held : List HeldAccess) (h : HeldAccess) (p : Place) :
    forwarded (held ++ [h]) p = ((h.byteAt p).map fun b => (held.length, b)).or (forwarded held p) := by
  rw [forwarded, List.length_append, List.length_singleton, List.range_succ, List.zip_append (by simp), List.filterMap_append,
    List.getLast?_append]
  cases hb : h.byteAt p with
  | none => simp [hb, forwarded]
  | some b => simp [hb]

/-- The last held store of a byte is the one that gives it. -/
theorem forwarded_iff (held : List HeldAccess) (p : Place) (k : Nat) (b : Byte) : forwarded held p = some (k, b) ↔
    (∃ h, held[k]? = some h ∧ h.byteAt p = some b) ∧ ∀ j h, k < j → held[j]? = some h → h.byteAt p = none := by
  induction held using List.reverseRecOn with
  | nil => simp [forwarded]
  | append_singleton held last ih =>
    have old {j : Nat} (hj : j < held.length) : (held ++ [last])[j]? = held[j]? := List.getElem?_append_left hj
    have new : (held ++ [last])[held.length]? = some last := by simp
    have past {j : Nat} (hj : held.length < j) : (held ++ [last])[j]? = none := List.getElem?_eq_none (by simp; omega)
    rw [forwarded_concat]
    cases hb : last.byteAt p with
    | some c =>
      simp only [Option.map_some, Option.some_or, Option.some.injEq, Prod.mk.injEq]
      constructor
      · rintro ⟨rfl, rfl⟩
        exact ⟨⟨last, new, hb⟩, fun j h hj hh => by rw [past hj] at hh; cases hh⟩
      · rintro ⟨⟨h, hk, hbyte⟩, later⟩
        rcases Nat.lt_trichotomy k held.length with hlt | rfl | hgt
        · have := later _ last hlt new
          rw [hb] at this; cases this
        · rw [new] at hk; cases hk
          rw [hb] at hbyte; cases hbyte
          exact ⟨rfl, rfl⟩
        · rw [past hgt] at hk; cases hk
    | none =>
      simp only [Option.map_none, Option.none_or, ih]
      have bound {j : Nat} {h : HeldAccess} (hj : (held ++ [last])[j]? = some h) (hne : h.byteAt p ≠ none) : held[j]? = some h := by
        rcases Nat.lt_trichotomy j held.length with hlt | rfl | hgt
        · rw [← old hlt]; exact hj
        · rw [new] at hj; cases hj; exact absurd hb hne
        · rw [past hgt] at hj; cases hj
      have keeps {j : Nat} {h : HeldAccess} (hj : held[j]? = some h) : (held ++ [last])[j]? = some h := by
        rw [old (List.getElem?_eq_some_iff.1 hj).1]; exact hj
      constructor
      · rintro ⟨⟨h, hk, hbyte⟩, later⟩
        refine ⟨⟨h, keeps hk, hbyte⟩, fun j h' hj hh => ?_⟩
        by_contra hne
        exact hne (later j h' hj (bound hh hne))
      · rintro ⟨⟨h, hk, hbyte⟩, later⟩
        exact ⟨⟨h, bound hk (by rw [hbyte]; exact Option.some_ne_none _), hbyte⟩, fun j h' hj hh => later j h' hj (keeps hh)⟩

end Sys2Proof.Machine
end

section
-- One proof is elaborated at a time: the check bounds the threads of the whole text.
set_option Elab.async false
/-! SUPPORT for O23: loads, stores and ATOM past an incomplete fence (R216, R217, R228, R231). -/

namespace Sys2Proof.Machine

variable {s : State} {x : Issue} {w : FenceWin} {u : Use} {i : Instr} {g : Group} {α : Type}

/-! ### Reads -/

/-- The bytes of held stores that a read of n bytes at p meets, each with its position (R216). -/
def FenceWin.reached (w : FenceWin) (p : Place) (n : Nat) : List (Option (Nat × Byte)) :=
  (List.range n).map fun k => forwarded w.held (p.add k)

/-- What a read of n bytes at p gives past the fence (R216). -/
def FenceWin.bytes (w : FenceWin) (s : State) (p : Place) (n : Nat) : List Byte :=
  ((readAny s p n).zip (w.reached p n)).map fun y => match y.2 with
    | some (_, b) => b
    | none => y.1

/-- The units that a read by lane l of n bytes at p watches (R217). -/
def FenceWin.watches (w : FenceWin) (l : Nat) (p : Place) (n : Nat) : List Watch :=
  (unitsOf p n).map fun c =>
    { unit := c, lane := l, forwarded := ((w.reached p n).filterMap (fun f => f.map (·.1))).eraseDups, behind := w.held.length }

/-- The window with more watched units. -/
def FenceWin.watching (w : FenceWin) (ws : List Watch) : FenceWin := { w with watched := (w.watched ++ ws).eraseDups }

theorem Group.readLane_past (h : g.fence = some w) (s : State) (l : Nat) (p : Place) (n : Nat) :
    g.readLane s l p n = (w.bytes s p n, w.watches l p n) := by
  rw [Group.readLane, h]; rfl

/-- The group with more units watched in the window w. -/
def Group.watching (g : Group) (w : FenceWin) (ws : List Watch) : Group := { g with fence := some (w.watching ws) }

theorem Group.watch_past (h : g.fence = some w) (ws : List Watch) : g.watch ws = g.watching w ws := by
  rw [Group.watch, h]; rfl

/-- The group after a word that reads past the fence, as the word leaves it. -/
theorem Group.counted_addResult_watching (g : Group) (w v : FenceWin) (ws : List Watch) (r : VarResult) (rs : List RegRef) :
    ((g.watching w ws).addResult r rs).counted w v = (g.addResult r rs).counted w v := rfl

theorem Group.Retains.watching {h : Group} (k : h.Retains g) (ws : List Watch) : h.Retains (g.watching w ws) :=
  ⟨k.core, k.slot, k.heldFlags, k.bad⟩

/-! ### Held accesses -/

/-- The group with more accesses held in the window w. -/
def Group.holding (g : Group) (w : FenceWin) (hs : List HeldAccess) : Group := { g with fence := some { w with held := w.held ++ hs } }

theorem Group.holding_nil (h : g.fence = some w) : g.holding w [] = g := by
  obtain ⟨core, slot, team, index, live, ids, hc, sn, arch, accs, matrix, tokens, reds, batch, outs, held, wait, ww, after,
    fence, soft, handler, xset, ls, pref, req, rc, bad, begun⟩ := g
  cases h
  simp only [Group.holding, List.append_nil]

theorem Group.hold_holding (g : Group) (w : FenceWin) (hs : List HeldAccess) (h : HeldAccess) :
    (g.holding w hs).hold h = g.holding w (hs ++ [h]) := by simp only [Group.hold, Group.holding, List.append_assoc]

theorem Group.counted_holding (g : Group) (w v : FenceWin) (hs : List HeldAccess) : (g.holding w hs).counted w v = g.counted w v := rfl

theorem Group.counted_addResult_holding (g : Group) (w v : FenceWin) (hs : List HeldAccess) (r : VarResult) (rs : List RegRef) :
    ((g.holding w hs).addResult r rs).counted w v = (g.addResult r rs).counted w v := rfl

theorem Group.Retains.holding {h : Group} (k : h.Retains g) (hs : List HeldAccess) : h.Retains (g.holding w hs) :=
  ⟨k.core, k.slot, k.heldFlags, k.bad⟩

theorem Group.Retains.addResult {h : Group} (k : h.Retains g) (r : VarResult) (rs : List RegRef) : h.Retains (g.addResult r rs) :=
  ⟨k.core, k.slot, k.heldFlags, k.bad⟩

theorem Group.retains_bump (g : Group) : g.Retains g.bump := ⟨rfl, rfl, rfl, rfl⟩

/-- What the window holds of a store by lane l: nothing of one to a generator window (R198, R216). -/
def heldStore (l : Nat) (tag : BitVec 64) (p : Place) (bs : List Byte) : List HeldAccess :=
  match p with
  | .window _ _ _ => []
  | q => [.store q l bs tag]

/-- A store past a fence is held (R216). -/
theorem storeLane_past (hi : IssuesPast s x w) (kept : x.e.g.Retains g) (hs : List HeldAccess) (l : Nat) (tag : BitVec 64) (p : Place)
    (bs : List Byte) : storeLane (s.setGroup (g.holding w hs)) x.core x.slot l tag p bs
      = s.setGroup (g.holding w (hs ++ heldStore l tag p bs)) := by
  have found : (s.setGroup (g.holding w hs)).group? x.core x.slot = some (g.holding w hs) := hi.group?_setGroup kept.core kept.slot
  have inSlot (h : HeldAccess) : (s.setGroup (g.holding w hs)).mapGroup x.core x.slot (fun k => k.hold h)
      = s.setGroup (g.holding w (hs ++ [h])) := by
    rw [State.mapGroup_eq found, Group.hold_holding]
    exact State.setGroup_setGroup _ _ _ rfl rfl
  unfold storeLane
  rw [found]
  simp only [Option.bind_some, Group.holding, heldStore]
  cases p with
  | window => simp
  | _ => exact inSlot _

/-- A run whose every turn holds more holds all of it. -/
theorem foldl_holding {step : State → α → State} {adds : α → List HeldAccess}
    (h : ∀ hs a, step (s.setGroup (g.holding w hs)) a = s.setGroup (g.holding w (hs ++ adds a))) (as : List α) (hs : List HeldAccess) :
    as.foldl step (s.setGroup (g.holding w hs)) = s.setGroup (g.holding w (hs ++ as.flatMap adds)) := by
  induction as generalizing hs with
  | nil => simp
  | cons a as ih => rw [List.foldl_cons, h, ih, List.flatMap_cons, List.append_assoc]

theorem IssuesPast.holding_nil (hi : IssuesPast s x w) : s.setGroup x.e.g.bump = s.setGroup (x.e.g.bump.holding w []) := by
  rw [Group.holding_nil (g := x.e.g.bump) hi.fence]

/-- The group with more held accesses, as its word leaves it. -/
theorem held_completes {body : Issue → State → Res} {hs : List HeldAccess} (hi : IssuesPast s x w) (hx : exec i s = issue u body s)
    (passes : decodeFault u x = none ∧ u.tokens x = []) (free : u.paths = 0 ∧ (u.fence == .stall) = false) (hr : u.rounds = false)
    (hb : body x s = .done { s := s.setGroup (x.e.g.bump.holding w hs) }) :
    CompletesGroup i s x (x.e.g.bump.counted w { w with held := w.held ++ hs }) := by
  rw [← Group.counted_holding (hs := hs)]
  exact past_completes hi hx passes free hr hb (x.e.g.retains_bump.holding hs) rfl rfl

/-- The group with a result to come and more watched units, as its word leaves it. -/
theorem read_completes {body : Issue → State → Res} {ws : List Watch} {r : VarResult} {rs : List RegRef} (hi : IssuesPast s x w)
    (hx : exec i s = issue u body s) (passes : decodeFault u x = none ∧ u.tokens x = [])
    (free : u.paths = 0 ∧ (u.fence == .stall) = false) (hr : u.rounds = false)
    (hb : body x s = .done { s := s.setGroup ((x.e.g.bump.watching w ws).addResult r rs) }) :
    CompletesGroup i s x ((x.e.g.bump.addResult r rs).counted w (w.watching ws)) := by
  rw [← Group.counted_addResult_watching (ws := ws)]
  exact past_completes hi hx passes free hr hb ((x.e.g.retains_bump.watching ws).addResult r rs) rfl rfl

/-! ### Lanes that fail (R227) -/

theorem checkPoison_class {k : AccessKind} {n c : Nat} {r : Except Nat Place} (h : checkPoison s k n r = .error c)
    (hr : ∀ c, r = .error c → c = 4 ∨ c = 5 ∨ c = 6) : c = 17 ∨ c = 4 ∨ c = 6 ∨ c = 5 := by
  cases r with
  | error c' =>
    cases h
    rcases hr c rfl with rfl | rfl | rfl <;> decide
  | ok p =>
    simp only [checkPoison] at h
    split at h
    · cases h; exact .inl rfl
    · cases h

theorem locateVirtual_class {a : Accessor} {k : AccessKind} {op align va c : Nat} {waits : Bool}
    (h : locateVirtual s a k op waits align va = .error c) : c = 4 ∨ c = 5 ∨ c = 6 := by
  revert c
  dsimp only [locateVirtual]
  repeat' split
  all_goals rintro c ⟨⟩
  all_goals decide

theorem locateHandle_class {a : Accessor} {align handle n c : Nat} {o : Int} (h : locateHandle s a align handle o n = .error c) :
    c = 4 ∨ c = 5 ∨ c = 6 := by
  revert c
  dsimp only [locateHandle]
  repeat' split
  all_goals rintro c ⟨⟩
  all_goals decide

theorem checkLane_class {k : AccessKind} {op n c : Nat} {waits : Bool} {a : LaneAddr} (h : checkLane s x k op waits n a = .error c) :
    c = 17 ∨ c = 4 ∨ c = 6 ∨ c = 5 := by
  cases a with
  | va a => exact checkPoison_class h fun _ => locateVirtual_class
  | handle h' o => exact checkPoison_class h fun _ => locateHandle_class

/-- Some active lane fails a check. -/
def Issue.Fails (x : Issue) (s : State) (k : AccessKind) (op n : Nat) (addr : Nat → LaneAddr) : Prop :=
  ∃ l c, l < 64 ∧ x.active.getLsbD l = true ∧ checkLane s x k op false n (addr l) = .error c

theorem Issue.Fails.fault {k : AccessKind} {op n : Nat} {addr : Nat → LaneAddr} (h : x.Fails s k op n addr) :
    (checkLanes s x k op false n addr).fault ≠ none := by
  obtain ⟨l, c, low, active, error⟩ := h
  have lane : l ∈ laneList x.active := by simp [laneList, lanes, low, active]
  have failed : (l, c, (addr l).coded) ∈ x.failures s k op n addr := List.mem_filterMap.2 ⟨l, lane, by rw [error]⟩
  have listed : ([17, 4, 6, 5].find? fun c => (x.failures s k op n addr).any (fun f => f.2.1 == c)) ≠ none := by
    rw [ne_eq, List.find?_eq_none, not_forall]
    refine ⟨c, fun h => h ?_ (List.any_eq_true.2 ⟨_, failed, beq_self_eq_true c⟩)⟩
    simpa using checkLane_class error
  obtain ⟨c', first⟩ := Option.ne_none_iff_exists'.1 listed
  rw [checkLanes_eq, LaneChecks.fault, lanesFault_eq first]
  exact Option.some_ne_none _

/-! ### Loads and stores (R228) -/

section Accesses

variable {d : BitVec 8} {z : BitVec 2} {illegal bad : Bool} {reads : List RegRef} {addr : Issue → Nat → LaneAddr} {place : Nat → Place}

/-- What a load past the fence w brings to the lanes that pass. -/
def FenceWin.loadResult (w : FenceWin) (s : State) (d : BitVec 8) (z : BitVec 2) (good : List (Nat × Place)) : VarResult :=
  { v := good.flatMap fun p => observedCells d.toNat p.1 (2 ^ z.toNat) (BitVec.ofNat 64 (leNat (w.bytes s p.2 (2 ^ z.toNat))))
    spec := true }

/-- What the lanes that pass a load watch. -/
def FenceWin.loadWatches (w : FenceWin) (z : BitVec 2) (good : List (Nat × Place)) : List Watch :=
  good.flatMap fun p => w.watches p.1 p.2 (2 ^ z.toNat)

theorem loadBody_past (hi : IssuesPast s x w) {c : LaneChecks} (hc : checkLanes s x .load 16 false (2 ^ z.toNat) (addr x) = c) :
    loadBody d z addr x s = .done { s := s.setGroup ((x.e.g.bump.watching w (w.loadWatches z c.good)).addResult
      (w.loadResult s d z c.good) (dataRegs d z)), fault := c.fault } := by
  have watched (ws : List Watch) : x.e.g.bump.watch ws = x.e.g.bump.watching w ws := Group.watch_past (g := x.e.g.bump) hi.fence ws
  simp only [loadBody, sizeBytes, hc, watched, Group.readLane_past hi.fence, List.flatMap_map, hi.fence, Option.isSome_some]
  rfl

/-- The value that lane l stores (R228). -/
def Issue.storedBytes (x : Issue) (d : BitVec 8) (z : BitVec 2) (l : Nat) : List Byte :=
  leBytes (2 ^ z.toNat) (if z = 3 then (x.arch.getV64 d.toNat l).toNat else (x.arch.getV d.toNat l).toNat)

/-- What the window holds of the stores of the lanes that pass. -/
def Issue.heldStores (x : Issue) (d : BitVec 8) (z : BitVec 2) (good : List (Nat × Place)) : List HeldAccess :=
  good.flatMap fun p => heldStore p.1 x.tag p.2 (x.storedBytes d z p.1)

theorem storeBody_past (hi : IssuesPast s x w) {c : LaneChecks} (hc : checkLanes s x .store 16 false (2 ^ z.toNat) (addr x) = c) :
    storeBody d z addr x s = .done { s := s.setGroup (x.e.g.bump.holding w (x.heldStores d z c.good)), fault := c.fault } := by
  have all := foldl_holding (step := fun t p => storeLane t x.core x.slot p.1 x.tag p.2 (x.storedBytes d z p.1)) (w := w)
    (fun hs p => storeLane_past hi x.e.g.retains_bump hs p.1 x.tag p.2 (x.storedBytes d z p.1)) c.good []
  rw [← hi.holding_nil, List.nil_append] at all
  simp only [storeBody, sizeBytes, hc]
  exact congrArg (fun t => Res.done { s := t, fault := c.fault }) all

section

variable (hi : IssuesPast s x w) (hh : Hinted x (some 0xFFFFF) false false false) (hd : Usable x (dataRegs d z))
  (hodd : oddData d z = false) (hr : Usable x reads) (hill : illegal = false) (hbad : bad = false)
include hi hh hd hodd hr hill hbad

theorem load_past (hx : exec i s = issue (loadUse d z illegal bad reads) (loadBody d z addr) s) :
    (Reaches s x .load 16 false (2 ^ z.toNat) (addr x) place → CompletesGroup i s x
      ((x.e.g.bump.addResult (w.loadResult s d z (x.placed place)) (dataRegs d z)).counted w (w.watching (w.loadWatches z (x.placed place)))))
    ∧ (x.Fails s .load 16 (2 ^ z.toNat) (addr x) → exec i s = .next (stallState s)) := by
  refine ⟨fun reaches => ?_, fun fails => ?_⟩
  · have passes := passes_decoder (u := loadUse d z illegal bad reads) (hr.append hd) hh ⟨rfl, rfl, rfl, rfl, rfl⟩ ⟨hill, rfl, rfl, rfl⟩
      ⟨by simp [loadUse, hbad, hodd], rfl⟩ (by simp [Use.regs, loadUse])
    have loads := loadBody_past (d := d) hi (checkLanes_reaches reaches)
    have passed : LaneChecks.fault ⟨x.placed place, []⟩ = none := rfl
    rw [passed] at loads
    exact read_completes hi hx passes ⟨rfl, rfl⟩ rfl loads
  · rw [hx]
    refine issue_waits hi _ ?_
    rw [loadBody_past hi rfl]
    exact .done _ _ (hi.group?_setGroup rfl rfl) rfl fails.fault

theorem store_past (hx : exec i s = issue (storeUse d z illegal bad reads) (storeBody d z addr) s) :
    (Reaches s x .store 16 false (2 ^ z.toNat) (addr x) place → CompletesGroup i s x
      (x.e.g.bump.counted w { w with held := w.held ++ x.heldStores d z (x.placed place) }))
    ∧ (x.Fails s .store 16 (2 ^ z.toNat) (addr x) → exec i s = .next (stallState s)) := by
  refine ⟨fun reaches => ?_, fun fails => ?_⟩
  · have passes := passes_decoder (u := storeUse d z illegal bad reads) (hr.append hd) hh ⟨rfl, rfl, rfl, rfl, rfl⟩ ⟨hill, rfl, rfl, rfl⟩
      ⟨by simp [storeUse, hbad, hodd], rfl⟩ (by simp [Use.regs, storeUse])
    exact held_completes hi hx passes ⟨rfl, rfl⟩ rfl (storeBody_past hi (checkLanes_reaches reaches))
  · rw [hx]
    refine issue_waits hi _ ?_
    rw [storeBody_past hi rfl]
    exact .done _ _ (hi.group?_setGroup rfl rfl) rfl fails.fault

end

end Accesses

/-! ### ATOM (R231) -/

section Atoms

variable {d a : BitVec 8} {o : BitVec 4} {t : BitVec 2} {place : Nat → Place}

theorem foldl_hold_atoms (n : Nat) (tag : BitVec 64) (rs : List (Place × Rmw)) (hs : List HeldAccess) :
    rs.foldl (fun k r => k.hold (.atom r.1 r.2 n tag)) (g.holding w hs) = g.holding w (hs ++ rs.map fun r => .atom r.1 r.2 n tag) := by
  induction rs generalizing hs with
  | nil => simp
  | cons r rs ih =>
    rw [List.foldl_cons, Group.hold_holding, ih, List.map_cons, List.append_assoc, List.singleton_append]

/-- The decoder's view of an ATOM. -/
def atomUse (d a : BitVec 8) (o : BitVec 4) (t : BitVec 2) : Use :=
  { limm := true, illegal := atomIllegal o t, badReg := atomPairBad a || atomDataBad d o t, reads := vPair a ++ atomData d o t,
    writes := atomDest d t, fence := .hold }

theorem atom_past (hi : IssuesPast s x w) (hh : Hinted x (some 0xFFFFF) false false false) (hill : atomIllegal o t = false)
    (hpair : atomPairBad a = false) (hdata : atomDataBad d o t = false) (hr : Usable x (vPair a ++ atomData d o t ++ atomDest d t))
    (room : (x.e.g.outstanding.filter (·.atom)).length < 8)
    (h : Reaches s x .atomic o.toNat false (atomBytes t) (atomAddr a t x) place) :
    CompletesGroup (.atom d a o t) s x ((x.e.g.bump.addResult { held := true, spec := true, atom := true } (atomDest d t)).counted w
      { w with held := w.held ++ (x.operands d o t place).map fun r => .atom r.1 r.2 d.toNat x.tag }) := by
  have fence : x.e.g.fence.isSome = true := by rw [hi.fence]; rfl
  have operands : (x.placed place).map (fun p => (p.2, atomOperands x.arch d o t p.1)) = x.operands d o t place := List.map_map
  have holds := foldl_hold_atoms (g := x.e.g.bump) (w := w) d.toNat x.tag (x.operands d o t place) []
  rw [Group.holding_nil (g := x.e.g.bump) hi.fence, List.nil_append] at holds
  have passes := passes_decoder (u := atomUse d a o t) hr hh ⟨rfl, rfl, rfl, rfl, rfl⟩ ⟨hill, rfl, rfl, rfl⟩
    ⟨by simp [atomUse, hpair, hdata], rfl⟩ (by simp [atomUse, Use.regs])
  rw [← Group.counted_addResult_holding (hs := (x.operands d o t place).map fun r => .atom r.1 r.2 d.toNat x.tag)]
  refine past_completes hi (exec_atom d a o t s) passes ⟨rfl, rfl⟩ rfl ?_ ((x.e.g.retains_bump.holding _).addResult _ _) rfl rfl
  simp only [if_neg (Nat.not_le.2 room), if_pos fence, checkLanes_reaches h, operands, holds]
  rfl

end Atoms

end Sys2Proof.Machine
end

section
-- One proof is elaborated at a time: the check bounds the threads of the whole text.
set_option Elab.async false
/-! SUPPORT for O23: TLD, TST, VSPL and VFIL past an incomplete fence (R185, R216, R217, R245, R246). -/

namespace Sys2Proof.Machine

variable {s : State} {x : Issue} {w : FenceWin} {g : Group} {α : Type}

/-! ### TLD -/

/-- A run that collects bytes, watched units and poison. -/
theorem foldl_collects_row {step : List Byte × List Watch × Bool → α → List Byte × List Watch × Bool} {bytes : α → List Byte}
    {watches : α → List Watch} {bad : α → Bool} (h : ∀ acc c, step acc c = (acc.1 ++ bytes c, acc.2.1 ++ watches c, acc.2.2 || bad c))
    (cs : List α) (acc : List Byte × List Watch × Bool) :
    cs.foldl step acc = (acc.1 ++ cs.flatMap bytes, acc.2.1 ++ cs.flatMap watches, acc.2.2 || cs.any bad) := by
  induction cs generalizing acc with
  | nil => simp
  | cons c cs ih => simp [ih, h, Bool.or_assoc]

/-- What f gives for the chunks of row r of a scratch operand that have a place (R162). -/
def Issue.rowGives (x : Issue) (s : State) (desc : BitVec 64) (st r : Nat) (f : Place → Nat → List α) : List α :=
  (rowChunks desc 1 st r 32).flatMap fun c => ((x.chunkPlace s desc c).map fun p => f p c.2).getD []

/-- Some byte of row r is poisoned. -/
def Issue.rowPoisoned (x : Issue) (s : State) (desc : BitVec 64) (st r : Nat) : Bool :=
  (rowChunks desc 1 st r 32).any fun c => ((x.chunkPlace s desc c).map fun p => s.poisonedPlace p c.2).getD false

section

variable {desc : BitVec 64} {st n : Nat}

/-- A row past a fence: the bytes of held stores before memory's, the units that it watches, and the poison of memory (R216). -/
theorem Issue.tileRow_past (hf : x.e.g.fence = some w) (r : Nat) : x.tileRow s desc st r =
    (x.rowGives s desc st r (w.bytes s), x.rowGives s desc st r (w.watches r), x.rowPoisoned s desc st r) := by
  unfold Issue.tileRow
  rw [foldl_collects_row (bytes := fun c => ((x.chunkPlace s desc c).map fun p => w.bytes s p c.2).getD [])
    (watches := fun c => ((x.chunkPlace s desc c).map fun p => w.watches r p c.2).getD [])
    (bad := fun c => ((x.chunkPlace s desc c).map fun p => s.poisonedPlace p c.2).getD false) fun acc c => ?_]
  · rfl
  · cases x.chunkPlace s desc c with
    | none => simp
    | some p => simp only [Group.readLane_past hf, Option.map_some, Option.getD_some]

/-- What a TLD past the fence w brings to the tile register n. -/
def Issue.tileResult (x : Issue) (s : State) (w : FenceWin) (desc : BitVec 64) (st n : Nat) : VarResult :=
  { t := (laneList x.active).flatMap fun r => rowCells n r (x.rowGives s desc st r (w.bytes s))
    tile := some (n, (laneList x.active).any (x.rowPoisoned s desc st), x.active == BitVec.allOnes 64)
    spec := true }

/-- What a TLD past the fence w watches. -/
def Issue.tileWatches (x : Issue) (s : State) (w : FenceWin) (desc : BitVec 64) (st : Nat) : List Watch :=
  (laneList x.active).flatMap fun r => x.rowGives s desc st r (w.watches r)

theorem Issue.tileLoaded_past (hf : x.e.g.fence = some w) : x.tileLoaded s desc st n
    = (x.e.g.bump.watching w (x.tileWatches s w desc st)).addResult (x.tileResult s w desc st n) [.t n] := by
  have watched (ws : List Watch) : x.e.g.bump.watch ws = x.e.g.bump.watching w ws := Group.watch_past (g := x.e.g.bump) hf ws
  simp only [Issue.tileLoaded, Issue.tileRow_past hf, watched, hf, List.flatMap_map, List.any_map]
  rfl

end

section Tiles

variable {n d st : BitVec 6}

/-- The decoder's view of a TLD. -/
def tldUse (n d : BitVec 6) : Use := { illegal := notTile n || xIsTile d, reads := xReads d, writes := [.t n.toNat], fence := .read }

/-- The decoder's view of a TST. -/
def tstUse (n d : BitVec 6) : Use := { illegal := notTile n || xIsTile d, reads := xReads d ++ [.t n.toNat], fence := .hold }

/-- The descriptor that a TLD or a TST names. -/
def Issue.tileDesc (x : Issue) (d : BitVec 6) : BitVec 64 := x.arch.getS64 (2 * (d.toNat % 32))

/-- The check of the rows of a TLD or a TST. -/
def Issue.tileCheck (x : Issue) (s : State) (d st : BitVec 6) : Option LaneFault :=
  checkDesc s x.e.accessor (x.tileDesc d) 1 32 [st.toNat] (laneList x.active)

theorem tld_past (hi : IssuesPast s x w) (hh : Hinted x none false false false) (ht : n.toNat < 8) (hd : xIsTile d = false)
    (hr : Usable x (xReads d ++ [.t n.toNat])) (idle : x.e.g.usesTile n.toNat = false) (check : x.tileCheck s d st = none) :
    CompletesGroup (.tld n d st) s x ((x.e.g.bump.addResult (x.tileResult s w (x.tileDesc d) st.toNat n.toNat) [.t n.toNat]).counted w
      (w.watching (x.tileWatches s w (x.tileDesc d) st.toNat))) := by
  have passes := passes_checks (u := tldUse n d) hr hh (limm_none _) ⟨tileAccess_legal ht hd, rfl⟩ ⟨rfl, rfl⟩ ⟨rfl, rfl⟩
    (by simp [tldUse, Use.regs])
  refine read_completes hi (exec_tld n d st s) passes ⟨rfl, rfl⟩ rfl ?_
  have found : checkDesc s x.e.accessor (x.arch.getS64 (2 * (d.toNat % 32))) 1 32 [st.toNat] (laneList x.active) = none := check
  rw [← Issue.tileLoaded_past hi.fence]
  simp only [idle, found, Bool.false_eq_true, if_false]
  rfl

theorem tld_refused (hi : IssuesPast s x w) (check : x.tileCheck s d st ≠ none) : exec (.tld n d st) s = .next (stallState s) := by
  obtain ⟨f, hf⟩ := Option.ne_none_iff_exists'.1 check
  have found : checkDesc s x.e.accessor (x.arch.getS64 (2 * (d.toNat % 32))) 1 32 [st.toNat] (laneList x.active) = some f := hf
  rw [exec_tld, execTld]
  refine issue_waits hi _ ?_
  simp only [found]
  split
  · exact .stall
  · exact .fault f

/-! ### TST -/

/-- What the window holds of the store of row r of tile register n. -/
def Issue.heldRow (x : Issue) (s : State) (desc : BitVec 64) (st n r : Nat) : List HeldAccess :=
  ((rowChunks desc 1 st r 32).zip (List.range 2)).flatMap fun c =>
    ((x.chunkPlace s desc c.1).map fun p => heldStore r x.tag p (sliceBytes (x.arch.tRow n r) (16 * c.2) 16)).getD []

/-- Chunk c of a row is stored at its place (R162). -/
def Issue.storeChunkPast (x : Issue) (desc : BitVec 64) (n r : Nat) (t : State) (c : (Nat × Nat) × Nat) : State :=
  match x.chunkPlace t desc c.1 with
  | some p => storeLane t x.core x.slot r x.tag p (sliceBytes (x.arch.tRow n r) (16 * c.2) 16)
  | none => t

/-- Row r of tile register n is stored, the lower chunk first. -/
def Issue.storeRowPast (x : Issue) (desc : BitVec 64) (st n : Nat) (t : State) (r : Nat) : State :=
  ((rowChunks desc 1 st r 32).zip (List.range 2)).foldl (x.storeChunkPast desc n r) t

theorem storeRow_past (hi : IssuesPast s x w) (desc : BitVec 64) (st n r : Nat) (hs : List HeldAccess) :
    x.storeRowPast desc st n (s.setGroup (x.e.g.bump.holding w hs)) r
      = s.setGroup (x.e.g.bump.holding w (hs ++ x.heldRow s desc st n r)) := by
  refine foldl_holding (fun hs c => ?_) _ hs
  have same : x.chunkPlace (s.setGroup (x.e.g.bump.holding w hs)) desc c.1 = x.chunkPlace s desc c.1 := rfl
  rw [Issue.storeChunkPast, same]
  cases x.chunkPlace s desc c.1 with
  | none => simp
  | some p => exact storeLane_past hi x.e.g.retains_bump hs r x.tag p _

theorem tst_past (hi : IssuesPast s x w) (hh : Hinted x none false false false) (ht : n.toNat < 8) (hd : xIsTile d = false)
    (hr : Usable x (xReads d ++ [.t n.toNat])) (check : x.tileCheck s d st = none) (sound : n.toNat ∉ x.arch.tPoison) :
    CompletesGroup (.tst n d st) s x (x.e.g.bump.counted w
      { w with held := w.held ++ (laneList x.active).flatMap (x.heldRow s (x.tileDesc d) st.toNat n.toNat) }) := by
  have passes := passes_checks (u := tstUse n d) hr hh (limm_none _) ⟨tileAccess_legal ht hd, rfl⟩ ⟨rfl, rfl⟩ ⟨rfl, rfl⟩
    (by simp [tstUse, Use.regs])
  refine held_completes hi (exec_tst n d st s) passes ⟨rfl, rfl⟩ rfl ?_
  have found : checkDesc s x.e.accessor (x.arch.getS64 (2 * (d.toNat % 32))) 1 32 [st.toNat] (laneList x.active) = none := check
  have clean : x.arch.tPoison.contains n.toNat = false := by simpa using sound
  have rows := foldl_holding (step := x.storeRowPast (x.tileDesc d) st.toNat n.toNat)
    (fun hs r => storeRow_past hi (x.tileDesc d) st.toNat n.toNat r hs) (laneList x.active) []
  rw [← hi.holding_nil, List.nil_append] at rows
  simp only [clean, found, Bool.false_eq_true, if_false]
  exact congrArg (fun t => Res.done { s := t }) rows

theorem tst_refused (hi : IssuesPast s x w) (refused : x.tileCheck s d st ≠ none ∨ n.toNat ∈ x.arch.tPoison) :
    exec (.tst n d st) s = .next (stallState s) := by
  rw [exec_tst, execTst]
  refine issue_waits hi _ ?_
  dsimp only
  split
  · exact .fault _
  · next clean =>
    have check := refused.resolve_right fun h => clean (by simpa using h)
    obtain ⟨f, hf⟩ := Option.ne_none_iff_exists'.1 check
    have found : checkDesc s x.e.accessor (x.arch.getS64 (2 * (d.toNat % 32))) 1 32 [st.toNat] (laneList x.active) = some f := hf
    rw [found]
    exact .fault f

end Tiles

/-! ### VSPL -/

section Spills

variable {d : BitVec 8} {b : BitVec 6} {h : Bool}

/-- The decoder's view of a VSPL. -/
def vsplUse (d : BitVec 8) (b : BitVec 6) (h : Bool) : Use :=
  { limm := true, illegal := !h && b == 63, badReg := !h && oddS b, reads := vN d :: spillRegs b h, fence := .hold }

/-- The decoder's view of a VFIL. -/
def vfilUse (d : BitVec 8) (b : BitVec 6) (h : Bool) : Use :=
  { limm := true, illegal := !h && b == 63, badReg := !h && oddS b, reads := spillRegs b h, writes := [vN d], fence := .read }

/-- The address register of a spill is a pair where it is no handle. -/
theorem spillAddress_legal (he : h = false → b.getLsbD 0 = false) : (!h && b == 63) = false ∧ (!h && oddS b) = false := by
  cases h with
  | true => exact ⟨rfl, rfl⟩
  | false => exact ⟨ne_none_of_even (he rfl), he rfl⟩

/-- The pieces of a record as the window holds them, each with the bytes from the offset of its piece on. -/
def heldPieces (tag : BitVec 64) (bs : List Byte) (acc : List HeldAccess × Nat) (p : Place × Nat) : List HeldAccess × Nat :=
  (acc.1 ++ heldStore 64 tag p.1 (sliceBytes bs acc.2 p.2), acc.2 + p.2)

theorem storePieces_past (hi : IssuesPast s x w) (bs : List Byte) (ps : List (Place × Nat)) (hs : List HeldAccess) (n : Nat) :
    (ps.foldl (fun acc p => (storeLane acc.1 x.core x.slot 64 x.tag p.1 (sliceBytes bs acc.2 p.2), acc.2 + p.2))
      (s.setGroup (x.e.g.bump.holding w hs), n)).1 = s.setGroup (x.e.g.bump.holding w (ps.foldl (heldPieces x.tag bs) (hs, n)).1) := by
  induction ps generalizing hs n with
  | nil => rfl
  | cons p ps ih =>
    rw [List.foldl_cons, List.foldl_cons, storeLane_past hi x.e.g.retains_bump, ih]
    rfl

theorem vspl_past (hi : IssuesPast s x w) (hh : Hinted x (some 0xFFFFF) false false false) (hr : Usable x (vN d :: spillRegs b h))
    (he : h = false → b.getLsbD 0 = false) {ps : List (Place × Nat)}
    (check : checkRecord s x.e.accessor .store (spillRecord (lanes.map (x.arch.getV d.toNat))).length (spillAddr b h x) = .ok ps) :
    CompletesGroup (.vspl d b h) s x (x.e.g.bump.counted w { w with
      held := w.held ++ ((wholeSectors ps).foldl (heldPieces x.tag (spillRecord (lanes.map (x.arch.getV d.toNat)))) ([], 0)).1 }) := by
  obtain ⟨legal, even⟩ := spillAddress_legal he
  have passes := passes_decoder (u := vsplUse d b h) hr hh ⟨rfl, rfl, rfl, rfl, rfl⟩ ⟨legal, rfl, rfl, rfl⟩ ⟨even, rfl⟩
    (by simp [vsplUse, Use.regs])
  refine held_completes hi (exec_vspl d b h s) passes ⟨rfl, rfl⟩ rfl ?_
  simp only [check]
  rw [hi.holding_nil]
  exact congrArg (fun t => Res.done { s := t }) (storePieces_past hi _ (wholeSectors ps) [] 0)

theorem vspl_refused (hi : IssuesPast s x w) {c : Nat}
    (check : checkRecord s x.e.accessor .store (spillRecord (lanes.map (x.arch.getV d.toNat))).length (spillAddr b h x) = .error c) :
    exec (.vspl d b h) s = .next (stallState s) := by
  rw [exec_vspl, execVspl]
  refine issue_waits hi _ ?_
  simp only [check]
  exact .fault _

/-! ### VFIL -/

/-- The bytes of the pieces of a record past the fence w. -/
def FenceWin.pieces (w : FenceWin) (s : State) (ps : List (Place × Nat)) : List Byte := ps.flatMap fun p => w.bytes s p.1 p.2

theorem readPieces_past (hf : x.e.g.fence = some w) (ps : List (Place × Nat)) :
    readPieces s x.e.g ps = (w.pieces s ps, ps.flatMap fun p => w.watches 64 p.1 p.2) := by
  simp only [readPieces, Group.readLane_past hf, List.flatMap_map, FenceWin.pieces]

/-- What a VFIL past the fence w brings. -/
def FenceWin.fillResult (w : FenceWin) (s : State) (d : BitVec 8) (ps : List (Place × Nat)) : VarResult :=
  { v := lanes.map fun i => (64 * d.toNat + i, (fillRecord (w.pieces s ps)).getD i 0), spec := true }

theorem vfil_unread (hi : IssuesPast s x w) {c : Nat} (header : checkRecord s x.e.accessor .load 16 (spillAddr b h x) = .error c) :
    exec (.vfil d b h) s = .next (stallState s) := by
  rw [exec_vfil, execVfil]
  refine issue_waits hi _ ?_
  simp only [header]
  exact .fault _

section

variable {hs : List (Place × Nat)} (header : checkRecord s x.e.accessor .load 16 (spillAddr b h x) = .ok hs)
include header

theorem vfil_unknown (hi : IssuesPast s x w) (format : spillLength (byteField (w.pieces s hs) 0 1) = none) :
    exec (.vfil d b h) s = .next (stallState s) := by
  rw [exec_vfil, execVfil]
  refine issue_waits hi _ ?_
  simp only [header, readPieces_past hi.fence, format]
  exact .fault _

variable {n : Nat}

theorem vfil_refused (hi : IssuesPast s x w) {c : Nat} (format : spillLength (byteField (w.pieces s hs) 0 1) = some n)
    (check : checkRecord s x.e.accessor .load n (spillAddr b h x) = .error c) : exec (.vfil d b h) s = .next (stallState s) := by
  rw [exec_vfil, execVfil]
  refine issue_waits hi _ ?_
  simp only [header, readPieces_past hi.fence, format, check]
  exact .fault _

theorem vfil_past (hi : IssuesPast s x w) (hh : Hinted x (some 0xFFFFF) false false false) (hr : Usable x (vN d :: spillRegs b h))
    (he : h = false → b.getLsbD 0 = false) {ps : List (Place × Nat)} (format : spillLength (byteField (w.pieces s hs) 0 1) = some n)
    (check : checkRecord s x.e.accessor .load n (spillAddr b h x) = .ok ps) :
    CompletesGroup (.vfil d b h) s x ((x.e.g.bump.addResult (w.fillResult s d ps) [vN d]).counted w
      (w.watching (ps.flatMap fun p => w.watches 64 p.1 p.2))) := by
  obtain ⟨legal, even⟩ := spillAddress_legal he
  have passes := passes_decoder (u := vfilUse d b h) hr hh ⟨rfl, rfl, rfl, rfl, rfl⟩ ⟨legal, rfl, rfl, rfl⟩ ⟨even, rfl⟩
    (by simp [vfilUse, Use.regs, or_comm])
  have watched (ws : List Watch) : x.e.g.bump.watch ws = x.e.g.bump.watching w ws := Group.watch_past (g := x.e.g.bump) hi.fence ws
  refine read_completes hi (exec_vfil d b h s) passes ⟨rfl, rfl⟩ rfl ?_
  simp only [header, readPieces_past hi.fence, format, check, watched, hi.fence, Option.isSome_some]
  rfl

end

end Spills

end Sys2Proof.Machine
end

section
-- One proof is elaborated at a time: the check bounds the threads of the whole text.
set_option Elab.async false
/-! SUPPORT for O23: FENCE.X, PREF, register words past a fence, and a full window (R215 to R217, R238, R243). -/

namespace Sys2Proof.Machine

variable {s : State} {x : Issue} {w : FenceWin}

/-! ### FENCE.X (R215, R238) -/

section Fences

variable {set : BitVec 6} (hi : Issues s x) (hh : Hinted x none false false false)
include hi hh

theorem fenceX_idle (quiet : fenceWaits s x.e set = []) : CompletesGroup (.fenceX set) s x x.e.g := by
  have passes := passes_checks (u := { fence := .stall }) (rs := []) (by rintro r ⟨⟩) hh (limm_none _) ⟨rfl, rfl⟩ ⟨rfl, rfl⟩ ⟨rfl, rfl⟩
    (by simp [Use.regs])
  rw [CompletesGroup, exec_fenceX, execFenceX]
  exact issue_closes hi passes rfl (if_pos (List.isEmpty_iff.2 quiet)) hi.group.1 hi.held hi.bad

variable (waits : fenceWaits s x.e set ≠ [])
include waits

/-- A fence that waits leaves the group g of its body. -/
theorem fenceX_closes {g : Group} (kept : x.e.g.Retains g)
    (hg : g = if set.getLsbD 0 = true then { x.e.g with
        fence := some { set := set, waits := fenceWaits s x.e set, snapshot := x.arch, word := s.fetched, tokens := x.e.g.tokens,
                        heldFlags := x.e.g.heldFlags, after := x.e.g.after, bad := x.e.g.bad } }
      else { x.e.g with soft := x.e.g.soft ++ [{ set := set, waits := fenceWaits s x.e set, next := s.nextId }] }) :
    CompletesGroup (.fenceX set) s x g := by
  have passes := passes_checks (u := { fence := .stall }) (rs := []) (by rintro r ⟨⟩) hh (limm_none _) ⟨rfl, rfl⟩ ⟨rfl, rfl⟩ ⟨rfl, rfl⟩
    (by simp [Use.regs])
  refine group_completes hi (exec_fenceX set s) passes rfl ?_ kept
  have some : ¬(fenceWaits s x.e set).isEmpty = true := mt List.isEmpty_iff.1 waits
  simp only [if_neg some, hg]
  split <;> rfl

end Fences

/-! ### PREF (R243) -/

theorem pref_completes {d a b : BitVec 8} (hi : Issues s x) (hh : Hinted x (some 0x3FFFF) false false false)
    (ranges : ∀ r ∈ prefRanges d a b x.run,
      r.2.toNat ≤ 32 ∧ (r.2 = 0 → r.1 = 0) ∧ (r.2 ≠ 0 → r.1.toNat + r.2.toNat ≤ min 128 x.e.l.kh.regs))
    (total : ((prefRanges d a b x.run).map (fun r => r.2.toNat)).sum ≤ 32) :
    CompletesGroup (.pref d a b) s x { x.e.g with pref := prefRanges d a b x.run } := by
  have legal : prefIllegal (prefRanges d a b x.run) = false := by
    rw [prefIllegal, Bool.or_eq_false_iff, List.any_eq_false]
    refine ⟨fun r hr => ?_, by simpa using total⟩
    obtain ⟨short, empty, -⟩ := ranges r hr
    simpa [Nat.not_lt.2 short] using empty
  have inside : (prefRanges d a b x.run).any (fun r => r.2 != 0 && min 128 x.e.l.kh.regs < r.1.toNat + r.2.toNat) = false := by
    rw [List.any_eq_false]
    intro r hr
    obtain ⟨-, -, fits⟩ := ranges r hr
    simpa using fits
  exact group_completes hi (exec_pref d a b s) (passes_checks (rs := []) (by rintro r ⟨⟩) hh (by rintro k ⟨⟩; exact ⟨rfl, rfl⟩) ⟨rfl, legal⟩
    ⟨rfl, rfl⟩ ⟨rfl, inside⟩ (by simp [Use.regs])) rfl rfl ⟨rfl, rfl, rfl, rfl⟩

/-! ### Register words (R216) -/

theorem nop_past (hi : IssuesPast s x w) (hh : Hinted x none false false false) : CompletesGroup .nop s x (x.e.g.counted w w) :=
  past_idles hi (exec_nop s) (passes_checks (rs := []) (by rintro r ⟨⟩) hh (limm_none _) ⟨rfl, rfl⟩ ⟨rfl, rfl⟩ ⟨rfl, rfl⟩
    (by simp [Use.regs])) ⟨rfl, rfl⟩ rfl rfl

theorem iadd_past {d a b : BitVec 8} (hi : IssuesPast s x w) (hh : Hinted x none false false false) (hr : Usable x [vN d, vN a, vN b]) :
    CompletesGroup (.iadd d a b) s x (Group.counted { x.e.g with
      arch := setActive x d.toNat (fun i => x.arch.getV a.toNat i + x.arch.getV b.toNat i) x.arch } w w) := by
  have wraps : x.run.sat = false := by simpa using hh.sat
  have sum (y z : Word) : opAdd x.run.sat y z = y + z := by simp [opAdd_eq, wraps]
  have passes := passes_checks (u := { sat := true, reads := [vN a, vN b] ++ [], writes := [vN d] }) hr
    ⟨hh.limm, hh.rnd, fun _ => rfl, hh.bpri⟩ (limm_none _) ⟨rfl, rfl⟩ ⟨rfl, rfl⟩ ⟨rfl, rfl⟩ (by
      intro r; simp only [Use.regs]; simp; grind)
  refine past_completes (g := { x.e.g with arch := _ }) hi (exec_iadd d a b s) passes ⟨rfl, rfl⟩ rfl ?_ ⟨rfl, rfl, rfl, rfl⟩ hi.fence rfl
  simp only [archBody, sum]

/-! ### The stall list, and a full window (R216, R217) -/

theorem word_full {i : Instr} (hs : s.issuer = some (x.core, x.slot)) (hx : issueOf s x.core x.slot = some x) (ordinary : x.slot ≠ 63)
    (hf : x.e.g.fence = some w) (full : 32 ≤ w.issued ∨ 4 ≤ w.rollbacks) (word : wordless i = false ∨ i = .unassignedMajor) :
    exec i s = .next (stallState s) := by
  rcases word with word | rfl
  · cases thr : thresherOnly i with
    | true =>
      refine word_issueThr i thr s _ fun hint limm bad f => ?_
      rw [issueThr_ordinary hint limm bad f hs ordinary, issue_full _ _ hs hx hf full]
    | false =>
      cases hint : hintWord i with
      | true =>
        obtain ⟨cls, f, he⟩ := word_hint i hint
        rw [he s (inThresher_ordinary hs ordinary), issueHint_full cls f hs hx hf full]
      | false =>
        obtain ⟨u, body, he, -⟩ := word_issue i word thr hint
        rw [he, issue_full u body hs hx hf full]
  · have slot : x.slot ≠ Config.thresherSlot := ordinary
    rw [exec_unassignedMajor, execUnassignedMajor, hs]
    simp only [if_neg slot]
    exact issue_full _ _ hs hx hf full

end Sys2Proof.Machine
end

section
-- One proof is elaborated at a time: the check bounds the threads of the whole text.
set_option Elab.async false
/-! PROOF of O23: fences, PREF, and the words past an incomplete fence. -/

namespace Sys2Proof.Machine

variable {s : State} {x : Issue} {w : FenceWin}

/-- The ten loads and stores past a fence, by their address forms (R216, R228). -/
theorem accesses_past (hi : IssuesPast s x w) (hh : Hinted x (some 0xFFFFF) false false false) {d : BitVec 8} {z : BitVec 2}
    (hd : Usable x (dataRegs d z)) (hodd : oddData d z = false) (a : BitVec 7) (b : BitVec 6) (place : Nat → Place) :
    let loads := fun (i : Instr) (addr : Nat → LaneAddr) =>
      (Reaches s x .load 16 false (2 ^ z.toNat) addr place → CompletesGroup i s x
        ((x.e.g.bump.addResult (w.loadResult s d z (x.placed place)) (dataRegs d z)).counted w (w.watching (w.loadWatches z (x.placed place)))))
      ∧ (x.Fails s .load 16 (2 ^ z.toNat) addr → exec i s = .next (stallState s))
    let stores := fun (i : Instr) (addr : Nat → LaneAddr) =>
      (Reaches s x .store 16 false (2 ^ z.toNat) addr place → CompletesGroup i s x
        (x.e.g.bump.counted w { w with held := w.held ++ x.heldStores d z (x.placed place) }))
      ∧ (x.Fails s .store 16 (2 ^ z.toNat) addr → exec i s = .next (stallState s))
    (Usable x (vB a :: sPair b) → b.getLsbD 0 = false →
      loads (.ldgUniformVector d a b z) (addrUniformVector x a.toNat b.toNat)
      ∧ stores (.stgUniformVector d a b z) (addrUniformVector x a.toNat b.toNat))
    ∧ (Usable x (sPair b) → b.getLsbD 0 = false →
      loads (.ldgUniform d b z) (fun _ => addrUniform x b.toNat) ∧ stores (.stgUniform d b z) (fun _ => addrUniform x b.toNat))
    ∧ (Usable x [.v a.toNat, .v (a.toNat + 1)] → a.getLsbD 0 = false →
      loads (.ldgVector d a z) (addrVector x a.toNat) ∧ stores (.stgVector d a z) (addrVector x a.toNat))
    ∧ (Usable x [vB a, sN b] →
      loads (.ldhVector d a b z) (addrHandleVector x a.toNat b.toNat)
      ∧ stores (.sthVector d a b z) (addrHandleVector x a.toNat b.toNat))
    ∧ (Usable x [sN b] →
      loads (.ldhOffset d b z) (fun _ => addrHandle x b.toNat) ∧ stores (.sthOffset d b z) (fun _ => addrHandle x b.toNat)) := by
  intro loads stores
  have both {l t : Instr} {illegal bad : Bool} {reads : List RegRef} (addr : Issue → Nat → LaneAddr) (hr : Usable x reads)
      (hill : illegal = false) (hbad : bad = false) (hl : exec l s = issue (loadUse d z illegal bad reads) (loadBody d z addr) s)
      (ht : exec t s = issue (storeUse d z illegal bad reads) (storeBody d z addr) s) : loads l (addr x) ∧ stores t (addr x) :=
    ⟨load_past hi hh hd hodd hr hill hbad hl, store_past hi hh hd hodd hr hill hbad ht⟩
  exact ⟨fun hr hb => both (fun x => addrUniformVector x a.toNat b.toNat) hr rfl hb rfl rfl,
    fun hr hb => both (fun x _ => addrUniform x b.toNat) hr (ne_none_of_even hb) hb rfl rfl,
    fun hr ha => both (fun x => addrVector x a.toNat) hr rfl ha rfl rfl,
    fun hr => both (fun x => addrHandleVector x a.toNat b.toNat) hr rfl rfl rfl rfl,
    fun hr => both (fun x _ => addrHandle x b.toNat) hr rfl rfl rfl rfl⟩

end Sys2Proof.Machine

open Sys2Proof Sys2Proof.Machine

/-- Settles O23: each word past a fence by the lemma about what it holds, watches or waits for. -/
theorem fenceAndPrefetchResults : Obligations.FenceAndPrefetchResults := by
  refine ⟨?_, ?_, forwarded_iff, ?_, ?_, ?_⟩
  · intro s x set hi hh ws
    refine ⟨fenceX_idle hi hh, fun waits inT => ?_, fun waits outT => ?_⟩
    · exact fenceX_closes hi hh waits ⟨rfl, rfl, rfl, rfl⟩ (if_pos inT).symm
    · refine fenceX_closes hi hh waits ⟨rfl, rfl, rfl, rfl⟩ ?_
      rw [if_neg (by rw [outT]; decide), hi.soft]
      rfl
  · intro s x d a b hi hh ranges inside total
    exact pref_completes hi hh inside total
  · intro p l bs tag
    have split {c : Prop} [Decidable c] (n : Nat) : ((if c then some n else none).bind fun k => bs[k]?) = if c then bs[n]? else none := by
      split <;> rfl
    exact ⟨fun t u a b i j => split _, fun t u i j a b => split _, fun r d => rfl⟩
  · intro s x w hi stalls counted reached bytes watches watched holds
    refine ⟨?_, ?_, ?_, ?_, ?_, ?_⟩
    · intro c m a b e d r f n o st q z v p op num i listed
      -- Every word of the list has the fence rule .stall of R216.
      fin_cases listed <;> exact issue_listed hi rfl _
    · intro hh
      exact ⟨nop_past hi hh, fun d a b hr => iadd_past hi hh hr⟩
    · intro d a b z place n value loads stores hh hd hodd
      have accesses := accesses_past hi hh hd hodd a b place
      simp only [FenceWin.loadResult, FenceWin.loadWatches, Issue.heldStores, Issue.placed, List.flatMap_map] at accesses
      exact accesses
    · intro d a o t place hh hill hpair hdata hr room reaches
      have atoms := atom_past hi hh hill hpair hdata hr room reaches
      simp only [Issue.operands, List.map_map] at atoms
      exact atoms
    · intro t d st hh ht hd hr desc chunks place each bad held
      exact ⟨fun check _ => ⟨fun idle => tld_past hi hh ht hd hr idle check, fun sound => tst_past hi hh ht hd hr check sound⟩,
        fun check => ⟨tld_refused hi check, tst_refused hi (.inl check)⟩, fun poisoned => tst_refused hi (.inr poisoned)⟩
    · intro d b h hh hr even at_ record reads
      refine ⟨fun ps check => vspl_past hi hh hr even check, fun c check => vspl_refused hi check, fun c check => vfil_unread hi check,
        fun hs header => ?_⟩
      exact ⟨vfil_unknown header hi, fun n c format check => vfil_refused header hi format check,
        fun n ps format check => vfil_past header hi hh hr even format check⟩
  · intro s x w i hs hx ordinary hf full word
    exact word_full hs hx ordinary hf full word

end

section
-- One proof is elaborated at a time: the check bounds the threads of the whole text.
set_option Elab.async false
/-! SUPPORT for O27: pushes to the engines and to the thresher (R256 to R258, R278). -/

namespace Sys2Proof.Machine

variable {s : State} {x : Issue} {n : BitVec 4} {a : BitVec 6}

/-- No token stands in a register that may be named. -/
theorem Usable.tokens_any {rs : List RegRef} {k : Nat} (h : Usable x rs) (hk : RegRef.s k ∈ rs) (p : Token → Bool) :
    x.e.g.tokens.any (fun t => t.reg == k && p t) = false := by
  rw [List.any_eq_false]
  intro t ht hc
  simp only [Bool.and_eq_true, beq_iff_eq] at hc
  exact (h _ hk).2.2 t ht (by rw [hc.1])

/-- What the decoder knows of a QPUSH. -/
def pushUse (n : BitVec 4) (a : BitVec 6) : Use :=
  { badReg := oddS a, reads := sPair a, paths := queuePath n.toNat, fence := .stall
    badIn := fun x => commandKnown x n.toNat a.toNat && cmdDesc (pushWord x a) % 8 != 0
    commandReads := fun x => if commandKnown x n.toNat a.toNat then
        (List.range 8).map (fun k => .s (cmdDesc (pushWord x a) + k)) else []
    commandWrites := fun x => if commandKnown x n.toNat a.toNat then [.s (cmdToken (pushWord x a))] else [] }

/-- The body of a QPUSH. -/
def pushBody (n : BitVec 4) (a : BitVec 6) (x : Issue) (s : State) : Res :=
  if n.toNat ≤ 2 then pushCommand x s n.toNat a
  else if n.toNat = 3 then pushThresher x s a
  else if n.toNat < 8 then .fault { cls := 8 }
  else pushNamed x s n.toNat a

theorem execQpush_eq (n : BitVec 4) (a : BitVec 6) (s : State) : exec (.qpush n a) s = issue (pushUse n a) (pushBody n a) s := rfl

/-- The registers that the command of a push names. -/
def commandRegs (w : BitVec 64) : List RegRef := (List.range 8).map (fun k => .s (cmdDesc w + k)) ++ [.s (cmdToken w)]

/-- The word of a push to an engine is known at its issue (R256). -/
theorem commandKnown_of_usable (hr : Usable x (sPair a)) (hn : n.toNat < 3) : commandKnown x n.toNat a.toNat = true := by
  have free : x.e.g.tokens.any (fun t => t.result.isNone && (t.reg == a.toNat || t.reg == a.toNat + 1)) = false := by
    have first := hr.tokens_any (k := a.toNat) (by simp [sPair]) fun t => t.result.isNone
    have second := hr.tokens_any (k := a.toNat + 1) (by simp [sPair]) fun t => t.result.isNone
    simp only [List.any_eq_false, Bool.and_eq_true, Bool.or_eq_true] at first second ⊢
    exact fun t ht h => h.2.elim (fun k => first t ht ⟨k, h.1⟩) (fun k => second t ht ⟨k, h.1⟩)
  rw [commandKnown, free]
  simp only [decide_eq_true (Nat.le_of_lt_succ hn), Bool.not_false, Bool.and_self]

/-- A push to an engine whose command names registers that may be named passes the decoder. -/
theorem commandPush_passes (hr : Usable x (sPair a)) (hh : Hinted x none false false false) (even : a.getLsbD 0 = false)
    (hn : n.toNat < 3) (hc : Usable x (commandRegs (pushWord x a))) (hd : cmdDesc (pushWord x a) % 8 = 0) :
    decodeFault (pushUse n a) x = none ∧ (pushUse n a).tokens x = [] := by
  have known := commandKnown_of_usable hr hn
  exact passes_checks (hr.append hc) hh (limm_none _) ⟨rfl, rfl⟩ ⟨rfl, rfl⟩ ⟨even, by simp [pushUse, hd]⟩
    (by simp [Use.regs, pushUse, known, commandRegs])

/-- A push to the thresher names its pair alone. -/
theorem thresherPush_passes (hr : Usable x (sPair a)) (hh : Hinted x none false false false) (even : a.getLsbD 0 = false) :
    decodeFault (pushUse 3 a) x = none ∧ (pushUse 3 a).tokens x = [] := by
  have unknown : commandKnown x 3 a.toNat = false := rfl
  exact passes_checks hr hh (limm_none _) ⟨rfl, rfl⟩ ⟨rfl, rfl⟩ ⟨even, by simp [pushUse, unknown]⟩ (by simp [Use.regs, pushUse, unknown])

/-- The issuing group is changed in its slot wherever the groups are those of its issue. -/
theorem Issues.mapGroup_eq {t : State} (hi : Issues s x) (ht : t.groups = s.groups) (f : Group → Group) :
    t.mapGroup x.core x.slot f = t.setGroup (f x.e.g) :=
  State.mapGroup_eq (by rw [State.group?, ht]; exact hi.group.1) f

/-- A word that finds its queue full blocks its group at it (R253). -/
theorem issue_blocks {u : Use} {body : Issue → State → Res} {push : Bool} {k r : Nat} (hi : Issues s x)
    (passes : decodeFault u x = none ∧ u.tokens x = []) (hb : body x s = blockQueue x s push k r) :
    issue u body s = .next (s.setGroup { x.e.g with wait := .queue push k r, waitWord := s.fetched }) := by
  rw [blockQueue, hi.mapGroup_eq rfl] at hb
  rw [issue_body hi passes.1 passes.2 hb, finish_stay (g := { x.e.g with wait := .queue push k r }) passes.2 (hi.group?_setGroup rfl rfl)]
  exact congrArg _ (State.setGroup_setGroup _ _ _ rfl rfl)

/-! ### Commands (R257, R258) -/

/-- The command of a push (R256). -/
def Issue.command (x : Issue) (s : State) (n : BitVec 4) (a : BitVec 6) : Command :=
  { id := s.nextId, engine := engineOf x.core n.toNat, team := x.e.t.id, launch := x.e.l.id, ctx := x.e.l.ctx, core := x.core, slot := x.slot,
    index := x.e.g.index, token := cmdToken (pushWord x a), lanes := x.active, word := pushWord x a,
    desc := (List.range 8).map (fun k => x.arch.getS (cmdDesc (pushWord x a) + k)), pc := x.entry.pc, instrWord := s.fetched,
    wordIx := x.wordIx, sseq := x.arch.sseq, workId := (x.e.workId ((lowestLane x.active).getD 0)).setWidth 32, tag := x.tag }

/-- The machine with the command of a push behind those of its engine (R257). -/
def Issue.queued (x : Issue) (s : State) (n : BitVec 4) (a : BitVec 6) : State :=
  { s with commands := s.commands ++ [x.command s n a], nextId := s.nextId + 1 }

/-- The token of the command of a push (R258). -/
def Issue.token (x : Issue) (s : State) (a : BitVec 6) : Token :=
  { reg := cmdToken (pushWord x a), cmd := s.nextId, lanes := x.active, pc := x.entry.pc, word := s.fetched, tag := x.tag, core := x.core }

/-- The group of x after the push of a command: its token is a tracked one, and a command that rounds in mode 4 counts (R258, R263). -/
def Issue.commanded (x : Issue) (s : State) (n : BitVec 4) (a : BitVec 6) : Group :=
  { x.e.g.bump with
    tokens := x.e.g.tokens ++ [x.token s a]
    arch := { x.arch with
      sseq := if roundingCommand (engineOf x.core n.toNat) (pushWord x a) && commandMode x.amr (pushWord x a) == 4 then x.arch.sseq + 1
        else x.arch.sseq } }

/-- A command that passes its checks enters its queue, or blocks its group while the queue is full (R257). -/
theorem pushBody_command (hi : Issues s x) (hm : x.e.l.lh.mode = 0) (hn : n.toNat < 3) (hc : Usable x (commandRegs (pushWord x a)))
    (checked : commandCheck s x.e.l.ctx (engineOf x.core n.toNat) (pushWord x a)
      ((List.range 8).map (fun k => x.arch.getS (cmdDesc (pushWord x a) + k))) = none)
    (room : (x.e.g.tokens.filter (·.result.isNone)).length < 16) :
    pushBody n a x s =
      if 64 ≤ (s.commands.filter (fun c => c.engine == engineOf x.core n.toNat)).length then blockQueue x s true n.toNat a.toNat
      else .done { s := (x.queued s n a).setGroup (x.commanded s n a) } := by
  have untracked := hc.tokens_any (k := cmdToken (pushWord x a)) (by simp [commandRegs]) fun t => t.result.isNone
  rw [pushBody, if_pos (Nat.le_of_lt_succ hn), pushCommand]
  simp only [untracked, checked, if_neg (Nat.not_le.2 room), choose_free (State.env?_launch hi.env) hm, Bool.false_eq_true, if_false]
  refine if_congr Iff.rfl rfl (congrArg (fun t => Res.done { s := t }) ((hi.mapGroup_eq (t := x.queued s n a) rfl _).trans ?_))
  simp only [Issue.commanded]
  split <;> rfl

/-! ### Inputs of the thresher (R278) -/

/-- The core of x with one more input of its thresher. -/
def Issue.fedCore (x : Issue) (s : State) (a : BitVec 6) : Core :=
  { s.coreAt x.core with inputs := (s.coreAt x.core).inputs ++
    [{ team := x.e.t.id, group := x.e.g.index, word := pushWord x a, id := s.nextId, tag := x.tag }] }

/-- The machine with one more input at the thresher of x. -/
def Issue.fed (x : Issue) (s : State) (a : BitVec 6) : State := { s.setCore x.core (x.fedCore s a) with nextId := s.nextId + 1 }

/-- An input whose word is legal enters the queue of the thresher, or blocks its group while the queue is full. -/
theorem pushBody_thresher (hi : Issues s x) (hw : (pushWord x a).extractLsb' 0 4 = 0) : pushBody 3 a x s =
    if 32 ≤ (s.coreAt x.core).inputs.length then blockQueue x s true 3 a.toNat
    else .done { s := (x.fed s a).setGroup x.e.g.bump } := by
  have engine : ¬(3 : BitVec 4).toNat ≤ 2 := by decide
  rw [pushBody, if_neg engine, if_pos (by decide), pushThresher]
  simp only [hw, ne_eq, not_true_eq_false, if_false]
  have bumped := hi.mapGroup_eq (t := s.setCore x.core (x.fedCore s a)) rfl Group.bump
  exact if_congr Iff.rfl rfl (congrArg (fun t : State => Res.done { s := { t with nextId := s.nextId + 1 } }) bumped)

end Sys2Proof.Machine
end

section
-- One proof is elaborated at a time: the check bounds the threads of the whole text.
set_option Elab.async false
/-! PROOF of O27: pushes of commands and of thresher inputs. -/

open Sys2Proof Sys2Proof.Machine

/-- Settles O27: a push passes the decoder, and the room of its queue decides between an entry and a blocked group. -/
theorem commandPushResults : Obligations.CommandPushResults := by
  unfold Obligations.CommandPushResults
  intro s x n a hi hh hr even hm w k blocks
  constructor
  · rintro rfl hw
    have passes := thresherPush_passes hr hh even
    refine ⟨fun space => ?_, fun full => ?_⟩
    · exact state_closes hi passes rfl ((pushBody_thresher hi hw).trans (if_neg (Nat.not_le.2 space))) rfl ⟨rfl, rfl, rfl, rfl⟩
    · exact issue_blocks hi passes ((pushBody_thresher hi hw).trans (if_pos full))
  · intro hn e regs desc hc hd checked room c t sseq
    have passes := commandPush_passes (n := n) hr hh even hn hc hd
    have pushed := pushBody_command hi hm hn hc checked room
    refine ⟨fun space => ?_, fun full => ?_⟩
    · exact state_closes hi passes rfl (pushed.trans (if_neg (Nat.not_le.2 space))) rfl ⟨rfl, rfl, rfl, rfl⟩
    · exact issue_blocks hi passes (pushed.trans (if_pos full))

end

section
-- One proof is elaborated at a time: the check bounds the threads of the whole text.
set_option Elab.async false
/-! SUPPORT for O30 and O31: what one word of the thresher slot can do (R280). -/

namespace Sys2Proof.Machine

variable {s : State} {core : Nat} {b : ThrBlock} {hint limm bad : Bool} {f : Nat → State → ThrBlock → Threshed} {r : Threshed}

/-- The thresher slot of a core issues, with a block in progress. -/
structure Threshes (s : State) (core : Nat) (b : ThrBlock) : Prop where
  slot : s.issuer = some (core, 63)
  block : (s.coreAt core).block = some b

/-- The block behind a word that counts, which is a hint or ends a run of hints. -/
def ThrBlock.counted (b : ThrBlock) (hint : Bool) : ThrBlock :=
  { b with steps := b.steps + 1, pc := b.pc + 1, hints := if hint then b.hints + 1 else 0 }

/-- A word is legal behind the LIMM of its run, or there is none. -/
def ThrBlock.accepts (b : ThrBlock) (limm : Bool) : Prop := b.limm = none ∨ limm = true

theorem ThrBlock.accepts.legal (h : b.accepts limm) : (false || b.limm.isSome && !limm) = false := by
  rcases h with h | h <;> simp [h]

/-- A word in the thresher slot, by the steps of its block and its legality. -/
theorem issueThr_eq (h : Threshes s core b) (hs : b.steps ≤ 1048576) : issueThr hint limm bad f s =
    if bad || (b.limm.isSome && !limm) then .next (endBlock s core b 1 b.pc)
    else if b.steps = 1048576 then .next (s.setBlock core (some { b with steps := b.steps + 1 }))
    else match (f core s (b.counted hint)).status with
      | none => .next ((f core s (b.counted hint)).s.setBlock core (some (f core s (b.counted hint)).b))
      | some c => .next (endBlock (f core s (b.counted hint)).s core (f core s (b.counted hint)).b c 0) := by
  have within : ¬thrStepLimit < b.steps := Nat.not_lt.2 hs
  simp only [issueThr, h.slot, h.block, if_neg within, Config.thresherSlot, ne_eq, not_true_eq_false, if_false]
  rfl

/-- A legal word below the limit has its effect and goes on. -/
theorem issueThr_goes (h : Threshes s core b) (hs : b.steps < 1048576) (hl : b.accepts limm) (hr : f core s (b.counted hint) = r)
    (goes : r.status = none) : issueThr hint limm false f s = .next (r.s.setBlock core (some r.b)) := by
  rw [issueThr_eq h hs.le, hl.legal, if_neg Bool.false_ne_true, if_neg hs.ne, hr, goes]

/-- A legal word below the limit that fails, or halts, ends the block with its status. -/
theorem issueThr_ends {c : Nat} (h : Threshes s core b) (hs : b.steps < 1048576) (hl : b.accepts limm)
    (hr : f core s (b.counted hint) = r) (ends : r.status = some c) : issueThr hint limm false f s = .next (endBlock r.s core r.b c 0) := by
  rw [issueThr_eq h hs.le, hl.legal, if_neg Bool.false_ne_true, if_neg hs.ne, hr, ends]

/-- A word that is illegal by itself ends the block with status 1 at its word. -/
theorem issueThr_illegal (h : Threshes s core b) (hs : b.steps ≤ 1048576) : issueThr hint limm true f s = .next (endBlock s core b 1 b.pc) := by
  rw [issueThr_eq h hs, Bool.true_or, if_pos rfl]

/-- So does a word behind a LIMM that it does not take. -/
theorem issueThr_unextended (h : Threshes s core b) (hs : b.steps ≤ 1048576) (hl : b.limm ≠ none) :
    issueThr hint false bad f s = .next (endBlock s core b 1 b.pc) := by
  rw [issueThr_eq h hs, Option.isSome_iff_ne_none.2 hl, Bool.not_false, Bool.and_self, Bool.or_true, if_pos rfl]

/-- A legal word at the limit only takes the block past it. -/
theorem issueThr_passesLimit (h : Threshes s core b) (hs : b.steps = 1048576) (hl : b.accepts limm) :
    issueThr hint limm false f s = .next (s.setBlock core (some { b with steps := b.steps + 1 })) := by
  rw [issueThr_eq h hs.le, hl.legal, if_neg Bool.false_ne_true, if_pos hs]

theorem inThresher_of_slot (h : s.issuer = some (core, 63)) : inThresher s = true := by simp [inThresher, h, Config.thresherSlot]

end Sys2Proof.Machine
end

section
-- One proof is elaborated at a time: the check bounds the threads of the whole text.
set_option Elab.async false
/-! SUPPORT for O30: the values of the thresher's register words (R281), and its hints (R280). -/

namespace Sys2Proof.Machine

variable {s : State} {core : Nat} {b : ThrBlock} {A : Word}

/-- A distance of THR.skip is a sum of words. -/
theorem skip_distance (A : Word) (i : BitVec 11) : (A + i.setWidth 32).toNat = (A.toNat + i.toNat) % 4294967296 := by
  rw [BitVec.toNat_add, BitVec.toNat_setWidth_of_le (by decide)]

/-- A bit field of w + 1 bits, extended by its sign or by zeros. -/
theorem bitField_eq (A : Word) (sg : Bool) (w p : Nat) :
    let f := A.toNat / 2 ^ p % 2 ^ (w + 1)
    (if sg then BitVec.ofInt 32 (signed (w + 1) f) else BitVec.ofNat 32 f) =
      if sg && decide (2 ^ w ≤ f) then BitVec.ofInt 32 ((f : Int) - 2 ^ (w + 1)) else BitVec.ofNat 32 f := by
  intro f
  have inside : f % 2 ^ (w + 1) = f := Nat.mod_mod ..
  have value : signed (w + 1) f = if 2 ^ w ≤ f then (f : Int) - 2 ^ (w + 1) else f := by
    rw [signed, inside, Nat.add_sub_cancel]
    by_cases high : 2 ^ w ≤ f
    · rw [if_neg (Nat.not_lt.2 high), if_pos high]; push_cast; rfl
    · rw [if_pos (Nat.lt_of_not_le high), if_neg high]
  rw [value]
  cases sg with
  | false => rfl
  | true =>
    by_cases high : 2 ^ w ≤ f
    · simp [high]
    · simp only [if_true, if_neg high, Bool.true_and, decide_eq_true_eq]
      exact BitVec.ofInt_natCast ..

theorem ThrBlock.entry_mod (b : ThrBlock) (k : Nat) : b.entry (k % 256) = b.entry k := by simp [ThrBlock.entry]

theorem ThrBlock.setEntry_mod (b : ThrBlock) (k : Nat) (x : Word) : b.setEntry (k % 256) x = b.setEntry k x := by simp [ThrBlock.setEntry]

/-- The bits of a register operand that have to be zero. -/
theorem operandBad_eq_false {i : BitVec 11} (h : i.getLsbD 10 = false ∨ i.extractLsb' 4 6 = 0) : operandBad i = false := by
  rcases h with h | h
  · rw [operandBad, h, Bool.false_and]
  · rw [operandBad, h, bne_self_eq_false, Bool.and_false]

/-- When a branch is taken, by its condition (R281). -/
def ThrBlock.takes (b : ThrBlock) (c : BitVec 4) (A : Word) : Prop :=
  if c = 0 then True else if c = 1 then A = 0 else if c = 2 then A ≠ 0 else if c = 3 then A.toInt < 0
    else if c = 4 then 0 ≤ A.toInt else if c = 5 then b.sectors * 256 ≤ b.bit else b.emitted = 4096

theorem ThrBlock.holds_iff {c : BitVec 4} (hc : c.toNat < 7) : b.holds c A = true ↔ b.takes c A := by
  have negative : A.msb = true ↔ A.toInt < 0 := by rw [BitVec.toInt_neg_iff, BitVec.msb_eq_decide, decide_eq_true_iff]; omega
  have positive : A.msb = false ↔ 0 ≤ A.toInt := by rw [← Bool.not_eq_true, negative, Int.not_lt]
  have code : c = BitVec.ofNat 4 c.toNat := (BitVec.ofNat_toNat ..).symm ▸ (BitVec.setWidth_eq c).symm
  generalize c.toNat = n at hc code
  subst code
  interval_cases n <;> simp [ThrBlock.holds, ThrBlock.takes, negative, positive]

/-- A target of THR.br is relative to the word and wraps with the 32-bit code offset. -/
theorem branchTarget_eq (pc : Nat) (i : BitVec 11) :
    wrapInt 30 (((pc + 1 : Nat) : Int) - 1 + i.toInt) = (((pc : Int) + i.toInt) % 1073741824).toNat := by
  rw [wrapInt, Nat.cast_succ, Int.add_sub_cancel]
  rfl

/-- The immediate of a THR.movi with the LIMM of its run, if there is one. -/
def ThrBlock.immediate (b : ThrBlock) (i : BitVec 11) : Word := b.limm.elim (i.signExtend 32) fun p => (p ++ i).signExtend 32

theorem ThrBlock.without_limm (h : b.limm = none) : { b with limm := none } = b := by
  obtain ⟨⟩ := b
  cases h
  rfl

/-- THR.movi uses the LIMM up. -/
theorem thrMovi_goes (h : Threshes s core b) (hs : b.steps < 1048576) (d : BitVec 4) (i : BitVec 11) :
    exec (.thrMovi d i) s
      = .next (s.setBlock core (some { (b.counted false).setReg d (b.immediate i) with limm := none })) := by
  rw [exec_thrMovi, execThrMovi, issueThr_goes h hs (.inr rfl) rfl rfl]
  cases hl : b.limm <;> simp only [ThrBlock.immediate, ThrBlock.counted, hl] <;> rfl

/-- A word of an unassigned major ends the block like any illegal word. -/
theorem unassignedMajor_thresher (h : Threshes s core b) (hs : b.steps ≤ 1048576) :
    exec .unassignedMajor s = .next (endBlock s core b 1 b.pc) := by
  have within : ¬thrStepLimit < b.steps := Nat.not_lt.2 hs
  rw [exec_unassignedMajor, execUnassignedMajor]
  simp only [h.slot, h.block, if_neg within, Config.thresherSlot, if_true]

theorem branchLegal {a c : BitVec 4} (hc : c.toNat < 7) (ha : c = 0 ∨ c = 5 ∨ c = 6 → a = 0) :
    (decide (6 < c.toNat) || ((c == 0 || c == 5 || c == 6) && a != 0)) = false := by
  have listed : ¬6 < c.toNat := by omega
  simpa [listed, or_assoc] using ha

end Sys2Proof.Machine
end

section
-- One proof is elaborated at a time: the check bounds the threads of the whole text.
set_option Elab.async false
/-! PROOF of O30: the thresher's words over registers, table and position. -/

open Sys2Proof Sys2Proof.Machine

/-- Settles O30: every word is one issue of the thresher slot (`issueThr_eq`), whose effect on the block is the equation of the word. -/
theorem thresherRegisterWords : Obligations.ThresherRegisterWords := by
  unfold Obligations.ThresherRegisterWords
  refine ⟨?_, ?_, ?_⟩
  · intro s core b d a c i k sg w p hi hb hs hl b0 A becomes at_
    have pure {m : Instr} {bad : Bool} {f : ThrBlock → ThrBlock} {b1 : ThrBlock} (hm : exec m s = issueThrPure bad f s)
        (legal : bad = false) (value : f b0 = b1) : becomes m b1 := by
      subst legal value
      exact hm.trans (issueThr_goes ⟨hi, hb⟩ hs (.inl hl) rfl rfl)
    refine ⟨?_, ?_, ?_, ?_, ?_, ?_, ?_⟩
    · exact pure (exec_thrSkip ..) rfl (congrArg (fun z => { b0 with bit := b.bit + z }) (skip_distance A i))
    · exact pure (exec_thrBfx ..) rfl (congrArg (b0.setReg d) (bitField_eq A sg w.toNat p.toNat))
    · exact pure (exec_thrLut ..) rfl (congrArg (b0.setReg d) (b0.entry_mod _).symm)
    · exact pure (exec_thrTbw ..) rfl (b0.setEntry_mod _ _).symm
    · have immediate : b.immediate i = i.signExtend 32 := by rw [ThrBlock.immediate, hl]; rfl
      refine (thrMovi_goes ⟨hi, hb⟩ hs d i).trans ?_
      rw [immediate]
      exact congrArg (fun z => Host.Outcome.next (s.setBlock core (some z)))
        (ThrBlock.without_limm (b := (b.counted false).setReg d (i.signExtend 32)) hl)
    · intro register y
      have legal := operandBad_eq_false register
      have alu {m : Instr} {g : Word → Word → Word} {v : Word} (hm : exec m s = thrAlu g d a i s) (value : g A y = v) :
          becomes m (b0.setReg d v) := pure hm legal (congrArg (b0.setReg d) value)
      exact ⟨alu (exec_thrAdd ..) rfl, alu (exec_thrSub ..) rfl, alu (exec_thrAnd ..) rfl, alu (exec_thrOr ..) rfl, alu (exec_thrXor ..) rfl,
        alu (exec_thrShl ..) (opShl_eq A y.toNat), alu (exec_thrShr ..) (opShr_eq A y.toNat),
        alu (exec_thrSar ..) ((congrArg A.sshiftRight (Nat.min_comm 31 _)).trans (opSar_eq A y.toNat))⟩
    · intro hc unused taken
      have decides : b0.holds c A = true ↔ taken := b0.holds_iff hc
      refine ⟨fun yes => pure (exec_thrBr ..) (branchLegal hc unused) ?_, fun no => pure (exec_thrBr ..) (branchLegal hc unused) ?_⟩
      · exact (if_pos (decides.2 yes)).trans (congrArg (fun z => { b0 with pc := z }) (branchTarget_eq b.pc i))
      · exact if_neg (mt decides.1 no)
  · intro s core b i d k hi hb hs b0
    have here := inThresher_of_slot hi
    refine ⟨?_, ?_, fun hl => ?_⟩
    · exact (exec_hnop s).trans ((if_pos here).trans (issueThr_goes ⟨hi, hb⟩ hs (.inr rfl) rfl rfl))
    · exact (exec_limm i s).trans ((if_pos here).trans (issueThr_goes ⟨hi, hb⟩ hs (.inr rfl) rfl rfl))
    · have immediate : b.immediate k = (i ++ k).signExtend 32 := by rw [ThrBlock.immediate, hl]; rfl
      exact immediate ▸ thrMovi_goes ⟨hi, hb⟩ hs d k
  · intro s core b i d k hi hb hs
    have here := inThresher_of_slot hi
    refine ⟨fun w hw => ?_, fun hl => ?_, fun top w hw => ?_⟩
    · simp only [List.mem_cons, List.not_mem_nil, or_false] at hw
      rcases hw with rfl | rfl | rfl
      · exact (exec_sat s).trans ((if_pos here).trans (issueThr_illegal ⟨hi, hb⟩ hs))
      · exact (exec_placement s).trans ((if_pos here).trans (issueThr_illegal ⟨hi, hb⟩ hs))
      · exact unassignedMajor_thresher ⟨hi, hb⟩ hs
    · rw [exec_thrAdd, execThrAdd, thrAlu, issueThrPure]
      exact issueThr_unextended ⟨hi, hb⟩ hs hl
    · simp only [List.mem_cons, List.not_mem_nil, or_false] at hw
      rcases hw with rfl | rfl | rfl
      · exact (exec_hnop s).trans ((if_pos here).trans (issueThr_passesLimit ⟨hi, hb⟩ top (.inr rfl)))
      · exact (exec_limm i s).trans ((if_pos here).trans (issueThr_passesLimit ⟨hi, hb⟩ top (.inr rfl)))
      · exact (exec_thrMovi ..).trans (issueThr_passesLimit ⟨hi, hb⟩ top (.inr rfl))

end

section
-- One proof is elaborated at a time: the check bounds the threads of the whole text.
set_option Elab.async false
/-! SUPPORT for O31: the bytes that a block puts out (R281). -/

namespace Sys2Proof.Machine

variable {s : State} {core n : Nat} {b : ThrBlock}

theorem leBytes_eq_map (n v : Nat) : leBytes n v = (List.range n).map fun j => BitVec.ofNat 8 (v / 2 ^ (8 * j)) := by
  refine List.ext_getElem? fun j => ?_
  by_cases hj : j < n
  · rw [leBytes_getElem? _ hj]; simp [hj]
  · rw [List.getElem?_eq_none (by rw [leBytes_length]; omega)]; simp [hj]

/-- The low bytes of a word. -/
theorem leBytes_word (n : Nat) (w : Word) : leBytes n w.toNat = (List.range n).map fun j => w.extractLsb' (8 * j) 8 := by
  rw [leBytes_eq_map]
  exact List.map_congr_left fun j _ => by rw [BitVec.extractLsb', Nat.shiftRight_eq_div_pow]

/-- A byte put into the tile of a block (R281). -/
def ThrBlock.put (b : ThrBlock) (s : State) (k : Nat) (y : Byte) : State := s.writePlace (.loft b.input.team b.tile k) [y] b.input.tag

/-- A block that has put out more bytes. -/
def ThrBlock.gave (b : ThrBlock) (ys : List Byte) : ThrBlock :=
  { b with emitted := b.emitted + ys.length, history := (ys.reverse ++ b.history).take 256 }

theorem ThrBlock.gave_gave (b : ThrBlock) (y : Byte) (ys : List Byte) : (b.gave [y]).gave ys = b.gave (y :: ys) := by
  have history : (ys.reverse ++ (y :: b.history).take 256).take 256 = (ys.reverse ++ y :: b.history).take 256 := by
    rw [List.take_append, List.take_append, List.take_take, Nat.min_eq_left (Nat.sub_le ..)]
  have emitted : b.emitted + 1 + ys.length = b.emitted + (ys.length + 1) := by omega
  simp only [ThrBlock.gave, List.reverse_cons, List.append_assoc, List.reverse_nil, List.nil_append, List.singleton_append,
    List.length_cons, List.length_nil, Nat.zero_add, history, emitted]

theorem emitBytes_cons (y : Byte) (ys : List Byte) (t : Threshed) (room : t.b.emitted + (y :: ys).length ≤ 4096) :
    emitBytes (y :: ys) t = { t with
      s := ((y :: ys).zip (List.range (y :: ys).length)).foldl (fun u z => t.b.put u (t.b.emitted + z.2) z.1) t.s, b := t.b.gave (y :: ys) } := by
  induction ys generalizing y t with
  | nil =>
    have fits : ¬4096 ≤ t.b.emitted := by simp only [List.length_singleton] at room; omega
    simp only [emitBytes, if_neg fits]
    rfl
  | cons z zs ih =>
    have fits : ¬4096 ≤ t.b.emitted := by simp only [List.length_cons] at room; omega
    have step : emitBytes (y :: z :: zs) t = emitBytes (z :: zs) { t with s := t.b.put t.s t.b.emitted y, b := t.b.gave [y] } := by
      rw [emitBytes, if_neg fits]
      rfl
    rw [step, ih z _ (by simp only [ThrBlock.gave, List.length_cons, List.length_nil] at room ⊢; omega), ThrBlock.gave_gave]
    have shifted (k : Nat) : (t.b.gave [y]).emitted + k = t.b.emitted + (k + 1) := by
      simp only [ThrBlock.gave, List.length_singleton]; omega
    simp only [shifted]
    rw [List.length_cons (a := y), List.range_succ_eq_map, List.zip_cons_cons, List.foldl_cons, List.zip_map_right, List.foldl_map]
    rfl

/-- The bytes that fit go to the tile in their order, and stand newest first in the history. -/
theorem emitBytes_eq {ys : List Byte} (some_ : ys ≠ []) (t : Threshed) (room : t.b.emitted + ys.length ≤ 4096) :
    emitBytes ys t = { t with
      s := (ys.zip (List.range ys.length)).foldl (fun u z => t.b.put u (t.b.emitted + z.2) z.1) t.s, b := t.b.gave ys } := by
  obtain ⟨y, ys, rfl⟩ := List.exists_cons_of_ne_nil some_
  exact emitBytes_cons y ys t room

theorem emitBytes_full {ys : List Byte} (some_ : ys ≠ []) (t : Threshed) (full : 4096 ≤ t.b.emitted) :
    emitBytes ys t = { t with status := some 3 } := by
  obtain ⟨y, ys, rfl⟩ := List.exists_cons_of_ne_nil some_
  rw [emitBytes, if_pos full]

/-- A copy of one byte takes it from the history. -/
theorem copyHistory_one (distance : Nat) (t : Threshed) (goes : t.status = none) (room : t.b.emitted < 4096) :
    let y := t.b.history.getD (distance - 1) 0
    copyHistory distance 1 t = { t with s := t.b.put t.s t.b.emitted y, b := t.b.gave [y] } := by
  intro y
  have one : copyHistory distance 1 t = emitBytes [y] t := by rw [copyHistory, goes]; rfl
  rw [one, emitBytes_cons y [] t room]
  rfl

end Sys2Proof.Machine
end

section
-- One proof is elaborated at a time: the check bounds the threads of the whole text.
set_option Elab.async false
/-! SUPPORT for O31: the bits that a block takes (R271, R281). -/

namespace Sys2Proof.Machine

variable {s : State} {core n k : Nat} {b : ThrBlock} {bs : List Byte}

/-- Bit j of a list of bytes lies in byte j / 8. -/
theorem testBit_leNat (l : List Byte) (j : Nat) : (leNat l).testBit j = (l.getD (j / 8) 0).getLsbD (j % 8) := by
  induction l generalizing j with
  | nil => simp [leNat]
  | cons y l ih =>
    rw [leNat, show y.toNat + 256 * leNat l = 2 ^ 8 * leNat l + y.toNat by omega, Nat.testBit_two_pow_mul_add _ y.isLt]
    split
    · next low => rw [Nat.div_eq_of_lt low, Nat.mod_eq_of_lt low]; rfl
    · next high =>
      obtain ⟨i, rfl⟩ := Nat.exists_eq_add_of_le (Nat.not_lt.1 high)
      rw [Nat.add_sub_cancel_left, ih, Nat.add_comm 8 i, Nat.add_div_right _ (by decide), Nat.add_mod_right, List.getD_cons_succ]

/-- The sector that a block keeps is not read again. -/
theorem fetchSector_kept (h : b.sector = some (k, bs)) : fetchSector s core b k = .ok (bs, b) := by
  simp only [fetchSector, h, if_true]

theorem sectorAtBit_kept (h : b.sector = some (b.bit / 256, bs)) : sectorAtBit s core b = b.sector := by
  rw [sectorAtBit, fetchSector_kept h]

/-- Bytes of the kept sector. -/
theorem payloadBytes_kept (h : b.sector = some (k, bs)) {i : Nat} (inside : ∀ j, j < n → (i + j) / 32 = k) :
    payloadBytes s core n i b = .ok (leNat ((List.range n).map fun j => bs.getD ((i + j) % 32) 0), b) := by
  induction n generalizing i with
  | zero => rfl
  | succ n ih =>
    have rest := ih (i := i + 1) fun j hj => by rw [Nat.add_assoc, Nat.add_comm 1 j]; exact inside (j + 1) (by omega)
    have here : i / 32 = k := inside 0 (Nat.succ_pos n)
    rw [payloadBytes, here, fetchSector_kept h]
    simp only [rest, List.range_succ_eq_map, List.map_cons, List.map_map, leNat, Function.comp_def, Nat.add_zero]
    simp only [Nat.succ_eq_add_one, Nat.add_assoc, Nat.add_comm 1]

/-- A get whose bits lie in the kept sector gives them, the lowest first. -/
theorem getBits_kept (h : b.sector = some (k, bs)) (lo : 256 * k ≤ b.bit) (hi : b.bit + n ≤ 256 * (k + 1)) (hn : 0 < n) (stored : k < b.sectors) :
    ∃ y, getBits s core b n = .ok (y, b) ∧ y < 2 ^ n ∧
      ∀ j, j < n → y.testBit j = (bs.getD ((b.bit + j) % 256 / 8) 0).getLsbD ((b.bit + j) % 8) := by
  have within : ¬b.sectors * 256 < b.bit + n := by omega
  have bytes := payloadBytes_kept (s := s) (core := core) (n := (b.bit + n - 1) / 8 - b.bit / 8 + 1) (i := b.bit / 8) h
    fun j hj => by omega
  rw [getBits, if_neg within]
  simp only [bytes]
  refine ⟨_, rfl, Nat.mod_lt _ (Nat.two_pow_pos n), fun j hj => ?_⟩
  have byte : (b.bit % 8 + j) / 8 < (b.bit + n - 1) / 8 - b.bit / 8 + 1 := by omega
  have place : (b.bit / 8 + (b.bit % 8 + j) / 8) % 32 = (b.bit + j) % 256 / 8 := by omega
  rw [Nat.testBit_mod_two_pow, Nat.testBit_div_two_pow, testBit_leNat, decide_eq_true hj, Bool.true_and, Nat.add_comm j,
    List.getD_eq_getElem?_getD, List.getElem?_map, List.getElem?_range byte, Option.map_some, Option.getD_some, place, Nat.mod_add_mod]

theorem getBits_overrun (h : b.sectors * 256 < b.bit + n) : getBits s core b n = .error 2 := if_pos h

/-! ### THR.get and THR.peek -/

theorem bitCountBad_iff (n : BitVec 6) : bitCountBad n = true ↔ n = 0 ∨ 32 < n.toNat := by simp [bitCountBad]

theorem bitCountBad_eq_false {n : BitVec 6} (least : 1 ≤ n.toNat) (most : n.toNat ≤ 32) : bitCountBad n = false := by
  rw [← Bool.not_eq_true, bitCountBad_iff]
  rintro (rfl | above)
  · exact absurd least (by decide)
  · omega

/-- The block behind a THR.get, or a THR.peek, that took the value y and left the block b1. -/
def ThrBlock.took (b : ThrBlock) (advance : Bool) (s : State) (core : Nat) (d : BitVec 4) (n y : Nat) (b1 : ThrBlock) : ThrBlock :=
  if advance then { b1.setReg d (BitVec.ofNat 32 y) with bit := b1.bit + n }
  else { b1.setReg d (BitVec.ofNat 32 y) with sector := sectorAtBit s core b }

section Take

variable {r : BitVec 6} (advance : Bool) (d : BitVec 4) (h : Threshes s core b)
include h

theorem takeBits_illegal (hs : b.steps ≤ 1048576) (bad : r = 0 ∨ 32 < r.toNat) :
    takeBits advance d r s = .next (endBlock s core b 1 b.pc) := by
  rw [takeBits, (bitCountBad_iff r).2 bad]
  exact issueThr_illegal h hs

variable (hs : b.steps < 1048576) (hl : b.limm = none) (least : 1 ≤ r.toNat) (most : r.toNat ≤ 32)
include hs hl least most

theorem takeBits_goes {y : Nat} {b1 : ThrBlock} (got : getBits s core (b.counted false) r.toNat = .ok (y, b1)) :
    takeBits advance d r s = .next (s.setBlock core (some ((b.counted false).took advance s core d r.toNat y b1))) := by
  rw [takeBits, bitCountBad_eq_false least most, issueThr_goes h hs (.inl hl) rfl (by rw [got])]
  simp only [got]
  rfl

theorem takeBits_ends {c : Nat} (failed : getBits s core (b.counted false) r.toNat = .error c) :
    takeBits advance d r s = .next (endBlock s core (b.counted false) c 0) := by
  rw [takeBits, bitCountBad_eq_false least most]
  exact issueThr_ends h hs (.inl hl) (r := { s := s, b := b.counted false, status := some c }) (by simp only [failed]) rfl

end Take

/-! ### THR.emit and THR.copy -/

/-- A THR.emit of 1 to 4 bytes is legal. -/
theorem thrEmit_eq {k : BitVec 3} (a : BitVec 4) (s : State) (least : 1 ≤ k.toNat) (most : k.toNat ≤ 4) : exec (.thrEmit a k) s =
    issueThr false false false
      (fun _ s b => emitBytes ((List.range k.toNat).map fun j => (b.reg a).extractLsb' (8 * j) 8) { s := s, b := b }) s := by
  have legal : (k == 0 || decide (4 < k.toNat)) = false := by
    rw [Bool.or_eq_false_iff, decide_eq_false_iff_not, beq_eq_false_iff_ne]
    exact ⟨fun h => absurd least (by rw [h]; decide), Nat.not_lt.2 most⟩
  rw [exec_thrEmit, execThrEmit, legal]
  simp only [leBytes_word]

/-- What a THR.copy does: its distance is checked before any byte is put out. -/
def copyFrom (d a : BitVec 4) (s : State) (b : ThrBlock) : Threshed :=
  if (b.reg d).toNat = 0 ∨ 256 < (b.reg d).toNat ∨ b.emitted < (b.reg d).toNat then { s := s, b := b, status := some 4 }
  else copyHistory (b.reg d).toNat (min 4097 (b.reg a).toNat) { s := s, b := b }

theorem thrCopy_eq (d a : BitVec 4) (s : State) : exec (.thrCopy d a) s = issueThr false false false (fun _ => copyFrom d a) s := rfl

end Sys2Proof.Machine
end

section
-- One proof is elaborated at a time: the check bounds the threads of the whole text.
set_option Elab.async false
/-! PROOF of O31: the thresher's words over the bit stream and the output. -/

open Sys2Proof Sys2Proof.Machine

/-- Settles O31: every word is one issue of the thresher slot; what it emits is `emitBytes_eq`, and what it takes from a kept sector is
`getBits_kept`. -/
theorem thresherStreamWords : Obligations.ThresherStreamWords := by
  unfold Obligations.ThresherStreamWords
  refine ⟨?_, fun s core b n k bs kept _ lo hi hn stored => getBits_kept kept lo hi hn stored⟩
  intro s core b d a n k m hi hb hs hl b0 becomes ends put
  have here : Threshes s core b := ⟨hi, hb⟩
  refine ⟨fun least most => ⟨fun y b1 got => ⟨?_, ?_, ?_⟩, fun past => ?_⟩, fun bad => ?_, fun b1 filled => ?_, ?_, ?_, ?_, ?_⟩
  · exact (exec_thrGet d n s).trans (takeBits_goes true d here hs hl least most got)
  · exact (exec_thrPeek d n s).trans (takeBits_goes false d here hs hl least most got)
  · exact fun bs kept => sectorAtBit_kept (b := b0) kept
  · have failed : getBits s core b0 n.toNat = .error 2 := getBits_overrun past
    exact ⟨(exec_thrGet d n s).trans (takeBits_ends true d here hs hl least most failed),
      (exec_thrPeek d n s).trans (takeBits_ends false d here hs hl least most failed)⟩
  · exact ⟨(exec_thrGet d n s).trans (takeBits_illegal true d here hs.le bad),
      (exec_thrPeek d n s).trans (takeBits_illegal false d here hs.le bad)⟩
  · exact (exec_thrRefill a m s).trans (issueThr_goes here hs (.inl hl) (r := { s := s, b := b1 })
      (congrArg (fun r : ThrBlock × Option Nat => ({ s := s, b := r.1, status := r.2 } : Threshed)) filled) rfl)
  · intro least most room ys
    have count : ys.length = k.toNat := by simp [ys]
    have emitted := emitBytes_eq (List.ne_nil_of_length_pos (by omega)) { s := s, b := b0 } (ys := ys) (by rw [count]; exact room)
    have goes := (thrEmit_eq a s least most).trans (issueThr_goes here hs (.inl hl) emitted rfl)
    simp only [ThrBlock.gave, count] at goes
    exact goes
  · intro least most full
    have some_ : (List.range k.toNat).map (fun j => (b.reg a).extractLsb' (8 * j) 8) ≠ [] :=
      List.ne_nil_of_length_pos (by rw [List.length_map, List.length_range]; exact least)
    exact (thrEmit_eq a s least most).trans (issueThr_ends here hs (.inl hl)
      (r := { s := s, b := b0, status := some 3 }) (emitBytes_full some_ { s := s, b := b0 } full.ge) rfl)
  · intro distance
    have copies (least : 1 ≤ distance) (most : distance ≤ 256) (held : distance ≤ b.emitted) :
        copyFrom d a s b0 = copyHistory distance (min 4097 (b.reg a).toNat) { s := s, b := b0 } := by
      have valid : ¬(distance = 0 ∨ 256 < distance ∨ b.emitted < distance) := by omega
      exact if_neg valid
    refine ⟨fun bad => ?_, fun least most held none_ => ?_, fun least most held r copied => ?_, fun least most held one room => ?_⟩
    · exact (thrCopy_eq d a s).trans (issueThr_ends here hs (.inl hl) (r := { s := s, b := b0, status := some 4 }) (if_pos bad) rfl)
    · have nothing : copyFrom d a s b0 = { s := s, b := b0 } := by rw [copies least most held, none_]; rfl
      exact (thrCopy_eq d a s).trans (issueThr_goes here hs (.inl hl) (r := { s := s, b := b0 }) nothing rfl)
    · have same := (copies least most held).trans copied
      exact ⟨fun goes => (thrCopy_eq d a s).trans (issueThr_goes here hs (.inl hl) same goes),
        fun c failed => (thrCopy_eq d a s).trans (issueThr_ends here hs (.inl hl) same failed)⟩
    · have single := copyHistory_one distance { s := s, b := b0 } rfl room
      have byte := copies least most held
      rw [one] at byte
      have goes := (thrCopy_eq d a s).trans (issueThr_goes here hs (.inl hl) (byte.trans single) rfl)
      exact goes
  · exact (exec_thrHalt s).trans (issueThr_ends here hs (.inl hl) rfl rfl)

end

section
-- One proof is elaborated at a time: the check bounds the threads of the whole text.
set_option Elab.async false
/-! SUPPORT for O48: the copy-convert engine (R260, R265 to R267, R271, R272). -/

namespace Sys2Proof.Machine

variable {s : State} {c : Command} {k : Nat}

/-- The head command of an engine is carried out when it is of the kind of the row. -/
theorem engineEvent_next {e : Engine} {k : Nat} {f : Command → State → Option State} {t : State} (head : headCommand s e = some c)
    (kind : cmdKind c.word = k) (done : f c s = some t) : engineEvent e k f s = .next t := by
  simp only [engineEvent, head, kind, if_true, done]

/-! ### Copies and conversions (R265 to R267) -/

/-- The accesses of a copy or a conversion, in the order of its elements. -/
def Command.copyAccesses (c : Command) : List Span :=
  (List.range (cmdCount c.desc)).flatMap fun i =>
    elementSpans .load (cmdSource c.engine c.word c.desc) (cmdField c.word 16 4) (descWord c.desc 5) i
      ++ elementSpans .store (cmdDest c.engine c.word c.desc) (cmdField c.word 20 4) (descWord c.desc 6) i

theorem foldl_append_copied (f : Nat → Copied) (ks : List Nat) (a : Copied) :
    ks.foldl (fun b k => b.append (f k)) a = { data := a.data ++ ks.flatMap fun k => (f k).data
                                               scales := a.scales ++ ks.flatMap fun k => (f k).scales
                                               flags := ks.foldl (fun fs k => fs ||| (f k).flags) a.flags } := by
  induction ks generalizing a with
  | nil => simp
  | cons k ks ih => rw [List.foldl_cons, ih]; simp [Copied.append]

/-- Unit i of a conversion between formats without blocks is its element i (R267). -/
theorem convertUnit_plain {sf df : Nat} (hs : isBlock sf = false) (hd : isBlock df = false) (i : Nat) :
    let x := readSpan s c.accessor ((cmdSource c.engine c.word c.desc).plus (copyBits sf / 8 * i : Nat)) (copyBits sf / 8)
    let v := elemToPlain df (commandRounding s c i) ((s.amr c.ctx).getLsbD 6) 0 (readElem sf ((s.amr c.ctx).getLsbD 5) (leNat x.1))
    convertUnit s c sf df i = { data := (leBytes (copyBits df / 8) v.1).map (fun b => (b, x.2)), scales := [], flags := v.2 } := by
  have start (f : BitVec 9) : 0 ||| f = f := BitVec.zero_or
  simp only [convertUnit, sourceElems, hs, hd, Bool.or_self, Bool.false_eq_true, if_false, List.range_one, List.map_cons, List.map_nil,
    List.length_cons, List.length_nil, Nat.zero_add, List.zip_cons_cons, List.zip_nil_right, List.foldl_cons, List.foldl_nil,
    Copied.append, withPoison, List.nil_append, Nat.add_zero, start]

theorem copyAll_plain (hs : isBlock (cmdField c.word 16 4) = false) (hd : isBlock (cmdField c.word 20 4) = false)
    (typed : cmdField c.word 16 4 ≠ 0) :
    let out := (List.range (cmdCount c.desc)).map (convertUnit s c (cmdField c.word 16 4) (cmdField c.word 20 4))
    copyAll s c = { data := out.flatMap (·.data), scales := [], flags := out.foldl (fun f r => f ||| r.flags) 0 } := by
  have lb8 : ¬(cmdField c.word 16 4 = 4 ∧ cmdField c.word 20 4 = 4) := fun h => by rw [h.1] at hs; exact absurd hs (by decide)
  have noScales : (List.range (cmdCount c.desc)).flatMap
      (fun k => (convertUnit s c (cmdField c.word 16 4) (cmdField c.word 20 4) k).scales) = [] := by
    simp only [convertUnit_plain hs hd, List.flatMap_eq_nil_iff, implies_true]
  simp only [copyAll, if_neg typed, hs, hd, Bool.or_self, Bool.false_eq_true, if_false, if_neg lb8, foldl_append_copied, noScales,
    List.nil_append, List.flatMap_map, List.foldl_map]

theorem copyAll_untyped (h : cmdField c.word 16 4 = 0) :
    copyAll s c = { data := readStream s c.accessor (cmdSource c.engine c.word c.desc) (cmdCount c.desc) } := if_pos h

section Copies

variable (head : headCommand s (.copy s.event.num) = some c) (kind : cmdKind c.word = 0)
include head kind

theorem copyOrConvert_fails {f : Failure} (h : spanFailure s c.accessor c.copyAccesses = some f) :
    exec .copyOrConvert s = .next (endCommand s c 0 f.status f.addr) := by
  rw [Command.copyAccesses] at h
  refine (exec_copyOrConvert s).trans (engineEvent_next (f := performCopy) head kind ?_)
  simp only [performCopy, h, endOr]

/-- A copy whose accesses all pass writes its data and then its scales. -/
theorem copyOrConvert_writes (h : spanFailure s c.accessor c.copyAccesses = none) {data scales : List (Byte × Bool)} {flags : BitVec 9}
    (out : copyAll s c = { data := data, scales := scales, flags := flags }) : exec .copyOrConvert s = .next (endCommand
      (writeAll (writeAll s c.accessor c.tag (cmdDest c.engine c.word c.desc) data) c.accessor c.tag
        ((cmdDest c.engine c.word c.desc).plus (descWord c.desc 6).toInt) scales) c flags (doneStatus ((data ++ scales).any (·.2))) 0) := by
  rw [Command.copyAccesses] at h
  refine (exec_copyOrConvert s).trans (engineEvent_next (f := performCopy) head kind ?_)
  simp only [performCopy, h, endOr, out]

/-- As copyOrConvert_writes, where no scale is written. -/
theorem copyOrConvert_writesData (h : spanFailure s c.accessor c.copyAccesses = none) {data : List (Byte × Bool)} {flags : BitVec 9}
    (out : copyAll s c = { data := data, flags := flags }) : exec .copyOrConvert s = .next (endCommand
      (writeAll s c.accessor c.tag (cmdDest c.engine c.word c.desc) data) c flags (doneStatus (data.any (·.2))) 0) := by
  rw [copyOrConvert_writes head kind h out, List.append_nil]
  rfl

end Copies

/-! ### Blocks that are expanded (R271, R272) -/

theorem BaleHeader.usable_iff (h : BaleHeader) : h.usable = true ↔ h.formed = true ∧ h.mode ≠ 3 := by simp [BaleHeader.usable]

/-- The header of block k of an EXPAND. -/
def expandHead (s : State) (c : Command) (k : Nat) : BaleHeader := baleHeader (expandHeader s c k).1

/-- The payload of block k of an EXPAND. -/
def expandPayload (s : State) (c : Command) (k : Nat) : List (Byte × Bool) :=
  readStream s c.accessor (.va (expandHead s c k).payload) (32 * (expandHead s c k).sectors)

theorem BaleHeader.sectorAt_zero (h : BaleHeader) : h.sectorAt 0 = .va h.payload := by simp [BaleHeader.sectorAt]

theorem expandSource_eq (s : State) (c : Command) (k : Nat) :
    expandSource s c k = (expandHead s c k, (expandHeader s c k).2, expandPayload s c k) := by
  simp only [expandSource, BaleHeader.sectorAt_zero]
  rfl

/-- The first header that an EXPAND refuses when it has read all of them (log entry 24, DEDUCED). -/
def refusedHeader (s : State) (c : Command) : Option Nat :=
  if (List.range (cmdCount c.desc)).all (headerRead s c) then
    (List.range (cmdCount c.desc)).find? (fun k => !(expandHead s c k).usable) else none

theorem refusedHeader_eq_some {k : Nat} (reads : ∀ j, j < cmdCount c.desc → headerRead s c j = true) (hk : k < cmdCount c.desc)
    (bad : (expandHead s c k).usable = false) (good : ∀ j, j < k → (expandHead s c j).usable = true) : refusedHeader s c = some k := by
  have all : (List.range (cmdCount c.desc)).all (headerRead s c) = true := by simpa using reads
  rw [refusedHeader, if_pos all, List.find?_range_eq_some]
  exact ⟨by simp [bad], by simpa using hk, fun j hj => by simp [good j hj]⟩

theorem refusedHeader_eq_none (h : (∀ j, j < cmdCount c.desc → headerRead s c j = true) →
    ∀ k, k < cmdCount c.desc → (expandHead s c k).usable = true) : refusedHeader s c = none := by
  unfold refusedHeader
  split
  · next all =>
    rw [List.find?_range_eq_none]
    intro k hk
    simp [h (by simpa using all) k hk]
  · rfl

/-- The accesses of a block, its payload's where its header was read and can be carried out. -/
theorem expandSpans_eq {good : Prop} [Decidable good] (h : (expandHead s c k).usable = true ↔ good) : expandSpans s c k =
    [({ kind := .load, addr := headerAddr c k, bytes := 16 } : Span)]
    ++ (if headerRead s c k = true ∧ good then
        (List.range (expandHead s c k).sectors).map (fun j => ({ kind := .load, addr := (expandHead s c k).sectorAt j, bytes := 32 } : Span))
      else [])
    ++ byteSpans .store ((cmdDest c.engine c.word c.desc).plus (4096 * k : Nat)) 4096 := by
  have named : (headerRead s c k && (expandHead s c k).usable) = true ↔ headerRead s c k = true ∧ good := by rw [Bool.and_eq_true, h]
  simp only [← named]
  rfl

section Expands

variable (head : headCommand s (.copy s.event.num) = some c) (kind : cmdKind c.word = 1)
include head kind

theorem expand_refuses {k : Nat} (h : refusedHeader s c = some k) : exec .expand s = .next (endCommand s c 0 4 (headerAddr c k).coded) := by
  refine (exec_expand s).trans (engineEvent_next (f := performExpand) head kind ?_)
  simp only [refusedHeader, expandHead] at h
  simp only [performExpand, h]

theorem expand_fails {f : Failure} (h : refusedHeader s c = none)
    (fails : spanFailure s c.accessor ((List.range (cmdCount c.desc)).flatMap (expandSpans s c)) = some f) :
    exec .expand s = .next (endCommand s c 0 f.status f.addr) := by
  refine (exec_expand s).trans (engineEvent_next (f := performExpand) head kind ?_)
  simp only [refusedHeader, expandHead] at h
  simp only [performExpand, h, fails, endOr]

variable (h : refusedHeader s c = none) (passes : spanFailure s c.accessor ((List.range (cmdCount c.desc)).flatMap (expandSpans s c)) = none)
include h passes

theorem expand_reads : exec .expand s = .next (match (List.range (cmdCount c.desc)).find?
      (fun k => !maskFits (expandHead s c k) (expandPayload s c k)) with
    | some k => endCommand s c 0 4 (headerAddr c k).coded
    | none =>
      let out := (List.range (cmdCount c.desc)).flatMap fun k =>
        (expandBlock (expandHead s c k) (expandPayload s c k)).map fun y => (y.1, y.2 || (expandHeader s c k).2)
      endCommand (writeAll s c.accessor c.tag (cmdDest c.engine c.word c.desc) out) c 0 (doneStatus (out.any (·.2))) 0) := by
  refine (exec_expand s).trans (engineEvent_next (f := performExpand) head kind ?_)
  simp only [refusedHeader, expandHead] at h
  simp only [performExpand, h, passes, endOr, expandSource_eq, List.flatMap_map] <;> rfl

theorem expand_misfits {k : Nat} (hk : k < cmdCount c.desc) (bad : maskFits (expandHead s c k) (expandPayload s c k) = false)
    (good : ∀ j, j < k → maskFits (expandHead s c j) (expandPayload s c j) = true) :
    exec .expand s = .next (endCommand s c 0 4 (headerAddr c k).coded) := by
  have first : (List.range (cmdCount c.desc)).find? (fun k => !maskFits (expandHead s c k) (expandPayload s c k)) = some k := by
    rw [List.find?_range_eq_some]
    exact ⟨by simp [bad], by simpa using hk, fun j hj => by simp [good j hj]⟩
  rw [expand_reads head kind h passes, first]

theorem expand_writes (fit : ∀ k, k < cmdCount c.desc → maskFits (expandHead s c k) (expandPayload s c k) = true) :
    let out := (List.range (cmdCount c.desc)).flatMap fun k =>
      (expandBlock (expandHead s c k) (expandPayload s c k)).map fun y => (y.1, y.2 || (expandHeader s c k).2)
    exec .expand s = .next (endCommand (writeAll s c.accessor c.tag (cmdDest c.engine c.word c.desc) out) c 0
      (doneStatus (out.any (·.2))) 0) := by
  have none_ : (List.range (cmdCount c.desc)).find? (fun k => !maskFits (expandHead s c k) (expandPayload s c k)) = none := by
    rw [List.find?_range_eq_none]
    intro k hk
    simp [fit k hk]
  rw [expand_reads head kind h passes, none_]

end Expands

end Sys2Proof.Machine
end

section
-- One proof is elaborated at a time: the check bounds the threads of the whole text.
set_option Elab.async false
/-! SUPPORT for O48: the gather-scatter engine (R260, R273, R274). -/

namespace Sys2Proof.Machine

variable {s t : State} {c : Command} {f : Failure}

theorem State.contexts_setLoftTile (s : State) (k : Nat) (y : Tile) : (s.setLoftTile k y).contexts = s.contexts := by
  unfold State.setLoftTile
  split <;> rfl

theorem State.contexts_setBarnTile (s : State) (l k : Nat) (y : Tile) : (s.setBarnTile l k y).contexts = s.contexts := by
  unfold State.setBarnTile
  split <;> rfl

theorem State.amr_of_contexts (h : t.contexts = s.contexts) (ctx : Nat) : t.amr ctx = s.amr ctx := by
  rw [State.amr, State.sys, State.context, h]
  rfl

/-- A write at a place leaves the system registers. -/
theorem State.amr_writePlace (s : State) (p : Place) (bs : List Byte) (tag : BitVec 64) (own : Option OwnAccess) (ctx : Nat) :
    (s.writePlace p bs tag own).amr ctx = s.amr ctx := by
  have put : (s.putPlace p bs).contexts = s.contexts := by
    cases p with
    | mem => rfl
    | window => rfl
    | loft => simp only [State.putPlace]; split <;> simp only [State.contexts_setLoftTile]
    | barn => simp only [State.putPlace]; split <;> simp only [State.contexts_setBarnTile]
  unfold State.writePlace
  split
  · rfl
  · exact State.amr_of_contexts put ctx

/-- So does poison at a place. -/
theorem State.amr_poisonPlace (s : State) (p : Place) (n ctx : Nat) : (s.poisonPlace p n).amr ctx = s.amr ctx := by
  refine State.amr_of_contexts ?_ ctx
  cases p with
  | mem => rfl
  | window => rfl
  | loft => simp only [State.poisonPlace]; split <;> simp only [State.contexts_setLoftTile]
  | barn => simp only [State.poisonPlace]; split <;> simp only [State.contexts_setBarnTile]

/-! ### Lists and runs -/

/-- A state and a mark that are changed side by side. -/
theorem foldl_beside {α β : Type} (g : α → β → α) (bad : β → Bool) (ks : List β) (a : α) (m : Bool) :
    ks.foldl (fun (r : α × Bool) k => (g r.1 k, r.2 || bad k)) (a, m) = (ks.foldl g a, m || ks.any bad) := by
  induction ks generalizing a m with
  | nil => simp
  | cons k ks ih => rw [List.foldl_cons, ih, List.foldl_cons, List.any_cons, Bool.or_assoc]

theorem filterMap_ite {α β : Type} (p : α → Bool) (g : α → β) (ks : List α) :
    ks.filterMap (fun k => if p k then some (g k) else none) = (ks.filter p).map g := by
  induction ks with
  | nil => rfl
  | cons k ks ih => cases hk : p k <;> simp [hk, ih]

/-- The elements of a GATHER, a SCATTER or a SCATTER_ADD that are not skipped. -/
def gatherHits (s : State) (c : Command) : List Nat :=
  (List.range (cmdCount c.desc)).filter fun k => (indexOf s c k).1 < gatherBound c

section Gathers

variable (head : headCommand s (.gather s.event.num) = some c)
include head

theorem gather_fails (kind : cmdKind c.word = 0) (h : gatherFailure s c = some f) :
    exec .gather s = .next (endCommand s c 0 f.status f.addr) := by
  refine (exec_gather s).trans (engineEvent_next (f := performGather) head kind ?_)
  simp only [performGather, h, endOr]

theorem scatter_fails (kind : cmdKind c.word = 1) (h : gatherFailure s c = some f) :
    exec .scatter s = .next (endCommand s c 0 f.status f.addr) := by
  refine (exec_scatter s).trans (engineEvent_next (f := performScatter) head kind ?_)
  simp only [performScatter, h, endOr]

theorem scatterAdd_fails (kind : cmdKind c.word = 2) (fresh : c.work = none) (h : gatherFailure s c = some f) :
    exec .scatterAdd s = .next (endCommand s c 0 f.status f.addr) := by
  refine (exec_scatterAdd s).trans (engineEvent_next (f := performScatterAdd) head kind ?_)
  simp only [performScatterAdd, fresh, h, Option.isSome_none, Bool.false_eq_true, if_false]

/-! ### GATHER -/

/-- The bytes of a GATHER: an element whose index is outside the bound is zero. -/
def gathered (s : State) (c : Command) : List (Byte × Bool) :=
  (List.range (cmdCount c.desc)).flatMap fun k =>
    let i := indexOf s c k
    let r := readSpan s c.accessor ((cmdSource c.engine c.word c.desc).plus (gatherBytes c.word * i.1 : Nat)) (gatherBytes c.word)
    if i.1 < gatherBound c then r.1.map fun b => (b, r.2 || i.2) else List.replicate (gatherBytes c.word) (0, i.2)

theorem gather_writes (kind : cmdKind c.word = 0) (h : gatherFailure s c = none) : exec .gather s = .next (endCommand
    (writeAll s c.accessor c.tag (cmdDest c.engine c.word c.desc) (gathered s c)) c 0 (doneStatus ((gathered s c).any (·.2))) 0) := by
  refine (exec_gather s).trans (engineEvent_next (f := performGather) head kind ?_)
  simp only [performGather, h, endOr, gathered, gatherEnds, kind, if_true, withPoison, List.map_replicate]

/-! ### SCATTER -/

/-- The data of element k, of z bytes, and whether it or its index is poisoned. -/
def scatterData (s : State) (c : Command) (z k : Nat) : List Byte × Bool :=
  let r := readSpan s c.accessor ((cmdSource c.engine c.word c.desc).plus (z * k : Nat)) z
  (r.1, r.2 || (indexOf s c k).2)

theorem scatter_writes (kind : cmdKind c.word = 1) (h : gatherFailure s c = none) : exec .scatter s = .next (endCommand
    ((gatherHits s c).foldl (fun t k => writeSpan t c.accessor
      ((cmdDest c.engine c.word c.desc).plus (gatherBytes c.word * (indexOf s c k).1 : Nat))
      (scatterData s c (gatherBytes c.word) k).1 (scatterData s c (gatherBytes c.word) k).2 c.tag) s)
    c 0 (doneStatus ((gatherHits s c).any fun k => (scatterData s c (gatherBytes c.word) k).2)) 0) := by
  have order : ¬cmdKind c.word = 0 := by rw [kind]; decide
  refine (exec_scatter s).trans (engineEvent_next (f := performScatter) head kind ?_)
  have run := foldl_beside (fun t k => writeSpan t c.accessor
    ((cmdDest c.engine c.word c.desc).plus (gatherBytes c.word * (indexOf s c k).1 : Nat))
    (scatterData s c (gatherBytes c.word) k).1 (scatterData s c (gatherBytes c.word) k).2 c.tag)
    (fun k => (scatterData s c (gatherBytes c.word) k).2) (gatherHits s c) s false
  simp only [gatherHits, List.foldl_filter, decide_eq_true_eq, scatterData, Bool.false_or, ← Bool.or_assoc] at run
  simp only [performScatter, h, endOr, gatherEnds, if_neg order, gatherHits, scatterData, run, List.foldl_filter, decide_eq_true_eq]

/-! ### SCATTER_ADD -/

/-- One element of a SCATTER_ADD of four bytes: a read-modify-write at its place, which poison stays at (R219, R394). -/
def scatterAdded (s : State) (c : Command) (place : Nat → Place) (a : State × BitVec 9 × Bool) (k : Nat) : State × BitVec 9 × Bool :=
  let d := scatterData s c 4 k
  let bad := d.2 || a.1.poisonedPlace (place k) 4
  let w := performRmw a.1 (place k)
    { op := scatterOp c, width := 4, operand := BitVec.ofNat 64 (leNat d.1), cmp := 0, lane := 0 } (s.amr c.ctx) c.tag
  (if bad then w.1.poisonPlace (place k) 4 else w.1, a.2.1 ||| w.2.2, a.2.2 || bad)

omit head in
/-- The elements of a SCATTER_ADD whose places are known. -/
theorem scatterElements_eq (kind : cmdKind c.word = 2) (wide : gatherBytes c.word = 4) {place : Nat → Place}
    (at_ : ∀ k, k < cmdCount c.desc → (indexOf s c k).1 < gatherBound c →
      let a := (cmdDest c.engine c.word c.desc).plus (4 * (indexOf s c k).1 : Nat)
      locate s c.accessor (scatterKind s c a) (scatterOp c) 4 4 a = .ok (place k)) :
    scatterElements s c = (gatherHits s c).map fun k =>
      { bytes := (scatterData s c 4 k).1, bad := (scatterData s c 4 k).2, place := place k } := by
  have order : ¬cmdKind c.word = 0 := by rw [kind]; decide
  rw [gatherHits, ← filterMap_ite, scatterElements]
  refine List.filterMap_congr fun k hk => ?_
  simp only [gatherEnds, if_neg order, wide, decide_eq_true_eq, scatterData]
  split
  · next inside => rw [at_ k (List.mem_range.1 hk) inside]
  · rfl

theorem scatterAdd_adds (kind : cmdKind c.word = 2) (wide : gatherBytes c.word = 4) {place : Nat → Place} {l : Launch}
    (h : gatherFailure s c = none) (hl : s.launch? c.launch = some l) (hm : l.lh.mode = 0)
    (at_ : ∀ k, k < cmdCount c.desc → (indexOf s c k).1 < gatherBound c →
      let a := (cmdDest c.engine c.word c.desc).plus (4 * (indexOf s c k).1 : Nat)
      locate s c.accessor (scatterKind s c a) (scatterOp c) 4 4 a = .ok (place k)) :
    let r := (gatherHits s c).foldl (scatterAdded s c place) (s, 0, false)
    exec .scatterAdd s = .next (endCommand r.1 c r.2.1 (doneStatus r.2.2) 0) := by
  intro r
  have adds : scatterAddAll c s 0 false (scatterElements s c) = r := by
    rw [scatterElements_eq kind wide at_, scatterAddAll, List.foldl_map]
    refine foldl_congr_keeps (P := fun a : State × BitVec 9 × Bool => a.1.amr c.ctx = s.amr c.ctx) _ rfl
      (fun a k same => ?_) fun a k same => ?_
    · have after := performRmw_keeps (P := fun t : State => t.amr c.ctx = s.amr c.ctx) same
        (fun p bs tag own => (State.amr_writePlace ..).trans same) (amr := s.amr c.ctx) (place k)
        { op := scatterOp c, width := 4, operand := BitVec.ofNat 64 (leNat (scatterData s c 4 k).1), cmp := 0, lane := 0 } c.tag none
      simp only [scatterAdded]
      split
      · exact (State.amr_poisonPlace ..).trans (same ▸ after)
      · exact same ▸ after
    · simp only [scatterAddOne, scatterAdded, same]
  have live : ¬l.lh.mode = 2 := by rw [hm]; decide
  have proceed : (if c.work.isSome then none else gatherFailure s c) = none := by rw [h, ite_self]
  refine (exec_scatterAdd s).trans (engineEvent_next (f := performScatterAdd) head kind ?_)
  simp only [performScatterAdd, proceed, hl, Option.map_some, Option.getD_some, if_neg live, chooseAll_free hl hm, adds]

end Gathers

end Sys2Proof.Machine
end

section
-- One proof is elaborated at a time: the check bounds the threads of the whole text.
set_option Elab.async false
/-! SUPPORT for O48: the collectives and LINK_ERROR (R275 to R277). -/

namespace Sys2Proof.Machine

variable {s : State} {c : Command} {xs : List (List Word)}

/-- The bytes of element k that a collective writes, with their poison. -/
def collectiveElement (s : State) (c : Command) (xs : List (List Word)) (k : Nat) : List (Byte × Bool) :=
  (leBytes (collectiveBytes c.word) ((collectiveOut s c xs).1.getD k 0).toNat).map fun b => (b, collectivePoison s c k)

theorem collectiveWrites_eq (s : State) (c : Command) (xs : List (List Word)) : collectiveWrites s c xs =
    ((List.range (collectiveOut s c xs).1.length).map (collectiveElement s c xs), (collectiveOut s c xs).2) := by
  refine Prod.ext (List.ext_getElem (by simp [collectiveWrites]) fun k h _ => ?_) rfl
  have inside : k < (collectiveOut s c xs).1.length := by simpa [collectiveWrites] using h
  simp [collectiveWrites, collectiveElement, withPoison, inside]

/-- The rows of the collectives: the instruction and the kind of command. -/
theorem exec_collective {i : Instr} {k : Nat} (row : (i, k) ∈ [(Instr.allReduce, 0), (.reduceScatter, 1), (.allGather, 2), (.broadcast, 3)]) :
    exec i s = engineEvent .collective k performCollective s := by
  simp only [List.mem_cons, Prod.mk.injEq, List.not_mem_nil, or_false] at row
  rcases row with ⟨rfl, rfl⟩ | ⟨rfl, rfl⟩ | ⟨rfl, rfl⟩ | ⟨rfl, rfl⟩
  exacts [exec_allReduce s, exec_reduceScatter s, exec_allGather s, exec_broadcast s]

/-- The elements that LINK_ERROR can find written: those of a collective whose accesses pass and whose ranks have all sent theirs
(R277; log entry 130, DESIGN CHOICE). -/
def linkElements (s : State) (c : Command) : List (List (Byte × Bool)) :=
  match spanFailure s c.accessor (collectiveSpans s c), rankElements s c with
  | none, some xs => (collectiveWrites s c xs).1
  | _, _ => []

theorem linkElements_unsent (h : rankElements s c = none) : linkElements s c = [] := by
  rw [linkElements, h]
  cases spanFailure s c.accessor (collectiveSpans s c) <;> rfl

theorem linkElements_failed {f : Failure} (h : spanFailure s c.accessor (collectiveSpans s c) = some f) : linkElements s c = [] := by
  rw [linkElements, h]

section Rows

variable (head : headCommand s .collective = some c)
include head

section Kinds

variable {i : Instr} {k : Nat} (row : (i, k) ∈ [(Instr.allReduce, 0), (.reduceScatter, 1), (.allGather, 2), (.broadcast, 3)])
  (kind : cmdKind c.word = k)
include row kind

theorem collective_differs (h : s.event.flag = true) : exec i s = .next (endCommand s c 0 5 0) := by
  refine (exec_collective row).trans (engineEvent_next (f := performCollective) head kind ?_)
  simp only [performCollective, h, if_true]

theorem collective_fails {f : Failure} (same : s.event.flag = false) (h : spanFailure s c.accessor (collectiveSpans s c) = some f) :
    exec i s = .next (endCommand s c 0 f.status f.addr) := by
  refine (exec_collective row).trans (engineEvent_next (f := performCollective) head kind ?_)
  simp only [performCollective, same, Bool.false_eq_true, if_false, h]

theorem collective_writes (same : s.event.flag = false) (h : spanFailure s c.accessor (collectiveSpans s c) = none)
    (brought : rankElements s c = some xs) :
    let out := (List.range (collectiveOut s c xs).1.length).flatMap (collectiveElement s c xs)
    exec i s = .next (endCommand (writeAll s c.accessor c.tag (cmdDest c.engine c.word c.desc) out) c (collectiveOut s c xs).2
      (doneStatus (out.any (·.2))) 0) := by
  refine (exec_collective row).trans (engineEvent_next (f := performCollective) head kind ?_)
  simp only [performCollective, same, Bool.false_eq_true, if_false, h, brought, Option.map_some, collectiveWrites_eq, ← List.flatMap_def]

end Kinds

/-! ### LINK_ERROR -/

theorem exec_linkError_of_head : exec .linkError s = .next (endCommand (s.event.nums.foldl (fun t k =>
    match (linkElements s c)[k]? with
    | some bs => writeAll t c.accessor c.tag ((cmdDest c.engine c.word c.desc).plus (collectiveBytes c.word * k : Nat)) bs
    | none => t) s) c 0 6 (cmdDest c.engine c.word c.desc).coded) := by
  refine (exec_linkError s).trans ?_
  unfold execLinkError
  rw [head]
  rfl

theorem linkError_writesNothing (h : s.event.nums = [] ∨ linkElements s c = []) :
    exec .linkError s = .next (endCommand s c 0 6 (cmdDest c.engine c.word c.desc).coded) := by
  rw [exec_linkError_of_head head]
  rcases h with h | h
  · rw [h, List.foldl_nil]
  · simp only [h, List.getElem?_nil, List.foldl_fixed]

theorem linkError_writes (h : spanFailure s c.accessor (collectiveSpans s c) = none) (brought : rankElements s c = some xs) :
    exec .linkError s = .next (endCommand ((s.event.nums.filter fun k => k < (collectiveOut s c xs).1.length).foldl (fun t k =>
      writeAll t c.accessor c.tag ((cmdDest c.engine c.word c.desc).plus (collectiveBytes c.word * k : Nat)) (collectiveElement s c xs k)) s)
      c 0 6 (cmdDest c.engine c.word c.desc).coded) := by
  rw [exec_linkError_of_head head, List.foldl_filter]
  refine congrArg (fun t => Host.Outcome.next (endCommand t c 0 6 _)) (foldl_congr_mem _ s fun t k _ => ?_)
  have out : linkElements s c = (List.range (collectiveOut s c xs).1.length).map (collectiveElement s c xs) := by
    simp only [linkElements, h, brought, collectiveWrites_eq]
  by_cases inside : k < (collectiveOut s c xs).1.length
  · simp only [out, List.getElem?_map, List.getElem?_range inside, Option.map_some, inside, decide_true, if_true]
  · have past : (List.range (collectiveOut s c xs).1.length)[k]? = none := by simpa using inside
    simp only [out, List.getElem?_map, past, Option.map_none, inside, decide_false, Bool.false_eq_true, if_false]

end Rows

/-- The elements that the ranks bring: this device's own at its rank, the others as the event gives them (log entry 11). -/
theorem rankElements_some (h : rankElements s c = some xs) :
    xs.length = commSize (collectiveComm s c) ∧ ∀ j, j < commSize (collectiveComm s c) →
      xs[j]? = some (if j = commRank (collectiveComm s c) then
        (List.range (cmdCount c.desc)).map (fun k => BitVec.ofNat 32 (leNat (readSpan s c.accessor
          ((cmdSource c.engine c.word c.desc).plus (collectiveBytes c.word * k : Nat)) (collectiveBytes c.word)).1))
        else s.event.ranks.getD j []) := by
  simp only [rankElements] at h
  split at h
  · cases h
  · cases h
    exact ⟨by simp, fun j hj => by simp [hj]⟩

/-! ### Reductions (R276) -/

section Ops

variable {amr : Word} {w : BitVec 64} {k : Nat} (op : cmdField w 16 2 = k) (a b : Word)
include op

theorem reduceOp_sum (h : k = 0) : let m : LnFmt := if cmdField w 18 3 = 1 then .ln16 else .ln32
    reduceOp amr w a b = if cmdField w 18 3 = 3 then (a + b, 0) else
      (BitVec.ofNat 32 (lnCode m (lnAdd m (roundAmr amr) (lnVal m a.toNat) (lnVal m b.toNat)).1),
        (lnAdd m (roundAmr amr) (lnVal m a.toNat) (lnVal m b.toNat)).2) := by
  simp only [reduceOp, op, h, lnAddCode]

theorem reduceOp_min (h : k = 1) : let m : LnFmt := if cmdField w 18 3 = 1 then .ln16 else .ln32
    reduceOp amr w a b = if cmdField w 18 3 = 3 then (if a.toInt ≤ b.toInt then a else b, 0) else
      (BitVec.ofNat 32 (lnCode m (lnMin m (lnVal m a.toNat) (lnVal m b.toNat))), 0) := by
  simp only [reduceOp, op, h]

theorem reduceOp_max {j : Nat} (h : k = j + 2) : let m : LnFmt := if cmdField w 18 3 = 1 then .ln16 else .ln32
    reduceOp amr w a b = if cmdField w 18 3 = 3 then (if a.toInt ≤ b.toInt then b else a, 0) else
      (BitVec.ofNat 32 (lnCode m (lnMax m (lnVal m a.toNat) (lnVal m b.toNat))), 0) := by
  simp only [reduceOp, op, h]

end Ops

section Sums

variable {g : Nat → Word × BitVec 9} (sums : reduceElement (s.amr c.ctx) c.word (cmdCount c.desc) xs = g)
include sums

theorem collectiveOut_allReduce (kind : cmdKind c.word = 0) : collectiveOut s c xs =
    ((List.range (cmdCount c.desc)).map (fun k => (g k).1), (List.range (cmdCount c.desc)).foldl (fun f k => f ||| (g k).2) 0) := by
  simp only [collectiveOut, kind, sums, List.map_map, List.foldl_map, Function.comp_def]

theorem collectiveOut_reduceScatter (kind : cmdKind c.word = 1) {rank : Nat} (hr : commRank (collectiveComm s c) = rank)
    (whole : cmdCount c.desc % xs.length = 0) (inside : rank < xs.length) : collectiveOut s c xs =
    ((List.range (cmdCount c.desc / xs.length)).map (fun k => (g (cmdCount c.desc / xs.length * rank + k)).1),
      (List.range (cmdCount c.desc)).foldl (fun f k => f ||| (g k).2) 0) := by
  have total : cmdCount c.desc = cmdCount c.desc / xs.length * xs.length := (Nat.div_mul_cancel (Nat.dvd_of_mod_eq_zero whole)).symm
  have room : cmdCount c.desc / xs.length * rank + cmdCount c.desc / xs.length ≤ cmdCount c.desc := by
    calc cmdCount c.desc / xs.length * rank + cmdCount c.desc / xs.length
        = cmdCount c.desc / xs.length * (rank + 1) := (Nat.mul_succ ..).symm
      _ ≤ cmdCount c.desc / xs.length * xs.length := Nat.mul_le_mul_left _ inside
      _ = cmdCount c.desc := total.symm
  simp only [collectiveOut, kind, hr, sums, List.map_map, List.foldl_map]
  refine Prod.ext (List.ext_getElem ?_ fun k _ _ => ?_) rfl
  · simp only [List.length_take, List.length_drop, List.length_map, List.length_range]
    omega
  · simp

end Sums

theorem collectiveOut_allGather (kind : cmdKind c.word = 2) : collectiveOut s c xs =
    (xs.flatMap fun x => (List.range (cmdCount c.desc)).map fun k => x.getD k 0, 0) := by
  simp only [collectiveOut, kind]

theorem collectiveOut_broadcast (kind : cmdKind c.word = 3) : collectiveOut s c xs =
    ((List.range (cmdCount c.desc)).map fun k => (xs.getD (descWord c.desc 5).toNat []).getD k 0, 0) := by
  simp only [collectiveOut, kind]

end Sys2Proof.Machine
end

section
-- One proof is elaborated at a time: the check bounds the threads of the whole text.
set_option Elab.async false
/-! SUPPORT for O48: the bytes of an expanded block (R260, R271). -/

namespace Sys2Proof.Machine

/-! ### Rows of equal length -/

section Rows

variable {α : Type} {f : Nat → List α} {n z : Nat} (rows : ∀ k, k < n → (f k).length = z)
include rows

theorem flatMap_rows_length : ((List.range n).flatMap f).length = z * n := by
  induction n with
  | zero => rfl
  | succ n ih =>
    rw [List.range_succ, List.flatMap_append, List.length_append, ih fun k hk => rows k (by omega), List.flatMap_singleton,
      rows n (Nat.lt_succ_self n), Nat.mul_succ]

theorem flatMap_rows_getElem? {k i : Nat} (hk : k < n) (hi : i < z) : ((List.range n).flatMap f)[z * k + i]? = (f k)[i]? := by
  induction n with
  | zero => exact absurd hk (Nat.not_lt_zero k)
  | succ n ih =>
    have before : ((List.range n).flatMap f).length = z * n := flatMap_rows_length fun j hj => rows j (by omega)
    rw [List.range_succ, List.flatMap_append, List.flatMap_singleton]
    rcases Nat.lt_succ_iff_lt_or_eq.1 hk with inside | rfl
    · have room : z * (k + 1) ≤ z * n := Nat.mul_le_mul_left z inside
      rw [List.getElem?_append_left (by rw [before]; rw [Nat.mul_succ] at room; omega), ih (fun j hj => rows j (by omega)) inside]
    · rw [List.getElem?_append_right (by omega), before, Nat.add_sub_cancel_left]

end Rows

/-- Fewer than n entries stand before the first that is marked, exactly when one of the first n is marked. -/
theorem takeWhile_length_lt_iff {α : Type} (p : α → Bool) {xs : List α} {n : Nat} (hn : n ≤ xs.length) :
    (xs.takeWhile fun b => !p b).length < n ↔ ∃ k, k < n ∧ (xs[k]?).any p = true := by
  induction xs generalizing n with
  | nil => simp_all
  | cons a xs ih =>
    cases n with
    | zero => simp
    | succ n =>
      cases ha : p a with
      | true => exact iff_of_true (by simp [ha]) ⟨0, Nat.succ_pos n, by simp [ha]⟩
      | false =>
        rw [List.takeWhile_cons_of_pos (by simp [ha]), List.length_cons, Nat.succ_lt_succ_iff, ih (Nat.le_of_succ_le_succ hn)]
        constructor
        · rintro ⟨k, hk, marked⟩
          exact ⟨k + 1, Nat.succ_lt_succ hk, by simpa using marked⟩
        · rintro ⟨_ | k, hk, marked⟩
          · simp [ha] at marked
          · exact ⟨k, Nat.lt_of_succ_lt_succ hk, by simpa using marked⟩

/-! ### The zero-mask mode -/

variable {h : BaleHeader} {payload : List (Byte × Bool)}

/-- The mask of a zero-mask payload, and whether a byte of it is poisoned. -/
def baleMask (payload : List (Byte × Bool)) : Nat := leNat ((payload.take 16).map (·.1))
def maskPoison (payload : List (Byte × Bool)) : Bool := (payload.take 16).any (·.2)

/-- Sector k of the block that a zero-mask payload gives. -/
def maskRow (payload : List (Byte × Bool)) (k : Nat) : List (Byte × Bool) :=
  if (baleMask payload).testBit k then
    ((payload.drop (32 * (1 + popCount k (baleMask payload)))).take 32).map fun b => (b.1, b.2 || maskPoison payload)
  else List.replicate 32 (0, maskPoison payload)

theorem field_one_iff (x k : Nat) : field x k 1 = 1 ↔ x.testBit k = true := by simp [field, Nat.testBit_eq_decide_div_mod_eq]

theorem expandBlock_plain (hm : h.mode = 0) : expandBlock h payload = payload := by simp only [expandBlock, hm]

theorem expandBlock_masked (hm : h.mode = 1) : expandBlock h payload = (List.range 128).flatMap (maskRow payload) := by
  simp only [expandBlock, hm, field_one_iff]
  rfl

theorem popCount_lt {x k n : Nat} (hk : k < n) (set : x.testBit k = true) : popCount k x + 1 ≤ popCount n x := by
  have step : popCount (k + 1) x = popCount k x + 1 := by
    simp [popCount_eq_length, List.range_succ, List.filter_append, set]
  rw [← step, popCount_eq_length, popCount_eq_length]
  exact ((List.range_sublist.2 hk).filter _).length_le

/-- The header and the mask of a zero-mask block leave room for every sector that the mask names. -/
theorem maskRow_length (stored : payload.length = 32 * h.sectors) (hm : h.mode = 1) (fit : maskFits h payload = true)
    {k : Nat} (hk : k < 128) : (maskRow payload k).length = 32 := by
  have sectors : h.sectors = 1 + popCount 128 (baleMask payload) := by simpa [maskFits, hm, maskSectors, baleMask] using fit
  unfold maskRow
  split
  · next set =>
    have room := popCount_lt hk set
    simp only [List.length_map, List.length_take, List.length_drop]
    omega
  · simp

theorem maskRow_getElem? (payload : List (Byte × Bool)) (k : Nat) {i : Nat} (hi : i < 32) : (maskRow payload k)[i]? =
    if (baleMask payload).testBit k = true then
      (payload[32 * (1 + ((List.range k).filter fun j => (baleMask payload).testBit j).length) + i]?).map fun b => (b.1, b.2 || maskPoison payload)
    else some (0, maskPoison payload) := by
  unfold maskRow
  split
  · rw [List.getElem?_map, List.getElem?_take_of_lt hi, List.getElem?_drop, popCount_eq_length]
  · rw [List.getElem?_replicate_of_lt hi]

/-! ### The log-delta mode -/

/-- Delta j + 1 of a log-delta payload. -/
def baleDelta (h : BaleHeader) (bits j : Nat) : Nat := field bits (8 * baleElement h + j * h.param) h.param

/-- Element j of a log-delta payload: the running sum of the deltas. -/
def deltaSum (h : BaleHeader) (bits : Nat) : Nat → Nat
  | 0 => field bits 0 (8 * baleElement h)
  | j + 1 => (deltaSum h bits j + wrapInt (8 * baleElement h) (signed h.param (baleDelta h bits j))) % 2 ^ (8 * baleElement h)

theorem logDelta_eq (h : BaleHeader) (bits : Nat) :
    logDelta h bits = (List.range (4096 / baleElement h)).flatMap fun j => leBytes (baleElement h) (deltaSum h bits j) := by
  have runs (n : Nat) : (List.range n).foldl (fun (acc : Nat × List Byte) j =>
      let v := if j = 0 then field bits 0 (8 * baleElement h)
        else (acc.1 + wrapInt (8 * baleElement h) (signed h.param (baleDelta h bits (j - 1)))) % 2 ^ (8 * baleElement h)
      (v, acc.2 ++ leBytes (baleElement h) v)) (0, [])
      = (if n = 0 then 0 else deltaSum h bits (n - 1), (List.range n).flatMap fun j => leBytes (baleElement h) (deltaSum h bits j)) := by
    induction n with
    | zero => rfl
    | succ n ih =>
      rw [List.range_succ, List.foldl_append, ih, List.flatMap_append, List.flatMap_singleton]
      cases n <;> simp [deltaSum]
  exact congrArg Prod.snd (runs (4096 / baleElement h))

theorem deltaSum_succ (h : BaleHeader) (bits j : Nat) : (deltaSum h bits (j + 1) : Int) =
    (deltaSum h bits j + (if baleDelta h bits j < 2 ^ (h.param - 1) then (baleDelta h bits j : Int)
      else baleDelta h bits j - (2 ^ h.param : Nat))) % 2 ^ (8 * baleElement h) := by
  have small : baleDelta h bits j % 2 ^ h.param = baleDelta h bits j := Nat.mod_mod ..
  have wrapped (x : Int) : (wrapInt (8 * baleElement h) x : Int) = x % 2 ^ (8 * baleElement h) := by
    rw [wrapInt, Int.toNat_of_nonneg (Int.emod_nonneg _ (by positivity))]
    push_cast
    rfl
  rw [deltaSum, Int.natCast_emod, Int.natCast_add, wrapped, signed, small]
  push_cast
  rw [Int.add_emod_emod]

/-- What R271 asks of the header of a log-delta block. -/
theorem BaleHeader.formed_delta (hf : h.formed = true) (hm : h.mode = 2) :
    h.sectors = (8 * baleElement h + (4096 / baleElement h - 1) * h.param + 255) / 256 := by
  simp only [BaleHeader.formed, hm, Bool.and_eq_true, beq_iff_eq] at hf
  exact hf.2.2

theorem expandBlock_delta (hm : h.mode = 2) : expandBlock h payload = (logDelta h (leNat (payload.map (·.1)))).zipIdx.map fun b =>
    (b.1, decide ((payload.takeWhile fun b => !b.2).length < deltaBytes h (b.2 / baleElement h))) := by
  simp only [expandBlock, hm]

theorem baleElement_pos (h : BaleHeader) : 0 < baleElement h := by unfold baleElement; split <;> omega

theorem baleElement_fills (h : BaleHeader) : baleElement h * (4096 / baleElement h) = 4096 := by unfold baleElement; split <;> rfl

theorem expandBlock_delta_length (hm : h.mode = 2) : (expandBlock h payload).length = 4096 := by
  rw [expandBlock_delta hm, List.length_map, List.length_zipIdx, logDelta_eq, elements_length, baleElement_fills]

/-- Byte i of element j of a log-delta block, with the poison of the bytes from which it derives. -/
theorem expandBlock_delta_getElem? (hf : h.formed = true) (stored : payload.length = 32 * h.sectors)
    (hm : h.mode = 2) {i j : Nat} (hj : j < 4096 / baleElement h) (hi : i < baleElement h) :
    ∃ bad, (expandBlock h payload)[baleElement h * j + i]? = some (BitVec.ofNat 8 (deltaSum h (leNat (payload.map (·.1))) j / 2 ^ (8 * i)), bad)
      ∧ (bad = true ↔ ∃ k, 8 * k < 8 * baleElement h + j * h.param ∧ (payload[k]?).any (·.2) = true) := by
  have before : baleElement h * (j + 1) ≤ baleElement h * (4096 / baleElement h) := Nat.mul_le_mul_left _ hj
  have index : baleElement h * j + i < baleElement h * (4096 / baleElement h) := by rw [Nat.mul_succ] at before; omega
  have element : (baleElement h * j + i) / baleElement h = j := by
    rw [Nat.mul_add_div (baleElement_pos h), Nat.div_eq_of_lt hi, Nat.add_zero]
  have byte : (baleElement h * j + i) % baleElement h = i := by rw [Nat.mul_add_mod, Nat.mod_eq_of_lt hi]
  have last : j * h.param ≤ (4096 / baleElement h - 1) * h.param := Nat.mul_le_mul_right _ (by omega)
  have inside : deltaBytes h j ≤ payload.length := by
    rw [stored, BaleHeader.formed_delta hf hm, deltaBytes]
    omega
  refine ⟨decide ((payload.takeWhile fun b => !b.2).length < deltaBytes h j), ?_, ?_⟩
  · rw [expandBlock_delta hm, List.getElem?_map, List.getElem?_zipIdx, logDelta_eq, elements_getElem? _ index, element, byte]
    simp only [Option.map_some, Nat.zero_add, element]
  · rw [decide_eq_true_iff, takeWhile_length_lt_iff _ inside]
    refine exists_congr fun k => and_congr_left fun _ => ?_
    rw [deltaBytes]
    omega

end Sys2Proof.Machine
end

section
-- One proof is elaborated at a time: the check bounds the threads of the whole text.
set_option Elab.async false
/-! SUPPORT for O48: the conversions of single elements (R267). -/

namespace Sys2Proof.Machine

variable {s : State} {c : Command} {k : Rounding} {a b m : LnFmt}

theorem commandRounding_eq {l : Launch} (hl : s.launch? c.launch = some l) (i : Nat) :
    let mode := if cmdField c.word 24 3 = 7 then (s.amr c.ctx).toNat % 8 else cmdField c.word 24 3
    commandRounding s c i = { mode := mode, inf := !(s.amr c.ctx).getLsbD 3, flush := !(s.amr c.ctx).getLsbD 4, r := if mode = 4 then
      ((counterHash (BitVec.ofNat 32 i) c.sseq (BitVec.ofNat 32 (c.wordIx % 2 ^ 24 + (lowestLane c.lanes).getD 0 * 2 ^ 24 + 3 * 2 ^ 30))
        c.workId l.k0 l.k1).headD 0).toNat else 0 } := by
  have low : ((s.amr c.ctx).extractLsb' 0 3).toNat = (s.amr c.ctx).toNat % 8 := by simp [BitVec.extractLsb'_toNat]
  simp only [commandRounding, commandMode, hl, low]

/-! ### LN elements -/

/-- A finite value that a code has lies in the range of its format. -/
theorem log_of_lnVal {code : Nat} {neg : Bool} {l : Int} (h : lnVal m code = .fin neg l) : -(2 ^ (m.log - 1)) ≤ l ∧ l < 2 ^ (m.log - 1) := by
  simp only [lnVal] at h
  split at h
  · obtain ⟨-, rfl⟩ := LnVal.fin.inj h
    rw [signed]
    have small := Nat.mod_lt (field code 0 m.log) (Nat.two_pow_pos m.log)
    cases m <;> simp only [LnFmt.log] at small ⊢ <;> split_ifs <;> omega
  · split at h
    · cases h
    · split at h <;> cases h

/-- Zero bits below a remainder do not change how it rounds. -/
theorem roundsUp_scale (k : Rounding) (neg : Bool) (lo : Int) (rem w e : Nat) :
    roundsUp k neg lo (rem * 2 ^ e) (w + e) = roundsUp k neg lo rem w := by
  have positive := Nat.two_pow_pos e
  have zero : rem * 2 ^ e = 0 ↔ rem = 0 := by simp
  have above : 2 ^ (w + e) < 2 * (rem * 2 ^ e) ↔ 2 ^ w < 2 * rem := by
    rw [Nat.pow_add, ← Nat.mul_assoc, Nat.mul_lt_mul_right positive]
  have half : 2 * (rem * 2 ^ e) = 2 ^ (w + e) ↔ 2 * rem = 2 ^ w := by
    rw [Nat.pow_add, ← Nat.mul_assoc, Nat.mul_left_inj positive.ne']
  have first : rem * 2 ^ e * 2 ^ 32 / 2 ^ (w + e) = rem * 2 ^ 32 / 2 ^ w := by
    rw [Nat.pow_add, Nat.mul_right_comm, Nat.mul_div_mul_right _ _ positive]
  simp only [roundsUp, zero, above, half, first]

theorem roundPack_scale (m : LnFmt) (k : Rounding) (neg : Bool) (l : Int) (w e : Nat) :
    roundPack m k neg (l * 2 ^ e) (w + e) = roundPack m k neg l w := by
  have power (n : Nat) : ((2 ^ n : Nat) : Int) = 2 ^ n := by push_cast; rfl
  have positive : (0 : Int) < 2 ^ e := by positivity
  have quotient : l * 2 ^ e / 2 ^ (w + e) = l / 2 ^ w := by rw [pow_add, Int.mul_ediv_mul_of_pos_left _ _ positive]
  have remainder : (l * 2 ^ e % 2 ^ (w + e)).toNat = (l % 2 ^ w).toNat * 2 ^ e := by
    have whole : (2 ^ e : Int).toNat = 2 ^ e := by rw [← power, Int.toNat_natCast]
    rw [pow_add, Int.mul_comm l, Int.mul_comm (2 ^ w), Int.mul_emod_mul_of_pos _ _ positive, Int.mul_comm,
      Int.toNat_mul (Int.emod_nonneg _ (by positivity)) positive.le, whole]
  simp only [roundPack, power, quotient, remainder, roundsUp_scale]

theorem lnFinish_whole (m : LnFmt) (k : Rounding) (neg : Bool) (l : Int) : lnFinish m k neg (l * 2 ^ (40 - m.frac)) = rangeCheck m k neg l := by
  rw [lnFinish_eq]
  cases m with
  | ln8 =>
    have dropped : l * 2 ^ (40 - LnFmt.ln8.frac) / 2 ^ 5 = l * 2 ^ 32 := by simp only [LnFmt.frac]; omega
    rw [dropped, roundPack_whole]
  | ln16 => exact roundPack_whole .ln16 k neg l 31
  | ln32 => exact roundPack_whole .ln32 k neg l 18

/-- A log of no more fraction bits than the format's stands as it is. -/
theorem lnFinish_widens (h : a.frac ≤ b.frac) (neg : Bool) {l : Int} (lo : -(2 ^ (a.log - 1)) ≤ l) (hi : l < 2 ^ (a.log - 1)) :
    lnFinish b k neg (l * 2 ^ (40 - a.frac)) = (.fin neg (l * 2 ^ (b.frac - a.frac)), 0) := by
  have split : l * 2 ^ (40 - a.frac) = l * 2 ^ (b.frac - a.frac) * 2 ^ (40 - b.frac) := by
    have most : b.frac ≤ 40 := by cases b <;> decide
    rw [Int.mul_assoc, ← pow_add, show b.frac - a.frac + (40 - b.frac) = 40 - a.frac by omega]
  rw [split, lnFinish_whole]
  refine rangeCheck_inside ?_ ?_ <;> cases a <;> cases b <;> simp_all [LnFmt.log, LnFmt.frac] <;> omega

/-- A log of more fraction bits is rounded. -/
theorem lnFinish_narrows (h : b.frac < a.frac) (neg : Bool) (l : Int) :
    lnFinish b k neg (l * 2 ^ (40 - a.frac)) = roundPack b k neg l (a.frac - b.frac) := by
  rw [lnFinish_eq]
  cases b with
  | ln8 =>
    cases a with
    | ln8 => exact absurd h (by decide)
    | ln16 =>
      have dropped : l * 2 ^ (40 - LnFmt.ln16.frac) / 2 ^ 5 = l * 2 ^ 26 := by simp only [LnFmt.frac]; omega
      rw [dropped]
      exact roundPack_scale .ln8 k neg l 6 26
    | ln32 =>
      have dropped : l * 2 ^ (40 - LnFmt.ln32.frac) / 2 ^ 5 = l * 2 ^ 13 := by simp only [LnFmt.frac]; omega
      rw [dropped]
      exact roundPack_scale .ln8 k neg l 19 13
  | ln16 =>
    cases a with
    | ln8 | ln16 => exact absurd h (by decide)
    | ln32 => exact roundPack_scale .ln16 k neg l 13 18
  | ln32 => exact absurd h (by cases a <;> decide)

/-- The element of a value, a NaN with its flags. -/
def lnElem (m : LnFmt) (fl : BitVec 9) : LnVal → Elem
  | .nan => .nan fl
  | .inf neg => .inf neg
  | .zero neg => .zero neg
  | .fin neg l => .ln neg l m.frac

theorem elemToLn_lnElem (k : Rounding) {code : Nat} :
    elemToLn b k 0 (lnElem a 0 (lnVal a code)) = (lnCode b (lnConvert a b k (lnVal a code)).1, (lnConvert a b k (lnVal a code)).2) := by
  cases hv : lnVal a code with
  | fin neg l =>
    obtain ⟨lo, hi⟩ := log_of_lnVal hv
    have power : ((2 ^ (40 - a.frac) : Nat) : Int) = 2 ^ (40 - a.frac) := by push_cast; rfl
    simp only [lnElem, elemToLn, power, Int.zero_mul, Int.add_zero]
    rcases Nat.lt_or_ge b.frac a.frac with narrows | widens
    · simp only [lnFinish_narrows narrows, lnConvert, Nat.not_le.2 narrows, if_false, narrows, decide_true, Bool.true_and]
    · simp [lnFinish_widens widens neg lo hi, lnConvert, widens, Nat.not_lt.2 widens, flagIf]
  | _ => rfl

theorem elemToIeee_lnElem (t : IeeeFmt) (k : Rounding) (flush : Bool) (v : LnVal) :
    elemToIeee t k flush 0 (lnElem a 0 v) = lnToIeee t a k flush v := by
  cases v <;> rfl

/-- The formats of codes 1 to 3. -/
theorem readElem_ln {x : Nat} (hx : (x, a) ∈ [(1, LnFmt.ln8), (2, .ln16), (3, .ln32)]) (flush : Bool) (code : Nat) :
    readElem x flush code = lnElem a 0 (lnVal a code) := by
  simp only [List.mem_cons, Prod.mk.injEq, List.not_mem_nil, or_false] at hx
  rcases hx with ⟨rfl, rfl⟩ | ⟨rfl, rfl⟩ | ⟨rfl, rfl⟩ <;> rfl

theorem elemToPlain_ln {y : Nat} (hy : (y, b) ∈ [(1, LnFmt.ln8), (2, .ln16), (3, .ln32)]) (k : Rounding) (flush : Bool)
    (off : Int) (e : Elem) : elemToPlain y k flush off e = elemToLn b k off e := by
  simp only [List.mem_cons, Prod.mk.injEq, List.not_mem_nil, or_false] at hy
  rcases hy with ⟨rfl, rfl⟩ | ⟨rfl, rfl⟩ | ⟨rfl, rfl⟩ <;> rfl

/-! ### IEEE elements -/

/-- The element of an IEEE encoding. -/
def ieeeElem (t : IeeeFmt) (flush : Bool) (code : Nat) : Elem :=
  let body := field code 0 (t.bits - 1)
  if t.infinity < body then .nan (flCV ||| flagIf (!(body.testBit (t.p - 2))) flIV)
  else if body = t.infinity then .inf (field code (t.bits - 1) 1 = 1)
  else elemFloat t.p t.emax flush (field code (t.bits - 1) 1 = 1) body

/-- The formats of codes 5 to 8. -/
theorem readElem_ieee {x t : Nat} (hx : (x, t) ∈ [(5, 0), (6, 1), (7, 2), (8, 3)]) (flush : Bool) (code : Nat) :
    readElem x flush code = ieeeElem (ieeeFmt t) flush code := by
  simp only [List.mem_cons, Prod.mk.injEq, List.not_mem_nil, or_false] at hx
  rcases hx with ⟨rfl, rfl⟩ | ⟨rfl, rfl⟩ | ⟨rfl, rfl⟩ | ⟨rfl, rfl⟩ <;> rfl

theorem elemToPlain_ieee {y t : Nat} (hy : (y, t) ∈ [(5, 0), (6, 1), (7, 2), (8, 3)]) (k : Rounding) (flush : Bool) (off : Int) (e : Elem) :
    elemToPlain y k flush off e = elemToIeee (ieeeFmt t) k flush off e := by
  simp only [List.mem_cons, Prod.mk.injEq, List.not_mem_nil, or_false] at hy
  rcases hy with ⟨rfl, rfl⟩ | ⟨rfl, rfl⟩ | ⟨rfl, rfl⟩ | ⟨rfl, rfl⟩ <;> rfl

theorem elemToLn_ieeeElem {t : IeeeFmt} (ht : 2 ≤ t.p) (k : Rounding) (flush : Bool) (code : Nat) : elemToLn b k 0 (ieeeElem t flush code) =
    (lnCode b (ieeeToLn t b k flush code).1, (ieeeToLn t b k flush code).2) := by
  have quiet (body : Nat) : (body % 2 ^ (t.p - 1)).testBit (t.p - 2) = body.testBit (t.p - 2) := by
    rw [Nat.testBit_mod_two_pow, decide_eq_true (by omega), Bool.true_and]
  simp only [ieeeElem, ieeeToLn, quiet, elemFloat]
  split
  · rfl
  · split
    · rfl
    · by_cases zero : field code 0 (t.bits - 1) = 0
      · simp [zero, elemToLn]
      · by_cases tiny : field code 0 (t.bits - 1) / 2 ^ (t.p - 1) = 0
        · cases flush <;> simp [zero, tiny, elemToLn, IeeeFmt.emin]
        · simp [zero, tiny, elemToLn]

end Sys2Proof.Machine
end

section
-- One proof is elaborated at a time: the check bounds the threads of the whole text.
set_option Elab.async false
/-! SUPPORT for O48: the block formats (R268 to R270). -/

namespace Sys2Proof.Machine

variable {k : Rounding} {f : Nat} {emax off : Int} {es : List Elem} {flush neg : Bool}

/-! ### The scale of a block (R270) -/

/-- floor(log2) of an element's magnitude, for a number of at most 128 bits. -/
theorem Elem.exponent_eq_some {e : Elem} {g : Int} (fits : ∀ neg m b, e = Elem.num neg m b → 0 < m ∧ m < 2 ^ 128) :
    e.exponent off = some g ↔
    (∃ neg l b, e = .ln neg l b ∧ g = l / 2 ^ b + off) ∨ ∃ neg m b, e = .num neg m b ∧ g = (Nat.log2 m : Int) - b + off := by
  cases e with
  | ln neg l b => simp [Elem.exponent, eq_comm]
  | num neg m b =>
    obtain ⟨positive, small⟩ := fits neg m b rfl
    have highest : Nat.log2 m < 128 := (Nat.log2_lt positive.ne').2 small
    have bits : (bitLength 128 m : Int) - 1 = Nat.log2 m := by
      rw [bitLength_eq highest (Nat.log2_self_le positive.ne') Nat.lt_log2_self]
      push_cast
      omega
    simp [Elem.exponent, bits, eq_comm]
  | _ => simp [Elem.exponent]

theorem Elem.isNan_iff {e : Elem} : e.isNan = true ↔ ∃ fs, e = .nan fs := by cases e <;> simp [Elem.isNan]

theorem any_isNan_iff : es.any Elem.isNan = true ↔ ∃ e ∈ es, ∃ fs, e = .nan fs := by simp only [List.any_eq_true, Elem.isNan_iff]

theorem blockScale_nan (h : ∃ e ∈ es, ∃ fs, e = Elem.nan fs) : blockScale f off es = 255 := if_pos (any_isNan_iff.2 h)

section Finite

variable (finite : ∀ e ∈ es, ¬∃ fs, e = Elem.nan fs)
include finite

theorem blockScale_eq : blockScale f off es = match (es.filterMap (Elem.exponent off)).max? with
    | none => 127
    | some g => (max 0 (min 254 (g - blockEmax f + 127))).toNat :=
  if_neg fun h => by
    obtain ⟨e, he, nan⟩ := any_isNan_iff.1 h
    exact finite e he nan

theorem blockScale_zero (h : ∀ e ∈ es, ∀ g, e.exponent off ≠ some g) : blockScale f off es = 127 := by
  have empty : es.filterMap (Elem.exponent off) = [] :=
    List.filterMap_eq_nil_iff.2 fun e he => Option.eq_none_iff_forall_ne_some.2 (h e he)
  rw [blockScale_eq finite, empty]
  rfl

theorem blockScale_greatest {g : Int} (reached : ∃ e ∈ es, e.exponent off = some g)
    (greatest : ∀ e ∈ es, ∀ h, e.exponent off = some h → h ≤ g) :
    (blockScale f off es : Int) = max 0 (min 254 (g - blockEmax f + 127)) := by
  have top : (es.filterMap (Elem.exponent off)).max? = some g := by
    rw [List.max?_eq_some_iff]
    simp only [List.mem_filterMap]
    exact ⟨reached, fun h ⟨e, he, hh⟩ => greatest e he h hh⟩
  rw [blockScale_eq finite, top]
  exact Int.toNat_of_nonneg (le_max_left ..)

end Finite

theorem blockEmax_eq (h : (f, emax) ∈ [(4, (3 : Int)), (9, 8), (10, 15), (11, 4), (12, 2), (13, 2), (14, 0)]) : blockEmax f = emax := by
  simp only [List.mem_cons, Prod.mk.injEq, List.not_mem_nil, or_false] at h
  rcases h with ⟨rfl, rfl⟩ | ⟨rfl, rfl⟩ | ⟨rfl, rfl⟩ | ⟨rfl, rfl⟩ | ⟨rfl, rfl⟩ | ⟨rfl, rfl⟩ | ⟨rfl, rfl⟩ <;> rfl

/-! ### The codes of a block (R265, R270) -/

theorem blockCodes_scaled (r : Nat → Rounding) (h : blockScale f off es ≠ 255) :
    let one := fun e : Elem × Nat => elemToBlock f (r e.2) flush (off - ((blockScale f off es : Int) - 127)) e.1
    blockCodes f r flush off es = (es.zipIdx.map fun e => (one e).1, es.zipIdx.foldl (fun fs e => fs ||| (one e).2) 0) := by
  simp only [blockCodes, if_neg h, List.map_map, List.foldl_map, Function.comp_def, List.zipIdx_eq_zip_range', List.range_eq_range']

theorem copyBits_pos (f : Nat) : 0 < copyBits f := by unfold copyBits; split <;> decide

/-- A sum of codes at their places is the number of which they are the digits. -/
theorem foldl_places_eq (w : Nat) (codes : List Nat) (i n : Nat) : (codes.zipIdx i).foldl (fun n x => n + x.1 * 2 ^ (w * x.2)) n =
    n + 2 ^ (w * i) * Nat.ofDigits (2 ^ w) codes := by
  induction codes generalizing i n with
  | nil => simp
  | cons v codes ih =>
    rw [List.zipIdx_cons, List.foldl_cons, ih, Nat.ofDigits_cons, Nat.mul_succ, Nat.pow_add]
    ring

theorem packBlock_eq (f : Nat) (codes : List Nat) : packBlock f codes = leBytes (4 * copyBits f) (Nat.ofDigits (2 ^ copyBits f) codes) := by
  rw [packBlock, List.range_eq_range', ← List.zipIdx_eq_zip_range', foldl_places_eq, Nat.mul_zero, Nat.pow_zero, Nat.one_mul, Nat.zero_add]
  rfl

theorem ofDigits_digit {b : Nat} {digits : List Nat} (small : ∀ v ∈ digits, v < b) {j : Nat} (hj : j < digits.length) :
    digits[j]? = some (Nat.ofDigits b digits / b ^ j % b) := by
  have first : digits[j] < b := small _ (List.getElem_mem hj)
  rw [Nat.ofDigits_div_pow_eq_ofDigits_drop j (Nat.zero_lt_of_lt first) digits small, List.drop_eq_getElem_cons hj, Nat.ofDigits_cons,
    Nat.add_mul_mod_self_left, Nat.mod_eq_of_lt first, List.getElem?_eq_getElem hj]

/-- Code j of a block of 32 codes. -/
theorem packBlock_digit {codes : List Nat} (full : codes.length = 32) (small : ∀ v ∈ codes, v < 2 ^ copyBits f) {j : Nat}
    (hj : j < 32) : codes[j]? = some (leNat (packBlock f codes) / 2 ^ (copyBits f * j) % 2 ^ copyBits f) := by
  have inside : Nat.ofDigits (2 ^ copyBits f) codes < 256 ^ (4 * copyBits f) := by
    refine (Nat.ofDigits_lt_base_pow_length (Nat.one_lt_two_pow (copyBits_pos f).ne') small).trans_eq ?_
    rw [full, ← Nat.pow_mul, show (256 : Nat) = 2 ^ 8 from rfl, ← Nat.pow_mul]
    congr 1
    omega
  rw [packBlock_eq, leNat_leBytes, Nat.mod_eq_of_lt inside, Nat.pow_mul]
  exact ofDigits_digit small (full ▸ hj)

/-! ### The elements of a block (R270) -/

/-- An element of LB8 rounds as one of LN8, and overflows to the largest finite code (log entry 87, DEDUCED). -/
theorem elemToBlock_lb8 (k : Rounding) (flush neg : Bool) (l : Int) (b : Nat) (off : Int) :
    let r := lnFinish .ln8 { k with inf := false } neg (l * (2 ^ (40 - b) : Nat) + off * 2 ^ 40)
    elemToBlock 4 k flush off (.ln neg l b) =
      (lnCode .ln8 r.1, r.2 ||| (if LnFmt.ln8.frac < b ∧ l % (2 ^ (b - LnFmt.ln8.frac) : Nat) ≠ 0 ∨ r.2 ≠ 0 then flIX else 0)) := by
  intro r
  rw [← flagIf_eq_ite (c := (decide (LnFmt.ln8.frac < b) && l % (2 ^ (b - LnFmt.ln8.frac) : Nat) != 0) || r.2 != 0) (by simp)]
  rfl

/-- The formats of codes 9 to 13 with the precision, the bias and the largest finite encoding of R268. -/
def mxRows : List (Nat × Nat × Nat × Nat) :=
  [(9, 4, 7, 0x7E), (10, 3, 15, 0x7B), (11, 3, 3, 0x1F), (12, 4, 1, 0x1F), (13, 2, 1, 0x7)]

theorem mxRows_fmt {p bias largest : Nat} (h : (f, p, bias, largest) ∈ mxRows) :
    f ≠ 4 ∧ f ≠ 14 ∧ (mxFmt f).p = p ∧ (mxFmt f).bias = bias ∧ (mxFmt f).largest = largest := by
  simp only [mxRows, List.mem_cons, Prod.mk.injEq, List.not_mem_nil, or_false] at h
  rcases h with ⟨rfl, rfl, rfl, rfl⟩ | ⟨rfl, rfl, rfl, rfl⟩ | ⟨rfl, rfl, rfl, rfl⟩ |
    ⟨rfl, rfl, rfl, rfl⟩ | ⟨rfl, rfl, rfl, rfl⟩ <;>
    exact ⟨by decide, by decide, rfl, rfl, rfl⟩

/-- The sign of an element of a block. -/
def blockSign (f : Nat) (neg : Bool) : Nat := if neg then 2 ^ (copyBits f - 1) else 0

theorem blockSign_eq (f : Nat) (neg : Bool) : neg.toNat * 2 ^ (copyBits f - 1) = blockSign f neg := by
  cases neg
  · exact Nat.zero_mul _
  · exact Nat.one_mul _

section Mx

variable {p bias largest : Nat} (row : (f, p, bias, largest) ∈ mxRows)
include row

theorem elemToBlock_mx (k : Rounding) (flush : Bool) (off : Int) (e : Elem) : elemToBlock f k flush off e = elemToMx f k flush off e := by
  obtain ⟨lb8, int8, -⟩ := mxRows_fmt row
  rw [elemToBlock, if_neg lb8, if_neg int8]

theorem elemToBlock_mxZero : elemToBlock f k flush off (.zero neg) = (blockSign f neg, 0) := by
  simp only [elemToBlock_mx row, elemToMx, blockSign_eq]

theorem elemToBlock_mxInf : elemToBlock f k flush off (.inf neg) =
    if f = 10 then (blockSign f neg + 0x7C, 0) else (blockSign f neg + largest, flOV ||| flIX) := by
  obtain ⟨-, -, -, -, rfl⟩ := mxRows_fmt row
  simp only [elemToBlock_mx row, elemToMx, blockSign_eq]

/-- A finite element of an MX float, with the rounding g of a magnitude. -/
theorem elemToBlock_mxFinite {g : Nat → Int → Nat × Nat} (hg : ∀ v z, roundInt k neg v z = g v z)
    (flush : Bool) (l : Int) (b : Nat) (off : Int) :
    let parts := lnParts b l
    let y := if parts.1 = 2 ^ 41 then 2 ^ 40 else parts.1
    let e := (if parts.1 = 2 ^ 41 then parts.2.1 + 1 else parts.2.1) + off
    let emin : Int := 1 - (bias : Nat)
    let r := g y (40 - ((p : Nat) - 1) + max e emin - e)
    let enc := ((max e emin + (bias : Nat) - 1) * 2 ^ (p - 1) + r.1).toNat
    elemToBlock f k flush off (.ln neg l b) =
      if e < emin ∧ flush = true then (blockSign f neg, flUN ||| flIX)
      else if largest + 1 ≤ enc then (blockSign f neg + (if f = 10 ∧ k.inf = true then 0x7C else largest), flOV ||| flIX)
      else (blockSign f neg + enc, if parts.2.2 ≠ 0 ∨ r.2 ≠ 0 then (if e < emin then flIX ||| flUN else flIX) else 0) := by
  have power (n : Nat) : ((2 ^ n : Nat) : Int) = 2 ^ n := by push_cast; rfl
  obtain ⟨-, -, rfl, rfl, rfl⟩ := mxRows_fmt row
  intro parts y e emin r enc
  simp only [elemToBlock_mx row, elemToMx, floatCode_eq, blockSign_eq, hg, power]
  rw [apply_ite (fun c : Nat × BitVec 9 => (blockSign f neg + c.1, c.2)), apply_ite (fun c : Nat × BitVec 9 => (blockSign f neg + c.1, c.2))]
  rfl

end Mx

/-- An element of MXINT8, with the rounding g of a magnitude. -/
theorem elemToBlock_int8 {g : Nat → Int → Nat × Nat} (hg : ∀ v z, roundInt k neg v z = g v z)
    (flush : Bool) (l : Int) (b : Nat) (off : Int) :
    let parts := lnParts b l
    let r := g parts.1 (40 - parts.2.1 - 6 - off)
    let v : Int := if neg then -(r.1 : Int) else r.1
    elemToBlock 14 k flush off (.ln neg l b) = if v < -127 then (129, flOV ||| flIX) else if 127 < v then (127, flOV ||| flIX)
      else ((v % 256).toNat, if parts.2.2 ≠ 0 ∨ r.2 ≠ 0 then flIX else 0) := by
  intro parts r v
  have start : elemToBlock 14 k flush off (.ln neg l b) = if v < -127 ∨ 127 < v then (wrapInt 8 (max (-127) (min 127 v)), flOV ||| flIX)
      else (wrapInt 8 v, flagIf (parts.2.2 != 0 || r.2 != 0) flIX) := by
    simp only [elemToBlock, elemToInt8, hg]
    rfl
  rw [start, flagIf_eq_ite (p := parts.2.2 ≠ 0 ∨ r.2 ≠ 0) (by simp)]
  by_cases low : v < -127
  · have least : max (-127) (min 127 v) = -127 := by omega
    rw [if_pos (Or.inl low), if_pos low, least]
    rfl
  · by_cases high : 127 < v
    · have most : max (-127) (min 127 v) = 127 := by omega
      rw [if_pos (Or.inr high), if_neg low, if_pos high, most]
      rfl
    · rw [if_neg (not_or.2 ⟨low, high⟩), if_neg low, if_neg high]
      rfl

end Sys2Proof.Machine
end

section
open Sys2Proof Sys2Proof.Machine

/-- Settles O48, by what each engine does with its head command: the accesses that fail, the bytes that are written, and the codes of
the elements. -/
theorem engineEvents : Obligations.EngineEvents := by
  unfold Obligations.EngineEvents
  intro s c u src dst n bound status fails copying gathering uniting sf df spans
  refine ⟨fun head kind => ⟨fun f h => copyOrConvert_fails head kind h, fun h hs hd typed => ?_, fun h untyped => ?_, fun h _ => ?_⟩,
    fun head kind => ?expanding,
    fun head kind => ⟨fun f h => gather_fails head kind h, fun h => gather_writes head kind h⟩,
    fun head kind => ⟨fun f h => scatter_fails head kind h, fun h => scatter_writes head kind h⟩,
    fun head kind wide => ⟨fun f fresh h => scatterAdd_fails head kind fresh h,
      fun l place h hl hm at_ => scatterAdd_adds head kind wide h hl hm at_⟩,
    fun head => ?collectives, ?reductions, ?blocks,
    fun typed hs hd i => convertUnit_plain hs hd i,
    fun i l hl => commandRounding_eq hl i,
    ?elements, fun f bs scale flush _ => ⟨fun h => if_pos h, fun h => if_neg h⟩, ?scales, ?codes, ?packs, ?roundings⟩
  · exact copyOrConvert_writesData head kind h (copyAll_plain hs hd typed)
  · exact copyOrConvert_writesData head kind h (copyAll_untyped untyped)
  · exact copyOrConvert_writes head kind h rfl
  case expanding =>
    intro header bale good reads touched payload
    have usable (k : Nat) : (expandHead s c k).usable = true ↔ good k := BaleHeader.usable_iff _
    have spansEq : (List.range n).flatMap (expandSpans s c) = touched :=
      congrArg (List.flatMap · (List.range n)) (funext fun k => expandSpans_eq (usable k))
    refine ⟨fun k hreads hk bad before => ?_, fun f sound failed => ?_, fun sound passes => ?_⟩
    · have unusable : (expandHead s c k).usable = false := Bool.eq_false_iff.2 fun h => bad ((usable k).1 h)
      exact expand_refuses head kind (refusedHeader_eq_some hreads hk unusable fun j hj => (usable j).2 (before j hj))
    · exact expand_fails head kind (refusedHeader_eq_none fun hreads k hk => (usable k).2 (sound hreads k hk)) (spansEq ▸ failed)
    · have taken : refusedHeader s c = none := refusedHeader_eq_none fun _ k hk => (usable k).2 (sound k hk)
      have located : spanFailure s c.accessor ((List.range (cmdCount c.desc)).flatMap (expandSpans s c)) = none := spansEq ▸ passes
      exact ⟨fun k hk misfit before => expand_misfits head kind taken located hk misfit before,
        fun fit => expand_writes head kind taken located fit⟩
  case collectives =>
    intro r element
    refine ⟨fun i k row kind => ⟨fun h => collective_differs head row kind h, fun same f h => collective_fails head row kind same h,
      fun same h xs brought => collective_writes head row kind same h brought⟩, fun h => linkError_writesNothing head (.inl h),
      fun h => linkError_writesNothing head (.inr ?_), fun xs h brought => linkError_writes head h brought,
      fun xs brought => rankElements_some brought⟩
    rcases h with h | ⟨f, h⟩
    · exact linkElements_unsent h
    · exact linkElements_failed h
  case reductions =>
    intro xs _ ranks amr rnd wide m val coded op reduced flags rank
    have ops (a b : Word) : reduceOp amr c.word a b = op a b := by
      rcases h : cmdField c.word 16 2 with _ | _ | j
      · exact (reduceOp_sum h a b rfl).trans (by simp only [op, h]; rfl)
      · exact (reduceOp_min h a b rfl).trans (by simp only [op, h]; rfl)
      · exact (reduceOp_max h a b rfl).trans (by simp only [op, h]; rfl)
    have sums : reduceElement (s.amr c.ctx) c.word (cmdCount c.desc) xs = reduced := by
      funext k
      simp only [reduceElement, ops, amr]
      rfl
    exact ⟨fun kind => collectiveOut_allReduce sums kind,
      fun kind whole inside => collectiveOut_reduceScatter sums kind rfl whole inside,
      fun kind => collectiveOut_allGather kind, fun kind => collectiveOut_broadcast kind⟩
  case blocks =>
    intro h payload hf stored out bits mask
    refine ⟨fun hm => expandBlock_plain hm, fun hm fit => ?_, fun hm => ?_⟩
    · have rows : ∀ k, k < 128 → (maskRow payload k).length = 32 := fun k hk => maskRow_length stored hm fit hk
      have split : out = (List.range 128).flatMap (maskRow payload) := expandBlock_masked hm
      rw [split]
      exact ⟨flatMap_rows_length rows, fun k i hk hi => (flatMap_rows_getElem? rows hk hi).trans (maskRow_getElem? payload k hi)⟩
    · exact ⟨expandBlock_delta_length hm, deltaSum h bits, by simp [deltaSum, field, baleElement], deltaSum_succ h bits,
        fun j i hj hi => expandBlock_delta_getElem? hf stored hm hj hi⟩
  case elements =>
    intro k fin fout x y code _ _ converted ln ieee
    refine ⟨fun a b hx hy => ?_, fun a t hx hy => ?_, fun t b hx hy => ?_⟩
    · exact (elemToPlain_ln hy ..).trans ((congrArg _ (readElem_ln hx fin code)).trans (elemToLn_lnElem k))
    · exact (elemToPlain_ieee hy ..).trans ((congrArg _ (readElem_ln hx fin code)).trans (elemToIeee_lnElem ..))
    · have precise : 2 ≤ (ieeeFmt t).p := by unfold ieeeFmt; split <;> decide
      exact (elemToPlain_ln hy ..).trans ((congrArg _ (readElem_ieee hx fin code)).trans (elemToLn_ieeeElem precise k fin code))
  case scales =>
    intro f emax off es row isNan exponent fits
    have exponents {e : Elem} (he : e ∈ es) (g : Int) : e.exponent off = some g ↔ exponent e g := Elem.exponent_eq_some (fits e he)
    refine ⟨blockScale_nan, fun finite => ⟨fun none_ => blockScale_zero finite fun e he g hg => none_ e he g ((exponents he g).1 hg),
      fun g ⟨e, he, hg⟩ greatest => ?_⟩⟩
    rw [← blockEmax_eq row]
    exact blockScale_greatest finite ⟨e, he, (exponents he g).2 hg⟩ fun e he h hh => greatest e he h ((exponents he h).1 hh)
  case codes =>
    intro f k flush off es scale one
    refine ⟨fun h => if_pos h, fun h => ?_⟩
    have coded := blockCodes_scaled (flush := flush) k h
    exact ⟨congrArg Prod.fst coded, congrArg Prod.snd coded⟩
  case packs =>
    intro f codes _ full small
    exact ⟨by rw [packBlock_eq, leBytes_length], fun j hj => packBlock_digit full small hj⟩
  case roundings =>
    intro k flush neg a l off hk _ _ e y ex u rounded b
    have rounds (v : Nat) (z : Int) : roundInt k neg v z = rounded v z := roundInt_eq hk v z
    exact ⟨elemToBlock_lb8 .., fun f p bias largest row => ⟨elemToBlock_mxZero row, elemToBlock_mxInf row,
      elemToBlock_mxFinite row rounds flush l a.frac off⟩, elemToBlock_int8 rounds flush l a.frac off⟩

end
